-- ==== Sys2Proof/Word.lean ====
section
/-! DEFINITION. The word types of the KMX1200, the sparse table type that every memory and register file of the
model is, and the small records that name an agent, a line or a payload. -/

namespace Sys2Proof

/-- One byte (00 R6). -/
abbrev Byte := BitVec 8

/-- One 32-bit value: a lane's register, or an instruction word (07 R194, 09 R226). -/
abbrev Word := BitVec 32

/-- One 64-bit value: a uniform register (07 R194). -/
abbrev DWord := BitVec 64

/-- One bit for each lane slot of a group (07 R178). -/
abbrev Lanes := BitVec 32

/-- A 128 B line as one number, byte 0 in the low bits (03 R79). -/
abbrev Line := BitVec 1024

/-- One bit for each byte of a line (03 R79). -/
abbrev LineMask := BitVec 128

/-- A sparse table: keys strictly rising, no entry equal to what an unlisted key reads as. Reading and writing
are `Tbl.get` and `Tbl.set` of `Machine/Ops.lean`. -/
abbrev Tbl (α : Type) := List (Nat × α)

/-- A byte memory: (address, byte) pairs in canonical form; an unlisted byte reads as zero. -/
abbrev Mem := Tbl Byte

/-- Names one group: the core (104 × die + 8 × physical row + physical column), the team's slot on that core
(14 R389) and the group's number in its team. -/
structure GroupRef where
  core : Nat
  slot : Nat
  grp : Nat
  deriving DecidableEq, Repr

/-- Bytes of one line with the mask that says which of them are meant. -/
structure LineBytes where
  mask : LineMask
  data : Line
  deriving DecidableEq, Repr

/-- What a line request is for: the bytes needed, under a tag (03 R80). -/
structure Want where
  tag : Nat
  need : LineMask
  deriving DecidableEq, Repr

/-- A hint to be written: the 64 KiB page, the count that reached HINTTHR, and where the page lies (06 R170). -/
structure Hint where
  vpage : Nat
  count : Nat
  src : Nat
  deriving DecidableEq, Repr

/-- The address space of a partition as a die translates it (06 R165). -/
structure Space where
  die : Nat
  part : Nat
  deriving DecidableEq, Repr

/-- One firmware image as the boot ROM and Chihoat see it (21 R455): the header's fields and the payload's digest.
`reservedZero` says that the header's reserved fields are zero. -/
structure Firmware where
  comp : BitVec 16
  svn : BitVec 16
  len : BitVec 32
  reservedZero : Bool
  digest : BitVec 256
  payload : Nat
  signature : Nat
  deriving DecidableEq, Repr

/-- A root write on its way from a die to its home (03 R85, 04 R116): the physical line, the tag (0 is the root), the
partition, the bytes, the sending die, the copy of its vector clock, and whether the bytes are poisoned (03 R99). -/
structure LineWrite where
  line : Nat
  tag : Nat
  part : Nat
  bytes : LineBytes
  die : Nat
  clock : List Nat
  psn : Bool
  deriving DecidableEq, Repr

/-- A management register that a plain write reaches (95, MGMT_REGISTER_WRITE): registers with no behaviour of their own. -/
inductive MgmtReg where
  /-- FEATEN of BAR0, word 0 to 3 (16 R425). -/
  | featen (word : Nat)
  /-- HINTTHR of a die's translation control block (06 R171). -/
  | hintThr (die : Nat)
  /-- HINTBASE (06 R171). -/
  | hintBase (die : Nat)
  /-- HINTPTR: only HEAD is firmware's (06 R171). -/
  | hintPtr (die : Nat)
  /-- PCSRC (06 R171). -/
  | pcSrc (die : Nat)
  /-- PCDST (06 R171). -/
  | pcDst (die : Nat)
  /-- THCTL of a threshold unit (14 R396). -/
  | thCtl (die unit : Nat)
  /-- THVAL of a threshold unit (14 R396). -/
  | thVal (die unit : Nat)
  /-- PRECTL of a die (15 R412). -/
  | preCtl (die : Nat)
  /-- PREACT of a core (15 R412). -/
  | preAct (core : Nat)
  /-- SLOTSRC of a core (14 R390). -/
  | slotSrc (core : Nat)
  /-- PORTST of a fabric port: DOWNEV is write-one-to-clear (16 R429). -/
  | portSt (port : Nat)
  /-- The clock step a partition is asked to take (21 R462), in units of 0.05 GHz. -/
  | clockStep (part : Nat)
  /-- An HDM decoder's window: its host base, in units of 256 MiB (16 R423). -/
  | hdmBase (decoder : Nat)
  /-- An HDM decoder's size, in units of 256 MiB (16 R423). -/
  | hdmSize (decoder : Nat)
  /-- An HDM decoder's device base DBASE, in units of 256 MiB (16 R423). -/
  | hdmDbase (decoder : Nat)
  /-- An HDM decoder's commit (16 R423, R425). -/
  | hdmCommit (decoder : Nat)
  deriving DecidableEq, Repr

/-- What the loader knows of a kernel image (09 R248, 01 R19); the image's own format is not in the specification. -/
structure KImage where
  codeOff : Nat
  codeLen : Nat
  lanes : Nat
  shapeR : Nat
  shapeC : Nat
  scratch : Nat
  ob : Nat
  accRows : Nat
  queues : List (Nat × DWord)
  task : Option (Nat × Nat)
  imgOff : Nat
  imgLen : Nat
  seed : DWord
  nbv : Nat
  det : Nat
  mode : Word
  idem : Bool
  epri : Nat
  relocs : List (Nat × Nat)
  deriving DecidableEq, Repr

end Sys2Proof
end

