-- ==== Sys2Proof/Syntax.lean ====
section
/-! DEFINITION. The steps of the KMX1200, one constructor for each row of spec/opcode_table.json: the 281 encoded
words with the fields the table gives them, and before them the 103 events, which have no encoding; an event's
arguments are what the rule of the row needs to be told (DESIGN CHOICE, log entry 2). -/

namespace Sys2Proof

/-- A step of the machine. A field `c` is the chain bit of the word (09 R228). -/
inductive Instr where
  /-- Power-good starts boot ROM and the ordered bring-up steps (R454). -/
  | powerGood (images : List Firmware) (key : BitVec 512) (disabled : List Nat) (moduleId : BitVec 12)
  /-- FEATCTL.COMMIT enables FEATEN and FEATCAP (R425). -/
  | featureCommit
  /-- Host offers a new PROD for a launch queue (R383). -/
  | doorbellWrite (part queue : Nat) (prod : BitVec 32)
  /-- Write of DBIGN clears the ignored-doorbell count (R422). -/
  | doorbellIgnoredClear (part queue : Nat) (value : DWord)
  /-- Produce an attestation quote (R457). -/
  | mboxQuote (tag : BitVec 32) (nonce : BitVec 256)
  /-- Read a measurement register (R456). -/
  | mboxReadMr (tag : BitVec 32) (arg : BitVec 8)
  /-- Host extends MR4-MR7 (R456). -/
  | mboxExtendMr (tag : BitVec 32) (arg : BitVec 8) (digest : BitVec 256)
  /-- Create a partition from a 64 B record (R460). -/
  | mboxCreatePartition (tag : BitVec 32) (arg : BitVec 8) (record : BitVec 512)
  /-- Destroy a partition without bound or saved teams (R460). -/
  | mboxDestroyPartition (tag : BitVec 32) (arg : BitVec 8)
  /-- Host-requested partition reset (R418). -/
  | mboxResetPartition (tag : BitVec 32) (arg : BitVec 8)
  /-- Host-requested bias flip of a frame (R177). -/
  | mboxBiasFlip (tag : BitVec 32) (arg : BitVec 8) (flip : DWord)
  /-- Raise the fused rollback counter (R455). -/
  | mboxRaiseRollback (tag : BitVec 32) (arg : BitVec 8)
  /-- Read an entry of the event ring (R458). -/
  | mboxReadEvent (tag : BitVec 32) (arg : BitVec 8)
  /-- Write to a management register with no behaviour of its own (R171). -/
  | mgmtRegisterWrite (reg : MgmtReg) (value : DWord)
  /-- CXL.mem MemRd to an HDM window, served per bias (R176). -/
  | hostMemRead (hostLine : Nat)
  /-- CXL.mem MemWr to an HDM window, served per bias (R176). -/
  | hostMemWrite (hostLine : Nat) (bytes : LineBytes) (poison : Bool)
  /-- Host snoop on a host-bias line; the home recalls it from every die (R176). -/
  | hostSnoop (line : Nat)
  /-- Take up and admit a launch packet (R388). -/
  | pktLaunch (part queue : Nat)
  /-- Take up a dependence wait holding its queue (R386). -/
  | pktDependenceWait (part queue : Nat)
  /-- Every 4,096 cycles read the awaited word and release the queue if satisfied (R386). -/
  | dependenceWaitPoll (part queue : Nat)
  /-- Set the queue's determinism level, optionally after draining (R398). -/
  | pktSetDeterminism (part queue : Nat)
  /-- Set the queue's numeric behaviour version (R385). -/
  | pktSetNbv (part queue : Nat)
  /-- Create a communicator from its descriptor (R430). -/
  | pktCommCreate (part queue : Nat)
  /-- Rebuild a broken communicator (R438). -/
  | pktCommRebuild (part queue : Nat)
  /-- Replace the energy estimate of following launches (R388). -/
  | pktEnergyEstimate (part queue : Nat)
  /-- Add a hypothesis spill extent (R153). -/
  | pktSpillGrant (part queue : Nat)
  /-- Write the completion record when every team has released its slot (R387). -/
  | launchComplete (launch : Nat)
  /-- Choose a cluster's origin when room is available (R391). -/
  | clusterPlace (launch : Nat)
  /-- Bind a team, or restore a saved context, into a slot (R390). -/
  | slotBind (core slot : Nat)
  /-- Pre-empt a team by drain, flush or save (R412). -/
  | slotSave (core slot : Nat)
  /-- Kill a team at once (R416). -/
  | slotKill (core slot : Nat)
  /-- Release a slot and write back TCOUNT and descriptors (R390). -/
  | slotRelease (core slot : Nat)
  /-- Write the context image once the team is at rest (R414). -/
  | contextSaveWrite (core slot : Nat)
  /-- DMAX expires on a drained team, which is then saved (R412). -/
  | preemptDrainTimeout (core slot : Nat)
  /-- An exited group frees its slot once all frets are clear (R236). -/
  | groupSlotRelease (g : GroupRef)
  /-- Start waiting for translation invalidations (R173). -/
  | tsync (die : Nat)
  /-- TSYNC condition met; BUSY clears (R173). -/
  | tsyncDone (die : Nat)
  /-- Start the page copier (R174). -/
  | pageCopy (die : Nat) (ctl : DWord)
  /-- Page copy completes, setting ERR if refused or poisoned (R174). -/
  | pageCopyDone (die : Nat)
  /-- BFLIP write requests a bias flip (R177). -/
  | biasFlip (die : Nat) (flip : DWord)
  /-- The losing side is drained and the bias bit changes (R177). -/
  | biasFlipDone (frame : Nat) (toHost : Bool)
  /-- An access count reaches HINTTHR and a hint is written (R170). -/
  | hintPost (die part : Nat) (hint : Hint)
  /-- A counter crosses VAL: FIRED set, EN cleared, task posted (R396). -/
  | thresholdFire (die unit : Nat)
  /-- Chihoat rewrites a route table entry, clearing BRK (R427). -/
  | routeEntryWrite (index : Nat) (value : BitVec 8)
  /-- A written clock step takes effect 2 us later (R462). -/
  | clockStepTakeEffect (part : Nat)
  /-- Compare interval energy with budget and step the clock (R463). -/
  | energyIntervalEnd (part : Nat)
  /-- No progress for the watchdog interval resets the partition (R418). -/
  | watchdogExpire (part : Nat)
  /-- Reset one partition, killing its teams and discarding its frames (R419). -/
  | partitionReset (part : Nat)
  /-- A fabric port fails; its routes become broken (R429). -/
  | portDown (port : Nat)
  /-- A forwarded access from another module is performed at the home (R169). -/
  | fabricRequestIn (kind : BitVec 4) (line : Nat) (bytes : LineBytes)
  /-- A root write of PROD wakes the collective engine (R431). -/
  | collProdWrite (comm : Nat) (prod : DWord) (hyp : BitVec 12)
  /-- Collective command KIND 0 over the slot tree (R433). -/
  | collAllReduce (comm : Nat)
  /-- Collective command KIND 1 to the root member (R433). -/
  | collReduce (comm : Nat)
  /-- Collective command KIND 2 from the root member (R432). -/
  | collBroadcast (comm : Nat)
  /-- A child node value arrives over class 2 and is combined (R434). -/
  | collNodeReceive (comm lo hi elem : Nat) (value : Option Word)
  /-- Write the completion entry when DST is complete (R435). -/
  | collComplete (comm : Nat)
  /-- A requested line's data reaches the core and destinations are written (R103). -/
  | lineDataArrive (g : GroupRef) (entry vline : Nat)
  /-- A lane store is performed in its L2 slice (R84). -/
  | laneStorePerform (g : GroupRef) (entry vline : Nat)
  /-- A line request reaches its home LLC slice and is filled (R80). -/
  | homeRequest (die part line : Nat) (want : Want)
  /-- The home applies a propagated write and sends invalidations (R85). -/
  | homeApplyWrite (w : LineWrite)
  /-- An acknowledgement clears DMASK bits in the slice (R85). -/
  | writeAck (w : LineWrite)
  /-- A die applies an invalidation or fill in causal order (R117). -/
  | applyInvalidation (die : Nat) (w : LineWrite)
  /-- A cache die answers a sweep marker; the acquire completes on the last answer (R86). -/
  | sweepAnswer (g : GroupRef) (cacheDie : Nat)
  /-- The module fence sequencer grants a ticket (R122). -/
  | fenceScTicket
  /-- Periodic scrub read of a core memory row (R75). -/
  | patrolScrub (core unit row : Nat)
  /-- An engine command starts and registers its ownership ranges (R90). -/
  | engineCommandStart (core cmd : Nat)
  /-- An engine command completes and its fret is decremented (R95). -/
  | engineCommandComplete (core cmd : Nat)
  /-- The request engine takes up a command when one of 16 places is free (R359). -/
  | copyTakeup (core : Nat)
  /-- A delivery completes on a stage barrier object (R70). -/
  | stageDelivery (core slot off : Nat) (bytes : Nat) (ok : Bool)
  /-- A page walk completes with a leaf or a fault: the page by its index in the tables of each level (R162). -/
  | translationWalk (space : Space) (i0 i1 i2 i3 : Nat)
  /-- Replay a pending logged word after a translation is installed (R408). -/
  | operandLogReplay (g : GroupRef) (entry : Nat)
  /-- An rld image arrives, is validated and written to q (R26). -/
  | rldFill (g : GroupRef) (entry : Nat)
  /-- Deliver a trap: frame written, handler entry created (R402). -/
  | trapDeliver (g : GroupRef) (entry : Nat)
  /-- A lasting register-slice or log error found after younger words issued (R409). -/
  | lateFault (g : GroupRef) (line : Nat)
  /-- A pushed run reaches the owner's port and is accepted or refused (R307). -/
  | queuePushArrive (g : GroupRef)
  /-- A written run becomes visible; a waiting qget may be served (R62). -/
  | queueRunVisible (core qn : Nat)
  /-- A steal request is withdrawn after STEALTO cycles (R312). -/
  | stealTimeout (g : GroupRef)
  /-- A stolen task arrives at the thief core and is placed on its deque (R395). -/
  | taskDelivery (g : GroupRef) (task : BitVec 512)
  /-- The lease arbiter grants the head request (R331). -/
  | leaseGrant (core : Nat)
  /-- CLEFT reaches 0 and the lease ends (R331). -/
  | leaseExpire (core : Nat)
  /-- Every gang member has issued; one command is run (R328). -/
  | gangLatchClose (core slot : Nat) (members : Lanes)
  /-- The engine takes up a matrix or stage word (R326). -/
  | matrixTakeup (core : Nat)
  /-- A matrix word's tile is written and SETB decremented (R326). -/
  | matrixComplete (core cmd : Nat)
  /-- The accumulator port takes up an ACC word (R351). -/
  | accTakeup (core : Nat)
  /-- An ACC word finishes and SETB is decremented (R351). -/
  | accComplete (core cmd : Nat)
  /-- Stop entry ends a chain (R369). -/
  | chainStop (core chain : Nat)
  /-- Chain entry running a copy (R365). -/
  | chainCopy (core chain : Nat)
  /-- Chain entry running a gather-fill (R365). -/
  | chainGatherFill (core chain : Nat)
  /-- Chain entry running a multicast (R365). -/
  | chainMulticast (core chain : Nat)
  /-- Chain entry submitting products over a block-row mask (R366). -/
  | chainMaskWalk (core chain : Nat)
  /-- Chain entry repeating a run of entries (R367). -/
  | chainLoop (core chain : Nat)
  /-- Chain entry branching on a scratchpad word (R368). -/
  | chainConditional (core chain : Nat)
  /-- Chain entry storing or adding to a word as a release (R369). -/
  | chainSignal (core chain : Nat)
  /-- The chain has stopped and its commands completed; the kick's fret is decremented (R362). -/
  | chainDone (core chain : Nat)
  /-- Compaction completes after the last group arrives (R199). -/
  | regroupComplete (core slot : Nat)
  /-- A sleeping group becomes ready again (R277). -/
  | sleepExpire (g : GroupRef)
  /-- The controller takes up a resolution request (R147). -/
  | hypRequestTakeup (part : Nat)
  /-- Commit point of a confirmation or refutation (R148). -/
  | hypCommit (part : Nat)
  /-- Resolution completes through the issuing word's SETB (R148). -/
  | hypResolutionComplete (part : Nat) (g : GroupRef)
  /-- A slice reports relabel or discard of an id done (R151). -/
  | hypSliceWorkDone (part slice id : Nat)
  /-- At the end of each window of 1,024 cycles each group's retired-word count becomes its rate, and medians, lags and favoured groups are recomputed (R393). -/
  | rateWindowEnd (core : Nat)
  /-- A partition reset finishes, after homes have dropped the partition's lines from other dies, and the partition accepts launches again (R419). -/
  | partitionResetComplete (part : Nat)
  /-- An L2 slice sends a batch of DMASK bytes to their homes with its die's vector clock, raising the die's own clock entry (R85). -/
  | rootWriteBatchSend (die : Nat)
  /-- Clause header: waits for the frets named in WAIT, sets the clause's SETA and SETB frets and evaluates the guard into GMASK (R229). -/
  | hdr (w : BitVec 12) (a : BitVec 4) (b : BitVec 4) (g : BitVec 1) (p : BitVec 3) (n : BitVec 1)
  /-- Per-lane 32-bit add modulo 2^32 (R251). -/
  | add (c : BitVec 1) (d : BitVec 7) (a : BitVec 7) (b : BitVec 7)
  /-- Per-lane 32-bit subtract (R251). -/
  | sub (c : BitVec 1) (d : BitVec 7) (a : BitVec 7) (b : BitVec 7)
  /-- Low 32 bits of the per-lane product (R251). -/
  | mul (c : BitVec 1) (d : BitVec 7) (a : BitVec 7) (b : BitVec 7)
  /-- High 32 bits of the signed product (R251). -/
  | mulh (c : BitVec 1) (d : BitVec 7) (a : BitVec 7) (b : BitVec 7)
  /-- High 32 bits of the unsigned product (R251). -/
  | mulhu (c : BitVec 1) (d : BitVec 7) (a : BitVec 7) (b : BitVec 7)
  /-- Signed minimum (R251). -/
  | min (c : BitVec 1) (d : BitVec 7) (a : BitVec 7) (b : BitVec 7)
  /-- Signed maximum (R251). -/
  | max (c : BitVec 1) (d : BitVec 7) (a : BitVec 7) (b : BitVec 7)
  /-- Unsigned minimum (R251). -/
  | minu (c : BitVec 1) (d : BitVec 7) (a : BitVec 7) (b : BitVec 7)
  /-- Unsigned maximum (R251). -/
  | maxu (c : BitVec 1) (d : BitVec 7) (a : BitVec 7) (b : BitVec 7)
  /-- Bitwise and (R251). -/
  | and (c : BitVec 1) (d : BitVec 7) (a : BitVec 7) (b : BitVec 7)
  /-- Bitwise or (R251). -/
  | or (c : BitVec 1) (d : BitVec 7) (a : BitVec 7) (b : BitVec 7)
  /-- Bitwise exclusive or (R251). -/
  | xor (c : BitVec 1) (d : BitVec 7) (a : BitVec 7) (b : BitVec 7)
  /-- a and not b (R251). -/
  | andn (c : BitVec 1) (d : BitVec 7) (a : BitVec 7) (b : BitVec 7)
  /-- a or not b (R251). -/
  | orn (c : BitVec 1) (d : BitVec 7) (a : BitVec 7) (b : BitVec 7)
  /-- Shift left by b[4:0] (R251). -/
  | shl (c : BitVec 1) (d : BitVec 7) (a : BitVec 7) (b : BitVec 7)
  /-- Logical shift right by b[4:0] (R251). -/
  | shr (c : BitVec 1) (d : BitVec 7) (a : BitVec 7) (b : BitVec 7)
  /-- Arithmetic shift right by b[4:0] (R251). -/
  | sra (c : BitVec 1) (d : BitVec 7) (a : BitVec 7) (b : BitVec 7)
  /-- Rotate left by b[4:0] (R251). -/
  | rotl (c : BitVec 1) (d : BitVec 7) (a : BitVec 7) (b : BitVec 7)
  /-- Rotate right by b[4:0] (R251). -/
  | rotr (c : BitVec 1) (d : BitVec 7) (a : BitVec 7) (b : BitVec 7)
  /-- Add with carry in and out through p7 (R252). -/
  | addc (c : BitVec 1) (d : BitVec 7) (a : BitVec 7) (b : BitVec 7)
  /-- Subtract with borrow in and out through p7 (R252). -/
  | subb (c : BitVec 1) (d : BitVec 7) (a : BitVec 7) (b : BitVec 7)
  /-- Magnitude of the exact signed difference (R251). -/
  | absd (c : BitVec 1) (d : BitVec 7) (a : BitVec 7) (b : BitVec 7)
  /-- Add a signed 9-bit immediate (R253). -/
  | addi (c : BitVec 1) (d : BitVec 7) (a : BitVec 7) (imm : BitVec 9)
  /-- And with a sign-extended immediate (R253). -/
  | andi (c : BitVec 1) (d : BitVec 7) (a : BitVec 7) (imm : BitVec 9)
  /-- Or with a sign-extended immediate (R253). -/
  | ori (c : BitVec 1) (d : BitVec 7) (a : BitVec 7) (imm : BitVec 9)
  /-- Xor with a sign-extended immediate (R253). -/
  | xori (c : BitVec 1) (d : BitVec 7) (a : BitVec 7) (imm : BitVec 9)
  /-- Shift left by an immediate count (R253). -/
  | shli (c : BitVec 1) (d : BitVec 7) (a : BitVec 7) (imm : BitVec 5)
  /-- Logical shift right by an immediate count (R253). -/
  | shri (c : BitVec 1) (d : BitVec 7) (a : BitVec 7) (imm : BitVec 5)
  /-- Arithmetic shift right by an immediate count (R253). -/
  | srai (c : BitVec 1) (d : BitVec 7) (a : BitVec 7) (imm : BitVec 5)
  /-- Low 32 bits of the product with an immediate (R253). -/
  | muli (c : BitVec 1) (d : BitVec 7) (a : BitVec 7) (imm : BitVec 9)
  /-- 64-bit add on register pairs (R254). -/
  | addD (c : BitVec 1) (d : BitVec 7) (a : BitVec 7) (b : BitVec 7)
  /-- 64-bit subtract (R254). -/
  | subD (c : BitVec 1) (d : BitVec 7) (a : BitVec 7) (b : BitVec 7)
  /-- Low 64 bits of the 64-bit product (R254). -/
  | mulD (c : BitVec 1) (d : BitVec 7) (a : BitVec 7) (b : BitVec 7)
  /-- High 64 bits of the signed 128-bit product (R254). -/
  | mulhD (c : BitVec 1) (d : BitVec 7) (a : BitVec 7) (b : BitVec 7)
  /-- High 64 bits of the unsigned 128-bit product (R254). -/
  | mulhuD (c : BitVec 1) (d : BitVec 7) (a : BitVec 7) (b : BitVec 7)
  /-- 64-bit signed minimum (R254). -/
  | minD (c : BitVec 1) (d : BitVec 7) (a : BitVec 7) (b : BitVec 7)
  /-- 64-bit signed maximum (R254). -/
  | maxD (c : BitVec 1) (d : BitVec 7) (a : BitVec 7) (b : BitVec 7)
  /-- 64-bit unsigned minimum (R254). -/
  | minuD (c : BitVec 1) (d : BitVec 7) (a : BitVec 7) (b : BitVec 7)
  /-- 64-bit unsigned maximum (R254). -/
  | maxuD (c : BitVec 1) (d : BitVec 7) (a : BitVec 7) (b : BitVec 7)
  /-- 64-bit bitwise and (R254). -/
  | andD (c : BitVec 1) (d : BitVec 7) (a : BitVec 7) (b : BitVec 7)
  /-- 64-bit bitwise or (R254). -/
  | orD (c : BitVec 1) (d : BitVec 7) (a : BitVec 7) (b : BitVec 7)
  /-- 64-bit bitwise xor (R254). -/
  | xorD (c : BitVec 1) (d : BitVec 7) (a : BitVec 7) (b : BitVec 7)
  /-- 64-bit shift left by b[5:0] (R254). -/
  | shlD (c : BitVec 1) (d : BitVec 7) (a : BitVec 7) (b : BitVec 7)
  /-- 64-bit logical shift right by b[5:0] (R254). -/
  | shrD (c : BitVec 1) (d : BitVec 7) (a : BitVec 7) (b : BitVec 7)
  /-- 64-bit arithmetic shift right by b[5:0] (R254). -/
  | sraD (c : BitVec 1) (d : BitVec 7) (a : BitVec 7) (b : BitVec 7)
  /-- Count leading zero bits (R255). -/
  | clz (c : BitVec 1) (d : BitVec 7) (a : BitVec 7)
  /-- Count trailing zero bits (R255). -/
  | ctz (c : BitVec 1) (d : BitVec 7) (a : BitVec 7)
  /-- Count one bits (R255). -/
  | popc (c : BitVec 1) (d : BitVec 7) (a : BitVec 7)
  /-- Reverse the bit order (R255). -/
  | brev (c : BitVec 1) (d : BitVec 7) (a : BitVec 7)
  /-- Extract a bit field (R255). -/
  | bext (c : BitVec 1) (d : BitVec 7) (a : BitVec 7) (b : BitVec 7)
  /-- Insert a bit field into the destination (R255). -/
  | bins (c : BitVec 1) (d : BitVec 7) (a : BitVec 7) (b : BitVec 7)
  /-- Interleave two 16-bit values bitwise (R255). -/
  | ilv2 (c : BitVec 1) (d : BitVec 7) (a : BitVec 7) (b : BitVec 7)
  /-- Interleave three 10-bit values bitwise (R255). -/
  | ilv3 (c : BitVec 1) (d : BitVec 7) (a : BitVec 7) (b : BitVec 7)
  /-- De-interleave one of three 10-bit fields (R255). -/
  | dlv3 (c : BitVec 1) (d : BitVec 7) (a : BitVec 7) (b : BitVec 7)
  /-- Count equal leading bits of two values (R255). -/
  | cpl (c : BitVec 1) (d : BitVec 7) (a : BitVec 7) (b : BitVec 7)
  /-- Bitwise select under the destination mask (R255). -/
  | bsel (c : BitVec 1) (d : BitVec 7) (a : BitVec 7) (b : BitVec 7)
  /-- Byte permute with optional sign replication (R256). -/
  | prmt (c : BitVec 1) (d : BitVec 7) (a : BitVec 7) (b : BitVec 7)
  /-- Floating-point add rounded under MODE.FRM (R257). -/
  | fadd (c : BitVec 1) (t : BitVec 2) (d : BitVec 7) (a : BitVec 7) (b : BitVec 7)
  /-- Floating-point subtract (R257). -/
  | fsub (c : BitVec 1) (t : BitVec 2) (d : BitVec 7) (a : BitVec 7) (b : BitVec 7)
  /-- Floating-point multiply (R257). -/
  | fmul (c : BitVec 1) (t : BitVec 2) (d : BitVec 7) (a : BitVec 7) (b : BitVec 7)
  /-- IEEE minimumNumber (R214). -/
  | fmin (c : BitVec 1) (t : BitVec 2) (d : BitVec 7) (a : BitVec 7) (b : BitVec 7)
  /-- IEEE maximumNumber (R214). -/
  | fmax (c : BitVec 1) (t : BitVec 2) (d : BitVec 7) (a : BitVec 7) (b : BitVec 7)
  /-- IEEE minimum, NaN propagating (R214). -/
  | fminm (c : BitVec 1) (t : BitVec 2) (d : BitVec 7) (a : BitVec 7) (b : BitVec 7)
  /-- IEEE maximum, NaN propagating (R214). -/
  | fmaxm (c : BitVec 1) (t : BitVec 2) (d : BitVec 7) (a : BitVec 7) (b : BitVec 7)
  /-- Floating-point divide, f32 or f64 (R257). -/
  | fdiv (c : BitVec 1) (t : BitVec 2) (d : BitVec 7) (a : BitVec 7) (b : BitVec 7)
  /-- Fused a*b + d with one rounding (R258). -/
  | fma (c : BitVec 1) (t : BitVec 2) (d : BitVec 7) (a : BitVec 7) (b : BitVec 7)
  /-- Fused a*b - d (R258). -/
  | fms (c : BitVec 1) (t : BitVec 2) (d : BitVec 7) (a : BitVec 7) (b : BitVec 7)
  /-- Fused -(a*b) + d (R258). -/
  | fnma (c : BitVec 1) (t : BitVec 2) (d : BitVec 7) (a : BitVec 7) (b : BitVec 7)
  /-- Fused -(a*b) - d (R258). -/
  | fnms (c : BitVec 1) (t : BitVec 2) (d : BitVec 7) (a : BitVec 7) (b : BitVec 7)
  /-- Format conversion by RoundTo under a given rounding mode (R259). -/
  | cvt (c : BitVec 1) (t : BitVec 2) (d : BitVec 7) (a : BitVec 7) (f : BitVec 4) (m : BitVec 3)
  /-- Correctly rounded reciprocal (R260). -/
  | rcp (c : BitVec 1) (t : BitVec 2) (d : BitVec 7) (a : BitVec 7) (m : BitVec 3)
  /-- Correctly rounded reciprocal square root (R260). -/
  | rsq (c : BitVec 1) (t : BitVec 2) (d : BitVec 7) (a : BitVec 7) (m : BitVec 3)
  /-- Correctly rounded square root (R260). -/
  | sqrt (c : BitVec 1) (t : BitVec 2) (d : BitVec 7) (a : BitVec 7) (m : BitVec 3)
  /-- Correctly rounded 2^a (R260). -/
  | exp2 (c : BitVec 1) (t : BitVec 2) (d : BitVec 7) (a : BitVec 7) (m : BitVec 3)
  /-- Correctly rounded log2 a (R260). -/
  | log2 (c : BitVec 1) (t : BitVec 2) (d : BitVec 7) (a : BitVec 7) (m : BitVec 3)
  /-- Correctly rounded sin(pi*a) (R260). -/
  | sinp (c : BitVec 1) (t : BitVec 2) (d : BitVec 7) (a : BitVec 7) (m : BitVec 3)
  /-- Round to an integral value in the source format (R260). -/
  | rint (c : BitVec 1) (t : BitVec 2) (d : BitVec 7) (a : BitVec 7) (m : BitVec 3)
  /-- Signed equal compare into a predicate, optionally combined (R261). -/
  | cmpEq (c : BitVec 1) (p : BitVec 3) (k : BitVec 2) (t : BitVec 2) (a : BitVec 7) (b : BitVec 7)
  /-- Not-equal compare (R261). -/
  | cmpNe (c : BitVec 1) (p : BitVec 3) (k : BitVec 2) (t : BitVec 2) (a : BitVec 7) (b : BitVec 7)
  /-- Signed less-than compare (R261). -/
  | cmpLt (c : BitVec 1) (p : BitVec 3) (k : BitVec 2) (t : BitVec 2) (a : BitVec 7) (b : BitVec 7)
  /-- Signed less-or-equal compare (R261). -/
  | cmpLe (c : BitVec 1) (p : BitVec 3) (k : BitVec 2) (t : BitVec 2) (a : BitVec 7) (b : BitVec 7)
  /-- Signed greater-than compare (R261). -/
  | cmpGt (c : BitVec 1) (p : BitVec 3) (k : BitVec 2) (t : BitVec 2) (a : BitVec 7) (b : BitVec 7)
  /-- Signed greater-or-equal compare (R261). -/
  | cmpGe (c : BitVec 1) (p : BitVec 3) (k : BitVec 2) (t : BitVec 2) (a : BitVec 7) (b : BitVec 7)
  /-- Unsigned less-than compare (R261). -/
  | cmpLtu (c : BitVec 1) (p : BitVec 3) (k : BitVec 2) (t : BitVec 2) (a : BitVec 7) (b : BitVec 7)
  /-- Unsigned less-or-equal compare (R261). -/
  | cmpLeu (c : BitVec 1) (p : BitVec 3) (k : BitVec 2) (t : BitVec 2) (a : BitVec 7) (b : BitVec 7)
  /-- Unsigned greater-than compare (R261). -/
  | cmpGtu (c : BitVec 1) (p : BitVec 3) (k : BitVec 2) (t : BitVec 2) (a : BitVec 7) (b : BitVec 7)
  /-- Unsigned greater-or-equal compare (R261). -/
  | cmpGeu (c : BitVec 1) (p : BitVec 3) (k : BitVec 2) (t : BitVec 2) (a : BitVec 7) (b : BitVec 7)
  /-- Floating equal compare (R261). -/
  | cmpFeq (c : BitVec 1) (p : BitVec 3) (k : BitVec 2) (t : BitVec 2) (a : BitVec 7) (b : BitVec 7)
  /-- Floating not-equal compare (R261). -/
  | cmpFne (c : BitVec 1) (p : BitVec 3) (k : BitVec 2) (t : BitVec 2) (a : BitVec 7) (b : BitVec 7)
  /-- Floating less-than compare, signalling on NaN (R261). -/
  | cmpFlt (c : BitVec 1) (p : BitVec 3) (k : BitVec 2) (t : BitVec 2) (a : BitVec 7) (b : BitVec 7)
  /-- Floating less-or-equal compare (R261). -/
  | cmpFle (c : BitVec 1) (p : BitVec 3) (k : BitVec 2) (t : BitVec 2) (a : BitVec 7) (b : BitVec 7)
  /-- Floating greater-than compare (R261). -/
  | cmpFgt (c : BitVec 1) (p : BitVec 3) (k : BitVec 2) (t : BitVec 2) (a : BitVec 7) (b : BitVec 7)
  /-- Floating greater-or-equal compare (R261). -/
  | cmpFge (c : BitVec 1) (p : BitVec 3) (k : BitVec 2) (t : BitVec 2) (a : BitVec 7) (b : BitVec 7)
  /-- True when either operand is a NaN (R261). -/
  | cmpFun (c : BitVec 1) (p : BitVec 3) (k : BitVec 2) (t : BitVec 2) (a : BitVec 7) (b : BitVec 7)
  /-- True when neither operand is a NaN (R261). -/
  | cmpFord (c : BitVec 1) (p : BitVec 3) (k : BitVec 2) (t : BitVec 2) (a : BitVec 7) (b : BitVec 7)
  /-- Per-lane register move (R262). -/
  | mov (c : BitVec 1) (d : BitVec 7) (a : BitVec 7)
  /-- Select a or b by predicate pN, N = 1-7 (R262). -/
  | sel (c : BitVec 1) (n : BitVec 3) (d : BitVec 7) (a : BitVec 7) (b : BitVec 7)
  /-- Write the lane's logical identity (R262). -/
  | lid (c : BitVec 1) (d : BitVec 7)
  /-- Write the identity selected by literal k (R263). -/
  | gidx (c : BitVec 1) (d : BitVec 7) (k : BitVec 7)
  /-- Broadcast the lowest active lane's value (R262). -/
  | bcast (c : BitVec 1) (d : BitVec 7) (a : BitVec 7)
  /-- Predicate and (R262). -/
  | pand (c : BitVec 1) (d : BitVec 3) (a : BitVec 3) (b : BitVec 3)
  /-- Predicate or (R262). -/
  | por (c : BitVec 1) (d : BitVec 3) (a : BitVec 3) (b : BitVec 3)
  /-- Predicate xor (R262). -/
  | pxor (c : BitVec 1) (d : BitVec 3) (a : BitVec 3) (b : BitVec 3)
  /-- Predicate not (R262). -/
  | pnot (c : BitVec 1) (d : BitVec 3) (a : BitVec 3)
  /-- Write the mask of active lanes where a predicate holds to a uniform register (R265). -/
  | vote (c : BitVec 1) (d : BitVec 7) (a : BitVec 3)
  /-- Copy one lane's register value into a uniform register (R265). -/
  | smovv (c : BitVec 1) (d : BitVec 7) (a : BitVec 7) (b : BitVec 7)
  /-- Pack p0-p7 into a register (R264). -/
  | movpGet (c : BitVec 1) (d : BitVec 7)
  /-- Set p1-p7 from a register's bits (R264). -/
  | movpSet (c : BitVec 1) (a : BitVec 7)
  /-- Uniform 64-bit add (R266). -/
  | sadd (c : BitVec 1) (d : BitVec 7) (a : BitVec 7) (b : BitVec 7)
  /-- Uniform subtract (R266). -/
  | ssub (c : BitVec 1) (d : BitVec 7) (a : BitVec 7) (b : BitVec 7)
  /-- Uniform multiply, low 64 bits (R266). -/
  | smul (c : BitVec 1) (d : BitVec 7) (a : BitVec 7) (b : BitVec 7)
  /-- Uniform and (R266). -/
  | sand (c : BitVec 1) (d : BitVec 7) (a : BitVec 7) (b : BitVec 7)
  /-- Uniform or (R266). -/
  | sor (c : BitVec 1) (d : BitVec 7) (a : BitVec 7) (b : BitVec 7)
  /-- Uniform xor (R266). -/
  | sxor (c : BitVec 1) (d : BitVec 7) (a : BitVec 7) (b : BitVec 7)
  /-- Uniform shift left (R266). -/
  | sshl (c : BitVec 1) (d : BitVec 7) (a : BitVec 7) (b : BitVec 7)
  /-- Uniform logical shift right (R266). -/
  | sshr (c : BitVec 1) (d : BitVec 7) (a : BitVec 7) (b : BitVec 7)
  /-- Uniform arithmetic shift right (R266). -/
  | ssra (c : BitVec 1) (d : BitVec 7) (a : BitVec 7) (b : BitVec 7)
  /-- Uniform signed minimum (R266). -/
  | smin (c : BitVec 1) (d : BitVec 7) (a : BitVec 7) (b : BitVec 7)
  /-- Uniform signed maximum (R266). -/
  | smax (c : BitVec 1) (d : BitVec 7) (a : BitVec 7) (b : BitVec 7)
  /-- Uniform unsigned minimum (R266). -/
  | sminu (c : BitVec 1) (d : BitVec 7) (a : BitVec 7) (b : BitVec 7)
  /-- Uniform unsigned maximum (R266). -/
  | smaxu (c : BitVec 1) (d : BitVec 7) (a : BitVec 7) (b : BitVec 7)
  /-- Uniform move (R266). -/
  | smov (c : BitVec 1) (d : BitVec 7) (a : BitVec 7)
  /-- Uniform signed less-than giving 1 or 0 (R266). -/
  | scmplt (c : BitVec 1) (d : BitVec 7) (a : BitVec 7) (b : BitVec 7)
  /-- Uniform equality giving 1 or 0 (R266). -/
  | scmpeq (c : BitVec 1) (d : BitVec 7) (a : BitVec 7) (b : BitVec 7)
  /-- Per-lane sign-extended 17-bit immediate (R267). -/
  | movi (c : BitVec 1) (d : BitVec 7) (imm : BitVec 17)
  /-- Shift the register left 17 and or in an immediate (R267). -/
  | movx (c : BitVec 1) (d : BitVec 7) (imm : BitVec 17)
  /-- Uniform sign-extended immediate (R267). -/
  | smovi (c : BitVec 1) (d : BitVec 7) (imm : BitVec 17)
  /-- Uniform shift-and-or immediate (R267). -/
  | smovx (c : BitVec 1) (d : BitVec 7) (imm : BitVec 17)
  /-- Unconditional branch of the execution mask to a header (R268). -/
  | jmp (p : BitVec 6) (o : BitVec 14)
  /-- Branch the lanes where the predicate is true (R268). -/
  | bt (sc : BitVec 3) (p : BitVec 6) (o : BitVec 14)
  /-- Branch the lanes where the predicate is false (R268). -/
  | bf (sc : BitVec 3) (p : BitVec 6) (o : BitVec 14)
  /-- Branch all lanes if the predicate holds in any lane (R268). -/
  | bany (sc : BitVec 3) (p : BitVec 6) (o : BitVec 14)
  /-- Branch all lanes if the predicate holds in every lane (R268). -/
  | ball (sc : BitVec 3) (p : BitVec 6) (o : BitVec 14)
  /-- Branch with the return link written to s63 (R269). -/
  | call (p : BitVec 6) (o : BitVec 14)
  /-- No operation (R271). -/
  | nop
  /-- Exit the execution-mask lanes (R271). -/
  | exit
  /-- Return to the link in s63 (R269). -/
  | ret
  /-- Indirect per-lane branch that may diverge (R270). -/
  | brx (a : BitVec 7) (p : BitVec 7)
  /-- Continue with the entry deferred (R271). -/
  | yield
  /-- Raise a software trap with code n (R271). -/
  | trap (n : BitVec 7)
  /-- Record the entry of an idempotent region in IDEM (R272). -/
  | ient
  /-- Arrive at the team-wide divergence compaction by key (R198). -/
  | regroup (a : BitVec 7)
  /-- Raise a breakpoint trap with code n (R271). -/
  | bkpt (n : BitVec 7)
  /-- Load byte, zero-extended, through a buffer record (R281). -/
  | ldB (c : BitVec 1) (sc : BitVec 3) (o : BitVec 1) (d : BitVec 7) (q : BitVec 4) (x : BitVec 7)
  /-- Load byte, sign-extended (R281). -/
  | ldBs (c : BitVec 1) (sc : BitVec 3) (o : BitVec 1) (d : BitVec 7) (q : BitVec 4) (x : BitVec 7)
  /-- Load halfword, zero-extended (R281). -/
  | ldH (c : BitVec 1) (sc : BitVec 3) (o : BitVec 1) (d : BitVec 7) (q : BitVec 4) (x : BitVec 7)
  /-- Load halfword, sign-extended (R281). -/
  | ldHs (c : BitVec 1) (sc : BitVec 3) (o : BitVec 1) (d : BitVec 7) (q : BitVec 4) (x : BitVec 7)
  /-- Load word (R281). -/
  | ldW (c : BitVec 1) (sc : BitVec 3) (o : BitVec 1) (d : BitVec 7) (q : BitVec 4) (x : BitVec 7)
  /-- Load 8 B into a pair (R281). -/
  | ldD (c : BitVec 1) (sc : BitVec 3) (o : BitVec 1) (d : BitVec 7) (q : BitVec 4) (x : BitVec 7)
  /-- Load 16 B into four registers (R281). -/
  | ldQ (c : BitVec 1) (sc : BitVec 3) (o : BitVec 1) (d : BitVec 7) (q : BitVec 4) (x : BitVec 7)
  /-- Line load of N 128 B lines into N registers (R283). -/
  | ldl (c : BitVec 1) (sc : BitVec 3) (o : BitVec 1) (d : BitVec 7) (q : BitVec 4) (x : BitVec 5)
  /-- Uniform load into an s register (R284). -/
  | sld (c : BitVec 1) (sc : BitVec 3) (o : BitVec 1) (d : BitVec 7) (q : BitVec 4) (x : BitVec 5)
  /-- Word load filling the L2 at low replacement priority (R282). -/
  | ldNc (c : BitVec 1) (sc : BitVec 3) (o : BitVec 1) (d : BitVec 7) (q : BitVec 4) (x : BitVec 7)
  /-- Store byte (R281). -/
  | stB (c : BitVec 1) (sc : BitVec 3) (o : BitVec 1) (d : BitVec 7) (q : BitVec 4) (x : BitVec 7)
  /-- Store halfword (R281). -/
  | stH (c : BitVec 1) (sc : BitVec 3) (o : BitVec 1) (d : BitVec 7) (q : BitVec 4) (x : BitVec 7)
  /-- Store word (R281). -/
  | stW (c : BitVec 1) (sc : BitVec 3) (o : BitVec 1) (d : BitVec 7) (q : BitVec 4) (x : BitVec 7)
  /-- Store 8 B (R281). -/
  | stD (c : BitVec 1) (sc : BitVec 3) (o : BitVec 1) (d : BitVec 7) (q : BitVec 4) (x : BitVec 7)
  /-- Store 16 B (R281). -/
  | stQ (c : BitVec 1) (sc : BitVec 3) (o : BitVec 1) (d : BitVec 7) (q : BitVec 4) (x : BitVec 7)
  /-- Line store of N registers (R283). -/
  | stl (c : BitVec 1) (sc : BitVec 3) (o : BitVec 1) (d : BitVec 7) (q : BitVec 4) (x : BitVec 5)
  /-- Uniform store of an s operand (R284). -/
  | sst (c : BitVec 1) (sc : BitVec 3) (o : BitVec 1) (d : BitVec 7) (q : BitVec 4) (x : BitVec 5)
  /-- Atomic 32-bit add (R287). -/
  | atomAdd (c : BitVec 1) (sc : BitVec 3) (o : BitVec 2) (d : BitVec 7) (q : BitVec 3) (x : BitVec 7)
  /-- Atomic 32-bit subtract (R287). -/
  | atomSub (c : BitVec 1) (sc : BitVec 3) (o : BitVec 2) (d : BitVec 7) (q : BitVec 3) (x : BitVec 7)
  /-- Atomic 32-bit and (R287). -/
  | atomAnd (c : BitVec 1) (sc : BitVec 3) (o : BitVec 2) (d : BitVec 7) (q : BitVec 3) (x : BitVec 7)
  /-- Atomic 32-bit or (R287). -/
  | atomOr (c : BitVec 1) (sc : BitVec 3) (o : BitVec 2) (d : BitVec 7) (q : BitVec 3) (x : BitVec 7)
  /-- Atomic 32-bit xor (R287). -/
  | atomXor (c : BitVec 1) (sc : BitVec 3) (o : BitVec 2) (d : BitVec 7) (q : BitVec 3) (x : BitVec 7)
  /-- Atomic signed minimum (R287). -/
  | atomMin (c : BitVec 1) (sc : BitVec 3) (o : BitVec 2) (d : BitVec 7) (q : BitVec 3) (x : BitVec 7)
  /-- Atomic signed maximum (R287). -/
  | atomMax (c : BitVec 1) (sc : BitVec 3) (o : BitVec 2) (d : BitVec 7) (q : BitVec 3) (x : BitVec 7)
  /-- Atomic unsigned minimum (R287). -/
  | atomUmin (c : BitVec 1) (sc : BitVec 3) (o : BitVec 2) (d : BitVec 7) (q : BitVec 3) (x : BitVec 7)
  /-- Atomic unsigned maximum (R287). -/
  | atomUmax (c : BitVec 1) (sc : BitVec 3) (o : BitVec 2) (d : BitVec 7) (q : BitVec 3) (x : BitVec 7)
  /-- Atomic exchange (R287). -/
  | atomXchg (c : BitVec 1) (sc : BitVec 3) (o : BitVec 2) (d : BitVec 7) (q : BitVec 3) (x : BitVec 7)
  /-- Atomic compare and swap (R287). -/
  | atomCas (c : BitVec 1) (sc : BitVec 3) (o : BitVec 2) (d : BitVec 7) (q : BitVec 3) (x : BitVec 7)
  /-- Atomic f32 add rounded rne (R287). -/
  | atomFadd (c : BitVec 1) (sc : BitVec 3) (o : BitVec 2) (d : BitVec 7) (q : BitVec 3) (x : BitVec 7)
  /-- Atomic f32 minimumNumber (R287). -/
  | atomFmin (c : BitVec 1) (sc : BitVec 3) (o : BitVec 2) (d : BitVec 7) (q : BitVec 3) (x : BitVec 7)
  /-- Atomic f32 maximumNumber (R287). -/
  | atomFmax (c : BitVec 1) (sc : BitVec 3) (o : BitVec 2) (d : BitVec 7) (q : BitVec 3) (x : BitVec 7)
  /-- Atomic 32-bit load with ordering (R287). -/
  | atomLd (c : BitVec 1) (sc : BitVec 3) (o : BitVec 2) (d : BitVec 7) (q : BitVec 3) (x : BitVec 7)
  /-- Atomic 32-bit store with ordering (R287). -/
  | atomSt (c : BitVec 1) (sc : BitVec 3) (o : BitVec 2) (d : BitVec 7) (q : BitVec 3) (x : BitVec 7)
  /-- Atomic 64-bit add (R287). -/
  | atomdAdd (c : BitVec 1) (sc : BitVec 3) (o : BitVec 2) (d : BitVec 7) (q : BitVec 3) (x : BitVec 7)
  /-- Atomic 64-bit subtract (R287). -/
  | atomdSub (c : BitVec 1) (sc : BitVec 3) (o : BitVec 2) (d : BitVec 7) (q : BitVec 3) (x : BitVec 7)
  /-- Atomic 64-bit and (R287). -/
  | atomdAnd (c : BitVec 1) (sc : BitVec 3) (o : BitVec 2) (d : BitVec 7) (q : BitVec 3) (x : BitVec 7)
  /-- Atomic 64-bit or (R287). -/
  | atomdOr (c : BitVec 1) (sc : BitVec 3) (o : BitVec 2) (d : BitVec 7) (q : BitVec 3) (x : BitVec 7)
  /-- Atomic 64-bit xor (R287). -/
  | atomdXor (c : BitVec 1) (sc : BitVec 3) (o : BitVec 2) (d : BitVec 7) (q : BitVec 3) (x : BitVec 7)
  /-- Atomic 64-bit signed minimum (R287). -/
  | atomdMin (c : BitVec 1) (sc : BitVec 3) (o : BitVec 2) (d : BitVec 7) (q : BitVec 3) (x : BitVec 7)
  /-- Atomic 64-bit signed maximum (R287). -/
  | atomdMax (c : BitVec 1) (sc : BitVec 3) (o : BitVec 2) (d : BitVec 7) (q : BitVec 3) (x : BitVec 7)
  /-- Atomic 64-bit unsigned minimum (R287). -/
  | atomdUmin (c : BitVec 1) (sc : BitVec 3) (o : BitVec 2) (d : BitVec 7) (q : BitVec 3) (x : BitVec 7)
  /-- Atomic 64-bit unsigned maximum (R287). -/
  | atomdUmax (c : BitVec 1) (sc : BitVec 3) (o : BitVec 2) (d : BitVec 7) (q : BitVec 3) (x : BitVec 7)
  /-- Atomic 64-bit exchange (R287). -/
  | atomdXchg (c : BitVec 1) (sc : BitVec 3) (o : BitVec 2) (d : BitVec 7) (q : BitVec 3) (x : BitVec 7)
  /-- Atomic 64-bit compare and swap (R287). -/
  | atomdCas (c : BitVec 1) (sc : BitVec 3) (o : BitVec 2) (d : BitVec 7) (q : BitVec 3) (x : BitVec 7)
  /-- Atomic f64 add (R287). -/
  | atomdFadd (c : BitVec 1) (sc : BitVec 3) (o : BitVec 2) (d : BitVec 7) (q : BitVec 3) (x : BitVec 7)
  /-- Atomic f64 minimumNumber (R287). -/
  | atomdFmin (c : BitVec 1) (sc : BitVec 3) (o : BitVec 2) (d : BitVec 7) (q : BitVec 3) (x : BitVec 7)
  /-- Atomic f64 maximumNumber (R287). -/
  | atomdFmax (c : BitVec 1) (sc : BitVec 3) (o : BitVec 2) (d : BitVec 7) (q : BitVec 3) (x : BitVec 7)
  /-- Atomic 64-bit load (R287). -/
  | atomdLd (c : BitVec 1) (sc : BitVec 3) (o : BitVec 2) (d : BitVec 7) (q : BitVec 3) (x : BitVec 7)
  /-- Atomic 64-bit store (R287). -/
  | atomdSt (c : BitVec 1) (sc : BitVec 3) (o : BitVec 2) (d : BitVec 7) (q : BitVec 3) (x : BitVec 7)
  /-- Read the source of the lane given by a register (R290). -/
  | shfl (c : BitVec 1) (d : BitVec 7) (a : BitVec 7) (b : BitVec 7)
  /-- Read the source of lane L - k (R290). -/
  | shflUp (c : BitVec 1) (d : BitVec 7) (a : BitVec 7) (k : BitVec 5)
  /-- Read the source of lane L + k (R290). -/
  | shflDn (c : BitVec 1) (d : BitVec 7) (a : BitVec 7) (k : BitVec 5)
  /-- Read the source of lane L xor k (R290). -/
  | shflXor (c : BitVec 1) (d : BitVec 7) (a : BitVec 7) (k : BitVec 5)
  /-- Read one word from a block of register lines by index (R291). -/
  | perm (c : BitVec 1) (d : BitVec 7) (a : BitVec 7) (b : BitVec 7)
  /-- Inclusive integer prefix sum over active lanes (R292). -/
  | scanAdd (c : BitVec 1) (d : BitVec 7) (a : BitVec 7)
  /-- Exclusive integer prefix sum (R292). -/
  | scanAddx (c : BitVec 1) (d : BitVec 7) (a : BitVec 7)
  /-- Sum over active lanes, integer or f32 (R292). -/
  | rdcAdd (c : BitVec 1) (d : BitVec 7) (a : BitVec 7) (t : BitVec 1)
  /-- Minimum over active lanes (R292). -/
  | rdcMin (c : BitVec 1) (d : BitVec 7) (a : BitVec 7) (t : BitVec 2)
  /-- Maximum over active lanes (R292). -/
  | rdcMax (c : BitVec 1) (d : BitVec 7) (a : BitVec 7) (t : BitVec 2)
  /-- Map work indices onto rows held one per lane (R294). -/
  | rbal (c : BitVec 1) (d : BitVec 7) (a : BitVec 7) (p : BitVec 3)
  /-- Compaction offsets over predicated counts (R295). -/
  | cmpx (c : BitVec 1) (d : BitVec 7) (a : BitVec 7) (p : BitVec 3)
  /-- f32 inclusive scan in ascending lane order (R292). -/
  | scanFadd (c : BitVec 1) (d : BitVec 7) (a : BitVec 7)
  /-- Acquire and/or release fence at a scope (R121). -/
  | fence (c : BitVec 1) (sc : BitVec 3) (f : BitVec 3)
  /-- Sequentially consistent fence using the module ticket at .dev or wider (R122). -/
  | fenceSc (c : BitVec 1) (sc : BitVec 3)
  /-- Initialise a team barrier with a count (R298). -/
  | barInit (c : BitVec 1) (sc : BitVec 3) (b : BitVec 8) (a : BitVec 7)
  /-- Release and arrive at a barrier without waiting (R298). -/
  | barArrive (c : BitVec 1) (sc : BitVec 3) (b : BitVec 8)
  /-- Wait for the current phase to complete, then acquire (R298). -/
  | barWait (c : BitVec 1) (sc : BitVec 3) (b : BitVec 8)
  /-- Arrive then wait (R298). -/
  | barSync (c : BitVec 1) (sc : BitVec 3) (b : BitVec 8)
  /-- Arrive and leave the barrier for later phases (R298). -/
  | barDrop (c : BitVec 1) (sc : BitVec 3) (b : BitVec 8)
  /-- Synchronise lanes of one group across frontier entries by mask (R299). -/
  | msync (c : BitVec 1) (sc : BitVec 3) (a : BitVec 7)
  /-- Wait for earlier engine commands on a path, then acquire (R71). -/
  | drain (c : BitVec 1) (sc : BitVec 3) (f : BitVec 3)
  /-- Wait for named frets to clear, deliver status, acquire (R300). -/
  | fwait (c : BitVec 1) (sc : BitVec 3) (f : BitVec 8) (g : BitVec 4)
  /-- Arm a stage barrier object (R301). -/
  | sbarInit (c : BitVec 1) (sc : BitVec 3) (a : BitVec 7)
  /-- Wait for a stage barrier to complete or break (R303). -/
  | sbarWait (c : BitVec 1) (sc : BitVec 3) (a : BitVec 7) (p : BitVec 3)
  /-- Producer arrival at a stage barrier (R302). -/
  | sbarArrive (c : BitVec 1) (sc : BitVec 3) (a : BitVec 7)
  /-- Test without waiting whether the group's phase is complete (R298). -/
  | barTry (c : BitVec 1) (sc : BitVec 3) (b : BitVec 8) (p : BitVec 3)
  /-- Blocking push of a run into a queue of a cluster member (R307). -/
  | qput (c : BitVec 1) (n : BitVec 4) (row : BitVec 4) (col : BitVec 3) (d : BitVec 7)
  /-- Blocking pop of one element per active lane from an owned queue (R307). -/
  | qget (c : BitVec 1) (n : BitVec 4) (d : BitVec 7)
  /-- Non-blocking push (R308). -/
  | qputTry (c : BitVec 1) (n : BitVec 4) (row : BitVec 4) (col : BitVec 3) (d : BitVec 7) (p : BitVec 3)
  /-- Non-blocking pop of up to n elements (R308). -/
  | qgetTry (c : BitVec 1) (n : BitVec 4) (d : BitVec 7) (p : BitVec 3)
  /-- Read a queue's occupancy (R308). -/
  | qlen (c : BitVec 1) (n : BitVec 4) (row : BitVec 4) (col : BitVec 3) (d : BitVec 7)
  /-- Push one task per lane, waiting for room (R310). -/
  | spawn (c : BitVec 1) (d : BitVec 7)
  /-- Push tasks without waiting, reporting per lane (R310). -/
  | spawnTry (c : BitVec 1) (d : BitVec 7) (p : BitVec 3)
  /-- Pop tasks from the top of the own deque (R311). -/
  | take (c : BitVec 1) (d : BitVec 7) (p : BitVec 3)
  /-- Post a steal request into a victim's mailbox (R312). -/
  | steal (c : BitVec 1) (row : BitVec 4) (col : BitVec 3) (p : BitVec 3)
  /-- Start the request engine walking a command chain (R362). -/
  | kick (c : BitVec 1) (a : BitVec 6)
  /-- Tensor copy with conversion, optional stage delivery (R356). -/
  | copy (c : BitVec 1) (a : BitVec 6) (b : BitVec 6) (m : BitVec 3)
  /-- Tensor copy with dimensions 0 and 1 exchanged (R356). -/
  | copyT (c : BitVec 1) (a : BitVec 6) (b : BitVec 6) (m : BitVec 3)
  /-- Gather-fill rows named by an index list (R357). -/
  | gfill (c : BitVec 1) (a : BitVec 6) (b : BitVec 6) (m : BitVec 3)
  /-- Copy into the windows of up to 12 cluster members (R358). -/
  | mcast (c : BitVec 1) (a : BitVec 6) (b : BitVec 6) (m : BitVec 3)
  /-- Invalidate the core's record cache (R28). -/
  | rfence (c : BitVec 1)
  /-- Validate and install a reservation record in an entry (R319). -/
  | mres (c : BitVec 1) (h : BitVec 4) (sc : BitVec 6)
  /-- Free a reservation entry (R319). -/
  | mrel (c : BitVec 1) (h : BitVec 4)
  /-- Dense matrix product into an accumulator tile (R323). -/
  | mmad (c : BitVec 1) (h : BitVec 4) (sc : BitVec 6) (v : BitVec 7) (n : BitVec 1)
  /-- Sparse matrix product, optionally transposed (R323). -/
  | mmadSp (c : BitVec 1) (h : BitVec 4) (sc : BitVec 6) (v : BitVec 7) (n : BitVec 1) (t : BitVec 1)
  /-- Set the group's gang membership (R327). -/
  | gang (c : BitVec 1) (sc : BitVec 6)
  /-- Wait until this group holds the capo (R332). -/
  | capoTake (c : BitVec 1)
  /-- Pass the capo to the partner (R332). -/
  | capoPass (c : BitVec 1)
  /-- Request a lease on the matrix engine (R330). -/
  | mlease (c : BitVec 1) (sc : BitVec 6)
  /-- End the group's lease (R331). -/
  | mfree (c : BitVec 1)
  /-- One butterfly stage over accumulator vectors (R340). -/
  | bfstg (c : BitVec 1) (z : BitVec 3) (h : BitVec 4) (imm : BitVec 6) (o : BitVec 6)
  /-- A chain of butterfly stages with intermediate rounding (R340). -/
  | bfchn (c : BitVec 1) (z : BitVec 3) (h : BitVec 4) (imm : BitVec 6) (o : BitVec 6) (f : BitVec 1)
  /-- Transpose of one stage applied to gradients (R341). -/
  | bfstgT (c : BitVec 1) (z : BitVec 3) (h : BitVec 4) (imm : BitVec 6) (o : BitVec 6)
  /-- Accumulate a stage's weight gradients (R342). -/
  | bfwg (c : BitVec 1) (z : BitVec 3) (imm : BitVec 6) (o : BitVec 6)
  /-- Set a stride register (R337). -/
  | zset (c : BitVec 1) (z : BitVec 3) (imm : BitVec 6)
  /-- Read a stride register (R337). -/
  | zget (c : BitVec 1) (z : BitVec 3) (o : BitVec 6)
  /-- Clear a tile and its rows' status bits (R347). -/
  | accclr (c : BitVec 1) (a : BitVec 6)
  /-- Load a tile from scratchpad with conversion (R347). -/
  | accld (c : BitVec 1) (a : BitVec 6) (b : BitVec 6)
  /-- Epilogue conversion of a tile to scratchpad (R348). -/
  | epi (c : BitVec 1) (a : BitVec 6) (b : BitVec 6) (sc : BitVec 6) (k : BitVec 1) (j : BitVec 1) (g : BitVec 1)
  /-- Move raw tile columns into registers (R349). -/
  | accmv (c : BitVec 1) (a : BitVec 6) (b : BitVec 6)
  /-- Move registers into raw tile columns (R349). -/
  | accput (c : BitVec 1) (a : BitVec 6) (b : BitVec 6)
  /-- Store raw tile columns or row status to scratchpad (R350). -/
  | accst (c : BitVec 1) (a : BitVec 6) (b : BitVec 6) (t : BitVec 1)
  /-- Segmented broad-phase sort producing candidate pairs (R373). -/
  | srt (c : BitVec 1) (a : BitVec 6) (b : BitVec 6)
  /-- Bounding-volume tree traversal for box or ray queries (R375). -/
  | bvht (c : BitVec 1) (a : BitVec 6) (b : BitVec 6) (f : BitVec 1)
  /-- Factor and solve small dense blocks with pivot logs (R377). -/
  | bslv (c : BitVec 1) (a : BitVec 6) (b : BitVec 6) (f : BitVec 1)
  /-- Solve the adjoint system from pivot logs (R378). -/
  | bsadj (c : BitVec 1) (a : BitVec 6) (b : BitVec 6) (f : BitVec 1)
  /-- 32-bit random draw per lane (R380). -/
  | rng (c : BitVec 1) (d : BitVec 7)
  /-- 64-bit random draw per lane (R380). -/
  | rngD (c : BitVec 1) (d : BitVec 7)
  /-- f32 random draw in [0, 1) (R380). -/
  | rngf (c : BitVec 1) (d : BitVec 7)
  /-- Reset each lane's episode and queue a template copy (R382). -/
  | eprst (c : BitVec 1) (a : BitVec 7) (b : BitVec 5)
  /-- Set the lane's stream key (R381). -/
  | skey (c : BitVec 1) (a : BitVec 7)
  /-- Set the lane's draw counter (R381). -/
  | sctr (c : BitVec 1) (a : BitVec 7)
  /-- Take a FREE hypothesis id as a child of the lane's view (R314). -/
  | hnew (c : BitVec 1) (d : BitVec 7)
  /-- Set the lane's HYP to a live id (R138). -/
  | henter (c : BitVec 1) (a : BitVec 7)
  /-- Move the lane's HYP to its parent (R138). -/
  | hleave (c : BitVec 1)
  /-- Request confirmation of hypotheses (R315). -/
  | hcf (c : BitVec 1) (d : BitVec 7) (a : BitVec 7)
  /-- Request refutation of hypotheses (R315). -/
  | hrf (c : BitVec 1) (d : BitVec 7) (a : BitVec 7)
  /-- Read a hypothesis tree entry (R316). -/
  | hqry (c : BitVec 1) (d : BitVec 7) (a : BitVec 7)
  /-- Acquire the extended-block lock, waiting for the partner (R196). -/
  | xacq (c : BitVec 1)
  /-- Release the extended-block lock (R196). -/
  | xrel (c : BitVec 1)
  /-- Load and validate a record into a q register via the record cache (R26). -/
  | rld (c : BitVec 1) (d : BitVec 7) (a : BitVec 7) (k : BitVec 1) (b : BitVec 1)
  /-- Read a system register (R274). -/
  | srd (c : BitVec 1) (d : BitVec 7) (a : BitVec 7)
  /-- Write a writable system register (R274). -/
  | swr (c : BitVec 1) (d : BitVec 7) (a : BitVec 7)
  /-- Try to take the extended-block lock without waiting (R196). -/
  | xtry (c : BitVec 1) (p : BitVec 3)
  /-- Return from a trap handler per the frame's RESUME (R404). -/
  | tret (c : BitVec 1)
  /-- Make the group not ready for n cycles (R277). -/
  | sleep (c : BitVec 1) (a : BitVec 7)
  /-- Hand a 64 B packet to a launch queue (R278). -/
  | mcall (c : BitVec 1) (d : BitVec 7) (a : BitVec 7) (b : BitVec 7)
  deriving DecidableEq, Repr

end Sys2Proof
end

