-- ==== Sys2Proof/Decode.lean ====
section
/-! DEFINITION. Decoding an instruction word and encoding a well-formed instruction: the word formats of 09 R229 and
R237, the opcode and function maps of R240 and R241, and the reasons a word is refused (R242). The decoder answers
an instruction only where every bit the row fixes has its value; what a field's VALUE may be is `Instr.wellFormed`.

The decoder is marked noncomputable for one reason: Lean's code generator gives no code to a constructor with fields
whose number is above 244, and Instr has 384. The kernel evaluates it all the same. -/

namespace Sys2Proof

/-- Why a 32-bit value is no word of the table (09 R242). -/
inductive Reject where
  /-- Majors 30 and 31 (R240). -/
  | reservedMajor
  /-- A function value the opcode map does not assign (R241). -/
  | reservedFunction
  /-- A field the form does not use, or a bit the row fixes, has another value (R237). -/
  | unusedField
  /-- A header with its chain bit or bit 0 set (R229). -/
  | headerBits
  /-- The chain bit on a branch or control word, which may only end a chain (R228). -/
  | chainedControl
  deriving DecidableEq, Repr

/-- The `len` bits of `w` from bit `lo` up. -/
def fieldAt (lo len : Nat) (w : BitVec 32) : BitVec len := BitVec.ofNat len (w.toNat / 2 ^ lo)

noncomputable section

/-- A condition on the word's bits, or the reason it is refused. -/
def acceptIf (ok : Bool) (i : Instr) (r : Reject := .unusedField) : Except Reject Instr :=
  if ok then .ok i else .error r

/-- Major 0 (09 R240, R241). -/
def decodeHdr (w : BitVec 32) : Except Reject Instr :=
  acceptIf (fieldAt 31 1 w == 0 && fieldAt 0 1 w == 0) (.hdr (fieldAt 14 12 w) (fieldAt 10 4 w) (fieldAt 6 4 w) (fieldAt 5 1 w) (fieldAt 2 3 w) (fieldAt 1 1 w)) .headerBits

/-- Major 1 (09 R240, R241). -/
def decodeInt (w : BitVec 32) : Except Reject Instr :=
  match (fieldAt 21 5 w).toNat with
  | 0 => .ok (.add (fieldAt 31 1 w) (fieldAt 14 7 w) (fieldAt 7 7 w) (fieldAt 0 7 w))
  | 1 => .ok (.sub (fieldAt 31 1 w) (fieldAt 14 7 w) (fieldAt 7 7 w) (fieldAt 0 7 w))
  | 2 => .ok (.mul (fieldAt 31 1 w) (fieldAt 14 7 w) (fieldAt 7 7 w) (fieldAt 0 7 w))
  | 3 => .ok (.mulh (fieldAt 31 1 w) (fieldAt 14 7 w) (fieldAt 7 7 w) (fieldAt 0 7 w))
  | 4 => .ok (.mulhu (fieldAt 31 1 w) (fieldAt 14 7 w) (fieldAt 7 7 w) (fieldAt 0 7 w))
  | 5 => .ok (.min (fieldAt 31 1 w) (fieldAt 14 7 w) (fieldAt 7 7 w) (fieldAt 0 7 w))
  | 6 => .ok (.max (fieldAt 31 1 w) (fieldAt 14 7 w) (fieldAt 7 7 w) (fieldAt 0 7 w))
  | 7 => .ok (.minu (fieldAt 31 1 w) (fieldAt 14 7 w) (fieldAt 7 7 w) (fieldAt 0 7 w))
  | 8 => .ok (.maxu (fieldAt 31 1 w) (fieldAt 14 7 w) (fieldAt 7 7 w) (fieldAt 0 7 w))
  | 9 => .ok (.and (fieldAt 31 1 w) (fieldAt 14 7 w) (fieldAt 7 7 w) (fieldAt 0 7 w))
  | 10 => .ok (.or (fieldAt 31 1 w) (fieldAt 14 7 w) (fieldAt 7 7 w) (fieldAt 0 7 w))
  | 11 => .ok (.xor (fieldAt 31 1 w) (fieldAt 14 7 w) (fieldAt 7 7 w) (fieldAt 0 7 w))
  | 12 => .ok (.andn (fieldAt 31 1 w) (fieldAt 14 7 w) (fieldAt 7 7 w) (fieldAt 0 7 w))
  | 13 => .ok (.orn (fieldAt 31 1 w) (fieldAt 14 7 w) (fieldAt 7 7 w) (fieldAt 0 7 w))
  | 14 => .ok (.shl (fieldAt 31 1 w) (fieldAt 14 7 w) (fieldAt 7 7 w) (fieldAt 0 7 w))
  | 15 => .ok (.shr (fieldAt 31 1 w) (fieldAt 14 7 w) (fieldAt 7 7 w) (fieldAt 0 7 w))
  | 16 => .ok (.sra (fieldAt 31 1 w) (fieldAt 14 7 w) (fieldAt 7 7 w) (fieldAt 0 7 w))
  | 17 => .ok (.rotl (fieldAt 31 1 w) (fieldAt 14 7 w) (fieldAt 7 7 w) (fieldAt 0 7 w))
  | 18 => .ok (.rotr (fieldAt 31 1 w) (fieldAt 14 7 w) (fieldAt 7 7 w) (fieldAt 0 7 w))
  | 19 => .ok (.addc (fieldAt 31 1 w) (fieldAt 14 7 w) (fieldAt 7 7 w) (fieldAt 0 7 w))
  | 20 => .ok (.subb (fieldAt 31 1 w) (fieldAt 14 7 w) (fieldAt 7 7 w) (fieldAt 0 7 w))
  | 21 => .ok (.absd (fieldAt 31 1 w) (fieldAt 14 7 w) (fieldAt 7 7 w) (fieldAt 0 7 w))
  | _ => .error .reservedFunction

/-- Major 2 (09 R240, R241). -/
def decodeInti (w : BitVec 32) : Except Reject Instr :=
  match (fieldAt 23 3 w).toNat with
  | 0 => .ok (.addi (fieldAt 31 1 w) (fieldAt 16 7 w) (fieldAt 9 7 w) (fieldAt 0 9 w))
  | 1 => .ok (.andi (fieldAt 31 1 w) (fieldAt 16 7 w) (fieldAt 9 7 w) (fieldAt 0 9 w))
  | 2 => .ok (.ori (fieldAt 31 1 w) (fieldAt 16 7 w) (fieldAt 9 7 w) (fieldAt 0 9 w))
  | 3 => .ok (.xori (fieldAt 31 1 w) (fieldAt 16 7 w) (fieldAt 9 7 w) (fieldAt 0 9 w))
  | 4 => acceptIf (fieldAt 5 4 w == 0) (.shli (fieldAt 31 1 w) (fieldAt 16 7 w) (fieldAt 9 7 w) (fieldAt 0 5 w))
  | 5 => acceptIf (fieldAt 5 4 w == 0) (.shri (fieldAt 31 1 w) (fieldAt 16 7 w) (fieldAt 9 7 w) (fieldAt 0 5 w))
  | 6 => acceptIf (fieldAt 5 4 w == 0) (.srai (fieldAt 31 1 w) (fieldAt 16 7 w) (fieldAt 9 7 w) (fieldAt 0 5 w))
  | 7 => .ok (.muli (fieldAt 31 1 w) (fieldAt 16 7 w) (fieldAt 9 7 w) (fieldAt 0 9 w))
  | _ => .error .reservedFunction

/-- Major 3 (09 R240, R241). -/
def decodeIntd (w : BitVec 32) : Except Reject Instr :=
  match (fieldAt 21 5 w).toNat with
  | 0 => .ok (.addD (fieldAt 31 1 w) (fieldAt 14 7 w) (fieldAt 7 7 w) (fieldAt 0 7 w))
  | 1 => .ok (.subD (fieldAt 31 1 w) (fieldAt 14 7 w) (fieldAt 7 7 w) (fieldAt 0 7 w))
  | 2 => .ok (.mulD (fieldAt 31 1 w) (fieldAt 14 7 w) (fieldAt 7 7 w) (fieldAt 0 7 w))
  | 3 => .ok (.mulhD (fieldAt 31 1 w) (fieldAt 14 7 w) (fieldAt 7 7 w) (fieldAt 0 7 w))
  | 4 => .ok (.mulhuD (fieldAt 31 1 w) (fieldAt 14 7 w) (fieldAt 7 7 w) (fieldAt 0 7 w))
  | 5 => .ok (.minD (fieldAt 31 1 w) (fieldAt 14 7 w) (fieldAt 7 7 w) (fieldAt 0 7 w))
  | 6 => .ok (.maxD (fieldAt 31 1 w) (fieldAt 14 7 w) (fieldAt 7 7 w) (fieldAt 0 7 w))
  | 7 => .ok (.minuD (fieldAt 31 1 w) (fieldAt 14 7 w) (fieldAt 7 7 w) (fieldAt 0 7 w))
  | 8 => .ok (.maxuD (fieldAt 31 1 w) (fieldAt 14 7 w) (fieldAt 7 7 w) (fieldAt 0 7 w))
  | 9 => .ok (.andD (fieldAt 31 1 w) (fieldAt 14 7 w) (fieldAt 7 7 w) (fieldAt 0 7 w))
  | 10 => .ok (.orD (fieldAt 31 1 w) (fieldAt 14 7 w) (fieldAt 7 7 w) (fieldAt 0 7 w))
  | 11 => .ok (.xorD (fieldAt 31 1 w) (fieldAt 14 7 w) (fieldAt 7 7 w) (fieldAt 0 7 w))
  | 12 => .ok (.shlD (fieldAt 31 1 w) (fieldAt 14 7 w) (fieldAt 7 7 w) (fieldAt 0 7 w))
  | 13 => .ok (.shrD (fieldAt 31 1 w) (fieldAt 14 7 w) (fieldAt 7 7 w) (fieldAt 0 7 w))
  | 14 => .ok (.sraD (fieldAt 31 1 w) (fieldAt 14 7 w) (fieldAt 7 7 w) (fieldAt 0 7 w))
  | _ => .error .reservedFunction

/-- Major 4 (09 R240, R241). -/
def decodeBits (w : BitVec 32) : Except Reject Instr :=
  match (fieldAt 21 5 w).toNat with
  | 0 => acceptIf (fieldAt 0 7 w == 0) (.clz (fieldAt 31 1 w) (fieldAt 14 7 w) (fieldAt 7 7 w))
  | 1 => acceptIf (fieldAt 0 7 w == 0) (.ctz (fieldAt 31 1 w) (fieldAt 14 7 w) (fieldAt 7 7 w))
  | 2 => acceptIf (fieldAt 0 7 w == 0) (.popc (fieldAt 31 1 w) (fieldAt 14 7 w) (fieldAt 7 7 w))
  | 3 => acceptIf (fieldAt 0 7 w == 0) (.brev (fieldAt 31 1 w) (fieldAt 14 7 w) (fieldAt 7 7 w))
  | 4 => .ok (.bext (fieldAt 31 1 w) (fieldAt 14 7 w) (fieldAt 7 7 w) (fieldAt 0 7 w))
  | 5 => .ok (.bins (fieldAt 31 1 w) (fieldAt 14 7 w) (fieldAt 7 7 w) (fieldAt 0 7 w))
  | 6 => .ok (.ilv2 (fieldAt 31 1 w) (fieldAt 14 7 w) (fieldAt 7 7 w) (fieldAt 0 7 w))
  | 7 => .ok (.ilv3 (fieldAt 31 1 w) (fieldAt 14 7 w) (fieldAt 7 7 w) (fieldAt 0 7 w))
  | 8 => .ok (.dlv3 (fieldAt 31 1 w) (fieldAt 14 7 w) (fieldAt 7 7 w) (fieldAt 0 7 w))
  | 9 => .ok (.cpl (fieldAt 31 1 w) (fieldAt 14 7 w) (fieldAt 7 7 w) (fieldAt 0 7 w))
  | 10 => .ok (.bsel (fieldAt 31 1 w) (fieldAt 14 7 w) (fieldAt 7 7 w) (fieldAt 0 7 w))
  | 11 => .ok (.prmt (fieldAt 31 1 w) (fieldAt 14 7 w) (fieldAt 7 7 w) (fieldAt 0 7 w))
  | _ => .error .reservedFunction

/-- Major 5 (09 R240, R241). -/
def decodeFlt (w : BitVec 32) : Except Reject Instr :=
  match (fieldAt 21 3 w).toNat with
  | 0 => .ok (.fadd (fieldAt 31 1 w) (fieldAt 24 2 w) (fieldAt 14 7 w) (fieldAt 7 7 w) (fieldAt 0 7 w))
  | 1 => .ok (.fsub (fieldAt 31 1 w) (fieldAt 24 2 w) (fieldAt 14 7 w) (fieldAt 7 7 w) (fieldAt 0 7 w))
  | 2 => .ok (.fmul (fieldAt 31 1 w) (fieldAt 24 2 w) (fieldAt 14 7 w) (fieldAt 7 7 w) (fieldAt 0 7 w))
  | 3 => .ok (.fmin (fieldAt 31 1 w) (fieldAt 24 2 w) (fieldAt 14 7 w) (fieldAt 7 7 w) (fieldAt 0 7 w))
  | 4 => .ok (.fmax (fieldAt 31 1 w) (fieldAt 24 2 w) (fieldAt 14 7 w) (fieldAt 7 7 w) (fieldAt 0 7 w))
  | 5 => .ok (.fminm (fieldAt 31 1 w) (fieldAt 24 2 w) (fieldAt 14 7 w) (fieldAt 7 7 w) (fieldAt 0 7 w))
  | 6 => .ok (.fmaxm (fieldAt 31 1 w) (fieldAt 24 2 w) (fieldAt 14 7 w) (fieldAt 7 7 w) (fieldAt 0 7 w))
  | 7 => .ok (.fdiv (fieldAt 31 1 w) (fieldAt 24 2 w) (fieldAt 14 7 w) (fieldAt 7 7 w) (fieldAt 0 7 w))
  | _ => .error .reservedFunction

/-- Major 6 (09 R240, R241). -/
def decodeFma (w : BitVec 32) : Except Reject Instr :=
  match (fieldAt 21 3 w).toNat with
  | 0 => .ok (.fma (fieldAt 31 1 w) (fieldAt 24 2 w) (fieldAt 14 7 w) (fieldAt 7 7 w) (fieldAt 0 7 w))
  | 1 => .ok (.fms (fieldAt 31 1 w) (fieldAt 24 2 w) (fieldAt 14 7 w) (fieldAt 7 7 w) (fieldAt 0 7 w))
  | 2 => .ok (.fnma (fieldAt 31 1 w) (fieldAt 24 2 w) (fieldAt 14 7 w) (fieldAt 7 7 w) (fieldAt 0 7 w))
  | 3 => .ok (.fnms (fieldAt 31 1 w) (fieldAt 24 2 w) (fieldAt 14 7 w) (fieldAt 7 7 w) (fieldAt 0 7 w))
  | _ => .error .reservedFunction

/-- Major 7 (09 R240, R241). -/
def decodeCvt (w : BitVec 32) : Except Reject Instr :=
  match (fieldAt 21 3 w).toNat with
  | 0 => .ok (.cvt (fieldAt 31 1 w) (fieldAt 24 2 w) (fieldAt 14 7 w) (fieldAt 7 7 w) (fieldAt 3 4 w) (fieldAt 0 3 w))
  | 1 => acceptIf (fieldAt 3 4 w == 0) (.rcp (fieldAt 31 1 w) (fieldAt 24 2 w) (fieldAt 14 7 w) (fieldAt 7 7 w) (fieldAt 0 3 w))
  | 2 => acceptIf (fieldAt 3 4 w == 0) (.rsq (fieldAt 31 1 w) (fieldAt 24 2 w) (fieldAt 14 7 w) (fieldAt 7 7 w) (fieldAt 0 3 w))
  | 3 => acceptIf (fieldAt 3 4 w == 0) (.sqrt (fieldAt 31 1 w) (fieldAt 24 2 w) (fieldAt 14 7 w) (fieldAt 7 7 w) (fieldAt 0 3 w))
  | 4 => acceptIf (fieldAt 3 4 w == 0) (.exp2 (fieldAt 31 1 w) (fieldAt 24 2 w) (fieldAt 14 7 w) (fieldAt 7 7 w) (fieldAt 0 3 w))
  | 5 => acceptIf (fieldAt 3 4 w == 0) (.log2 (fieldAt 31 1 w) (fieldAt 24 2 w) (fieldAt 14 7 w) (fieldAt 7 7 w) (fieldAt 0 3 w))
  | 6 => acceptIf (fieldAt 3 4 w == 0) (.sinp (fieldAt 31 1 w) (fieldAt 24 2 w) (fieldAt 14 7 w) (fieldAt 7 7 w) (fieldAt 0 3 w))
  | 7 => acceptIf (fieldAt 3 4 w == 0) (.rint (fieldAt 31 1 w) (fieldAt 24 2 w) (fieldAt 14 7 w) (fieldAt 7 7 w) (fieldAt 0 3 w))
  | _ => .error .reservedFunction

/-- Major 8 (09 R240, R241). -/
def decodeCmp (w : BitVec 32) : Except Reject Instr :=
  match (fieldAt 21 5 w).toNat with
  | 0 => .ok (.cmpEq (fieldAt 31 1 w) (fieldAt 18 3 w) (fieldAt 16 2 w) (fieldAt 14 2 w) (fieldAt 7 7 w) (fieldAt 0 7 w))
  | 1 => .ok (.cmpNe (fieldAt 31 1 w) (fieldAt 18 3 w) (fieldAt 16 2 w) (fieldAt 14 2 w) (fieldAt 7 7 w) (fieldAt 0 7 w))
  | 2 => .ok (.cmpLt (fieldAt 31 1 w) (fieldAt 18 3 w) (fieldAt 16 2 w) (fieldAt 14 2 w) (fieldAt 7 7 w) (fieldAt 0 7 w))
  | 3 => .ok (.cmpLe (fieldAt 31 1 w) (fieldAt 18 3 w) (fieldAt 16 2 w) (fieldAt 14 2 w) (fieldAt 7 7 w) (fieldAt 0 7 w))
  | 4 => .ok (.cmpGt (fieldAt 31 1 w) (fieldAt 18 3 w) (fieldAt 16 2 w) (fieldAt 14 2 w) (fieldAt 7 7 w) (fieldAt 0 7 w))
  | 5 => .ok (.cmpGe (fieldAt 31 1 w) (fieldAt 18 3 w) (fieldAt 16 2 w) (fieldAt 14 2 w) (fieldAt 7 7 w) (fieldAt 0 7 w))
  | 6 => .ok (.cmpLtu (fieldAt 31 1 w) (fieldAt 18 3 w) (fieldAt 16 2 w) (fieldAt 14 2 w) (fieldAt 7 7 w) (fieldAt 0 7 w))
  | 7 => .ok (.cmpLeu (fieldAt 31 1 w) (fieldAt 18 3 w) (fieldAt 16 2 w) (fieldAt 14 2 w) (fieldAt 7 7 w) (fieldAt 0 7 w))
  | 8 => .ok (.cmpGtu (fieldAt 31 1 w) (fieldAt 18 3 w) (fieldAt 16 2 w) (fieldAt 14 2 w) (fieldAt 7 7 w) (fieldAt 0 7 w))
  | 9 => .ok (.cmpGeu (fieldAt 31 1 w) (fieldAt 18 3 w) (fieldAt 16 2 w) (fieldAt 14 2 w) (fieldAt 7 7 w) (fieldAt 0 7 w))
  | 10 => .ok (.cmpFeq (fieldAt 31 1 w) (fieldAt 18 3 w) (fieldAt 16 2 w) (fieldAt 14 2 w) (fieldAt 7 7 w) (fieldAt 0 7 w))
  | 11 => .ok (.cmpFne (fieldAt 31 1 w) (fieldAt 18 3 w) (fieldAt 16 2 w) (fieldAt 14 2 w) (fieldAt 7 7 w) (fieldAt 0 7 w))
  | 12 => .ok (.cmpFlt (fieldAt 31 1 w) (fieldAt 18 3 w) (fieldAt 16 2 w) (fieldAt 14 2 w) (fieldAt 7 7 w) (fieldAt 0 7 w))
  | 13 => .ok (.cmpFle (fieldAt 31 1 w) (fieldAt 18 3 w) (fieldAt 16 2 w) (fieldAt 14 2 w) (fieldAt 7 7 w) (fieldAt 0 7 w))
  | 14 => .ok (.cmpFgt (fieldAt 31 1 w) (fieldAt 18 3 w) (fieldAt 16 2 w) (fieldAt 14 2 w) (fieldAt 7 7 w) (fieldAt 0 7 w))
  | 15 => .ok (.cmpFge (fieldAt 31 1 w) (fieldAt 18 3 w) (fieldAt 16 2 w) (fieldAt 14 2 w) (fieldAt 7 7 w) (fieldAt 0 7 w))
  | 16 => .ok (.cmpFun (fieldAt 31 1 w) (fieldAt 18 3 w) (fieldAt 16 2 w) (fieldAt 14 2 w) (fieldAt 7 7 w) (fieldAt 0 7 w))
  | 17 => .ok (.cmpFord (fieldAt 31 1 w) (fieldAt 18 3 w) (fieldAt 16 2 w) (fieldAt 14 2 w) (fieldAt 7 7 w) (fieldAt 0 7 w))
  | _ => .error .reservedFunction

/-- Major 9 (09 R240, R241). -/
def decodeMov (w : BitVec 32) : Except Reject Instr :=
  match (fieldAt 21 5 w).toNat with
  | 0 => acceptIf (fieldAt 0 7 w == 0) (.mov (fieldAt 31 1 w) (fieldAt 14 7 w) (fieldAt 7 7 w))
  | 8 => acceptIf (fieldAt 0 14 w == 0) (.lid (fieldAt 31 1 w) (fieldAt 14 7 w))
  | 9 => acceptIf (fieldAt 7 7 w == 0) (.gidx (fieldAt 31 1 w) (fieldAt 14 7 w) (fieldAt 0 7 w))
  | 10 => acceptIf (fieldAt 0 7 w == 0) (.bcast (fieldAt 31 1 w) (fieldAt 14 7 w) (fieldAt 7 7 w))
  | 11 => acceptIf (fieldAt 17 4 w == 0 && fieldAt 10 4 w == 0 && fieldAt 3 4 w == 0) (.pand (fieldAt 31 1 w) (fieldAt 14 3 w) (fieldAt 7 3 w) (fieldAt 0 3 w))
  | 12 => acceptIf (fieldAt 17 4 w == 0 && fieldAt 10 4 w == 0 && fieldAt 3 4 w == 0) (.por (fieldAt 31 1 w) (fieldAt 14 3 w) (fieldAt 7 3 w) (fieldAt 0 3 w))
  | 13 => acceptIf (fieldAt 17 4 w == 0 && fieldAt 10 4 w == 0 && fieldAt 3 4 w == 0) (.pxor (fieldAt 31 1 w) (fieldAt 14 3 w) (fieldAt 7 3 w) (fieldAt 0 3 w))
  | 14 => acceptIf (fieldAt 17 4 w == 0 && fieldAt 10 4 w == 0 && fieldAt 0 7 w == 0) (.pnot (fieldAt 31 1 w) (fieldAt 14 3 w) (fieldAt 7 3 w))
  | 15 => acceptIf (fieldAt 10 4 w == 0 && fieldAt 0 7 w == 0) (.vote (fieldAt 31 1 w) (fieldAt 14 7 w) (fieldAt 7 3 w))
  | 16 => .ok (.smovv (fieldAt 31 1 w) (fieldAt 14 7 w) (fieldAt 7 7 w) (fieldAt 0 7 w))
  | 17 => if fieldAt 0 14 w == 0 then .ok (.movpGet (fieldAt 31 1 w) (fieldAt 14 7 w)) else acceptIf (fieldAt 14 7 w == 0 && fieldAt 0 7 w == 1) (.movpSet (fieldAt 31 1 w) (fieldAt 7 7 w))
  | 1 => .ok (.sel (fieldAt 31 1 w) 1 (fieldAt 14 7 w) (fieldAt 7 7 w) (fieldAt 0 7 w))
  | 2 => .ok (.sel (fieldAt 31 1 w) 2 (fieldAt 14 7 w) (fieldAt 7 7 w) (fieldAt 0 7 w))
  | 3 => .ok (.sel (fieldAt 31 1 w) 3 (fieldAt 14 7 w) (fieldAt 7 7 w) (fieldAt 0 7 w))
  | 4 => .ok (.sel (fieldAt 31 1 w) 4 (fieldAt 14 7 w) (fieldAt 7 7 w) (fieldAt 0 7 w))
  | 5 => .ok (.sel (fieldAt 31 1 w) 5 (fieldAt 14 7 w) (fieldAt 7 7 w) (fieldAt 0 7 w))
  | 6 => .ok (.sel (fieldAt 31 1 w) 6 (fieldAt 14 7 w) (fieldAt 7 7 w) (fieldAt 0 7 w))
  | 7 => .ok (.sel (fieldAt 31 1 w) 7 (fieldAt 14 7 w) (fieldAt 7 7 w) (fieldAt 0 7 w))
  | _ => .error .reservedFunction

/-- Major 10 (09 R240, R241). -/
def decodeUni (w : BitVec 32) : Except Reject Instr :=
  match (fieldAt 21 5 w).toNat with
  | 0 => .ok (.sadd (fieldAt 31 1 w) (fieldAt 14 7 w) (fieldAt 7 7 w) (fieldAt 0 7 w))
  | 1 => .ok (.ssub (fieldAt 31 1 w) (fieldAt 14 7 w) (fieldAt 7 7 w) (fieldAt 0 7 w))
  | 2 => .ok (.smul (fieldAt 31 1 w) (fieldAt 14 7 w) (fieldAt 7 7 w) (fieldAt 0 7 w))
  | 3 => .ok (.sand (fieldAt 31 1 w) (fieldAt 14 7 w) (fieldAt 7 7 w) (fieldAt 0 7 w))
  | 4 => .ok (.sor (fieldAt 31 1 w) (fieldAt 14 7 w) (fieldAt 7 7 w) (fieldAt 0 7 w))
  | 5 => .ok (.sxor (fieldAt 31 1 w) (fieldAt 14 7 w) (fieldAt 7 7 w) (fieldAt 0 7 w))
  | 6 => .ok (.sshl (fieldAt 31 1 w) (fieldAt 14 7 w) (fieldAt 7 7 w) (fieldAt 0 7 w))
  | 7 => .ok (.sshr (fieldAt 31 1 w) (fieldAt 14 7 w) (fieldAt 7 7 w) (fieldAt 0 7 w))
  | 8 => .ok (.ssra (fieldAt 31 1 w) (fieldAt 14 7 w) (fieldAt 7 7 w) (fieldAt 0 7 w))
  | 9 => .ok (.smin (fieldAt 31 1 w) (fieldAt 14 7 w) (fieldAt 7 7 w) (fieldAt 0 7 w))
  | 10 => .ok (.smax (fieldAt 31 1 w) (fieldAt 14 7 w) (fieldAt 7 7 w) (fieldAt 0 7 w))
  | 11 => .ok (.sminu (fieldAt 31 1 w) (fieldAt 14 7 w) (fieldAt 7 7 w) (fieldAt 0 7 w))
  | 12 => .ok (.smaxu (fieldAt 31 1 w) (fieldAt 14 7 w) (fieldAt 7 7 w) (fieldAt 0 7 w))
  | 13 => acceptIf (fieldAt 0 7 w == 0) (.smov (fieldAt 31 1 w) (fieldAt 14 7 w) (fieldAt 7 7 w))
  | 14 => .ok (.scmplt (fieldAt 31 1 w) (fieldAt 14 7 w) (fieldAt 7 7 w) (fieldAt 0 7 w))
  | 15 => .ok (.scmpeq (fieldAt 31 1 w) (fieldAt 14 7 w) (fieldAt 7 7 w) (fieldAt 0 7 w))
  | _ => .error .reservedFunction

/-- Major 11 (09 R240, R241). -/
def decodeImm (w : BitVec 32) : Except Reject Instr :=
  match (fieldAt 24 2 w).toNat with
  | 0 => .ok (.movi (fieldAt 31 1 w) (fieldAt 17 7 w) (fieldAt 0 17 w))
  | 1 => .ok (.movx (fieldAt 31 1 w) (fieldAt 17 7 w) (fieldAt 0 17 w))
  | 2 => .ok (.smovi (fieldAt 31 1 w) (fieldAt 17 7 w) (fieldAt 0 17 w))
  | 3 => .ok (.smovx (fieldAt 31 1 w) (fieldAt 17 7 w) (fieldAt 0 17 w))
  | _ => .error .reservedFunction

/-- Major 12 (09 R240, R241). -/
def decodeBr (w : BitVec 32) : Except Reject Instr :=
  match (fieldAt 23 3 w).toNat with
  | 0 => if fieldAt 31 1 w == 0 then acceptIf (fieldAt 20 3 w == 0) (.jmp (fieldAt 14 6 w) (fieldAt 0 14 w)) else .error .chainedControl
  | 1 => if fieldAt 31 1 w == 0 then .ok (.bt (fieldAt 20 3 w) (fieldAt 14 6 w) (fieldAt 0 14 w)) else .error .chainedControl
  | 2 => if fieldAt 31 1 w == 0 then .ok (.bf (fieldAt 20 3 w) (fieldAt 14 6 w) (fieldAt 0 14 w)) else .error .chainedControl
  | 3 => if fieldAt 31 1 w == 0 then .ok (.bany (fieldAt 20 3 w) (fieldAt 14 6 w) (fieldAt 0 14 w)) else .error .chainedControl
  | 4 => if fieldAt 31 1 w == 0 then .ok (.ball (fieldAt 20 3 w) (fieldAt 14 6 w) (fieldAt 0 14 w)) else .error .chainedControl
  | 5 => if fieldAt 31 1 w == 0 then acceptIf (fieldAt 20 3 w == 0) (.call (fieldAt 14 6 w) (fieldAt 0 14 w)) else .error .chainedControl
  | _ => .error .reservedFunction

/-- Major 13 (09 R240, R241). -/
def decodeCtl (w : BitVec 32) : Except Reject Instr :=
  match (fieldAt 21 5 w).toNat with
  | 0 => if fieldAt 31 1 w == 0 then acceptIf (fieldAt 0 21 w == 0) .nop else .error .chainedControl
  | 1 => if fieldAt 31 1 w == 0 then acceptIf (fieldAt 0 21 w == 0) .exit else .error .chainedControl
  | 2 => if fieldAt 31 1 w == 0 then acceptIf (fieldAt 0 21 w == 0) .ret else .error .chainedControl
  | 3 => if fieldAt 31 1 w == 0 then acceptIf (fieldAt 14 7 w == 0) (.brx (fieldAt 7 7 w) (fieldAt 0 7 w)) else .error .chainedControl
  | 4 => if fieldAt 31 1 w == 0 then acceptIf (fieldAt 0 21 w == 0) .yield else .error .chainedControl
  | 5 => if fieldAt 31 1 w == 0 then acceptIf (fieldAt 7 14 w == 0) (.trap (fieldAt 0 7 w)) else .error .chainedControl
  | 6 => if fieldAt 31 1 w == 0 then acceptIf (fieldAt 0 21 w == 0) .ient else .error .chainedControl
  | 7 => if fieldAt 31 1 w == 0 then acceptIf (fieldAt 14 7 w == 0 && fieldAt 0 7 w == 0) (.regroup (fieldAt 7 7 w)) else .error .chainedControl
  | 8 => if fieldAt 31 1 w == 0 then acceptIf (fieldAt 7 14 w == 0) (.bkpt (fieldAt 0 7 w)) else .error .chainedControl
  | _ => .error .reservedFunction

/-- Major 14 (09 R240, R241). -/
def decodeLd (w : BitVec 32) : Except Reject Instr :=
  match (fieldAt 22 4 w).toNat with
  | 0 => .ok (.ldB (fieldAt 31 1 w) (fieldAt 19 3 w) (fieldAt 18 1 w) (fieldAt 11 7 w) (fieldAt 7 4 w) (fieldAt 0 7 w))
  | 1 => .ok (.ldBs (fieldAt 31 1 w) (fieldAt 19 3 w) (fieldAt 18 1 w) (fieldAt 11 7 w) (fieldAt 7 4 w) (fieldAt 0 7 w))
  | 2 => .ok (.ldH (fieldAt 31 1 w) (fieldAt 19 3 w) (fieldAt 18 1 w) (fieldAt 11 7 w) (fieldAt 7 4 w) (fieldAt 0 7 w))
  | 3 => .ok (.ldHs (fieldAt 31 1 w) (fieldAt 19 3 w) (fieldAt 18 1 w) (fieldAt 11 7 w) (fieldAt 7 4 w) (fieldAt 0 7 w))
  | 4 => .ok (.ldW (fieldAt 31 1 w) (fieldAt 19 3 w) (fieldAt 18 1 w) (fieldAt 11 7 w) (fieldAt 7 4 w) (fieldAt 0 7 w))
  | 5 => .ok (.ldD (fieldAt 31 1 w) (fieldAt 19 3 w) (fieldAt 18 1 w) (fieldAt 11 7 w) (fieldAt 7 4 w) (fieldAt 0 7 w))
  | 6 => .ok (.ldQ (fieldAt 31 1 w) (fieldAt 19 3 w) (fieldAt 18 1 w) (fieldAt 11 7 w) (fieldAt 7 4 w) (fieldAt 0 7 w))
  | 7 => acceptIf (fieldAt 5 2 w == 3) (.ldl (fieldAt 31 1 w) (fieldAt 19 3 w) (fieldAt 18 1 w) (fieldAt 11 7 w) (fieldAt 7 4 w) (fieldAt 0 5 w))
  | 8 => acceptIf (fieldAt 5 2 w == 3) (.sld (fieldAt 31 1 w) (fieldAt 19 3 w) (fieldAt 18 1 w) (fieldAt 11 7 w) (fieldAt 7 4 w) (fieldAt 0 5 w))
  | 9 => .ok (.ldNc (fieldAt 31 1 w) (fieldAt 19 3 w) (fieldAt 18 1 w) (fieldAt 11 7 w) (fieldAt 7 4 w) (fieldAt 0 7 w))
  | _ => .error .reservedFunction

/-- Major 15 (09 R240, R241). -/
def decodeSt (w : BitVec 32) : Except Reject Instr :=
  match (fieldAt 22 4 w).toNat with
  | 0 => .ok (.stB (fieldAt 31 1 w) (fieldAt 19 3 w) (fieldAt 18 1 w) (fieldAt 11 7 w) (fieldAt 7 4 w) (fieldAt 0 7 w))
  | 1 => .ok (.stH (fieldAt 31 1 w) (fieldAt 19 3 w) (fieldAt 18 1 w) (fieldAt 11 7 w) (fieldAt 7 4 w) (fieldAt 0 7 w))
  | 2 => .ok (.stW (fieldAt 31 1 w) (fieldAt 19 3 w) (fieldAt 18 1 w) (fieldAt 11 7 w) (fieldAt 7 4 w) (fieldAt 0 7 w))
  | 3 => .ok (.stD (fieldAt 31 1 w) (fieldAt 19 3 w) (fieldAt 18 1 w) (fieldAt 11 7 w) (fieldAt 7 4 w) (fieldAt 0 7 w))
  | 4 => .ok (.stQ (fieldAt 31 1 w) (fieldAt 19 3 w) (fieldAt 18 1 w) (fieldAt 11 7 w) (fieldAt 7 4 w) (fieldAt 0 7 w))
  | 5 => acceptIf (fieldAt 5 2 w == 3) (.stl (fieldAt 31 1 w) (fieldAt 19 3 w) (fieldAt 18 1 w) (fieldAt 11 7 w) (fieldAt 7 4 w) (fieldAt 0 5 w))
  | 6 => acceptIf (fieldAt 5 2 w == 3) (.sst (fieldAt 31 1 w) (fieldAt 19 3 w) (fieldAt 18 1 w) (fieldAt 11 7 w) (fieldAt 7 4 w) (fieldAt 0 5 w))
  | _ => .error .reservedFunction

/-- Major 16 (09 R240, R241). -/
def decodeAtom (w : BitVec 32) : Except Reject Instr :=
  match (fieldAt 22 4 w).toNat with
  | 0 => .ok (.atomAdd (fieldAt 31 1 w) (fieldAt 19 3 w) (fieldAt 17 2 w) (fieldAt 10 7 w) (fieldAt 7 3 w) (fieldAt 0 7 w))
  | 1 => .ok (.atomSub (fieldAt 31 1 w) (fieldAt 19 3 w) (fieldAt 17 2 w) (fieldAt 10 7 w) (fieldAt 7 3 w) (fieldAt 0 7 w))
  | 2 => .ok (.atomAnd (fieldAt 31 1 w) (fieldAt 19 3 w) (fieldAt 17 2 w) (fieldAt 10 7 w) (fieldAt 7 3 w) (fieldAt 0 7 w))
  | 3 => .ok (.atomOr (fieldAt 31 1 w) (fieldAt 19 3 w) (fieldAt 17 2 w) (fieldAt 10 7 w) (fieldAt 7 3 w) (fieldAt 0 7 w))
  | 4 => .ok (.atomXor (fieldAt 31 1 w) (fieldAt 19 3 w) (fieldAt 17 2 w) (fieldAt 10 7 w) (fieldAt 7 3 w) (fieldAt 0 7 w))
  | 5 => .ok (.atomMin (fieldAt 31 1 w) (fieldAt 19 3 w) (fieldAt 17 2 w) (fieldAt 10 7 w) (fieldAt 7 3 w) (fieldAt 0 7 w))
  | 6 => .ok (.atomMax (fieldAt 31 1 w) (fieldAt 19 3 w) (fieldAt 17 2 w) (fieldAt 10 7 w) (fieldAt 7 3 w) (fieldAt 0 7 w))
  | 7 => .ok (.atomUmin (fieldAt 31 1 w) (fieldAt 19 3 w) (fieldAt 17 2 w) (fieldAt 10 7 w) (fieldAt 7 3 w) (fieldAt 0 7 w))
  | 8 => .ok (.atomUmax (fieldAt 31 1 w) (fieldAt 19 3 w) (fieldAt 17 2 w) (fieldAt 10 7 w) (fieldAt 7 3 w) (fieldAt 0 7 w))
  | 9 => .ok (.atomXchg (fieldAt 31 1 w) (fieldAt 19 3 w) (fieldAt 17 2 w) (fieldAt 10 7 w) (fieldAt 7 3 w) (fieldAt 0 7 w))
  | 10 => .ok (.atomCas (fieldAt 31 1 w) (fieldAt 19 3 w) (fieldAt 17 2 w) (fieldAt 10 7 w) (fieldAt 7 3 w) (fieldAt 0 7 w))
  | 11 => .ok (.atomFadd (fieldAt 31 1 w) (fieldAt 19 3 w) (fieldAt 17 2 w) (fieldAt 10 7 w) (fieldAt 7 3 w) (fieldAt 0 7 w))
  | 12 => .ok (.atomFmin (fieldAt 31 1 w) (fieldAt 19 3 w) (fieldAt 17 2 w) (fieldAt 10 7 w) (fieldAt 7 3 w) (fieldAt 0 7 w))
  | 13 => .ok (.atomFmax (fieldAt 31 1 w) (fieldAt 19 3 w) (fieldAt 17 2 w) (fieldAt 10 7 w) (fieldAt 7 3 w) (fieldAt 0 7 w))
  | 14 => .ok (.atomLd (fieldAt 31 1 w) (fieldAt 19 3 w) (fieldAt 17 2 w) (fieldAt 10 7 w) (fieldAt 7 3 w) (fieldAt 0 7 w))
  | 15 => .ok (.atomSt (fieldAt 31 1 w) (fieldAt 19 3 w) (fieldAt 17 2 w) (fieldAt 10 7 w) (fieldAt 7 3 w) (fieldAt 0 7 w))
  | _ => .error .reservedFunction

/-- Major 17 (09 R240, R241). -/
def decodeAtomd (w : BitVec 32) : Except Reject Instr :=
  match (fieldAt 22 4 w).toNat with
  | 0 => .ok (.atomdAdd (fieldAt 31 1 w) (fieldAt 19 3 w) (fieldAt 17 2 w) (fieldAt 10 7 w) (fieldAt 7 3 w) (fieldAt 0 7 w))
  | 1 => .ok (.atomdSub (fieldAt 31 1 w) (fieldAt 19 3 w) (fieldAt 17 2 w) (fieldAt 10 7 w) (fieldAt 7 3 w) (fieldAt 0 7 w))
  | 2 => .ok (.atomdAnd (fieldAt 31 1 w) (fieldAt 19 3 w) (fieldAt 17 2 w) (fieldAt 10 7 w) (fieldAt 7 3 w) (fieldAt 0 7 w))
  | 3 => .ok (.atomdOr (fieldAt 31 1 w) (fieldAt 19 3 w) (fieldAt 17 2 w) (fieldAt 10 7 w) (fieldAt 7 3 w) (fieldAt 0 7 w))
  | 4 => .ok (.atomdXor (fieldAt 31 1 w) (fieldAt 19 3 w) (fieldAt 17 2 w) (fieldAt 10 7 w) (fieldAt 7 3 w) (fieldAt 0 7 w))
  | 5 => .ok (.atomdMin (fieldAt 31 1 w) (fieldAt 19 3 w) (fieldAt 17 2 w) (fieldAt 10 7 w) (fieldAt 7 3 w) (fieldAt 0 7 w))
  | 6 => .ok (.atomdMax (fieldAt 31 1 w) (fieldAt 19 3 w) (fieldAt 17 2 w) (fieldAt 10 7 w) (fieldAt 7 3 w) (fieldAt 0 7 w))
  | 7 => .ok (.atomdUmin (fieldAt 31 1 w) (fieldAt 19 3 w) (fieldAt 17 2 w) (fieldAt 10 7 w) (fieldAt 7 3 w) (fieldAt 0 7 w))
  | 8 => .ok (.atomdUmax (fieldAt 31 1 w) (fieldAt 19 3 w) (fieldAt 17 2 w) (fieldAt 10 7 w) (fieldAt 7 3 w) (fieldAt 0 7 w))
  | 9 => .ok (.atomdXchg (fieldAt 31 1 w) (fieldAt 19 3 w) (fieldAt 17 2 w) (fieldAt 10 7 w) (fieldAt 7 3 w) (fieldAt 0 7 w))
  | 10 => .ok (.atomdCas (fieldAt 31 1 w) (fieldAt 19 3 w) (fieldAt 17 2 w) (fieldAt 10 7 w) (fieldAt 7 3 w) (fieldAt 0 7 w))
  | 11 => .ok (.atomdFadd (fieldAt 31 1 w) (fieldAt 19 3 w) (fieldAt 17 2 w) (fieldAt 10 7 w) (fieldAt 7 3 w) (fieldAt 0 7 w))
  | 12 => .ok (.atomdFmin (fieldAt 31 1 w) (fieldAt 19 3 w) (fieldAt 17 2 w) (fieldAt 10 7 w) (fieldAt 7 3 w) (fieldAt 0 7 w))
  | 13 => .ok (.atomdFmax (fieldAt 31 1 w) (fieldAt 19 3 w) (fieldAt 17 2 w) (fieldAt 10 7 w) (fieldAt 7 3 w) (fieldAt 0 7 w))
  | 14 => .ok (.atomdLd (fieldAt 31 1 w) (fieldAt 19 3 w) (fieldAt 17 2 w) (fieldAt 10 7 w) (fieldAt 7 3 w) (fieldAt 0 7 w))
  | 15 => .ok (.atomdSt (fieldAt 31 1 w) (fieldAt 19 3 w) (fieldAt 17 2 w) (fieldAt 10 7 w) (fieldAt 7 3 w) (fieldAt 0 7 w))
  | _ => .error .reservedFunction

/-- Major 18 (09 R240, R241). -/
def decodeXl (w : BitVec 32) : Except Reject Instr :=
  match (fieldAt 21 5 w).toNat with
  | 0 => .ok (.shfl (fieldAt 31 1 w) (fieldAt 14 7 w) (fieldAt 7 7 w) (fieldAt 0 7 w))
  | 1 => acceptIf (fieldAt 5 2 w == 0) (.shflUp (fieldAt 31 1 w) (fieldAt 14 7 w) (fieldAt 7 7 w) (fieldAt 0 5 w))
  | 2 => acceptIf (fieldAt 5 2 w == 0) (.shflDn (fieldAt 31 1 w) (fieldAt 14 7 w) (fieldAt 7 7 w) (fieldAt 0 5 w))
  | 3 => acceptIf (fieldAt 5 2 w == 0) (.shflXor (fieldAt 31 1 w) (fieldAt 14 7 w) (fieldAt 7 7 w) (fieldAt 0 5 w))
  | 4 => .ok (.perm (fieldAt 31 1 w) (fieldAt 14 7 w) (fieldAt 7 7 w) (fieldAt 0 7 w))
  | 5 => acceptIf (fieldAt 0 7 w == 0) (.scanAdd (fieldAt 31 1 w) (fieldAt 14 7 w) (fieldAt 7 7 w))
  | 6 => acceptIf (fieldAt 0 7 w == 0) (.scanAddx (fieldAt 31 1 w) (fieldAt 14 7 w) (fieldAt 7 7 w))
  | 7 => acceptIf (fieldAt 1 6 w == 0) (.rdcAdd (fieldAt 31 1 w) (fieldAt 14 7 w) (fieldAt 7 7 w) (fieldAt 0 1 w))
  | 8 => acceptIf (fieldAt 2 5 w == 0) (.rdcMin (fieldAt 31 1 w) (fieldAt 14 7 w) (fieldAt 7 7 w) (fieldAt 0 2 w))
  | 9 => acceptIf (fieldAt 2 5 w == 0) (.rdcMax (fieldAt 31 1 w) (fieldAt 14 7 w) (fieldAt 7 7 w) (fieldAt 0 2 w))
  | 10 => acceptIf (fieldAt 3 4 w == 0) (.rbal (fieldAt 31 1 w) (fieldAt 14 7 w) (fieldAt 7 7 w) (fieldAt 0 3 w))
  | 11 => acceptIf (fieldAt 3 4 w == 0) (.cmpx (fieldAt 31 1 w) (fieldAt 14 7 w) (fieldAt 7 7 w) (fieldAt 0 3 w))
  | 12 => acceptIf (fieldAt 0 7 w == 0) (.scanFadd (fieldAt 31 1 w) (fieldAt 14 7 w) (fieldAt 7 7 w))
  | _ => .error .reservedFunction

/-- Major 19 (09 R240, R241). -/
def decodeSync (w : BitVec 32) : Except Reject Instr :=
  match (fieldAt 21 5 w).toNat with
  | 0 => acceptIf (fieldAt 3 15 w == 0) (.fence (fieldAt 31 1 w) (fieldAt 18 3 w) (fieldAt 0 3 w))
  | 1 => acceptIf (fieldAt 0 18 w == 0) (.fenceSc (fieldAt 31 1 w) (fieldAt 18 3 w))
  | 2 => acceptIf (fieldAt 0 3 w == 0) (.barInit (fieldAt 31 1 w) (fieldAt 18 3 w) (fieldAt 10 8 w) (fieldAt 3 7 w))
  | 3 => acceptIf (fieldAt 0 10 w == 0) (.barArrive (fieldAt 31 1 w) (fieldAt 18 3 w) (fieldAt 10 8 w))
  | 4 => acceptIf (fieldAt 0 10 w == 0) (.barWait (fieldAt 31 1 w) (fieldAt 18 3 w) (fieldAt 10 8 w))
  | 5 => acceptIf (fieldAt 0 10 w == 0) (.barSync (fieldAt 31 1 w) (fieldAt 18 3 w) (fieldAt 10 8 w))
  | 6 => acceptIf (fieldAt 0 10 w == 0) (.barDrop (fieldAt 31 1 w) (fieldAt 18 3 w) (fieldAt 10 8 w))
  | 7 => acceptIf (fieldAt 10 8 w == 0 && fieldAt 0 3 w == 0) (.msync (fieldAt 31 1 w) (fieldAt 18 3 w) (fieldAt 3 7 w))
  | 8 => acceptIf (fieldAt 3 15 w == 0) (.drain (fieldAt 31 1 w) (fieldAt 18 3 w) (fieldAt 0 3 w))
  | 9 => acceptIf (fieldAt 7 3 w == 0 && fieldAt 0 3 w == 0) (.fwait (fieldAt 31 1 w) (fieldAt 18 3 w) (fieldAt 10 8 w) (fieldAt 3 4 w))
  | 10 => acceptIf (fieldAt 10 8 w == 0 && fieldAt 0 3 w == 0) (.sbarInit (fieldAt 31 1 w) (fieldAt 18 3 w) (fieldAt 3 7 w))
  | 11 => acceptIf (fieldAt 10 8 w == 0) (.sbarWait (fieldAt 31 1 w) (fieldAt 18 3 w) (fieldAt 3 7 w) (fieldAt 0 3 w))
  | 12 => acceptIf (fieldAt 10 8 w == 0 && fieldAt 0 3 w == 0) (.sbarArrive (fieldAt 31 1 w) (fieldAt 18 3 w) (fieldAt 3 7 w))
  | 13 => acceptIf (fieldAt 3 7 w == 0) (.barTry (fieldAt 31 1 w) (fieldAt 18 3 w) (fieldAt 10 8 w) (fieldAt 0 3 w))
  | _ => .error .reservedFunction

/-- Major 20 (09 R240, R241). -/
def decodeQue (w : BitVec 32) : Except Reject Instr :=
  match (fieldAt 22 4 w).toNat with
  | 0 => acceptIf (fieldAt 0 4 w == 0) (.qput (fieldAt 31 1 w) (fieldAt 18 4 w) (fieldAt 14 4 w) (fieldAt 11 3 w) (fieldAt 4 7 w))
  | 1 => acceptIf (fieldAt 11 7 w == 0 && fieldAt 0 4 w == 0) (.qget (fieldAt 31 1 w) (fieldAt 18 4 w) (fieldAt 4 7 w))
  | 2 => acceptIf (fieldAt 0 1 w == 0) (.qputTry (fieldAt 31 1 w) (fieldAt 18 4 w) (fieldAt 14 4 w) (fieldAt 11 3 w) (fieldAt 4 7 w) (fieldAt 1 3 w))
  | 3 => acceptIf (fieldAt 11 7 w == 0 && fieldAt 0 1 w == 0) (.qgetTry (fieldAt 31 1 w) (fieldAt 18 4 w) (fieldAt 4 7 w) (fieldAt 1 3 w))
  | 4 => acceptIf (fieldAt 0 4 w == 0) (.qlen (fieldAt 31 1 w) (fieldAt 18 4 w) (fieldAt 14 4 w) (fieldAt 11 3 w) (fieldAt 4 7 w))
  | 5 => if fieldAt 11 11 w == 0 && fieldAt 0 4 w == 0 then .ok (.spawn (fieldAt 31 1 w) (fieldAt 4 7 w)) else acceptIf (fieldAt 11 11 w == 0 && fieldAt 0 1 w == 1) (.spawnTry (fieldAt 31 1 w) (fieldAt 4 7 w) (fieldAt 1 3 w))
  | 6 => acceptIf (fieldAt 11 11 w == 0 && fieldAt 0 1 w == 0) (.take (fieldAt 31 1 w) (fieldAt 4 7 w) (fieldAt 1 3 w))
  | 7 => acceptIf (fieldAt 18 4 w == 0 && fieldAt 4 7 w == 0 && fieldAt 0 1 w == 0) (.steal (fieldAt 31 1 w) (fieldAt 14 4 w) (fieldAt 11 3 w) (fieldAt 1 3 w))
  | _ => .error .reservedFunction

/-- Major 21 (09 R240, R241). -/
def decodeCopy (w : BitVec 32) : Except Reject Instr :=
  match (fieldAt 22 4 w).toNat with
  | 0 => acceptIf (fieldAt 15 7 w == 0 && fieldAt 0 9 w == 0) (.kick (fieldAt 31 1 w) (fieldAt 9 6 w))
  | 1 => acceptIf (fieldAt 15 7 w == 0) (.copy (fieldAt 31 1 w) (fieldAt 9 6 w) (fieldAt 3 6 w) (fieldAt 0 3 w))
  | 2 => acceptIf (fieldAt 15 7 w == 0) (.copyT (fieldAt 31 1 w) (fieldAt 9 6 w) (fieldAt 3 6 w) (fieldAt 0 3 w))
  | 3 => acceptIf (fieldAt 15 7 w == 0) (.gfill (fieldAt 31 1 w) (fieldAt 9 6 w) (fieldAt 3 6 w) (fieldAt 0 3 w))
  | 4 => acceptIf (fieldAt 15 7 w == 0) (.mcast (fieldAt 31 1 w) (fieldAt 9 6 w) (fieldAt 3 6 w) (fieldAt 0 3 w))
  | 5 => acceptIf (fieldAt 0 22 w == 0) (.rfence (fieldAt 31 1 w))
  | _ => .error .reservedFunction

/-- Major 22 (09 R240, R241). -/
def decodeMx (w : BitVec 32) : Except Reject Instr :=
  match (fieldAt 22 4 w).toNat with
  | 0 => acceptIf (fieldAt 0 12 w == 0) (.mres (fieldAt 31 1 w) (fieldAt 18 4 w) (fieldAt 12 6 w))
  | 1 => acceptIf (fieldAt 0 18 w == 0) (.mrel (fieldAt 31 1 w) (fieldAt 18 4 w))
  | 2 => acceptIf (fieldAt 2 3 w == 0 && fieldAt 0 1 w == 0) (.mmad (fieldAt 31 1 w) (fieldAt 18 4 w) (fieldAt 12 6 w) (fieldAt 5 7 w) (fieldAt 1 1 w))
  | 3 => acceptIf (fieldAt 2 3 w == 0) (.mmadSp (fieldAt 31 1 w) (fieldAt 18 4 w) (fieldAt 12 6 w) (fieldAt 5 7 w) (fieldAt 1 1 w) (fieldAt 0 1 w))
  | 4 => acceptIf (fieldAt 18 4 w == 0 && fieldAt 0 12 w == 0) (.gang (fieldAt 31 1 w) (fieldAt 12 6 w))
  | 5 => acceptIf (fieldAt 0 22 w == 0) (.capoTake (fieldAt 31 1 w))
  | 6 => acceptIf (fieldAt 0 22 w == 0) (.capoPass (fieldAt 31 1 w))
  | 7 => acceptIf (fieldAt 18 4 w == 0 && fieldAt 0 12 w == 0) (.mlease (fieldAt 31 1 w) (fieldAt 12 6 w))
  | 8 => acceptIf (fieldAt 0 22 w == 0) (.mfree (fieldAt 31 1 w))
  | _ => .error .reservedFunction

/-- Major 23 (09 R240, R241). -/
def decodeBf (w : BitVec 32) : Except Reject Instr :=
  match (fieldAt 22 4 w).toNat with
  | 0 => acceptIf (fieldAt 0 3 w == 0) (.bfstg (fieldAt 31 1 w) (fieldAt 19 3 w) (fieldAt 15 4 w) (fieldAt 9 6 w) (fieldAt 3 6 w))
  | 1 => acceptIf (fieldAt 1 2 w == 0) (.bfchn (fieldAt 31 1 w) (fieldAt 19 3 w) (fieldAt 15 4 w) (fieldAt 9 6 w) (fieldAt 3 6 w) (fieldAt 0 1 w))
  | 2 => acceptIf (fieldAt 0 3 w == 0) (.bfstgT (fieldAt 31 1 w) (fieldAt 19 3 w) (fieldAt 15 4 w) (fieldAt 9 6 w) (fieldAt 3 6 w))
  | 3 => acceptIf (fieldAt 15 4 w == 0 && fieldAt 0 3 w == 0) (.bfwg (fieldAt 31 1 w) (fieldAt 19 3 w) (fieldAt 9 6 w) (fieldAt 3 6 w))
  | 4 => acceptIf (fieldAt 15 4 w == 0 && fieldAt 0 9 w == 0) (.zset (fieldAt 31 1 w) (fieldAt 19 3 w) (fieldAt 9 6 w))
  | 5 => acceptIf (fieldAt 9 10 w == 0 && fieldAt 0 3 w == 0) (.zget (fieldAt 31 1 w) (fieldAt 19 3 w) (fieldAt 3 6 w))
  | _ => .error .reservedFunction

/-- Major 24 (09 R240, R241). -/
def decodeAcc (w : BitVec 32) : Except Reject Instr :=
  match (fieldAt 22 4 w).toNat with
  | 0 => acceptIf (fieldAt 0 16 w == 0) (.accclr (fieldAt 31 1 w) (fieldAt 16 6 w))
  | 1 => acceptIf (fieldAt 0 10 w == 0) (.accld (fieldAt 31 1 w) (fieldAt 16 6 w) (fieldAt 10 6 w))
  | 2 => acceptIf (fieldAt 3 1 w == 0) (.epi (fieldAt 31 1 w) (fieldAt 16 6 w) (fieldAt 10 6 w) (fieldAt 4 6 w) (fieldAt 2 1 w) (fieldAt 1 1 w) (fieldAt 0 1 w))
  | 3 => acceptIf (fieldAt 0 10 w == 0) (.accmv (fieldAt 31 1 w) (fieldAt 16 6 w) (fieldAt 10 6 w))
  | 4 => acceptIf (fieldAt 0 10 w == 0) (.accput (fieldAt 31 1 w) (fieldAt 16 6 w) (fieldAt 10 6 w))
  | 5 => acceptIf (fieldAt 1 9 w == 0) (.accst (fieldAt 31 1 w) (fieldAt 16 6 w) (fieldAt 10 6 w) (fieldAt 0 1 w))
  | _ => .error .reservedFunction

/-- Major 25 (09 R240, R241). -/
def decodePhy (w : BitVec 32) : Except Reject Instr :=
  match (fieldAt 22 4 w).toNat with
  | 0 => acceptIf (fieldAt 15 7 w == 0 && fieldAt 0 3 w == 0) (.srt (fieldAt 31 1 w) (fieldAt 9 6 w) (fieldAt 3 6 w))
  | 1 => acceptIf (fieldAt 15 7 w == 0 && fieldAt 1 2 w == 0) (.bvht (fieldAt 31 1 w) (fieldAt 9 6 w) (fieldAt 3 6 w) (fieldAt 0 1 w))
  | 2 => acceptIf (fieldAt 15 7 w == 0 && fieldAt 1 2 w == 0) (.bslv (fieldAt 31 1 w) (fieldAt 9 6 w) (fieldAt 3 6 w) (fieldAt 0 1 w))
  | 3 => acceptIf (fieldAt 15 7 w == 0 && fieldAt 1 2 w == 0) (.bsadj (fieldAt 31 1 w) (fieldAt 9 6 w) (fieldAt 3 6 w) (fieldAt 0 1 w))
  | _ => .error .reservedFunction

/-- Major 26 (09 R240, R241). -/
def decodeEnv (w : BitVec 32) : Except Reject Instr :=
  match (fieldAt 21 5 w).toNat with
  | 0 => acceptIf (fieldAt 0 14 w == 0) (.rng (fieldAt 31 1 w) (fieldAt 14 7 w))
  | 1 => acceptIf (fieldAt 0 14 w == 0) (.rngD (fieldAt 31 1 w) (fieldAt 14 7 w))
  | 2 => acceptIf (fieldAt 0 14 w == 0) (.rngf (fieldAt 31 1 w) (fieldAt 14 7 w))
  | 3 => acceptIf (fieldAt 14 7 w == 0 && fieldAt 5 2 w == 3) (.eprst (fieldAt 31 1 w) (fieldAt 7 7 w) (fieldAt 0 5 w))
  | 4 => acceptIf (fieldAt 14 7 w == 0 && fieldAt 0 7 w == 0) (.skey (fieldAt 31 1 w) (fieldAt 7 7 w))
  | 5 => acceptIf (fieldAt 14 7 w == 0 && fieldAt 0 7 w == 0) (.sctr (fieldAt 31 1 w) (fieldAt 7 7 w))
  | _ => .error .reservedFunction

/-- Major 27 (09 R240, R241). -/
def decodeHyp (w : BitVec 32) : Except Reject Instr :=
  match (fieldAt 21 5 w).toNat with
  | 0 => acceptIf (fieldAt 0 14 w == 0) (.hnew (fieldAt 31 1 w) (fieldAt 14 7 w))
  | 1 => acceptIf (fieldAt 14 7 w == 0 && fieldAt 0 7 w == 0) (.henter (fieldAt 31 1 w) (fieldAt 7 7 w))
  | 2 => acceptIf (fieldAt 0 21 w == 0) (.hleave (fieldAt 31 1 w))
  | 3 => acceptIf (fieldAt 0 7 w == 0) (.hcf (fieldAt 31 1 w) (fieldAt 14 7 w) (fieldAt 7 7 w))
  | 4 => acceptIf (fieldAt 0 7 w == 0) (.hrf (fieldAt 31 1 w) (fieldAt 14 7 w) (fieldAt 7 7 w))
  | 5 => acceptIf (fieldAt 0 7 w == 0) (.hqry (fieldAt 31 1 w) (fieldAt 14 7 w) (fieldAt 7 7 w))
  | _ => .error .reservedFunction

/-- Major 28 (09 R240, R241). -/
def decodeReg (w : BitVec 32) : Except Reject Instr :=
  match (fieldAt 21 5 w).toNat with
  | 0 => acceptIf (fieldAt 0 21 w == 0) (.xacq (fieldAt 31 1 w))
  | 1 => acceptIf (fieldAt 0 21 w == 0) (.xrel (fieldAt 31 1 w))
  | 2 => acceptIf (fieldAt 2 5 w == 0) (.rld (fieldAt 31 1 w) (fieldAt 14 7 w) (fieldAt 7 7 w) (fieldAt 1 1 w) (fieldAt 0 1 w))
  | 3 => acceptIf (fieldAt 0 7 w == 0) (.srd (fieldAt 31 1 w) (fieldAt 14 7 w) (fieldAt 7 7 w))
  | 4 => acceptIf (fieldAt 0 7 w == 0) (.swr (fieldAt 31 1 w) (fieldAt 14 7 w) (fieldAt 7 7 w))
  | 5 => acceptIf (fieldAt 17 4 w == 0 && fieldAt 0 14 w == 0) (.xtry (fieldAt 31 1 w) (fieldAt 14 3 w))
  | _ => .error .reservedFunction

/-- Major 29 (09 R240, R241). -/
def decodeSys (w : BitVec 32) : Except Reject Instr :=
  match (fieldAt 21 5 w).toNat with
  | 0 => acceptIf (fieldAt 0 21 w == 0) (.tret (fieldAt 31 1 w))
  | 1 => acceptIf (fieldAt 14 7 w == 0 && fieldAt 0 7 w == 0) (.sleep (fieldAt 31 1 w) (fieldAt 7 7 w))
  | 2 => .ok (.mcall (fieldAt 31 1 w) (fieldAt 14 7 w) (fieldAt 7 7 w) (fieldAt 0 7 w))
  | _ => .error .reservedFunction

/-- The instruction that a 32-bit word is, or why it is none. -/
def decodeWord (w : BitVec 32) : Except Reject Instr :=
  match (fieldAt 26 5 w).toNat with
  | 0 => decodeHdr w
  | 1 => decodeInt w
  | 2 => decodeInti w
  | 3 => decodeIntd w
  | 4 => decodeBits w
  | 5 => decodeFlt w
  | 6 => decodeFma w
  | 7 => decodeCvt w
  | 8 => decodeCmp w
  | 9 => decodeMov w
  | 10 => decodeUni w
  | 11 => decodeImm w
  | 12 => decodeBr w
  | 13 => decodeCtl w
  | 14 => decodeLd w
  | 15 => decodeSt w
  | 16 => decodeAtom w
  | 17 => decodeAtomd w
  | 18 => decodeXl w
  | 19 => decodeSync w
  | 20 => decodeQue w
  | 21 => decodeCopy w
  | 22 => decodeMx w
  | 23 => decodeBf w
  | 24 => decodeAcc w
  | 25 => decodePhy w
  | 26 => decodeEnv w
  | 27 => decodeHyp w
  | 28 => decodeReg w
  | 29 => decodeSys w
  | _ => .error .reservedMajor

/-- The word that four bytes are, the first at the lowest address (00 R6, 09 R226). -/
def wordOfBytes (b0 b1 b2 b3 : Byte) : BitVec 32 :=
  BitVec.ofNat 32 (b0.toNat + b1.toNat * 2 ^ 8 + b2.toNat * 2 ^ 16 + b3.toNat * 2 ^ 24)

/-- The bytes of a word as memory holds them (00 R6). -/
def bytesOfWord (w : BitVec 32) : List Byte :=
  [fieldAt 0 8 w, fieldAt 8 8 w, fieldAt 16 8 w, fieldAt 24 8 w]

/-- Reads one instruction from the front of a byte string and answers it with the rest. -/
def decodeBytes : List Byte → Option (Except Reject Instr × List Byte)
  | b0 :: b1 :: b2 :: b3 :: rest => some (decodeWord (wordOfBytes b0 b1 b2 b3), rest)
  | _ => none

/-- The host's question: the instruction that the decoder reads from `nbits` bits of value `w`, laid out as the
machine stores them. Every instruction is one 32-bit word. -/
def decodeTableWord (nbits w : Nat) : Option Instr :=
  if nbits ≤ 32 then
    match decodeBytes (bytesOfWord (BitVec.ofNat 32 (w % 2 ^ nbits))) with
    | some (.ok i, _) => some i
    | _ => none
  else none

end

/-- A word laid out as [31:31], [30:26], [25:14], [13:10], [9:6], [5:5], [4:2], [1:1], [0:0] (09 R229, R237). -/
def wordH1 (x0 : BitVec 1) (x1 : BitVec 5) (x2 : BitVec 12) (x3 : BitVec 4) (x4 : BitVec 4) (x5 : BitVec 1) (x6 : BitVec 3) (x7 : BitVec 1) (x8 : BitVec 1) : BitVec 32 :=
  BitVec.ofNat 32 (x0.toNat * 2 ^ 31 + x1.toNat * 2 ^ 26 + x2.toNat * 2 ^ 14 + x3.toNat * 2 ^ 10 + x4.toNat * 2 ^ 6 + x5.toNat * 2 ^ 5 + x6.toNat * 2 ^ 2 + x7.toNat * 2 ^ 1 + x8.toNat)

/-- A word laid out as [31:31], [30:26], [25:21], [20:14], [13:7], [6:0] (09 R229, R237). -/
def wordA1 (x0 : BitVec 1) (x1 : BitVec 5) (x2 : BitVec 5) (x3 : BitVec 7) (x4 : BitVec 7) (x5 : BitVec 7) : BitVec 32 :=
  BitVec.ofNat 32 (x0.toNat * 2 ^ 31 + x1.toNat * 2 ^ 26 + x2.toNat * 2 ^ 21 + x3.toNat * 2 ^ 14 + x4.toNat * 2 ^ 7 + x5.toNat)

/-- A word laid out as [31:31], [30:26], [25:23], [22:16], [15:9], [8:0] (09 R229, R237). -/
def wordI1 (x0 : BitVec 1) (x1 : BitVec 5) (x2 : BitVec 3) (x3 : BitVec 7) (x4 : BitVec 7) (x5 : BitVec 9) : BitVec 32 :=
  BitVec.ofNat 32 (x0.toNat * 2 ^ 31 + x1.toNat * 2 ^ 26 + x2.toNat * 2 ^ 23 + x3.toNat * 2 ^ 16 + x4.toNat * 2 ^ 9 + x5.toNat)

/-- A word laid out as [31:31], [30:26], [25:23], [22:16], [15:9], [8:5], [4:0] (09 R229, R237). -/
def wordI2 (x0 : BitVec 1) (x1 : BitVec 5) (x2 : BitVec 3) (x3 : BitVec 7) (x4 : BitVec 7) (x5 : BitVec 4) (x6 : BitVec 5) : BitVec 32 :=
  BitVec.ofNat 32 (x0.toNat * 2 ^ 31 + x1.toNat * 2 ^ 26 + x2.toNat * 2 ^ 23 + x3.toNat * 2 ^ 16 + x4.toNat * 2 ^ 9 + x5.toNat * 2 ^ 5 + x6.toNat)

/-- A word laid out as [31:31], [30:26], [25:24], [23:21], [20:14], [13:7], [6:0] (09 R229, R237). -/
def wordT1 (x0 : BitVec 1) (x1 : BitVec 5) (x2 : BitVec 2) (x3 : BitVec 3) (x4 : BitVec 7) (x5 : BitVec 7) (x6 : BitVec 7) : BitVec 32 :=
  BitVec.ofNat 32 (x0.toNat * 2 ^ 31 + x1.toNat * 2 ^ 26 + x2.toNat * 2 ^ 24 + x3.toNat * 2 ^ 21 + x4.toNat * 2 ^ 14 + x5.toNat * 2 ^ 7 + x6.toNat)

/-- A word laid out as [31:31], [30:26], [25:24], [23:21], [20:14], [13:7], [6:3], [2:0] (09 R229, R237). -/
def wordT2 (x0 : BitVec 1) (x1 : BitVec 5) (x2 : BitVec 2) (x3 : BitVec 3) (x4 : BitVec 7) (x5 : BitVec 7) (x6 : BitVec 4) (x7 : BitVec 3) : BitVec 32 :=
  BitVec.ofNat 32 (x0.toNat * 2 ^ 31 + x1.toNat * 2 ^ 26 + x2.toNat * 2 ^ 24 + x3.toNat * 2 ^ 21 + x4.toNat * 2 ^ 14 + x5.toNat * 2 ^ 7 + x6.toNat * 2 ^ 3 + x7.toNat)

/-- A word laid out as [31:31], [30:26], [25:21], [20:18], [17:16], [15:14], [13:7], [6:0] (09 R229, R237). -/
def wordP1 (x0 : BitVec 1) (x1 : BitVec 5) (x2 : BitVec 5) (x3 : BitVec 3) (x4 : BitVec 2) (x5 : BitVec 2) (x6 : BitVec 7) (x7 : BitVec 7) : BitVec 32 :=
  BitVec.ofNat 32 (x0.toNat * 2 ^ 31 + x1.toNat * 2 ^ 26 + x2.toNat * 2 ^ 21 + x3.toNat * 2 ^ 18 + x4.toNat * 2 ^ 16 + x5.toNat * 2 ^ 14 + x6.toNat * 2 ^ 7 + x7.toNat)

/-- A word laid out as [31:31], [30:26], [25:21], [20:14], [13:0] (09 R229, R237). -/
def wordA2 (x0 : BitVec 1) (x1 : BitVec 5) (x2 : BitVec 5) (x3 : BitVec 7) (x4 : BitVec 14) : BitVec 32 :=
  BitVec.ofNat 32 (x0.toNat * 2 ^ 31 + x1.toNat * 2 ^ 26 + x2.toNat * 2 ^ 21 + x3.toNat * 2 ^ 14 + x4.toNat)

/-- A word laid out as [31:31], [30:26], [25:21], [20:17], [16:14], [13:10], [9:7], [6:3], [2:0] (09 R229, R237). -/
def wordA3 (x0 : BitVec 1) (x1 : BitVec 5) (x2 : BitVec 5) (x3 : BitVec 4) (x4 : BitVec 3) (x5 : BitVec 4) (x6 : BitVec 3) (x7 : BitVec 4) (x8 : BitVec 3) : BitVec 32 :=
  BitVec.ofNat 32 (x0.toNat * 2 ^ 31 + x1.toNat * 2 ^ 26 + x2.toNat * 2 ^ 21 + x3.toNat * 2 ^ 17 + x4.toNat * 2 ^ 14 + x5.toNat * 2 ^ 10 + x6.toNat * 2 ^ 7 + x7.toNat * 2 ^ 3 + x8.toNat)

/-- A word laid out as [31:31], [30:26], [25:21], [20:17], [16:14], [13:10], [9:7], [6:0] (09 R229, R237). -/
def wordA4 (x0 : BitVec 1) (x1 : BitVec 5) (x2 : BitVec 5) (x3 : BitVec 4) (x4 : BitVec 3) (x5 : BitVec 4) (x6 : BitVec 3) (x7 : BitVec 7) : BitVec 32 :=
  BitVec.ofNat 32 (x0.toNat * 2 ^ 31 + x1.toNat * 2 ^ 26 + x2.toNat * 2 ^ 21 + x3.toNat * 2 ^ 17 + x4.toNat * 2 ^ 14 + x5.toNat * 2 ^ 10 + x6.toNat * 2 ^ 7 + x7.toNat)

/-- A word laid out as [31:31], [30:26], [25:21], [20:14], [13:10], [9:7], [6:0] (09 R229, R237). -/
def wordA5 (x0 : BitVec 1) (x1 : BitVec 5) (x2 : BitVec 5) (x3 : BitVec 7) (x4 : BitVec 4) (x5 : BitVec 3) (x6 : BitVec 7) : BitVec 32 :=
  BitVec.ofNat 32 (x0.toNat * 2 ^ 31 + x1.toNat * 2 ^ 26 + x2.toNat * 2 ^ 21 + x3.toNat * 2 ^ 14 + x4.toNat * 2 ^ 10 + x5.toNat * 2 ^ 7 + x6.toNat)

/-- A word laid out as [31:31], [30:26], [25:24], [23:17], [16:0] (09 R229, R237). -/
def wordK1 (x0 : BitVec 1) (x1 : BitVec 5) (x2 : BitVec 2) (x3 : BitVec 7) (x4 : BitVec 17) : BitVec 32 :=
  BitVec.ofNat 32 (x0.toNat * 2 ^ 31 + x1.toNat * 2 ^ 26 + x2.toNat * 2 ^ 24 + x3.toNat * 2 ^ 17 + x4.toNat)

/-- A word laid out as [31:31], [30:26], [25:23], [22:20], [19:14], [13:0] (09 R229, R237). -/
def wordB1 (x0 : BitVec 1) (x1 : BitVec 5) (x2 : BitVec 3) (x3 : BitVec 3) (x4 : BitVec 6) (x5 : BitVec 14) : BitVec 32 :=
  BitVec.ofNat 32 (x0.toNat * 2 ^ 31 + x1.toNat * 2 ^ 26 + x2.toNat * 2 ^ 23 + x3.toNat * 2 ^ 20 + x4.toNat * 2 ^ 14 + x5.toNat)

/-- A word laid out as [31:31], [30:26], [25:21], [20:0] (09 R229, R237). -/
def wordA6 (x0 : BitVec 1) (x1 : BitVec 5) (x2 : BitVec 5) (x3 : BitVec 21) : BitVec 32 :=
  BitVec.ofNat 32 (x0.toNat * 2 ^ 31 + x1.toNat * 2 ^ 26 + x2.toNat * 2 ^ 21 + x3.toNat)

/-- A word laid out as [31:31], [30:26], [25:21], [20:7], [6:0] (09 R229, R237). -/
def wordA7 (x0 : BitVec 1) (x1 : BitVec 5) (x2 : BitVec 5) (x3 : BitVec 14) (x4 : BitVec 7) : BitVec 32 :=
  BitVec.ofNat 32 (x0.toNat * 2 ^ 31 + x1.toNat * 2 ^ 26 + x2.toNat * 2 ^ 21 + x3.toNat * 2 ^ 7 + x4.toNat)

/-- A word laid out as [31:31], [30:26], [25:22], [21:19], [18:18], [17:11], [10:7], [6:0] (09 R229, R237). -/
def wordM1 (x0 : BitVec 1) (x1 : BitVec 5) (x2 : BitVec 4) (x3 : BitVec 3) (x4 : BitVec 1) (x5 : BitVec 7) (x6 : BitVec 4) (x7 : BitVec 7) : BitVec 32 :=
  BitVec.ofNat 32 (x0.toNat * 2 ^ 31 + x1.toNat * 2 ^ 26 + x2.toNat * 2 ^ 22 + x3.toNat * 2 ^ 19 + x4.toNat * 2 ^ 18 + x5.toNat * 2 ^ 11 + x6.toNat * 2 ^ 7 + x7.toNat)

/-- A word laid out as [31:31], [30:26], [25:22], [21:19], [18:18], [17:11], [10:7], [6:5], [4:0] (09 R229, R237). -/
def wordM2 (x0 : BitVec 1) (x1 : BitVec 5) (x2 : BitVec 4) (x3 : BitVec 3) (x4 : BitVec 1) (x5 : BitVec 7) (x6 : BitVec 4) (x7 : BitVec 2) (x8 : BitVec 5) : BitVec 32 :=
  BitVec.ofNat 32 (x0.toNat * 2 ^ 31 + x1.toNat * 2 ^ 26 + x2.toNat * 2 ^ 22 + x3.toNat * 2 ^ 19 + x4.toNat * 2 ^ 18 + x5.toNat * 2 ^ 11 + x6.toNat * 2 ^ 7 + x7.toNat * 2 ^ 5 + x8.toNat)

/-- A word laid out as [31:31], [30:26], [25:22], [21:19], [18:17], [16:10], [9:7], [6:0] (09 R229, R237). -/
def wordAt1 (x0 : BitVec 1) (x1 : BitVec 5) (x2 : BitVec 4) (x3 : BitVec 3) (x4 : BitVec 2) (x5 : BitVec 7) (x6 : BitVec 3) (x7 : BitVec 7) : BitVec 32 :=
  BitVec.ofNat 32 (x0.toNat * 2 ^ 31 + x1.toNat * 2 ^ 26 + x2.toNat * 2 ^ 22 + x3.toNat * 2 ^ 19 + x4.toNat * 2 ^ 17 + x5.toNat * 2 ^ 10 + x6.toNat * 2 ^ 7 + x7.toNat)

/-- A word laid out as [31:31], [30:26], [25:21], [20:14], [13:7], [6:5], [4:0] (09 R229, R237). -/
def wordA8 (x0 : BitVec 1) (x1 : BitVec 5) (x2 : BitVec 5) (x3 : BitVec 7) (x4 : BitVec 7) (x5 : BitVec 2) (x6 : BitVec 5) : BitVec 32 :=
  BitVec.ofNat 32 (x0.toNat * 2 ^ 31 + x1.toNat * 2 ^ 26 + x2.toNat * 2 ^ 21 + x3.toNat * 2 ^ 14 + x4.toNat * 2 ^ 7 + x5.toNat * 2 ^ 5 + x6.toNat)

/-- A word laid out as [31:31], [30:26], [25:21], [20:14], [13:7], [6:1], [0:0] (09 R229, R237). -/
def wordA9 (x0 : BitVec 1) (x1 : BitVec 5) (x2 : BitVec 5) (x3 : BitVec 7) (x4 : BitVec 7) (x5 : BitVec 6) (x6 : BitVec 1) : BitVec 32 :=
  BitVec.ofNat 32 (x0.toNat * 2 ^ 31 + x1.toNat * 2 ^ 26 + x2.toNat * 2 ^ 21 + x3.toNat * 2 ^ 14 + x4.toNat * 2 ^ 7 + x5.toNat * 2 ^ 1 + x6.toNat)

/-- A word laid out as [31:31], [30:26], [25:21], [20:14], [13:7], [6:2], [1:0] (09 R229, R237). -/
def wordA10 (x0 : BitVec 1) (x1 : BitVec 5) (x2 : BitVec 5) (x3 : BitVec 7) (x4 : BitVec 7) (x5 : BitVec 5) (x6 : BitVec 2) : BitVec 32 :=
  BitVec.ofNat 32 (x0.toNat * 2 ^ 31 + x1.toNat * 2 ^ 26 + x2.toNat * 2 ^ 21 + x3.toNat * 2 ^ 14 + x4.toNat * 2 ^ 7 + x5.toNat * 2 ^ 2 + x6.toNat)

/-- A word laid out as [31:31], [30:26], [25:21], [20:14], [13:7], [6:3], [2:0] (09 R229, R237). -/
def wordA11 (x0 : BitVec 1) (x1 : BitVec 5) (x2 : BitVec 5) (x3 : BitVec 7) (x4 : BitVec 7) (x5 : BitVec 4) (x6 : BitVec 3) : BitVec 32 :=
  BitVec.ofNat 32 (x0.toNat * 2 ^ 31 + x1.toNat * 2 ^ 26 + x2.toNat * 2 ^ 21 + x3.toNat * 2 ^ 14 + x4.toNat * 2 ^ 7 + x5.toNat * 2 ^ 3 + x6.toNat)

/-- A word laid out as [31:31], [30:26], [25:21], [20:18], [17:3], [2:0] (09 R229, R237). -/
def wordS1 (x0 : BitVec 1) (x1 : BitVec 5) (x2 : BitVec 5) (x3 : BitVec 3) (x4 : BitVec 15) (x5 : BitVec 3) : BitVec 32 :=
  BitVec.ofNat 32 (x0.toNat * 2 ^ 31 + x1.toNat * 2 ^ 26 + x2.toNat * 2 ^ 21 + x3.toNat * 2 ^ 18 + x4.toNat * 2 ^ 3 + x5.toNat)

/-- A word laid out as [31:31], [30:26], [25:21], [20:18], [17:0] (09 R229, R237). -/
def wordS2 (x0 : BitVec 1) (x1 : BitVec 5) (x2 : BitVec 5) (x3 : BitVec 3) (x4 : BitVec 18) : BitVec 32 :=
  BitVec.ofNat 32 (x0.toNat * 2 ^ 31 + x1.toNat * 2 ^ 26 + x2.toNat * 2 ^ 21 + x3.toNat * 2 ^ 18 + x4.toNat)

/-- A word laid out as [31:31], [30:26], [25:21], [20:18], [17:10], [9:3], [2:0] (09 R229, R237). -/
def wordS3 (x0 : BitVec 1) (x1 : BitVec 5) (x2 : BitVec 5) (x3 : BitVec 3) (x4 : BitVec 8) (x5 : BitVec 7) (x6 : BitVec 3) : BitVec 32 :=
  BitVec.ofNat 32 (x0.toNat * 2 ^ 31 + x1.toNat * 2 ^ 26 + x2.toNat * 2 ^ 21 + x3.toNat * 2 ^ 18 + x4.toNat * 2 ^ 10 + x5.toNat * 2 ^ 3 + x6.toNat)

/-- A word laid out as [31:31], [30:26], [25:21], [20:18], [17:10], [9:0] (09 R229, R237). -/
def wordS4 (x0 : BitVec 1) (x1 : BitVec 5) (x2 : BitVec 5) (x3 : BitVec 3) (x4 : BitVec 8) (x5 : BitVec 10) : BitVec 32 :=
  BitVec.ofNat 32 (x0.toNat * 2 ^ 31 + x1.toNat * 2 ^ 26 + x2.toNat * 2 ^ 21 + x3.toNat * 2 ^ 18 + x4.toNat * 2 ^ 10 + x5.toNat)

/-- A word laid out as [31:31], [30:26], [25:21], [20:18], [17:10], [9:7], [6:3], [2:0] (09 R229, R237). -/
def wordS5 (x0 : BitVec 1) (x1 : BitVec 5) (x2 : BitVec 5) (x3 : BitVec 3) (x4 : BitVec 8) (x5 : BitVec 3) (x6 : BitVec 4) (x7 : BitVec 3) : BitVec 32 :=
  BitVec.ofNat 32 (x0.toNat * 2 ^ 31 + x1.toNat * 2 ^ 26 + x2.toNat * 2 ^ 21 + x3.toNat * 2 ^ 18 + x4.toNat * 2 ^ 10 + x5.toNat * 2 ^ 7 + x6.toNat * 2 ^ 3 + x7.toNat)

/-- A word laid out as [31:31], [30:26], [25:22], [21:18], [17:14], [13:11], [10:4], [3:0] (09 R229, R237). -/
def wordQ1 (x0 : BitVec 1) (x1 : BitVec 5) (x2 : BitVec 4) (x3 : BitVec 4) (x4 : BitVec 4) (x5 : BitVec 3) (x6 : BitVec 7) (x7 : BitVec 4) : BitVec 32 :=
  BitVec.ofNat 32 (x0.toNat * 2 ^ 31 + x1.toNat * 2 ^ 26 + x2.toNat * 2 ^ 22 + x3.toNat * 2 ^ 18 + x4.toNat * 2 ^ 14 + x5.toNat * 2 ^ 11 + x6.toNat * 2 ^ 4 + x7.toNat)

/-- A word laid out as [31:31], [30:26], [25:22], [21:18], [17:11], [10:4], [3:0] (09 R229, R237). -/
def wordQ2 (x0 : BitVec 1) (x1 : BitVec 5) (x2 : BitVec 4) (x3 : BitVec 4) (x4 : BitVec 7) (x5 : BitVec 7) (x6 : BitVec 4) : BitVec 32 :=
  BitVec.ofNat 32 (x0.toNat * 2 ^ 31 + x1.toNat * 2 ^ 26 + x2.toNat * 2 ^ 22 + x3.toNat * 2 ^ 18 + x4.toNat * 2 ^ 11 + x5.toNat * 2 ^ 4 + x6.toNat)

/-- A word laid out as [31:31], [30:26], [25:22], [21:18], [17:14], [13:11], [10:4], [3:1], [0:0] (09 R229, R237). -/
def wordQ3 (x0 : BitVec 1) (x1 : BitVec 5) (x2 : BitVec 4) (x3 : BitVec 4) (x4 : BitVec 4) (x5 : BitVec 3) (x6 : BitVec 7) (x7 : BitVec 3) (x8 : BitVec 1) : BitVec 32 :=
  BitVec.ofNat 32 (x0.toNat * 2 ^ 31 + x1.toNat * 2 ^ 26 + x2.toNat * 2 ^ 22 + x3.toNat * 2 ^ 18 + x4.toNat * 2 ^ 14 + x5.toNat * 2 ^ 11 + x6.toNat * 2 ^ 4 + x7.toNat * 2 ^ 1 + x8.toNat)

/-- A word laid out as [31:31], [30:26], [25:22], [21:18], [17:11], [10:4], [3:1], [0:0] (09 R229, R237). -/
def wordQ4 (x0 : BitVec 1) (x1 : BitVec 5) (x2 : BitVec 4) (x3 : BitVec 4) (x4 : BitVec 7) (x5 : BitVec 7) (x6 : BitVec 3) (x7 : BitVec 1) : BitVec 32 :=
  BitVec.ofNat 32 (x0.toNat * 2 ^ 31 + x1.toNat * 2 ^ 26 + x2.toNat * 2 ^ 22 + x3.toNat * 2 ^ 18 + x4.toNat * 2 ^ 11 + x5.toNat * 2 ^ 4 + x6.toNat * 2 ^ 1 + x7.toNat)

/-- A word laid out as [31:31], [30:26], [25:22], [21:11], [10:4], [3:0] (09 R229, R237). -/
def wordQ5 (x0 : BitVec 1) (x1 : BitVec 5) (x2 : BitVec 4) (x3 : BitVec 11) (x4 : BitVec 7) (x5 : BitVec 4) : BitVec 32 :=
  BitVec.ofNat 32 (x0.toNat * 2 ^ 31 + x1.toNat * 2 ^ 26 + x2.toNat * 2 ^ 22 + x3.toNat * 2 ^ 11 + x4.toNat * 2 ^ 4 + x5.toNat)

/-- A word laid out as [31:31], [30:26], [25:22], [21:11], [10:4], [3:1], [0:0] (09 R229, R237). -/
def wordQ6 (x0 : BitVec 1) (x1 : BitVec 5) (x2 : BitVec 4) (x3 : BitVec 11) (x4 : BitVec 7) (x5 : BitVec 3) (x6 : BitVec 1) : BitVec 32 :=
  BitVec.ofNat 32 (x0.toNat * 2 ^ 31 + x1.toNat * 2 ^ 26 + x2.toNat * 2 ^ 22 + x3.toNat * 2 ^ 11 + x4.toNat * 2 ^ 4 + x5.toNat * 2 ^ 1 + x6.toNat)

/-- A word laid out as [31:31], [30:26], [25:22], [21:15], [14:9], [8:0] (09 R229, R237). -/
def wordE1 (x0 : BitVec 1) (x1 : BitVec 5) (x2 : BitVec 4) (x3 : BitVec 7) (x4 : BitVec 6) (x5 : BitVec 9) : BitVec 32 :=
  BitVec.ofNat 32 (x0.toNat * 2 ^ 31 + x1.toNat * 2 ^ 26 + x2.toNat * 2 ^ 22 + x3.toNat * 2 ^ 15 + x4.toNat * 2 ^ 9 + x5.toNat)

/-- A word laid out as [31:31], [30:26], [25:22], [21:15], [14:9], [8:3], [2:0] (09 R229, R237). -/
def wordE2 (x0 : BitVec 1) (x1 : BitVec 5) (x2 : BitVec 4) (x3 : BitVec 7) (x4 : BitVec 6) (x5 : BitVec 6) (x6 : BitVec 3) : BitVec 32 :=
  BitVec.ofNat 32 (x0.toNat * 2 ^ 31 + x1.toNat * 2 ^ 26 + x2.toNat * 2 ^ 22 + x3.toNat * 2 ^ 15 + x4.toNat * 2 ^ 9 + x5.toNat * 2 ^ 3 + x6.toNat)

/-- A word laid out as [31:31], [30:26], [25:22], [21:0] (09 R229, R237). -/
def wordE3 (x0 : BitVec 1) (x1 : BitVec 5) (x2 : BitVec 4) (x3 : BitVec 22) : BitVec 32 :=
  BitVec.ofNat 32 (x0.toNat * 2 ^ 31 + x1.toNat * 2 ^ 26 + x2.toNat * 2 ^ 22 + x3.toNat)

/-- A word laid out as [31:31], [30:26], [25:22], [21:18], [17:12], [11:0] (09 R229, R237). -/
def wordX1 (x0 : BitVec 1) (x1 : BitVec 5) (x2 : BitVec 4) (x3 : BitVec 4) (x4 : BitVec 6) (x5 : BitVec 12) : BitVec 32 :=
  BitVec.ofNat 32 (x0.toNat * 2 ^ 31 + x1.toNat * 2 ^ 26 + x2.toNat * 2 ^ 22 + x3.toNat * 2 ^ 18 + x4.toNat * 2 ^ 12 + x5.toNat)

/-- A word laid out as [31:31], [30:26], [25:22], [21:18], [17:0] (09 R229, R237). -/
def wordX2 (x0 : BitVec 1) (x1 : BitVec 5) (x2 : BitVec 4) (x3 : BitVec 4) (x4 : BitVec 18) : BitVec 32 :=
  BitVec.ofNat 32 (x0.toNat * 2 ^ 31 + x1.toNat * 2 ^ 26 + x2.toNat * 2 ^ 22 + x3.toNat * 2 ^ 18 + x4.toNat)

/-- A word laid out as [31:31], [30:26], [25:22], [21:18], [17:12], [11:5], [4:2], [1:1], [0:0] (09 R229, R237). -/
def wordX3 (x0 : BitVec 1) (x1 : BitVec 5) (x2 : BitVec 4) (x3 : BitVec 4) (x4 : BitVec 6) (x5 : BitVec 7) (x6 : BitVec 3) (x7 : BitVec 1) (x8 : BitVec 1) : BitVec 32 :=
  BitVec.ofNat 32 (x0.toNat * 2 ^ 31 + x1.toNat * 2 ^ 26 + x2.toNat * 2 ^ 22 + x3.toNat * 2 ^ 18 + x4.toNat * 2 ^ 12 + x5.toNat * 2 ^ 5 + x6.toNat * 2 ^ 2 + x7.toNat * 2 ^ 1 + x8.toNat)

/-- A word laid out as [31:31], [30:26], [25:22], [21:19], [18:15], [14:9], [8:3], [2:0] (09 R229, R237). -/
def wordZ1 (x0 : BitVec 1) (x1 : BitVec 5) (x2 : BitVec 4) (x3 : BitVec 3) (x4 : BitVec 4) (x5 : BitVec 6) (x6 : BitVec 6) (x7 : BitVec 3) : BitVec 32 :=
  BitVec.ofNat 32 (x0.toNat * 2 ^ 31 + x1.toNat * 2 ^ 26 + x2.toNat * 2 ^ 22 + x3.toNat * 2 ^ 19 + x4.toNat * 2 ^ 15 + x5.toNat * 2 ^ 9 + x6.toNat * 2 ^ 3 + x7.toNat)

/-- A word laid out as [31:31], [30:26], [25:22], [21:19], [18:15], [14:9], [8:3], [2:1], [0:0] (09 R229, R237). -/
def wordZ2 (x0 : BitVec 1) (x1 : BitVec 5) (x2 : BitVec 4) (x3 : BitVec 3) (x4 : BitVec 4) (x5 : BitVec 6) (x6 : BitVec 6) (x7 : BitVec 2) (x8 : BitVec 1) : BitVec 32 :=
  BitVec.ofNat 32 (x0.toNat * 2 ^ 31 + x1.toNat * 2 ^ 26 + x2.toNat * 2 ^ 22 + x3.toNat * 2 ^ 19 + x4.toNat * 2 ^ 15 + x5.toNat * 2 ^ 9 + x6.toNat * 2 ^ 3 + x7.toNat * 2 ^ 1 + x8.toNat)

/-- A word laid out as [31:31], [30:26], [25:22], [21:19], [18:15], [14:9], [8:0] (09 R229, R237). -/
def wordZ3 (x0 : BitVec 1) (x1 : BitVec 5) (x2 : BitVec 4) (x3 : BitVec 3) (x4 : BitVec 4) (x5 : BitVec 6) (x6 : BitVec 9) : BitVec 32 :=
  BitVec.ofNat 32 (x0.toNat * 2 ^ 31 + x1.toNat * 2 ^ 26 + x2.toNat * 2 ^ 22 + x3.toNat * 2 ^ 19 + x4.toNat * 2 ^ 15 + x5.toNat * 2 ^ 9 + x6.toNat)

/-- A word laid out as [31:31], [30:26], [25:22], [21:19], [18:9], [8:3], [2:0] (09 R229, R237). -/
def wordZ4 (x0 : BitVec 1) (x1 : BitVec 5) (x2 : BitVec 4) (x3 : BitVec 3) (x4 : BitVec 10) (x5 : BitVec 6) (x6 : BitVec 3) : BitVec 32 :=
  BitVec.ofNat 32 (x0.toNat * 2 ^ 31 + x1.toNat * 2 ^ 26 + x2.toNat * 2 ^ 22 + x3.toNat * 2 ^ 19 + x4.toNat * 2 ^ 9 + x5.toNat * 2 ^ 3 + x6.toNat)

/-- A word laid out as [31:31], [30:26], [25:22], [21:16], [15:0] (09 R229, R237). -/
def wordG1 (x0 : BitVec 1) (x1 : BitVec 5) (x2 : BitVec 4) (x3 : BitVec 6) (x4 : BitVec 16) : BitVec 32 :=
  BitVec.ofNat 32 (x0.toNat * 2 ^ 31 + x1.toNat * 2 ^ 26 + x2.toNat * 2 ^ 22 + x3.toNat * 2 ^ 16 + x4.toNat)

/-- A word laid out as [31:31], [30:26], [25:22], [21:16], [15:10], [9:0] (09 R229, R237). -/
def wordG2 (x0 : BitVec 1) (x1 : BitVec 5) (x2 : BitVec 4) (x3 : BitVec 6) (x4 : BitVec 6) (x5 : BitVec 10) : BitVec 32 :=
  BitVec.ofNat 32 (x0.toNat * 2 ^ 31 + x1.toNat * 2 ^ 26 + x2.toNat * 2 ^ 22 + x3.toNat * 2 ^ 16 + x4.toNat * 2 ^ 10 + x5.toNat)

/-- A word laid out as [31:31], [30:26], [25:22], [21:16], [15:10], [9:4], [3:3], [2:2], [1:1], [0:0] (09 R229, R237). -/
def wordG3 (x0 : BitVec 1) (x1 : BitVec 5) (x2 : BitVec 4) (x3 : BitVec 6) (x4 : BitVec 6) (x5 : BitVec 6) (x6 : BitVec 1) (x7 : BitVec 1) (x8 : BitVec 1) (x9 : BitVec 1) : BitVec 32 :=
  BitVec.ofNat 32 (x0.toNat * 2 ^ 31 + x1.toNat * 2 ^ 26 + x2.toNat * 2 ^ 22 + x3.toNat * 2 ^ 16 + x4.toNat * 2 ^ 10 + x5.toNat * 2 ^ 4 + x6.toNat * 2 ^ 3 + x7.toNat * 2 ^ 2 + x8.toNat * 2 ^ 1 + x9.toNat)

/-- A word laid out as [31:31], [30:26], [25:22], [21:16], [15:10], [9:1], [0:0] (09 R229, R237). -/
def wordG4 (x0 : BitVec 1) (x1 : BitVec 5) (x2 : BitVec 4) (x3 : BitVec 6) (x4 : BitVec 6) (x5 : BitVec 9) (x6 : BitVec 1) : BitVec 32 :=
  BitVec.ofNat 32 (x0.toNat * 2 ^ 31 + x1.toNat * 2 ^ 26 + x2.toNat * 2 ^ 22 + x3.toNat * 2 ^ 16 + x4.toNat * 2 ^ 10 + x5.toNat * 2 ^ 1 + x6.toNat)

/-- A word laid out as [31:31], [30:26], [25:22], [21:15], [14:9], [8:3], [2:1], [0:0] (09 R229, R237). -/
def wordE4 (x0 : BitVec 1) (x1 : BitVec 5) (x2 : BitVec 4) (x3 : BitVec 7) (x4 : BitVec 6) (x5 : BitVec 6) (x6 : BitVec 2) (x7 : BitVec 1) : BitVec 32 :=
  BitVec.ofNat 32 (x0.toNat * 2 ^ 31 + x1.toNat * 2 ^ 26 + x2.toNat * 2 ^ 22 + x3.toNat * 2 ^ 15 + x4.toNat * 2 ^ 9 + x5.toNat * 2 ^ 3 + x6.toNat * 2 ^ 1 + x7.toNat)

/-- A word laid out as [31:31], [30:26], [25:21], [20:14], [13:7], [6:2], [1:1], [0:0] (09 R229, R237). -/
def wordA12 (x0 : BitVec 1) (x1 : BitVec 5) (x2 : BitVec 5) (x3 : BitVec 7) (x4 : BitVec 7) (x5 : BitVec 5) (x6 : BitVec 1) (x7 : BitVec 1) : BitVec 32 :=
  BitVec.ofNat 32 (x0.toNat * 2 ^ 31 + x1.toNat * 2 ^ 26 + x2.toNat * 2 ^ 21 + x3.toNat * 2 ^ 14 + x4.toNat * 2 ^ 7 + x5.toNat * 2 ^ 2 + x6.toNat * 2 ^ 1 + x7.toNat)

/-- A word laid out as [31:31], [30:26], [25:21], [20:17], [16:14], [13:0] (09 R229, R237). -/
def wordA13 (x0 : BitVec 1) (x1 : BitVec 5) (x2 : BitVec 5) (x3 : BitVec 4) (x4 : BitVec 3) (x5 : BitVec 14) : BitVec 32 :=
  BitVec.ofNat 32 (x0.toNat * 2 ^ 31 + x1.toNat * 2 ^ 26 + x2.toNat * 2 ^ 21 + x3.toNat * 2 ^ 17 + x4.toNat * 2 ^ 14 + x5.toNat)

/-- The word of an instruction, from the encoding table; an event has none. -/
def encode : Instr → Option (BitVec 32)
  | .hdr w a b g p n => some (wordH1 0 0 w a b g p n 0)
  | .add c d a b => some (wordA1 c 1 0 d a b)
  | .sub c d a b => some (wordA1 c 1 1 d a b)
  | .mul c d a b => some (wordA1 c 1 2 d a b)
  | .mulh c d a b => some (wordA1 c 1 3 d a b)
  | .mulhu c d a b => some (wordA1 c 1 4 d a b)
  | .min c d a b => some (wordA1 c 1 5 d a b)
  | .max c d a b => some (wordA1 c 1 6 d a b)
  | .minu c d a b => some (wordA1 c 1 7 d a b)
  | .maxu c d a b => some (wordA1 c 1 8 d a b)
  | .and c d a b => some (wordA1 c 1 9 d a b)
  | .or c d a b => some (wordA1 c 1 10 d a b)
  | .xor c d a b => some (wordA1 c 1 11 d a b)
  | .andn c d a b => some (wordA1 c 1 12 d a b)
  | .orn c d a b => some (wordA1 c 1 13 d a b)
  | .shl c d a b => some (wordA1 c 1 14 d a b)
  | .shr c d a b => some (wordA1 c 1 15 d a b)
  | .sra c d a b => some (wordA1 c 1 16 d a b)
  | .rotl c d a b => some (wordA1 c 1 17 d a b)
  | .rotr c d a b => some (wordA1 c 1 18 d a b)
  | .addc c d a b => some (wordA1 c 1 19 d a b)
  | .subb c d a b => some (wordA1 c 1 20 d a b)
  | .absd c d a b => some (wordA1 c 1 21 d a b)
  | .addi c d a imm => some (wordI1 c 2 0 d a imm)
  | .andi c d a imm => some (wordI1 c 2 1 d a imm)
  | .ori c d a imm => some (wordI1 c 2 2 d a imm)
  | .xori c d a imm => some (wordI1 c 2 3 d a imm)
  | .shli c d a imm => some (wordI2 c 2 4 d a 0 imm)
  | .shri c d a imm => some (wordI2 c 2 5 d a 0 imm)
  | .srai c d a imm => some (wordI2 c 2 6 d a 0 imm)
  | .muli c d a imm => some (wordI1 c 2 7 d a imm)
  | .addD c d a b => some (wordA1 c 3 0 d a b)
  | .subD c d a b => some (wordA1 c 3 1 d a b)
  | .mulD c d a b => some (wordA1 c 3 2 d a b)
  | .mulhD c d a b => some (wordA1 c 3 3 d a b)
  | .mulhuD c d a b => some (wordA1 c 3 4 d a b)
  | .minD c d a b => some (wordA1 c 3 5 d a b)
  | .maxD c d a b => some (wordA1 c 3 6 d a b)
  | .minuD c d a b => some (wordA1 c 3 7 d a b)
  | .maxuD c d a b => some (wordA1 c 3 8 d a b)
  | .andD c d a b => some (wordA1 c 3 9 d a b)
  | .orD c d a b => some (wordA1 c 3 10 d a b)
  | .xorD c d a b => some (wordA1 c 3 11 d a b)
  | .shlD c d a b => some (wordA1 c 3 12 d a b)
  | .shrD c d a b => some (wordA1 c 3 13 d a b)
  | .sraD c d a b => some (wordA1 c 3 14 d a b)
  | .clz c d a => some (wordA1 c 4 0 d a 0)
  | .ctz c d a => some (wordA1 c 4 1 d a 0)
  | .popc c d a => some (wordA1 c 4 2 d a 0)
  | .brev c d a => some (wordA1 c 4 3 d a 0)
  | .bext c d a b => some (wordA1 c 4 4 d a b)
  | .bins c d a b => some (wordA1 c 4 5 d a b)
  | .ilv2 c d a b => some (wordA1 c 4 6 d a b)
  | .ilv3 c d a b => some (wordA1 c 4 7 d a b)
  | .dlv3 c d a b => some (wordA1 c 4 8 d a b)
  | .cpl c d a b => some (wordA1 c 4 9 d a b)
  | .bsel c d a b => some (wordA1 c 4 10 d a b)
  | .prmt c d a b => some (wordA1 c 4 11 d a b)
  | .fadd c t d a b => some (wordT1 c 5 t 0 d a b)
  | .fsub c t d a b => some (wordT1 c 5 t 1 d a b)
  | .fmul c t d a b => some (wordT1 c 5 t 2 d a b)
  | .fmin c t d a b => some (wordT1 c 5 t 3 d a b)
  | .fmax c t d a b => some (wordT1 c 5 t 4 d a b)
  | .fminm c t d a b => some (wordT1 c 5 t 5 d a b)
  | .fmaxm c t d a b => some (wordT1 c 5 t 6 d a b)
  | .fdiv c t d a b => some (wordT1 c 5 t 7 d a b)
  | .fma c t d a b => some (wordT1 c 6 t 0 d a b)
  | .fms c t d a b => some (wordT1 c 6 t 1 d a b)
  | .fnma c t d a b => some (wordT1 c 6 t 2 d a b)
  | .fnms c t d a b => some (wordT1 c 6 t 3 d a b)
  | .cvt c t d a f m => some (wordT2 c 7 t 0 d a f m)
  | .rcp c t d a m => some (wordT2 c 7 t 1 d a 0 m)
  | .rsq c t d a m => some (wordT2 c 7 t 2 d a 0 m)
  | .sqrt c t d a m => some (wordT2 c 7 t 3 d a 0 m)
  | .exp2 c t d a m => some (wordT2 c 7 t 4 d a 0 m)
  | .log2 c t d a m => some (wordT2 c 7 t 5 d a 0 m)
  | .sinp c t d a m => some (wordT2 c 7 t 6 d a 0 m)
  | .rint c t d a m => some (wordT2 c 7 t 7 d a 0 m)
  | .cmpEq c p k t a b => some (wordP1 c 8 0 p k t a b)
  | .cmpNe c p k t a b => some (wordP1 c 8 1 p k t a b)
  | .cmpLt c p k t a b => some (wordP1 c 8 2 p k t a b)
  | .cmpLe c p k t a b => some (wordP1 c 8 3 p k t a b)
  | .cmpGt c p k t a b => some (wordP1 c 8 4 p k t a b)
  | .cmpGe c p k t a b => some (wordP1 c 8 5 p k t a b)
  | .cmpLtu c p k t a b => some (wordP1 c 8 6 p k t a b)
  | .cmpLeu c p k t a b => some (wordP1 c 8 7 p k t a b)
  | .cmpGtu c p k t a b => some (wordP1 c 8 8 p k t a b)
  | .cmpGeu c p k t a b => some (wordP1 c 8 9 p k t a b)
  | .cmpFeq c p k t a b => some (wordP1 c 8 10 p k t a b)
  | .cmpFne c p k t a b => some (wordP1 c 8 11 p k t a b)
  | .cmpFlt c p k t a b => some (wordP1 c 8 12 p k t a b)
  | .cmpFle c p k t a b => some (wordP1 c 8 13 p k t a b)
  | .cmpFgt c p k t a b => some (wordP1 c 8 14 p k t a b)
  | .cmpFge c p k t a b => some (wordP1 c 8 15 p k t a b)
  | .cmpFun c p k t a b => some (wordP1 c 8 16 p k t a b)
  | .cmpFord c p k t a b => some (wordP1 c 8 17 p k t a b)
  | .mov c d a => some (wordA1 c 9 0 d a 0)
  | .sel c n d a b => some (wordT1 c 9 0 n d a b)
  | .lid c d => some (wordA2 c 9 8 d 0)
  | .gidx c d k => some (wordA1 c 9 9 d 0 k)
  | .bcast c d a => some (wordA1 c 9 10 d a 0)
  | .pand c d a b => some (wordA3 c 9 11 0 d 0 a 0 b)
  | .por c d a b => some (wordA3 c 9 12 0 d 0 a 0 b)
  | .pxor c d a b => some (wordA3 c 9 13 0 d 0 a 0 b)
  | .pnot c d a => some (wordA4 c 9 14 0 d 0 a 0)
  | .vote c d a => some (wordA5 c 9 15 d 0 a 0)
  | .smovv c d a b => some (wordA1 c 9 16 d a b)
  | .movpGet c d => some (wordA2 c 9 17 d 0)
  | .movpSet c a => some (wordA1 c 9 17 0 a 1)
  | .sadd c d a b => some (wordA1 c 10 0 d a b)
  | .ssub c d a b => some (wordA1 c 10 1 d a b)
  | .smul c d a b => some (wordA1 c 10 2 d a b)
  | .sand c d a b => some (wordA1 c 10 3 d a b)
  | .sor c d a b => some (wordA1 c 10 4 d a b)
  | .sxor c d a b => some (wordA1 c 10 5 d a b)
  | .sshl c d a b => some (wordA1 c 10 6 d a b)
  | .sshr c d a b => some (wordA1 c 10 7 d a b)
  | .ssra c d a b => some (wordA1 c 10 8 d a b)
  | .smin c d a b => some (wordA1 c 10 9 d a b)
  | .smax c d a b => some (wordA1 c 10 10 d a b)
  | .sminu c d a b => some (wordA1 c 10 11 d a b)
  | .smaxu c d a b => some (wordA1 c 10 12 d a b)
  | .smov c d a => some (wordA1 c 10 13 d a 0)
  | .scmplt c d a b => some (wordA1 c 10 14 d a b)
  | .scmpeq c d a b => some (wordA1 c 10 15 d a b)
  | .movi c d imm => some (wordK1 c 11 0 d imm)
  | .movx c d imm => some (wordK1 c 11 1 d imm)
  | .smovi c d imm => some (wordK1 c 11 2 d imm)
  | .smovx c d imm => some (wordK1 c 11 3 d imm)
  | .jmp p o => some (wordB1 0 12 0 0 p o)
  | .bt sc p o => some (wordB1 0 12 1 sc p o)
  | .bf sc p o => some (wordB1 0 12 2 sc p o)
  | .bany sc p o => some (wordB1 0 12 3 sc p o)
  | .ball sc p o => some (wordB1 0 12 4 sc p o)
  | .call p o => some (wordB1 0 12 5 0 p o)
  | .nop => some (wordA6 0 13 0 0)
  | .exit => some (wordA6 0 13 1 0)
  | .ret => some (wordA6 0 13 2 0)
  | .brx a p => some (wordA1 0 13 3 0 a p)
  | .yield => some (wordA6 0 13 4 0)
  | .trap n => some (wordA7 0 13 5 0 n)
  | .ient => some (wordA6 0 13 6 0)
  | .regroup a => some (wordA1 0 13 7 0 a 0)
  | .bkpt n => some (wordA7 0 13 8 0 n)
  | .ldB c sc o d q x => some (wordM1 c 14 0 sc o d q x)
  | .ldBs c sc o d q x => some (wordM1 c 14 1 sc o d q x)
  | .ldH c sc o d q x => some (wordM1 c 14 2 sc o d q x)
  | .ldHs c sc o d q x => some (wordM1 c 14 3 sc o d q x)
  | .ldW c sc o d q x => some (wordM1 c 14 4 sc o d q x)
  | .ldD c sc o d q x => some (wordM1 c 14 5 sc o d q x)
  | .ldQ c sc o d q x => some (wordM1 c 14 6 sc o d q x)
  | .ldl c sc o d q x => some (wordM2 c 14 7 sc o d q 3 x)
  | .sld c sc o d q x => some (wordM2 c 14 8 sc o d q 3 x)
  | .ldNc c sc o d q x => some (wordM1 c 14 9 sc o d q x)
  | .stB c sc o d q x => some (wordM1 c 15 0 sc o d q x)
  | .stH c sc o d q x => some (wordM1 c 15 1 sc o d q x)
  | .stW c sc o d q x => some (wordM1 c 15 2 sc o d q x)
  | .stD c sc o d q x => some (wordM1 c 15 3 sc o d q x)
  | .stQ c sc o d q x => some (wordM1 c 15 4 sc o d q x)
  | .stl c sc o d q x => some (wordM2 c 15 5 sc o d q 3 x)
  | .sst c sc o d q x => some (wordM2 c 15 6 sc o d q 3 x)
  | .atomAdd c sc o d q x => some (wordAt1 c 16 0 sc o d q x)
  | .atomSub c sc o d q x => some (wordAt1 c 16 1 sc o d q x)
  | .atomAnd c sc o d q x => some (wordAt1 c 16 2 sc o d q x)
  | .atomOr c sc o d q x => some (wordAt1 c 16 3 sc o d q x)
  | .atomXor c sc o d q x => some (wordAt1 c 16 4 sc o d q x)
  | .atomMin c sc o d q x => some (wordAt1 c 16 5 sc o d q x)
  | .atomMax c sc o d q x => some (wordAt1 c 16 6 sc o d q x)
  | .atomUmin c sc o d q x => some (wordAt1 c 16 7 sc o d q x)
  | .atomUmax c sc o d q x => some (wordAt1 c 16 8 sc o d q x)
  | .atomXchg c sc o d q x => some (wordAt1 c 16 9 sc o d q x)
  | .atomCas c sc o d q x => some (wordAt1 c 16 10 sc o d q x)
  | .atomFadd c sc o d q x => some (wordAt1 c 16 11 sc o d q x)
  | .atomFmin c sc o d q x => some (wordAt1 c 16 12 sc o d q x)
  | .atomFmax c sc o d q x => some (wordAt1 c 16 13 sc o d q x)
  | .atomLd c sc o d q x => some (wordAt1 c 16 14 sc o d q x)
  | .atomSt c sc o d q x => some (wordAt1 c 16 15 sc o d q x)
  | .atomdAdd c sc o d q x => some (wordAt1 c 17 0 sc o d q x)
  | .atomdSub c sc o d q x => some (wordAt1 c 17 1 sc o d q x)
  | .atomdAnd c sc o d q x => some (wordAt1 c 17 2 sc o d q x)
  | .atomdOr c sc o d q x => some (wordAt1 c 17 3 sc o d q x)
  | .atomdXor c sc o d q x => some (wordAt1 c 17 4 sc o d q x)
  | .atomdMin c sc o d q x => some (wordAt1 c 17 5 sc o d q x)
  | .atomdMax c sc o d q x => some (wordAt1 c 17 6 sc o d q x)
  | .atomdUmin c sc o d q x => some (wordAt1 c 17 7 sc o d q x)
  | .atomdUmax c sc o d q x => some (wordAt1 c 17 8 sc o d q x)
  | .atomdXchg c sc o d q x => some (wordAt1 c 17 9 sc o d q x)
  | .atomdCas c sc o d q x => some (wordAt1 c 17 10 sc o d q x)
  | .atomdFadd c sc o d q x => some (wordAt1 c 17 11 sc o d q x)
  | .atomdFmin c sc o d q x => some (wordAt1 c 17 12 sc o d q x)
  | .atomdFmax c sc o d q x => some (wordAt1 c 17 13 sc o d q x)
  | .atomdLd c sc o d q x => some (wordAt1 c 17 14 sc o d q x)
  | .atomdSt c sc o d q x => some (wordAt1 c 17 15 sc o d q x)
  | .shfl c d a b => some (wordA1 c 18 0 d a b)
  | .shflUp c d a k => some (wordA8 c 18 1 d a 0 k)
  | .shflDn c d a k => some (wordA8 c 18 2 d a 0 k)
  | .shflXor c d a k => some (wordA8 c 18 3 d a 0 k)
  | .perm c d a b => some (wordA1 c 18 4 d a b)
  | .scanAdd c d a => some (wordA1 c 18 5 d a 0)
  | .scanAddx c d a => some (wordA1 c 18 6 d a 0)
  | .rdcAdd c d a t => some (wordA9 c 18 7 d a 0 t)
  | .rdcMin c d a t => some (wordA10 c 18 8 d a 0 t)
  | .rdcMax c d a t => some (wordA10 c 18 9 d a 0 t)
  | .rbal c d a p => some (wordA11 c 18 10 d a 0 p)
  | .cmpx c d a p => some (wordA11 c 18 11 d a 0 p)
  | .scanFadd c d a => some (wordA1 c 18 12 d a 0)
  | .fence c sc f => some (wordS1 c 19 0 sc 0 f)
  | .fenceSc c sc => some (wordS2 c 19 1 sc 0)
  | .barInit c sc b a => some (wordS3 c 19 2 sc b a 0)
  | .barArrive c sc b => some (wordS4 c 19 3 sc b 0)
  | .barWait c sc b => some (wordS4 c 19 4 sc b 0)
  | .barSync c sc b => some (wordS4 c 19 5 sc b 0)
  | .barDrop c sc b => some (wordS4 c 19 6 sc b 0)
  | .msync c sc a => some (wordS3 c 19 7 sc 0 a 0)
  | .drain c sc f => some (wordS1 c 19 8 sc 0 f)
  | .fwait c sc f g => some (wordS5 c 19 9 sc f 0 g 0)
  | .sbarInit c sc a => some (wordS3 c 19 10 sc 0 a 0)
  | .sbarWait c sc a p => some (wordS3 c 19 11 sc 0 a p)
  | .sbarArrive c sc a => some (wordS3 c 19 12 sc 0 a 0)
  | .barTry c sc b p => some (wordS3 c 19 13 sc b 0 p)
  | .qput c n row col d => some (wordQ1 c 20 0 n row col d 0)
  | .qget c n d => some (wordQ2 c 20 1 n 0 d 0)
  | .qputTry c n row col d p => some (wordQ3 c 20 2 n row col d p 0)
  | .qgetTry c n d p => some (wordQ4 c 20 3 n 0 d p 0)
  | .qlen c n row col d => some (wordQ1 c 20 4 n row col d 0)
  | .spawn c d => some (wordQ5 c 20 5 0 d 0)
  | .spawnTry c d p => some (wordQ6 c 20 5 0 d p 1)
  | .take c d p => some (wordQ6 c 20 6 0 d p 0)
  | .steal c row col p => some (wordQ3 c 20 7 0 row col 0 p 0)
  | .kick c a => some (wordE1 c 21 0 0 a 0)
  | .copy c a b m => some (wordE2 c 21 1 0 a b m)
  | .copyT c a b m => some (wordE2 c 21 2 0 a b m)
  | .gfill c a b m => some (wordE2 c 21 3 0 a b m)
  | .mcast c a b m => some (wordE2 c 21 4 0 a b m)
  | .rfence c => some (wordE3 c 21 5 0)
  | .mres c h sc => some (wordX1 c 22 0 h sc 0)
  | .mrel c h => some (wordX2 c 22 1 h 0)
  | .mmad c h sc v n => some (wordX3 c 22 2 h sc v 0 n 0)
  | .mmadSp c h sc v n t => some (wordX3 c 22 3 h sc v 0 n t)
  | .gang c sc => some (wordX1 c 22 4 0 sc 0)
  | .capoTake c => some (wordE3 c 22 5 0)
  | .capoPass c => some (wordE3 c 22 6 0)
  | .mlease c sc => some (wordX1 c 22 7 0 sc 0)
  | .mfree c => some (wordE3 c 22 8 0)
  | .bfstg c z h imm o => some (wordZ1 c 23 0 z h imm o 0)
  | .bfchn c z h imm o f => some (wordZ2 c 23 1 z h imm o 0 f)
  | .bfstgT c z h imm o => some (wordZ1 c 23 2 z h imm o 0)
  | .bfwg c z imm o => some (wordZ1 c 23 3 z 0 imm o 0)
  | .zset c z imm => some (wordZ3 c 23 4 z 0 imm 0)
  | .zget c z o => some (wordZ4 c 23 5 z 0 o 0)
  | .accclr c a => some (wordG1 c 24 0 a 0)
  | .accld c a b => some (wordG2 c 24 1 a b 0)
  | .epi c a b sc k j g => some (wordG3 c 24 2 a b sc 0 k j g)
  | .accmv c a b => some (wordG2 c 24 3 a b 0)
  | .accput c a b => some (wordG2 c 24 4 a b 0)
  | .accst c a b t => some (wordG4 c 24 5 a b 0 t)
  | .srt c a b => some (wordE2 c 25 0 0 a b 0)
  | .bvht c a b f => some (wordE4 c 25 1 0 a b 0 f)
  | .bslv c a b f => some (wordE4 c 25 2 0 a b 0 f)
  | .bsadj c a b f => some (wordE4 c 25 3 0 a b 0 f)
  | .rng c d => some (wordA2 c 26 0 d 0)
  | .rngD c d => some (wordA2 c 26 1 d 0)
  | .rngf c d => some (wordA2 c 26 2 d 0)
  | .eprst c a b => some (wordA8 c 26 3 0 a 3 b)
  | .skey c a => some (wordA1 c 26 4 0 a 0)
  | .sctr c a => some (wordA1 c 26 5 0 a 0)
  | .hnew c d => some (wordA2 c 27 0 d 0)
  | .henter c a => some (wordA1 c 27 1 0 a 0)
  | .hleave c => some (wordA6 c 27 2 0)
  | .hcf c d a => some (wordA1 c 27 3 d a 0)
  | .hrf c d a => some (wordA1 c 27 4 d a 0)
  | .hqry c d a => some (wordA1 c 27 5 d a 0)
  | .xacq c => some (wordA6 c 28 0 0)
  | .xrel c => some (wordA6 c 28 1 0)
  | .rld c d a k b => some (wordA12 c 28 2 d a 0 k b)
  | .srd c d a => some (wordA1 c 28 3 d a 0)
  | .swr c d a => some (wordA1 c 28 4 d a 0)
  | .xtry c p => some (wordA13 c 28 5 0 p 0)
  | .tret c => some (wordA6 c 29 0 0)
  | .sleep c a => some (wordA1 c 29 1 0 a 0)
  | .mcall c d a b => some (wordA1 c 29 2 d a b)
  | _ => none

end Sys2Proof
end

