-- ==== Sys2Proof/Config.lean ====
section
/-! DEFINITION. What the specification leaves open or leaves to firmware, timing or hardware outside it: constants without a
value, so that a statement holds for every choice of them. -/

namespace Sys2Proof.Config

/-- The choice numbered n among the agents that could move next, or among the outcomes that an unspecified time or order
decides (04 R131; log entry 4). -/
opaque choice : Nat → Nat

/-- What Chihoat does with the fault numbered n that is posted to it: it declines, or installs by the listed 8 B writes of
page-table entries at physical addresses (06 R164; log entry 5). -/
opaque chihoat : Nat → Option (List (Nat × DWord))

/-- The contents of the event numbered n of the mailbox's ring (21 R458). -/
opaque eventWord : Nat → DWord

/-- What Chihoat finds at KIMG in the launch numbered n: a kernel image, whose format is the assembler's, or none (09 R248, 14 R387). -/
opaque kernelImage : Nat → Option KImage

/-- Where Chihoat maps the code copy numbered n: its virtual address and the 8 B writes of page-table entries (01 R19). -/
opaque codeCopy : Nat → Nat × List (Nat × DWord)

/-- The local HBM that Chihoat keeps for bind records, queue images and contexts: its physical base (14 R390). -/
opaque chihoatMemory : Nat

/-- Bytes of a saved context whose layout the specification does not give, by choice number (15 R414). -/
opaque contextBytes : Nat → Nat

/-- The identity key of the module: its secret seed, message key and public seed, 24 B each (21 R457). -/
opaque identityKey : BitVec 576

/-- The random string of a quote's signature, by choice number (21 R457). -/
opaque quoteRandom : Nat → BitVec 192

/-- The features that the device offers in FEATCAP, bits 0 to 5 (16 R425). -/
opaque offered : BitVec 6

/-- The firmware key, 64 B, whose digest is fused into the module (21 R455). -/
opaque fusedKey : BitVec 512

end Sys2Proof.Config
end

