-- ==== Sys2Proof/Machine/State.lean ====
section
/-! DEFINITION. The state of the module as plain data: every register, table and memory the specification names, the
work under way between two steps, and the machine right after reset. Tables are sparse (`Tbl`): an unlisted key reads
as the table's default, which the comment of each field names. -/

namespace Sys2Proof.Machine

/-! ## Registers of a group -/

/-- One frontier entry (07 R187); V is being listed. `redo` and `kept` belong to an entry that returned from a trap or a
restore: the lanes for which the word at PC is still to be performed (15 R404, R406), and the running value of an f32
scan (11 R293). `due` says that the entry must issue a header first (09 R239), `sync` that it takes the sync-mask trap
of a failed `msync` instance, `passed` the lanes whose `msync` instance is complete while the rest of its chain is still to be
performed (11 R299). -/
structure FEntry where
  pc : BitVec 56
  mask : Lanes
  gmask : Lanes
  pri : BitVec 6
  deferred : Bool
  redo : Option Lanes
  kept : Option Word
  due : Bool
  sync : Bool := false
  passed : Lanes := 0
  /-- The entry stands at words of a chain whose earlier words have been performed: it issues before the others (07 R185). -/
  tail : Bool := false
  deriving DecidableEq, Repr

/-- A fret: its count and its completion status FST (09 R232, R235). -/
structure Fret where
  cnt : BitVec 6
  st : BitVec 2
  deriving DecidableEq, Repr

/-- A valid q register: the kind and the validated image with its place in physical coordinates (01 R21, R22, R26). A
buffer image fills the low 256 bits. -/
structure QReg where
  tensor : Bool
  img : BitVec 512
  deriving DecidableEq, Repr

/-- A reservation table entry in use: the validated record (02 R49). -/
structure Resv where
  w0 : DWord
  w8 : DWord
  deriving DecidableEq, Repr

/-- What a logged word does with the bytes it reaches (15 R408, 11 R280, R285). Widths are in bytes. -/
inductive MemOp where
  /-- Element load: first destination register, width, sign extension. -/
  | load (d w : Nat) (signed : Bool)
  /-- Line load of n lines into registers d up. -/
  | lineLoad (d n : Nat)
  /-- Uniform load into s[d]. -/
  | uniLoad (d w : Nat)
  /-- Element, line or uniform store. -/
  | store (w : Nat)
  /-- Atomic: function code, double width, destination if it returns, scope and order codes. -/
  | atomic (fn : BitVec 4) (dbl : Bool) (d : Option Nat) (sc : BitVec 3) (ord : BitVec 2)
  /-- `rld`: destination q register, tensor kind, local source, its number in the core's order, and the image that the record
  cache held at issue. -/
  | rld (qd : Nat) (tensor loc : Bool) (num : Nat) (hit : Option (BitVec 512))
  deriving DecidableEq, Repr

/-- One access of a logged word: its lane, byte address in the space, width, data to store or operand, second operand
of `cas`, and the bytes that are written (bit k for byte k) when part of a line word is suppressed (01 R33). -/
structure Access where
  lane : Nat
  addr : Nat
  width : Nat
  data : BitVec 128
  data2 : BitVec 128
  bytes : BitVec 16
  reg : Nat
  deriving DecidableEq, Repr

/-- A fault found on a line of a logged word (15 R408). -/
structure LogFault where
  cls : Nat
  cause : Nat
  addr : Nat
  deriving DecidableEq, Repr

/-- An entry of the operand log (15 R408), number `slot` of the four; `seq` tells it from earlier ones. `lowest` says that one access stands for every lane of the mask (X of 96 or
above, 11 R281). -/
structure LogEntry where
  word : Word
  pc : BitVec 56
  mask : Lanes
  done : Lanes
  op : MemOp
  accs : List Access
  hyp : Tbl (BitVec 12)
  lowest : Bool
  fret : Option Nat
  /-- Later accesses wait for it; a sweep follows it (04 R124). -/
  acquire : Bool
  sweeps : Bool
  plainWide : Bool
  seq : Nat
  slot : Nat
  fault : Option LogFault
  /-- The lines for which the word has had a frame filled (11 R282). -/
  filled : List Nat
  deriving DecidableEq, Repr

/-- A trap being handled: the handler entry, the held entry, the address after the trapping word or chain, and whether
the trapping word is performed once per group (15 R402, R404). -/
structure Handler where
  entry : FEntry
  held : FEntry
  after : BitVec 56
  once : Bool
  /-- One more than the number that the operand log's next entry had at the trap: the handler's accesses are not ordered after older ones
  (log entry 116). -/
  since : Nat
  deriving DecidableEq, Repr

/-- A waiting `msync` entry: the entry at its word, its mask and the lanes that have arrived (11 R299). -/
structure MsyncWait where
  entry : FEntry
  mask : Lanes
  lanes : Lanes
  deriving DecidableEq, Repr

/-- A steal under way (11 R312): the victim's core and slot, the predicate, the lanes, the posting cycle, the fret. -/
structure Steal where
  core : Nat
  slot : Nat
  pd : BitVec 3
  lanes : Lanes
  post : Nat
  fret : Option Nat
  deriving DecidableEq, Repr

/-- A push on its way or waiting at its own core (11 R307): the queue's core and number, the elements in order, whether it is
`qput.try`, and the port's answer once the word can retire. -/
structure Push where
  core : Nat
  qn : Nat
  elems : List DWord
  tries : Bool
  answer : Option Bool
  deriving DecidableEq, Repr

/-- The resolution requests of an `hcf` or `hrf` word that are still to complete (11 R315): the word's number, destination, lanes, the
status of each lane and the number outstanding. -/
structure HypWord where
  ix : Nat
  d : Nat
  lanes : Lanes
  status : Tbl Word
  left : Nat
  fret : Option Nat
  deriving DecidableEq, Repr

/-- A product word waiting at a rendezvous latch (12 R328): its bits apart from C, its tile word, the MEMBERS it captured and its
command. -/
structure Latched where
  word : Word
  tile : DWord
  members : Word
  cmd : Nat
  deriving DecidableEq, Repr

/-- A `perm` that has issued and waits for writes to the registers it reads (11 R291): its number, destination and index register, the lane,
register and word of each lane that reads one, its lanes, and the entries of the operand log and the `accmv` commands that it waits for. -/
structure Perm where
  ix : Nat
  d : Nat
  a : Nat
  picks : List (Nat × Nat × Nat)
  lanes : Lanes
  log : List Nat
  cmds : List Nat
  /-- The `hcf`, `hrf` and earlier `perm` words that it waits for. -/
  hyps : List Nat
  perms : List Nat
  fret : Option Nat
  deriving DecidableEq, Repr

/-- A `fence` that has issued and still holds later accesses (04 R121, R122): its scope, its F code, or 3 for `fence.sc`, the first
entry of the operand log that is not before it, `since` of the handler that issued it or 0, the number in the die's slice order up to which
root writes must be acknowledged, once the group's own accesses are performed, and how far its acquire half is. -/
structure Fence where
  sc : Nat
  f : Nat
  upto : Nat
  since : Nat
  mark : Option Nat
  /-- The acquire half: 0 not begun, 1 its sweep is under way, 2 complete. -/
  acq : BitVec 2
  deriving DecidableEq, Repr

/-- What holds a group's issue besides the word itself. -/
inductive Wait where
  | none
  /-- `sleep` until the given cycle (10 R277). -/
  | sleep (until_ : Nat)
  /-- A push in flight (11 R307, 19 R447). -/
  | push
  /-- `bar.sync` has arrived at the barrier and waits (11 R298, 15 R413). -/
  | barSync (bid : BitVec 8)
  /-- Arrived at `regroup` (07 R198). -/
  | regroup
  /-- `capo.take` waits for the capo (12 R332). -/
  | capo
  /-- A rollback waits for the group's engine words (15 R411). -/
  | rollback
  deriving DecidableEq, Repr

/-- The registers and the state of one group (07 R194). Defaults of the tables: zero; `q`, `res`: not valid. Vector
register n of lane L has key 32 n + L; v32 to v95 lie in the extended block of the pair. Predicate n is a lane mask; p0 is
not stored. `lid` holds the logical identities that `regroup` changed, plus one; an unlisted lane has 32 × group + lane. -/
structure Group where
  v : Tbl Word
  s : Tbl DWord
  p : Tbl Lanes
  q : Tbl (Option QReg)
  z : Tbl DWord
  frets : Tbl Fret
  res : Tbl (Option Resv)
  lcur : DWord
  trapv : DWord
  idem : DWord
  status : DWord
  gang : DWord
  hyp : Tbl (BitVec 12)
  key : Tbl DWord
  ctr : Tbl DWord
  idemKey : Tbl DWord
  idemCtr : Tbl DWord
  lid : Tbl Nat
  frontier : List FEntry
  aside : List MsyncWait
  handler : Option Handler
  log : List LogEntry
  /-- The number of the next entry of the log. -/
  nextLog : Nat
  exited : Lanes
  wait : Wait
  /-- Bit d: cache die d has answered the sweep under way (03 R86). -/
  sweep : Option (BitVec 8)
  /-- The sweep follows an acquire access of a memory word, not a waiting word (04 R121, R124). -/
  loadSweep : Bool
  /-- The place in the core's issue order of the `drain` that the group waits at (02 R71). -/
  drainAt : Option Nat
  /-- The fences that still hold later accesses, oldest first (04 R121). -/
  fences : List Fence
  /-- Holds or waits for the ticket of `fence.sc` (04 R122): 0 no, 1 waits, 2 holds. -/
  ticket : BitVec 2
  steal : Option Steal
  push : Option Push
  hypWords : List HypWord
  /-- The registers that `accmv` commands in flight write: first and number, by command (02 R41, 12 R349). -/
  lineRegs : Tbl (Nat × Nat)
  /-- The registers that commands not yet taken up have still to read: first and number, by command (12 R322, R349). -/
  readRegs : Tbl (Nat × Nat)
  /-- The `perm` words that have issued and not completed (11 R291). -/
  perms : List Perm
  /-- The product words of the group that wait at open latches, in the order of issue (12 R328). -/
  latches : List Latched
  /-- Words retired in the present window, the rate of the last complete one, all words since the first bind (14 R393, 15 R412). -/
  retired : Nat
  rate : Nat
  total : Nat
  lastIssue : Nat
  /-- The reservation entries whose parity is wrong (02 R73). -/
  resBad : List Nat
  /-- The stage object that the group waits at in `sbar.wait`, by its offset, and the state 2 or 3 that it has reached since, or 0 (11
  R303). -/
  stageWait : Option (Nat × Nat)
  /-- Poisoned lanes of registers, register n, lane L as 32 n + L (02 R73). -/
  psnLines : List Nat
  /-- The group has issued a word that forbids a flush (15 R412). -/
  noFlush : Bool
  /-- The slot has been given up (09 R236). -/
  released : Bool
  deriving DecidableEq, Repr

/-! ## Teams and cores -/

/-- A bind record (14 R389), field by field; `str` holds entry k of STR in bits [7k+6:7k]. -/
structure BindRec where
  team : Nat
  launch : Nat
  part : Nat
  ngm1 : Nat
  entry : Nat
  spsize : Nat
  spbase : Nat
  arows : Nat
  abase : Nat
  obsize : Nat
  obbase : Nat
  ten : Bool
  tcap : Nat
  toff : Nat
  qen : BitVec 16
  qimg : Nat
  str : BitVec 112
  bres : Nat
  lanesm1 : Nat
  mj : Nat
  mi : Nat
  clidx : Nat
  stealto : Nat
  mode : Word
  seed : DWord
  img : Nat
  epri : Nat
  imglen : Nat
  arg0 : DWord
  arg1 : DWord
  deriving DecidableEq, Repr

/-- An extended block: v32 to v95 of the pair that holds it (register n, lane L at key 32 n + L), its lock's holder, and the partner
that waits at `xacq` (02 R38, 07 R196). -/
structure ExtBlock where
  v : Tbl Word
  holder : Option Nat
  waiter : Option Nat
  deriving DecidableEq, Repr

/-- A save under way (15 R412, R413). -/
inductive SaveState where
  | none
  | draining
  | saving
  | saved
  /-- Killed, to be bound again from its entry (15 R412, 02 R74). -/
  | again
  deriving DecidableEq, Repr

/-- A queue descriptor in use (02 R60) with the runs accepted but not yet popped, oldest first: length and whether the
run is visible (02 R62), and the refused pushes in order of first refusal (11 R307). -/
structure QDesc where
  en : Bool
  esz : BitVec 2
  lcap : BitVec 4
  base : BitVec 20
  head : BitVec 32
  tail : BitVec 32
  owner : Nat
  runs : List (Nat × Bool)
  refused : List GroupRef
  getters : List GroupRef
  /-- Its parity is wrong (02 R73). -/
  bad : Bool := false
  deriving DecidableEq, Repr

/-- A barrier-table entry (02 R66); V is being listed. -/
structure Barrier where
  part : Nat
  launch : Nat
  team : Nat
  bid : BitVec 8
  dropMask : Lanes
  arrMask : Lanes
  phase : BitVec 16
  exp : BitVec 6
  nextExp : BitVec 6
  waiters : Lanes
  /-- Its parity is wrong (02 R73). -/
  bad : Bool := false
  deriving DecidableEq, Repr

/-- A record cache entry (01 R26): global or local, address, kind, image. -/
structure RcEntry where
  loc : Bool
  addr : Nat
  tensor : Bool
  img : BitVec 512
  deriving DecidableEq, Repr

/-- The work of an engine command, with everything captured at its issue (12 R318, 01 R30). -/
inductive CmdKind where
  /-- copy 0, copy.t 1, gfill 2, mcast 3, with rounding mode, copy word and stage or fan-out word (13 R352). -/
  | copy (op rm : BitVec 3) (cw sw : DWord) (src : QReg) (dst : Option QReg) (res : Option Resv)
  /-- The copies of `eprst`: state-record offsets in lane order, template offset and bytes (13 R382). -/
  | eprst (recs : List Nat) (toff len : Nat)
  | srt (qin qout : QReg) (cntOff : Nat)
  | bvht (ray : Bool) (qn qq qh : QReg) (cntOff : Nat)
  | bslv (f32 : Bool) (sa sb : DWord)
  | bsadj (f32 : Bool) (sa sb : DWord)
  /-- A product word with its tile word, A reservation, the first register of its B slice, and the slices as far as they are read (12
  R320, R322, 13 R366). -/
  | mmad (sp new tr : Bool) (tile : DWord) (res : Resv) (vb : Nat) (slices : List (Tbl Word))
  /-- bfstg 0, bfchn 1, bfstg.t 2, bfwg 3 with its z values (12 R338). -/
  | stage (op : BitVec 2) (bf16 : Bool) (zs : List DWord) (res : Option Resv) (sin sout : DWord)
  /-- ACC word: FN, F, tile word, descriptor or register word, scale word, its reservation, registers read (12 R345). -/
  | acc (fn f : BitVec 4) (tile sb sc : DWord) (res : Option Resv) (regs : Tbl Word)
  deriving DecidableEq, Repr

/-- A destination line of an engine command as it was translated at its start (03 R90): virtual line, physical address, owner, and whether
requests that are forwarded for it are counted (06 R170). -/
structure Dest where
  vline : Nat
  pa : Nat
  owner : Nat
  cnt : Bool
  deriving DecidableEq, Repr

/-- How far an engine has come with a command (03 R90 to R94, 06 R164, R167): its destination lines, the table lines that their
translations used, the units that it has read, each once, with the poison of their granules, or none where one cannot be read, the units
that it has written, and the lines whose translation is refused. A unit is a line of global memory or a bank word of 16 B. -/
structure Work where
  dests : List Dest
  tables : List Nat
  buf : Tbl (Option (Line × BitVec 16))
  wrote : List Nat
  bad : List Nat
  deriving DecidableEq, Repr

/-- Nothing done yet. -/
def Work.new : Work := ⟨[], [], [], [], []⟩

/-- An engine command of a core. `seq` is its place in the core's issue order, `chain` names the chain that started it, `after` the
first entry of its group's operand log that is not among the accesses released to it (04 R128), `latched` says that it waits at a
gang latch, `also` lists the other members of its gang with their frets and the places of their words in the issue order (12 R328). `phase` is 0 before its engine takes it up, then 1,
2 once its ownership ranges are registered, 3 once its sources are read, 4 once its destinations are written. `seen` holds what it
read at take-up (13 R357, R358, R382), `vals` the elements it read with their poison, none for one that cannot be read, `left` the
targets of an `mcast` still to be served, `work` how far its engine has come, `st` the error status so far. -/
structure Cmd where
  kind : CmdKind
  g : GroupRef
  part : Nat
  hyp : BitVec 12
  fret : Option Nat
  chain : Option Nat
  seq : Nat
  after : Nat
  since : Nat
  latched : Bool
  also : List (GroupRef × Option Nat × Nat)
  phase : Nat
  work : Work
  seen : List Nat
  vals : List (Option (Nat × Bool))
  left : List Nat
  st : BitVec 2
  deriving DecidableEq, Repr

/-- A team in a slot (14 R389): its record, groups, extended blocks by group pair, task count, clusters' geometry, and
how far a save has come. `ctx` is the address the save writes to. -/
structure Team where
  bind : BindRec
  groups : Tbl (Option Group)
  ext : Tbl ExtBlock
  tcount : Nat
  save : SaveState
  ctx : Nat
  /-- Cluster shape and origin (die, row, column), from the placement (01 R18). -/
  shapeR : Nat
  shapeC : Nat
  die : Nat
  orow : Nat
  ocol : Nat
  /-- The groups waiting at `regroup` with their keys (07 R198): lane key by 32 × group + lane, plus one. -/
  regroupKeys : Tbl Nat
  /-- Idempotent kernel (09 R248). -/
  idemKernel : Bool
  /-- The engine words that a save has withdrawn, oldest first (15 R413). -/
  held : List Cmd
  /-- When a drain has lasted DMAX cycles (15 R412). -/
  drainEnd : Nat
  deriving DecidableEq, Repr

/-- A request in the lease arbiter's queue (12 R331): its group, limits, capo partner, and the matrix word that an implicit request was
entered for. -/
structure LeaseReq where
  slot : Nat
  grp : Nat
  words : Nat
  cycles : Nat
  partner : Option Nat
  word : Option Nat
  deriving DecidableEq, Repr

/-- The active lease: requester, partner of a capo pair, the group that holds the capo, words left, and the cycle at
which CLEFT reaches zero (12 R330 to R332). -/
structure Lease where
  slot : Nat
  grp : Nat
  partner : Option Nat
  token : Nat
  words : Nat
  ends : Nat
  /-- When an `mfree` that has issued ends it (12 R331). -/
  freed : Option Nat := none
  /-- When a `capo.pass` that has issued moves the capo, and to which group (12 R332). -/
  next : Option (Nat × Nat) := none
  deriving DecidableEq, Repr

/-- The words of a chain that follow one that waits for the words before it: where they begin, and the team as the chain read it at its
issue (07 R185). -/
structure Tail where
  pc : Nat
  team : Team
  deriving DecidableEq, Repr

/-- A command chain (13 R362, R363): the kicking group, the next entry's offset, the captured records and
reservations, the loop counters (an unlisted one is idle; a listed one holds its count plus one), the entries
executed, the first error status, whether it has stopped, and what the accesses released to its commands are (04 R128). -/
structure Chain where
  g : GroupRef
  off : Nat
  q : Tbl (Option QReg)
  res : Tbl (Option Resv)
  hyp : BitVec 12
  counters : Tbl Nat
  executed : Nat
  status : BitVec 2
  stopped : Bool
  fret : Option Nat
  after : Nat
  since : Nat
  deriving DecidableEq, Repr

/-- One core (00 R3, 02): its teams by slot, its memories, tables and engines. Defaults: zero bytes and cells, no team,
no command; an unlisted queue descriptor is not enabled. -/
structure Core where
  teams : Tbl (Option Team)
  scratch : Mem
  ob : Mem
  /-- Cell of row r, column c at key 512 r + c (02 R55). -/
  acc : Tbl Word
  /-- Bit 0 OVF, bit 1 PSN of each row (02 R57). -/
  accSt : Tbl (BitVec 2)
  /-- Poisoned granules of 8 B of the scratchpad and the operand buffer (02 R73). -/
  scratchPsn : List Nat
  obPsn : List Nat
  queues : Tbl (Option QDesc)
  barriers : List Barrier
  spilled : List Barrier
  /-- The armed stage barriers: slot, window offset, producer (02 R69, R70). -/
  armed : List (Nat × Nat × GroupRef)
  /-- Most recently used first, at most 64 (01 R26). -/
  rcache : List RcEntry
  /-- The core's issue order: the number of the next engine command, and of the last `rfence` (01 R28). -/
  seq : Nat
  lastRfence : Nat
  cmds : Tbl (Option Cmd)
  /-- The matrix words taken up and not yet complete, in the order of take-up (12 R336). -/
  matrix : List Nat
  leaseQ : List LeaseReq
  lease : Option Lease
  chains : Tbl (Option Chain)
  /-- SLOTCMD, SLOTSRC and PREACT (14 R390, 15 R412). -/
  slotCmd : DWord
  slotSrc : DWord
  preAct : DWord
  /-- Corrected and transient error counters of each memory, by unit; the rows or lines retired to spares (unit, row), each of which is
  an event reported to the management core; and whether the core is reported for disabling (02 R73). -/
  corrected : Tbl Nat
  transient : Tbl Nat
  retired : List (Nat × Nat)
  reported : Bool
  /-- The leaves in the core's translation cache: partition, page base, page size log2 (06 R165). -/
  tcache : List (Nat × Nat × Nat)
  /-- The tails of chains, by 32 × slot + group. -/
  tails : Tbl (Option Tail)
  /-- The times that a group of the core has been served (07 R200, 14 R394). -/
  served : Nat
  /-- Engine commands completed: what the watchdog sees (15 R418). -/
  done : Nat
  deriving DecidableEq, Repr

/-! ## Dies, caches and translation -/

/-- An L2 frame (03 R79, R80) with its 128 bytes; LINE, HT and PART are its key, which with the line's slice and set and `way` says
where it lies (03 R78). EO is that the line lies in a range of `Die.owned`. `first` marks the next victim of its set (11 R282). -/
structure Frame where
  state : BitVec 3
  pri : Bool
  psn : Bool
  first : Bool
  way : Nat
  vmask : LineMask
  dmask : LineMask
  data : Line
  deriving DecidableEq, Repr

/-- Bytes written in a die's slices and not yet acknowledged by their home, in slice order (03 R84, R85): the frame's key, its number
in that order, the batch that it may belong to, and the index of the batch that it was sent with, if it was (04 R116). -/
structure OutWrite where
  key : Nat
  bytes : LineBytes
  psn : Bool
  num : Nat
  epoch : Nat
  sent : Option Nat
  deriving DecidableEq, Repr

/-- An LLC frame's tag as the home keeps it (03 R81), in way `way` of its set (03 R78); LINE, HT and PART are its key, the root's bytes
lie in `hbm`, whose value is the newest that the home holds. -/
structure LlcTag where
  sharers : BitVec 12
  xdie : BitVec 4
  state : BitVec 2
  psn : Bool
  way : Nat
  deriving DecidableEq, Repr

/-- A version of a line under a non-root tag at its home (05 R140, R145), in the LLC or in entry `slot` of a spill
extent (05 R153), and whether its bytes are poisoned (03 R99). -/
structure Version where
  bytes : LineBytes
  psn : Bool
  spill : Option (Nat × Nat)
  deriving DecidableEq, Repr

/-- An ownership range of an engine command (03 R90): the lines not yet left, tag, command. -/
structure OwnRange where
  core : Nat
  cmd : Nat
  part : Nat
  tag : Nat
  lines : List Nat
  deriving DecidableEq, Repr

/-- Who waits for a page walk (06 R162): a logged word's line, a line of a core's engine command, a line of a communicator's command. -/
inductive Waiter where
  | lane (g : GroupRef) (seq vline : Nat)
  | cmd (core id vline : Nat)
  | comm (i vline : Nat)
  deriving DecidableEq, Repr

/-- A page walk of a die, running or in its miss queue, for a partition's 64 KiB page, with the accesses that have joined it (06 R166). -/
structure PageWalk where
  part : Nat
  vpage : Nat
  waiters : List Waiter
  deriving DecidableEq, Repr

/-- A pointer entry in a die's walk cache (06 R165): partition, level, the virtual address bits from which it was reached, the table it
names, and the table lines read to reach it (06 R167). -/
structure Pointer where
  part : Nat
  lvl : Nat
  index : Nat
  table : Nat
  lines : List Nat
  deriving DecidableEq, Repr

/-- A translation leaf in the die's shared cache (06 R160, R165): partition, page base, page size log2, the entry, and
the table lines its walk read (06 R167). -/
structure Leaf where
  part : Nat
  base : Nat
  bits : Nat
  pte : DWord
  tables : List Nat
  deriving DecidableEq, Repr

/-- A threshold unit (14 R396). -/
structure Threshold where
  ctl : DWord
  val : DWord
  /-- The counter has been on the other side of VAL since the unit was armed. -/
  was : Bool
  deriving DecidableEq, Repr

/-- One compute die: its L2 frames, vector clock (04 R116), ownership table, translation cache, translation control
block (06 R171), access counters (06 R170), threshold units, pre-emption register, and its column spare map (01 R16).
Defaults: no frame, clock entry zero, count zero; an unlisted spare entry is row 12. -/
structure Die where
  l2 : Tbl (Option Frame)
  /-- What its slices have written and its homes have not acknowledged, the number of the next such write, and the batch that the next
  belongs to: a read of an unsent write closes the batch (03 R85, 04 R116, R117). -/
  out : List OutWrite
  nextOut : Nat
  epoch : Nat
  clock : List Nat
  owned : List OwnRange
  /-- The commands that have asked for their ownership ranges, in the order of their start requests: core and number (03 R90). -/
  starts : List (Nat × Nat)
  tcache : List Leaf
  /-- The walks running and those in the miss queue, oldest first, and the walk cache (06 R165, R166). -/
  walks : List PageWalk
  missQ : List PageWalk
  pointers : List Pointer
  tsync : DWord
  hintThr : DWord
  hintBase : DWord
  hintPtr : DWord
  pcSrc : DWord
  pcDst : DWord
  pcCtl : DWord
  bflip : DWord
  /-- The invalidations that TSYNC waits for, by die (06 R173). -/
  tsyncDue : List (Nat × LineWrite)
  /-- The copy under way, as it was started: source, its owner, destination (06 R174); and the line that comes next. -/
  pcJob : Nat × Nat × Nat
  pcNext : Nat
  /-- What the copier has written, and whether it has met a lasting error (06 R171, R174). -/
  pcWork : Work
  pcErr : Bool
  counters : Tbl Nat
  thresholds : Tbl Threshold
  preCtl : DWord
  spare : Tbl Nat
  /-- Logical cores with no working physical core (01 R17), as 8 × row + column. -/
  unbacked : List Nat
  deriving DecidableEq, Repr

/-! ## Partitions, launches and hypotheses -/

/-- A hypothesis entry (05 R136). -/
structure HypEntry where
  state : BitVec 3
  depth : BitVec 4
  parent : BitVec 12
  nchild : BitVec 13
  refcnt : BitVec 23
  /-- Where an id that was confirmed remaps to, also once it is FREE, until it is taken again (05 R149). -/
  remap : Option (BitVec 12)
  /-- Slices (0 to 383 L2, 384 to 391 LLC, 392 the spill area) that have not yet reported their work done (05 R151). -/
  due : List Nat
  deriving DecidableEq, Repr

/-- A resolution request (05 R147): the id, confirm or refute, and the group, word and lane it came from; none is Chihoat, which
sheds hypotheses (05 R155). -/
structure HypReq where
  id : BitVec 12
  confirm : Bool
  g : Option GroupRef
  lane : Nat
  wordIx : Nat
  deriving DecidableEq, Repr

/-- A launch queue of a partition (14 R383, R386): counters, level, version, what holds it, and the energy batch of a
type 6 packet (launches left, estimate). -/
structure LQueue where
  prod : BitVec 32
  cons : BitVec 32
  ignored : BitVec 16
  level : BitVec 2
  nbv : BitVec 8
  /-- A dependence wait (address, value, op) holds the queue. -/
  depWait : Option (Nat × DWord × Bool)
  /-- The packet at the head is a launch held until the next energy interval (14 R388). -/
  held : Bool
  /-- A type 3 packet with DRAIN holds the queue until its launches have finished; the level to set. -/
  drainTo : Option (BitVec 2)
  batch : Option (Nat × Nat)
  deriving DecidableEq, Repr

/-- A hypothesis spill extent (05 R153). -/
structure Extent where
  base : Nat
  lb : Nat
  deriving DecidableEq, Repr

/-- A cluster of a launch that has been placed (14 R391): index, die, origin row and column, and for each member
(row × 8 + column) whether it is unstarted 0, live 1 or gone 2 (01 R464), with its core and slot. -/
structure Cluster where
  index : Nat
  /-- When it was placed (14 R392). -/
  placed : Nat
  die : Nat
  orow : Nat
  ocol : Nat
  members : Tbl (Nat × Nat × Nat)
  deriving DecidableEq, Repr

/-- A launch that has been taken up (14 R385 to R387). -/
structure Launch where
  part : Nat
  queue : Nat
  tag : BitVec 32
  kimg : Nat
  image : KImage
  seed : DWord
  mode : Word
  nclus : Nat
  arg0 : DWord
  arg1 : DWord
  compl : Nat
  stealto : Nat
  dieMask : BitVec 12
  hinted : Bool
  level : BitVec 2
  eest : Nat
  nextCluster : Nat
  clusters : List Cluster
  /-- The code copies: origin (die, row, column) and virtual address (01 R19). -/
  copies : List ((Nat × Nat × Nat) × Nat)
  /-- Words that each finished team has retired, by die (15 R412). -/
  doneWords : List (Nat × Nat)
  status : BitVec 8
  deriving DecidableEq, Repr

/-- One partition (21 R460) with its launch queues, hypothesis tree and counters. Defaults: zero; an unlisted
hypothesis id is FREE. -/
structure Part where
  units : List Nat
  l2ways : BitVec 16
  llcways : BitVec 16
  shed : Bool
  policyB : Bool
  hbmBase : Nat
  hbmSize : Nat
  root : Nat
  budget : Nat
  interval : Nat
  wdog : Nat
  lqBase : Nat
  lqn : Nat
  queues : Tbl LQueue
  hyp : Tbl HypEntry
  reqs : List HypReq
  /-- The resolution the controller has taken up (05 R148, R150) and the ones whose completion is under way. -/
  resolving : Option HypReq
  completing : List (HypReq × Word)
  extents : List Extent
  orphans : Nat
  /-- The queue served next, the estimates admitted in this interval, the launches still being placed in the order of take-up (14 R386,
  R388, R391). -/
  next : Nat
  committed : Nat
  order : List Nat
  /-- What the watchdog last saw of the partition's progress (15 R418). -/
  seen : List Nat
  /-- The clock in units of 0.05 GHz, and a written step that has not taken effect (21 R462). -/
  clock : Nat
  clockNext : Option Nat
  resetting : Bool
  /-- The line and tag of a HYPCAP fault that has been posted, while no extent has been granted since (05 R155, 21 R460). -/
  capWaits : Option (Nat × Nat)
  deriving DecidableEq, Repr

/-- A communicator (16 R430): the partition that created it, its descriptor (each member as module, slots owned, slots used, first
slot), and its progress in the command under way. Addresses are virtual. -/
structure Comm where
  part : Nat
  id : BitVec 16
  self : Nat
  hdie : Nat
  dci : Bool
  ctl : Nat
  ring : Nat
  compl : Nat
  lring : Nat
  members : List (Nat × Nat × Nat × Nat)
  broken : Bool
  /-- The command under way, as it was taken up (16 R431). -/
  cmd : Option (BitVec 512)
  /-- How far it has come: 0 taken up, 1 its destination registered, 2 and 3 its destination written (16 R435). -/
  phase : Nat
  work : Work
  /-- Node values received: (lo, hi, element, value). -/
  nodes : List (Nat × Nat × Nat × Option Word)
  /-- The status of the command under way, once it is known. -/
  result : Option Nat
  /-- Whether every member has submitted its descriptor since this module did (16 R430, R438). -/
  ready : Bool
  deriving DecidableEq, Repr

/-- A trap that a word raises (15 R399, R400): class, cause, code of `trap`, `bkpt` or the fret, address, lane (none:
the lowest lane of the execution mask), whether it is taken at a fret wait (15 R402), and the STATUS bits its lane sets
before it is taken (08 R216). -/
structure Trap where
  cls : Nat
  cause : Nat
  lane : Option Nat
  addr : Nat
  code : Nat
  fretWait : Bool
  status : DWord
  deriving DecidableEq, Repr

/-- How a word ended: it is performed, it waits, or inside a chain it stops at a trap found by its encoding 0, its
registers 1, its place 2, or in its lanes 3 (09 R243, 15 R407). -/
inductive Note where
  | performed
  | waits
  /-- Inside a chain, lanes of it wait; the others can be performed (11 R310, R314). -/
  | partly (left : Lanes)
  | stops (stage : Nat) (t : Trap)
  deriving DecidableEq, Repr

/-! ## The module -/

/-- Who moves in a step: a group issues, the pending event at the given place happens, or what comes from outside the rows of the opcode
table at the given place does. -/
inductive Agent where
  | group (g : GroupRef)
  | event (i : Nat)
  | outside (i : Nat)
  deriving DecidableEq, Repr

/-- How an error shows itself to a read (03 R98): correctable, uncorrectable but clean when retried, or lasting. -/
inductive ErrKind where
  | single
  | transient
  | lasting
  deriving DecidableEq, Repr

/-- What comes to the machine that no row of the opcode table stands for. Errors (03 R97, 02 R73): in the data of a frame of a die's L2 or of
the LLC, by key; in the data of an HBM line; in the tag, mask or ownership entry of a way of a slice, in one copy or in both; in the entry
of a team's barrier, of a queue, of a group's reservation; in a row of a core's memory, numbered as `retired` numbers it. Chihoat's `.dev` atomic on 8 bytes
of memory, with the function codes of 11 R285 and its two operands (06 R172). And what the host or another module writes into a line of
its own memory, and whether the line is poisoned from then on (06 R161, 16 R424). And what another member of a communicator says over
class 2: 0 every member has submitted its descriptor, 1 a partition of a member was reset or one of its flows is on a broken route, 2 the
members' commands at the ring position differ (16 R430, R436, R437). -/
inductive Input where
  | l2 (die key : Nat) (kind : ErrKind)
  | llc (key : Nat) (kind : ErrKind)
  | hbm (line : Nat) (kind : ErrKind)
  | tag (slice way : Nat) (both : Bool)
  | barrier (core i : Nat)
  | queue (core n : Nat)
  | reservation (g : GroupRef) (h : Nat)
  | atomic (die : Nat) (op : BitVec 4) (pa : Nat) (x y : DWord)
  | core (core unit row : Nat) (kind : ErrKind)
  | far (remote : Bool) (line : Nat) (bytes : LineBytes) (poison : Bool)
  | comm (comm what : Nat)
  deriving DecidableEq, Repr

/-- What the caches and HBM know of their errors (03 R97, R98, R100). Slices are numbered 0 to 383 for the L2, 32 × die + slice, 384 to
391 for the LLC, and HBM stacks 392 to 407: refetch, corrected and transient counters; spare frames used; the ways disabled, as slice,
set and way; the slices reported for repair; the 64 KiB frames, and the ways with an unknown tag, reported to Chihoat. -/
structure Health where
  refetched : Tbl Nat
  corrected : Tbl Nat
  transient : Tbl Nat
  spares : Tbl Nat
  off : List (Nat × Nat × Nat)
  repair : List Nat
  frames : List Nat
  tags : List (Nat × Nat)
  deriving DecidableEq, Repr

/-- The registers of the module outside its dies: features, mailbox, measurements, fabric, host windows. -/
structure Module where
  /-- Bring-up step completed (21 R454), 0 in reset, 8 when open; the step that failed, if any. -/
  bringup : Nat
  failed : Option Nat
  featCap : BitVec 256
  featEn : BitVec 256
  featCommit : Bool
  featDone : Bool
  /-- CMD, STAT and the response of the mailbox (21 R458). -/
  mboxCmd : DWord
  mboxStat : DWord
  mboxResp : Nat
  mboxPayload : BitVec 512
  /-- MR0 to MR7 (21 R456). -/
  mr : Tbl (BitVec 256)
  rollback : BitVec 7
  /-- The event ring, oldest first, at most 64 (21 R458). -/
  events : List DWord
  moduleId : Option (BitVec 12)
  /-- Route table entries by 4 × destination + class (16 R427), and PORTST by port (16 R429). -/
  routes : Tbl (BitVec 8)
  ports : Tbl DWord
  /-- HDM decoders: host base, size, device base, in units of 256 MiB, and commit (16 R423). -/
  hdm : Tbl (Nat × Nat × Nat × Bool)
  /-- The lines in host bias of which the host holds a copy (06 R176). What the host writes into its copy stands in `hbm` at once: the
  home obtains a line from the host before any die uses it, so no agent of the module can tell the two apart. -/
  hostCopies : List Nat
  /-- The flips asked for, oldest first: frame and whether to host bias (06 R177). -/
  flipping : List (Nat × Bool)
  /-- The physical address of the bias table, 2 MiB of local HBM (06 R176). -/
  biasBase : Nat
  /-- The last line the host read and whether it was poisoned (16 R424). -/
  hostData : Line
  hostPoison : Bool
  /-- The last line that another module's request was answered with, as it stood, and whether it was poisoned (03 R99, 06 R169). -/
  fabData : Line
  fabPoison : Bool
  /-- The poisoned lines of the host's and of other modules' memory: whether another module's, and line (16 R424). -/
  farPsn : List (Bool × Nat)
  unavailable : List Nat
  /-- The module id that step 7 of bring-up will load (21 R454). -/
  idLoad : BitVec 12
  /-- The holder of the module's fence ticket (04 R122). -/
  ticketHolder : Option GroupRef
  /-- The groups that wait for it, oldest first. -/
  ticketQueue : List GroupRef
  /-- Stores and atomics of other modules and the host lost on broken routes (16 R429). -/
  lostStores : Nat
  /-- Counters of SEL by 4096 × kind + index as last measured (21 R461), and the tasks that thresholds have released (14 R396). -/
  meters : Tbl Nat
  tasks : List (Nat × Nat)
  deriving DecidableEq, Repr

/-- The module (00 R2). `hbm` holds the root values applied at the homes by physical address; `hostMem` host memory
by host physical address; `remote` other modules' memory by 2^40 × module + address. `llc` and `versions` are keyed by
`lineKey`. `applied` holds, for each die, the highest of its batches of which a home has applied a write. -/
structure State where
  cores : Tbl Core
  dies : Tbl Die
  parts : Tbl (Option Part)
  launches : Tbl (Option Launch)
  comms : List Comm
  hbm : Mem
  hbmPsn : List Nat
  hostMem : Mem
  remote : Mem
  llc : Tbl (Option LlcTag)
  versions : Tbl (Option Version)
  applied : List Nat
  modl : Module
  health : Health
  /-- What comes from outside the machine and has not taken place, oldest first (log entry 115). -/
  outside : List Input
  /-- The events delivered to the machine and under way inside it, oldest first. -/
  pending : List Instr
  /-- The agent that moves next, when it is settled; otherwise it is chosen among those that can move. -/
  turn : Option Agent
  /-- The group whose word is being performed. -/
  cur : GroupRef
  /-- While a chain is performed: the team as it stood at its issue, from which every word reads (07 R185). -/
  snap : Option Team
  /-- While a chain is performed again up to a trap: the lanes that complete (15 R407). -/
  limit : Option Lanes
  /-- The words of the current entry's chain performed so far: the next one is at PC + 4 × ofs. -/
  ofs : Nat
  /-- How the word just performed ended (the model's own field). -/
  note : Note
  /-- The model's clock, one a step (log entry 3). -/
  cycle : Nat
  /-- The number of free choices made (the model's own field, log entry 4). -/
  choices : Nat
  deriving DecidableEq, Repr

/-- Why the machine stops: only where the state itself is not one the machine can be in. -/
inductive Fault where
  /-- Raised by every word when `cur` names no group that holds a frontier entry. Safe: no run of the machine from a
  bound group reaches it. -/
  | noGroup
  deriving DecidableEq, Repr

/-- Why an instruction has no meaning. -/
inductive Refusal where
  /-- Raised by the dispatcher for an instruction not yet modelled. Safe: the machine stops. -/
  | notModelled (mnemonic : String)
  deriving DecidableEq, Repr

/-! ## Reset -/

/-- The module outside its dies after reset (21 R454 to R458, 16 R422 to R429): nothing has run but the boot ROM. -/
def Module.reset : Module :=
  { bringup := 0, failed := none, featCap := 0, featEn := 0, featCommit := false, featDone := false,
    mboxCmd := 0, mboxStat := 0, mboxResp := 0, mboxPayload := 0, mr := [], rollback := 0, events := [],
    moduleId := none, routes := [], ports := [], hdm := [], hostCopies := [], flipping := [], biasBase := 0,
    hostData := 0, hostPoison := false, fabData := 0, fabPoison := false, farPsn := [], unavailable := [], idLoad := 0, ticketHolder := none, ticketQueue := [], lostStores := 0,
    meters := [], tasks := [] }

/-- A core with no team: every memory and table empty, every register zero (02 R57, 14 R390, 15 R412). -/
def Core.reset : Core :=
  { teams := [], scratch := [], ob := [], acc := [], accSt := [], scratchPsn := [], obPsn := [], queues := [],
    barriers := [], spilled := [], armed := [], rcache := [], seq := 0, lastRfence := 0, cmds := [], matrix := [], leaseQ := [], lease := none,
    chains := [], slotCmd := 0, slotSrc := 0, preAct := 0, corrected := [], transient := [], retired := [], reported := false,
    tcache := [], tails := [], served := 0, done := 0 }

/-- A die at reset: no frame, every register zero but DMAX of PRECTL (15 R412) and
THR of HINTTHR (06 R171). -/
def Die.reset : Die :=
  { l2 := [], out := [], nextOut := 0, epoch := 0, clock := [], owned := [], starts := [], tcache := [], walks := [], missQ := [],
    pointers := [], tsync := 0, hintThr := 1024, hintBase := 0, hintPtr := 0, pcSrc := 0,
    pcDst := 0, pcCtl := 0, bflip := 0, tsyncDue := [], pcJob := (0, 0, 0), pcNext := 0, pcWork := Work.new, pcErr := false,
    counters := [], thresholds := [], preCtl := 0x10000, spare := [],
    unbacked := [] }

/-- The machine right after reset: every core, engine, port and link is held in reset (21 R454), no partition exists,
every memory is listed empty, and nothing is pending. -/
def State.reset : State :=
  { cores := [], dies := [], parts := [], launches := [], comms := [], hbm := [], hbmPsn := [], hostMem := [],
    remote := [], llc := [], versions := [], applied := [], modl := Module.reset, health := ⟨[], [], [], [], [], [], [], []⟩,
    outside := [], pending := [], turn := none,
    cur := ⟨0, 0, 0⟩, snap := none, limit := none, ofs := 0, note := .performed, cycle := 0, choices := 0 }

end Sys2Proof.Machine
end

