-- ==== Sys2Proof/Machine/Access.lean ====
section
/-! DEFINITION. Reading and writing the tables of the state: sparse tables, cores, teams, groups, registers and lane
masks. Every later operation goes through these. -/

namespace Sys2Proof

/-- What key `n` holds; `d` is what an unlisted key reads as. -/
def Tbl.get {α : Type} (d : α) : Tbl α → Nat → α
  | [], _ => d
  | (k, x) :: t, n => if k = n then x else Tbl.get d t n

/-- The table without key `n`. -/
def Tbl.erase {α : Type} : Tbl α → Nat → Tbl α
  | [], _ => []
  | (k, x) :: t, n => if k = n then Tbl.erase t n else (k, x) :: Tbl.erase t n

/-- The table with key `n` put before the first larger key. -/
def Tbl.put {α : Type} : Tbl α → Nat → α → Tbl α
  | [], n, x => [(n, x)]
  | (k, y) :: t, n, x => if n < k then (n, x) :: (k, y) :: t else (k, y) :: Tbl.put t n x

/-- Writes key `n`. Writing what an unlisted key reads as removes the entry. -/
def Tbl.set {α : Type} [DecidableEq α] (d : α) (t : Tbl α) (n : Nat) (x : α) : Tbl α :=
  if x = d then Tbl.erase t n else Tbl.put (Tbl.erase t n) n x

/-- The canonical form: keys strictly rising from `lo`, no entry equal to the default. -/
def Tbl.wfFrom {α : Type} [DecidableEq α] (d : α) (lo : Nat) : Tbl α → Bool
  | [] => true
  | (k, x) :: t => decide (lo ≤ k) && decide (x ≠ d) && Tbl.wfFrom d (k + 1) t

/-- The canonical form of a table. -/
def Tbl.wf {α : Type} [DecidableEq α] (d : α) (t : Tbl α) : Bool := Tbl.wfFrom d 0 t

/-- Removes every entry whose key satisfies `p`. -/
def Tbl.drop {α : Type} (p : Nat → Bool) (t : Tbl α) : Tbl α := t.filter fun kx => !p kx.1

/-- The canonical form of a byte memory. -/
def Mem.wf (m : Mem) : Bool := Tbl.wf 0 m

/-- One byte of a memory. -/
def Mem.byte (m : Mem) (a : Nat) : Byte := Tbl.get 0 m a

/-- Writes one byte. -/
def Mem.setByte (m : Mem) (a : Nat) (x : Byte) : Mem := Tbl.set 0 m a x

/-- The `n` bytes from address `a`, little-endian (00 R6). -/
def Mem.read (m : Mem) : (n : Nat) → (a : Nat) → Nat
  | 0, _ => 0
  | n + 1, a => (m.byte a).toNat + 256 * Mem.read m n (a + 1)

/-- Writes the low `n` bytes of `x` from address `a`, little-endian (00 R6). -/
def Mem.write (m : Mem) : (n : Nat) → (a x : Nat) → Mem
  | 0, _, _ => m
  | n + 1, a, x => Mem.write (m.setByte a (BitVec.ofNat 8 x)) n (a + 1) (x / 256)

/-- Writes those of `n` bytes of `x` whose bit of `mask` is set. -/
def Mem.writeMasked (m : Mem) : (n : Nat) → (a x mask : Nat) → Mem
  | 0, _, _, _ => m
  | n + 1, a, x, mask =>
    Mem.writeMasked (if mask % 2 = 1 then m.setByte a (BitVec.ofNat 8 x) else m) n (a + 1) (x / 256) (mask / 2)

namespace Machine

/-! ## Lane masks -/

/-- The lanes of a mask, ascending (07 R182). -/
def lanesOf (m : Lanes) : List Nat := (List.range 32).filter fun l => m.getLsbD l

/-- The mask that holds the lanes of which `p` is true. -/
def maskOf (p : Nat → Bool) : Lanes :=
  (List.range 32).foldl (fun m l => if p l then m ||| (1#32 <<< l) else m) 0

/-- The lanes below `l`. -/
def lanesBelow (l : Nat) : Lanes := maskOf fun k => decide (k < l)

/-- The lowest lane of a mask; 0 of an empty one. -/
def lowestLane (m : Lanes) : Nat := (lanesOf m).headD 0

/-- The highest lane of a mask; 0 of an empty one. -/
def highestLane (m : Lanes) : Nat := (lanesOf m).getLastD 0

/-- One lane as a mask. -/
def oneLane (l : Nat) : Lanes := 1#32 <<< l

/-- The number of lanes. -/
def popcount (m : Lanes) : Nat := (lanesOf m).length

/-! ## Cores, teams and groups -/

/-- A core by its physical number. -/
def State.core (s : State) (c : Nat) : Core := s.cores.get Core.reset c

/-- Changes one core. -/
def State.modCore (s : State) (c : Nat) (f : Core → Core) : State :=
  { s with cores := s.cores.set Core.reset c (f (s.core c)) }

/-- A command of a core by its number. -/
def Core.cmd? (k : Core) (id : Nat) : Option Cmd := k.cmds.get none id

/-- Changes a command of a core. -/
def State.modCmd (s : State) (core id : Nat) (f : Cmd → Cmd) : State :=
  s.modCore core fun k => { k with cmds := k.cmds.set none id ((k.cmd? id).map f) }

/-- A communicator of the module. -/
def State.comm? (s : State) (i : Nat) : Option Comm := s.comms[i]?

/-- Changes a communicator. -/
def State.modComm (s : State) (i : Nat) (f : Comm → Comm) : State := { s with comms := s.comms.modify i f }

/-- A die. -/
def State.die (s : State) (d : Nat) : Die := s.dies.get Die.reset d

/-- Changes one die. -/
def State.modDie (s : State) (d : Nat) (f : Die → Die) : State :=
  { s with dies := s.dies.set Die.reset d (f (s.die d)) }

/-- The team in a slot. -/
def Core.team? (c : Core) (slot : Nat) : Option Team := c.teams.get none slot

/-- Changes the team in a slot, if there is one. -/
def Core.modTeam (c : Core) (slot : Nat) (f : Team → Team) : Core :=
  match c.team? slot with
  | none => c
  | some t => { c with teams := c.teams.set none slot (some (f t)) }

/-- A group of a team. -/
def Team.group? (t : Team) (g : Nat) : Option Group := t.groups.get none g

/-- Changes a group, if there is one. -/
def Team.modGroup (t : Team) (g : Nat) (f : Group → Group) : Team :=
  match t.group? g with
  | none => t
  | some x => { t with groups := t.groups.set none g (some (f x)) }

/-- The team that a group belongs to. -/
def State.team? (s : State) (r : GroupRef) : Option Team := (s.core r.core).team? r.slot

/-- A group of the machine. -/
def State.group? (s : State) (r : GroupRef) : Option Group := (s.team? r).bind fun t => t.group? r.grp

/-- Changes the team that a group belongs to. -/
def State.modTeam (s : State) (r : GroupRef) (f : Team → Team) : State :=
  s.modCore r.core fun c => c.modTeam r.slot f

/-- Changes one group. -/
def State.modGroup (s : State) (r : GroupRef) (f : Group → Group) : State :=
  s.modTeam r fun t => t.modGroup r.grp f

/-- A partition. -/
def State.part? (s : State) (p : Nat) : Option Part := s.parts.get none p

/-- Changes a partition, if it exists. -/
def State.modPart (s : State) (p : Nat) (f : Part → Part) : State :=
  match s.part? p with
  | none => s
  | some x => { s with parts := s.parts.set none p (some (f x)) }

/-- A launch. -/
def State.launch? (s : State) (l : Nat) : Option Launch := s.launches.get none l

/-- Changes a launch, if it exists. -/
def State.modLaunch (s : State) (l : Nat) (f : Launch → Launch) : State :=
  match s.launch? l with
  | none => s
  | some x => { s with launches := s.launches.set none l (some (f x)) }

/-- Delivers an event: it takes place in a later step. -/
def State.post (s : State) (i : Instr) : State := { s with pending := s.pending ++ [i] }

/-- Delivers an event unless it is under way already. -/
def State.postOnce (s : State) (i : Instr) : State := if i ∈ s.pending then s else s.post i

/-- The die of a core (00 R3). -/
def dieOf (core : Nat) : Nat := core / 104

/-- The physical row of a core. -/
def rowOf (core : Nat) : Nat := core % 104 / 8

/-- The physical column of a core. -/
def colOf (core : Nat) : Nat := core % 8

/-- The core at a physical row and column of a die. -/
def coreAt (die row col : Nat) : Nat := 104 * die + 8 * row + col

/-! ## Registers of a group (07 R194) -/

/-- Whether the block v32 to v95 of group g is held by that group (07 R196). -/
def Team.holdsExt (t : Team) (g : Nat) : Bool :=
  (t.ext.get ⟨[], none, none⟩ (g / 2)).holder = some g

/-- Lane l of vector register n of group g: base block or extended block (07 R194, 02 R38). -/
def Team.vget (t : Team) (g n l : Nat) : Word :=
  if n < 32 then
    match t.group? g with
    | none => 0
    | some x => x.v.get 0 (32 * n + l)
  else (t.ext.get ⟨[], none, none⟩ (g / 2)).v.get 0 (32 * n + l)

/-- Writes the lanes of `m` of vector register n, lane l with `f l`. -/
def putLanes (t : Tbl Word) (n : Nat) (m : Lanes) (f : Nat → Word) : Tbl Word :=
  (lanesOf m).foldl (fun t l => t.set 0 (32 * n + l) (f l)) t

/-- A lane of a register that is written is no longer poisoned (02 R73). -/
def Group.cure (x : Group) (n : Nat) (m : Lanes) : Group :=
  match x.psnLines with
  | [] => x
  | ps => { x with psnLines := ps.filter fun k => !(k / 32 = n && m.getLsbD (k % 32)) }

/-- The other group of a pair (02 R38). -/
def partnerOf (g : Nat) : Nat := if g % 2 = 0 then g + 1 else g - 1

/-- Writes the lanes of `m` of vector register n of group g. A register of the pair's block is poisoned for both its groups. -/
def Team.vset (t : Team) (g n : Nat) (m : Lanes) (f : Nat → Word) : Team :=
  if n < 32 then t.modGroup g fun x => { x.cure n m with v := putLanes x.v n m f }
  else
    let b := t.ext.get ⟨[], none, none⟩ (g / 2)
    { (t.modGroup g fun x => x.cure n m).modGroup (partnerOf g) fun x => x.cure n m with
      ext := t.ext.set ⟨[], none, none⟩ (g / 2) { b with v := putLanes b.v n m f } }

/-- A uniform register: s0 reads zero (07 R194). -/
def Group.sget (x : Group) (n : Nat) : DWord := if n = 0 then 0 else x.s.get 0 n

/-- Writes a uniform register; writes to s0 are ignored (07 R194). -/
def Group.sset (x : Group) (n : Nat) (y : DWord) : Group := if n = 0 then x else { x with s := x.s.set 0 n y }

/-- A predicate, one bit a lane: p0 is true (07 R194). -/
def Group.pget (x : Group) (n : Nat) : Lanes := if n = 0 then BitVec.allOnes 32 else x.p.get 0 n

/-- Writes the lanes of `m` of a predicate; writes to p0 are ignored (07 R194). -/
def Group.pset (x : Group) (n : Nat) (m val : Lanes) : Group :=
  if n = 0 then x else { x with p := x.p.set 0 n ((x.p.get 0 n &&& ~~~m) ||| (val &&& m)) }

/-- A fret. -/
def Group.fret (x : Group) (f : Nat) : Fret := x.frets.get ⟨0, 0⟩ f

/-- Writes a fret. -/
def Group.setFret (x : Group) (f : Nat) (y : Fret) : Group := { x with frets := x.frets.set ⟨0, 0⟩ f y }

/-- Counts a word on a fret (09 R232). -/
def Group.fretUp (x : Group) : Option Nat → Group
  | none => x
  | some f => x.setFret f { x.fret f with cnt := (x.fret f).cnt + 1 }

/-- A word of a fret completes with a status; the first status that is not zero is kept (09 R232, R235). -/
def Group.fretDown (x : Group) (f : Option Nat) (st : BitVec 2) : Group :=
  match f with
  | none => x
  | some f =>
    let y := x.fret f
    x.setFret f ⟨y.cnt - 1, if y.st = 0 then st else y.st⟩

/-- Whether a fret is clear (09 R232). -/
def Group.fretClear (x : Group) (f : Nat) : Bool := (x.fret f).cnt = 0

/-- A q register, if it is valid (01 R26). -/
def Group.qget (x : Group) (n : Nat) : Option QReg := x.q.get none n

/-- A z register (07 R194). -/
def Group.zget (x : Group) (n : Nat) : DWord := x.z.get 0 n

/-- A reservation of the group, if the handle is in use (02 R48). -/
def Group.resv (x : Group) (h : Nat) : Option Resv := x.res.get none h

/-- The logical identity of a lane slot of group g (07 R180). -/
def Group.lidOf (x : Group) (g l : Nat) : Nat :=
  match x.lid.get 0 l with
  | 0 => 32 * g + l
  | n + 1 => n

end Machine

end Sys2Proof
end

