-- ==== Sys2Proof/Machine/Num.lean ====
section
/-! DEFINITION. Number formats, exact values and RoundTo (08 R203 to R213), and the correctly rounded special functions
(08 R211) as values approximated far below any rounding boundary. -/

namespace Sys2Proof.Machine

/-! ## Exact values -/

/-- A real result: a NaN, an infinity, or (m + θ) · 2^e with a sign, where θ is 0, or when `sticky` strictly between 0
and 1. -/
inductive Num where
  | nan
  | inf (neg : Bool)
  | fin (neg : Bool) (m : Nat) (e : Int) (sticky : Bool)
  deriving DecidableEq, Repr

/-- Zero with a sign. -/
def Num.zero (neg : Bool) : Num := .fin neg 0 0 false

/-- An integer times a power of two. -/
def Num.ofInt (x : Int) (e : Int) : Num := .fin (decide (x < 0)) x.natAbs e false

/-- The number of bits of a natural number. -/
def bitLen (n : Nat) : Nat := if n = 0 then 0 else Nat.log2 n + 1

/-- A value negated. -/
def Num.neg : Num → Num
  | .nan => .nan
  | .inf s => .inf (!s)
  | .fin s m e t => .fin (!s) m e t

/-- Whether a value is a zero. -/
def Num.isZero : Num → Bool
  | .fin _ m _ t => m = 0 && !t
  | _ => false

/-- The sign of a value. -/
def Num.sign : Num → Bool
  | .nan => false
  | .inf s => s
  | .fin s _ _ _ => s

/-! ## Formats (08 R203) -/

/-- The format codes (08 R203). -/
inductive Fmt where
  | f32
  | f64
  | f16
  | bf16
  | e4m3
  | e5m2
  | ds8
  | i8
  | u8
  | i16
  | i32
  | u32
  | i64
  | fx64
  deriving DecidableEq, Repr

/-- The format of a code; 14 and 15 are reserved (08 R203). -/
def fmtOf (c : Nat) : Option Fmt :=
  [Fmt.f32, .f64, .f16, .bf16, .e4m3, .e5m2, .ds8, .i8, .u8, .i16, .i32, .u32, .i64, .fx64][c]?

/-- The size in bytes (08 R203). -/
def Fmt.bytes : Fmt → Nat
  | .f64 | .i64 | .fx64 => 8
  | .f32 | .i32 | .u32 => 4
  | .f16 | .bf16 | .i16 => 2
  | .e4m3 | .e5m2 | .ds8 | .i8 | .u8 => 1

/-- A float format: exponent bits, fraction bits, bias, whether it has infinities, the largest finite code without sign,
the canonical NaN (08 R203 to R205). -/
structure FloatFmt where
  ebits : Nat
  mbits : Nat
  bias : Nat
  hasInf : Bool
  maxFin : Nat
  nan : Nat
  deriving DecidableEq, Repr

/-- The float formats; none for ds8, integers and fx64. -/
def Fmt.float : Fmt → Option FloatFmt
  | .f32 => some ⟨8, 23, 127, true, 0x7F7FFFFF, 0x7FC00000⟩
  | .f64 => some ⟨11, 52, 1023, true, 0x7FEFFFFFFFFFFFFF, 0x7FF8000000000000⟩
  | .f16 => some ⟨5, 10, 15, true, 0x7BFF, 0x7E00⟩
  | .bf16 => some ⟨8, 7, 127, true, 0x7F7F, 0x7FC0⟩
  | .e4m3 => some ⟨4, 3, 7, false, 0x7E, 0x7F⟩
  | .e5m2 => some ⟨5, 2, 15, true, 0x7B, 0x7E⟩
  | _ => none

/-- An integer format: least value, greatest value, the power of two of its unit; fx64 counts 64ths (08 R209). -/
def Fmt.range : Fmt → Option (Int × Int × Int)
  | .i8 => some (-128, 127, 0)
  | .u8 => some (0, 255, 0)
  | .i16 => some (-32768, 32767, 0)
  | .i32 => some (-2147483648, 2147483647, 0)
  | .u32 => some (0, 4294967295, 0)
  | .i64 => some (-9223372036854775808, 9223372036854775807, 0)
  | .fx64 => some (-9223372036854775808, 9223372036854775807, -6)
  | _ => none

/-- The code of an infinity or of the largest finite value's successor, without sign. -/
def FloatFmt.infCode (f : FloatFmt) : Nat := f.maxFin + 1

/-- Sets the sign bit of a code. -/
def FloatFmt.signed (f : FloatFmt) (neg : Bool) (code : Nat) : Nat :=
  if neg then code + 2 ^ (f.ebits + f.mbits) else code

/-- The value of a float code (08 R204, R205). -/
def FloatFmt.value (f : FloatFmt) (x : Nat) : Num :=
  let neg := x / 2 ^ (f.ebits + f.mbits) % 2 = 1
  let mag := x % 2 ^ (f.ebits + f.mbits)
  let e := mag / 2 ^ f.mbits
  let frac := mag % 2 ^ f.mbits
  if mag ≤ f.maxFin then
    if e = 0 then .fin neg frac (1 - (f.bias + f.mbits : Int)) false
    else .fin neg (2 ^ f.mbits + frac) ((e : Int) - (f.bias + f.mbits : Int)) false
  else if f.hasInf ∧ mag = f.infCode then .inf neg
  else .nan

/-- Whether a float code is a signalling NaN; e4m3 has none (08 R204). -/
def FloatFmt.snan (f : FloatFmt) (x : Nat) : Bool :=
  f.hasInf && f.value x = .nan && x / 2 ^ (f.mbits - 1) % 2 = 0

/-- Whether a float code is a nonzero subnormal. -/
def FloatFmt.subnormal (f : FloatFmt) (x : Nat) : Bool :=
  let mag := x % 2 ^ (f.ebits + f.mbits)
  mag ≠ 0 && mag < 2 ^ f.mbits

/-! ## ds8 (08 R206, R207), in units of 2^−6 -/

/-- A term of a ds8 code (08 R206). -/
def ds8Term (s e : Nat) : Int := if e = 7 then 0 else if s = 1 then -(2 ^ (6 - e) : Int) else 2 ^ (6 - e)

/-- The value of a ds8 code (08 R206). -/
def ds8Units (code : Nat) : Int :=
  ds8Term (code / 128 % 2) (code / 16 % 8) + ds8Term (code / 8 % 2) (code % 8)

/-- The magnitudes of V8, ascending (08 R206). -/
def ds8Grid : List Nat :=
  (List.range 129).filter fun u => (List.range 256).any fun c => ds8Units c = (u : Int)

/-- The exponents (e1, e2) of two-term codes with |Term1| ≥ |Term2|. -/
def ds8Pairs : List (Nat × Nat) := (List.range 7).flatMap fun a => ((List.range 7).filter (a ≤ ·)).map fun b => (a, b)

/-- The number of nonzero terms of the canonical code of a magnitude (08 R207). -/
def ds8Terms (u : Nat) : Nat :=
  if u = 0 then 0 else if (List.range 7).any fun e => 2 ^ (6 - e) = u then 1 else 2

/-- The canonical code of a value of V8 (08 R207). -/
def ds8Code (neg : Bool) (u : Nat) : Nat :=
  let s := if neg then 1 else 0
  if u = 0 then 0x77
  else match (List.range 7).find? fun e => 2 ^ (6 - e) = u with
    | some e => s * 128 + e * 16 + 7
    | none =>
      match ds8Pairs.find? fun p => 2 ^ (6 - p.1) + 2 ^ (6 - p.2) = u with
      | some p => s * 128 + p.1 * 16 + s * 8 + p.2
      | none =>
        match ds8Pairs.find? fun p => 2 ^ (6 - p.1) = u + 2 ^ (6 - p.2) with
        | some p => s * 128 + p.1 * 16 + (1 - s) * 8 + p.2
        | none => 0x77

/-! ## Reading a format -/

/-- A signed reading of the low `w` bits. -/
def signedOf (w x : Nat) : Int := if x % 2 ^ w < 2 ^ (w - 1) then (x % 2 ^ w : Nat) else (x % 2 ^ w : Nat) - (2 ^ w : Nat)

/-- The value of a code of a format (08 R204 to R209). -/
def Fmt.value (f : Fmt) (x : Nat) : Num :=
  match f.float with
  | some g => g.value x
  | none =>
    match f with
    | .ds8 => .ofInt (ds8Units (x % 256)) (-6)
    | .i8 => .ofInt (signedOf 8 x) 0
    | .i16 => .ofInt (signedOf 16 x) 0
    | .i32 => .ofInt (signedOf 32 x) 0
    | .i64 => .ofInt (signedOf 64 x) 0
    | .fx64 => .ofInt (signedOf 64 x) (-6)
    | .u32 => .ofInt (x % 2 ^ 32 : Nat) 0
    | _ => .ofInt (x % 256 : Nat) 0

/-- Whether a code is a signalling NaN. -/
def Fmt.snan (f : Fmt) (x : Nat) : Bool :=
  match f.float with
  | some g => g.snan x
  | none => false

/-! ## Exact arithmetic -/

/-- A signed mantissa at exponent `e`. -/
def scaled (neg : Bool) (m : Nat) (e base : Int) : Int :=
  let x : Int := (m * 2 ^ (e - base).toNat : Nat)
  if neg then -x else x

/-- The exact sum of two values. An exact zero of two zeros of one sign keeps it; any other exact zero has the sign
`down`, which says that the rounding mode is rdn (10 R257). ∞ − ∞ is a NaN. -/
def Num.add (down : Bool) (a b : Num) : Num :=
  match a, b with
  | .nan, _ => .nan
  | _, .nan => .nan
  | .inf s, .inf t => if s = t then .inf s else .nan
  | .inf s, _ => .inf s
  | _, .inf t => .inf t
  | .fin s m e _, .fin t n f _ =>
    let g := if e ≤ f then e else f
    let x := scaled s m e g + scaled t n f g
    if x = 0 then .zero (if m = 0 ∧ n = 0 ∧ s = t then s else down)
    else .ofInt x g

/-- The exact product; 0 × ∞ is a NaN. -/
def Num.mul (a b : Num) : Num :=
  match a, b with
  | .nan, _ => .nan
  | _, .nan => .nan
  | .inf s, x => if x.isZero then .nan else .inf (s != x.sign)
  | x, .inf t => if x.isZero then .nan else .inf (x.sign != t)
  | .fin s m e _, .fin t n f _ => .fin (s != t) (m * n) (e + f) false

/-- The quotient with 200 bits and a sticky bit; x / 0 is an infinity, 0 / 0 and ∞ / ∞ are NaNs (10 R257). -/
def Num.div (a b : Num) : Num :=
  match a, b with
  | .nan, _ => .nan
  | _, .nan => .nan
  | .inf _, .inf _ => .nan
  | .inf s, x => .inf (s != x.sign)
  | x, .inf t => .zero (x.sign != t)
  | .fin s m e _, .fin t n f _ =>
    if n = 0 then (if m = 0 then .nan else .inf (s != t))
    else if m = 0 then .zero (s != t)
    else
      let k := 200 + bitLen n
      .fin (s != t) (m * 2 ^ k / n) (e - f - k) (m * 2 ^ k % n ≠ 0)

/-- One bit of an integer square root: `r` is the root of the bits above. -/
def sqrtStep (n : Nat) (r k : Nat) : Nat :=
  let c := r + 2 ^ k
  if c * c ≤ n then c else r

/-- The integer square root of a number below 2^(2·bits). -/
def isqrt (bits n : Nat) : Nat := ((List.range bits).reverse).foldl (sqrtStep n) 0

/-- The square root of a positive value with about 200 bits and a sticky bit. -/
def Num.sqrt (a : Num) : Num :=
  match a with
  | .nan => .nan
  | .inf s => if s then .nan else .inf false
  | .fin s m e _ =>
    if m = 0 then .zero s
    else if s then .nan
    else
      let odd := e % 2 ≠ 0
      let k := 2 * (200 - bitLen m / 2) + (if odd then 1 else 0)
      let n := m * 2 ^ k
      let r := isqrt (bitLen n / 2 + 1) n
      .fin false r ((e - k) / 2) (r * r ≠ n)

/-- Compares two values that are no NaN: less, equal, greater as −1, 0, 1; −0 equals +0. -/
def Num.cmp (a b : Num) : Int :=
  match a, b with
  | .inf s, .inf t => if s = t then 0 else if s then -1 else 1
  | .inf s, _ => if s then -1 else 1
  | _, .inf t => if t then 1 else -1
  | .fin s m e _, .fin t n f _ =>
    let g := if e ≤ f then e else f
    let x := scaled s m e g
    let y := scaled t n f g
    if x < y then -1 else if x = y then 0 else 1
  | _, _ => 0

/-! ## Rounding (08 R211, R212) -/

/-- The rounding modes (08 R211). -/
inductive Rm where
  | rne
  | rtz
  | rup
  | rdn
  | rna
  | rsk
  deriving DecidableEq, Repr

/-- The mode of a code; 6 and 7 are reserved. -/
def rmOf (c : Nat) : Option Rm := [Rm.rne, .rtz, .rup, .rdn, .rna, .rsk][c]?

/-- The flags a rounding raises (08 R213). -/
structure Flags where
  nv : Bool := false
  dz : Bool := false
  of : Bool := false
  uf : Bool := false
  nx : Bool := false
  deriving DecidableEq, Repr

/-- No flag. -/
def Flags.none : Flags := {}

/-- Either flag. -/
def Flags.or (a b : Flags) : Flags := ⟨a.nv || b.nv, a.dz || b.dz, a.of || b.of, a.uf || b.uf, a.nx || b.nx⟩

/-- The low five bits of STATUS (08 R213). -/
def Flags.bits (f : Flags) : DWord :=
  (if f.nv then 16 else 0) ||| (if f.dz then 8 else 0) ||| (if f.of then 4 else 0) ||| (if f.uf then 2 else 0) |||
    (if f.nx then 1 else 0)

/-- Where a magnitude lies above a grid point: at it, or by a fraction num/den (with a sticky rest), den a power of two. -/
structure Frac where
  num : Nat
  den : Nat
  sticky : Bool

/-- Whether the magnitude goes to the upper neighbour; `even` says that the lower one is even (08 R212). -/
def Rm.up (m : Rm) (neg even : Bool) (r : Nat) (f : Frac) : Bool :=
  match m with
  | .rne => 2 * f.num > f.den || (2 * f.num = f.den && (f.sticky || !even))
  | .rna => 2 * f.num ≥ f.den
  | .rtz => false
  | .rup => !neg
  | .rdn => neg
  | .rsk => r < f.num * 2 ^ 24 / f.den

/-- A magnitude (m + θ)·2^e on the grid of multiples of 2^q: the lower multiple, and the fraction above it. -/
def onGrid (m : Nat) (e q : Int) (sticky : Bool) : Nat × Frac :=
  if q ≤ e then (m * 2 ^ (e - q).toNat, ⟨0, 1, sticky⟩)
  else
    let d := (q - e).toNat
    (m / 2 ^ d, ⟨m % 2 ^ d, 2 ^ d, sticky⟩)

/-- Whether a fraction is no exact grid point. -/
def Frac.inexact (f : Frac) : Bool := f.num ≠ 0 || f.sticky

/-- Overflow of a float format (08 R212). -/
def FloatFmt.overflow (f : FloatFmt) (neg : Bool) (m : Rm) : Nat :=
  if !f.hasInf then f.signed neg f.maxFin
  else match m with
    | .rtz => f.signed neg f.maxFin
    | .rup => if neg then f.signed neg f.maxFin else f.signed neg f.infCode
    | .rdn => if neg then f.signed neg f.infCode else f.signed neg f.maxFin
    | _ => f.signed neg f.infCode

/-- RoundTo for a float format (08 R212, R213). -/
def FloatFmt.round (f : FloatFmt) (mode : Rm) (r : Nat) (v : Num) : Nat × Flags :=
  match v with
  | .nan => (f.nan, {})
  | .inf s => if f.hasInf then (f.signed s f.infCode, {}) else (f.signed s f.maxFin, { nx := true })
  | .fin s m e t =>
    if m = 0 ∧ !t then (f.signed s 0, {})
    else
      let emin : Int := 1 - (f.bias + f.mbits : Int)
      let q0 : Int := e + (bitLen m : Int) - (f.mbits + 1 : Int)
      let q := if q0 < emin then emin else q0
      let g := onGrid m e q t
      let big := if mode.up s (g.1 % 2 = 0) r g.2 && g.2.inexact then g.1 + 1 else g.1
      let code := (q + (f.mbits + f.bias : Int) - 1).toNat * 2 ^ f.mbits + big
      if code > f.maxFin then (f.overflow s mode, { of := true, nx := true })
      else (f.signed s code, { nx := g.2.inexact, uf := g.2.inexact && code < 2 ^ f.mbits })

/-- Saturation of an integer or fx64 value to its range (08 R212, R213), as a code of `w` bits. -/
def saturated (lo hi : Int) (w : Nat) (x : Int) (inexact : Bool) : Nat × Flags :=
  if x < lo then ((lo % (2 ^ w : Nat)).toNat, { nv := true })
  else if hi < x then ((hi % (2 ^ w : Nat)).toNat, { nv := true })
  else ((x % (2 ^ w : Nat)).toNat, { nx := inexact })

/-- RoundTo for an integer format or fx64 (08 R212, R213). -/
def roundInt (lo hi unit : Int) (w : Nat) (mode : Rm) (r : Nat) (v : Num) : Nat × Flags :=
  match v with
  | .nan => (0, { nv := true })
  | .inf s => (((if s then lo else hi) % (2 ^ w : Nat)).toNat, { nv := true })
  | .fin s m e t =>
    let g := onGrid m e unit t
    let big := if mode.up s (g.1 % 2 = 0) r g.2 && g.2.inexact then g.1 + 1 else g.1
    saturated lo hi w (if s then -(big : Int) else big) g.2.inexact

/-- The neighbours in V8 of a magnitude num/den (num ≤ 128·den), in units of 2^−6: the greatest member not above it and the
least not below it. -/
def ds8Neighbours (num den : Nat) : Nat × Nat :=
  (ds8Grid.foldl (fun a u => if u * den ≤ num then u else a) 0,
   (ds8Grid.find? fun u => num ≤ u * den).getD 128)

/-- RoundTo for ds8 (08 R207, R212). -/
def roundDs8 (mode : Rm) (r : Nat) (v : Num) : Nat × Flags :=
  match v with
  | .nan => (0x77, { nx := true })
  | .inf s => (ds8Code s 128, { nx := true })
  | .fin s m e _ =>
    let num := m * 2 ^ (e + 6).toNat
    let den := 2 ^ (-(e + 6)).toNat
    if num > 128 * den then (ds8Code s 128, { of := true, nx := true })
    else
      let n := ds8Neighbours num den
      if n.1 * den = num then (ds8Code (s && n.1 ≠ 0) n.1, {})
      else
        let f : Frac := ⟨num - n.1 * den, (n.2 - n.1) * den, false⟩
        let even := ds8Terms n.1 < ds8Terms n.2 || ds8Terms n.1 = ds8Terms n.2
        let t := if mode.up s even r f then n.2 else n.1
        (ds8Code s t, { nx := true })

/-- RoundTo (08 R212) with the flags of R213; `r` is the draw's bits [63:40]. -/
def roundTo (f : Fmt) (mode : Rm) (r : Nat) (v : Num) : Nat × Flags :=
  match f.float, f.range with
  | some g, _ => g.round mode r v
  | none, some (lo, hi, u) => roundInt lo hi u (8 * f.bytes) mode r v
  | none, none => roundDs8 mode r v

/-! ## Random streams (08 R217) -/

/-- One round of mix64. -/
def mixRound (k1 : DWord) (x : DWord) (i : Nat) : DWord :=
  let y := (x ^^^ (x >>> 31)) * 0xD6E8FEB86659FD93#64
  y ^^^ k1.rotateLeft (13 * i + 7)

/-- The random stream function (08 R217). -/
def mix64 (k0 k1 c : DWord) : DWord :=
  let x := (List.range 4).foldl (mixRound k1) (c ^^^ k0)
  x ^^^ (x >>> 29)

/-! ## Special functions (08 R211, 10 R260): values with 256 bits below the point -/

/-- Bits below the binary point of the series. -/
def fixBits : Nat := 256

/-- One step of atanh or atan: the power and the sum so far, for the term with odd number 2k + 1. -/
def atanStep (z2 : Nat) (alt : Bool) (pz : Int × Int) (k : Nat) : Int × Int :=
  let t := pz.1 / (2 * k + 1)
  (pz.1 * z2 / 2 ^ fixBits, if alt && k % 2 = 1 then pz.2 - t else pz.2 + t)

/-- atanh (or atan, if `alt`) of z / 2^256 as a multiple of 2^−256. -/
def atanFix (alt : Bool) (z : Nat) : Int :=
  ((List.range 130).foldl (atanStep (z * z / 2 ^ fixBits) alt) ((z : Int), 0)).2

/-- ln 2 = 2 atanh(1/3). -/
def ln2Fix : Int := 2 * atanFix false (2 ^ fixBits / 3)

/-- π = 16 atan(1/5) − 4 atan(1/239). -/
def piFix : Int := 16 * atanFix true (2 ^ fixBits / 5) - 4 * atanFix true (2 ^ fixBits / 239)

/-- One step of a power series with terms tₖ = tₖ₋₁ · x / d(k). -/
def seriesStep (x : Int) (d : Nat → Nat) (ts : Int × Int) (k : Nat) : Int × Int :=
  let t := ts.1 * x / 2 ^ fixBits / (d (k + 1) : Nat)
  (t, ts.2 + t)

/-- e^x for x a multiple of 2^−256 in [0, 1). -/
def expFix (x : Int) : Int :=
  ((List.range 70).foldl (seriesStep x id) (2 ^ fixBits, 2 ^ fixBits)).2

/-- π · Σ (−y)^k / (2k + 1)! for y = (π t)², so that t times it is sin(π t). -/
def sinFactor (y : Int) : Int :=
  let s := ((List.range 50).foldl (seriesStep (-y) fun k => 2 * k * (2 * k + 1)) (2 ^ fixBits, 2 ^ fixBits)).2
  s * piFix / 2 ^ fixBits

/-- m · 2^e as a multiple of 2^−256, rounded down. -/
def toFix (m : Nat) (e : Int) : Nat := m * 2 ^ (e + fixBits).toNat / 2 ^ (-(e + fixBits)).toNat

/-- 2^a of a finite a (10 R260). Beyond any format's range the value is one that overflows or underflows. -/
def Num.exp2 (neg : Bool) (m : Nat) (e : Int) : Num :=
  if m = 0 then .fin false 1 0 false
  else if (bitLen m : Int) + e > 12 then (if neg then .fin false (2 ^ 200) (-5000) true else .fin false 1 5000 false)
  else
    let d := (-e).toNat
    let x : Int := scaled neg (m * 2 ^ e.toNat) 0 0
    let n := x / (2 ^ d : Nat)
    let f := x - n * (2 ^ d : Nat)
    if f = 0 then .fin false 1 n false
    else
      let y := toFix f.toNat (-(d : Int)) * ln2Fix / 2 ^ fixBits
      .fin false (expFix y).toNat (n - fixBits) true

/-- log2 of a positive finite value (10 R260). -/
def Num.log2 (m : Nat) (e : Int) : Num :=
  let k := bitLen m - 1
  let n : Int := e + k
  if m = 2 ^ k then .ofInt n 0
  else
    let x := m - 2 ^ k
    let z := x * 2 ^ fixBits / (m + 2 ^ k)
    let l := 2 * atanFix false z * 2 ^ fixBits / ln2Fix
    let v := n * (2 ^ fixBits : Nat) + l
    .fin (decide (v < 0)) v.natAbs (-(fixBits : Int)) true

/-- sin(π a) of a finite a that is no integer: |a| mod 2 is brought to t ≤ 1/2 (10 R260). -/
def Num.sinp (neg : Bool) (m : Nat) (e : Int) : Num :=
  let d := (-e).toNat
  let u := m * 2 ^ e.toNat
  let whole := u / 2 ^ d
  let f := u % 2 ^ d
  if f = 0 then .zero (neg && m ≠ 0)
  else
    let s := neg != (whole % 2 = 1)
    let t := if 2 * f ≤ 2 ^ d then f else 2 ^ d - f
    if 2 * t = 2 ^ d then .fin s 1 0 false
    else
      let y0 := toFix t (-(d : Int)) * piFix / 2 ^ fixBits
      let y := y0 * y0 / 2 ^ fixBits
      .fin s (t * (sinFactor y).toNat) (-(d : Int) - fixBits) true

end Sys2Proof.Machine
end

