-- ==== Sys2Proof/Machine/Memory.lean ====
section
/-! DEFINITION. Global memory as the machine keeps it: lines and byte masks, root values and versions at the homes, the
frames of a die's L2, views under a hypothesis, page tables and the fetch of code. -/

namespace Sys2Proof.Machine

/-! ## Lines -/

/-- A byte mask with every byte's bit repeated over its eight bits. -/
def expandMask (m : LineMask) : Line :=
  (List.range 128).foldl (fun x k => if m.getLsbD k then x ||| (0xFF#1024 <<< (8 * k)) else x) 0

/-- The bytes of `new` under the mask, the others of `old`. -/
def mergeLine (old new : Line) (m : LineMask) : Line :=
  let e := expandMask m
  (old &&& ~~~e) ||| (new &&& e)

/-- `n` bytes from byte `o` of a line as a mask. -/
def byteMask (o n : Nat) : LineMask := BitVec.ofNat 128 ((2 ^ n - 1) * 2 ^ o)

/-- `n` bytes from byte `o` of a line. -/
def lineBytes (x : Line) (o n : Nat) : Nat := x.toNat / 2 ^ (8 * o) % 2 ^ (8 * n)

/-- The key of a line under a tag of a partition in `l2`, `llc` and `versions` (03 R82). -/
def lineKey (part tag line : Nat) : Nat := (part * 4096 + tag) * 2 ^ 45 + line

/-- The number that keys name where an agent belongs to no partition: Chihoat, the page copier. -/
def noPart : Nat := 65

/-- The line part of a key. -/
def keyLine (k : Nat) : Nat := k % 2 ^ 45

/-- The tag part of a key. -/
def keyTag (k : Nat) : Nat := k / 2 ^ 45 % 4096

/-- The partition part of a key. -/
def keyPart (k : Nat) : Nat := k / 2 ^ 57

/-- The home stack of a physical address (03 R77). -/
def homeStack (pa : Nat) : Nat :=
  let b := BitVec.ofNat 52 pa
  (b.extractLsb' 10 4 ^^^ b.extractLsb' 14 4 ^^^ b.extractLsb' 18 4 ^^^ b.extractLsb' 22 4 ^^^
    b.extractLsb' 26 4 ^^^ b.extractLsb' 30 4 ^^^ b.extractLsb' 34 4 ^^^ (b.extractLsb' 38 2).setWidth 4).toNat

/-- The home cache die of a line (03 R77). -/
def homeDie (line : Nat) : Nat := homeStack (line * 128) / 2

/-- The address within its stack of a physical address (03 R77). -/
def stackAddr (pa : Nat) : Nat := pa / 2 ^ 14 % 2 ^ 26 * 2 ^ 10 + pa % 2 ^ 10

/-- The set of a line in its LLC slice: bits [35:7] of its stack address folded to 20 (03 R78). -/
def llcSet (line : Nat) : Nat :=
  let x := stackAddr (line * 128) / 128
  x % 2 ^ 20 ^^^ x / 2 ^ 20

/-- The set of a line in its L2 slice (03 R78). -/
def l2Set (line : Nat) : Nat := line / 32 % 8192

/-- The L2 slice of a line (03 R78). -/
def l2Slice (line : Nat) : Nat :=
  let b := BitVec.ofNat 45 line
  (b.extractLsb' 0 5 ^^^ b.extractLsb' 5 5 ^^^ b.extractLsb' 10 5 ^^^ b.extractLsb' 15 5 ^^^ b.extractLsb' 20 5 ^^^
    b.extractLsb' 25 5 ^^^ b.extractLsb' 30 5 ^^^ b.extractLsb' 35 5 ^^^ b.extractLsb' 40 5).toNat

/-! ## Hypotheses (05) -/

/-- A FREE entry (05 R136). -/
def HypEntry.free : HypEntry :=
  { state := 0, depth := 0, parent := 0, nchild := 0, refcnt := 0, remap := none, due := [] }

/-- The root's entry at partition reset (05 R136). -/
def HypEntry.root : HypEntry := { HypEntry.free with state := 1 }

/-- The entry of an id (05 R136). -/
def Part.entry (p : Part) (id : Nat) : HypEntry := p.hyp.get HypEntry.free id

/-- Changes the entry of an id. -/
def Part.modEntry (p : Part) (id : Nat) (f : HypEntry → HypEntry) : Part :=
  { p with hyp := p.hyp.set HypEntry.free id (f (p.entry id)) }

/-- LIVE or CONFIRMING (05 R137). -/
def HypEntry.live (e : HypEntry) : Bool := e.state = 1 || e.state = 2

/-- The path from an id to the root, the id first (05 R138, R143). -/
def Part.pathFrom (p : Part) : (fuel id : Nat) → List Nat
  | 0, id => [id]
  | n + 1, id => if id = 0 then [0] else id :: Part.pathFrom p n (p.entry id).parent.toNat

/-- The path of a view; the deepest node has depth 15 (05 R135). -/
def Part.path (p : Part) (id : Nat) : List Nat := p.pathFrom 15 id

/-- Whether view `g` includes writes under tag `t` (05 R143). -/
def Part.sees (p : Part) (g t : Nat) : Bool := (p.path g).contains t

/-- The id whose view a lane with this HYP has: a CONFIRMED id is followed (05 R139, R149). -/
def Part.follow (p : Part) (id : Nat) : Nat := ((p.entry id).remap.map BitVec.toNat).getD id

/-- Whether the live map's bit of an id is set after its remap (05 R149). -/
def Part.isLive (p : Part) (id : Nat) : Bool := id = 0 || (p.entry (p.follow id)).live || p.follow id = 0

/-- Whether a resolved id becomes FREE: every slice has reported, no lane names it, and no CONFIRMED id remaps to it (05 R137). -/
def Part.canFree (p : Part) (ke : Nat × HypEntry) : Bool :=
  (ke.2.state = 3 || ke.2.state = 4) && ke.2.due.isEmpty && ke.2.refcnt = 0 &&
    !(p.hyp.any fun j => j.1 ≠ ke.1 && (p.entry j.1).state = 3 && (p.entry j.1).remap = some (BitVec.ofNat 12 ke.1))

/-- Ids become FREE; freeing one may let another become so (05 R137). What an id was merged into stays in the remap tables, for what is
still under way under it (05 R149). -/
def Part.freeIds (p : Part) : Part :=
  (List.range p.hyp.length).foldl (fun p _ =>
    (p.hyp.filter fun ke => p.canFree (ke.1, p.entry ke.1)).foldl (fun q ke => q.modEntry ke.1 fun e => { HypEntry.free with remap := e.remap }) p) p

/-! ## Homes -/

/-- The root value of a line at its home. -/
def State.homeLine (s : State) (line : Nat) : Line := BitVec.ofNat 1024 (s.hbm.read 128 (128 * line))

/-- Writes bytes of a line's root value at its home; writing all 128 bytes clears poison (03 R99). -/
def State.homeWrite (s : State) (line : Nat) (x : LineBytes) : State :=
  { s with
    hbm := s.hbm.writeMasked 128 (128 * line) x.data.toNat x.mask.toNat
    hbmPsn := if x.mask = BitVec.allOnes 128 then s.hbmPsn.erase line else s.hbmPsn }

/-- The version of a line under a tag at its home: its written bytes (05 R145). -/
def State.version (s : State) (part tag line : Nat) : LineBytes :=
  match s.versions.get none (lineKey part tag line) with
  | none => ⟨0, 0⟩
  | some v => v.bytes

/-- Writes bytes of a version that its home's slice holds (05 R140, R145). -/
def State.versionWrite (s : State) (part tag line : Nat) (x : LineBytes) (psn : Bool := false) : State :=
  let v := s.version part tag line
  { s with
    versions := s.versions.set none (lineKey part tag line)
      (some ⟨⟨v.mask ||| x.mask, mergeLine v.data x.data x.mask⟩,
        psn || ((s.versions.get none (lineKey part tag line)).map (·.psn)).getD false && x.mask ≠ BitVec.allOnes 128, none⟩) }

/-- The home's tag entry of a line (03 R81). -/
def State.llcTag (s : State) (part tag line : Nat) : LlcTag :=
  (s.llc.get none (lineKey part tag line)).getD ⟨0, 15, 0, false, 0⟩

/-- Changes the tag entry of a line that the LLC holds. -/
def State.modTag (s : State) (part tag line : Nat) (f : LlcTag → LlcTag) : State :=
  { s with llc := s.llc.set none (lineKey part tag line) ((s.llc.get none (lineKey part tag line)).map f) }

/-- Records a die in SHARERS of a line that the LLC holds under a tag (03 R81). -/
def State.share (s : State) (part tag line die : Nat) : State :=
  s.modTag part tag line fun t => { t with sharers := t.sharers ||| (1#12 <<< die) }

/-- Whether a line's root bytes are poisoned, in the LLC or in HBM (03 R99). -/
def State.rootPoisoned (s : State) (line : Nat) : Bool := s.hbmPsn.contains line

/-- Whether the bytes that a view takes from the homes are poisoned (03 R99, 05 R143). -/
def State.homePoisoned (s : State) (part line : Nat) (path : List Nat) : Bool :=
  path.any fun t => if t = 0 then s.rootPoisoned line else ((s.versions.get none (lineKey part t line)).map (·.psn)).getD false

/-! ## Frames of a die's L2 (03 R79, R80) -/

/-- An empty frame. -/
def Frame.empty : Frame := { state := 0, pri := false, psn := false, first := false, way := 0, vmask := 0, dmask := 0, data := 0 }

/-- The frame of a line under a tag in a die; an absent one is in state I. -/
def Die.frame (d : Die) (part tag line : Nat) : Frame := (d.l2.get none (lineKey part tag line)).getD Frame.empty

/-- Writes a frame; one that holds no bytes and no exclusivity is freed. -/
def Die.setFrame (d : Die) (part tag line : Nat) (f : Frame) : Die :=
  { d with l2 := d.l2.set none (lineKey part tag line) (if f.vmask = 0 ∧ f.dmask = 0 ∧ f.state ≠ 3 then none else some f) }

/-- The state a root or speculative frame has by its masks (03 R80): exclusivity is kept. -/
def frameState (tag : Nat) (f : Frame) : BitVec 3 :=
  if tag ≠ 0 then 5
  else if f.state = 3 ∨ f.state = 4 then (if f.dmask = 0 then 3 else 4)
  else if f.vmask = 0 ∧ f.dmask = 0 then 0
  else if f.dmask = 0 then 1 else 2

/-- Drops bytes from VMASK, except the frame's own DMASK bytes (03 R85). -/
def Frame.dropBytes (f : Frame) (m : LineMask) : Frame := { f with vmask := f.vmask &&& (~~~m ||| f.dmask) }

/-- A frame of the table after a write under tag `t` of partition `part` to bytes of `line`: a frame of the line whose
tag's view includes `t`, other than `t`'s own, drops them (05 R145, 03 R85). -/
def dropView (s : State) (part tag line : Nat) (m : LineMask) (own : Bool) (kf : Nat × Option Frame) : Nat × Option Frame :=
  let k := kf.1
  if keyLine k = line ∧ (own = true ∨ keyTag k ≠ tag ∨ keyPart k ≠ part) ∧
      (tag = 0 ∨ (keyPart k = part ∧ ((s.part? part).map fun p => p.sees (keyTag k) tag) = some true)) then
    (k, kf.2.map fun f => f.dropBytes m)
  else kf

/-- Drops the written bytes from the frames of a die whose views include the write; `own` also from the frame of the
tag itself (03 R85, R87, 05 R145). -/
def State.invalidate (s : State) (die part tag line : Nat) (m : LineMask) (own : Bool) : State :=
  s.modDie die fun d =>
    { d with l2 := (d.l2.map (dropView s part tag line m own)).filter fun kf =>
        match kf.2 with
        | none => false
        | some f => !(f.vmask = 0 && f.dmask = 0 && f.state ≠ 3) }

/-- Bytes enter the slice order of a die: they join a write of the same frame that may be sent with them, or follow the last (03 R84,
R85). -/
def Die.emit (d : Die) (key : Nat) (x : LineBytes) (psn : Bool) : Die :=
  let mine := fun o : OutWrite => o.key = key && o.sent.isNone && o.epoch = d.epoch
  let join := fun o : OutWrite =>
    if mine o then { o with bytes := ⟨o.bytes.mask ||| x.mask, mergeLine o.bytes.data x.data x.mask⟩, psn := o.psn || psn } else o
  if d.out.any mine then { d with out := d.out.map join }
  else { d with out := d.out ++ [⟨key, x, psn, d.nextOut, d.epoch, none⟩], nextOut := d.nextOut + 1 }

/-- Whether a read of bytes of a line takes an unsent write of the batch that is still open: a later write of the die may depend on it,
so it must follow it (04 R112, R117). -/
def Die.readsOpen (d : Die) (line : Nat) (m : LineMask) : Bool :=
  d.out.any fun o => o.sent.isNone && o.epoch = d.epoch && keyLine o.key = line && o.bytes.mask &&& m ≠ 0

/-- The open batch is closed: what the die writes from now on is applied after what it has written (04 R117). -/
def Die.closeBatch (d : Die) : Die := if d.out.any fun o => o.epoch = d.epoch then { d with epoch := d.epoch + 1 } else d

/-- A read of bytes of a line on a die, with what it means for the order of the die's later writes (04 R117). -/
def State.noteRead (s : State) (die line : Nat) (m : LineMask) : State :=
  s.modDie die fun d => if d.readsOpen line m then { d with epoch := d.epoch + 1 } else d

/-- An acquire of an agent of a die: what the die writes afterwards is applied after what it wrote before (04 R115, R117). -/
def State.closeBatch (s : State) (die : Nat) : State := s.modDie die Die.closeBatch

/-- A store is performed in the slice of its die: VMASK and DMASK are set for the written bytes without a fill, and other frames of the
line whose views include the write drop them (03 R84, 05 R145). A write of all 128 bytes clears poison (03 R99). -/
def State.sliceWrite (s : State) (die part tag line : Nat) (x : LineBytes) (psn : Bool) : State :=
  let s1 := s.invalidate die part tag line x.mask false
  s1.modDie die fun d =>
    let f := d.frame part tag line
    let bad := psn || f.psn && x.mask ≠ BitVec.allOnes 128
    let g : Frame :=
      { f with vmask := f.vmask ||| x.mask, dmask := f.dmask ||| x.mask, data := mergeLine f.data x.data x.mask, psn := bad }
    (d.setFrame part tag line { g with state := frameState tag g }).emit (lineKey part tag line) x bad

/-- One byte's value in the view of `path` on a die: the nearest node that has written it, from the die's own bytes not
yet applied at the home, else from the home (05 R143, R145). Answers the merged line. -/
def State.viewOver (s : State) (die part line : Nat) : List Nat → Line
  | [] => s.homeLine line
  | t :: rest =>
    let base := State.viewOver s die part line rest
    let v := if t = 0 then ⟨0, 0⟩ else s.version part t line
    let f := (s.die die).frame part t line
    mergeLine (mergeLine base v.data v.mask) f.data f.dmask

/-- The nodes of a view's path; the root alone for a partition that does not exist. -/
def State.pathOf (s : State) (part tag : Nat) : List Nat :=
  match s.part? part with
  | none => [0]
  | some p => p.path tag

/-- The whole line in a view on a die (05 R143). -/
def State.viewLine (s : State) (die part tag line : Nat) : Line := s.viewOver die part line (s.pathOf part tag)

/-- The home fills a frame for the bytes of `need` that it does not hold, from the view, and the die is recorded in SHARERS of the root
line and of every version on the path (03 R80, R81, 05 R145). -/
def State.fillFrame (s : State) (die part tag line : Nat) (need : LineMask) : State :=
  let path := s.pathOf part tag
  let s1 := path.foldl (fun s t => s.share part t line die) s
  s1.modDie die fun d =>
    let f := d.frame part tag line
    let m := need &&& ~~~(f.vmask ||| f.dmask)
    let g : Frame := { f with vmask := f.vmask ||| m, data := mergeLine f.data (s.viewLine die part tag line) m,
                              psn := f.psn || s.homePoisoned part line path }
    d.setFrame part tag line { g with state := frameState tag g }

/-- Whether a die's frame of a line is poisoned (03 R99). -/
def State.linePoisoned (s : State) (die part tag line : Nat) : Bool := ((s.die die).frame part tag line).psn

/-- The tag under which a write under `t` counts now (05 R149). -/
def State.effectiveTag (s : State) (part t : Nat) : Nat := ((s.part? part).map fun p => p.follow t).getD t

/-- Whether a tag is live, so that writes under it have an effect (05 R149). -/
def State.tagLive (s : State) (part t : Nat) : Bool := t = 0 || ((s.part? part).map fun p => p.isLive t).getD false

/-- Whether a line lies in an ownership range of a command of the die under this tag: EO of its frame (03 R90, R92, 05
R141). -/
def State.owned (s : State) (die part tag line : Nat) : Bool :=
  (s.die die).owned.any fun o => o.part = part && s.effectiveTag part o.tag = tag && o.lines.contains line

/-- Entry `e` of a vector clock (04 R116). -/
def clockAt (c : List Nat) (e : Nat) : Nat := c.getD e 0

/-- A vector clock with entry `e` set. -/
def clockSet (c : List Nat) (e n : Nat) : List Nat :=
  (List.range 12).map fun k => if k = e then n else clockAt c k

/-- Each entry raised to the other clock's (04 R116). -/
def clockMax (a b : List Nat) : List Nat := (List.range 12).map fun k => max (clockAt a k) (clockAt b k)

/-- Every entry at most the other clock's. -/
def clockLe (a b : List Nat) : Bool := (List.range 12).all fun k => clockAt a k ≤ clockAt b k

/-! ## Physical memory (06 R161) -/

/-- Where a physical line lives. -/
inductive Place where
  | hbm
  | host
  | remote
  deriving DecidableEq, Repr

/-- The memory of a physical address (06 R161). -/
def placeOf (pa : Nat) : Place :=
  if pa / 2 ^ 40 = 0 then .hbm else if pa / 2 ^ 40 = 0xFFF then .remote else .host

/-- The address of a forwarded byte in `hostMem` or `remote`. -/
def forwardedAddr (pa owner : Nat) : Nat :=
  match placeOf pa with
  | .remote => 2 ^ 40 * owner + pa % 2 ^ 40
  | _ => pa - 2 ^ 40

/-- Reads bytes of a forwarded line at its owner (06 R169). -/
def State.forwardedRead (s : State) (pa owner n : Nat) : Nat :=
  match placeOf pa with
  | .remote => s.remote.read n (forwardedAddr pa owner)
  | _ => s.hostMem.read n (forwardedAddr pa owner)

/-- Writes bytes of a forwarded line at its owner (06 R169). -/
def State.forwardedWrite (s : State) (pa owner n x mask : Nat) : State :=
  match placeOf pa with
  | .remote => { s with remote := s.remote.writeMasked n (forwardedAddr pa owner) x mask }
  | _ => { s with hostMem := s.hostMem.writeMasked n (forwardedAddr pa owner) x mask }

/-- The owner's line of a forwarded address, as `farPsn` names it. -/
def farLine (pa owner : Nat) : Bool × Nat := (decide (placeOf pa = .remote), forwardedAddr pa owner / 128)

/-- Whether a forwarded line is poisoned at its owner (16 R424). -/
def State.farPoisoned (s : State) (pa owner : Nat) : Bool := s.modl.farPsn.contains (farLine pa owner)

/-- A line's poison at its owner after a write: set by poisoned data, cleared by a write of all 128 bytes (03 R99, 16 R424). -/
def State.setFar (s : State) (far : Bool × Nat) (mask : LineMask) (bad : Bool) : State :=
  if bad then { s with modl := { s.modl with farPsn := if s.modl.farPsn.contains far then s.modl.farPsn else s.modl.farPsn ++ [far] } }
  else if mask = BitVec.allOnes 128 then { s with modl := { s.modl with farPsn := s.modl.farPsn.filter fun l => l ≠ far } }
  else s

/-- Whether a device address lies in a committed window of the host (16 R423): base, size and device base in units of 256 MiB. -/
def State.inWindow (s : State) (pa : Nat) : Bool :=
  s.modl.hdm.any fun d => d.2.2.2.2 && decide (d.2.2.2.1 * 2 ^ 28 ≤ pa) && decide (pa < (d.2.2.2.1 + d.2.2.1) * 2 ^ 28)

/-- Whether a frame of local HBM is in host bias: its bit of the bias table, bit f of the table being bit f mod 8 of its byte f / 8 (log
entry 78). Bits of frames outside the windows are ignored (06 R176). -/
def State.hostBias (s : State) (pa : Nat) : Bool :=
  placeOf pa = .hbm && s.inWindow pa && (s.hbm.byte (s.modl.biasBase + pa / 65536 / 8)).getLsbD (pa / 65536 % 8)

/-- Whether a frame of local HBM is being flipped (06 R177). -/
def State.isFlipping (s : State) (pa : Nat) : Bool := s.modl.flipping.any fun f => f.1 = pa / 65536

/-! ## Forwarding (06 R169, 16 R425, R427, R429) -/

/-- Whether a feature has been enabled (16 R425). -/
def State.feature (s : State) (n : Nat) : Bool := s.modl.featDone && s.modl.featEn.getLsbD n && s.modl.featCap.getLsbD n

/-- Whether a flow is on a broken route: its entry is not valid, broken, or names no port that is up (16 R427, R429). -/
def State.routeBroken (s : State) (dest cls : Nat) : Bool :=
  let e := s.modl.routes.get 0 (4 * dest + cls)
  let p := (e.extractLsb' 0 6).toNat
  !s.feature 3 || !e.getLsbD 7 || e.getLsbD 6 || decide (36 ≤ p) || !(s.modl.ports.get 0 p).getLsbD 0

/-- How a line outside local HBM is reached: it can be forwarded, the access is refused (16 R425), or its route is broken (16 R429). -/
inductive Forward where
  | open_
  | refused
  | broken
  deriving DecidableEq, Repr

/-- Whether an access to a physical address can be forwarded to its owner (16 R425, R429). -/
def State.forwarding (s : State) (pa owner : Nat) : Forward :=
  match placeOf pa with
  | .hbm => .open_
  | .host => if s.feature 0 then .open_ else .refused
  | .remote => if !s.feature 3 then .refused else if s.routeBroken owner 0 then .broken else .open_

/-- A store that a broken route discards is counted (16 R429). -/
def State.loseStore (s : State) : State := { s with modl := { s.modl with lostStores := s.modl.lostStores + 1 } }

/-! ## Page tables (06 R159 to R163) -/

/-- What a walk finds: a leaf with its page size as a power of two and the table lines read, or a fault's CAUSE. -/
inductive Walk where
  | leaf (pte : DWord) (bits : Nat) (tables : List Nat)
  | fault (cause : Nat)
  deriving DecidableEq, Repr

/-- Bit `n` of an entry. -/
def pteBit (e : DWord) (n : Nat) : Bool := e.getLsbD n

/-- ADDR of an entry, in place (06 R160). -/
def pteAddr (e : DWord) : Nat := (e.extractLsb' 13 39).toNat * 2 ^ 13

/-- OWNER of an entry (06 R160). -/
def pteOwner (e : DWord) : Nat := (e.extractLsb' 1 12).toNat

/-- Whether a valid entry is malformed at a level (06 R160). -/
def pteMalformed (moduleId : Option (BitVec 12)) (e : DWord) (lvl : Nat) : Bool :=
  let leaf := pteBit e 62
  (e.extractLsb' 52 5 ≠ 0 || pteBit e 0)
    || (!leaf && (e.extractLsb' 57 5 ≠ 0 || pteAddr e / 2 ^ 40 ≠ 0))
    || (leaf && lvl = 0) || (!leaf && lvl = 3)
    || (leaf && pteAddr e % 2 ^ (46 - 10 * lvl) ≠ 0)
    || (leaf && pteBit e 59 && !(pteBit e 61 && pteBit e 60))
    || (pteOwner e ≠ 0 && pteAddr e / 2 ^ 40 ≠ 0xFFF)
    || (pteAddr e / 2 ^ 40 = 0xFFF && moduleId.map BitVec.toNat = some (pteOwner e))

/-- The walk from level `lvl` with `n` levels left (06 R162). -/
def State.walkFrom (s : State) (va : Nat) : (n : Nat) → (table : Nat) → (read : List Nat) → Walk
  | 0, _, _ => .fault 3
  | n + 1, table, read =>
    let lvl := 3 - n
    let at_ := table + 8 * (va / 2 ^ (46 - 10 * lvl) % 1024)
    let e := BitVec.ofNat 64 (s.hbm.read 8 at_)
    let read' := read ++ [at_ / 128]
    if !pteBit e 63 then .fault 2
    else if pteMalformed s.modl.moduleId e lvl then .fault 3
    else if pteBit e 62 then .leaf e (46 - 10 * lvl) read'
    else State.walkFrom s va n (pteAddr e) read'

/-- The walk of a partition's table at the homes, in the root view (06 R162, R163). -/
def State.walk (s : State) (part va : Nat) : Walk :=
  match s.part? part with
  | none => .fault 2
  | some p => s.walkFrom va 4 p.root []

/-- The deepest pointer of a die's walk cache on the way to an address (06 R165). -/
def Die.pointerFor (d : Die) (part va : Nat) : Option Pointer :=
  [2, 1, 0].findSome? fun lvl => d.pointers.find? fun p => p.part = part && p.lvl = lvl && p.index = va / 2 ^ (46 - 10 * lvl)

/-- Where a walk on a die starts: the levels left, the table, and the table lines behind the pointers that it takes from the walk cache
(06 R165, R167). -/
def State.walkStart (s : State) (die part va : Nat) : Option (Nat × Nat × List Nat) :=
  match (s.die die).pointerFor part va with
  | some p => some (3 - p.lvl, p.table, p.lines)
  | none => (s.part? part).map fun p => (4, p.root, [])

/-- The walk of an address on a die, through the pointers in its walk cache (06 R162, R165). -/
def State.dieWalk (s : State) (die part va : Nat) : Walk :=
  match s.walkStart die part va with
  | none => .fault 2
  | some (n, table, lines) => s.walkFrom va n table lines

/-- The pointers that a walk reads (06 R165). -/
def State.pointersFrom (s : State) (part va : Nat) : (n : Nat) → (table : Nat) → (read : List Nat) → List Pointer
  | 0, _, _ => []
  | n + 1, table, read =>
    let lvl := 3 - n
    let at_ := table + 8 * (va / 2 ^ (46 - 10 * lvl) % 1024)
    let e := BitVec.ofNat 64 (s.hbm.read 8 at_)
    let read' := read ++ [at_ / 128]
    if pteBit e 63 && !pteMalformed s.modl.moduleId e lvl && !pteBit e 62 then
      ⟨part, lvl, va / 2 ^ (46 - 10 * lvl), pteAddr e, read'⟩ :: State.pointersFrom s part va n (pteAddr e) read'
    else []

/-- The physical address of a virtual address under a leaf (06 R162). -/
def leafAddr (pte : DWord) (bits va : Nat) : Nat := pteAddr pte / 2 ^ bits * 2 ^ bits + va % 2 ^ bits

/-- Bytes of a partition's memory in the root view at the homes; none where a page is not readable. -/
def State.rootRead (s : State) (part n va : Nat) : Option Nat :=
  match s.walk part va with
  | .fault _ => none
  | .leaf e b _ =>
    let pa := leafAddr e b va
    if !pteBit e 61 then none
    else if placeOf pa = .hbm then some (s.hbm.read n pa)
    else if s.forwarding pa (pteOwner e) = .open_ then some (s.forwardedRead pa (pteOwner e) n)
    else none

/-- The leaf of a virtual address in the die's translation cache (06 R165). -/
def State.cachedLeaf (s : State) (die part va : Nat) : Option Leaf :=
  (s.die die).tcache.find? fun l => l.part = part && va / 2 ^ l.bits = l.base

/-! ## Code -/

/-- The word at a virtual address, read at the homes in the root view. -/
def State.codeWord (s : State) (part va : Nat) : Option Word := (s.rootRead part 4 va).map (BitVec.ofNat 32)

/-- Whether a word is a clause header: major 0 (09 R229). -/
def isHeader (w : Word) : Bool := w.extractLsb' 26 5 = 0

/-- The nearest header at or below a packet, at word 0 of a packet, down to where nothing can be read (09 R230). -/
def State.headerBelow (s : State) (part : Nat) : (fuel pkt : Nat) → Option Word
  | 0, _ => none
  | n + 1, pkt =>
    match s.codeWord part (12 * pkt) with
    | none => none
    | some w => if isHeader w then some w else if pkt = 0 then none else State.headerBelow s part n (pkt - 1)

/-- The header of the clause of the word at `pc`: the nearest header at or below it (09 R230). -/
def State.clauseHeader (s : State) (part pc : Nat) : Option Word := s.headerBelow part (pc / 12 + 1) (pc / 12)

end Sys2Proof.Machine
end

