-- ==== Sys2Proof/Machine/Operands.lean ====
section
/-! DEFINITION. Operand forms: the registers a word names (07 R195, 09 R238), the checks made at issue before any
operand is fetched (09 R242, R243, 07 R195, 01 R20), and the helpers through which every word reads its sources (10 R249). -/

namespace Sys2Proof.Machine

/-- The kinds of register a word can name (07 R194). -/
inductive RegKind where
  | v
  /-- The block of a v register, of which the word reads what its lanes name (11 R291). -/
  | block
  | s
  | p
  | q
  | z
  | key
  | ctr
  deriving DecidableEq, Repr

/-- One operand field: kind, first register, number of registers, alignment its first register needs, whether written. -/
structure Opnd where
  kind : RegKind
  n : Nat
  k : Nat
  al : Nat
  wr : Bool
  deriving DecidableEq, Repr

/-- Which fret a word counts on (09 R232). -/
inductive FretClass where
  | none
  | a
  | b
  deriving DecidableEq, Repr

/-- Whether a word falls under R157 and how: not at all, lane by lane, or once per group (05 R157, 07 R189). -/
inductive OrphanClass where
  | free
  | lanes
  | once
  deriving DecidableEq, Repr

/-- What the issue unit must know of a word before it runs. `legal` holds the checks of the word's own description;
`place` its place field; `result` that it writes a register, predicate or q register (09 R234); `own` that it makes its
register checks itself (12 R325); `target` the byte offset of a branch (09 R239); `pin` that it forbids a flush (15 R412). -/
structure Use where
  c : BitVec 1
  ops : List Opnd
  legal : Bool := true
  place : Option (Nat × Nat) := none
  cls : FretClass := .none
  result : Bool := false
  orph : OrphanClass := .free
  once : Bool := false
  own : Bool := false
  target : Option Int := none
  pin : Bool := false
  deriving DecidableEq, Repr

/-- What the operands of a word depend on besides the word: whether its clause has a SETA fret (09 R234), which of the team's
queues hold 8 B elements (11 R306), whether the queue that a push names does, and whether MODE.FRM is rsk, so that float sums draw (08
R223). -/
structure UseCtx where
  ret : Bool
  wide : Nat → Bool
  pushWide : Nat → Nat → Nat → Bool
  rsk : Bool

/-- The context of a word taken by itself. -/
def UseCtx.plain : UseCtx := ⟨false, fun _ => false, fun _ _ _ => false, false⟩

/-! ## Operand fields -/

/-- A vector destination (07 R195). -/
def Opnd.vd (f : BitVec 7) : Opnd := ⟨.v, f.toNat, 1, 1, true⟩
/-- A vector source, or a broadcast source from 96 up (07 R195). -/
def Opnd.vs (f : BitVec 7) : Opnd := ⟨.v, f.toNat, 1, 1, false⟩
/-- A pair as destination (10 R249). -/
def Opnd.vd2 (f : BitVec 7) : Opnd := ⟨.v, f.toNat, 2, 2, true⟩
/-- A pair as source (10 R249). -/
def Opnd.vs2 (f : BitVec 7) : Opnd := ⟨.v, f.toNat, 2, 2, false⟩
/-- `k` registers from an aligned first one, read or written. -/
def Opnd.vk (f : BitVec 7) (k al : Nat) (wr : Bool) : Opnd := ⟨.v, f.toNat, k, al, wr⟩
/-- A uniform destination (07 R195). -/
def Opnd.ud (f : BitVec 7) : Opnd := ⟨.s, f.toNat, 1, 1, true⟩
/-- A uniform source or immediate (07 R195). -/
def Opnd.us (f : BitVec 7) : Opnd := ⟨.s, f.toNat, 1, 1, false⟩
/-- A uniform register named by a 6-bit field (09 R238). -/
def Opnd.us6 (f : BitVec 6) : Opnd := ⟨.s, f.toNat, 1, 1, false⟩
/-- A predicate written. -/
def Opnd.pd (f : BitVec 3) : Opnd := ⟨.p, f.toNat, 1, 1, true⟩
/-- A predicate read. -/
def Opnd.ps (f : BitVec 3) : Opnd := ⟨.p, f.toNat, 1, 1, false⟩
/-- A q register read. -/
def Opnd.qs (f : BitVec 4) : Opnd := ⟨.q, f.toNat, 1, 1, false⟩
/-- z registers from the first. -/
def Opnd.zr (f : BitVec 3) (k : Nat) (wr : Bool) : Opnd := ⟨.z, f.toNat, k, 1, wr⟩

/-- The registers an operand names, with their kind; broadcast sources and immediates as the s register they read. -/
def Opnd.names (o : Opnd) : List (RegKind × Nat) :=
  match o.kind with
  | .v => if o.n < 96 then (List.range o.k).map fun i => (.v, o.n + i) else [(.s, o.n - 96)]
  | .s => if o.n < 64 then (List.range o.k).map fun i => (.s, o.n + i) else []
  | k => (List.range o.k).map fun i => (k, o.n + i)

/-- The registers a word writes. -/
def Use.dests (u : Use) : List (RegKind × Nat) := (u.ops.filter (·.wr)).flatMap Opnd.names

/-- Every register a word names. -/
def Use.names (u : Use) : List (RegKind × Nat) := u.ops.flatMap Opnd.names

/-- A destination field in range: a vector field below 96, a uniform field below 64 (07 R195). -/
def Opnd.rangeOk (o : Opnd) : Bool :=
  match o.kind, o.wr with
  | .v, true => o.n < 96
  | .s, true => o.n < 64
  | _, _ => true

/-- Whether an operand passes the register-allotment check of 07 R195; `ext` says that the group holds its extended block. -/
def Opnd.allotted (ext : Bool) (o : Opnd) : Bool :=
  match o.kind with
  | .v | .block => o.n ≥ 96 || ((o.n < 32 || ext) && o.n % o.al = 0)
  | _ => true

/-- The checks of the word's own encoding that need no state (09 R242). -/
def Use.encodingOk (u : Use) : Bool :=
  u.legal && u.ops.all Opnd.rangeOk &&
    match u.place with
    | none => true
    | some (r, _) => r < 13

/-- The target of a branch at `pc` is a multiple of 12 (09 R239). -/
def Use.targetOk (u : Use) (pc : Nat) : Bool :=
  match u.target with
  | none => true
  | some o => (Int.ofNat pc + o) % 12 = 0

/-- CTR as a destination: what `sctr` names, and what a word of the XL pipe that draws is in conflict with (13 R381). -/
def Opnd.ctr : Opnd := ⟨.ctr, 0, 1, 1, true⟩
/-- KEY as a destination (13 R381). -/
def Opnd.key : Opnd := ⟨.key, 0, 1, 1, true⟩

/-- A word that draws when MODE.FRM is rsk (08 R223, 13 R381). -/
def useDraw (k : UseCtx) (u : Use) : Use := if k.rsk then { u with ops := u.ops ++ [.ctr] } else u

/-! ## What the words of one shape name (10 R249 to R267) -/

/-- One vector destination. -/
def useD (c : BitVec 1) (d : BitVec 7) : Use := { c := c, ops := [.vd d] }
/-- A vector destination and a source. -/
def useAd (c : BitVec 1) (d a : BitVec 7) : Use := { c := c, ops := [.vd d, .vs a] }
/-- A vector destination and two sources. -/
def useAbd (c : BitVec 1) (d a b : BitVec 7) : Use := { c := c, ops := [.vd d, .vs a, .vs b] }
/-- The same on pairs. -/
def useAbd2 (c : BitVec 1) (d a b : BitVec 7) : Use := { c := c, ops := [.vd2 d, .vs2 a, .vs2 b] }
/-- As `useAbd`, with p7 as a destination (10 R252). -/
def useCarry (c : BitVec 1) (d a b : BitVec 7) : Use := { c := c, ops := [.vd d, .vs a, .vs b, .pd 7] }
/-- A float word of type TY: pairs for f64 (10 R257). -/
def useT (c : BitVec 1) (t : BitVec 2) (d a b : BitVec 7) : Use := if t = 1 then useAbd2 c d a b else useAbd c d a b
/-- `fdiv`: no packed types (09 R241). -/
def useDiv (c : BitVec 1) (t : BitVec 2) (d a b : BitVec 7) : Use := { useT c t d a b with legal := t = 0 || t = 1 }
/-- A special function: accuracy modes 0 and 1 (10 R260). -/
def useSpecial (c : BitVec 1) (t : BitVec 2) (d a : BitVec 7) (m : BitVec 3) : Use :=
  { c := c, ops := if t = 1 then [.vd2 d, .vs2 a] else [.vd d, .vs a], legal := m = 0 || m = 1 }
/-- A format code held in a pair (10 R259). -/
def pairCode (f : BitVec 4) : Bool := f = 1 || f = 12 || f = 13
/-- `cvt`: format codes below 14, rounding codes below 6 (10 R259). -/
def useCvt (c : BitVec 1) (t : BitVec 2) (d a : BitVec 7) (f : BitVec 4) (m : BitVec 3) : Use :=
  { c := c
    ops := [if t = 1 || (t = 2 || t = 3) && pairCode f then .vd2 d else .vd d,
            if t = 3 || (t = 0 || t = 1) && pairCode f then .vs2 a else .vs a]
    legal := decide (f.toNat < 14) && decide (m.toNat < 6) }
/-- A compare; 64-bit operands for TY 1 (10 R261). The old predicate is read unless PC is 0. -/
def useCmp (c : BitVec 1) (p : BitVec 3) (t : BitVec 2) (a b : BitVec 7) (_k : BitVec 2) : Use :=
  { c := c, ops := if t = 1 then [.pd p, .vs2 a, .vs2 b] else [.pd p, .vs a, .vs b] }
/-- An integer compare: TY 0 or 1 (10 R261). -/
def useCmpInt (c : BitVec 1) (p : BitVec 3) (t : BitVec 2) (a b : BitVec 7) (k : BitVec 2) : Use :=
  { useCmp c p t a b k with legal := t = 0 || t = 1 }
/-- `sel`: N is 1 to 7; 0 is `mov` (10 R262). -/
def useSel (c : BitVec 1) (n : BitVec 3) (d a b : BitVec 7) : Use :=
  { c := c, ops := [.vd d, .vs a, .vs b, .ps n], legal := n ≠ 0 }
/-- `gidx`: k below 7 (10 R263). -/
def useGidx (c : BitVec 1) (d k : BitVec 7) : Use := { c := c, ops := [.vd d], legal := k.toNat < 7 }
/-- A predicate destination and predicate sources (10 R262). -/
def useP (c : BitVec 1) (d : BitVec 3) (ps : List (BitVec 3)) : Use := { c := c, ops := .pd d :: ps.map .ps }
/-- `vote` (10 R265). -/
def useVote (c : BitVec 1) (d : BitVec 7) (a : BitVec 3) : Use := { c := c, ops := [.ud d, .ps a] }
/-- `smovv`: A names a v register (10 R265). -/
def useSmovv (c : BitVec 1) (d a b : BitVec 7) : Use :=
  { c := c, ops := [.ud d, .vs a, .us b], legal := a.toNat < 96 }
/-- `movp.set` names p1 to p7 (10 R264). -/
def useMovpSet (c : BitVec 1) (a : BitVec 7) : Use := { c := c, ops := [.vs a, ⟨.p, 1, 7, 1, true⟩] }
/-- One uniform destination. -/
def useUd (c : BitVec 1) (d : BitVec 7) : Use := { c := c, ops := [.ud d] }
/-- A uniform destination and a source. -/
def useUad (c : BitVec 1) (d a : BitVec 7) : Use := { c := c, ops := [.ud d, .us a] }
/-- A uniform destination and two sources. -/
def useUabd (c : BitVec 1) (d a b : BitVec 7) : Use := { c := c, ops := [.ud d, .us a, .us b] }

/-! ## Tile words (12 R317) -/

/-- A tile word's fields; NR and NC are counts. -/
structure Tile where
  row0 : Nat
  col0 : Nat
  nr : Nat
  nc : Nat
  arowb : Nat
  ak : Nat
  bfmt : Nat
  cell : Nat
  deriving DecidableEq, Repr

/-- Decodes a tile word. -/
def tileOf (w : DWord) : Tile :=
  { row0 := (w.extractLsb' 0 9).toNat, col0 := (w.extractLsb' 9 9).toNat, nr := (w.extractLsb' 18 9).toNat + 1,
    nc := (w.extractLsb' 27 9).toNat + 1, arowb := (w.extractLsb' 36 6).toNat, ak := (w.extractLsb' 42 8).toNat,
    bfmt := (w.extractLsb' 50 4).toNat, cell := (w.extractLsb' 54 2).toNat }

/-- Columns of one cell (12 R317). -/
def Tile.w (t : Tile) : Nat := if t.cell = 0 then 1 else 2

/-- The columns of a tile row. -/
def Tile.cols (t : Tile) : Nat := t.w * t.nc

/-- The rows of a tile. -/
def Tile.rows (t : Tile) : List Nat := (List.range t.nr).map (t.row0 + ·)

/-! ## Reading sources (10 R249) -/

/-- Src32(F, L): a vector register's lane, or the low half of an s register. -/
def src32 (t : Team) (x : Group) (g : Nat) (f : BitVec 7) (l : Nat) : Word :=
  if f.toNat < 96 then t.vget g f.toNat l else (x.sget (f.toNat - 96)).setWidth 32

/-- Src64(F, L): a pair with its low word in the first register, or an s register whole. -/
def src64 (t : Team) (x : Group) (g : Nat) (f : BitVec 7) (l : Nat) : DWord :=
  if f.toNat < 96 then t.vget g (f.toNat + 1) l ++ t.vget g f.toNat l else x.sget (f.toNat - 96)

/-- USrc(F): an s register, or an immediate from 64 up. -/
def usrc (x : Group) (f : BitVec 7) : DWord :=
  if f.toNat < 64 then x.sget f.toNat else BitVec.ofNat 64 (f.toNat - 64)

/-- Half(x, h). -/
def half (x : Word) (h : Nat) : BitVec 16 := if h = 0 then x.extractLsb' 0 16 else x.extractLsb' 16 16

end Sys2Proof.Machine
end

