-- ==== Sys2Proof/Machine/Ops.lean ====
section
/-! DEFINITION. The shared operations of every word: the environment a word issues in, the frontier (07 R187 to R190),
frets, ends of groups and teams, taking a trap and returning from one (15 R401 to R405), and `perform`, which issues one
word in the order of 09 R243. -/

namespace Sys2Proof.Machine

/-! ## Core memories -/

/-- Bytes of a core's scratchpad (02 R42). -/
def State.scratchRead (s : State) (c n off : Nat) : Nat := (s.core c).scratch.read n off

/-- The granules of 8 B that `n` bytes from `off` cover wholly (02 R73). -/
def wholeGranules (off n : Nat) : List Nat :=
  ((List.range (n / 8 + 1)).map fun i => (off + 7) / 8 + i).filter fun k => off ≤ 8 * k && 8 * k + 8 ≤ off + n

/-- The granules that `n` bytes from `off` touch. -/
def touchedGranules (off n : Nat) : List Nat :=
  (List.range ((off + n + 7) / 8 - off / 8)).map fun i => off / 8 + i

/-- Writes bytes of a core's scratchpad; a granule written whole is no longer poisoned (02 R73). -/
def State.scratchWrite (s : State) (c n off x : Nat) : State :=
  s.modCore c fun k =>
    { k with scratch := k.scratch.write n off x
             scratchPsn := if k.scratchPsn.isEmpty then [] else k.scratchPsn.filter fun p => !(wholeGranules off n).contains p }

/-- Whether bytes of a core's scratchpad are poisoned. -/
def State.scratchPoisoned (s : State) (c n off : Nat) : Bool :=
  (touchedGranules off n).any fun p => (s.core c).scratchPsn.contains p

/-! ## Lanes and hypotheses (05 R138, R139) -/

/-- HYP of a lane. -/
def Group.hypOf (x : Group) (l : Nat) : Nat := (x.hyp.get 0 l).toNat

/-- A lane stops or starts naming an id; the root keeps no count (05 R136, R138). -/
def State.countRef (s : State) (part id : Nat) (up : Bool) : State :=
  if id = 0 then s
  else s.modPart part fun p =>
    if up then p.modEntry id fun e => { e with refcnt := e.refcnt + 1 }
    else (p.modEntry id fun e => { e with refcnt := e.refcnt - 1 }).freeIds

/-- Changes HYP of one lane, with both counts (05 R138): the new id is counted first, so that it stays while the old one is freed (05
R137). -/
def State.setHyp (s : State) (r : GroupRef) (part l id : Nat) : State :=
  match s.group? r with
  | none => s
  | some x =>
    ((s.countRef part id true).countRef part (x.hypOf l) false).modGroup r fun x =>
      { x with hyp := x.hyp.set 0 l (BitVec.ofNat 12 id) }

/-- The lanes of `m` whose HYP names a CONFIRMED id are given the id it was merged into (05 R139). -/
def State.followLanes (s : State) (r : GroupRef) (part : Nat) (m : Lanes) : State :=
  (lanesOf m).foldl (init := s) fun s l =>
    match s.group? r, s.part? part with
    | some x, some p => if p.follow (x.hypOf l) = x.hypOf l then s else s.setHyp r part l (p.follow (x.hypOf l))
    | _, _ => s

/-- The lanes of `m` that are orphans: their HYP names a REFUTED id (05 R156). -/
def State.orphans (s : State) (r : GroupRef) (part : Nat) (m : Lanes) : Lanes :=
  match s.group? r, s.part? part with
  | some x, some p => maskOf fun l => m.getLsbD l && (p.entry (p.follow (x.hypOf l))).state = 4
  | _, _ => 0

/-! ## The environment of a word -/

/-- The execution mask of an entry: MASK without GMASK, and of a resumed word the lanes that remain (07 R189, 15 R404). -/
def FEntry.execMask (e : FEntry) : Lanes :=
  let m := e.mask &&& ~~~e.gmask
  match e.redo with
  | none => m
  | some r => m &&& r

/-- What a word sees when it issues: its group, the team and group as they are read, the current entry, the execution
mask (07 R189) and the word's address. -/
structure Env where
  r : GroupRef
  team : Team
  grp : Group
  e : FEntry
  em : Lanes
  pc : Nat

/-- The partition of the issuing team. -/
def Env.part (v : Env) : Nat := v.team.bind.part

/-- The environment restricted to the lanes below `l` (15 R406). -/
def Env.below (v : Env) (l : Nat) : Env := { v with em := v.em &&& lanesBelow l }

/-- The active lanes, ascending. -/
def Env.lanes (v : Env) : List Nat := lanesOf v.em

/-- Every lane of the execution mask, also while only those below a trap are performed (15 R407). -/
def Env.all (v : Env) : Lanes := v.e.execMask

/-- The entry of an environment as the machine stands: a word may have marked it (11 R293). -/
def Env.entry (v : Env) (s : State) : FEntry :=
  ((s.group? v.r).bind fun x => x.frontier.find? fun f => f.pc = v.e.pc).getD v.e

/-- Src32 of a lane. -/
def Env.src (v : Env) (f : BitVec 7) (l : Nat) : Word := src32 v.team v.grp v.r.grp f l

/-- Src64 of a lane. -/
def Env.src2 (v : Env) (f : BitVec 7) (l : Nat) : DWord := src64 v.team v.grp v.r.grp f l

/-- USrc. -/
def Env.usrc (v : Env) (f : BitVec 7) : DWord := Machine.usrc v.grp f

/-- Whether entry `a` issues before entry `b`: one that stands inside a chain, then higher PRI, then lower PC (07 R185, R188). -/
def FEntry.before (a b : FEntry) : Bool :=
  if a.tail ≠ b.tail then a.tail else b.pri < a.pri || (a.pri = b.pri && a.pc < b.pc)

/-- The first entry in issue order of a list. -/
def firstEntry : List FEntry → Option FEntry
  | [] => none
  | e :: t =>
    match firstEntry t with
    | none => some e
    | some f => if e.before f then some e else some f

/-- The current entry of a group (07 R188); in handler mode the handler entry (15 R402). -/
def Group.current (x : Group) : Option FEntry :=
  match x.handler with
  | some h => some h.entry
  | none =>
    match firstEntry (x.frontier.filter fun e => !e.deferred) with
    | some e => some e
    | none => firstEntry x.frontier

/-- The team from which the words of the current issue read: inside a chain as it stood at the issue (07 R185). -/
def State.readTeam (s : State) : Option Team :=
  match s.snap with
  | some t => some t
  | none => s.team? s.cur

/-- The environment of the word that issues. -/
def State.env (s : State) : Option Env :=
  match s.readTeam with
  | none => none
  | some t =>
    match t.group? s.cur.grp with
    | none => none
    | some x =>
      match x.current with
      | none => none
      | some e =>
        let m := match s.limit with
          | none => e.execMask
          | some l => e.execMask &&& l
        some ⟨s.cur, t, x, e, m, e.pc.toNat + 4 * s.ofs⟩

/-! ## The frontier -/

/-- One outcome of a word (07 R190); `due` as in the entry. -/
structure Outc where
  pc : Nat
  lanes : Lanes
  pri : BitVec 6
  deferred : Bool := false
  due : Bool := false
  deriving DecidableEq, Repr

/-- The lanes that a resumed entry still has to do, of a merged one (15 R404). -/
def FEntry.left (e : FEntry) : Lanes := e.redo.getD e.mask

/-- Joins lanes to an entry (07 R190). -/
def FEntry.join (e : FEntry) (m g : Lanes) (pri : BitVec 6) (d : Bool) (left : Option Lanes) : FEntry :=
  { e with
    mask := e.mask ||| m
    gmask := e.gmask ||| (g &&& m)
    pri := if e.pri < pri then pri else e.pri
    deferred := e.deferred && d
    redo := if e.redo = none ∧ left = none then none else some (e.left ||| left.getD m) }

/-- Adds one outcome to the valid entries: a merge, a new entry, or none when eight are valid (07 R190). DESIGN CHOICE (log entry 111):
valid entries stand in places 0, 1, … of the frontier without gaps and a new one takes the place after them, which 07 R187 and R190 leave
open and a saved context shows. -/
def addOutc (isHdr : Nat → Bool) (g : Lanes) (others : Nat) (fs : List FEntry) (o : Outc) : Option (List FEntry) :=
  if o.lanes = 0 then some fs
  else if fs.any fun e => e.pc.toNat = o.pc then
    some (fs.map fun e => if e.pc.toNat = o.pc then e.join o.lanes g o.pri o.deferred none else e)
  else if fs.length + others < 8 then
    some (fs ++ [{ pc := BitVec.ofNat 56 o.pc, mask := o.lanes, gmask := if isHdr o.pc then 0 else g &&& o.lanes,
                   pri := o.pri, deferred := o.deferred, redo := none, kept := none, due := o.due }])
  else none

/-- Update of 07 R190 over the outcomes in order; none on overflow. -/
def addOutcs (isHdr : Nat → Bool) (g : Lanes) (others : Nat) : List FEntry → List Outc → Option (List FEntry)
  | fs, [] => some fs
  | fs, o :: t =>
    match addOutc isHdr g others fs o with
    | none => none
    | some fs' => addOutcs isHdr g others fs' t

/-- The frontier without the entry at a PC. -/
def dropEntry (fs : List FEntry) (e : FEntry) : List FEntry := fs.filter fun f => f.pc ≠ e.pc

/-- Whether the word at an address is a clause header. -/
def State.headerAt (s : State) (part pc : Nat) : Bool :=
  match s.codeWord part pc with
  | none => false
  | some w => isHeader w

/-! ## Places (01 R16 to R20) -/

/-- The physical row of logical row `lr` of column `c` (01 R16). -/
def State.physRow (s : State) (die lr c : Nat) : Nat := if lr < (s.die die).spare.get 12 c then lr else lr + 1

/-- The physical core of cluster member (i, j) of a team (01 R18). -/
def State.memberCore (s : State) (t : Team) (i j : Nat) : Nat :=
  coreAt t.die (s.physRow t.die (t.orow + i) (t.ocol + j)) (t.ocol + j)

/-- The members of a team's cluster with their physical cores. -/
def State.members (s : State) (t : Team) : List (Nat × Nat × Nat) :=
  (List.range t.shapeR).flatMap fun i => (List.range t.shapeC).map fun j => (i, j, s.memberCore t i j)

/-- The member of a team's cluster that a physical core is (01 R20). -/
def State.memberAt (s : State) (t : Team) (core : Nat) : Option (Nat × Nat) :=
  ((s.members t).find? fun m => m.2.2 = core).map fun m => (m.1, m.2.1)

/-- The cluster of a team in its launch. -/
def State.clusterOf (s : State) (t : Team) : Option Cluster :=
  (s.launch? t.bind.launch).bind fun l => l.clusters.find? fun c => c.index = t.bind.clidx

/-- Whether member (i, j) of a team's cluster is unstarted 0, live 1 or gone 2, with its slot (01 R464). A cluster that
no launch lists has its own team alone, live. -/
def State.memberState (s : State) (t : Team) (slot i j : Nat) : Nat × Nat :=
  match s.clusterOf t with
  | none => (1, slot)
  | some c => let m := c.members.get (0, 0, 0) (8 * i + j); (m.1, m.2.2)

/-! ## Frets of a clause (09 R229, R230, R234) -/

/-- SETA or SETB of the clause of a word: a fret number, 15 for none. -/
def State.clauseFret (s : State) (v : Env) : FretClass → Nat
  | .none => 15
  | .a =>
    match s.clauseHeader v.part v.pc with
    | none => 15
    | some w => (w.extractLsb' 10 4).toNat
  | .b =>
    match s.clauseHeader v.part v.pc with
    | none => 15
    | some w => (w.extractLsb' 6 4).toNat

/-- The fret a counting word counts on. -/
def State.fretOf (s : State) (v : Env) (c : FretClass) : Option Nat :=
  let f := s.clauseFret v c
  if f < 12 then some f else none

/-- Counts a word on its clause's fret (09 R232). -/
def State.fretUp (s : State) (r : GroupRef) (f : Option Nat) : State := s.modGroup r fun x => x.fretUp f

/-- Completes a word on its fret with a status (09 R232, R235). -/
def State.fretDown (s : State) (r : GroupRef) (f : Option Nat) (st : BitVec 2) : State :=
  s.modGroup r fun x => x.fretDown f st

/-! ## Interlocks (07 R184, 15 R408, 02 R41) -/

/-- The registers that a logged word will still write. -/
def LogEntry.writes (n : LogEntry) : List (RegKind × Nat) :=
  match n.op with
  | .load d w _ => (List.range ((w + 3) / 4)).map fun i => (.v, d + i)
  | .lineLoad d k => (List.range k).map fun i => (.v, d + i)
  | .uniLoad d _ => [(.s, d)]
  | .store _ => []
  | .atomic _ dbl d _ _ =>
    match d with
    | none => []
    | some d => if dbl then [(.v, d), (.v, d + 1)] else [(.v, d)]
  | .rld qd _ _ _ _ => [(.q, qd)]

/-- The registers of a group with a write still pending. -/
def Group.pendingRegs (x : Group) : List (RegKind × Nat) :=
  x.log.flatMap LogEntry.writes ++ x.hypWords.map (fun h => (.v, h.d)) ++
    x.lineRegs.flatMap (fun r => (List.range r.2.2).map fun i => (.v, r.2.1 + i)) ++ x.perms.map (fun p => (.v, p.d)) ++
    (match x.steal with
     | none => []
     | some t => [(.p, t.pd.toNat)])

/-- Whether a v register is one that an issued word of the group has still to read (11 R291, 12 R322, R349). -/
def Group.readPending (x : Group) (n : Nat) : Bool :=
  x.readRegs.any (fun r => decide (r.2.1 ≤ n) && decide (n < r.2.1 + r.2.2)) || x.perms.any fun p => (n < 32) = (p.a < 32)

/-- Whether a word must wait for a register it names: one that an earlier word has still to write, or one that it writes itself and an
earlier word has still to read (07 R184, 15 R408, 11 R291, 12 R322, R349). -/
def Use.interlocked (u : Use) (x : Group) : Bool :=
  let w := x.pendingRegs
  (!w.isEmpty && u.names.any fun n => w.contains n) ||
    ((!x.readRegs.isEmpty || !x.perms.isEmpty) && u.dests.any fun n => n.1 = .v && x.readPending n.2)

/-! ## Barriers of a team (02 R67, 11 R297) -/

/-- The completion test of R67. -/
def Barrier.complete (b : Barrier) : Barrier :=
  if popcount b.arrMask = b.exp.toNat ∧ b.exp ≠ 0 then
    { b with waiters := 0, arrMask := 0, phase := b.phase + 1, exp := b.nextExp }
  else b

/-- A group exits or is killed: it drops, and is no longer expected in this phase (11 R297). -/
def Barrier.leave (b : Barrier) (g : Nat) : Barrier :=
  if b.dropMask.getLsbD g then b
  else
    let b1 := { b with dropMask := b.dropMask ||| oneLane g, nextExp := b.nextExp - 1 }
    if b1.arrMask.getLsbD g then b1 else { b1 with exp := b1.exp - 1 }.complete

/-- Whether a barrier entry belongs to the team in a slot's bind record (02 R66). -/
def Barrier.ofTeam (b : Barrier) (t : BindRec) : Bool := b.part = t.part && b.launch = t.launch && b.team = t.team

/-! ## Stage barriers (02 R69, R70) -/

/-- Sets STATE of the object at a physical scratchpad offset. -/
def State.setStage (s : State) (c at_ st : Nat) : State :=
  let b := s.scratchRead c 1 (at_ + 16)
  s.scratchWrite c 1 (at_ + 16) (b / 4 * 4 + st)

/-- ARRIVED of the object at a physical scratchpad offset. -/
def State.stageArrived (s : State) (c at_ : Nat) : Bool := s.scratchRead c 1 (at_ + 16) / 4 % 2 = 1

/-- The window base of a team's slot on a core. -/
def State.windowBase (s : State) (c slot : Nat) : Nat :=
  match (s.core c).team? slot with
  | none => 0
  | some t => t.bind.spbase

/-- The groups of a team that wait at a stage object wake with the state that it has reached (02 R70, 11 R303). -/
def Team.wakeStage (t : Team) (off st : Nat) : Team :=
  { t with groups := t.groups.map fun gx => (gx.1, gx.2.map fun x =>
    if x.stageWait = some (off, 0) then { x with stageWait := some (off, st) } else x) }

/-- An armed object becomes broken or complete: STATE is set, it is armed no longer, and its waiters wake (02 R70). -/
def State.endStage (s : State) (c slot off st : Nat) : State :=
  ((s.setStage c (s.windowBase c slot + off) st).modTeam ⟨c, slot, 0⟩ fun t => t.wakeStage off st).modCore c fun k =>
    { k with armed := k.armed.filter fun a => !(a.1 = slot && a.2.1 = off) }

/-- The armed objects of a core whose producer is `p` break; with `kept`, those whose producer has arrived stay (02 R70). -/
def State.breakStagesOn (s : State) (c : Nat) (p : GroupRef) (kept : Bool) : State :=
  (s.core c).armed.foldl (init := s) fun s a =>
    if a.2.2 = p ∧ ¬(kept ∧ s.stageArrived c (s.windowBase c a.1 + a.2.1)) then s.endStage c a.1 a.2.1 3 else s

/-- Every armed object that a group produces breaks (02 R70). -/
def State.breakStages (s : State) (p : GroupRef) (kept : Bool) : State :=
  (s.cores.map (·.1)).foldl (fun s c => s.breakStagesOn c p kept) s

/-! ## Gang latches and leases when a group leaves (12 R329, R331, R332) -/

/-- A latch at which one member waits breaks: its word completes with engine-command-error status (12 R329). -/
def State.breakLatchOf (s : State) (m : GroupRef) (l : Latched) : State :=
  let s1 := s.modGroup m fun y =>
    { y with latches := y.latches.filter fun x => x.cmd ≠ l.cmd, readRegs := y.readRegs.drop fun i => i = l.cmd }
  match (s.core m.core).cmds.get none l.cmd with
  | none => s1
  | some c => (s1.fretDown m c.fret 1).modCore m.core fun k => { k with cmds := k.cmds.set none l.cmd none }

/-- Every open latch that names the group as a member breaks (12 R329). -/
def State.breakLatch (s : State) (r : GroupRef) : State :=
  match s.team? r with
  | none => s
  | some t =>
    t.groups.foldl (init := s) fun s kx =>
      match kx.2 with
      | none => s
      | some x => (x.latches.filter fun l => l.members.getLsbD r.grp).foldl (fun s l => s.breakLatchOf { r with grp := kx.1 } l) s

/-- A group no longer waits at any queue of its core (11 R307). -/
def Core.dropWaiter (k : Core) (r : GroupRef) : Core :=
  { k with queues := k.queues.map fun nq => (nq.1, nq.2.map fun q =>
      { q with getters := q.getters.filter fun h => h ≠ r }) }

/-- A push of a group is no longer among the refused ones of its queue (11 R307). -/
def State.dropPush (s : State) (r : GroupRef) : State :=
  match (s.group? r).bind (·.push) with
  | none => s
  | some p => s.modCore p.core fun k =>
      { k with queues := k.queues.map fun nq => (nq.1, nq.2.map fun q =>
          { q with refused := q.refused.filter fun h => h ≠ r }) }

/-- The lease that is active at a cycle. -/
def Core.liveLease (k : Core) (now : Nat) : Option Lease :=
  match k.lease with
  | none => none
  | some l => if now < l.ends ∧ (l.freed.all fun t => decide (now < t)) then some l else none

/-- The group that holds the capo at a cycle (12 R332). -/
def Lease.holder (l : Lease) (now : Nat) : Nat :=
  match l.next with
  | none => l.token
  | some (t, g) => if t ≤ now then g else l.token

/-- Whether a lease belongs to a group, alone or in a pair. -/
def Lease.covers (l : Lease) (slot g : Nat) : Bool := l.slot = slot && (l.grp = g || l.partner = some g)

/-- Whether a group holds a lease. -/
def Core.holds (k : Core) (now : Nat) (r : GroupRef) : Bool := (k.liveLease now).any fun l => l.covers r.slot r.grp

/-- Whether a group has an `mlease` request queued. -/
def Core.asked (k : Core) (r : GroupRef) : Bool := k.leaseQ.any fun q => q.slot = r.slot && q.grp = r.grp && q.word.isNone

/-- Whether a lease request can still be granted: a request of one word goes with its word. -/
def Core.wanted (k : Core) (q : LeaseReq) : Bool :=
  match q.word with
  | none => true
  | some id => match k.cmds.get none id with
    | none => false
    | some c => c.phase = 0

/-- Whether a command is a matrix word's (12 R330). -/
def CmdKind.isMatrix : CmdKind → Bool
  | .mmad _ _ _ _ _ _ _ => true
  | .stage _ _ _ _ _ _ => true
  | _ => false

/-- The arbiter is to grant the next request (12 R331). -/
def State.askGrant (s : State) (core : Nat) : State :=
  let k := s.core core
  if (k.liveLease s.cycle).isNone ∧ (k.leaseQ.any k.wanted) then s.postOnce (.leaseGrant core) else s

/-- A matrix word without a lease and without an `mlease` request enters a request of its own (12 R331). -/
def Core.enterRequest (now : Nat) (k : Core) (c : Cmd) : Core :=
  if !c.kind.isMatrix ∨ c.phase ≠ 0 ∨ c.latched then k
  else if k.holds now c.g || k.asked c.g || k.leaseQ.any fun q => q.word = some c.seq then k
  else { k with leaseQ := k.leaseQ ++ [⟨c.g.slot, c.g.grp, 1, 16384, none, some c.seq⟩] }

/-- Every matrix word that needs one enters its request, oldest first. -/
def State.enterRequests (s : State) (core : Nat) : State :=
  (s.modCore core fun k => (k.cmds.filterMap (·.2)).foldl (Core.enterRequest s.cycle) k).askGrant core

/-- The lease ends: the words that were to run under it enter requests of their own (12 R331, R332). -/
def State.endLease (s : State) (core : Nat) : State := (s.modCore core fun k => { k with lease := none }).enterRequests core

/-- A queued `mlease` request after a group has left: it goes with its group; one of a pair becomes the other group's alone (12 R332, log
entry 30). -/
def LeaseReq.leave (q : LeaseReq) (slot g : Nat) : Option LeaseReq :=
  if q.slot ≠ slot ∨ q.word.isSome then some q
  else match q.partner with
    | none => if q.grp = g then none else some q
    | some p => if q.grp = g then some { q with grp := p, partner := none } else if p = g then some { q with partner := none } else some q

/-- The lease and its queue after a group has left: its requests go, but those of words that it has issued; a lease of its own ends, a pair
dissolves (12 R331, R332). -/
def Core.leaseLeave (k : Core) (slot g : Nat) : Core :=
  { k with
    leaseQ := k.leaseQ.filterMap fun q => q.leave slot g
    lease := match k.lease with
      | none => none
      | some l =>
        if l.slot ≠ slot then some l
        else match l.partner with
          | none => if l.grp = g then none else some l
          | some p =>
            if l.grp = g then some { l with grp := p, partner := none, token := p, next := none }
            else if p = g then some { l with partner := none, token := l.grp, next := none }
            else some l }

/-! ## The end of groups and teams (07 R190, R197, 09 R236, 15 R416) -/

/-- A group gives up the extended-block lock that it holds: a partner that waits for it takes it (07 R196, R197). -/
def Team.unlock (t : Team) (g : Nat) : Team :=
  let b := t.ext.get ⟨[], none, none⟩ (g / 2)
  if b.holder = some g then { t with ext := t.ext.set ⟨[], none, none⟩ (g / 2) { b with holder := b.waiter, waiter := none } } else t

/-- A group no longer waits at `xacq`: it leaves, or a trap is taken there (07 R196). -/
def Team.quitLock (t : Team) (g : Nat) : Team :=
  let b := t.ext.get ⟨[], none, none⟩ (g / 2)
  if b.waiter = some g then { t with ext := t.ext.set ⟨[], none, none⟩ (g / 2) { b with waiter := none } } else t

/-- Lanes exit: they leave the ids they name and, with a region recorded, its mask (05 R138, 15 R410). -/
def State.exitLanes (s : State) (r : GroupRef) (part : Nat) (m : Lanes) : State :=
  match s.group? r with
  | none => s
  | some x =>
    let live := m &&& ~~~x.exited
    ((lanesOf live).foldl (fun s l => s.countRef part (x.hypOf l) false) s).modGroup r fun x =>
      { x with exited := x.exited ||| m, idem := x.idem &&& ~~~(m.setWidth 64) }

/-- Whether the `msync` instance of a group is complete: every lane of its mask that has not exited has arrived (11 R299). -/
def Group.msyncDone (x : Group) : Bool :=
  match x.aside with
  | [] => false
  | w :: _ => w.mask &&& ~~~x.exited &&& ~~~(x.aside.foldl (fun m a => m ||| a.lanes) 0) = 0

/-- One waiting entry continues: at the word after its `msync`, or, when that word stands in a chain, at the chain, whose `msync` its
lanes have passed (11 R299). -/
def releaseWaiting (isHdr : Nat → Bool) (fs : List FEntry) (e : FEntry) : List FEntry :=
  if e.passed = 0 then (addOutc isHdr e.gmask 0 fs ⟨e.pc.toNat + 4, e.mask, e.pri, false, false⟩).getD fs
  else if fs.any fun f => f.pc = e.pc then
    fs.map fun f => if f.pc = e.pc then { f.join e.mask e.gmask e.pri e.deferred e.redo with passed := f.passed ||| e.passed } else f
  else fs ++ [e]

/-- The waiting entries continue (11 R299). Their places in the frontier are free. -/
def Group.msyncRelease (isHdr : Nat → Bool) (x : Group) : Group :=
  { x with
    aside := []
    frontier := x.aside.foldl (fun fs a => releaseWaiting isHdr fs a.entry) x.frontier }

/-- Lanes have exited: an `msync` instance that waited for them only is complete (11 R299). -/
def State.recheckMsync (s : State) (r : GroupRef) (part : Nat) : State :=
  s.modGroup r fun x => if x.msyncDone then x.msyncRelease (s.headerAt part) else x

/-- What the end of a group does besides its lanes: lock, barriers, stage barriers it produces, latch, lease (07 R197,
11 R297, 02 R70, 12 R329, R331). `kept`: an arrived producer's stages stay. -/
def State.groupGone (s : State) (r : GroupRef) (kept : Bool) : State :=
  match s.team? r with
  | none => s
  | some t =>
    let s1 := ((s.dropPush r).modTeam r fun t => (t.quitLock r.grp).unlock r.grp).breakStages r kept
    let s2 := { s1.breakLatch r with
      modl :=
        { s1.modl with
          ticketHolder := if s1.modl.ticketHolder = some r then none else s1.modl.ticketHolder
          ticketQueue := s1.modl.ticketQueue.filter fun q => q ≠ r } }
    ((s2.modCore r.core fun k =>
      { (k.dropWaiter r).leaseLeave r.slot r.grp with
        barriers := k.barriers.map fun b => if b.ofTeam t.bind then b.leave r.grp else b
        spilled := k.spilled.map fun b => if b.ofTeam t.bind then b.leave r.grp else b }).enterRequests r.core)

/-- The regroup that other groups of the team wait at may now complete (07 R198, R199). -/
def State.recheckRegroup (s : State) (r : GroupRef) : State :=
  match s.team? r with
  | none => s
  | some t => if t.regroupKeys.isEmpty then s else s.postOnce (.regroupComplete r.core r.slot)

/-- The queues that a slot owns are disabled (02 R65). -/
def Core.closeQueues (k : Core) (slot : Nat) : Core :=
  { k with queues := k.queues.map fun nq => (nq.1, nq.2.map fun q => if q.owner = slot then { q with en := false } else q) }

/-- Whether every lane of every group of a team has exited. -/
def Team.over (t : Team) : Bool := t.groups.all fun g => match g.2 with
  | none => true
  | some x => x.exited = BitVec.allOnes 32

/-- The state of the cluster member that a team is: 0 unstarted, 1 live, 2 gone (01 R464). -/
def State.setMember (s : State) (t : Team) (st core slot : Nat) : State :=
  s.modLaunch t.bind.launch fun l =>
    { l with clusters := l.clusters.map fun c =>
        if c.index = t.bind.clidx then { c with members := c.members.set (0, 0, 0) (8 * t.bind.mi + t.bind.mj) (st, core, slot) } else c }

/-- A team whose last lane has exited: its member is gone and its queues are disabled (01 R464, 02 R65). -/
def State.teamOver (s : State) (c slot : Nat) : State :=
  match (s.core c).team? slot with
  | none => s
  | some t => if t.over then (s.setMember t 2 c slot).modCore c fun k => k.closeQueues slot else s

/-- A group whose frontier has emptied exits; it keeps its slot until its frets are clear (07 R190, 09 R236). -/
def State.groupExit (s : State) (r : GroupRef) : State :=
  match s.team? r with
  | none => s
  | some t =>
    ((((s.exitLanes r t.bind.part (BitVec.allOnes 32)).groupGone r true).teamOver r.core r.slot).recheckRegroup r).postOnce
      (.groupSlotRelease r)

/-- Records a launch's completion status unless one is recorded (14 R387). -/
def State.launchStatus (s : State) (l : Nat) (st : BitVec 8) : State :=
  s.modLaunch l fun x => { x with status := if x.status = 0 then st else x.status }

/-- A group as a kill leaves it (15 R416): the words of its log, and those that wait for it, are discarded with their counts (09 R233). -/
def Group.killed (x : Group) : Group :=
  let gone := x.log.map (·.fret) ++ x.hypWords.map (·.fret) ++ x.perms.map (·.fret)
  { gone.foldl (fun x f => x.fretDown f 0) x with
    frontier := [], aside := [], handler := none, log := [], wait := .none, push := none, latches := [], readRegs := [], perms := [],
    hypWords := [], released := true, sweep := none, loadSweep := false, ticket := 0, fences := [] }

/-- Withdraws the words of a slot not taken up and stops its chains (15 R416). -/
def Core.withdraw (k : Core) (slot : Nat) : Core :=
  { k with
    cmds := k.cmds.filter fun nc => match nc.2 with
      | none => false
      | some c => !(c.g.slot = slot && c.phase = 0)
    chains := k.chains.map fun nc => (nc.1, nc.2.map fun c => if c.g.slot = slot then { c with stopped := true } else c)
    tails := k.tails.drop fun i => i / 32 = slot }

/-- Kills a team at once, with no handler and no save (15 R416). -/
def State.killTeam (s : State) (c slot : Nat) (st : BitVec 8) : State :=
  match (s.core c).team? slot with
  | none => s
  | some t =>
    let gs := t.groups.map fun g => (⟨c, slot, g.1⟩ : GroupRef)
    let s1 := gs.foldl (fun s r => (s.exitLanes r t.bind.part (BitVec.allOnes 32)).groupGone r false) s
    let s2 := gs.foldl (fun s r => s.modGroup r Group.killed) s1
    let s3 := (s2.setMember t 2 c slot).modCore c fun k => (k.closeQueues slot).withdraw slot
    ((s3.modTeam ⟨c, slot, 0⟩ fun t => { t with regroupKeys := [] }).launchStatus t.bind.launch st).postOnce
      (.slotRelease c slot)

/-- Kills a team that is to be bound again from its entry (15 R412, 02 R74). -/
def State.killForAgain (s : State) (c slot : Nat) : State :=
  match (s.core c).team? slot with
  | none => s
  | some t => ((s.killTeam c slot 0).setMember t 1 c slot).modTeam ⟨c, slot, 0⟩ fun t => { t with save := .again }

/-- Whether a partition has error policy B (02 R74). -/
def State.policyB (s : State) (part : Nat) : Bool := ((s.part? part).map (·.policyB)).getD false

/-- A data error under policy B: the team is killed; a kernel marked idempotent is launched again (02 R74). -/
def State.policyKill (s : State) (c slot : Nat) : State :=
  match (s.core c).team? slot with
  | none => s
  | some t => if t.idemKernel then s.killForAgain c slot else s.killTeam c slot 4

/-! ## Taking a trap (15 R400 to R405) -/

/-- A trap found at issue, before any lane: it names the lowest active lane (15 R400). -/
def Trap.atIssue (cls cause : Nat) : Trap := ⟨cls, cause, none, 0, 0, false, 0⟩

/-- A trap at a lane. -/
def Trap.atLane (cls cause l addr : Nat) : Trap := ⟨cls, cause, some l, addr, 0, false, 0⟩

/-- Where a trapping word stands: its entry, its execution mask, the lanes done, its address and the next one, whether it
is performed once per group, and the operand-log entry it comes from. -/
structure TrapSite where
  e : FEntry
  em : Lanes
  done : Lanes
  pc : Nat
  after : Nat
  once : Bool
  log : Option Nat

/-- The 64 B trap frame (15 R403). -/
def trapFrame (t : Trap) (p : TrapSite) (lane : Nat) : Nat :=
  let resume := if t.cls ≥ 16 then 2 else 0
  let w1 := (match p.log with
      | none => 0
      | some n => 2 ^ 34 + n % 4 * 2 ^ 32) +
    resume * 2 ^ 30 + lane % 64 * 2 ^ 24 + t.code % 256 * 2 ^ 16 + t.cause % 256 * 2 ^ 8 + t.cls % 256
  p.pc % 2 ^ 56 + w1 * 2 ^ 64 + (p.em.toNat * 2 ^ 32 + p.done.toNat) * 2 ^ 128 + t.addr % 2 ^ 56 * 2 ^ 192

/-- FOFF of TRAPV (15 R401). -/
def frameOff (x : Group) (g : Nat) : Nat := (x.trapv.extractLsb' 26 20).toNat + 64 * g

/-- HOFF of TRAPV (15 R401). -/
def handlerOff (x : Group) : Nat := (x.trapv.extractLsb' 0 26).toNat

/-- Whether TRAPV and the code let a trap be delivered (15 R405). -/
def State.deliverable (s : State) (t : Team) (x : Group) (g : Nat) : Bool :=
  (x.trapv.extractLsb' 26 20).toNat % 64 = 0 && frameOff x g + 64 ≤ t.bind.spsize && handlerOff x % 12 = 0 &&
    s.headerAt t.bind.part (t.bind.entry + handlerOff x)

/-- A group has no tail of a chain left to issue (07 R185). -/
def State.dropTail (s : State) (r : GroupRef) : State :=
  s.modCore r.core fun k => { k with tails := k.tails.drop fun i => i = 32 * r.slot + r.grp }

/-- The orphan lanes of a word retire as if they had executed `exit`; the word resumes with the rest (05 R157). -/
def State.retireOrphans (s : State) (r : GroupRef) (part : Nat) (p : TrapSite) : State :=
  let gone := s.orphans r part p.em
  let rest := p.em &&& ~~~p.done &&& ~~~gone
  let s1 := (s.exitLanes r part gone).modPart part fun q => { q with orphans := q.orphans + popcount gone }
  let keep := p.e.mask &&& ~~~gone
  let s2 := s1.modGroup r fun x =>
    let others := dropEntry x.frontier p.e
    let e' : FEntry := { p.e with mask := keep, gmask := p.e.gmask &&& keep, redo := some rest }
    if keep = 0 then { x with frontier := others }
    else if rest = 0 then
      { x with frontier := (addOutc (s.headerAt part) p.e.gmask 0 others ⟨p.after, keep, p.e.pri, false, false⟩).getD others }
    else { x with frontier := others ++ [e'] }
  let s2 := s2.recheckMsync r part
  match s2.group? r with
  | none => s2
  | some x => if x.frontier.isEmpty && x.aside.isEmpty && x.handler.isNone then s2.groupExit r else s2

/-- A trap is taken: the frame is written, the trapping entry is held and the handler entry is created; a trap that is
not enabled, or that cannot be delivered, or that falls due in handler mode ends the team (15 R402, R405). -/
def State.takeTrap (s : State) (r : GroupRef) (t : Trap) (p : TrapSite) : State :=
  match s.team? r, s.group? r with
  | some tm, some x =>
    let lane := t.lane.getD (lowestLane p.em)
    if x.handler.isSome then s.killTeam r.core r.slot 1
    else if !x.trapv.getLsbD (46 + t.cls) then
      if t.cls = 11 then s.retireOrphans r tm.bind.part p else s.killTeam r.core r.slot 1
    else if !s.deliverable tm x r.grp then s.killTeam r.core r.slot 1
    else
      let s0 := (s.dropPush r).modCore r.core fun k => k.dropWaiter r
      let s1 := s0.scratchWrite r.core 64 (tm.bind.spbase + frameOff x r.grp) (trapFrame t p lane)
      let s2 := s1.modGroup r fun x =>
        { x with
          lcur := BitVec.ofNat 64 lane
          status := x.status ||| t.status
          frets := if t.fretWait then x.frets.set ⟨0, 0⟩ t.code { x.fret t.code with st := 0 } else x.frets
          wait := .none, push := none, drainAt := none, stageWait := none
          frontier := dropEntry x.frontier p.e
          handler := some
            { entry := { pc := BitVec.ofNat 56 (tm.bind.entry + handlerOff x), mask := oneLane lane, gmask := 0, pri := 63,
                         deferred := false, redo := none, kept := none, due := true }
              held := p.e, after := BitVec.ofNat 56 p.after, once := p.once, since := x.nextLog + 1 } }
      let s2' := (s2.breakLatch r).modTeam r fun t => t.quitLock r.grp
      let s3 := if p.log.isSome then s2' else s2'.dropTail r
      if t.cls = 12 ∨ t.cls = 15 ∨ t.fretWait then s3.breakStages r false else s3
  | _, _ => s

/-! ## Returning from a trap (15 R404) -/

/-- Returns an entry to the frontier under 07 R190; none on overflow. -/
def returnEntry (isHdr : Nat → Bool) (others : Nat) (fs : List FEntry) (e : FEntry) : Option (List FEntry) :=
  if e.mask = 0 then some fs
  else if fs.any fun f => f.pc = e.pc then
    some (fs.map fun f => if f.pc = e.pc then f.join e.mask e.gmask e.pri e.deferred e.redo else f)
  else if fs.length + others < 8 then some (fs ++ [{ e with gmask := if isHdr e.pc.toNat then 0 else e.gmask }])
  else none

/-- The held entry as it continues after a trap of the word at its PC, with the lanes of `rest` still to do. -/
def resumed (h : Handler) (rest : Lanes) : FEntry :=
  if rest = 0 then { h.held with pc := h.after, redo := none, kept := none, due := false, sync := false, passed := 0 }
  else { h.held with sync := false, redo := if rest = h.held.mask &&& ~~~h.held.gmask then none else some rest }

/-! ## Fences and sweeps (03 R86, 04 R121, R122) -/

/-- Whether a logged word delivers what it reads: every word but a store and an atomic without a destination. -/
def MemOp.returns : MemOp → Bool
  | .store _ => false
  | .atomic _ _ d _ _ => d.isSome
  | _ => true

/-- Where the accesses begin that order what a group issues now: in handler mode with the handler's own (log entry 116). -/
def Group.since (x : Group) : Nat := (x.handler.map (·.since)).getD 0

/-- Whether an entry of the operand log counts for what was issued with a given `since`. -/
def LogEntry.counts (n : LogEntry) (since : Nat) : Bool := decide (since ≤ n.seq + 1)

/-- Whether an entry is an earlier access for a fence. -/
def Fence.follows (f : Fence) (n : LogEntry) : Bool := decide (n.seq < f.upto) && n.counts f.since

/-- The entries of the operand log that order what the group issues now. -/
def Group.ownLog (x : Group) : List LogEntry := x.log.filter fun n => n.counts x.since

/-- The fences that order what the group issues now. -/
def Group.ownFences (x : Group) : List Fence := x.fences.filter fun f => decide (x.since ≤ f.since)

/-- Whether a fence's acquire half may begin: every earlier load and returning atomic has bound its value, and a `fence.sc` at .dev or
wider holds the ticket (04 R121, R122). -/
def Group.mayAcquire (x : Group) (f : Fence) : Bool :=
  f.f ≠ 2 && f.acq = 0 && (x.log.all fun n => !f.follows n || !n.op.returns) && (f.f ≠ 3 || f.sc < 5 || x.ticket = 2)

/-- Whether a fence's release half is complete: the group's earlier accesses are performed and, at .dev or wider, the root writes that the
die had made by then are acknowledged (04 R121, 03 R86). -/
def Die.relDone (d : Die) (f : Fence) : Bool :=
  f.f = 1 || match f.mark with
    | none => false
    | some m => decide (f.sc < 5) || d.out.all fun o => decide (m ≤ o.num)

/-- Whether a fence holds nothing any more. -/
def Die.fenceOver (d : Die) (f : Fence) : Bool := d.relDone f && (f.f = 2 || f.acq = 2)

/-- A sweep starts: a marker goes to every cache die; it serves every fence whose acquire half may begin (03 R86, 04 R121). -/
def State.startSweep (s : State) (r : GroupRef) (load : Bool) : State :=
  let s1 := s.modGroup r fun x =>
    { x with sweep := some 0, loadSweep := load
             fences := x.fences.map fun f => if 5 ≤ f.sc && x.mayAcquire f then { f with acq := 1 } else f }
  (List.range 8).foldl (fun s d => s.post (.sweepAnswer r d)) s1

/-- A fence as far as it has come: its release half waits for acknowledgements once the group's earlier accesses are performed; an acquire
half below .dev needs no sweep (04 R121). -/
def Group.settle (x : Group) (nextOut : Nat) (f : Fence) : Fence :=
  { f with mark := if f.mark.isNone && x.log.all fun n => !f.follows n then some nextOut else f.mark
           acq := if f.sc < 5 && x.mayAcquire f then 2 else f.acq }

/-- The fences of a group go on; those that are over leave it (04 R121). -/
def State.stepFences (s : State) (r : GroupRef) : State :=
  match s.group? r with
  | none => s
  | some x =>
    if x.fences.isEmpty then s
    else
      let d := s.die (r.core / 104)
      let y := { x with fences := (x.fences.map (x.settle d.nextOut)).filter fun f => !d.fenceOver f }
      let s1 := s.modGroup r fun _ => y
      if y.sweep.isNone && y.fences.any fun f => decide (5 ≤ f.sc) && y.mayAcquire f then s1.startSweep r false else s1

/-- Whether the writes that a `perm` waits for are done (11 R291). -/
def Perm.ready (p : Perm) (x : Group) : Bool :=
  !(p.log.any fun q => x.log.any fun n => n.seq = q) && !(p.cmds.any fun i => x.lineRegs.any fun r => r.1 = i) &&
    !(p.hyps.any fun i => x.hypWords.any fun h => h.ix = i) && !p.perms.any fun i => x.perms.any fun q => q.ix = i

/-- A `perm` reads its registers and writes its destination (11 R291); a poisoned word poisons the lane that receives it (02 R73). -/
def State.runPerm (s : State) (r : GroupRef) (p : Perm) : State :=
  match s.team? r, s.group? r with
  | some t, some x =>
    let val := fun l => match p.picks.find? fun q => q.1 = l with
      | none => 0
      | some q => t.vget r.grp q.2.1 q.2.2
    let psn := p.picks.filterMap fun q => if x.psnLines.contains (32 * q.2.1 + q.2.2) then some (32 * p.d + q.1) else none
    ((s.modTeam r fun t => t.vset r.grp p.d p.lanes val).modGroup r fun x =>
      { x with perms := x.perms.filter (fun q => q.ix ≠ p.ix)
               psnLines := (x.psnLines.filter fun k => !(k / 32 = p.d && p.lanes.getLsbD (k % 32))) ++ psn }).fretDown r p.fret 0
  | _, _ => s

/-- The `perm` words of a group that wait for nothing any more complete, oldest first (11 R291). -/
def State.stepPerms (s : State) (r : GroupRef) : State :=
  match s.group? r with
  | none => s
  | some x => x.perms.foldl (init := s) fun s p => match s.group? r with
    | none => s
    | some y => if p.ready y then s.runPerm r p else s

/-- A word of the operand log is complete or given up: its entry and its fret go (09 R233, 15 R408). -/
def State.dropLog (s : State) (r : GroupRef) (n : LogEntry) : State :=
  (((s.modGroup r fun x => { x with log := x.log.filter fun m => m.seq ≠ n.seq }).stepFences r).fretDown r n.fret 0).stepPerms r

/-- What a return does to the logged word that trapped: replay for the lanes outside DONE, skip one lane, or give up (15
R404, R408). -/
def State.resumeLog (s : State) (r : GroupRef) (slot lane resume : Nat) : State :=
  match s.group? r with
  | none => s
  | some x =>
    match x.log.find? fun n => n.slot = slot ∧ n.fault.isSome with
    | none => s
    | some n =>
      let dn := if resume = 1 then n.done ||| oneLane lane else n.done
      if resume = 2 ∨ n.mask &&& ~~~dn = 0 then s.dropLog r n
      else (s.modGroup r fun x =>
          { x with log := x.log.map fun m => if m.seq = n.seq then { m with done := dn, fault := none } else m }).postOnce
            (.operandLogReplay r n.seq)

/-- `tret`: the frame is read, handler mode ends and the held entry returns. `quit`: the handler lane has executed `exit`,
which exits that lane and acts as RESUME 1 (15 R404). -/
def State.trapReturn (s : State) (r : GroupRef) (quit : Bool) : State :=
  match s.team? r, s.group? r with
  | some tm, some x =>
    match x.handler with
    | none => s
    | some h =>
      let a := tm.bind.spbase + frameOff x r.grp
      let w1 := s.scratchRead r.core 8 (a + 8)
      let w2 := s.scratchRead r.core 8 (a + 16)
      let resume := if quit then 1 else w1 / 2 ^ 30 % 4
      let lane := w1 / 2 ^ 24 % 64
      if resume = 3 then s.killTeam r.core r.slot 1
      else
        let gone := if quit then h.entry.mask else 0
        let emask : Lanes := BitVec.ofNat 32 (w2 / 2 ^ 32)
        let left := emask &&& ~~~(BitVec.ofNat 32 w2) &&& ~~~(lanesBelow lane) &&& ~~~gone
        let logv := w1 / 2 ^ 34 % 2 = 1
        let rest : Lanes :=
          if resume = 2 then 0
          else if resume = 1 then (if h.once then 0 else left &&& ~~~(oneLane lane))
          else if h.once then emask else left
        let h' := { h with held := { h.held with mask := h.held.mask &&& ~~~gone } }
        let e := if logv then h'.held else resumed h' rest
        let s1 := if quit then (s.exitLanes r tm.bind.part gone).recheckMsync r tm.bind.part else s
        let s2 := if logv then s1.resumeLog r (w1 / 2 ^ 32 % 4) lane resume else s1
        let y := (s1.group? r).getD x
        match returnEntry (s.headerAt tm.bind.part) y.aside.length y.frontier e with
        | none => s2.killTeam r.core r.slot 1
        | some fs =>
          let s3 := s2.modGroup r fun x =>
            { x with handler := none, frontier := fs,
                     lcur := if logv ∨ rest = 0 then 32 else BitVec.ofNat 64 (lowestLane rest) }
          if fs.isEmpty && y.aside.isEmpty then s3.groupExit r else s3
  | _, _ => s

/-! ## Issuing one word -/

/-- How the effect of a word ends: it waits, it waits with a record of what it waits for, it traps, some lanes are done
and the others wait, it is done, with the outcomes of a control word (07 R190), or it has placed the group's entries itself. -/
inductive Res where
  | wait
  | busy (s : State)
  | trap (t : Trap)
  | part (s : State) (left : Lanes)
  | done (s : State)
  | jump (s : State) (outs : List Outc)
  | ended (s : State)

/-- A data error found at a lane under the partition's policy (02 R74). -/
def dataError (v : Env) (s : State) (lane : Option Nat) : Res :=
  if s.policyB v.part then .ended (s.policyKill v.r.core v.r.slot) else .trap ⟨12, 0, lane, 0, 0, false, 0⟩

/-- The lowest lane of which a word reads a poisoned register (02 R74, 15 R409); a product word marks accumulator rows instead. -/
def Use.poisonedLane (u : Use) (v : Env) : Option Nat :=
  if v.grp.psnLines.isEmpty || u.own then none
  else
    let names := (u.ops.filter fun o => !o.wr).flatMap Opnd.names
    v.lanes.find? fun l => names.any fun kn => kn.1 = .v && v.grp.psnLines.contains (32 * kn.2 + l)

/-- The word is held at issue: nothing changes. -/
def hold (s : State) : State := { s with note := .waits }

/-- A word raises a trap. Inside a chain it is noted for the chain as a whole (15 R407); else it is taken. `s0` is the
state at issue, `s` the state with the lanes below the trap done. -/
def raise (stage : Nat) (t : Trap) (u : Use) (v : Env) (s0 s : State) : State :=
  if s0.snap.isSome then { s0 with note := .stops stage t }
  else
    let done := if t.cls ≥ 16 then v.em else
      match t.lane with
      | none => 0
      | some l => if u.once then 0 else v.em &&& lanesBelow l
    { s.takeTrap v.r t ⟨v.entry s, v.em, done, v.pc, v.pc + 4, u.once, none⟩ with note := .performed, ofs := 0 }

/-- The checks made at issue, in the order of 09 R243: a header that is due (09 R239), the word's encoding, its registers, its place. -/
def issueTrap (u : Use) (v : Env) (s : State) : Option (Nat × Trap) :=
  if v.e.due && s.ofs = 0 then some (0, .atIssue 0 1)
  else if v.e.sync then some (3, .atIssue 7 0)
  else if !u.encodingOk || !u.targetOk v.pc then some (0, .atIssue 0 0)
  else if u.result && s.clauseFret v u.cls = 15 then some (0, .atIssue 0 0)
  else if !u.own && !u.ops.all (Opnd.allotted (v.team.holdsExt v.r.grp)) then some (1, .atIssue 1 0)
  else match u.place with
    | none => none
    | some (row, col) =>
      if (s.memberAt v.team (coreAt (dieOf v.r.core) row col)).isSome then none else some (2, .atIssue 0 3)

/-- Whether the word's fret is full, an earlier word of its chain counted (09 R232). -/
def fretFull (u : Use) (v : Env) (s : State) : Bool :=
  match s.fretOf v u.cls with
  | none => false
  | some f => (((s.group? v.r).getD v.grp).fret f).cnt = 63

/-- The current entry of a group is replaced by outcomes; none on overflow (07 R190). In handler mode the handler entry
moves alone (15 R402). -/
def advanced (isHdr : Nat → Bool) (v : Env) (outs : List Outc) (x : Group) : Option Group :=
  match x.handler with
  | some h =>
    match outs.find? fun o => o.lanes ≠ 0 with
    | none => some x
    | some o => some { x with handler := some { h with entry := { h.entry with pc := BitVec.ofNat 56 o.pc, pri := o.pri, due := o.due, tail := false } } }
  | none =>
    match addOutcs isHdr v.e.gmask x.aside.length (dropEntry x.frontier v.e) outs with
    | none => none
    | some fs => some { x with frontier := fs, lcur := if v.e.redo = none then x.lcur else 32 }

/-- The outcome of a word that is no control word (07 R190). -/
def nextOutc (v : Env) : List Outc := [{ pc := v.pc + 4, lanes := v.e.mask, pri := v.e.pri }]

/-- Whether a word forbids a flush: it is one of those that 15 R412 names, or a queue word at another core. -/
def Use.pins (u : Use) (core : Nat) : Bool := u.pin || u.place.any fun p => coreAt (dieOf core) p.1 p.2 ≠ core

/-- A word that retires is counted (14 R393, 15 R412). -/
def Group.retire (u : Use) (core : Nat) (x : Group) : Group :=
  { x with retired := x.retired + 1, total := x.total + 1, noFlush := x.noFlush || u.pins core }

/-- The last word of a chain that is performed again below a trap: a branch or `exit` moves the lanes below out of the entry; after
any other word they stay in it until the other lanes have followed (15 R407). -/
def finishBelow (v : Env) (outs : List Outc) (m : Lanes) (s0 s1 : State) : State :=
  if outs = nextOutc v then { s1 with ofs := s0.ofs + 1, note := .performed }
  else
    let keep : FEntry → FEntry := fun f =>
      if f.pc = v.e.pc then { f with mask := f.mask &&& ~~~m, gmask := f.gmask &&& ~~~m } else f
    match s1.group? v.r with
    | none => { s1 with note := .performed }
    | some x =>
      match addOutcs (s0.headerAt v.part) v.e.gmask (x.aside.length) (x.frontier.map keep)
          (outs.map fun o => { o with lanes := o.lanes &&& m }) with
      | none => { s0 with note := .stops 3 (.atIssue 9 0) }
      | some fs => { s1.modGroup v.r fun x => { x with frontier := fs } with ofs := s0.ofs + 1, note := .performed }

/-- A word is done: inside a chain the next word of the chain follows; else the frontier is updated, and a group with no
entry left exits (07 R190). `s0` is the state at issue, `s` the state with the word's effect. -/
def finish (u : Use) (v : Env) (outs : List Outc) (s0 s : State) : State :=
  let s1 := s.modGroup v.r (Group.retire u v.r.core)
  if u.c = 1 then { s1 with ofs := s0.ofs + 1, note := .performed }
  else
    match s0.limit with
    | some m => finishBelow v outs m s0 s1
    | none =>
      match s1.group? v.r with
      | none => { s1 with ofs := 0, note := .performed }
      | some x =>
        if v.grp.handler.isSome && x.handler.isNone then { s1 with ofs := 0, note := .performed }
        else match advanced (s0.headerAt v.part) v outs x with
        | none => raise 3 (.atIssue 9 0) u v s0 s0
        | some y =>
          let s2 : State := { s1.modGroup v.r fun _ => y with ofs := 0, note := .performed }
          if y.frontier.isEmpty && y.aside.isEmpty && y.handler.isNone then s2.groupExit v.r else s2

/-- Some lanes of the word are done and the others wait at it (05 R138, 11 R310); in a chain it is noted for the chain as a whole. -/
def partly (v : Env) (left : Lanes) (s0 s : State) : State :=
  if s0.snap.isSome then { s0 with note := .partly left }
  else
    let f := fun e : FEntry => if e.pc = v.e.pc then { e with redo := some left } else e
    { s.modGroup v.r fun x =>
        { x with frontier := x.frontier.map f
                 handler := x.handler.map fun h => { h with entry := f h.entry } } with note := .waits }

/-- What the end of a word's effect makes of the state. -/
def settle (u : Use) (body : Env → State → Res) (v : Env) (s : State) : Res → State
  | .wait => hold s
  | .busy s' => { s' with note := .waits }
  | .ended s' =>
    { s'.modGroup v.r (Group.retire u v.r.core) with ofs := if u.c = 1 then s.ofs + 1 else 0, note := .performed }
  | .part s' left => partly v left s s'
  | .done s' => finish u v (nextOutc v) s s'
  | .jump s' outs => finish u v outs s s'
  | .trap t =>
    match t.lane with
    | none => raise 3 t u v s s
    | some l =>
      if (v.below l).em = 0 ∨ u.once then raise 3 t u v s s
      else match body (v.below l) s with
        | .done s' => raise 3 t u v s s'
        | .part s' _ => raise 3 t u v s s'
        | .wait => hold s
        | .busy s' => { s' with note := .waits }
        | _ => raise 3 t u v s s

/-- The lowest orphan among the active lanes of a word that R157 names; in handler mode ORPHAN is not raised (15 R402). -/
def orphanLane (u : Use) (v : Env) (s : State) : Option Nat :=
  if u.orph = .free ∨ v.grp.handler.isSome then none
  else (lanesOf (s.orphans v.r v.part v.em)).head?

/-- An orphan is among the active lanes: the lanes below it complete, unless the word is performed once (05 R157). Where one of them traps or
waits, that comes first, and the orphan and the lanes above stay with the word. -/
def settleOrphan (u : Use) (body : Env → State → Res) (v : Env) (s : State) (l : Nat) : State :=
  let t := Trap.atLane 11 0 l 0
  if u.orph = .once ∨ (v.below l).em = 0 then raise 3 t { u with once := u.orph = .once } v s s
  else match body (v.below l) s with
    | .done s' => raise 3 t u v s s'
    | .jump s' _ => raise 3 t u v s s'
    | .part s' left => partly v (left ||| (v.em &&& ~~~(lanesBelow l))) s s'
    | r => settle u body v s r

/-- Issues one word: the checks in order, then, if a lane is active, the waits and the effect (07 R189, R195, 09 R243). -/
def perform (u : Use) (body : Env → State → Res) (s : State) : Host.Outcome State Fault Refusal :=
  match s.env with
  | none => .fault .noGroup
  | some v =>
    match issueTrap u v s with
    | some (st, t) => .next (raise st t u v s s)
    | none =>
      if v.em = 0 then .next (finish u v (nextOutc v) s s)
      else if fretFull u v s || u.interlocked v.grp then .next (hold s)
      else if (u.poisonedLane v).isSome then .next (settle u body v s (dataError v s (u.poisonedLane v)))
      else
        match orphanLane u v s with
        | some l => .next (settleOrphan u body v (if u.orph = .free then s else s.followLanes v.r v.part v.em) l)
        | none =>
          let s' := if u.orph = .free then s else s.followLanes v.r v.part v.em
          .next (settle u body v s' (body v s'))

end Sys2Proof.Machine
end

