-- ==== Sys2Proof/Machine/Flags.lean ====
section
/-! DEFINITION. Floating-point operations on codes with every flag they raise (08 R204, R211 to R216, 10 R257 to R261),
and the part of a lane word that is common to all of them: draws, flags, traps and writes. -/

namespace Sys2Proof.Machine

/-! ## MODE (08 R210) -/

/-- FRM; a launch whose FRM is 6 or 7 is refused. -/
def modeRm (m : Word) : Rm := (rmOf (m.extractLsb' 0 3).toNat).getD .rne

/-- FTZ. -/
def modeFtz (m : Word) : Bool := m.getLsbD 4

/-- Whether flags raised by a lane trap: NV under INVTRAP, DZ under DIVTRAP (08 R216). -/
def trapsUnder (m : Word) (f : Flags) : Bool := (m.getLsbD 6 && f.nv) || (m.getLsbD 5 && f.dz)

/-! ## Operations on codes -/

/-- A subnormal input is read as zero of its sign under FTZ (08 R215). -/
def FloatFmt.flush (g : FloatFmt) (ftz : Bool) (x : Nat) : Nat :=
  if ftz && g.subnormal x then x / 2 ^ (g.ebits + g.mbits) % 2 * 2 ^ (g.ebits + g.mbits) else x

/-- A nonzero subnormal result becomes zero of its sign under FTZ, with UF and NX (08 R215). -/
def FloatFmt.flushResult (g : FloatFmt) (ftz : Bool) (r : Nat × Flags) : Nat × Flags :=
  if ftz && g.subnormal r.1 then (g.flush true r.1, { r.2 with uf := true, nx := true }) else r

/-- NV for a signalling NaN among the inputs (08 R213). -/
def FloatFmt.nanIn (g : FloatFmt) (xs : List Nat) : Flags := { nv := xs.any g.snan }

/-- The FLT functions (09 R241). -/
inductive FltOp where
  | fadd
  | fsub
  | fmul
  | fdiv
  | fmin
  | fmax
  | fminm
  | fmaxm
  deriving DecidableEq, Repr

/-- Whether a is below b, −0 below +0 (08 R214). -/
def Num.below (a b : Num) : Bool := Num.cmp a b < 0 || (Num.cmp a b = 0 && a.sign && !b.sign)

/-- fmin, fmax, fminm and fmaxm on codes (08 R214). -/
def FloatFmt.minmax (g : FloatFmt) (lower propagate : Bool) (x y : Nat) : Nat × Flags :=
  let a := g.value x
  let b := g.value y
  let fl := g.nanIn [x, y]
  if a = .nan ∧ b = .nan then (g.nan, fl)
  else if a = .nan then (if propagate then g.nan else y, fl)
  else if b = .nan then (if propagate then g.nan else x, fl)
  else if a.below b = lower then (x, fl) else (y, fl)

/-- Rounds an exact result; a NaN that no input brought is an invalid operation (08 R213). -/
def FloatFmt.deliver (g : FloatFmt) (ftz : Bool) (m : Rm) (r : Nat) (ins : List Nat) (invalid dz : Bool) (v : Num) :
    Nat × Flags :=
  let x := g.flushResult ftz (g.round m r v)
  (x.1, (x.2.or (g.nanIn ins)).or { nv := invalid, dz := dz })

/-- One element of an FLT word (10 R257). -/
def FloatFmt.flt (g : FloatFmt) (op : FltOp) (ftz : Bool) (m : Rm) (r : Nat) (x0 y0 : Nat) : Nat × Flags :=
  let x := g.flush ftz x0
  let y := g.flush ftz y0
  let a := g.value x
  let b := g.value y
  let bad := a ≠ .nan ∧ b ≠ .nan
  let down := m = .rdn
  match op with
  | .fadd => let v := Num.add down a b; g.deliver ftz m r [x, y] (bad ∧ v = .nan) false v
  | .fsub => let v := Num.add down a b.neg; g.deliver ftz m r [x, y] (bad ∧ v = .nan) false v
  | .fmul => let v := Num.mul a b; g.deliver ftz m r [x, y] (bad ∧ v = .nan) false v
  | .fdiv =>
    let v := Num.div a b
    let dz : Bool := match a with
      | .fin _ n _ _ => n ≠ 0 && b.isZero
      | _ => false
    g.deliver ftz m r [x, y] (bad ∧ v = .nan) dz v
  | .fmin => g.minmax true false x y
  | .fmax => g.minmax false false x y
  | .fminm => g.minmax true true x y
  | .fmaxm => g.minmax false true x y

/-- One element of an FMA word: ±(a × b) ± d, rounded once (10 R258). -/
def FloatFmt.fma (g : FloatFmt) (negP negD ftz : Bool) (m : Rm) (r : Nat) (x0 y0 d0 : Nat) : Nat × Flags :=
  let x := g.flush ftz x0
  let y := g.flush ftz y0
  let d := g.flush ftz d0
  let a := g.value x
  let b := g.value y
  let p0 := Num.mul a b
  let p := if negP then p0.neg else p0
  let c := if negD then (g.value d).neg else g.value d
  let v := Num.add (m = .rdn) p c
  let badP := a ≠ .nan ∧ b ≠ .nan ∧ p0 = .nan
  let badS := p ≠ .nan ∧ c ≠ .nan ∧ v = .nan
  g.deliver ftz m r [x, y, d] (badP ∨ badS) false v

/-- The special functions (10 R260). -/
inductive SpecialOp where
  | rcp
  | rsq
  | sqrt
  | exp2
  | log2
  | sinp
  | rint
  deriving DecidableEq, Repr

/-- The exact result of a special function with its invalid and divide-by-zero conditions (10 R260). -/
def specialValue (op : SpecialOp) (a : Num) : Num × Bool × Bool :=
  let one : Num := .fin false 1 0 false
  match op, a with
  | _, .nan => (.nan, false, false)
  | .rcp, .inf s => (.zero s, false, false)
  | .rcp, .fin s m e t => if m = 0 then (.inf s, false, true) else (Num.div one (.fin s m e t), false, false)
  | .rsq, .inf s => if s then (.nan, true, false) else (.zero false, false, false)
  | .rsq, .fin s m e t =>
    if m = 0 then (.inf s, false, true)
    else if s then (.nan, true, false)
    else
      let q := Num.div one (.fin false m e t)
      match q with
      | .fin _ n f st =>
        let r := Num.sqrt (.fin false n f false)
        match r with
        | .fin _ k h su => (.fin false k h (su || st), false, false)
        | x => (x, false, false)
      | x => (x, false, false)
  | .sqrt, .inf s => if s then (.nan, true, false) else (.inf false, false, false)
  | .sqrt, .fin s m e t =>
    if m = 0 then (.zero s, false, false)
    else if s then (.nan, true, false)
    else (Num.sqrt (.fin false m e t), false, false)
  | .exp2, .inf s => if s then (.zero false, false, false) else (.inf false, false, false)
  | .exp2, .fin s m e _ => (Num.exp2 s m e, false, false)
  | .log2, .inf s => if s then (.nan, true, false) else (.inf false, false, false)
  | .log2, .fin s m e _ =>
    if m = 0 then (.inf true, false, true)
    else if s then (.nan, true, false)
    else (Num.log2 m e, false, false)
  | .sinp, .inf _ => (.nan, true, false)
  | .sinp, .fin s m e _ => (Num.sinp s m e, false, false)
  | .rint, x => (x, false, false)

/-- `rint`: rounded to an integral value of the format, NX never set (10 R260). -/
def FloatFmt.rint (g : FloatFmt) (m : Rm) (x : Nat) : Nat × Flags :=
  match g.value x with
  | .fin s k e t =>
    let h := onGrid k e 0 t
    let big := if m.up s (h.1 % 2 = 0) 0 h.2 && h.2.inexact then h.1 + 1 else h.1
    (if 0 ≤ e then x else (g.round m 0 (.fin s big 0 false)).1, {})
  | .inf s => (g.signed s g.infCode, {})
  | .nan => (g.nan, g.nanIn [x])

/-- One element of a special-function word (10 R260). -/
def FloatFmt.special (g : FloatFmt) (op : SpecialOp) (ftz : Bool) (m : Rm) (x0 : Nat) : Nat × Flags :=
  let x := g.flush ftz x0
  match op with
  | .rint => g.rint m x
  | _ =>
    let v := specialValue op (g.value x)
    g.deliver ftz m 0 [x] v.2.1 v.2.2 v.1

/-- `cvt` of one value (10 R259). FTZ does not affect conversions to or from formats of 8 bits (08 R215). -/
def cvtCode (dst src : Fmt) (ftz : Bool) (m : Rm) (r : Nat) (x0 : Nat) : Nat × Flags :=
  let fz := ftz && dst.bytes ≠ 1 && src.bytes ≠ 1
  let x := match src.float with
    | some g => g.flush fz x0
    | none => x0
  let y := roundTo dst m r (src.value x)
  let z := match dst.float with
    | some g => g.flushResult fz y
    | none => y
  (z.1, z.2.or { nv := src.snan x })

/-- The conditions of CMP (10 R261). -/
inductive Cond where
  | eq
  | ne
  | lt
  | le
  | gt
  | ge
  | ltu
  | leu
  | gtu
  | geu
  | feq
  | fne
  | flt
  | fle
  | fgt
  | fge
  | fun_
  | ford
  deriving DecidableEq, Repr

/-- An integer condition on `w`-bit values (10 R261). -/
def Cond.int (c : Cond) {w : Nat} (a b : BitVec w) : Bool :=
  match c with
  | .eq => a = b
  | .ne => a ≠ b
  | .lt => a.slt b
  | .le => a.sle b
  | .gt => b.slt a
  | .ge => b.sle a
  | .ltu => a.ult b
  | .leu => a.ule b
  | .gtu => b.ult a
  | .geu => b.ule a
  | _ => false

/-- A float condition with its NV flag (10 R261). -/
def Cond.float (c : Cond) (g : FloatFmt) (x y : Nat) : Bool × Flags :=
  let a := g.value x
  let b := g.value y
  let un := a = .nan ∨ b = .nan
  let sn := g.nanIn [x, y]
  let k := Num.cmp a b
  match c with
  | .feq => (!un && k = 0, sn)
  | .fne => (un || k ≠ 0, sn)
  | .flt => (!un && k < 0, { nv := un })
  | .fle => (!un && k ≤ 0, { nv := un })
  | .fgt => (!un && k > 0, { nv := un })
  | .fge => (!un && k ≥ 0, { nv := un })
  | .fun_ => (un, sn)
  | .ford => (!un, sn)
  | _ => (false, {})

/-! ## Lane words that raise flags or draw -/

/-- What a lane of such a word does: the register words it writes, the predicates, its flags, the draws it takes. -/
structure LaneOut where
  regs : List (Nat × Word) := []
  preds : List (Nat × Bool) := []
  flags : Flags := {}
  draws : Nat := 0

/-- KEY of a lane (08 R217). -/
def Group.keyOf (x : Group) (l : Nat) : DWord := x.key.get 0 l

/-- CTR of a lane (08 R217). -/
def Group.ctrOf (x : Group) (l : Nat) : DWord := x.ctr.get 0 l

/-- The draw `i` places ahead of a lane's counter (08 R217). CTR is live inside a chain (08 R218). -/
def drawAt (seed : DWord) (x : Group) (l i : Nat) : DWord := mix64 seed (x.keyOf l) (x.ctrOf l + BitVec.ofNat 64 i)

/-- Bits [63:40] of a draw: r of RoundTo (08 R212). -/
def draw24 (seed : DWord) (x : Group) (l i : Nat) : Nat := ((drawAt seed x l i).extractLsb' 40 24).toNat

/-- Advances a lane's counter. -/
def Group.advanceCtr (x : Group) (l n : Nat) : Group :=
  { x with ctr := x.ctr.set 0 l (x.ctrOf l + BitVec.ofNat 64 n) }

/-- Applies what one lane does. -/
def applyLane (g : Nat) (t : Team) (lo : Nat × LaneOut) : Team :=
  let t1 := lo.2.regs.foldl (fun t rw => t.vset g rw.1 (oneLane lo.1) fun _ => rw.2) t
  t1.modGroup g fun x =>
    let x1 := lo.2.preds.foldl (fun x pb => x.pset pb.1 (oneLane lo.1) (if pb.2 then oneLane lo.1 else 0)) x
    let x2 := { x1 with status := x1.status ||| lo.2.flags.bits }
    if lo.2.draws = 0 then x2 else x2.advanceCtr lo.1 lo.2.draws

/-- The group as it stands, with the live counters. -/
def liveGroup (v : Env) (s : State) : Group := (s.group? v.r).getD v.grp

/-- A word that uses an entry of the reservation table with a parity error takes a data error (02 R73, R74). -/
def goodResv (h : Nat) (v : Env) (s : State) (k : Unit → Res) : Res :=
  if (liveGroup v s).resBad.contains h then dataError v s none else k ()

/-- The group from which a word draws: CTR is live, KEY is read as it stood at the chain's issue (08 R218, 13 R381). -/
def drawGroup (v : Env) (s : State) : Group := { liveGroup v s with key := v.grp.key }

/-- A lane word: each active lane does what `f` gives; the first lane whose flags are enabled traps (08 R216). -/
def laneBody (f : Env → Group → Nat → LaneOut) (v : Env) (s : State) : Res :=
  let outs := v.lanes.map fun l => (l, f v (drawGroup v s) l)
  match outs.find? fun lo => trapsUnder v.team.bind.mode lo.2.flags with
  | some lo => .trap { Trap.atLane 6 0 lo.1 0 with status := lo.2.flags.bits }
  | none => .done (s.modTeam v.r fun t => outs.foldl (applyLane v.r.grp) t)

/-- A lane word that writes one 32-bit value and raises nothing. -/
def lane32 (d : BitVec 7) (f : Env → Nat → Word) (v : Env) (s : State) : Res :=
  .done (s.modTeam v.r fun t => t.vset v.r.grp d.toNat v.em (f v))

/-- A lane word that writes one 64-bit value to a pair and raises nothing. -/
def lane64 (d : BitVec 7) (f : Env → Nat → DWord) (v : Env) (s : State) : Res :=
  .done (s.modTeam v.r fun t =>
    (t.vset v.r.grp d.toNat v.em fun l => (f v l).setWidth 32).vset v.r.grp (d.toNat + 1) v.em fun l =>
      (f v l).extractLsb' 32 32)

/-- A word that writes one uniform register. -/
def uniform (d : Nat) (f : Env → DWord) (v : Env) (s : State) : Res :=
  .done (s.modGroup v.r fun x => x.sset d (f v))

/-- A word that writes one predicate in the active lanes. -/
def lanePred (d : Nat) (f : Env → Lanes) (v : Env) (s : State) : Res :=
  .done (s.modGroup v.r fun x => x.pset d v.em (f v))

end Sys2Proof.Machine
end

