-- ==== Sys2Proof/Machine/Order.lean ====
section
/-! DEFINITION. What orders memory: the release and acquire halves of 04 R121 as conditions under which a word goes on, and
the fences that hold later accesses. A word that cannot go on waits at issue. -/

namespace Sys2Proof.Machine

/-- Whether every write performed in a die's slices has been acknowledged by its home (03 R86, 05 R145). -/
def State.dieQuiet (s : State) (die : Nat) : Bool := (s.die die).out.isEmpty

/-- Whether every fence of a group that still stands holds nothing any more (04 R121). -/
def State.fencesOver (s : State) (v : Env) : Bool := (liveGroup v s).ownFences.all (s.die (dieOf v.r.core)).fenceOver

/-- ReleaseHalf: every earlier access of the group is performed and, at .dev or wider, every root write of the die is
acknowledged (04 R121). -/
def State.released (s : State) (v : Env) (sc : Nat) : Bool :=
  (liveGroup v s).ownLog.isEmpty && s.fencesOver v && (sc < 5 || s.dieQuiet (dieOf v.r.core))

/-- Whether a later memory access of a group must wait for an acquire access, its sweep, or a fence's acquire half (04 R112, R121,
R124). -/
def Group.acquiring (x : Group) : Bool :=
  x.loadSweep || (x.ownLog.any fun n => n.acquire) || x.ownFences.any fun f => f.f ≠ 2 && f.acq ≠ 2

/-- Whether an access of a word waits at issue: after an acquire, and a store or atomic also for the release half of a fence (04 R112,
R121, R124). -/
def State.orderHeld (s : State) (v : Env) (writes : Bool) : Bool :=
  (liveGroup v s).acquiring || writes && !s.fencesOver v

/-- AcquireHalf, then `k`: every earlier load has bound its value and, at .dev or wider, the sweep is complete (04 R121). What the die
writes from then on follows what it wrote before (04 R117). -/
def acquireThen (sc : Nat) (v : Env) (s : State) (k : State → Res) : Res :=
  let x := liveGroup v s
  let die := dieOf v.r.core
  if !x.ownLog.isEmpty || x.loadSweep || !s.fencesOver v then .wait
  else if sc < 5 then k (s.closeBatch die)
  else match x.sweep with
    | none => .busy (s.startSweep v.r false)
    | some m => if m = 0xFF then k ((s.modGroup v.r fun x => { x with sweep := none }).closeBatch die) else .wait

/-- ReleaseHalf, then `k`. -/
def releaseThen (sc : Nat) (v : Env) (s : State) (k : State → Res) : Res :=
  if s.released v sc then k s else .wait

/-- A fence issues: it holds later accesses until its halves are complete, and the group's other words go on (04 R121). -/
def State.fenceFrom (s : State) (v : Env) (sc f : Nat) : State :=
  (s.modGroup v.r fun x => { x with fences := x.fences ++ [⟨sc, f, x.nextLog, x.since, none, 0⟩] }).stepFences v.r

/-- `fence` (04 R121): both halves side by side, or one. -/
def fenceBody (sc : BitVec 3) (f : BitVec 3) (v : Env) (s : State) : Res := .done (s.fenceFrom v sc.toNat f.toNat)

/-- `fence.sc` (04 R122): the release half, the ticket at .dev or wider, the acquire half, the ticket's return. A group has one request for
the ticket at a time. -/
def fenceScBody (sc : BitVec 3) (v : Env) (s : State) : Res :=
  if sc.toNat < 5 then .done (s.fenceFrom v sc.toNat 3)
  else if (liveGroup v s).ticket ≠ 0 then .wait
  else
    let s1 := (s.modGroup v.r fun x => { x with ticket := 1 }).fenceFrom v sc.toNat 3
    .done { s1.post .fenceScTicket with modl := { s1.modl with ticketQueue := s1.modl.ticketQueue ++ [v.r] } }

/-- A fence word: F codes 0 to 2 (04 R121); performed once per group (11 R296). -/
def useFence (c : BitVec 1) (f : BitVec 3) : Use :=
  { c := c, ops := [], legal := decide (f.toNat < 3), orph := .once, once := true }

/-- 04 R121: `fence`. -/
def execFence (c : BitVec 1) (sc : BitVec 3) (f : BitVec 3) (s : State) : Host.Outcome State Fault Refusal :=
  perform (useFence c f) (fenceBody sc f) s

/-- 04 R122: `fence.sc`. -/
def execFenceSc (c : BitVec 1) (sc : BitVec 3) (s : State) : Host.Outcome State Fault Refusal :=
  perform { c := c, ops := [], orph := .once, once := true } (fenceScBody sc) s

end Sys2Proof.Machine
end

