-- ==== Sys2Proof/Machine/Ctl.lean ====
section
/-! DEFINITION. Clause headers, branches, control words, the extended-block lock and the system registers (07, 09, 10). -/

namespace Sys2Proof.Machine

/-- The byte offset of a branch: 4 × OFF (09 R239). -/
def branchOff (o : BitVec 14) : Int := 4 * o.toInt

/-- The use of a branch: its target, its predicate (09 R239). -/
def useBranch (o : BitVec 14) (ps : List (BitVec 3)) : Use :=
  { c := 0, ops := ps.map .ps, target := some (branchOff o) }

/-- The address a branch goes to (09 R239). -/
def branchTarget (v : Env) (o : BitVec 14) : Nat := (Int.ofNat v.pc + branchOff o).toNat % 2 ^ 56

/-- The outcomes of a branch of the lanes `m`: the target at the word's priority, the other lanes at the next word (07 R190,
09 R239). -/
def branchOutcs (v : Env) (t : Nat) (m : Lanes) (pri : BitVec 6) : List Outc :=
  [{ pc := t, lanes := m, pri := pri, due := true }, { pc := v.pc + 4, lanes := v.e.mask &&& ~~~m, pri := v.e.pri }]

/-- A direct branch of the lanes that `f` gives (10 R268). -/
def branchBody (o : BitVec 14) (pri : BitVec 6) (f : Env → Lanes) (v : Env) (s : State) : Res :=
  .jump s (branchOutcs v (branchTarget v o) (f v) pri)

/-- The packet of an address (09 R226). -/
def packetOf (pc : Nat) : Nat := pc - pc % 12

/-- `call`: the link goes to s63 (10 R269). -/
def callBody (o : BitVec 14) (pri : BitVec 6) (v : Env) (s : State) : Res :=
  .jump (s.modGroup v.r fun x => x.sset 63 (BitVec.ofNat 64 (v.e.pri.toNat * 2 ^ 56 + (packetOf v.pc + 12))))
    (branchOutcs v (branchTarget v o) v.em pri)

/-- `ret` (10 R269). -/
def retBody (v : Env) (s : State) : Res :=
  let l := v.grp.sget 63
  let t := (l.extractLsb' 0 56).toNat
  if t % 12 ≠ 0 ∨ l.extractLsb' 62 2 ≠ 0 then .trap (.atIssue 0 0)
  else .jump s (branchOutcs v t v.em (l.extractLsb' 56 6))

/-- Puts a number into an ascending list unless it is there. -/
def insertSorted (n : Nat) : List Nat → List Nat
  | [] => [n]
  | k :: t => if n < k then n :: k :: t else if n = k then k :: t else k :: insertSorted n t

/-- `brx`: each lane's target; the distinct ones in ascending order (10 R270). -/
def brxBody (a p : BitVec 7) (v : Env) (s : State) : Res :=
  let t := fun l => (BitVec.ofNat 56 v.pc + (v.src a l).signExtend 56).toNat
  match v.lanes.find? fun l => t l % 12 ≠ 0 with
  | some l => .trap (.atLane 0 0 l 0)
  | none =>
    let ts := v.lanes.foldl (fun ts l => insertSorted (t l) ts) []
    .jump s ((ts.map fun u =>
        { pc := u, lanes := maskOf fun l => v.em.getLsbD l && t l = u, pri := p.setWidth 6, due := true }) ++
      [{ pc := v.pc + 4, lanes := v.e.mask &&& ~~~v.em, pri := v.e.pri }])

/-- `exit`: the lanes of the execution mask exit; in a handler the handler lane exits and the trap returns (10 R271,
15 R404). -/
def exitBody (v : Env) (s : State) : Res :=
  if v.grp.handler.isSome then .ended (s.trapReturn v.r true)
  else .jump ((s.exitLanes v.r v.part v.em).recheckMsync v.r v.part)
    [{ pc := v.pc + 4, lanes := v.e.mask &&& ~~~v.em, pri := v.e.pri }]

/-- `ient` (10 R272, 15 R410); KEY and CTR are those at issue (07 R185). -/
def ientBody (v : Env) (s : State) : Res :=
  .done (s.modGroup v.r fun x =>
    match x.handler, x.frontier, x.aside with
    | none, [e], [] =>
      if e.gmask = 0 then
        { x with
          idem := BitVec.ofNat 64 (2 ^ 63 + e.pri.toNat * 2 ^ 56 +
            ((v.pc - v.team.bind.entry) / 12 + 1) % 2 ^ 24 * 2 ^ 32 + e.mask.toNat)
          idemKey := v.lanes.foldl (fun t l => t.set 0 l (v.grp.keyOf l)) x.idemKey
          idemCtr := v.lanes.foldl (fun t l => t.set 0 l (v.grp.ctrOf l)) x.idemCtr }
      else { x with idem := x.idem &&& ~~~(1#64 <<< 63) }
    | _, _, _ => { x with idem := x.idem &&& ~~~(1#64 <<< 63) })

/-- The lanes of a group that have not exited. -/
def Group.live (x : Group) : Lanes := ~~~x.exited

/-- `regroup`: the group arrives with all its live lanes and waits (07 R198, R199). -/
def regroupBody (a : BitVec 7) (v : Env) (s : State) : Res :=
  if v.em ≠ (liveGroup v s).live then .trap (.atIssue 7 0)
  else releaseThen 2 v s fun s =>
    .busy (((s.modTeam v.r fun t =>
        { t with regroupKeys := v.lanes.foldl (fun k l => k.set 0 (32 * v.r.grp + l) ((v.src a l).toNat % 256 + 1)) t.regroupKeys
        }).modGroup v.r fun x => { x with wait := .regroup, idem := x.idem &&& ~~~(1#64 <<< 63) }).postOnce
      (.regroupComplete v.r.core v.r.slot))

/-- The clause header (09 R229). -/
def hdrLegal (pc : Nat) (a b : BitVec 4) (g : BitVec 1) (p : BitVec 3) (n : BitVec 1) : Bool :=
  pc % 12 = 0 && !(decide (12 ≤ a.toNat) && decide (a ≠ 15)) && !(decide (12 ≤ b.toNat) && decide (b ≠ 15)) &&
    (g = 1 || (p = 0 && n = 0))

/-- The class of the trap that a fret's status is delivered as (09 R235). -/
def fstClass (st : BitVec 2) : Nat := if st = 1 then 15 else if st = 2 then 12 else 6

/-- The lowest of the named frets that holds a status (09 R235). -/
def Group.failedFret (x : Group) (fs : List Nat) : Option Nat := fs.find? fun f => (x.fret f).st ≠ 0

/-- The trap at a wait on frets: the lowest-numbered status, at the lowest lane of the waiting entry (09 R235, 15 R400). -/
def fretTrap (x : Group) (f : Nat) : Trap := { Trap.atIssue (fstClass (x.fret f).st) 0 with code := f, fretWait := true }

/-- The frets that a mask names. -/
def fretsOf (m : Nat) : List Nat := (List.range 12).filter fun f => m / 2 ^ f % 2 = 1

/-- GMASK as a header leaves it (07 R189). -/
def guardMask (x : Group) (m : Lanes) (g : BitVec 1) (p : BitVec 3) (n : BitVec 1) : Lanes :=
  if g = 0 then 0 else m &&& ~~~(if n = 1 then ~~~(x.pget p.toNat) else x.pget p.toNat)

/-- The clause header waits for its frets, delivers a status they hold, and sets GMASK (09 R229, R231, R235, 07 R189). -/
def hdrStep (w : BitVec 12) (a b : BitVec 4) (g : BitVec 1) (p : BitVec 3) (n : BitVec 1) (v : Env) (s : State) : State :=
  let u : Use := { c := 0, ops := [.ps p], once := true }
  if !hdrLegal v.pc a b g p n then raise 0 (.atIssue 0 0) u v s s
  else if !(fretsOf w.toNat).all v.grp.fretClear || (g = 1 && u.interlocked v.grp) then hold s
  else match v.grp.failedFret (fretsOf w.toNat) with
    | some f => raise 3 (fretTrap v.grp f) u v s s
    | none =>
      let gm := guardMask v.grp v.e.mask g p n
      let v' : Env := { v with e := { v.e with gmask := gm } }
      finish u v' (nextOutc v') s (s.modGroup v.r fun x =>
        { x with handler := x.handler.map fun h => { h with entry := { h.entry with gmask := gm, due := false } } })

/-- LEASE as it stands (12 R330, R331). -/
def leaseReg (k : Core) (r : GroupRef) (now : Nat) : DWord :=
  match k.liveLease now with
  | none => 0
  | some l =>
    if l.slot = r.slot ∧ (l.grp = r.grp ∨ l.partner = some r.grp) then
      let other := if l.grp = r.grp then l.partner.getD 0 else l.grp
      let cp := l.partner.isSome
      BitVec.ofNat 64 (2 ^ 63 + (if cp then 2 ^ 62 + other * 2 ^ 56 else 0) +
        (if cp ∧ l.holder now = r.grp then 2 ^ 61 else 0) + l.words * 2 ^ 32 + (l.ends - now))
    else 0

/-- The group registers that `srd` reads, by number (10 R274). -/
def groupReg (v : Env) (s : State) (k : Nat) : DWord :=
  match k with
  | 0 => v.grp.lcur
  | 1 => v.grp.trapv
  | 2 => v.grp.idem
  | 3 => v.grp.status
  | 4 => v.grp.gang
  | 5 => leaseReg (s.core v.r.core) v.r s.cycle
  | 9 => v.team.bind.mode.setWidth 64
  | _ => v.team.bind.seed

/-- `srd`: a group register to an s register, HYP to a v register, KEY and CTR to a pair (10 R274). -/
def useSrd (c : BitVec 1) (d a : BitVec 7) : Use :=
  { c := c, ops := if a = 6 then [.vd d] else if a = 7 ∨ a = 8 then [.vd2 d] else [.ud d], legal := decide (a.toNat < 11) }

/-- `srd` (10 R274). `srd hyp` first applies 05 R139. -/
def srdBody (d a : BitVec 7) (v : Env) (s : State) : Res :=
  if a = 6 then
    let s1 := s.followLanes v.r v.part v.em
    lane32 d (fun v l => BitVec.ofNat 32 (((s.part? v.part).map fun p => p.follow (v.grp.hypOf l)).getD (v.grp.hypOf l))) v s1
  else if a = 7 then lane64 d (fun v l => v.grp.keyOf l) v s
  else if a = 8 then lane64 d (fun v l => v.grp.ctrOf l) v s
  else uniform d.toNat (fun v => groupReg v s a.toNat) v s

/-- `swr`: TRAPV and STATUS only (10 R274). -/
def useSwr (c : BitVec 1) (d a : BitVec 7) : Use := { c := c, ops := [.us a], legal := d = 1 || d = 3 }

/-- `swr` (10 R274, R275). `swr status` in one chain with a word that raises flags: the spec does not say which stands; here the words act
in the order of the chain, so that `swr` after `fadd` leaves no flag of it and `swr` before it all (log entry 110, DESIGN CHOICE). -/
def swrBody (d a : BitVec 7) (v : Env) (s : State) : Res :=
  .done (s.modGroup v.r fun x =>
    if d = 1 then { x with trapv := v.usrc a } else { x with status := v.usrc a &&& 0x11F })

/-- The holder of the extended block of a group's pair (07 R196). -/
def Team.extHolder (t : Team) (g : Nat) : Option Nat := (t.ext.get ⟨[], none, none⟩ (g / 2)).holder

/-- Sets the holder of the block. -/
def Team.setHolder (t : Team) (g : Nat) (h : Option Nat) : Team :=
  { t with ext := t.ext.set ⟨[], none, none⟩ (g / 2) { t.ext.get ⟨[], none, none⟩ (g / 2) with holder := h } }

/-- The group waits for the lock of its block: its holder will hand it over (07 R196). -/
def Team.setWaiter (t : Team) (g : Nat) : Team :=
  { t with ext := t.ext.set ⟨[], none, none⟩ (g / 2) { t.ext.get ⟨[], none, none⟩ (g / 2) with waiter := some g } }

/-- The holder as the machine stands. -/
def liveHolder (v : Env) (s : State) : Option Nat := (s.team? v.r).bind fun t => t.extHolder v.r.grp

/-- `xacq` (07 R196). -/
def xacqBody (v : Env) (s : State) : Res :=
  match liveHolder v s with
  | none => .done (s.modTeam v.r fun t => t.setHolder v.r.grp (some v.r.grp))
  | some h =>
    if h = v.r.grp then .done s
    else .busy (s.modTeam v.r fun t => t.setWaiter v.r.grp)

/-- `xtry` (07 R196). -/
def xtryBody (p : BitVec 3) (v : Env) (s : State) : Res :=
  let ok := (liveHolder v s).getD v.r.grp = v.r.grp
  .done ((if ok then s.modTeam v.r fun t => t.setHolder v.r.grp (some v.r.grp) else s).modGroup v.r fun x =>
    x.pset p.toNat v.em (if ok then BitVec.allOnes 32 else 0))

/-- Whether an earlier word of a group has still to read or write a register of its extended block (07 R196, 11 R291, 12 R322, R349). -/
def Group.extBusy (x : Group) : Bool :=
  (x.pendingRegs.any fun n => n.1 = .v && decide (32 ≤ n.2)) || (x.readRegs.any fun r => decide (32 ≤ r.2.1)) ||
    x.perms.any fun p => decide (32 ≤ p.a)

/-- `xrel`: after every earlier word that names v32 to v95 has read its sources and written its results; a partner that waits takes the
lock (07 R196). -/
def xrelBody (v : Env) (s : State) : Res :=
  if liveHolder v s ≠ some v.r.grp then .done s
  else if (liveGroup v s).extBusy then .wait
  else .done (s.modTeam v.r fun t => t.unlock v.r.grp)

/-- `tret`: only in a handler (10 R277, 15 R404). -/
def tretBody (v : Env) (s : State) : Res :=
  if v.grp.handler.isNone then .trap (.atIssue 0 0) else .ended (s.trapReturn v.r false)

/-- `sleep` (10 R277). -/
def sleepBody (a : BitVec 7) (v : Env) (s : State) : Res :=
  let n := Nat.min (v.usrc a).toNat (2 ^ 24)
  if n = 0 then .done s
  else .done ((s.modGroup v.r fun x => { x with wait := .sleep (s.cycle + n) }).post (.sleepExpire v.r))

/-- 10 R268: every lane of the execution mask. -/
def execJmp (p : BitVec 6) (o : BitVec 14) (s : State) : Host.Outcome State Fault Refusal :=
  perform (useBranch o [])
    (branchBody o p fun v => v.em) s

/-- 10 R268: the lanes where the predicate is true. -/
def execBt (sc : BitVec 3) (p : BitVec 6) (o : BitVec 14) (s : State) : Host.Outcome State Fault Refusal :=
  perform (useBranch o [sc])
    (branchBody o p fun v => v.em &&& v.grp.pget sc.toNat) s

/-- 10 R268: the lanes where the predicate is false. -/
def execBf (sc : BitVec 3) (p : BitVec 6) (o : BitVec 14) (s : State) : Host.Outcome State Fault Refusal :=
  perform (useBranch o [sc])
    (branchBody o p fun v => v.em &&& ~~~(v.grp.pget sc.toNat)) s

/-- 10 R268: all, if the predicate is true in any of them. -/
def execBany (sc : BitVec 3) (p : BitVec 6) (o : BitVec 14) (s : State) : Host.Outcome State Fault Refusal :=
  perform (useBranch o [sc])
    (branchBody o p fun v => if v.em &&& v.grp.pget sc.toNat ≠ 0 then v.em else 0) s

/-- 10 R268: all, if the predicate is true in every one. -/
def execBall (sc : BitVec 3) (p : BitVec 6) (o : BitVec 14) (s : State) : Host.Outcome State Fault Refusal :=
  perform (useBranch o [sc])
    (branchBody o p fun v => if v.em &&& ~~~(v.grp.pget sc.toNat) = 0 then v.em else 0) s

/-- 10 R269: the link to s63, then to the target. -/
def execCall (p : BitVec 6) (o : BitVec 14) (s : State) : Host.Outcome State Fault Refusal :=
  perform ({ useBranch o [] with ops := [.ud 63] })
    (callBody o p) s

/-- 10 R271: nothing. -/
def execNop (s : State) : Host.Outcome State Fault Refusal :=
  perform ({ c := 0, ops := [] })
    (fun _ s => .done s) s

/-- 10 R271: the lanes of the execution mask exit. -/
def execExit (s : State) : Host.Outcome State Fault Refusal :=
  perform ({ c := 0, ops := [] })
    (exitBody) s

/-- 10 R269: to the link in s63. -/
def execRet (s : State) : Host.Outcome State Fault Refusal :=
  perform ({ c := 0, ops := [.us 63] })
    (retBody) s

/-- 10 R270: each lane to its own target. -/
def execBrx (a : BitVec 7) (p : BitVec 7) (s : State) : Host.Outcome State Fault Refusal :=
  perform ({ c := 0, ops := [.vs a], legal := decide (p.toNat < 64), once := true })
    (brxBody a p) s

/-- 10 R271: the entry is deferred. -/
def execYield (s : State) : Host.Outcome State Fault Refusal :=
  perform ({ c := 0, ops := [] })
    (fun v s => .jump s [{ pc := v.pc + 4, lanes := v.e.mask, pri := v.e.pri, deferred := true }]) s

/-- 10 R271: a software trap with code n. -/
def execTrap (n : BitVec 7) (s : State) : Host.Outcome State Fault Refusal :=
  perform ({ c := 0, ops := [], once := true })
    (fun _ _ => .trap { Trap.atIssue 16 0 with code := n.toNat }) s

/-- 10 R272: the entry of an idempotent region. -/
def execIent (s : State) : Host.Outcome State Fault Refusal :=
  perform ({ c := 0, ops := [] })
    (ientBody) s

/-- 07 R198: arrives at the compaction. -/
def execRegroup (a : BitVec 7) (s : State) : Host.Outcome State Fault Refusal :=
  perform ({ c := 0, ops := [.vs a], once := true })
    (regroupBody a) s

/-- 10 R271: a breakpoint trap with code n. -/
def execBkpt (n : BitVec 7) (s : State) : Host.Outcome State Fault Refusal :=
  perform ({ c := 0, ops := [], once := true })
    (fun _ _ => .trap { Trap.atIssue 17 0 with code := n.toNat }) s

/-- 09 R229 to R231: the clause header. -/
def execHdr (w : BitVec 12) (a : BitVec 4) (b : BitVec 4) (g : BitVec 1) (p : BitVec 3) (n : BitVec 1) (s : State) : Host.Outcome State Fault Refusal :=
  match s.env with
  | none => .fault .noGroup
  | some v => .next (hdrStep w a b g p n { v with em := v.e.mask } s)

/-- 07 R196: takes the extended-block lock, or waits. -/
def execXacq (c : BitVec 1) (s : State) : Host.Outcome State Fault Refusal :=
  perform ({ c := c, ops := [] })
    (xacqBody) s

/-- 07 R196: releases the extended-block lock. -/
def execXrel (c : BitVec 1) (s : State) : Host.Outcome State Fault Refusal :=
  perform ({ c := c, ops := [] })
    (xrelBody) s

/-- 07 R196: takes the lock if it is free. -/
def execXtry (c : BitVec 1) (p : BitVec 3) (s : State) : Host.Outcome State Fault Refusal :=
  perform ({ c := c, ops := [.pd p] })
    (xtryBody p) s

/-- 10 R274: reads a system register. -/
def execSrd (c : BitVec 1) (d : BitVec 7) (a : BitVec 7) (s : State) : Host.Outcome State Fault Refusal :=
  perform (useSrd c d a)
    (srdBody d a) s

/-- 10 R274: writes TRAPV or STATUS. -/
def execSwr (c : BitVec 1) (d : BitVec 7) (a : BitVec 7) (s : State) : Host.Outcome State Fault Refusal :=
  perform (useSwr c d a)
    (swrBody d a) s

/-- 10 R277, 15 R404: returns from a handler. -/
def execTret (c : BitVec 1) (s : State) : Host.Outcome State Fault Refusal :=
  perform ({ c := c, ops := [] })
    (tretBody) s

/-- 10 R277: the group is not ready for a while. -/
def execSleep (c : BitVec 1) (a : BitVec 7) (s : State) : Host.Outcome State Fault Refusal :=
  perform ({ c := c, ops := [.us a] })
    (sleepBody a) s

end Sys2Proof.Machine
end

