-- ==== Sys2Proof/Machine/Float.lean ====
section
/-! DEFINITION. The floating-point words FLT, FMA and CVT (10 R257 to R260). -/

namespace Sys2Proof.Machine

/-- The element format of a TY (09 R238). -/
def tyFmt (t : BitVec 2) : FloatFmt :=
  match t.toNat with
  | 0 => ⟨8, 23, 127, true, 0x7F7FFFFF, 0x7FC00000⟩
  | 1 => ⟨11, 52, 1023, true, 0x7FEFFFFFFFFFFFFF, 0x7FF8000000000000⟩
  | 2 => ⟨5, 10, 15, true, 0x7BFF, 0x7E00⟩
  | _ => ⟨8, 7, 127, true, 0x7F7F, 0x7FC0⟩

/-- The elements of an operand of a lane: one, or two packed halves (10 R257). -/
def elements (t : BitVec 2) (v : Env) (f : BitVec 7) (l : Nat) : List Nat :=
  match t.toNat with
  | 0 => [(v.src f l).toNat]
  | 1 => [(v.src2 f l).toNat]
  | _ => [(half (v.src f l) 0).toNat, (half (v.src f l) 1).toNat]

/-- The register words that hold a lane's elements (10 R257). -/
def placeElements (t : BitVec 2) (d : Nat) (es : List Nat) : List (Nat × Word) :=
  match t.toNat with
  | 0 => [(d, BitVec.ofNat 32 (es.getD 0 0))]
  | 1 => [(d, BitVec.ofNat 32 (es.getD 0 0)), (d + 1, BitVec.ofNat 32 (es.getD 0 0 / 2 ^ 32))]
  | _ => [(d, BitVec.ofNat 32 (es.getD 0 0 + es.getD 1 0 * 2 ^ 16))]

/-- The draw of element `e` of a lane under rsk; any number under another mode (08 R212, R218). -/
def elementDraw (v : Env) (x : Group) (m : Rm) (l e : Nat) : Nat :=
  if m = .rsk then draw24 v.team.bind.seed x l e else 0

/-- A lane of a word over elements: the results with every element's flags, and one draw a rounded element under rsk. -/
def elementLane (t : BitVec 2) (d : BitVec 7) (rounds : Bool) (m : Rm) (rs : List (Nat × Flags)) : LaneOut :=
  { regs := placeElements t d.toNat (rs.map (·.1))
    flags := rs.foldl (fun f r => f.or r.2) {}
    draws := if rounds && m = .rsk then rs.length else 0 }

/-- A lane of an FLT word (10 R257). -/
def fltLane (op : FltOp) (t : BitVec 2) (d a b : BitVec 7) (v : Env) (x : Group) (l : Nat) : LaneOut :=
  let mode := v.team.bind.mode
  let m := modeRm mode
  let rounds := op = .fadd ∨ op = .fsub ∨ op = .fmul ∨ op = .fdiv
  let es := List.zip (elements t v a l) (elements t v b l)
  elementLane t d rounds m
    (es.mapIdx fun i p => (tyFmt t).flt op (modeFtz mode) m (elementDraw v x m l i) p.1 p.2)

/-- A lane of an FMA word; the destination is the third source (10 R258). -/
def fmaLane (negP negD : Bool) (t : BitVec 2) (d a b : BitVec 7) (v : Env) (x : Group) (l : Nat) : LaneOut :=
  let mode := v.team.bind.mode
  let m := modeRm mode
  let es := List.zip (List.zip (elements t v a l) (elements t v b l)) (elements t v d l)
  elementLane t d true m
    (es.mapIdx fun i p => (tyFmt t).fma negP negD (modeFtz mode) m (elementDraw v x m l i) p.1.1 p.1.2 p.2)

/-- A lane of a special-function word: accuracy mode 0 is rne, 1 is rtz (10 R260). -/
def specialLane (op : SpecialOp) (t : BitVec 2) (d a : BitVec 7) (m : BitVec 3) (v : Env) (_ : Group) (l : Nat) : LaneOut :=
  elementLane t d false .rne
    ((elements t v a l).map fun x =>
      (tyFmt t).special op (modeFtz v.team.bind.mode) (if m = 0 then .rne else .rtz) x)

/-- The destination and source formats of a `cvt` (10 R259). -/
def cvtFormats (t : BitVec 2) (f : BitVec 4) : Fmt × Fmt :=
  let g := (fmtOf f.toNat).getD .f32
  match t.toNat with
  | 0 => (.f32, g)
  | 1 => (.f64, g)
  | 2 => (g, .f32)
  | _ => (g, .f64)

/-- A code of a format as a register holds it: i8 and i16 sign-extended, other short formats zero-extended (10 R259). -/
def heldCode (f : Fmt) (x : Nat) : Word :=
  match f with
  | .i8 => (BitVec.ofNat 8 x).signExtend 32
  | .i16 => (BitVec.ofNat 16 x).signExtend 32
  | _ => BitVec.ofNat 32 x

/-- A lane of `cvt` (10 R259). -/
def cvtLane (t : BitVec 2) (d a : BitVec 7) (f : BitVec 4) (rm : BitVec 3) (v : Env) (x : Group) (l : Nat) : LaneOut :=
  let p := cvtFormats t f
  let m := (rmOf rm.toNat).getD .rne
  let raw := if p.2.bytes = 8 then (v.src2 a l).toNat else (v.src a l).toNat % 2 ^ (8 * p.2.bytes)
  let r := cvtCode p.1 p.2 (modeFtz v.team.bind.mode) m (elementDraw v x m l 0) raw
  { regs := if p.1.bytes = 8 then [(d.toNat, BitVec.ofNat 32 r.1), (d.toNat + 1, BitVec.ofNat 32 (r.1 / 2 ^ 32))]
      else [(d.toNat, heldCode p.1 r.1)]
    flags := r.2
    draws := if m = .rsk then 1 else 0 }

/-- 10 R257, 08 R212 to R216: `fadd` on f32, f64, two f16 or two bf16 values. -/
def execFadd (c : BitVec 1) (t : BitVec 2) (d : BitVec 7) (a : BitVec 7) (b : BitVec 7) (s : State) : Host.Outcome State Fault Refusal :=
  perform (useT c t d a b)
    (laneBody (fltLane .fadd t d a b)) s

/-- 10 R257, 08 R212 to R216: `fsub` on f32, f64, two f16 or two bf16 values. -/
def execFsub (c : BitVec 1) (t : BitVec 2) (d : BitVec 7) (a : BitVec 7) (b : BitVec 7) (s : State) : Host.Outcome State Fault Refusal :=
  perform (useT c t d a b)
    (laneBody (fltLane .fsub t d a b)) s

/-- 10 R257, 08 R212 to R216: `fmul` on f32, f64, two f16 or two bf16 values. -/
def execFmul (c : BitVec 1) (t : BitVec 2) (d : BitVec 7) (a : BitVec 7) (b : BitVec 7) (s : State) : Host.Outcome State Fault Refusal :=
  perform (useT c t d a b)
    (laneBody (fltLane .fmul t d a b)) s

/-- 10 R257, 08 R212 to R216: `fmin` on f32, f64, two f16 or two bf16 values. -/
def execFmin (c : BitVec 1) (t : BitVec 2) (d : BitVec 7) (a : BitVec 7) (b : BitVec 7) (s : State) : Host.Outcome State Fault Refusal :=
  perform (useT c t d a b)
    (laneBody (fltLane .fmin t d a b)) s

/-- 10 R257, 08 R212 to R216: `fmax` on f32, f64, two f16 or two bf16 values. -/
def execFmax (c : BitVec 1) (t : BitVec 2) (d : BitVec 7) (a : BitVec 7) (b : BitVec 7) (s : State) : Host.Outcome State Fault Refusal :=
  perform (useT c t d a b)
    (laneBody (fltLane .fmax t d a b)) s

/-- 10 R257, 08 R212 to R216: `fminm` on f32, f64, two f16 or two bf16 values. -/
def execFminm (c : BitVec 1) (t : BitVec 2) (d : BitVec 7) (a : BitVec 7) (b : BitVec 7) (s : State) : Host.Outcome State Fault Refusal :=
  perform (useT c t d a b)
    (laneBody (fltLane .fminm t d a b)) s

/-- 10 R257, 08 R212 to R216: `fmaxm` on f32, f64, two f16 or two bf16 values. -/
def execFmaxm (c : BitVec 1) (t : BitVec 2) (d : BitVec 7) (a : BitVec 7) (b : BitVec 7) (s : State) : Host.Outcome State Fault Refusal :=
  perform (useT c t d a b)
    (laneBody (fltLane .fmaxm t d a b)) s

/-- 10 R257, 08 R212 to R216: `fdiv` on f32, f64, two f16 or two bf16 values. On packed types it is an illegal word (09 R241). -/
def execFdiv (c : BitVec 1) (t : BitVec 2) (d : BitVec 7) (a : BitVec 7) (b : BitVec 7) (s : State) : Host.Outcome State Fault Refusal :=
  perform (useDiv c t d a b)
    (laneBody (fltLane .fdiv t d a b)) s

/-- 10 R258: a × b + d, rounded once. -/
def execFma (c : BitVec 1) (t : BitVec 2) (d : BitVec 7) (a : BitVec 7) (b : BitVec 7) (s : State) : Host.Outcome State Fault Refusal :=
  perform (useT c t d a b)
    (laneBody (fmaLane false false t d a b)) s

/-- 10 R258: a × b − d, rounded once. -/
def execFms (c : BitVec 1) (t : BitVec 2) (d : BitVec 7) (a : BitVec 7) (b : BitVec 7) (s : State) : Host.Outcome State Fault Refusal :=
  perform (useT c t d a b)
    (laneBody (fmaLane false true t d a b)) s

/-- 10 R258: −(a × b) + d, rounded once. -/
def execFnma (c : BitVec 1) (t : BitVec 2) (d : BitVec 7) (a : BitVec 7) (b : BitVec 7) (s : State) : Host.Outcome State Fault Refusal :=
  perform (useT c t d a b)
    (laneBody (fmaLane true false t d a b)) s

/-- 10 R258: −(a × b) − d, rounded once. -/
def execFnms (c : BitVec 1) (t : BitVec 2) (d : BitVec 7) (a : BitVec 7) (b : BitVec 7) (s : State) : Host.Outcome State Fault Refusal :=
  perform (useT c t d a b)
    (laneBody (fmaLane true true t d a b)) s

/-- 10 R259: conversion between f32 or f64 and any format. -/
def execCvt (c : BitVec 1) (t : BitVec 2) (d : BitVec 7) (a : BitVec 7) (f : BitVec 4) (m : BitVec 3) (s : State) : Host.Outcome State Fault Refusal :=
  perform (useCvt c t d a f m)
    (laneBody (cvtLane t d a f m)) s

/-- 10 R260: 1 / a, correctly rounded under rne or rtz. -/
def execRcp (c : BitVec 1) (t : BitVec 2) (d : BitVec 7) (a : BitVec 7) (m : BitVec 3) (s : State) : Host.Outcome State Fault Refusal :=
  perform (useSpecial c t d a m)
    (laneBody (specialLane .rcp t d a m)) s

/-- 10 R260: 1 / √a, correctly rounded under rne or rtz. -/
def execRsq (c : BitVec 1) (t : BitVec 2) (d : BitVec 7) (a : BitVec 7) (m : BitVec 3) (s : State) : Host.Outcome State Fault Refusal :=
  perform (useSpecial c t d a m)
    (laneBody (specialLane .rsq t d a m)) s

/-- 10 R260: √a, correctly rounded under rne or rtz. -/
def execSqrt (c : BitVec 1) (t : BitVec 2) (d : BitVec 7) (a : BitVec 7) (m : BitVec 3) (s : State) : Host.Outcome State Fault Refusal :=
  perform (useSpecial c t d a m)
    (laneBody (specialLane .sqrt t d a m)) s

/-- 10 R260: 2^a, correctly rounded under rne or rtz. -/
def execExp2 (c : BitVec 1) (t : BitVec 2) (d : BitVec 7) (a : BitVec 7) (m : BitVec 3) (s : State) : Host.Outcome State Fault Refusal :=
  perform (useSpecial c t d a m)
    (laneBody (specialLane .exp2 t d a m)) s

/-- 10 R260: log2 a, correctly rounded under rne or rtz. -/
def execLog2 (c : BitVec 1) (t : BitVec 2) (d : BitVec 7) (a : BitVec 7) (m : BitVec 3) (s : State) : Host.Outcome State Fault Refusal :=
  perform (useSpecial c t d a m)
    (laneBody (specialLane .log2 t d a m)) s

/-- 10 R260: sin(π·a), correctly rounded under rne or rtz. -/
def execSinp (c : BitVec 1) (t : BitVec 2) (d : BitVec 7) (a : BitVec 7) (m : BitVec 3) (s : State) : Host.Outcome State Fault Refusal :=
  perform (useSpecial c t d a m)
    (laneBody (specialLane .sinp t d a m)) s

/-- 10 R260: a rounded to an integral value, correctly rounded under rne or rtz. -/
def execRint (c : BitVec 1) (t : BitVec 2) (d : BitVec 7) (a : BitVec 7) (m : BitVec 3) (s : State) : Host.Outcome State Fault Refusal :=
  perform (useSpecial c t d a m)
    (laneBody (specialLane .rint t d a m)) s

end Sys2Proof.Machine
end

