-- ==== Sys2Proof/Machine/Int.lean ====
section
/-! DEFINITION. The integer words INT, INTI and INTD (10 R251 to R254). -/

namespace Sys2Proof.Machine

/-- The signed minimum. -/
def smin {w : Nat} (a b : BitVec w) : BitVec w := if a.slt b then a else b

/-- The signed maximum. -/
def smax {w : Nat} (a b : BitVec w) : BitVec w := if a.slt b then b else a

/-- The unsigned minimum. -/
def umin {w : Nat} (a b : BitVec w) : BitVec w := if a.ult b then a else b

/-- The unsigned maximum. -/
def umax {w : Nat} (a b : BitVec w) : BitVec w := if a.ult b then b else a

/-- The magnitude of the exact signed difference, as an unsigned value (10 R251). -/
def absDiff (a b : Word) : Word := if a.slt b then b - a else a - b

/-- The exact sum, or the difference, with the carry: the low 32 bits and p7 (10 R252). -/
def carryOut (add : Bool) (a b : Word) (c : Bool) : Word × Bool :=
  let k := if c then 1 else 0
  if add then (BitVec.ofNat 32 (a.toNat + b.toNat + k), decide (2 ^ 32 ≤ a.toNat + b.toNat + k))
  else (a - b - BitVec.ofNat 32 k, decide (a.toNat < b.toNat + k))

/-- `addc` and `subb`: every lane reads its own p7 and writes it (10 R252). -/
def carryBody (d a b : BitVec 7) (add : Bool) (v : Env) (s : State) : Res :=
  let r := fun l => carryOut add (v.src a l) (v.src b l) ((v.grp.pget 7).getLsbD l)
  .done ((s.modTeam v.r fun t => t.vset v.r.grp d.toNat v.em fun l => (r l).1).modGroup v.r fun x =>
    x.pset 7 v.em (maskOf fun l => (r l).2))

/-- 10 R251: a + b. -/
def execAdd (c : BitVec 1) (d : BitVec 7) (a : BitVec 7) (b : BitVec 7) (s : State) : Host.Outcome State Fault Refusal :=
  perform (useAbd c d a b)
    (lane32 d fun v l => (v.src a l) + (v.src b l)) s

/-- 10 R251: a − b. -/
def execSub (c : BitVec 1) (d : BitVec 7) (a : BitVec 7) (b : BitVec 7) (s : State) : Host.Outcome State Fault Refusal :=
  perform (useAbd c d a b)
    (lane32 d fun v l => (v.src a l) - (v.src b l)) s

/-- 10 R251: the low 32 bits of a × b. -/
def execMul (c : BitVec 1) (d : BitVec 7) (a : BitVec 7) (b : BitVec 7) (s : State) : Host.Outcome State Fault Refusal :=
  perform (useAbd c d a b)
    (lane32 d fun v l => (v.src a l) * (v.src b l)) s

/-- 10 R251: bits [63:32] of the exact signed product. -/
def execMulh (c : BitVec 1) (d : BitVec 7) (a : BitVec 7) (b : BitVec 7) (s : State) : Host.Outcome State Fault Refusal :=
  perform (useAbd c d a b)
    (lane32 d fun v l => ((v.src a l).signExtend 64 * (v.src b l).signExtend 64).extractLsb' 32 32) s

/-- 10 R251: bits [63:32] of the exact unsigned product. -/
def execMulhu (c : BitVec 1) (d : BitVec 7) (a : BitVec 7) (b : BitVec 7) (s : State) : Host.Outcome State Fault Refusal :=
  perform (useAbd c d a b)
    (lane32 d fun v l => ((v.src a l).setWidth 64 * (v.src b l).setWidth 64).extractLsb' 32 32) s

/-- 10 R251: the signed minimum. -/
def execMin (c : BitVec 1) (d : BitVec 7) (a : BitVec 7) (b : BitVec 7) (s : State) : Host.Outcome State Fault Refusal :=
  perform (useAbd c d a b)
    (lane32 d fun v l => smin (v.src a l) (v.src b l)) s

/-- 10 R251: the signed maximum. -/
def execMax (c : BitVec 1) (d : BitVec 7) (a : BitVec 7) (b : BitVec 7) (s : State) : Host.Outcome State Fault Refusal :=
  perform (useAbd c d a b)
    (lane32 d fun v l => smax (v.src a l) (v.src b l)) s

/-- 10 R251: the unsigned minimum. -/
def execMinu (c : BitVec 1) (d : BitVec 7) (a : BitVec 7) (b : BitVec 7) (s : State) : Host.Outcome State Fault Refusal :=
  perform (useAbd c d a b)
    (lane32 d fun v l => umin (v.src a l) (v.src b l)) s

/-- 10 R251: the unsigned maximum. -/
def execMaxu (c : BitVec 1) (d : BitVec 7) (a : BitVec 7) (b : BitVec 7) (s : State) : Host.Outcome State Fault Refusal :=
  perform (useAbd c d a b)
    (lane32 d fun v l => umax (v.src a l) (v.src b l)) s

/-- 10 R251: bitwise and. -/
def execAnd (c : BitVec 1) (d : BitVec 7) (a : BitVec 7) (b : BitVec 7) (s : State) : Host.Outcome State Fault Refusal :=
  perform (useAbd c d a b)
    (lane32 d fun v l => (v.src a l) &&& (v.src b l)) s

/-- 10 R251: bitwise or. -/
def execOr (c : BitVec 1) (d : BitVec 7) (a : BitVec 7) (b : BitVec 7) (s : State) : Host.Outcome State Fault Refusal :=
  perform (useAbd c d a b)
    (lane32 d fun v l => (v.src a l) ||| (v.src b l)) s

/-- 10 R251: bitwise exclusive or. -/
def execXor (c : BitVec 1) (d : BitVec 7) (a : BitVec 7) (b : BitVec 7) (s : State) : Host.Outcome State Fault Refusal :=
  perform (useAbd c d a b)
    (lane32 d fun v l => (v.src a l) ^^^ (v.src b l)) s

/-- 10 R251: a and not b. -/
def execAndn (c : BitVec 1) (d : BitVec 7) (a : BitVec 7) (b : BitVec 7) (s : State) : Host.Outcome State Fault Refusal :=
  perform (useAbd c d a b)
    (lane32 d fun v l => (v.src a l) &&& ~~~(v.src b l)) s

/-- 10 R251: a or not b. -/
def execOrn (c : BitVec 1) (d : BitVec 7) (a : BitVec 7) (b : BitVec 7) (s : State) : Host.Outcome State Fault Refusal :=
  perform (useAbd c d a b)
    (lane32 d fun v l => (v.src a l) ||| ~~~(v.src b l)) s

/-- 10 R251: a shifted left by b[4:0]. -/
def execShl (c : BitVec 1) (d : BitVec 7) (a : BitVec 7) (b : BitVec 7) (s : State) : Host.Outcome State Fault Refusal :=
  perform (useAbd c d a b)
    (lane32 d fun v l => (v.src a l) <<< ((v.src b l).toNat % 32)) s

/-- 10 R251: a shifted right by b[4:0], zero-filled. -/
def execShr (c : BitVec 1) (d : BitVec 7) (a : BitVec 7) (b : BitVec 7) (s : State) : Host.Outcome State Fault Refusal :=
  perform (useAbd c d a b)
    (lane32 d fun v l => (v.src a l) >>> ((v.src b l).toNat % 32)) s

/-- 10 R251: a shifted right by b[4:0], sign-filled. -/
def execSra (c : BitVec 1) (d : BitVec 7) (a : BitVec 7) (b : BitVec 7) (s : State) : Host.Outcome State Fault Refusal :=
  perform (useAbd c d a b)
    (lane32 d fun v l => (v.src a l).sshiftRight ((v.src b l).toNat % 32)) s

/-- 10 R251: a rotated left by b[4:0]. -/
def execRotl (c : BitVec 1) (d : BitVec 7) (a : BitVec 7) (b : BitVec 7) (s : State) : Host.Outcome State Fault Refusal :=
  perform (useAbd c d a b)
    (lane32 d fun v l => (v.src a l).rotateLeft ((v.src b l).toNat % 32)) s

/-- 10 R251: a rotated right by b[4:0]. -/
def execRotr (c : BitVec 1) (d : BitVec 7) (a : BitVec 7) (b : BitVec 7) (s : State) : Host.Outcome State Fault Refusal :=
  perform (useAbd c d a b)
    (lane32 d fun v l => (v.src a l).rotateRight ((v.src b l).toNat % 32)) s

/-- 10 R252: a + b + p7; p7 takes bit 32 of the exact sum. -/
def execAddc (c : BitVec 1) (d : BitVec 7) (a : BitVec 7) (b : BitVec 7) (s : State) : Host.Outcome State Fault Refusal :=
  perform (useCarry c d a b)
    (carryBody d a b true) s

/-- 10 R252: a − b − p7; p7 is true when the exact difference is negative. -/
def execSubb (c : BitVec 1) (d : BitVec 7) (a : BitVec 7) (b : BitVec 7) (s : State) : Host.Outcome State Fault Refusal :=
  perform (useCarry c d a b)
    (carryBody d a b false) s

/-- 10 R251: the magnitude of the exact signed difference. -/
def execAbsd (c : BitVec 1) (d : BitVec 7) (a : BitVec 7) (b : BitVec 7) (s : State) : Host.Outcome State Fault Refusal :=
  perform (useAbd c d a b)
    (lane32 d fun v l => absDiff (v.src a l) (v.src b l)) s

/-- 10 R253: a + i. -/
def execAddi (c : BitVec 1) (d : BitVec 7) (a : BitVec 7) (imm : BitVec 9) (s : State) : Host.Outcome State Fault Refusal :=
  perform (useAd c d a)
    (lane32 d fun v l => (v.src a l) + (imm.signExtend 32)) s

/-- 10 R253: a and i. -/
def execAndi (c : BitVec 1) (d : BitVec 7) (a : BitVec 7) (imm : BitVec 9) (s : State) : Host.Outcome State Fault Refusal :=
  perform (useAd c d a)
    (lane32 d fun v l => (v.src a l) &&& (imm.signExtend 32)) s

/-- 10 R253: a or i. -/
def execOri (c : BitVec 1) (d : BitVec 7) (a : BitVec 7) (imm : BitVec 9) (s : State) : Host.Outcome State Fault Refusal :=
  perform (useAd c d a)
    (lane32 d fun v l => (v.src a l) ||| (imm.signExtend 32)) s

/-- 10 R253: a xor i. -/
def execXori (c : BitVec 1) (d : BitVec 7) (a : BitVec 7) (imm : BitVec 9) (s : State) : Host.Outcome State Fault Refusal :=
  perform (useAd c d a)
    (lane32 d fun v l => (v.src a l) ^^^ (imm.signExtend 32)) s

/-- 10 R253: a shifted left by the count. -/
def execShli (c : BitVec 1) (d : BitVec 7) (a : BitVec 7) (imm : BitVec 5) (s : State) : Host.Outcome State Fault Refusal :=
  perform (useAd c d a)
    (lane32 d fun v l => (v.src a l) <<< imm.toNat) s

/-- 10 R253: a shifted right, zero-filled. -/
def execShri (c : BitVec 1) (d : BitVec 7) (a : BitVec 7) (imm : BitVec 5) (s : State) : Host.Outcome State Fault Refusal :=
  perform (useAd c d a)
    (lane32 d fun v l => (v.src a l) >>> imm.toNat) s

/-- 10 R253: a shifted right, sign-filled. -/
def execSrai (c : BitVec 1) (d : BitVec 7) (a : BitVec 7) (imm : BitVec 5) (s : State) : Host.Outcome State Fault Refusal :=
  perform (useAd c d a)
    (lane32 d fun v l => (v.src a l).sshiftRight imm.toNat) s

/-- 10 R253: the low 32 bits of a × i. -/
def execMuli (c : BitVec 1) (d : BitVec 7) (a : BitVec 7) (imm : BitVec 9) (s : State) : Host.Outcome State Fault Refusal :=
  perform (useAd c d a)
    (lane32 d fun v l => (v.src a l) * (imm.signExtend 32)) s

/-- 10 R254: a + b, on 64-bit values. -/
def execAddD (c : BitVec 1) (d : BitVec 7) (a : BitVec 7) (b : BitVec 7) (s : State) : Host.Outcome State Fault Refusal :=
  perform (useAbd2 c d a b)
    (lane64 d fun v l => (v.src2 a l) + (v.src2 b l)) s

/-- 10 R254: a − b, on 64-bit values. -/
def execSubD (c : BitVec 1) (d : BitVec 7) (a : BitVec 7) (b : BitVec 7) (s : State) : Host.Outcome State Fault Refusal :=
  perform (useAbd2 c d a b)
    (lane64 d fun v l => (v.src2 a l) - (v.src2 b l)) s

/-- 10 R254: the low 64 bits of a × b, on 64-bit values. -/
def execMulD (c : BitVec 1) (d : BitVec 7) (a : BitVec 7) (b : BitVec 7) (s : State) : Host.Outcome State Fault Refusal :=
  perform (useAbd2 c d a b)
    (lane64 d fun v l => (v.src2 a l) * (v.src2 b l)) s

/-- 10 R254: bits [127:64] of the exact signed product, on 64-bit values. -/
def execMulhD (c : BitVec 1) (d : BitVec 7) (a : BitVec 7) (b : BitVec 7) (s : State) : Host.Outcome State Fault Refusal :=
  perform (useAbd2 c d a b)
    (lane64 d fun v l => ((v.src2 a l).signExtend 128 * (v.src2 b l).signExtend 128).extractLsb' 64 64) s

/-- 10 R254: bits [127:64] of the exact unsigned product, on 64-bit values. -/
def execMulhuD (c : BitVec 1) (d : BitVec 7) (a : BitVec 7) (b : BitVec 7) (s : State) : Host.Outcome State Fault Refusal :=
  perform (useAbd2 c d a b)
    (lane64 d fun v l => ((v.src2 a l).setWidth 128 * (v.src2 b l).setWidth 128).extractLsb' 64 64) s

/-- 10 R254: the signed minimum, on 64-bit values. -/
def execMinD (c : BitVec 1) (d : BitVec 7) (a : BitVec 7) (b : BitVec 7) (s : State) : Host.Outcome State Fault Refusal :=
  perform (useAbd2 c d a b)
    (lane64 d fun v l => smin (v.src2 a l) (v.src2 b l)) s

/-- 10 R254: the signed maximum, on 64-bit values. -/
def execMaxD (c : BitVec 1) (d : BitVec 7) (a : BitVec 7) (b : BitVec 7) (s : State) : Host.Outcome State Fault Refusal :=
  perform (useAbd2 c d a b)
    (lane64 d fun v l => smax (v.src2 a l) (v.src2 b l)) s

/-- 10 R254: the unsigned minimum, on 64-bit values. -/
def execMinuD (c : BitVec 1) (d : BitVec 7) (a : BitVec 7) (b : BitVec 7) (s : State) : Host.Outcome State Fault Refusal :=
  perform (useAbd2 c d a b)
    (lane64 d fun v l => umin (v.src2 a l) (v.src2 b l)) s

/-- 10 R254: the unsigned maximum, on 64-bit values. -/
def execMaxuD (c : BitVec 1) (d : BitVec 7) (a : BitVec 7) (b : BitVec 7) (s : State) : Host.Outcome State Fault Refusal :=
  perform (useAbd2 c d a b)
    (lane64 d fun v l => umax (v.src2 a l) (v.src2 b l)) s

/-- 10 R254: bitwise and, on 64-bit values. -/
def execAndD (c : BitVec 1) (d : BitVec 7) (a : BitVec 7) (b : BitVec 7) (s : State) : Host.Outcome State Fault Refusal :=
  perform (useAbd2 c d a b)
    (lane64 d fun v l => (v.src2 a l) &&& (v.src2 b l)) s

/-- 10 R254: bitwise or, on 64-bit values. -/
def execOrD (c : BitVec 1) (d : BitVec 7) (a : BitVec 7) (b : BitVec 7) (s : State) : Host.Outcome State Fault Refusal :=
  perform (useAbd2 c d a b)
    (lane64 d fun v l => (v.src2 a l) ||| (v.src2 b l)) s

/-- 10 R254: bitwise exclusive or, on 64-bit values. -/
def execXorD (c : BitVec 1) (d : BitVec 7) (a : BitVec 7) (b : BitVec 7) (s : State) : Host.Outcome State Fault Refusal :=
  perform (useAbd2 c d a b)
    (lane64 d fun v l => (v.src2 a l) ^^^ (v.src2 b l)) s

/-- 10 R254: a shifted left by b[5:0], on 64-bit values. -/
def execShlD (c : BitVec 1) (d : BitVec 7) (a : BitVec 7) (b : BitVec 7) (s : State) : Host.Outcome State Fault Refusal :=
  perform (useAbd2 c d a b)
    (lane64 d fun v l => (v.src2 a l) <<< ((v.src2 b l).toNat % 64)) s

/-- 10 R254: a shifted right by b[5:0], zero-filled, on 64-bit values. -/
def execShrD (c : BitVec 1) (d : BitVec 7) (a : BitVec 7) (b : BitVec 7) (s : State) : Host.Outcome State Fault Refusal :=
  perform (useAbd2 c d a b)
    (lane64 d fun v l => (v.src2 a l) >>> ((v.src2 b l).toNat % 64)) s

/-- 10 R254: a shifted right by b[5:0], sign-filled, on 64-bit values. -/
def execSraD (c : BitVec 1) (d : BitVec 7) (a : BitVec 7) (b : BitVec 7) (s : State) : Host.Outcome State Fault Refusal :=
  perform (useAbd2 c d a b)
    (lane64 d fun v l => (v.src2 a l).sshiftRight ((v.src2 b l).toNat % 64)) s

end Sys2Proof.Machine
end

