-- ==== Sys2Proof/Machine/Mem.lean ====
section
/-! DEFINITION. Loads, stores, atomics, `rld` and `rfence` (11 R279 to R288, 01 R21 to R36). -/

namespace Sys2Proof.Machine

/-! ## Buffer records (01 R21, R25) -/

/-- A buffer record as a q register holds it, with its place in physical coordinates (01 R21, R26). -/
structure Buf where
  base : Nat
  extent : Nat
  stride : Nat
  tw : Nat
  oob : Bool
  at_ : Bool
  wr : Bool
  rd : Bool
  pcol : Nat
  prow : Nat
  space : Nat
  swz : Nat
  esize : Nat
  rowlen : Nat

/-- A field of an image: `n` bits from bit `lo`. -/
def field {w : Nat} (x : BitVec w) (lo n : Nat) : Nat := x.toNat / 2 ^ lo % 2 ^ n

/-- Decodes a buffer image (01 R21). -/
def bufOf (x : BitVec 512) : Buf :=
  { base := field x 0 56, extent := field x 96 32, stride := field x 64 32, tw := field x 150 4, oob := field x 145 1 = 1,
    at_ := field x 144 1 = 1, wr := field x 143 1 = 1, rd := field x 142 1 = 1, pcol := field x 139 3, prow := field x 135 4,
    space := field x 133 2, swz := field x 131 2, esize := field x 128 3, rowlen := field x 192 32 }

/-- Interleave (01 R25). -/
def interleave (x y : Nat) : Nat :=
  (List.range 5).foldl (fun e b => e + (x / 2 ^ b % 2) * 2 ^ (2 * b) + (y / 2 ^ b % 2) * 2 ^ (2 * b + 1)) 0

/-- XorBank (01 R25). -/
def xorBank (off : Nat) : Nat := off ^^^ (off / 128 % 8 * 16)

/-- BufferOffset (01 R25). -/
def Buf.offset (q : Buf) (i : Nat) : Nat :=
  if q.swz = 2 then
    let t := 2 ^ q.tw
    let y := i / q.rowlen
    let x := i % q.rowlen
    ((y / t * (q.rowlen / t) + x / t) * t * t + interleave (x % t) (y % t)) * q.stride
  else if q.swz = 1 then xorBank (i * q.stride)
  else i * q.stride

/-! ## Windows (01 R13, R14, R20, R464) -/

/-- The window of a team: its core, slot and bind record. -/
structure Win where
  core : Nat
  slot : Nat
  bind : BindRec
  deriving DecidableEq, Repr

/-- What a record of SPACE 1 or 2 reaches: a window, a member that has not started or is saved, or a member that is gone. -/
inductive WinRes where
  | here (w : Win)
  | stalled
  | gone
  deriving DecidableEq, Repr

/-- The window of cluster member (i, j) of a team (01 R20, R464, 15 R413). -/
def State.memberWin (s : State) (t : Team) (slot i j : Nat) : WinRes :=
  let m := s.memberState t slot i j
  if m.1 = 0 then .stalled
  else if m.1 = 2 then .gone
  else
    let c := s.memberCore t i j
    match (s.core c).team? m.2 with
    | none => .stalled
    | some u => if u.save = .saving ∨ u.save = .saved ∨ u.save = .again then .stalled else .here ⟨c, m.2, u.bind⟩

/-- The window that a record of a group's team reaches (01 R11). -/
def State.placeWin (s : State) (t : Team) (r : GroupRef) (space prow pcol : Nat) : WinRes :=
  if space = 1 then .here ⟨r.core, r.slot, t.bind⟩
  else match s.memberAt t (coreAt (dieOf r.core) prow pcol) with
    | none => .gone
    | some (i, j) => s.memberWin t r.slot i j

/-- The window a record reaches (01 R11). -/
def winOf (v : Env) (s : State) (space prow pcol : Nat) : WinRes := s.placeWin v.team v.r space prow pcol

/-- Whether two byte ranges overlap. -/
def overlaps (a n b m : Nat) : Bool := a < b + m && b < a + n

/-- Whether bytes of a window lie in the storage of an enabled queue or in the task range of its team (01 R14, 02 R44). -/
def State.queueStorage (s : State) (w : Win) (off n : Nat) : Bool :=
  (s.core w.core).queues.any (fun nq => match nq.2 with
    | none => false
    | some q => q.en && q.owner = w.slot && overlaps off n q.base.toNat (2 ^ q.lcap.toNat * (4 * 2 ^ q.esz.toNat))) ||
  (w.bind.ten && overlaps off n w.bind.toff (w.bind.tcap * 64 + 128))

/-- Whether bytes of a window lie in an armed stage barrier (02 R70). -/
def State.armedBytes (s : State) (w : Win) (off n : Nat) : Bool :=
  (s.core w.core).armed.any fun a => a.1 = w.slot && overlaps off n a.2.1 32

/-- Whether a lane or an engine may reach bytes of a window. -/
def State.windowOk (s : State) (w : Win) (off n : Nat) : Bool :=
  off + n ≤ w.bind.spsize && !s.queueStorage w off n && !s.armedBytes w off n

/-! ## From index to address (01 R32 to R34) -/

/-- What the address unit answers for one lane. -/
inductive LaneAddr where
  | ok (addr : Nat)
  | suppressed
  | trap (t : Trap)
  deriving DecidableEq

/-- The checks of one lane's access of width `w` at index `i`, in order (01 R32). `win` is the window of a scratchpad record;
none is a member that is gone. -/
def laneAddr (s : State) (q : Buf) (win : Option Win) (w l i : Nat) : LaneAddr :=
  if q.extent ≤ i ∨ 2 ^ q.esize < w then
    if q.oob then .suppressed else .trap (.atLane 2 0 l i)
  else
    let a := q.base + q.offset i
    let bad : Option Trap :=
      if q.space = 0 then (if 2 ^ 56 ≤ a then some (.atLane 3 1 l a) else none)
      else match win with
        | none => some (.atLane 0 3 l 0)
        | some x => if s.windowOk x a w then none else some (.atLane 4 0 l a)
    match bad with
    | some t => .trap t
    | none => if a % w = 0 then .ok a else .trap (.atLane 5 0 l a)

/-! ## What a memory word does with the bytes it reaches -/

/-- Writes `val` to the `n` registers from `d` in the lanes of `m`, low word first. -/
def putWords (t : Team) (g d n : Nat) (m : Lanes) (val : Nat) : Team :=
  (List.range n).foldl (fun t k => t.vset g (d + k) m fun _ => BitVec.ofNat 32 (val / 2 ^ (32 * k))) t

/-- The bytes of `val` named by a mask; the others are zero. -/
def keepBytes (bytes : BitVec 16) (val : Nat) : Nat :=
  (List.range 16).foldl (fun x k => if bytes.getLsbD k then x + val / 256 ^ k % 256 * 256 ^ k else x) 0

/-- Writes what one access read to the registers of the word, in the lanes of `m` (11 R281, R283, R284, R286). -/
def MemOp.put (op : MemOp) (a : Access) (m : Lanes) (val g : Nat) (t : Team) : Team :=
  match op with
  | .load d w sg =>
    if w < 4 then
      t.vset g d m fun _ =>
        if sg then (BitVec.ofNat (8 * w) val).signExtend 32 else BitVec.ofNat 32 (val % 2 ^ (8 * w))
    else putWords t g d (w / 4) m val
  | .lineLoad _ _ => t.vset g a.reg m fun _ => BitVec.ofNat 32 (keepBytes a.bytes val)
  | .uniLoad d _ => t.modGroup g fun x => x.sset d (BitVec.ofNat 64 val)
  | .atomic _ dbl (some d) _ _ => putWords t g d (if dbl then 2 else 1) m val
  | .atomic _ _ none _ _ => t
  | .store _ => t
  | .rld _ _ _ _ _ => t

/-- The new value of an atomic, or none where nothing is written (11 R287); `bits` is 32 or 64. -/
def atomNew (fn : BitVec 4) (bits old a b : Nat) : Option Nat :=
  let g : FloatFmt := tyFmt (if bits = 64 then 1 else 0)
  let x := BitVec.ofNat bits old
  let y := BitVec.ofNat bits a
  match fn.toNat with
  | 0 => some (x + y).toNat
  | 1 => some (x - y).toNat
  | 2 => some (x &&& y).toNat
  | 3 => some (x ||| y).toNat
  | 4 => some (x ^^^ y).toNat
  | 5 => some (smin x y).toNat
  | 6 => some (smax x y).toNat
  | 7 => some (umin x y).toNat
  | 8 => some (umax x y).toNat
  | 9 => some y.toNat
  | 10 => if x = y then some (BitVec.ofNat bits b).toNat else none
  | 11 => some (g.flt .fadd false .rne 0 x.toNat y.toNat).1
  | 12 => some (g.flt .fmin false .rne 0 x.toNat y.toNat).1
  | 13 => some (g.flt .fmax false .rne 0 x.toNat y.toNat).1
  | 14 => none
  | _ => some y.toNat

/-- The number of bits of an atomic's location. -/
def MemOp.atomBits : MemOp → Nat
  | .atomic _ true _ _ _ => 64
  | _ => 32

/-- The new value that an access of an atomic word writes. -/
def MemOp.newValue (op : MemOp) (a : Access) (old : Nat) : Option Nat :=
  match op with
  | .atomic fn _ _ _ _ => atomNew fn op.atomBits old a.data.toNat a.data2.toNat
  | _ => none

/-- One access performed in a scratchpad at physical offset `at_` (04 R108). -/
def State.scratchAccess (s : State) (r : GroupRef) (c at_ : Nat) (op : MemOp) (a : Access) (m : Lanes) : State :=
  match op with
  | .store _ => s.modCore c fun k =>
      { k with scratch := k.scratch.writeMasked a.width at_ a.data.toNat a.bytes.toNat
               scratchPsn := if k.scratchPsn.isEmpty then [] else k.scratchPsn.filter fun p =>
                 !(a.bytes.toNat = 2 ^ a.width - 1 && (wholeGranules at_ a.width).contains p) }
  | .atomic _ _ _ _ _ =>
    let old := s.scratchRead c a.width at_
    let s1 := match op.newValue a old with
      | none => s
      | some x => s.scratchWrite c a.width at_ x
    s1.modTeam r fun t => op.put a m old r.grp t
  | _ => s.modTeam r fun t => op.put a m (s.scratchRead c a.width at_) r.grp t

/-! ## The operand log (15 R408) -/

/-- The lowest free place of the four. -/
def Group.logSlot (x : Group) : Nat := ([0, 1, 2, 3].find? fun k => x.log.all fun n => n.slot ≠ k).getD 0

/-- The lines that accesses touch, in ascending order of the lowest lane that touches each (01 R32). -/
def linesOf (accs : List Access) : List Nat :=
  accs.foldl (fun ls a => if ls.contains (a.addr / 128) then ls else ls ++ [a.addr / 128]) []

/-- Whether an older logged word may still touch a line that these accesses touch (04 R112). The low 16 bits of an address
are the same in every translation of it (06 R159). -/
def Group.lineBusy (x : Group) (accs : List Access) : Bool :=
  x.log.any fun n => n.accs.any fun b => accs.any fun a => a.addr / 128 % 512 = b.addr / 128 % 512

/-- A line of a logged word is requested, or a store to it is on its way (03 R84, R103). -/
def State.sendLine (s : State) (r : GroupRef) (op : MemOp) (seq vline : Nat) : State :=
  match op with
  | .store _ => s.postOnce (.laneStorePerform r seq vline)
  | .rld _ _ _ _ _ => s.postOnce (.rldFill r seq)
  | _ => s.postOnce (.lineDataArrive r seq vline)

/-- A global word takes an entry of the operand log and sends its lines (15 R408, 11 R281). -/
def logWord (v : Env) (op : MemOp) (accs : List Access) (done : Lanes) (lowest acquire sweeps wide : Bool)
    (cls : FretClass) (s : State) : State :=
  let f := s.fretOf v cls
  let x := liveGroup v s
  let n : LogEntry :=
    { word := (s.codeWord v.part v.pc).getD 0, pc := BitVec.ofNat 56 v.pc, mask := v.em, done := done, op := op, accs := accs,
      hyp := v.lanes.foldl (fun t l => t.set 0 l (x.hyp.get 0 l)) [], lowest := lowest, fret := f, acquire := acquire, sweeps := sweeps,
      plainWide := wide, seq := x.nextLog, slot := x.logSlot, fault := none, filled := [] }
  let s1 := s.modGroup v.r fun x => { x.fretUp f with log := x.log ++ [n], nextLog := x.nextLog + 1 }
  (linesOf accs).foldl (fun s l => s.sendLine v.r op n.seq l) s1

/-! ## Loads, stores and atomics -/

/-- A memory word: the permission it needs (0 read, 1 write, 2 atomic), what it does, its width (none: that of the record's
element, at most 8), its index operand, its data, its ordering and its fret class. -/
structure MemWord where
  need : Nat
  op : Nat → MemOp
  width : Option Nat
  q : Nat
  x : Nat
  data : Env → Nat → BitVec 128
  data2 : Env → Nat → BitVec 128
  acquire : Bool
  release : Bool
  sc : Nat
  wide : Bool
  cls : FretClass

/-- The element index of a lane (01 R32). -/
def indexOf (v : Env) (x l : Nat) : Nat := (v.src (BitVec.ofNat 7 x) l).toNat

/-- The q register of a memory word after the checks of 01 R31. -/
def checkedBuf (v : Env) (q need : Nat) : Option Buf :=
  match v.grp.qget q with
  | none => none
  | some x =>
    let b := bufOf x.img
    if x.tensor then none
    else if (if need = 0 then b.rd else if need = 1 then b.wr else b.at_) then some b else none

/-- The leaf through which a die translates an address: cached, or by a walk (06 R162). -/
def State.leafFor (s : State) (die part va : Nat) : Option (DWord × Nat) :=
  match s.cachedLeaf die part va with
  | some l => some (l.pte, l.bits)
  | none =>
    match s.walk part va with
    | .leaf e b _ => some (e, b)
    | .fault _ => none

/-- The first access of a store or atomic under a hypothesis to a forwarded line (05 R142). -/
def hypRemote (v : Env) (s : State) (need : Nat) (accs : List Access) : Option Access :=
  if need = 0 then none
  else accs.find? fun a =>
    (liveGroup v s).hypOf a.lane ≠ 0 &&
      match s.leafFor (dieOf v.r.core) v.part a.addr with
      | none => false
      | some (e, b) => placeOf (leafAddr e b a.addr) ≠ .hbm

/-- The first lane whose access reads a poisoned granule of a scratchpad (02 R74). -/
def poisonLane (s : State) (c base : Nat) (need : Nat) (accs : List Access) : Option Nat :=
  if need = 1 then none
  else (accs.find? fun a => s.scratchPoisoned c a.width (base + a.addr)).map (·.lane)

/-- Whether a word's ordering makes its later accesses wait for a sweep (04 R121, R124). -/
def acquireSweep (acquire : Bool) (sc : Nat) (v : Env) (s : State) : State :=
  if acquire && 5 ≤ sc then s.startSweep v.r true else s

/-- Whether an older `rld` of the group still has to read scratchpad bytes that an access names (04 R112). -/
def Group.rldOver (x : Group) (spbase : Nat) (core self : Nat) (base : Nat) (accs : List Access) : Bool :=
  core = self && x.log.any fun n => match n.op, n.accs with
    | .rld _ t true _ none, b :: _ => accs.any fun a =>
        decide (base + a.addr < spbase + b.addr + (if t then 64 else 32)) && decide (spbase + b.addr < base + a.addr + a.width)
    | _, _ => false

/-- The lanes of an atomic word that are performed before another agent's operation falls between two lanes on one location, if one
does: a free choice (11 R288). A chain performs all of them at once. -/
def State.atomicSplit (s : State) (accs : List Access) : Option (List Access × List Access) :=
  let k := Config.choice s.choices % accs.length
  if s.snap.isSome || (accs.map (·.addr)).eraseDups.length = accs.length || k = 0 then none else some (accs.splitAt k)

/-- The accesses of a word are performed in a window or sent to memory. `zero` are the lanes whose access is suppressed; their
destinations receive zero (01 R33). -/
def performAccs (need : Nat) (op : MemOp) (accs : List Access) (zero : Lanes) (lowest acquire wide : Bool) (sc : Nat)
    (cls : FretClass) (win : Option Win) (v : Env) (s : State) : Res :=
  let blank : Access := ⟨0, 0, 16, 0, 0, 0, 0⟩
  let s1 := if need = 1 ∨ zero = 0 then s
    else s.modTeam v.r fun t => op.put blank (if lowest then v.em else zero) 0 v.r.grp t
  match win with
  | some w =>
    match poisonLane s w.core w.bind.spbase need accs with
    | some l => dataError v s (some l)
    | none =>
      let run := fun (s : State) (as : List Access) => as.foldl (init := s) fun s a =>
        s.scratchAccess v.r w.core (w.bind.spbase + a.addr) op a (if lowest then v.em else oneLane a.lane)
      if need ≠ 0 && (liveGroup v s).rldOver v.team.bind.spbase v.r.core w.core w.bind.spbase accs then .wait
      else match if need = 2 then s.atomicSplit accs else none with
        | some (now, later) => .part { run s1 now with choices := s.choices + 1 } (maskOf fun l => later.any fun a => a.lane = l)
        | none => .done (acquireSweep acquire sc v (run s1 accs))
  | none =>
    if accs.isEmpty then .done s1
    else if 4 ≤ (liveGroup v s).log.length || (liveGroup v s).lineBusy accs then .wait
    else match hypRemote v s need accs with
      | some a => .trap (.atLane 4 8 a.lane 0)
      | none => .done (logWord v op accs (if lowest then 0 else zero) lowest acquire (acquire && 5 ≤ sc) wide cls s1)

/-- A load, store or atomic word (11 R281, R284, R287). -/
def memBody (m : MemWord) (v : Env) (s : State) : Res :=
  match checkedBuf v m.q m.need with
  | none => .trap (.atIssue 4 0)
  | some q =>
    let w := m.width.getD (Nat.min (2 ^ q.esize) 8)
    let lowest := 96 ≤ m.x
    let lanes := if lowest then [lowestLane v.em] else v.lanes
    let win : Option WinRes := if q.space = 0 then none else some (winOf v s q.space q.prow q.pcol)
    match win with
    | some .stalled => .wait
    | _ =>
      let here := match win with
        | some (.here x) => some x
        | _ => none
      let rs := lanes.map fun l => (l, laneAddr s q here w l (indexOf v m.x l))
      let traps := rs.filterMap fun lr => match lr.2 with
        | .trap t => some t
        | _ => none
      match traps with
      | t :: _ => .trap t
      | [] =>
        if s.orderHeld v (m.need ≠ 0) then .wait
        else if m.release && !s.released v m.sc then .wait
        else
          let accs := rs.filterMap fun lr => match lr.2 with
            | .ok a => some ⟨lr.1, a, w, m.data v lr.1, m.data2 v lr.1, BitVec.ofNat 16 (2 ^ w - 1), 0⟩
            | _ => none
          let zero := maskOf fun l => rs.any fun lr => lr.1 = l && lr.2 = .suppressed
          performAccs m.need (m.op w) accs zero lowest m.acquire m.wide m.sc m.cls here v s

/-! ## Line words (11 R283) -/

/-- N of a line word. -/
def lineCount (v : Env) (x : BitVec 5) : Nat := ((v.grp.sget x.toNat).extractLsb' 32 5).toNat + 1

/-- The end of the block of a register. -/
def blockEnd (d : Nat) : Nat := if d < 32 then 32 else 96

/-- Whether the bytes of a line word lie where they may: below 2^56, or inside the window. -/
def lineBytesTrap (s : State) (q : Buf) (win : Option Win) (a n : Nat) : Option Trap :=
  if n = 0 then none
  else if q.space = 0 then
    if 2 ^ 56 ≤ a + n - 1 then some ⟨3, 1, none, a, 0, false, 0⟩ else none
  else match win with
    | none => some (.atIssue 0 3)
    | some w => if s.windowOk w a n then none else some ⟨4, 0, none, a, 0, false, 0⟩

/-- `ldl` and `stl` (11 R283). -/
def lineBody (load : Bool) (o : BitVec 1) (sc : BitVec 3) (d : BitVec 7) (qn : BitVec 4) (xr : BitVec 5) (v : Env)
    (s : State) : Res :=
  let n := lineCount v xr
  if blockEnd d.toNat < d.toNat + n then .trap (.atIssue 1 0)
  else match checkedBuf v qn.toNat (if load then 0 else 1) with
    | none => .trap (.atIssue 4 0)
    | some q =>
      let eb := 2 ^ q.esize
      let i := (v.grp.sget xr.toNat).toNat % 2 ^ 32
      let a0 := q.base + i * eb
      let inside := Nat.min (128 * n) ((q.extent - i) * eb)
      if q.swz ≠ 0 ∨ q.stride ≠ eb then .trap (.atIssue 4 9)
      else if a0 % 128 ≠ 0 then .trap ⟨5, 0, none, a0, 0, false, 0⟩
      else if !q.oob && inside < 128 * n then .trap ⟨2, 0, none, max i q.extent, 0, false, 0⟩
      else
        let win : Option WinRes := if q.space = 0 then none else some (winOf v s q.space q.prow q.pcol)
        match win with
        | some .stalled => .wait
        | _ =>
          let here := match win with
            | some (.here x) => some x
            | _ => none
          match lineBytesTrap s q here a0 inside with
          | some t => .trap t
          | none =>
            if s.orderHeld v (!load) then .wait
            else if !load && o = 1 && !s.released v sc.toNat then .wait
            else
              let all : List Access := (List.range n).flatMap fun k => v.lanes.map fun l =>
                let off := 128 * k + 4 * l
                let nv := Nat.min 4 (inside - off)
                { lane := l, addr := a0 + off, width := 4,
                  data := if load then 0 else (v.team.vget v.r.grp (d.toNat + k) l).setWidth 128, data2 := 0,
                  bytes := BitVec.ofNat 16 (2 ^ nv - 1), reg := d.toNat + k }
              let op : MemOp := if load then .lineLoad d.toNat n else .store 4
              let accs := all.filter fun a => a.bytes ≠ 0
              let s1 := if load then
                  (all.filter fun a => a.bytes = 0).foldl (init := s) fun s a =>
                    s.modTeam v.r fun t => op.put a (oneLane a.lane) 0 v.r.grp t
                else s
              match performAccs (if load then 0 else 1) op accs 0 false (load && o = 1) (load && o = 0 && 5 ≤ sc.toNat)
                  sc.toNat (if load then .a else .none) here v s1 with
              | .wait => .wait
              | r => r

/-- Performs a line word with the registers that N names (11 R283). -/
def execLine (load : Bool) (c : BitVec 1) (o : BitVec 1) (sc : BitVec 3) (d : BitVec 7) (q : BitVec 4) (x : BitVec 5)
    (use : Nat → Use) (s : State) : Host.Outcome State Fault Refusal :=
  match s.env with
  | none => .fault .noGroup
  | some v => let _ := c; perform (use (lineCount v x)) (lineBody load o sc d q x) s

/-! ## Uses -/

/-- An element load into the registers `dst` (11 R280). -/
def useLd (c : BitVec 1) (dst : Opnd) (q : BitVec 4) (x : BitVec 7) : Use :=
  { c := c, ops := [dst, .vs x, .qs q], cls := .a, result := true,
    orph := if 96 ≤ x.toNat then .once else .lanes, once := decide (96 ≤ x.toNat) }

/-- An element store of the registers `src`. -/
def useSt (c : BitVec 1) (src : Opnd) (q : BitVec 4) (x : BitVec 7) (legal : Bool) : Use :=
  { c := c, ops := [src, .vs x, .qs q], legal := legal,
    orph := if 96 ≤ x.toNat then .once else .lanes, once := decide (96 ≤ x.toNat) }

/-- A line word of `n` registers; for the chain rules every register to the end of the block (11 R283). -/
def useLine (c : BitVec 1) (wr : Bool) (d : BitVec 7) (q : BitVec 4) (x : BitVec 5) (n : Nat) : Use :=
  { c := c
    ops := (List.range (Nat.max 1 (Nat.min n (blockEnd d.toNat - d.toNat)))).map (fun k => ⟨.v, d.toNat + k, 1, 1, wr⟩) ++
      [⟨.s, x.toNat, 1, 1, false⟩, .qs q]
    legal := decide (d.toNat < 96), cls := if wr then .a else .none, result := wr, orph := .once, once := true }

/-- `sld` (11 R284). -/
def useSld (c : BitVec 1) (d : BitVec 7) (q : BitVec 4) (x : BitVec 5) : Use :=
  { c := c, ops := [.ud d, ⟨.s, x.toNat, 1, 1, false⟩, .qs q], cls := .a, result := true, orph := .once, once := true }

/-- `sst` (11 R284). -/
def useSst (c : BitVec 1) (d : BitVec 7) (q : BitVec 4) (x : BitVec 5) : Use :=
  { c := c, ops := [.us d, ⟨.s, x.toNat, 1, 1, false⟩, .qs q], orph := .once, once := true }

/-- The element load words. -/
def ldWord (w : Nat) (sg : Bool) (sc : BitVec 3) (o : BitVec 1) (d : BitVec 7) (q : BitVec 4) (x : BitVec 7) : MemWord :=
  { need := 0, op := fun _ => .load d.toNat w sg, width := some w, q := q.toNat, x := x.toNat, data := fun _ _ => 0,
    data2 := fun _ _ => 0, acquire := decide (o = 1), release := false, sc := sc.toNat,
    wide := decide (o = 0) && decide (5 ≤ sc.toNat), cls := .a }

/-- The element store words. -/
def stWord (w : Nat) (sc : BitVec 3) (o : BitVec 1) (q : BitVec 4) (x : BitVec 7) (data : Env → Nat → BitVec 128) : MemWord :=
  { need := 1, op := fun _ => .store w, width := some w, q := q.toNat, x := x.toNat, data := data,
    data2 := fun _ _ => 0, acquire := false, release := decide (o = 1), sc := sc.toNat, wide := false, cls := .none }

/-- The four registers of a `st.q`. -/
def quad (d : BitVec 7) (v : Env) (l : Nat) : BitVec 128 :=
  let g := fun k => v.team.vget v.r.grp (d.toNat + k) l
  g 3 ++ g 2 ++ g 1 ++ g 0

/-- Whether an atomic word returns its value: SETA is not 15, and the word is not `st` (09 R234). -/
def returning (v : Env) (s : State) (fn : Nat) : Bool := fn ≠ 15 && s.clauseFret v .a ≠ 15

/-- The registers that an atomic word names. -/
def atomOpnds (dbl ret : Bool) (fn : Nat) (d : BitVec 7) : List Opnd :=
  if 96 ≤ d.toNat then (if fn = 10 then [.vs d, .vs (d + 1)] else [.vs d])
  else if fn = 14 ∧ ¬ret then [.vk d (if dbl then 2 else 1) (if dbl then 2 else 1) false]
  else if fn = 10 then
    (if dbl then [.vk d 2 4 ret, .vk (d + 2) 2 2 false] else [.vk d 1 2 ret, .vs (d + 1)])
  else [.vk d (if dbl then 2 else 1) (if dbl then 2 else 1) ret]

/-- An atomic word; the OR codes of 04 R124, the D rules of 11 R286. -/
def useAtom (dbl ret : Bool) (fn : Nat) (c : BitVec 1) (o : BitVec 2) (d : BitVec 7) (q : BitVec 3) (x : BitVec 7) : Use :=
  { c := c, ops := atomOpnds dbl ret fn d ++ [.vs x, .qs (q.setWidth 4)]
    legal := (fn ≠ 14 || o = 0 || o = 1) && (fn ≠ 15 || o = 0 || o = 2) &&
      (d.toNat < 96 || (!ret && !(fn = 10 && d.toNat = 127)))
    cls := if ret then .a else .none, orph := if 96 ≤ x.toNat then .once else .lanes, once := decide (96 ≤ x.toNat) }

/-- An operand of an atomic. -/
def atomOperand (dbl : Bool) (d : BitVec 7) (v : Env) (l : Nat) : BitVec 128 :=
  if dbl then (v.src2 d l).setWidth 128 else (v.src d l).setWidth 128

/-- The new value of a `cas`: the register or pair after the compare value, or the s register after it (11 R286). -/
def casNew (dbl : Bool) (d : BitVec 7) (v : Env) (l : Nat) : BitVec 128 :=
  atomOperand dbl (if dbl && d.toNat < 96 then d + 2 else d + 1) v l

/-- The atomic words. -/
def atomWord (dbl ret : Bool) (fn : BitVec 4) (sc : BitVec 3) (o : BitVec 2) (d : BitVec 7) (q : BitVec 3) (x : BitVec 7) :
    MemWord :=
  { need := 2, op := fun _ => .atomic fn dbl (if ret then some d.toNat else none) sc o
    width := some (if dbl then 8 else 4), q := q.toNat, x := x.toNat, data := atomOperand dbl d
    data2 := if fn = 10 then casNew dbl d else fun _ _ => 0
    acquire := decide (o = 1) || decide (o = 3), release := decide (o = 2) || decide (o = 3), sc := sc.toNat
    wide := false, cls := if ret then .a else .none }

/-- Performs an atomic word (11 R285 to R288). -/
def execAtomic (dbl : Bool) (fn : BitVec 4) (c : BitVec 1) (sc : BitVec 3) (o : BitVec 2) (d : BitVec 7) (q : BitVec 3)
    (x : BitVec 7) (s : State) : Host.Outcome State Fault Refusal :=
  match s.env with
  | none => .fault .noGroup
  | some v =>
    let ret := returning v s fn.toNat
    perform (useAtom dbl ret fn.toNat c o d q x) (memBody (atomWord dbl ret fn sc o d q x)) s

/-! ## `rld` and `rfence` (01 R26, R28) -/

/-- `rld` (01 R26). -/
def useRld (c : BitVec 1) (d a : BitVec 7) : Use :=
  { c := c, ops := [⟨.q, d.toNat, 1, 1, true⟩, .vs a], legal := decide (d.toNat < 16) && decide (96 ≤ a.toNat), cls := .a,
    result := true, orph := .once, once := true }

/-- `rld`: the address checks, then an entry of the operand log (01 R26). -/
def rldBody (d a : BitVec 7) (k b : BitVec 1) (v : Env) (s : State) : Res :=
  let addr := (v.grp.sget (a.toNat - 96)).toNat
  let size := if k = 1 then 64 else 32
  if addr % size ≠ 0 then .trap ⟨5, 0, none, addr, 0, false, 0⟩
  else if b = 0 ∧ 2 ^ 56 ≤ addr then .trap ⟨3, 1, none, addr, 0, false, 0⟩
  else if b = 1 ∧ v.team.bind.spsize < addr + size then .trap ⟨4, 0, none, addr, 0, false, 0⟩
  else
    let accs : List Access := [⟨lowestLane v.em, addr, size, 0, 0, 0, 0⟩]
    let x := liveGroup v s
    let c := s.core v.r.core
    let hit := c.rcache.find? fun e => e.loc = (b = 1 : Bool) && e.addr = addr && e.tensor = (k = 1 : Bool)
    if x.acquiring || 4 ≤ x.log.length || (b = 0 && x.lineBusy accs) then .wait
    else .done (logWord v (.rld d.toNat (k = 1) (b = 1) c.seq (hit.map (·.img))) accs 0 true false false false .a
      (s.modCore v.r.core fun c =>
        { c with seq := c.seq + 1
                 rcache := match hit with
                   | none => c.rcache
                   | some e => e :: c.rcache.erase e }))

/-- `rfence` empties the record cache; a fill of an older `rld` is not installed (01 R28). -/
def rfenceBody (v : Env) (s : State) : Res :=
  .done (s.modCore v.r.core fun c => { c with rcache := [], seq := c.seq + 1, lastRfence := c.seq })

/-- 11 R281: loads a byte. -/
def execLdB (c : BitVec 1) (sc : BitVec 3) (o : BitVec 1) (d : BitVec 7) (q : BitVec 4) (x : BitVec 7) (s : State) : Host.Outcome State Fault Refusal :=
  perform (useLd c (.vd d) q x)
    (memBody (ldWord 1 false sc o d q x)) s

/-- 11 R281: loads a byte, sign-extended. -/
def execLdBs (c : BitVec 1) (sc : BitVec 3) (o : BitVec 1) (d : BitVec 7) (q : BitVec 4) (x : BitVec 7) (s : State) : Host.Outcome State Fault Refusal :=
  perform (useLd c (.vd d) q x)
    (memBody (ldWord 1 true sc o d q x)) s

/-- 11 R281: loads a halfword. -/
def execLdH (c : BitVec 1) (sc : BitVec 3) (o : BitVec 1) (d : BitVec 7) (q : BitVec 4) (x : BitVec 7) (s : State) : Host.Outcome State Fault Refusal :=
  perform (useLd c (.vd d) q x)
    (memBody (ldWord 2 false sc o d q x)) s

/-- 11 R281: loads a halfword, sign-extended. -/
def execLdHs (c : BitVec 1) (sc : BitVec 3) (o : BitVec 1) (d : BitVec 7) (q : BitVec 4) (x : BitVec 7) (s : State) : Host.Outcome State Fault Refusal :=
  perform (useLd c (.vd d) q x)
    (memBody (ldWord 2 true sc o d q x)) s

/-- 11 R281: loads a word. -/
def execLdW (c : BitVec 1) (sc : BitVec 3) (o : BitVec 1) (d : BitVec 7) (q : BitVec 4) (x : BitVec 7) (s : State) : Host.Outcome State Fault Refusal :=
  perform (useLd c (.vd d) q x)
    (memBody (ldWord 4 false sc o d q x)) s

/-- 11 R281: loads 8 B into a pair. -/
def execLdD (c : BitVec 1) (sc : BitVec 3) (o : BitVec 1) (d : BitVec 7) (q : BitVec 4) (x : BitVec 7) (s : State) : Host.Outcome State Fault Refusal :=
  perform (useLd c (.vd2 d) q x)
    (memBody (ldWord 8 false sc o d q x)) s

/-- 11 R281: loads 16 B into four registers. -/
def execLdQ (c : BitVec 1) (sc : BitVec 3) (o : BitVec 1) (d : BitVec 7) (q : BitVec 4) (x : BitVec 7) (s : State) : Host.Outcome State Fault Refusal :=
  perform (useLd c (.vk d 4 4 true) q x)
    (memBody (ldWord 16 false sc o d q x)) s

/-- 11 R281: loads a word. -/
def execLdNc (c : BitVec 1) (sc : BitVec 3) (o : BitVec 1) (d : BitVec 7) (q : BitVec 4) (x : BitVec 7) (s : State) : Host.Outcome State Fault Refusal :=
  perform (useLd c (.vd d) q x)
    (memBody (ldWord 4 false sc o d q x)) s

/-- 11 R281: stores 1 B. -/
def execStB (c : BitVec 1) (sc : BitVec 3) (o : BitVec 1) (d : BitVec 7) (q : BitVec 4) (x : BitVec 7) (s : State) : Host.Outcome State Fault Refusal :=
  perform (useSt c (.vs d) q x (true))
    (memBody (stWord 1 sc o q x (fun v l => (v.src d l).setWidth 128))) s

/-- 11 R281: stores 2 B. -/
def execStH (c : BitVec 1) (sc : BitVec 3) (o : BitVec 1) (d : BitVec 7) (q : BitVec 4) (x : BitVec 7) (s : State) : Host.Outcome State Fault Refusal :=
  perform (useSt c (.vs d) q x (true))
    (memBody (stWord 2 sc o q x (fun v l => (v.src d l).setWidth 128))) s

/-- 11 R281: stores 4 B. -/
def execStW (c : BitVec 1) (sc : BitVec 3) (o : BitVec 1) (d : BitVec 7) (q : BitVec 4) (x : BitVec 7) (s : State) : Host.Outcome State Fault Refusal :=
  perform (useSt c (.vs d) q x (true))
    (memBody (stWord 4 sc o q x (fun v l => (v.src d l).setWidth 128))) s

/-- 11 R281: stores 8 B. -/
def execStD (c : BitVec 1) (sc : BitVec 3) (o : BitVec 1) (d : BitVec 7) (q : BitVec 4) (x : BitVec 7) (s : State) : Host.Outcome State Fault Refusal :=
  perform (useSt c (.vs2 d) q x (true))
    (memBody (stWord 8 sc o q x (fun v l => (v.src2 d l).setWidth 128))) s

/-- 11 R281: stores 16 B. -/
def execStQ (c : BitVec 1) (sc : BitVec 3) (o : BitVec 1) (d : BitVec 7) (q : BitVec 4) (x : BitVec 7) (s : State) : Host.Outcome State Fault Refusal :=
  perform (useSt c (.vk d 4 4 false) q x (decide (d.toNat < 96)))
    (memBody (stWord 16 sc o q x (quad d))) s

/-- 11 R284: a uniform load. -/
def execSld (c : BitVec 1) (sc : BitVec 3) (o : BitVec 1) (d : BitVec 7) (q : BitVec 4) (x : BitVec 5) (s : State) : Host.Outcome State Fault Refusal :=
  perform (useSld c d q x)
    (memBody { ldWord 8 false sc o d q (x.setWidth 7 + 96) with op := fun w => .uniLoad d.toNat w, width := none }) s

/-- 11 R284: a uniform store. -/
def execSst (c : BitVec 1) (sc : BitVec 3) (o : BitVec 1) (d : BitVec 7) (q : BitVec 4) (x : BitVec 5) (s : State) : Host.Outcome State Fault Refusal :=
  perform (useSst c d q x)
    (memBody { stWord 8 sc o q (x.setWidth 7 + 96) (fun v _ => (v.usrc d).setWidth 128) with op := fun w => .store w, width := none }) s

/-- 11 R283: a line load. -/
def execLdl (c : BitVec 1) (sc : BitVec 3) (o : BitVec 1) (d : BitVec 7) (q : BitVec 4) (x : BitVec 5) (s : State) : Host.Outcome State Fault Refusal :=
  execLine true c o sc d q x (useLine c true d q x) s

/-- 11 R283: a line store. -/
def execStl (c : BitVec 1) (sc : BitVec 3) (o : BitVec 1) (d : BitVec 7) (q : BitVec 4) (x : BitVec 5) (s : State) : Host.Outcome State Fault Refusal :=
  execLine false c o sc d q x (useLine c false d q x) s

/-- 11 R287: atomic add on 4 B. -/
def execAtomAdd (c : BitVec 1) (sc : BitVec 3) (o : BitVec 2) (d : BitVec 7) (q : BitVec 3) (x : BitVec 7) (s : State) : Host.Outcome State Fault Refusal :=
  execAtomic false 0 c sc o d q x s

/-- 11 R287: atomic add on 8 B. -/
def execAtomdAdd (c : BitVec 1) (sc : BitVec 3) (o : BitVec 2) (d : BitVec 7) (q : BitVec 3) (x : BitVec 7) (s : State) : Host.Outcome State Fault Refusal :=
  execAtomic true 0 c sc o d q x s

/-- 11 R287: atomic sub on 4 B. -/
def execAtomSub (c : BitVec 1) (sc : BitVec 3) (o : BitVec 2) (d : BitVec 7) (q : BitVec 3) (x : BitVec 7) (s : State) : Host.Outcome State Fault Refusal :=
  execAtomic false 1 c sc o d q x s

/-- 11 R287: atomic sub on 8 B. -/
def execAtomdSub (c : BitVec 1) (sc : BitVec 3) (o : BitVec 2) (d : BitVec 7) (q : BitVec 3) (x : BitVec 7) (s : State) : Host.Outcome State Fault Refusal :=
  execAtomic true 1 c sc o d q x s

/-- 11 R287: atomic and on 4 B. -/
def execAtomAnd (c : BitVec 1) (sc : BitVec 3) (o : BitVec 2) (d : BitVec 7) (q : BitVec 3) (x : BitVec 7) (s : State) : Host.Outcome State Fault Refusal :=
  execAtomic false 2 c sc o d q x s

/-- 11 R287: atomic and on 8 B. -/
def execAtomdAnd (c : BitVec 1) (sc : BitVec 3) (o : BitVec 2) (d : BitVec 7) (q : BitVec 3) (x : BitVec 7) (s : State) : Host.Outcome State Fault Refusal :=
  execAtomic true 2 c sc o d q x s

/-- 11 R287: atomic or on 4 B. -/
def execAtomOr (c : BitVec 1) (sc : BitVec 3) (o : BitVec 2) (d : BitVec 7) (q : BitVec 3) (x : BitVec 7) (s : State) : Host.Outcome State Fault Refusal :=
  execAtomic false 3 c sc o d q x s

/-- 11 R287: atomic or on 8 B. -/
def execAtomdOr (c : BitVec 1) (sc : BitVec 3) (o : BitVec 2) (d : BitVec 7) (q : BitVec 3) (x : BitVec 7) (s : State) : Host.Outcome State Fault Refusal :=
  execAtomic true 3 c sc o d q x s

/-- 11 R287: atomic xor on 4 B. -/
def execAtomXor (c : BitVec 1) (sc : BitVec 3) (o : BitVec 2) (d : BitVec 7) (q : BitVec 3) (x : BitVec 7) (s : State) : Host.Outcome State Fault Refusal :=
  execAtomic false 4 c sc o d q x s

/-- 11 R287: atomic xor on 8 B. -/
def execAtomdXor (c : BitVec 1) (sc : BitVec 3) (o : BitVec 2) (d : BitVec 7) (q : BitVec 3) (x : BitVec 7) (s : State) : Host.Outcome State Fault Refusal :=
  execAtomic true 4 c sc o d q x s

/-- 11 R287: atomic min on 4 B. -/
def execAtomMin (c : BitVec 1) (sc : BitVec 3) (o : BitVec 2) (d : BitVec 7) (q : BitVec 3) (x : BitVec 7) (s : State) : Host.Outcome State Fault Refusal :=
  execAtomic false 5 c sc o d q x s

/-- 11 R287: atomic min on 8 B. -/
def execAtomdMin (c : BitVec 1) (sc : BitVec 3) (o : BitVec 2) (d : BitVec 7) (q : BitVec 3) (x : BitVec 7) (s : State) : Host.Outcome State Fault Refusal :=
  execAtomic true 5 c sc o d q x s

/-- 11 R287: atomic max on 4 B. -/
def execAtomMax (c : BitVec 1) (sc : BitVec 3) (o : BitVec 2) (d : BitVec 7) (q : BitVec 3) (x : BitVec 7) (s : State) : Host.Outcome State Fault Refusal :=
  execAtomic false 6 c sc o d q x s

/-- 11 R287: atomic max on 8 B. -/
def execAtomdMax (c : BitVec 1) (sc : BitVec 3) (o : BitVec 2) (d : BitVec 7) (q : BitVec 3) (x : BitVec 7) (s : State) : Host.Outcome State Fault Refusal :=
  execAtomic true 6 c sc o d q x s

/-- 11 R287: atomic umin on 4 B. -/
def execAtomUmin (c : BitVec 1) (sc : BitVec 3) (o : BitVec 2) (d : BitVec 7) (q : BitVec 3) (x : BitVec 7) (s : State) : Host.Outcome State Fault Refusal :=
  execAtomic false 7 c sc o d q x s

/-- 11 R287: atomic umin on 8 B. -/
def execAtomdUmin (c : BitVec 1) (sc : BitVec 3) (o : BitVec 2) (d : BitVec 7) (q : BitVec 3) (x : BitVec 7) (s : State) : Host.Outcome State Fault Refusal :=
  execAtomic true 7 c sc o d q x s

/-- 11 R287: atomic umax on 4 B. -/
def execAtomUmax (c : BitVec 1) (sc : BitVec 3) (o : BitVec 2) (d : BitVec 7) (q : BitVec 3) (x : BitVec 7) (s : State) : Host.Outcome State Fault Refusal :=
  execAtomic false 8 c sc o d q x s

/-- 11 R287: atomic umax on 8 B. -/
def execAtomdUmax (c : BitVec 1) (sc : BitVec 3) (o : BitVec 2) (d : BitVec 7) (q : BitVec 3) (x : BitVec 7) (s : State) : Host.Outcome State Fault Refusal :=
  execAtomic true 8 c sc o d q x s

/-- 11 R287: atomic xchg on 4 B. -/
def execAtomXchg (c : BitVec 1) (sc : BitVec 3) (o : BitVec 2) (d : BitVec 7) (q : BitVec 3) (x : BitVec 7) (s : State) : Host.Outcome State Fault Refusal :=
  execAtomic false 9 c sc o d q x s

/-- 11 R287: atomic xchg on 8 B. -/
def execAtomdXchg (c : BitVec 1) (sc : BitVec 3) (o : BitVec 2) (d : BitVec 7) (q : BitVec 3) (x : BitVec 7) (s : State) : Host.Outcome State Fault Refusal :=
  execAtomic true 9 c sc o d q x s

/-- 11 R287: atomic cas on 4 B. -/
def execAtomCas (c : BitVec 1) (sc : BitVec 3) (o : BitVec 2) (d : BitVec 7) (q : BitVec 3) (x : BitVec 7) (s : State) : Host.Outcome State Fault Refusal :=
  execAtomic false 10 c sc o d q x s

/-- 11 R287: atomic cas on 8 B. -/
def execAtomdCas (c : BitVec 1) (sc : BitVec 3) (o : BitVec 2) (d : BitVec 7) (q : BitVec 3) (x : BitVec 7) (s : State) : Host.Outcome State Fault Refusal :=
  execAtomic true 10 c sc o d q x s

/-- 11 R287: atomic fadd on 4 B. -/
def execAtomFadd (c : BitVec 1) (sc : BitVec 3) (o : BitVec 2) (d : BitVec 7) (q : BitVec 3) (x : BitVec 7) (s : State) : Host.Outcome State Fault Refusal :=
  execAtomic false 11 c sc o d q x s

/-- 11 R287: atomic fadd on 8 B. -/
def execAtomdFadd (c : BitVec 1) (sc : BitVec 3) (o : BitVec 2) (d : BitVec 7) (q : BitVec 3) (x : BitVec 7) (s : State) : Host.Outcome State Fault Refusal :=
  execAtomic true 11 c sc o d q x s

/-- 11 R287: atomic fmin on 4 B. -/
def execAtomFmin (c : BitVec 1) (sc : BitVec 3) (o : BitVec 2) (d : BitVec 7) (q : BitVec 3) (x : BitVec 7) (s : State) : Host.Outcome State Fault Refusal :=
  execAtomic false 12 c sc o d q x s

/-- 11 R287: atomic fmin on 8 B. -/
def execAtomdFmin (c : BitVec 1) (sc : BitVec 3) (o : BitVec 2) (d : BitVec 7) (q : BitVec 3) (x : BitVec 7) (s : State) : Host.Outcome State Fault Refusal :=
  execAtomic true 12 c sc o d q x s

/-- 11 R287: atomic fmax on 4 B. -/
def execAtomFmax (c : BitVec 1) (sc : BitVec 3) (o : BitVec 2) (d : BitVec 7) (q : BitVec 3) (x : BitVec 7) (s : State) : Host.Outcome State Fault Refusal :=
  execAtomic false 13 c sc o d q x s

/-- 11 R287: atomic fmax on 8 B. -/
def execAtomdFmax (c : BitVec 1) (sc : BitVec 3) (o : BitVec 2) (d : BitVec 7) (q : BitVec 3) (x : BitVec 7) (s : State) : Host.Outcome State Fault Refusal :=
  execAtomic true 13 c sc o d q x s

/-- 11 R287: atomic ld on 4 B. -/
def execAtomLd (c : BitVec 1) (sc : BitVec 3) (o : BitVec 2) (d : BitVec 7) (q : BitVec 3) (x : BitVec 7) (s : State) : Host.Outcome State Fault Refusal :=
  execAtomic false 14 c sc o d q x s

/-- 11 R287: atomic ld on 8 B. -/
def execAtomdLd (c : BitVec 1) (sc : BitVec 3) (o : BitVec 2) (d : BitVec 7) (q : BitVec 3) (x : BitVec 7) (s : State) : Host.Outcome State Fault Refusal :=
  execAtomic true 14 c sc o d q x s

/-- 11 R287: atomic st on 4 B. -/
def execAtomSt (c : BitVec 1) (sc : BitVec 3) (o : BitVec 2) (d : BitVec 7) (q : BitVec 3) (x : BitVec 7) (s : State) : Host.Outcome State Fault Refusal :=
  execAtomic false 15 c sc o d q x s

/-- 11 R287: atomic st on 8 B. -/
def execAtomdSt (c : BitVec 1) (sc : BitVec 3) (o : BitVec 2) (d : BitVec 7) (q : BitVec 3) (x : BitVec 7) (s : State) : Host.Outcome State Fault Refusal :=
  execAtomic true 15 c sc o d q x s

/-- 01 R26: loads and validates a record. -/
def execRld (c : BitVec 1) (d : BitVec 7) (a : BitVec 7) (k : BitVec 1) (b : BitVec 1) (s : State) : Host.Outcome State Fault Refusal :=
  perform (useRld c d a)
    (rldBody d a k b) s

/-- 01 R28: invalidates the record cache. -/
def execRfence (c : BitVec 1) (s : State) : Host.Outcome State Fault Refusal :=
  perform ({ c := c, ops := [] })
    (rfenceBody) s

end Sys2Proof.Machine
end

