-- ==== Sys2Proof/Machine/Record.lean ====
section
/-! DEFINITION. Record images: validation (01 R24), tensor records (01 R22, R23, R25) and the conversion of places (01 R16, R18). -/

namespace Sys2Proof.Machine

/-- Whether a buffer image is malformed (01 R24). -/
def bufMalformed (x : BitVec 512) : Bool :=
  let b := bufOf x
  field x 56 8 ≠ 0 || field x 160 32 ≠ 0 || field x 154 6 ≠ 0 || field x 146 4 ≠ 0 || field x 224 32 ≠ 0 ||
    b.space = 3 || b.swz = 3 || decide (5 ≤ b.esize) ||
    (if b.swz = 2 then b.tw = 0 || decide (5 < b.tw) else b.tw ≠ 0) ||
    (if b.swz = 2 then b.rowlen = 0 || b.rowlen % 2 ^ b.tw ≠ 0 else b.rowlen ≠ 0) ||
    (b.space ≠ 2 && (b.prow ≠ 0 || b.pcol ≠ 0)) ||
    (b.space ≠ 0 && decide (2 ^ 20 ≤ b.base)) || (b.swz = 1 && b.base % 1024 ≠ 0)

/-- A tensor record (01 R22). Extents and strides by dimension. -/
structure Ten where
  base : Nat
  ext : List Nat
  str : List Nat
  pad : Nat
  tw : Nat
  at_ : Bool
  wr : Bool
  rd : Bool
  pcol : Nat
  prow : Nat
  space : Nat
  swz : Nat
  rank : Nat
  fmt : Nat
  deriving DecidableEq, Repr

/-- Decodes a tensor image (01 R22). -/
def tenOf (x : BitVec 512) : Ten :=
  { base := field x 0 56, ext := [field x 64 32, field x 96 32, field x 128 32, field x 160 32],
    str := [field x 192 48, field x 256 48, field x 320 48, field x 384 48], pad := field x 480 32, tw := field x 468 4,
    at_ := field x 467 1 = 1, wr := field x 466 1 = 1, rd := field x 465 1 = 1, pcol := field x 462 3,
    prow := field x 458 4, space := field x 456 2, swz := field x 454 2, rank := field x 452 2 + 1, fmt := field x 448 4 }

/-- The element format of a tensor record; its size in bytes (01 R23). -/
def Ten.elem (t : Ten) : Fmt := (fmtOf t.fmt).getD .f32

/-- The element size (01 R23). -/
def Ten.size (t : Ten) : Nat := t.elem.bytes

/-- Whether a tensor image is malformed (01 R22, R24). -/
def tenMalformed (x : BitVec 512) : Bool :=
  let t := tenOf x
  field x 56 8 ≠ 0 || field x 240 16 ≠ 0 || field x 304 16 ≠ 0 || field x 368 16 ≠ 0 || field x 432 16 ≠ 0 ||
    field x 472 8 ≠ 0 || t.space = 3 || t.swz = 3 || decide (14 ≤ t.fmt) ||
    (if t.swz = 2 then t.tw = 0 || decide (5 < t.tw) else t.tw ≠ 0) ||
    ((List.range 4).any fun k => decide (t.rank ≤ k) && (t.ext.getD k 0 ≠ 0 || t.str.getD k 0 ≠ 0)) ||
    (t.space ≠ 2 && (t.prow ≠ 0 || t.pcol ≠ 0)) ||
    (t.space ≠ 0 && decide (2 ^ 20 ≤ t.base)) || (t.swz = 1 && t.base % 1024 ≠ 0) ||
    t.base % t.size ≠ 0 || t.str.getD 0 0 = 0 ||
    ((List.range 4).any fun k => decide (k < t.rank) && t.str.getD k 0 % t.size ≠ 0) ||
    (t.swz = 2 && t.str.getD 1 0 ≠ 0)

/-- Writes a field of an image. -/
def setField (x : BitVec 512) (lo n v : Nat) : BitVec 512 :=
  BitVec.ofNat 512 (x.toNat - field x lo n * 2 ^ lo + v % 2 ^ n * 2 ^ lo)

/-- What validation makes of an image: the image with its place in physical coordinates, or a trap's class and cause (01 R24). -/
def State.validate (s : State) (t : Team) (tensor : Bool) (x : BitVec 512) : BitVec 512 ⊕ (Nat × Nat) :=
  if (if tensor then tenMalformed x else bufMalformed x) then .inr (4, 1)
  else
    let space := if tensor then (tenOf x).space else (bufOf x).space
    let i := if tensor then (tenOf x).prow else (bufOf x).prow
    let j := if tensor then (tenOf x).pcol else (bufOf x).pcol
    if space ≠ 2 then .inl x
    else if decide (t.shapeR ≤ i) || decide (t.shapeC ≤ j) then .inr (0, 3)
    else
      let c := s.memberCore t i j
      let lo := if tensor then 458 else 135
      .inl (setField (setField x lo 4 (rowOf c)) (lo + 4) 3 (colOf c))

/-- TensorOffset (01 R25). -/
def Ten.offset (t : Ten) (i0 i1 i2 i3 : Nat) : Nat :=
  let st := fun k => t.str.getD k 0
  if t.swz = 2 then
    let n := 2 ^ t.tw
    ((i1 / n * ((t.ext.getD 0 0 + n - 1) / n) + i0 / n) * n * n + interleave (i0 % n) (i1 % n)) * st 0 + i2 * st 2 + i3 * st 3
  else
    let off := i0 * st 0 + i1 * st 1 + i2 * st 2 + i3 * st 3
    if t.swz = 1 then xorBank off else off

/-- The extent of a dimension; one where the record has none. -/
def Ten.extent (t : Ten) (k : Nat) : Nat := if k < t.rank then t.ext.getD k 0 else 1

/-- The bits of a padding element (01 R23). -/
def Ten.padBits (t : Ten) : Nat :=
  match t.elem with
  | .f64 => (cvtCode .f64 .f32 false .rne 0 t.pad).1
  | .i64 | .fx64 => ((BitVec.ofNat 32 t.pad).signExtend 64).toNat
  | f => t.pad % 2 ^ (8 * f.bytes)

end Sys2Proof.Machine
end

