-- ==== Sys2Proof/Machine/Spill.lean ====
section
/-! DEFINITION. The hypothesis spill area: versions that leave a home's LLC slice and come back (05 R153 to R155, 03 R83, R88). -/

namespace Sys2Proof.Machine

/-- The buckets of an extent. -/
def Extent.buckets (e : Extent) : Nat := 2 ^ e.lb

/-- The bytes of an extent: an index region and a data region (05 R153). -/
def Extent.size (e : Extent) : Nat := e.buckets * 1280

/-- The bucket of a version (05 R153). -/
def Extent.bucket (e : Extent) (line tag : Nat) : Nat :=
  (line % 2 ^ 20 ^^^ line / 2 ^ 20 % 2 ^ 20 ^^^ tag * 256) % e.buckets

/-- The physical address of index entry n (05 R153). -/
def Extent.entryAt (e : Extent) (n : Nat) : Nat := e.base + 32 * n

/-- The physical address of slot n (05 R153). -/
def Extent.slotAt (e : Extent) (n : Nat) : Nat := e.base + 32 * (8 * e.buckets) + 128 * n

/-- A free entry of a version's bucket in an extent. -/
def State.freeSpillIn (s : State) (e : Extent) (line tag : Nat) : Option Nat :=
  ((List.range 8).map fun k => 8 * e.bucket line tag + k).find? fun n => s.hbm.read 8 (e.entryAt n) / 2 ^ 63 % 2 = 0

/-- A free entry of a version's bucket, extents being tried from 0 upward (05 R153). -/
def State.freeSpill (s : State) (line tag : Nat) : (es : List Extent) → (k : Nat) → Option (Nat × Extent × Nat)
  | [], _ => none
  | e :: t, k =>
    match s.freeSpillIn e line tag with
    | some n => some (k, e, n)
    | none => State.freeSpill s line tag t (k + 1)

/-- A version moves to an entry of the spill area (05 R153). -/
def State.spillTo (s : State) (part tag line : Nat) (v : Version) (k : Nat) (e : Extent) (n : Nat) : State :=
  let idx := 2 ^ 63 + tag * 2 ^ 45 + line + v.bytes.mask.toNat * 2 ^ 128
  { s with
    hbm := (s.hbm.write 32 (e.entryAt n) idx).write 128 (e.slotAt n) v.bytes.data.toNat
    versions := s.versions.set none (lineKey part tag line) (some { v with spill := some (k, n) }) }

/-- Chihoat sheds a hypothesis: the LIVE id that is deepest, the highest among equals, is refuted (05 R155). -/
def Part.shedTarget (p : Part) : Option Nat :=
  (p.hyp.foldl (init := (none : Option (Nat × Nat))) fun best ke =>
    if ke.1 = 0 ∨ ke.2.state ≠ 1 then best
    else match best with
      | none => some (ke.1, ke.2.depth.toNat)
      | some (_, d) => if d ≤ ke.2.depth.toNat then some (ke.1, ke.2.depth.toNat) else best).map (·.1)

/-- Whether Chihoat's own request is waiting or under way. -/
def Part.shedding (p : Part) : Bool :=
  p.reqs.any (fun r => r.g.isNone) || match p.resolving with
    | none => false
    | some r => r.g.isNone

/-- An event enters the mailbox's ring of 64; its layout is not in the specification (21 R458). -/
def State.postEvent (s : State) : State :=
  { s with choices := s.choices + 1
           modl := { s.modl with events := (s.modl.events.drop (s.modl.events.length - 63)) ++ [Config.eventWord s.choices] } }

/-- HYPCAP of a line and tag of a partition: Chihoat sheds, or posts an event and waits for a grant packet, as configured for the
partition (05 R155, 21 R460). -/
def State.hypcap (s : State) (part line tag : Nat) : State :=
  match s.part? part with
  | none => s
  | some p =>
    if p.shed then
      if p.shedding then s
      else match p.shedTarget with
        | none => s
        | some h => (s.modPart part fun p => { p with reqs := p.reqs ++ [⟨BitVec.ofNat 12 h, false, none, 0, 0⟩] }).postOnce
            (.hypRequestTakeup part)
    else if p.capWaits.isSome then s
    else (s.modPart part fun p => { p with capWaits := some (line, tag) }).postEvent

/-! ## Sharers (03 R81, R85) -/

/-- The dies that a line's tags name in SHARERS (03 R81). -/
def State.sharers (s : State) (line : Nat) : List Nat :=
  (List.range 12).filter fun d => s.llc.any fun kt => keyLine kt.1 = line && match kt.2 with
    | none => false
    | some t => t.sharers.getLsbD d

/-- The home sends invalidations of a write to every sharer except one die (03 R85). -/
def State.sendInvalidations (s : State) (w : LineWrite) (except : Nat) : State :=
  (s.sharers w.line).foldl (fun s d => if d = except then s else s.post (.applyInvalidation d w)) s

/-! ## Places in the LLC (03 R78, R82, R83) -/

/-- One of a list by a free choice; `pseudo-LRU` has no further meaning in the specification (03 R83, log entry 94). -/
def State.pick {α : Type} (s : State) (l : List α) : Option α := l[Config.choice s.choices % l.length]?

/-- The ways of a slice and set that a partition allocates into: those of its mask that are not disabled (03 R83, R98). -/
def State.openWays (s : State) (mask : BitVec 16) (slice set : Nat) : List Nat :=
  (List.range 16).filter fun w => mask.getLsbD w && !s.health.off.contains (slice, set, w)

/-- The tags of the LLC set of a line. -/
def State.llcSetTags (s : State) (line : Nat) : List (Nat × LlcTag) :=
  s.llc.filterMap fun kt => kt.2.bind fun t =>
    if homeDie (keyLine kt.1) = homeDie line ∧ llcSet (keyLine kt.1) = llcSet line then some (kt.1, t) else none

/-- The tag of a line that the LLC newly holds, in a way (03 R81). -/
def State.llcInsert (s : State) (part tag line way : Nat) : State :=
  { s with
    llc := s.llc.set none (lineKey part tag line)
      (some ⟨0, 15, if tag = 0 then 1 else 3, tag = 0 && s.rootPoisoned line, way⟩) }

/-- The LLC evicts a root line: each die in SHARERS drops the line's clean bytes (03 R82). -/
def State.evictRoot (s : State) (key : Nat) : State :=
  let s1 := s.sendInvalidations ⟨keyLine key, 0, 0, ⟨BitVec.allOnes 128, 0⟩, 12, s.applied, false⟩ 12
  { s1 with llc := s1.llc.set none key none }

/-- The LLC evicts a frame of STATE 3: written bytes move to the spill area, a frame that holds only view bytes is dropped; while the
bucket has no free entry, HYPCAP is raised and the eviction waits (05 R153, R155). -/
def State.evictVersion (s : State) (key : Nat) : State ⊕ State :=
  let part := keyPart key
  let tag := keyTag key
  let line := keyLine key
  let drop := fun s : State => { s with llc := s.llc.set none key none }
  match s.versions.get none key with
  | none => .inl (drop s)
  | some v =>
    if v.spill.isSome then .inl (drop s)
    else match (s.part? part).bind fun p => s.freeSpill line tag p.extents 0 with
      | none => .inr (s.hypcap part line tag)
      | some (k, e, n) => .inl (drop (s.spillTo part tag line v k e n))

/-- The LLC allocates a frame for a line under a tag, in a free way or in that of a victim: a frame of STATE 3 only when no candidate has
STATE 0 to 2 (03 R83). A line held die-exclusive is no candidate (log entry 94). The state that waits is on the right. -/
def State.llcAlloc (s : State) (part tag line : Nat) : State ⊕ State :=
  if (s.llc.get none (lineKey part tag line)).isSome then .inl s
  else
    let tags := s.llcSetTags line
    let ways := s.openWays (((s.part? part).map (·.llcways)).getD 0xFFFF) (384 + homeDie line) (llcSet line)
    match ways.find? fun w => tags.all fun kt => kt.2.way ≠ w with
    | some w => .inl (s.llcInsert part tag line w)
    | none =>
      let mine := tags.filter fun kt => ways.contains kt.2.way && kt.2.xdie = 15
      let s1 := { s with choices := s.choices + 1 }
      match s.pick (mine.filter fun kt => kt.2.state ≠ 3) with
      | some (k, t) => .inl ((s1.evictRoot k).llcInsert part tag line t.way)
      | none =>
        match s.pick mine with
        | none => .inr s
        | some (k, t) =>
          match s1.evictVersion k with
          | .inr s2 => .inr s2
          | .inl s2 => .inl (s2.llcInsert part tag line t.way)

/-! ## Places in the L2 (03 R78, R83) -/

/-- The frames of a line's L2 set on a die. -/
def Die.setFrames (d : Die) (line : Nat) : List (Nat × Frame) :=
  d.l2.filterMap fun kf => kf.2.bind fun f =>
    if l2Slice (keyLine kf.1) = l2Slice line ∧ l2Set (keyLine kf.1) = l2Set line then some (kf.1, f) else none

/-- Whether a frame is held: in state S, X or XD, or with EO set (03 R83). -/
def State.frameHeld (s : State) (die : Nat) (kf : Nat × Frame) : Bool :=
  kf.2.state = 3 || kf.2.state = 4 || kf.2.state = 5 || s.owned die (keyPart kf.1) (keyTag kf.1) (keyLine kf.1)

/-- The victims of the first class that has one (03 R83); within a class those marked first (11 R282). -/
def State.l2Victims (s : State) (die : Nat) (fs : List (Nat × Frame)) : List (Nat × Frame) :=
  let loose := fs.filter fun kf => !s.frameHeld die kf
  let low := loose.filter fun kf => !kf.2.pri
  let spec := fs.filter fun kf => kf.2.state = 5 && !s.owned die (keyPart kf.1) (keyTag kf.1) (keyLine kf.1)
  let first := fun l : List (Nat × Frame) => if l.any (·.2.first) then l.filter (·.2.first) else l
  if !low.isEmpty then first low else if !loose.isEmpty then first loose else spec

/-- A victim leaves the L2: one in state S moves to its home's LLC slice with its HT (03 R83, R88). -/
def State.evictFrame (s : State) (die key : Nat) (f : Frame) : State :=
  let s1 := if f.state = 5 then match s.llcAlloc (keyPart key) (keyTag key) (keyLine key) with
      | .inl s' => s'
      | .inr s' => s'
    else s
  s1.modDie die fun d => { d with l2 := d.l2.set none key none }

/-- A slice allocates a frame for a line under a tag, in a free way or in that of a victim; written bytes of a victim reach their home
first (03 R82, R83, log entry 94). The state that waits is on the right. -/
def State.l2Alloc (s : State) (die part tag line : Nat) : State ⊕ State :=
  let key := lineKey part tag line
  let put := fun (w : Nat) (s : State) => s.modDie die fun d => { d with l2 := d.l2.set none key (some { Frame.empty with way := w }) }
  if ((s.die die).l2.get none key).isSome then .inl s
  else
    let fs := (s.die die).setFrames line
    let ways := s.openWays (((s.part? part).map (·.l2ways)).getD 0xFFFF) (32 * die + l2Slice line) (l2Set line)
    match ways.find? fun w => fs.all fun kf => kf.2.way ≠ w with
    | some w => .inl (put w s)
    | none =>
      match s.pick (s.l2Victims die (fs.filter fun kf => ways.contains kf.2.way)) with
      | none => .inr s
      | some (k, f) =>
        if f.dmask ≠ 0 then .inr (s.postOnce (.rootWriteBatchSend die))
        else .inl (put f.way ({ s with choices := s.choices + 1 }.evictFrame die k f))

/-! ## Spilled versions (05 R154) -/

/-- A spilled version is read back into the LLC: V of its entry is cleared (05 R154). -/
def State.unspill (s : State) (part tag line : Nat) : State :=
  match s.versions.get none (lineKey part tag line) with
  | none => s
  | some v =>
    match v.spill with
    | none => s
    | some (k, n) =>
      match (s.part? part).bind fun p => p.extents[k]? with
      | none => s
      | some e =>
        { s with
          hbm := s.hbm.write 8 (e.entryAt n) (s.hbm.read 8 (e.entryAt n) % 2 ^ 63)
          versions := s.versions.set none (lineKey part tag line) (some { v with spill := none }) }

/-- The home's slice holds the version of a line under a tag, if there is one: a spilled one is read back into a frame (05 R154). -/
def State.readBack (s : State) (part tag line : Nat) : State ⊕ State :=
  match s.versions.get none (lineKey part tag line) with
  | none => .inl s
  | some v =>
    if v.spill.isNone then .inl s
    else match s.llcAlloc part tag line with
      | .inr s1 => .inr s1
      | .inl s1 => .inl (s1.unspill part tag line)

/-- The same for every tag of a path (05 R143, R154). -/
def State.readBackPath (s : State) (part line : Nat) : List Nat → State ⊕ State
  | [] => .inl s
  | t :: rest =>
    match s.readBack part t line with
    | .inr s1 => .inr s1
    | .inl s1 => State.readBackPath s1 part line rest

/-- A version that ceases to exist leaves the spill area too (05 R151, R153). -/
def State.dropVersion (s : State) (part tag line : Nat) : State :=
  let s1 := s.unspill part tag line
  { s1 with versions := s1.versions.set none (lineKey part tag line) none }

end Sys2Proof.Machine
end

