-- ==== Sys2Proof/Machine/Lines.lean ====
section
/-! DEFINITION. The events of global memory: lines that reach a core, stores performed in a slice, fills, propagation to the
homes, invalidations, sweeps, translation walks and the operand log (03, 04, 06 R162 to R170, 15 R408, R409). -/

namespace Sys2Proof.Machine

/-- An event has taken place. -/
def happened (s : State) : Host.Outcome State Fault Refusal := .next { s with note := .performed }

/-! ## Homes (03 R81, R85) -/

/-- The tables' lines from which a die has taken a pointer or a leaf (06 R167). -/
def Die.usesTable (d : Die) (line : Nat) : Bool :=
  d.tcache.any (fun l => l.tables.contains line) || d.pointers.any fun p => p.lines.contains line

/-- What was translated through lines is dropped on a die: walk-cache entries, leaves, and those leaves in its cores (06 R167). -/
def State.dropLeavesOf (s : State) (die : Nat) (p : Nat → Bool) : State :=
  let gone := (s.die die).tcache.filter fun l => l.tables.any p
  let s1 := s.modDie die fun d =>
    { d with tcache := d.tcache.filter fun l => !l.tables.any p
             pointers := d.pointers.filter fun y => !y.lines.any p }
  if gone.isEmpty then s1
  else { s1 with cores := s1.cores.map fun kc =>
    if kc.1 / 104 = die then (kc.1, { kc.2 with tcache := kc.2.tcache.filter fun y => !gone.any fun l => (l.part, l.base, l.bits) = y })
    else kc }

/-- The same for one line. -/
def State.dropLeaves (s : State) (die line : Nat) : State := s.dropLeavesOf die (· = line)

/-- The physical address of PROD of a communicator, where it lies in local HBM (16 R431). -/
def State.prodAt (s : State) (c : Comm) : Option Nat :=
  match s.walk c.part c.ctl with
  | .fault _ => none
  | .leaf e b _ => if placeOf (leafAddr e b c.ctl) = .hbm then some (leafAddr e b c.ctl) else none

/-- The bytes of a line that hold PROD of a communicator (16 R431). -/
def State.prodMask (s : State) (line : Nat) (c : Comm) : LineMask :=
  match s.prodAt c with
  | none => 0
  | some pa => if pa / 128 = line then byteMask (pa % 128) 8 else 0

/-- A write to PROD of communicators reaches their engines, with the HYP that it was written under (16 R431). -/
def State.wakeRings (s : State) (line : Nat) (m : LineMask) (hyp : BitVec 12) : State :=
  (List.range s.comms.length).foldl (init := s) fun s i =>
    match s.comms[i]? with
    | none => s
    | some c =>
      if s.prodMask line c &&& m = 0 then s
      else s.post (.collProdWrite i (BitVec.ofNat 64 (s.hbm.read 8 ((s.prodAt c).getD 0))) hyp)

/-- The bytes of a line that are PROD of some communicator: they have no versions (16 R431, 05 R141). -/
def State.ringBytes (s : State) (line : Nat) : LineMask := s.comms.foldl (fun m c => m ||| s.prodMask line c) 0

/-- The root frames of a line in the LLC are modified against HBM and have the line's poison (03 R81). -/
def rootModified (line : Nat) (psn : Bool) (kt : Nat × Option LlcTag) : Nat × Option LlcTag :=
  if keyLine kt.1 = line ∧ keyTag kt.1 = 0 then (kt.1, kt.2.map fun t => { t with state := 2, psn := psn }) else kt

/-- A home holds a root line for a partition, where it finds room (03 R82). -/
def State.holdRoot (s : State) (part line : Nat) : State :=
  match s.llcAlloc part 0 line with
  | .inl s1 => s1
  | .inr s1 => s1

/-- A die that writes a table line drops what it translated through it as the other dies do (06 R167). -/
def State.selfInvalidate (s : State) (die : Nat) (w : LineWrite) : State :=
  if (s.die die).usesTable w.line then s.post (.applyInvalidation die { w with bytes := ⟨0, 0⟩ }) else s

/-- A root write is applied at its home (03 R85, R99): the bytes, their poison, the LLC's state, invalidations to the sharers. A home in
host bias has taken the line from the host (06 R176). -/
def State.rootApply (s : State) (line : Nat) (x : LineBytes) (clock : List Nat) (except : Nat) (part : Nat := 0) (psn : Bool := false) :
    State :=
  let s1 := (s.holdRoot part line).homeWrite line x
  let s2 : State := { s1 with hbmPsn := if psn && !s1.hbmPsn.contains line then s1.hbmPsn ++ [line] else s1.hbmPsn }
  let s3 : State := { s2 with
    llc := s2.llc.map (rootModified line (s2.rootPoisoned line))
    modl := { s2.modl with hostCopies := s2.modl.hostCopies.filter fun l => l ≠ line } }
  let w : LineWrite := ⟨line, 0, 0, x, except, clock, psn⟩
  ((s3.sendInvalidations w except).selfInvalidate except w).wakeRings line x.mask 0

/-- `n` bytes of `x` from physical address `pa`, all within one line, as a part of the line. -/
def bytesAt (pa n x : Nat) : LineBytes :=
  ⟨byteMask (pa % 128) n, BitVec.ofNat 1024 (x % 2 ^ (8 * n) * 2 ^ (8 * (pa % 128)))⟩

/-- An agent of no compute die (Chihoat's bring-up core, the host, another module) writes root memory at the home. While the frame is
flipped the write counts as performed before the flip began, which no agent can tell from after it (06 R177). -/
def State.agentWrite (s : State) (pa n x : Nat) (part : Nat := 0) : State :=
  s.rootApply (pa / 128) (bytesAt pa n x) s.applied 12 part

/-- Whether a home has applied every write that a clock names as a predecessor (03 R85, 04 R116, R117): no such write is on its way. The
writes of one batch are not ordered. -/
def State.canApply (s : State) (w : LineWrite) : Bool :=
  !s.pending.any fun i => match i with
    | .homeApplyWrite u =>
      decide (clockAt u.clock u.die ≤ clockAt w.clock u.die) && !(u.die = w.die && clockAt u.clock u.die = clockAt w.clock u.die)
    | _ => false

/-- A home's slice holds the frame of a line under a tag, with its version if it was spilled (03 R82, 05 R154). -/
def State.homeHolds (s : State) (part tag line : Nat) : State ⊕ State :=
  match s.readBack part tag line with
  | .inr s1 => .inr s1
  | .inl s1 => s1.llcAlloc part tag line

/-- A propagated write of live bytes at a home that holds the line (03 R85, 05 R145, 16 R431). -/
def State.applyAt (s : State) (w : LineWrite) (t : Nat) : State :=
  let s1 := if t = 0 then s.rootApply w.line w.bytes w.clock w.die w.part w.psn
    else
      let b : LineBytes := { w.bytes with mask := w.bytes.mask &&& ~~~s.ringBytes w.line }
      let s1 := if b.mask = 0 then s else s.versionWrite w.part t w.line b w.psn
      (s1.sendInvalidations { w with tag := t } w.die).wakeRings w.line w.bytes.mask (BitVec.ofNat 12 t)
  s1.share w.part t w.line w.die

/-- HOME_APPLY_WRITE: a home applies a propagated write in causal order; it allocates the line if it does not hold it (03 R82, R85, 04
R117, 05 R145). The writing die holds the bytes in its frame, so it is recorded in SHARERS (03 R81, R84). Bytes under a tag that is no
longer live are discarded (05 R149). -/
def execHomeApplyWrite (w : LineWrite) (s : State) : Host.Outcome State Fault Refusal :=
  if !s.canApply w then happened (s.post (.homeApplyWrite w))
  else
    let t := s.effectiveTag w.part w.tag
    let seen := fun s : State =>
      { s with applied := clockSet s.applied w.die (max (clockAt s.applied w.die) (clockAt w.clock w.die)) }.post (.writeAck w)
    if !s.tagLive w.part w.tag then happened (seen s)
    else match s.homeHolds w.part t w.line with
      | .inr s1 => happened (s1.post (.homeApplyWrite w))
      | .inl s1 => happened (seen (s1.applyAt w t))

/-- Whether a write of a die's slice order is bytes of a line under a tag, as tags count now. -/
def State.outOf (s : State) (part tag line : Nat) (o : OutWrite) : Bool :=
  keyLine o.key = line && keyPart o.key = part && s.effectiveTag part (keyTag o.key) = tag

/-- WRITE_ACK: the acknowledged bytes leave DMASK unless written again (03 R85); a discarded PROD leaves the frame (16 R431). -/
def execWriteAck (w : LineWrite) (s : State) : Host.Outcome State Fault Refusal :=
  let t := s.effectiveTag w.part w.tag
  let acked := fun o : OutWrite => o.key = lineKey w.part w.tag w.line && o.sent = some (clockAt w.clock w.die)
  happened (s.modDie w.die fun d =>
    let out := d.out.filter fun o => !acked o
    let kept := (out.filter (s.outOf w.part t w.line)).foldl (fun m o => m ||| o.bytes.mask) 0
    let f := d.frame w.part t w.line
    let gone := if t = 0 then 0 else w.bytes.mask &&& ~~~kept &&& s.ringBytes w.line
    let g : Frame := { f with dmask := f.dmask &&& (~~~w.bytes.mask ||| kept), vmask := f.vmask &&& ~~~gone }
    { d.setFrame w.part t w.line { g with state := frameState t g } with out := out })

/-- The writes of the oldest batch that a die has not sent (04 R116). -/
def Die.nextBatch (d : Die) : List OutWrite :=
  match d.out.find? fun o => o.sent.isNone with
  | none => []
  | some o => d.out.filter fun q => q.sent.isNone && q.epoch = o.epoch

/-- A die as it has sent the batch of an epoch with index n (04 R116). -/
def Die.batchSent (d : Die) (epoch n : Nat) (clock : List Nat) : Die :=
  { d with
    clock := clock
    epoch := if epoch = d.epoch then d.epoch + 1 else d.epoch
    out := d.out.map fun q => if q.sent.isNone && q.epoch = epoch then { q with sent := some n } else q }

/-- ROOT_WRITE_BATCH_SEND: a die's slices send the oldest batch of what they have written, with the next index of the die; batches go in
order, the writes of one reach their homes in any order (03 R85, 04 R116, R117, 05 R145). -/
def execRootWriteBatchSend (die : Nat) (s : State) : Host.Outcome State Fault Refusal :=
  let d := s.die die
  match d.nextBatch with
  | [] => happened s
  | o :: os =>
    let n := clockAt d.clock die + 1
    let clock := clockSet d.clock die n
    let s1 := (o :: os).foldl (init := s.modDie die fun d => d.batchSent o.epoch n clock) fun s q =>
      s.post (.homeApplyWrite ⟨keyLine q.key, keyTag q.key, keyPart q.key, q.bytes, die, clock, q.psn⟩)
    happened (if (s1.die die).nextBatch.isEmpty then s1 else s1.postOnce (.rootWriteBatchSend die))

/-- Whether an engine command of the die has started and not yet written every destination line, some of which it translated through a
table line (06 R167). -/
def State.tableBusy (s : State) (die line : Nat) : Bool :=
  (s.cores.any fun kc => kc.1 / 104 = die && kc.2.cmds.any fun nc => match nc.2 with
    | none => false
    | some c => decide (c.phase < 4) && c.work.tables.contains line) ||
  s.comms.any fun c => c.hdie = die && decide (c.phase < 2) && c.work.tables.contains line

/-- Whether an invalidation must wait: for another that its clock names as a predecessor (04 R117), or for the acknowledgement of the
die's own write to the bytes, which its home has applied and which DMASK still covers, so that the die reads the home's value after the
sweep (03 R85, R86, 04 R119; log entry 95). -/
def State.mustFollow (s : State) (die : Nat) (w : LineWrite) : Bool :=
  s.pending.any fun i => match i with
    | .applyInvalidation d u => d = die && u.clock ≠ w.clock && clockLe u.clock w.clock && !(u.bytes.mask = 0 && s.tableBusy die u.line)
    | .writeAck u => u.die = die && u.line = w.line && u.bytes.mask &&& w.bytes.mask ≠ 0
    | _ => false

/-- APPLY_INVALIDATION: a die drops the bytes, and what it translated through the line, in causal order (03 R85, 04 R117, 06 R167). While a
started engine command has still to write lines that it translated through it, the invalidation stays, without bytes, so that neither a
sweep nor TSYNC completes before those writes (06 R167, R173). -/
def execApplyInvalidation (die : Nat) (w : LineWrite) (s : State) : Host.Outcome State Fault Refusal :=
  if s.mustFollow die w then happened (s.post (.applyInvalidation die w))
  else
    let t := s.effectiveTag w.part w.tag
    let s1 := s.invalidate die w.part t w.line w.bytes.mask true
    let s2 := s1.modDie die fun d => { d with clock := clockMax d.clock w.clock }
    let s3 := if t = 0 then s2.dropLeaves die w.line else s2
    happened (if t = 0 ∧ s.tableBusy die w.line then s3.post (.applyInvalidation die { w with bytes := ⟨0, 0⟩ }) else s3)

/-- Whether a die still has to apply an invalidation sent to it, of a line of the given cache die or of any. -/
def State.invalidationsDue (s : State) (die : Nat) (cacheDie : Option Nat) : Bool :=
  s.pending.any fun i => match i with
    | .applyInvalidation d u => d = die && (cacheDie.isNone || cacheDie = some (homeDie u.line))
    | _ => false

/-- Whether a die still has to drop bytes by an invalidation sent to it. -/
def State.dropsDue (s : State) (die : Nat) : Bool :=
  s.pending.any fun i => match i with
    | .applyInvalidation d u => d = die && !(u.bytes.mask = 0 && s.tableBusy die u.line)
    | _ => false

/-- A sweep that no waiting word asked for is complete: it ends acquire halves and returns the ticket of a `fence.sc`; what the die writes
from now on follows what it wrote before (03 R86, 04 R117, R121, R122, R124). -/
def State.sweepDone (s : State) (g : GroupRef) : State :=
  let back := match s.group? g with
    | none => false
    | some x => x.fences.any fun f => f.f = 3 && f.acq = 1
  let s1 := s.modGroup g fun x =>
    { x with sweep := none, loadSweep := false, ticket := if back then 0 else x.ticket
             fences := x.fences.map fun f => if f.acq = 1 then { f with acq := 2 } else f }
  (({ s1 with modl := if back then { s1.modl with ticketHolder := none } else s1.modl }).closeBatch (dieOf g.core)).stepFences g

/-- SWEEP_ANSWER: a cache die answers when every invalidation it sent has been applied; the last answer completes the sweep
(03 R86). -/
def execSweepAnswer (g : GroupRef) (cacheDie : Nat) (s : State) : Host.Outcome State Fault Refusal :=
  match s.group? g with
  | none => happened s
  | some x =>
    match x.sweep with
    | none => happened s
    | some m =>
      if s.invalidationsDue (dieOf g.core) (some cacheDie) then happened (s.post (.sweepAnswer g cacheDie))
      else
        let m' := m ||| (1#8 <<< cacheDie)
        happened (if m' = 0xFF ∧ (x.loadSweep ∨ x.fences.any (·.acq = 1)) then s.sweepDone g
          else s.modGroup g fun x => { x with sweep := some m' })

/-- Whether a group's `fence.sc` has completed its release half, so that it takes a ticket (04 R122). -/
def State.wantsTicket (s : State) (g : GroupRef) : Bool :=
  match s.group? g with
  | none => false
  | some x => x.fences.any fun f => f.f = 3 && (s.die (dieOf g.core)).relDone f

/-- FENCE_SC_TICKET: the sequencer grants its ticket to the oldest request when no fence holds it, and the acquire half begins (04 R122). -/
def execFenceScTicket (s : State) : Host.Outcome State Fault Refusal :=
  if s.modl.ticketHolder.isSome then happened (s.post .fenceScTicket)
  else match s.modl.ticketQueue.find? s.wantsTicket with
    | none => happened (if s.modl.ticketQueue.isEmpty then s else s.post .fenceScTicket)
    | some g => happened ({ s.modGroup g fun x => { x with ticket := 2 } with
        modl := { s.modl with ticketHolder := some g, ticketQueue := s.modl.ticketQueue.filter fun q => q ≠ g } }.stepFences g)

/-! ## Fills (03 R80, 05 R145) -/

/-- A die may take a fill: it has applied every invalidation sent to it, so that the fill brings no write before its
predecessors (04 R117). -/
def State.canFill (s : State) (die line : Nat) : Bool :=
  !s.dropsDue die && !s.isFlipping (128 * line)

/-- The home fills a frame for the bytes a read needs, and the die's clock rises to what the homes have applied (03 R80, 04 R116, 05 R145).
Spilled versions of the path come back, and the line finds its places in the LLC and the L2 (03 R83, 05 R154); while one has no room the
fill waits, on the right. -/
def State.fill (s : State) (die part tag line : Nat) (need : LineMask) : State ⊕ State :=
  match s.readBackPath part line (s.pathOf part tag) with
  | .inr s1 => .inr s1
  | .inl s1 =>
    match s1.llcAlloc part 0 line with
    | .inr s2 => .inr s2
    | .inl s2 =>
      match s2.l2Alloc die part tag line with
      | .inr s3 => .inr s3
      | .inl s3 => .inl ((s3.fillFrame die part tag line need).modDie die fun d => { d with clock := clockMax d.clock s.applied })

/-- HOME_REQUEST: a line request reaches its home and the frame is filled (03 R80, 05 R145). It counts under the tag that its own has
become; one of a refuted hypothesis is dropped (05 R149, R155). -/
def execHomeRequest (die part line : Nat) (want : Want) (s : State) : Host.Outcome State Fault Refusal :=
  let t := s.effectiveTag part want.tag
  if !s.tagLive part want.tag then happened s
  else if !s.canFill die line then happened (s.post (.homeRequest die part line want))
  else match s.fill die part t line want.need with
    | .inr s1 => happened (s1.post (.homeRequest die part line want))
    | .inl s1 => happened s1

/-! ## Logged words (15 R408) -/

/-- The kind of access of a logged word: 0 read, 1 write, 2 atomic (06 R162). -/
def MemOp.kind : MemOp → Nat
  | .store _ => 1
  | .atomic _ _ _ _ _ => 2
  | _ => 0

/-- Whether an atomic is performed at the home (03 R87). -/
def MemOp.atHome : MemOp → Bool
  | .atomic _ _ _ sc _ => 5 ≤ sc.toNat
  | _ => false

/-- An entry of a group's operand log by its number. -/
def State.logEntry (s : State) (g : GroupRef) (seq : Nat) : Option LogEntry :=
  (s.group? g).bind fun x => x.log.find? fun n => n.seq = seq

/-- Changes an entry of a group's operand log. -/
def State.modLog (s : State) (g : GroupRef) (seq : Nat) (f : LogEntry → LogEntry) : State :=
  s.modGroup g fun x => { x with log := x.log.map fun n => if n.seq = seq then f n else n }

/-- A fault found on a line of a logged word is delivered at the group's next issue cycle (15 R408). -/
def State.logFault (s : State) (g : GroupRef) (seq cls cause addr : Nat) : State :=
  match s.logEntry g seq with
  | none => s
  | some n =>
    if n.fault.isSome then s
    else (s.modLog g seq fun n => { n with fault := some ⟨cls, cause, addr⟩ }).post (.trapDeliver g seq)

/-- A logged word is complete: its entry and its fret go, and a sweep follows an acquire at .dev or wider (04 R121, 15 R408). -/
def State.closeLog (s : State) (g : GroupRef) (n : LogEntry) : State :=
  let s1 := s.dropLog g n
  if n.sweeps then s1.startSweep g true else if n.acquire then s1.closeBatch (dieOf g.core) else s1

/-- Accesses of a logged word are complete: they leave the entry, and lanes with none left are marked in DONE (15 R408). -/
def State.accsDone (s : State) (g : GroupRef) (seq : Nat) (gone : Access → Bool) : State :=
  let s1 := s.modLog g seq fun n =>
    let rest := n.accs.filter fun a => !gone a
    { n with accs := rest
             done := if n.lowest then (if rest.isEmpty then n.mask else n.done)
               else n.done ||| (n.mask &&& ~~~(maskOf fun l => rest.any fun a => a.lane = l)) }
  match s1.logEntry g seq with
  | none => s1
  | some n => if n.accs.isEmpty then s1.closeLog g n else s1

/-- The tag of an access: the HYP captured at issue, followed through a confirmation (05 R140, R149). -/
def State.accTag (s : State) (part : Nat) (n : LogEntry) (a : Access) : Nat :=
  s.effectiveTag part (n.hyp.get 0 a.lane).toNat

/-- Whether an access is that of a lane whose hypothesis has been refuted: its writes are discarded (05 R149, R156). -/
def State.accLive (s : State) (part : Nat) (n : LogEntry) (a : Access) : Bool :=
  s.tagLive part (n.hyp.get 0 a.lane).toNat

/-- The lanes that receive what an access reads. -/
def LogEntry.lanes (n : LogEntry) (a : Access) : Lanes := if n.lowest then n.mask else oneLane a.lane

/-- An access's bytes within its line. -/
def Access.mask (a : Access) : LineMask := byteMask (a.addr % 128) a.width

/-- An access's data as a part of its line. -/
def Access.bytesIn (a : Access) : LineBytes :=
  ⟨a.bytes.setWidth 128 <<< (a.addr % 128), a.data.setWidth 1024 <<< (8 * (a.addr % 128))⟩

/-- SRC of a hint: the memory that a leaf names (06 R170). -/
def hintSource (pa : Nat) : Nat :=
  match placeOf pa with
  | .host => 1
  | .remote => 2
  | .hbm => 0

/-- A hint is written to the die's ring, or dropped if the ring is full (06 R170, R171). -/
def State.writeHint (s : State) (die part vpage count src : Nat) : State :=
  let d := s.die die
  let tail := d.hintPtr.extractLsb' 32 16
  let head := d.hintPtr.extractLsb' 0 16
  let drop := d.hintPtr.extractLsb' 48 16
  if tail - head = 256 then
    s.modDie die fun d => { d with hintPtr := (if drop = 0xFFFF then drop else drop + 1) ++ d.hintPtr.extractLsb' 0 48 }
  else
    let hint := vpage % 2 ^ 40 * 2 ^ 16 + part % 64 * 2 ^ 10 + die % 16 * 2 ^ 6 + src * 2 ^ 4 + count % 2 ^ 32 * 2 ^ 64
    let base := (d.hintBase.extractLsb' 12 40).toNat * 4096
    let s1 := if base < 2 ^ 40 then s.agentWrite (base + 16 * (tail.toNat % 256)) 16 hint else s
    s1.modDie die fun d => { d with hintPtr := (drop ++ (tail + 1)) ++ d.hintPtr.extractLsb' 0 32 }

/-- A line request that is forwarded is counted when its leaf has CNT; a count that reaches HINTTHR restarts, and its hint, with the count
at the crossing, is on its way (06 R170). An entry displaced from the table loses its count. -/
def State.countForward (s : State) (die part va pa : Nat) (cnt : Bool) : State :=
  let thr := ((s.die die).hintThr.extractLsb' 0 16).toNat
  if !cnt || thr = 0 then s
  else
    let k := part * 2 ^ 40 + va / 65536
    let cs := (s.die die).counters
    let n := cs.get 0 k + 1
    let full := 4096 ≤ cs.length ∧ cs.get 0 k = 0
    let cs1 : Tbl Nat := if full then cs.eraseIdx (Config.choice s.choices % cs.length) else cs
    let s1 := if full then { s with choices := s.choices + 1 } else s
    if n < thr then s1.modDie die fun d => { d with counters := cs1.set 0 k n }
    else (s1.modDie die fun d => { d with counters := cs1.set 0 k 0 }).post (.hintPost die part ⟨va / 65536, n, hintSource pa⟩)

/-- A number put into its place in an ascending list. -/
def insertNat (n : Nat) : List Nat → List Nat
  | [] => [n]
  | k :: t => if n ≤ k then n :: k :: t else k :: insertNat n t

/-- The median rate of a team's live groups, the lower middle one (14 R393). -/
def Team.median (t : Team) : Nat :=
  let rs := (t.groups.filterMap fun g => g.2.bind fun x => if x.released then none else some x.rate).foldl
    (fun l r => insertNat r l) []
  rs.getD ((rs.length - 1) / 2) 0

/-- The favoured group of a team (14 R393). -/
def Team.favoured (t : Team) : Option Nat :=
  (t.groups.foldl (init := (none : Option (Nat × Nat))) fun best g =>
    match g.2 with
    | none => best
    | some x =>
      let lag := t.median - x.rate
      if x.released || lag = 0 then best
      else match best with
        | none => some (g.1, lag)
        | some (b, l) => if l < lag then some (g.1, lag) else some (b, l)).map (·.1)

/-- A frame's PRI after a hit or fill for a group (03 R83). A frame that `ld.nc` has had filled gets PRI 0 and is the first victim of its
set; on a hit `ld.nc` changes nothing (11 R282). -/
def State.touchFrame (s : State) (g : GroupRef) (part tag line : Nat) (nc filled : Bool) : State :=
  if nc && !filled then s
  else
    let fav := !nc && ((s.team? g).bind Team.favoured) = some g.grp
    s.modDie (dieOf g.core) fun d => d.setFrame part tag line { d.frame part tag line with pri := fav, first := nc }

/-- Whether a logged word is `ld.nc`. -/
def LogEntry.nc (n : LogEntry) : Bool := n.word.extractLsb' 26 5 = 14 && n.word.extractLsb' 22 4 = 9

/-! ## Page walks in flight (06 R166) -/

/-- A 64 KiB page by its index in the tables of the four levels (06 R162). -/
def pageAt (i0 i1 i2 i3 : Nat) : Nat := ((i0 * 1024 + i1) * 1024 + i2) * 1024 + i3

/-- The walk of a page. -/
def walkOf (die part vpage : Nat) : Instr :=
  .translationWalk ⟨die, part⟩ (vpage / 2 ^ 30) (vpage / 2 ^ 20 % 1024) (vpage / 2 ^ 10 % 1024) (vpage % 1024)

/-- The indices of a page give it back. -/
theorem pageAt_indices (v : Nat) : pageAt (v / 2 ^ 30) (v / 2 ^ 20 % 1024) (v / 2 ^ 10 % 1024) (v % 1024) = v := by
  unfold pageAt; omega

/-- A miss of a die: it joins a walk of its page that runs or waits, or starts one, or enters the miss queue; none while the queue of 1,024
is full (06 R166). -/
def State.missOn (s : State) (die part vline : Nat) (w : Waiter) : Option State :=
  let d := s.die die
  let v := vline / 512
  let same := fun y : PageWalk => y.part = part && y.vpage = v
  let join := fun y : PageWalk => if same y && !y.waiters.contains w then { y with waiters := y.waiters ++ [w] } else y
  if d.walks.any same || d.missQ.any same then some (s.modDie die fun d => { d with walks := d.walks.map join, missQ := d.missQ.map join })
  else if d.walks.length < 256 then
    some ((s.modDie die fun d => { d with walks := d.walks ++ [⟨part, v, [w]⟩] }).post (walkOf die part v))
  else if d.missQ.length < 1024 then some (s.modDie die fun d => { d with missQ := d.missQ ++ [⟨part, v, [w]⟩] })
  else none

/-- A walk has ended: the oldest miss in the queue takes its place (06 R166). -/
def State.endWalk (s : State) (die part vpage : Nat) : State :=
  let left := (s.die die).walks.filter fun y => !(y.part = part && y.vpage = vpage)
  match (s.die die).missQ with
  | [] => s.modDie die fun d => { d with walks := left }
  | y :: rest => (s.modDie die fun d => { d with walks := left ++ [y], missQ := rest }).post (walkOf die y.part y.vpage)

/-- What stands between a logged word's line and its being performed. -/
inductive LineState where
  /-- Needs a walk. -/
  | walk
  /-- Waits: for a leaf without WP, or a flip. -/
  | stalled
  /-- The page refuses the access. -/
  | refused (cause : Nat)
  /-- The line's physical address and leaf. -/
  | at_ (pa : Nat) (pte : DWord)
  deriving DecidableEq, Repr

/-- Translates one line for an access of kind 0 read, 1 write, 2 atomic (06 R162). -/
def State.translate (s : State) (die part va kind : Nat) : LineState :=
  match s.cachedLeaf die part va with
  | none => .walk
  | some l =>
    if kind = 0 && !pteBit l.pte 61 then .refused 2
    else if kind = 1 && !pteBit l.pte 60 then .refused 3
    else if kind = 2 && !pteBit l.pte 59 then .refused 4
    else if kind ≠ 0 && pteBit l.pte 58 then .stalled
    else
      let pa := leafAddr l.pte l.bits va
      if s.isFlipping pa then .stalled else .at_ pa l.pte

/-- A frame in host bias that a store or atomic under a hypothesis reaches is flipped to device bias first (05 R142, 06 R177). -/
def State.needsFlip (s : State) (pa : Nat) : Bool := s.hostBias pa

/-- Before a die writes a line in host bias, the home takes it from the host (06 R176). -/
def State.hostYields (s : State) (line : Nat) : State :=
  if s.modl.hostCopies.contains line then { s with modl := { s.modl with hostCopies := s.modl.hostCopies.filter fun l => l ≠ line } } else s

/-- Starts a flip of a frame at the home's own request (06 R177). -/
def State.startFlip (s : State) (pa : Nat) (toHost : Bool) : State :=
  { s.post (.biasFlipDone (pa / 65536) toHost) with
    modl := { s.modl with flipping := s.modl.flipping ++ [(pa / 65536, toHost)] } }

/-- Accesses of one line of a load are read from the frames of the die, one copy of the line for each view (01 R35). -/
def State.readLine (s : State) (g : GroupRef) (part line : Nat) (n : LogEntry) (accs : List Access) : State :=
  accs.foldl (init := s.noteRead (dieOf g.core) line (accs.foldl (fun m a => m ||| a.mask) 0)) fun s a =>
    let v := lineBytes ((s.die (dieOf g.core)).frame part (s.accTag part n a) line).data (a.addr % 128) a.width
    s.modTeam g fun t => n.op.put a (n.lanes a) v g.grp t

/-- Later bytes over earlier ones. -/
def overBytes (x y : LineBytes) : LineBytes := ⟨x.mask ||| y.mask, mergeLine y.data x.data x.mask⟩

/-- The bytes that a store word writes to one line under a tag: overlapping bytes end with the highest lane's (01 R35). -/
def State.storedBytes (s : State) (part tag : Nat) (n : LogEntry) (accs : List Access) : LineBytes :=
  accs.foldl (fun x a => if s.accLive part n a && s.accTag part n a = tag then overBytes a.bytesIn x else x) ⟨0, 0⟩

/-- The tags under which accesses count, each once. -/
def State.accTags (s : State) (part : Nat) (n : LogEntry) (accs : List Access) : List Nat := (accs.map (s.accTag part n)).eraseDups

/-- A slice makes room for a line under each of a list of tags (03 R84). -/
def State.allocTags (s : State) (die part line : Nat) : List Nat → State ⊕ State
  | [] => .inl s
  | t :: rest =>
    match s.l2Alloc die part t line with
    | .inr s1 => .inr s1
    | .inl s1 => State.allocTags s1 die part line rest

/-- Accesses of one line of a store are performed in the die's slice, as one write under each tag (03 R84, R99, 01 R35, 05 R149). -/
def State.writeLine (s : State) (g : GroupRef) (part line : Nat) (n : LogEntry) (accs : List Access) : State :=
  ((s.accTags part n accs).foldl (init := s) fun s t =>
    let x := s.storedBytes part t n accs
    if x.mask = 0 then s else s.sliceWrite (dieOf g.core) part t line x false).postOnce (.rootWriteBatchSend (dieOf g.core))

/-- One atomic access in the frame of its tag in the die's slice (03 R87, 05 R146). -/
def State.atomSlice (s : State) (g : GroupRef) (part line : Nat) (n : LogEntry) (a : Access) : State :=
  let tag := s.accTag part n a
  let old := lineBytes ((s.die (dieOf g.core)).frame part tag line).data (a.addr % 128) a.width
  let s0 := s.noteRead (dieOf g.core) line a.mask
  let s1 := match n.op.newValue a old with
    | none => s0
    | some x => (s0.sliceWrite (dieOf g.core) part tag line (bytesAt a.addr a.width x) false).postOnce (.rootWriteBatchSend (dieOf g.core))
  s1.modTeam g fun t => n.op.put a (n.lanes a) old g.grp t

/-- The line of a view at the homes alone (05 R143, R146). -/
def State.homeView (s : State) (part line : Nat) : List Nat → Line
  | [] => s.homeLine line
  | t :: rest =>
    let base := State.homeView s part line rest
    let v := if t = 0 then ⟨0, 0⟩ else s.version part t line
    mergeLine base v.data v.mask

/-- An agent of a die writes bytes at the home: the write takes the die's next batch index and the clock of what the homes have applied,
every sharer's bytes are invalidated, the die's own at once (03 R87, 04 R116, R117). -/
def State.writeHome (s : State) (die part tag line : Nat) (b : LineBytes) : State :=
  let seen := clockMax (s.die die).clock s.applied
  let k := clockAt seen die + 1
  let clock := clockSet seen die k
  let s0 := { s.modDie die fun d => { d with clock := clock } with applied := clockSet s.applied die k }
  (s0.applyAt ⟨line, tag, part, b, die, clock, false⟩ tag).invalidate die part tag line b.mask true

/-- One atomic access at the home (03 R87, 05 R146); the die's clock rises to what the homes have applied. -/
def State.atomHome (s : State) (g : GroupRef) (part line : Nat) (n : LogEntry) (a : Access) : State :=
  let die := dieOf g.core
  let tag := s.accTag part n a
  let old := lineBytes (s.homeView part line (s.pathOf part tag)) (a.addr % 128) a.width
  let seen := clockMax (s.die die).clock s.applied
  let s1 := match n.op.newValue a old with
    | none => s.modDie die fun d => { d with clock := seen }
    | some x => s.writeHome die part tag line (bytesAt a.addr a.width x)
  s1.modTeam g fun t => n.op.put a (n.lanes a) old g.grp t

/-- One access forwarded to its owner (06 R169). -/
def State.forwardAccess (s : State) (g : GroupRef) (pa owner : Nat) (n : LogEntry) (a : Access) : State :=
  let p := pa / 128 * 128 + a.addr % 128
  match n.op with
  | .store _ => s.forwardedWrite p owner a.width a.data.toNat a.bytes.toNat
  | .atomic _ _ _ _ _ =>
    let old := s.forwardedRead p owner a.width
    let s1 := match n.op.newValue a old with
      | none => s
      | some x => s.forwardedWrite p owner a.width x (2 ^ a.width - 1)
    s1.modTeam g fun t => n.op.put a (n.lanes a) old g.grp t
  | _ => s.modTeam g fun t => n.op.put a (n.lanes a) (s.forwardedRead p owner a.width) g.grp t

/-- How one line of a logged word ends for now: it waits, a fault is found, or accesses are done. -/
inductive LineEnd where
  | waits (s : State)
  | faults (s : State)
  | done (s : State) (gone : List Access)

/-- A line outside local HBM for a logged word: it is forwarded, refused, or on a broken route (06 R169, 16 R425, R429); a store or atomic
under a hypothesis traps (05 R142). An atomic performs one lane's operation at a time (11 R288). -/
def State.forwardLine (s : State) (g : GroupRef) (seq part vline pa : Nat) (pte : DWord) (n : LogEntry) (accs : List Access) : LineEnd :=
  let now := if n.op.kind = 2 then accs.take 1 else accs
  if n.op.kind ≠ 0 ∧ now.any (fun a => s.accTag part n a ≠ 0) then .faults (s.logFault g seq 4 8 0)
  else match s.forwarding pa (pteOwner pte) with
    | .open_ =>
      if n.op.kind ≠ 1 && s.farPoisoned pa (pteOwner pte) then .faults (s.logFault g seq 12 0 0)
      else
        let s1 := now.foldl (fun s a => s.forwardAccess g pa (pteOwner pte) n a)
          (s.countForward (dieOf g.core) part (128 * vline) pa (pteBit pte 57 && now.length = accs.length))
        .done (if n.op.kind = 1 then s1.setFar (farLine pa (pteOwner pte)) (now.foldl (fun m a => m ||| a.mask) 0) false else s1) now
    | .refused => .faults (s.logFault g seq 4 0 (128 * vline))
    | .broken => if n.op.returns then .faults (s.logFault g seq 12 0 0) else .done s.loseStore now

/-- Whether the die's frames hold every byte that the accesses read (03 R80, 05 R145). -/
def State.covered (s : State) (die part line : Nat) (n : LogEntry) (accs : List Access) : Bool :=
  accs.all fun a => a.mask &&& ~~~((s.die die).frame part (s.accTag part n a) line).vmask = 0

/-- The bytes that accesses under a tag read. -/
def State.needOf (s : State) (part tag : Nat) (n : LogEntry) (accs : List Access) : LineMask :=
  accs.foldl (fun m a => if s.accTag part n a = tag then m ||| a.mask else m) 0

/-- Fills the frames of the views that accesses read; on the right while one waits for room. -/
def State.fillFor (s : State) (die part line : Nat) (n : LogEntry) (accs : List Access) : List Nat → State ⊕ State
  | [] => .inl s
  | t :: rest =>
    match s.fill die part t line (s.needOf part t n accs) with
    | .inr s1 => .inr s1
    | .inl s1 => State.fillFor s1 die part line n accs rest

/-- Requests the bytes that accesses read, in the frames of their views. -/
def State.requestFor (s : State) (g : GroupRef) (part line : Nat) (n : LogEntry) (accs : List Access) : State :=
  (s.accTags part n accs).foldl (fun s t => s.postOnce (.homeRequest (dieOf g.core) part line ⟨t, s.needOf part t n accs⟩))
    (s.modLog g n.seq fun n => { n with filled := if n.filled.contains line then n.filled else n.filled ++ [line] })

/-- Whether an agent of a die can write at homes (04 R117): the die has applied every invalidation sent to it, and its writes of every
closed batch have been applied. -/
def State.homesOpen (s : State) (die : Nat) : Bool :=
  let d := s.die die
  !s.dropsDue die && d.out.all fun o => o.sent.isNone && o.epoch = d.epoch

/-- What an atomic at the home waits for (03 R87, 05 R146): besides, the die's bytes of the line under the tags of the path have reached the
homes. -/
def State.lineSettled (s : State) (die part line : Nat) (path : List Nat) : Bool :=
  s.homesOpen die && (s.die die).out.all fun o =>
    !(keyLine o.key = line && (keyTag o.key = 0 || keyPart o.key = part && path.contains (s.effectiveTag part (keyTag o.key))))

/-- One atomic access of a logged word that is performed at the home (03 R87, R99, 05 R146). -/
def State.homeAtomic (s : State) (g : GroupRef) (part line : Nat) (n : LogEntry) (a : Access) : LineEnd :=
  let die := dieOf g.core
  let tag := s.accTag part n a
  let path := s.pathOf part tag
  if !s.lineSettled die part line path then .waits (s.postOnce (.rootWriteBatchSend die))
  else match s.readBackPath part line path with
    | .inr s1 => .waits s1
    | .inl s1 =>
      match s1.homeHolds part tag line with
      | .inr s2 => .waits s2
      | .inl s2 =>
        if s2.homePoisoned part line path then .faults (s2.logFault g n.seq 12 0 0)
        else .done (s2.atomHome g part line n a) [a]

/-- A line of local HBM for a logged word. An access of a lane whose hypothesis has been refuted has no effect: a store or atomic is
discarded (05 R149), and so is a load, whose frames count as free and which would otherwise wait for a fill (05 R149, R155; log entry 96).
An atomic performs one lane's operation at a time (11 R288). -/
def State.hbmLine (s : State) (g : GroupRef) (part pa seq : Nat) (n : LogEntry) (accs : List Access) : LineEnd :=
  let die := dieOf g.core
  let line := pa / 128
  let dead := accs.filter fun a => !s.accLive part n a
  let tags := s.accTags part n accs
  if !dead.isEmpty then .done s dead
  else if tags.any fun t => s.owned die part t line then .waits s
  else if n.op.kind ≠ 0 && tags.any (· ≠ 0) && s.needsFlip pa then .waits (s.startFlip pa false)
  else if n.op.kind = 1 then
    match s.allocTags die part line tags with
    | .inr s1 => .waits s1
    | .inl s1 => .done ((s1.hostYields line).writeLine g part line n accs) accs
  else if n.op.atHome then match accs with
    | [] => .done s []
    | a :: _ => s.homeAtomic g part line n a
  else if n.plainWide then
    if !s.canFill die line then .waits s
    else match s.fillFor die part line n accs tags with
      | .inr s1 => .waits s1
      | .inl s1 =>
        if tags.any fun t => s1.linePoisoned die part t line then .faults (s1.logFault g seq 12 0 0)
        else .done (s1.readLine g part line n accs) accs
  else if !s.covered die part line n accs then .waits (s.requestFor g part line n accs)
  else if tags.any fun t => s.linePoisoned die part t line then .faults (s.logFault g seq 12 0 0)
  else if n.op.kind = 2 then match accs with
    | [] => .done s []
    | a :: _ => .done ((s.hostYields line).atomSlice g part line n a) [a]
  else .done ((tags.foldl (fun s t => s.touchFrame g part t line n.nc (n.filled.contains line)) (s.readLine g part line n accs))) accs

/-- A leaf that a core has used enters its translation cache of 512 leaves (06 R165). -/
def State.coreCaches (s : State) (core part va : Nat) : State :=
  match s.cachedLeaf (dieOf core) part va with
  | none => s
  | some l =>
    let y := (l.part, l.base, l.bits)
    let c := s.core core
    if c.tcache.contains y then s
    else if c.tcache.length < 512 then s.modCore core fun c => { c with tcache := c.tcache ++ [y] }
    else { s.modCore core fun c => { c with tcache := c.tcache.eraseIdx (Config.choice s.choices % 512) ++ [y] } with choices := s.choices + 1 }

/-- One line of a logged word: translation, permission, then the access; `again` is the event itself, which is delivered anew
while the line must wait (03 R92, R103, 06 R162, 15 R408). -/
def lineEvent (g : GroupRef) (seq vline : Nat) (again : Instr) (s : State) : State :=
  match s.team? g, s.logEntry g seq with
  | some t, some n =>
    let accs := n.accs.filter fun a => a.addr / 128 = vline
    let die := dieOf g.core
    if accs.isEmpty then s
    else match s.translate die t.bind.part (128 * vline) n.op.kind with
      | .walk => match s.missOn die t.bind.part vline (.lane g seq vline) with
        | none => s.post again
        | some s1 => s1
      | .stalled => s.post again
      | .refused c => s.logFault g seq 4 c (128 * vline)
      | .at_ pa pte =>
        let s0 := s.coreCaches g.core t.bind.part (128 * vline)
        match (if placeOf pa = .hbm then s0.hbmLine g t.bind.part pa seq n accs else s0.forwardLine g seq t.bind.part vline pa pte n accs) with
        | .waits s1 => s1.post again
        | .faults s1 => s1
        | .done s1 gone =>
          let s2 := s1.accsDone g seq fun a => gone.contains a
          if gone.length < accs.length then s2.post again else s2
  | _, _ => s

/-- LINE_DATA_ARRIVE: a requested line reaches the core, and the destinations of its lanes are written (03 R103). -/
def execLineDataArrive (g : GroupRef) (entry vline : Nat) (s : State) : Host.Outcome State Fault Refusal :=
  happened (lineEvent g entry vline (.lineDataArrive g entry vline) s)

/-- LANE_STORE_PERFORM: a store is performed in its slice (03 R84). -/
def execLaneStorePerform (g : GroupRef) (entry vline : Nat) (s : State) : Host.Outcome State Fault Refusal :=
  happened (lineEvent g entry vline (.laneStorePerform g entry vline) s)

/-! ## Translation walks (06 R162 to R167) -/

/-- The table lines that a walk reads, in order, up to where it ends. -/
def State.walkLines (s : State) (va : Nat) : (n : Nat) → (table : Nat) → List Nat
  | 0, _ => []
  | n + 1, table =>
    let lvl := 3 - n
    let at_ := table + 8 * (va / 2 ^ (46 - 10 * lvl) % 1024)
    let e := BitVec.ofNat 64 (s.hbm.read 8 at_)
    if pteBit e 63 && !pteMalformed s.modl.moduleId e lvl && !pteBit e 62 then
      at_ / 128 :: State.walkLines s va n (pteAddr e)
    else [at_ / 128]

/-- Chihoat's writes of table entries at their homes, before a team is bound that uses them. -/
def State.installRoot (s : State) (ws : List (Nat × DWord)) : State := ws.foldl (fun s w => s.agentWrite (w.1 / 8 * 8) 8 w.2.toNat) s

/-- Chihoat's writes of table entries, each performed at its home (06 R164): by its core on a die, whose root frames no partition
allocates. -/
def State.installEntries (s : State) (die : Nat) (ws : List (Nat × DWord)) : State :=
  ws.foldl (fun s w => s.writeHome die noPart 0 (w.1 / 8 * 8 / 128) (bytesAt (w.1 / 8 * 8) 8 w.2.toNat)) s


/-- The homes of table lines hold them and record a die in SHARERS (06 R167); on the right while one finds no room. -/
def State.shareTables (s : State) (die part : Nat) : List Nat → State ⊕ State
  | [] => .inl s
  | l :: rest =>
    match s.llcAlloc part 0 l with
    | .inr s1 => .inr s1
    | .inl s1 => State.shareTables (s1.share part 0 l die) die part rest

/-- A die's shared cache of 32,768 leaves takes one; what gives way to it leaves the cores too (06 R165). -/
def State.insertLeaf (s : State) (die : Nat) (l : Leaf) : State :=
  let d := s.die die
  if d.tcache.length < 32768 then s.modDie die fun d => { d with tcache := d.tcache ++ [l] }
  else
    let k := Config.choice s.choices % 32768
    let gone := (d.tcache[k]?).map fun o => (o.part, o.base, o.bits)
    let s1 := s.modDie die fun d => { d with tcache := d.tcache.eraseIdx k ++ [l] }
    { s1 with
      choices := s1.choices + 1
      cores := s1.cores.map fun kc =>
        if kc.1 / 104 = die then (kc.1, { kc.2 with tcache := kc.2.tcache.filter fun y => some y ≠ gone }) else kc }

/-- A die's walk cache of 1,024 pointers takes those that a walk has read (06 R165). -/
def State.insertPointers (s : State) (die : Nat) (ps : List Pointer) : State :=
  ps.foldl (init := s) fun s p =>
    let d := s.die die
    if d.pointers.contains p then s
    else if d.pointers.length < 1024 then s.modDie die fun d => { d with pointers := d.pointers ++ [p] }
    else { s.modDie die fun d => { d with pointers := d.pointers.eraseIdx (Config.choice s.choices % 1024) ++ [p] } with
           choices := s.choices + 1 }

/-- How a walk on a die ends: it waits, for a table in host bias or being flipped or for room, the die caches a leaf, or it faults. -/
inductive WalkEnd where
  | waits (s : State)
  | cached (s : State)
  | fault (s : State) (cause : Nat)

/-- The walk of an address on a die (06 R162 to R167, R176). The die registers at the home of every line that it reads, also where the
walk faults. -/
def State.walkOn (s : State) (die part va : Nat) : WalkEnd :=
  match s.walkStart die part va with
  | none => .fault s 2
  | some (n, table, behind) =>
    let lines := s.walkLines va n table
    if lines.any fun l => s.isFlipping (128 * l) then .waits s
    else match lines.find? fun l => s.hostBias (128 * l) with
      | some l => .waits (s.startFlip (128 * l) false)
      | none =>
        match s.shareTables die part lines with
        | .inr s1 => .waits s1
        | .inl s1 =>
          let s2 := s1.insertPointers die (s.pointersFrom part va n table behind)
          match s.walkFrom va n table behind with
          | .fault c => .fault s2 c
          | .leaf e b tables => .cached (s2.insertLeaf die ⟨part, va / 2 ^ b, b, e, tables⟩)

/-- A leaf has been found: a logged word's line goes on; engines look for themselves. -/
def State.wake (s : State) : Waiter → State
  | .lane g seq vline => match s.logEntry g seq with
    | none => s
    | some n => s.sendLine g n.op seq vline
  | .cmd _ _ _ => s
  | .comm _ _ => s

/-- Chihoat has declined a translation: a logged word's line faults, an engine's command notes it (06 R164, 13 R360). -/
def State.tellDeclined (s : State) (cause : Nat) : Waiter → State
  | .lane g seq vline => s.logFault g seq 3 cause (128 * vline)
  | .cmd core id vline => s.modCmd core id fun c => { c with work := { c.work with bad := vline :: c.work.bad } }
  | .comm i vline => s.modComm i fun c => { c with work := { c.work with bad := vline :: c.work.bad } }

/-- TRANSLATION_WALK: the walk of a page ends with a leaf, which the die caches, or with a fault, which Chihoat answers: it installs
entries and the accesses are replayed, or it declines (06 R162 to R167). -/
def execTranslationWalk (space : Space) (i0 i1 i2 i3 : Nat) (s : State) : Host.Outcome State Fault Refusal :=
  let die := space.die
  let part := space.part
  let vpage := pageAt i0 i1 i2 i3
  let ws := (((s.die die).walks.find? fun y => y.part = part && y.vpage = vpage).map (·.waiters)).getD []
  match s.walkOn die part (65536 * vpage) with
  | .waits s1 => happened (s1.post (.translationWalk space i0 i1 i2 i3))
  | .cached s1 => happened (ws.foldl State.wake (s1.endWalk die part vpage))
  | .fault s1 c =>
    let s2 := { s1.endWalk die part vpage with choices := s1.choices + 1 }
    match Config.chihoat s1.choices with
    | some es =>
      if s1.homesOpen die then happened (ws.foldl State.wake (s2.installEntries die es))
      else happened ((s1.postOnce (.rootWriteBatchSend die)).post (.translationWalk space i0 i1 i2 i3))
    | none => happened (ws.foldl (fun s w => s.tellDeclined c w) s2)

/-- OPERAND_LOG_REPLAY: the lines of a logged word that are not done are sent again; a lane that has become an orphan raises
ORPHAN in place of the access (15 R408, R415, 05 R158). -/
def execOperandLogReplay (g : GroupRef) (entry : Nat) (s : State) : Host.Outcome State Fault Refusal :=
  match s.team? g, s.logEntry g entry with
  | some t, some n =>
    let s1 := s.accsDone g entry fun a => n.done.getLsbD a.lane
    match s1.logEntry g entry with
    | none => happened s1
    | some n =>
      if n.accs.any fun a => !s1.accLive t.bind.part n a then happened (s1.logFault g entry 11 0 0)
      else happened ((linesOf n.accs).foldl (fun s l => s.sendLine g n.op entry l) s1)
  | _, _ => happened s

/-! ## Late traps (15 R408 to R411) -/

/-- Lanes leave every entry of a group. -/
def Group.dropLanes (x : Group) (m : Lanes) : Group :=
  let f := fun e : FEntry => { e with mask := e.mask &&& ~~~m, gmask := e.gmask &&& ~~~m, redo := e.redo.map fun r => r &&& ~~~m }
  { x with
    frontier := (x.frontier.map f).filter fun e => e.mask ≠ 0
    aside := (x.aside.map fun a => { a with entry := f a.entry, lanes := a.lanes &&& ~~~m }).filter fun a => a.entry.mask ≠ 0
    handler := x.handler.map fun h => { h with held := f h.held } }

/-- The orphan lanes of a logged word retire as if they had executed `exit` (05 R157, R158). -/
def State.retireLogged (s : State) (g : GroupRef) (part : Nat) (n : LogEntry) : State :=
  let m := maskOf fun l => n.accs.any fun a => a.lane = l && !s.accLive part n a
  let s1 := ((s.exitLanes g part m).modPart part fun q => { q with orphans := q.orphans + popcount m }).modGroup g
    fun x => x.dropLanes m
  let s2 := (s1.modLog g n.seq fun n => { n with fault := none }).accsDone g n.seq fun a => m.getLsbD a.lane
  let s3 := (s2.recheckMsync g part).postOnce (.operandLogReplay g n.seq)
  match s3.group? g with
  | none => s3
  | some x => if x.frontier.isEmpty && x.aside.isEmpty && x.handler.isNone then s3.groupExit g else s3

/-- An entry of no lanes, held when a logged word of a group without a current entry traps. -/
def noEntry : FEntry :=
  { pc := 0, mask := 0, gmask := 0, pri := 0, deferred := false, redo := none, kept := none, due := false }

/-- TRAP_DELIVER: the fault of a logged word becomes a trap at the group's next issue cycle (15 R402, R408). -/
def execTrapDeliver (g : GroupRef) (entry : Nat) (s : State) : Host.Outcome State Fault Refusal :=
  match s.team? g, s.group? g, s.logEntry g entry with
  | some t, some x, some n =>
    match n.fault with
    | none => happened s
    | some f =>
      if x.wait ≠ .none then happened (s.post (.trapDeliver g entry))
      else if f.cls = 12 ∧ s.policyB t.bind.part then happened (s.policyKill g.core g.slot)
      else if x.frontier.isEmpty && x.aside.isEmpty && x.handler.isNone then happened (s.killTeam g.core g.slot 1)
      else if f.cls = 11 ∧ !x.trapv.getLsbD 57 then happened (s.retireLogged g t.bind.part n)
      else
        let rest := n.mask &&& ~~~n.done
        let tr : Trap := ⟨f.cls, f.cause, some (lowestLane rest), f.addr, 0, false, 0⟩
        let e := x.current.getD noEntry
        happened (s.takeTrap g tr ⟨e, n.mask, n.done, n.pc.toNat, n.pc.toNat + 4, false, some n.slot⟩)
  | _, _, _ => happened s

/-- Whether a group has engine words in flight. -/
def State.enginesBusy (s : State) (g : GroupRef) : Bool :=
  (s.core g.core).cmds.any (fun c => match c.2 with
    | none => false
    | some c => c.g = g) ||
  (s.core g.core).chains.any fun c => match c.2 with
    | none => false
    | some c => c.g = g

/-- What a rollback leaves once the group's engine words have completed (15 R411). -/
def State.rolledBack (s : State) (g : GroupRef) (entryAddr : Nat) : State :=
  s.modGroup g fun x =>
    let m : Lanes := x.idem.setWidth 32
    { x with
      frontier := if m = 0 then [] else
        [{ noEntry with pc := BitVec.ofNat 56 (entryAddr + 12 * (x.idem.extractLsb' 32 24).toNat), mask := m, pri := x.idem.extractLsb' 56 6 }],
      aside := [], handler := none, wait := .none, lcur := 32,
      key := (lanesOf m).foldl (fun t l => t.set 0 l (x.idemKey.get 0 l)) x.key,
      ctr := (lanesOf m).foldl (fun t l => t.set 0 l (x.idemCtr.get 0 l)) x.ctr }

/-- Every lane of a register of a group is poisoned; a register of the pair's block for both its groups (02 R73). -/
def Team.poisonLine (t : Team) (g n : Nat) : Team :=
  let add := fun x : Group => { x with psnLines := x.psnLines ++ ((List.range 32).map fun l => 32 * n + l).filter fun k => !x.psnLines.contains k }
  if n < 32 then t.modGroup g add else (t.modGroup g add).modGroup (partnerOf g) add

/-- The register writes that a group's words still owe are discarded, and the words with them (15 R411, 09 R233). -/
def Group.forget (x : Group) : Group :=
  { (x.hypWords.map (·.fret) ++ x.perms.map (·.fret)).foldl (fun x f => x.fretDown f 0) x with hypWords := [], perms := [] }

/-! ## `rld` (01 R26, R27) -/

/-- The image is validated and written to q, or its fault is delivered as that of a logged word (01 R24, R26). -/
def State.rldDone (s : State) (g : GroupRef) (t : Team) (n : LogEntry) (qd : Nat) (tensor : Bool) (img : BitVec 512) : State :=
  match s.validate t tensor img with
  | .inr (cls, cause) => s.logFault g n.seq cls cause 0
  | .inl x => (s.modGroup g fun y => { y with q := y.q.set none qd (some ⟨tensor, x⟩) }).closeLog g n

/-- A filled image is installed in the record cache unless an `rfence` has issued since (01 R26, R28). -/
def State.installRecord (s : State) (c : Nat) (num : Nat) (e : RcEntry) : State :=
  s.modCore c fun k => if num < k.lastRfence then k else { k with rcache := (e :: k.rcache.erase e).take 64 }

/-- RLD_FILL: the image arrives from the record cache, the scratchpad or the root view of global memory (01 R26, R27). -/
def execRldFill (g : GroupRef) (entry : Nat) (s : State) : Host.Outcome State Fault Refusal :=
  match s.team? g, s.logEntry g entry with
  | some t, some n =>
    match n.op, n.accs with
    | .rld qd tensor loc num hit, a :: _ =>
      let size := if tensor then 64 else 32
      match hit with
      | some img => happened (s.rldDone g t n qd tensor img)
      | none =>
        if loc then
          if s.scratchPoisoned g.core size (t.bind.spbase + a.addr) then happened (s.logFault g entry 12 0 0)
          else
            let img := BitVec.ofNat 512 (s.scratchRead g.core size (t.bind.spbase + a.addr))
            happened ((s.installRecord g.core num ⟨true, a.addr, tensor, img⟩).rldDone g t n qd tensor img)
        else
          let die := dieOf g.core
          let part := t.bind.part
          let vline := a.addr / 128
          match s.translate die part (128 * vline) 0 with
          | .walk => happened ((s.missOn die part vline (.lane g entry vline)).getD (s.post (.rldFill g entry)))
          | .stalled => happened (s.post (.rldFill g entry))
          | .refused c => happened (s.logFault g entry 4 c (128 * vline))
          | .at_ pa pte =>
            let line := pa / 128
            if s.forwarding pa (pteOwner pte) = .refused then happened (s.logFault g entry 4 0 (128 * vline))
            else if s.forwarding pa (pteOwner pte) = .broken then happened (s.logFault g entry 12 0 0)
            else if placeOf pa ≠ .hbm && s.farPoisoned pa (pteOwner pte) then happened (s.logFault g entry 12 0 0)
            else if placeOf pa ≠ .hbm then
              let img := BitVec.ofNat 512 (s.forwardedRead (pa + a.addr % 128) (pteOwner pte) size)
              happened (((s.countForward die part (128 * vline) pa (pteBit pte 57)).installRecord g.core num ⟨false, a.addr, tensor, img⟩).rldDone
                g t n qd tensor img)
            else if s.owned die part 0 line then happened (s.post (.rldFill g entry))
            else if s.linePoisoned die part 0 line then happened (s.logFault g entry 12 0 0)
            else
              let f := (s.die die).frame part 0 line
              if byteMask (a.addr % 128) size &&& ~~~f.vmask ≠ 0 then
                happened ((s.postOnce (.homeRequest die part line ⟨0, byteMask (a.addr % 128) size⟩)).post (.rldFill g entry))
              else
                let img := BitVec.ofNat 512 (lineBytes f.data (a.addr % 128) size)
                happened (((s.noteRead die line (byteMask (a.addr % 128) size)).installRecord g.core num ⟨false, a.addr, tensor, img⟩).rldDone g t n qd tensor img)
    | _, _ => happened s
  | _, _ => happened s

end Sys2Proof.Machine
end

