-- ==== Sys2Proof/Machine/Sync.lean ====
section
/-! DEFINITION. Barriers, `msync`, `fwait` and stage barriers (02 R66 to R70, 11 R296 to R303). -/

namespace Sys2Proof.Machine

/-! ## Barriers of a team (02 R66 to R68, 11 R297, R298) -/

/-- Whether an entry is that of a team's barrier (02 R66). -/
def Barrier.is (b : Barrier) (t : BindRec) (bid : BitVec 8) : Bool := b.ofTeam t && b.bid = bid

/-- The entry of a barrier; a spilled one is restored before the word is re-issued (02 R68). -/
def Core.barrier? (k : Core) (t : BindRec) (bid : BitVec 8) : Option Barrier :=
  (k.barriers ++ k.spilled).find? fun b => b.is t bid

/-- The entry that Chihoat spills when the table is full: of a saved team, else without a waiting group, the least recently written
first, else any (15 R417). -/
def Core.victim (k : Core) (bs : List Barrier) : Option Barrier :=
  match bs.find? fun b => k.teams.any fun t => t.2.any fun t => t.save = .saved && b.ofTeam t.bind with
  | some b => some b
  | none => match bs.find? fun b => b.waiters = 0 with
    | some b => some b
    | none => bs.head?

/-- Writes an entry; when all 256 are valid another one is spilled first (02 R68). -/
def Core.putBarrier (k : Core) (b : Barrier) : Core :=
  let other := fun e : Barrier => !(e.part = b.part && e.launch = b.launch && e.team = b.team && e.bid = b.bid)
  let bs := k.barriers.filter other
  let out := if bs.length < 256 then none else k.victim bs
  { k with
    barriers := bs.filter (fun e => out ≠ some e) ++ [b]
    spilled := k.spilled.filter other ++ out.toList }

/-- A fresh entry that expects `n` groups (11 R297, R298). -/
def Barrier.fresh (t : BindRec) (bid : BitVec 8) (n : Nat) : Barrier :=
  { part := t.part, launch := t.launch, team := t.team, bid := bid, dropMask := 0, arrMask := 0, phase := 0,
    exp := BitVec.ofNat 6 n, nextExp := BitVec.ofNat 6 n, waiters := 0 }

/-- The entry that a barrier word finds or creates (11 R297). -/
def State.barrierOf (s : State) (v : Env) (bid : BitVec 8) : Barrier :=
  ((s.core v.r.core).barrier? v.team.bind bid).getD (Barrier.fresh v.team.bind bid (v.team.bind.ngm1 + 1))

/-- Writes a barrier's entry. -/
def State.setBarrier (s : State) (v : Env) (b : Barrier) : State := s.modCore v.r.core fun k => k.putBarrier b

/-- Whether a group has arrived in the phase in progress. -/
def Barrier.arrived (b : Barrier) (g : Nat) : Bool := b.arrMask.getLsbD g

/-- Arrive; none is the over-arrival trap (02 R67). At an entry whose EXP is 0 a group that has neither dropped nor arrived, which exists when
`bar.init` counted fewer groups than the team has, sets its ARRMASK bit as the pseudocode of 02 R67 does; its prose calls every later
arrival there an over-arrival (DESIGN CHOICE, log entry 99). -/
def Barrier.arrive (b : Barrier) (g : Nat) (drop : Bool) : Option Barrier :=
  if b.arrMask.getLsbD g || b.dropMask.getLsbD g then none
  else
    let b1 := { b with arrMask := b.arrMask ||| oneLane g }
    let b2 := if drop then { b1 with dropMask := b1.dropMask ||| oneLane g, nextExp := b1.nextExp - 1 } else b1
    some (if popcount b2.arrMask = b2.exp.toNat then
        { b2 with waiters := 0, arrMask := 0, phase := b2.phase + 1, exp := b2.nextExp }
      else b2)

/-- The scope of a barrier word: at least .tm (11 R298). -/
def barScope (sc : BitVec 3) : Nat := Nat.max sc.toNat 2

/-- A barrier word, performed once per group (11 R296). -/
def useBar (c : BitVec 1) (ops : List Opnd) : Use := { c := c, ops := ops, orph := .once, once := true }

/-- `bar.init` (11 R298). -/
def barInitBody (bid : BitVec 8) (a : BitVec 7) (v : Env) (s : State) : Res :=
  let n := (v.usrc a).toNat
  if n < 1 ∨ 32 < n ∨ v.team.bind.ngm1 + 1 < n then .trap (.atIssue 4 10)
  else match (s.core v.r.core).barrier? v.team.bind bid with
    | none => .done (s.setBarrier v (Barrier.fresh v.team.bind bid n))
    | some b =>
      if b.arrMask ≠ 0 ∨ b.waiters ≠ 0 then .trap (.atIssue 8 0)
      else .done (s.setBarrier v (Barrier.fresh v.team.bind bid n))

/-- A parity error in a barrier's entry is delivered at its team's next access to it (02 R73, R74); `k` goes on with a good one. -/
def goodBarrier (bid : BitVec 8) (v : Env) (s : State) (k : Barrier → Res) : Res :=
  if (s.barrierOf v bid).bad then dataError v s none else k (s.barrierOf v bid)

/-- The arrival of a word after its release half; `k` goes on from there (11 R298). -/
def arriveThen (sc : BitVec 3) (bid : BitVec 8) (drop : Bool) (v : Env) (s : State) (k : Barrier → State → Res) : Res :=
  goodBarrier bid v s fun _ => releaseThen (barScope sc) v s fun s =>
    match (s.barrierOf v bid).arrive v.r.grp drop with
    | none => .trap (.atIssue 8 0)
    | some b => k b (s.setBarrier v b)

/-- Waits for the phase, then the acquire half; a group that has dropped passes at once (11 R298). -/
def barWaitThen (sc : BitVec 3) (bid : BitVec 8) (v : Env) (s : State) (k : State → Res) : Res :=
  goodBarrier bid v s fun b =>
  if b.arrived v.r.grp && !b.dropMask.getLsbD v.r.grp then
    if b.waiters.getLsbD v.r.grp then .wait
    else .busy (s.setBarrier v { b with waiters := b.waiters ||| oneLane v.r.grp })
  else acquireThen (barScope sc) v (s.setBarrier v b) k

/-- `bar.sync`: the arrival, once, then the wait (11 R298, 15 R413). -/
def barSyncBody (sc : BitVec 3) (bid : BitVec 8) (v : Env) (s : State) : Res :=
  if (liveGroup v s).wait = .barSync bid then
    barWaitThen sc bid v s fun s => .done (s.modGroup v.r fun x => { x with wait := .none })
  else
    arriveThen sc bid false v s fun _ s => .busy (s.modGroup v.r fun x => { x with wait := .barSync bid })

/-- `bar.try` (11 R298). -/
def barTryBody (sc : BitVec 3) (bid : BitVec 8) (p : BitVec 3) (v : Env) (s : State) : Res :=
  goodBarrier bid v s fun b =>
  if b.arrived v.r.grp then .done (s.modGroup v.r fun x => x.pset p.toNat v.em 0)
  else acquireThen (barScope sc) v (s.setBarrier v b) fun s =>
    .done (s.modGroup v.r fun x => x.pset p.toNat v.em (BitVec.allOnes 32))

/-! ## `msync` (11 R299) -/

/-- The masks agree, and every arriving lane lies in the mask. -/
def msyncAgree (m : Lanes) (ms : List Lanes) (arriving : Lanes) (x : Group) : Bool :=
  ms.all (fun k => k = m) && arriving &&& ~~~m = 0 && x.aside.all fun w => w.mask = m

/-- An instance that fails: every lane that has arrived takes a sync-mask trap at its `msync`, the waiting ones too. -/
def Group.msyncFail (x : Group) (pc : BitVec 56) : Group :=
  { x with
    aside := []
    frontier := x.aside.foldl (init := x.frontier.map fun f => if f.pc = pc then { f with sync := true } else f) fun fs w =>
      if fs.any fun f => f.pc = w.entry.pc then
        fs.map fun f => if f.pc = w.entry.pc then
          { f.join w.entry.mask w.entry.gmask w.entry.pri w.entry.deferred w.entry.redo with sync := true } else f
      else fs ++ [{ w.entry with sync := true, passed := 0 }] }

/-- The entry is set aside with the lanes that arrive; in a chain it keeps the lanes that have passed (11 R299). -/
def Group.setAside (x : Group) (e : FEntry) (m arriving : Lanes) (chain : Bool) : Group :=
  let stay := e.passed
  let gone : FEntry :=
    { e with mask := e.mask &&& ~~~stay, gmask := e.gmask &&& ~~~stay,
             passed := if chain then e.mask &&& ~~~stay else 0 }
  { x with
    frontier := if stay = 0 then dropEntry x.frontier e
      else x.frontier.map fun f => if f.pc = e.pc then { f with mask := f.mask &&& stay, gmask := f.gmask &&& stay } else f
    aside := x.aside ++ [⟨gone, m, arriving⟩] }

/-- `msync` (11 R299). In a handler, whose entry is kept apart from the frontier, the word waits in its place. -/
def msyncBody (c : BitVec 1) (a : BitVec 7) (v : Env) (s : State) : Res :=
  let x := liveGroup v s
  let arriving := v.em &&& ~~~v.e.passed
  if arriving = 0 then .done s
  else
    let ms := (lanesOf arriving).map fun l => v.src a l
    let m := ms.headD 0
    let chain := decide (c = 1) || s.snap.isSome
    let here := x.aside.foldl (fun k w => k ||| w.lanes) arriving
    if !msyncAgree m ms arriving x then
      if x.handler.isSome then .trap (.atIssue 7 0) else .busy (s.modGroup v.r fun x => x.msyncFail v.e.pc)
    else releaseThen 1 v s fun s =>
      if m &&& ~~~x.exited &&& ~~~here = 0 then .done (s.modGroup v.r fun x => x.msyncRelease (s.headerAt v.part))
      else if x.handler.isSome then .wait
      else .busy (s.modGroup v.r fun x => x.setAside v.e m arriving chain)

/-! ## `fwait` (11 R300) -/

/-- The frets that an `fwait` names. -/
def fwaitMask (f : BitVec 8) (g : BitVec 4) : Nat := f.toNat + 256 * g.toNat

/-- `fwait`: waits for the frets, then delivers a status they hold or performs its acquire, without a sweep (09 R235, 11 R300, 04 R127). -/
def fwaitBody (f : BitVec 8) (g : BitVec 4) (v : Env) (s : State) : Res :=
  let fs := fretsOf (fwaitMask f g)
  let x := liveGroup v s
  if !fs.all x.fretClear then .wait
  else match x.failedFret fs with
    | some k => .trap { fretTrap x k with lane := some (lowestLane v.e.mask) }
    | none => .done (s.closeBatch (dieOf v.r.core))

/-! ## Stage barriers (02 R69, R70, 11 R301 to R303) -/

/-- STATE of the object at a physical scratchpad offset (02 R69). -/
def State.stageState (s : State) (c at_ : Nat) : Nat := s.scratchRead c 1 (at_ + 16) % 4

/-- PEND. -/
def State.stagePend (s : State) (c at_ : Nat) : Nat := s.scratchRead c 2 (at_ + 6)

/-- The producer that an object names, as a group of its own die (02 R69). -/
def State.stageProducer (s : State) (c at_ : Nat) : GroupRef :=
  let w := s.scratchRead c 8 (at_ + 8)
  ⟨coreAt (dieOf c) (w / 2 ^ 16 % 16) (w / 2 ^ 13 % 8), w / 2 ^ 6 % 128, w / 2 % 32⟩

/-- The completion test of 02 R70: a stage with nothing pending and its producer arrived is complete. -/
def State.testStage (s : State) (c slot off : Nat) : State :=
  let at_ := s.windowBase c slot + off
  if s.stageState c at_ = 1 ∧ s.stagePend c at_ = 0 ∧ s.stageArrived c at_ then
    (s.scratchWrite c 4 at_ (s.scratchRead c 4 at_ + 1)).endStage c slot off 2
  else s

/-- The checks of the object's place in a window: aligned, inside (11 R301). -/
def stagePlace (off spsize : Nat) : Option Trap :=
  if off % 32 ≠ 0 then some ⟨5, 0, none, off, 0, false, 0⟩
  else if spsize < off + 32 then some ⟨4, 0, none, off, 0, false, 0⟩
  else none

/-- The same for a lane's access to the object, which must not lie in queue storage (01 R14). -/
def State.stageTrap (s : State) (w : Win) (off : Nat) : Option Trap :=
  (stagePlace off w.bind.spsize).or (if s.queueStorage w off 32 then some ⟨4, 0, none, off, 0, false, 0⟩ else none)

/-- The issuing team's own window. -/
def Env.ownWin (v : Env) : Win := ⟨v.r.core, v.r.slot, v.team.bind⟩

/-- Fields of the operands of stage words (11 R301, R302). -/
def stageOff (u : DWord) : Nat := (u.extractLsb' 0 20).toNat
/-- The member row i. -/
def stageRow (u : DWord) : Nat := (u.extractLsb' 25 4).toNat
/-- The member column j. -/
def stageCol (u : DWord) : Nat := (u.extractLsb' 29 3).toNat
/-- The producer group. -/
def stageGrp (u : DWord) : Nat := (u.extractLsb' 20 5).toNat
/-- DUE. -/
def stageDue (u : DWord) : Nat := (u.extractLsb' 32 16).toNat

/-- Writes the object that `sbar.init` arms (11 R301). -/
def State.armStage (s : State) (r p : GroupRef) (off due : Nat) : State :=
  let at_ := s.windowBase r.core r.slot + off
  let w8 := s.scratchRead r.core 8 (at_ + 8)
  let b16 := s.scratchRead r.core 1 (at_ + 16)
  let named := rowOf p.core * 2 ^ 16 + colOf p.core * 2 ^ 13 + p.slot % 128 * 2 ^ 6 + p.grp % 32 * 2
  let s1 := ((s.scratchWrite r.core 2 (at_ + 4) due).scratchWrite r.core 2 (at_ + 6) due).scratchWrite r.core 8 (at_ + 8)
    (w8 / 2 ^ 20 * 2 ^ 20 + named + w8 % 2)
  let s2 := (s1.scratchWrite r.core 1 (at_ + 16) (b16 / 8 * 8 + 1)).scratchWrite r.core 4 (at_ + 20) 0
  s2.modCore r.core fun k => { k with armed := k.armed ++ [(r.slot, off, p)] }

/-- `sbar.init` (11 R301). -/
def sbarInitBody (a : BitVec 7) (v : Env) (s : State) : Res :=
  let u := v.usrc a
  let off := stageOff u
  match s.stageTrap v.ownWin off with
  | some t => .trap t
  | none =>
    if v.team.shapeR ≤ stageRow u ∨ v.team.shapeC ≤ stageCol u then .trap (.atIssue 0 3)
    else
      let m := s.memberState v.team v.r.slot (stageRow u) (stageCol u)
      if m.1 = 2 then .trap (.atIssue 0 3)
      else if v.team.bind.ngm1 < stageGrp u then .trap (.atIssue 4 11)
      else if s.stageState v.r.core (v.team.bind.spbase + off) = 1 then .trap (.atIssue 4 12)
      else if stageDue u = 0 ∨ u.extractLsb' 48 16 ≠ 0 then .trap (.atIssue 4 27)
      else if m.1 = 0 then .wait
      else .done (s.armStage v.r ⟨s.memberCore v.team (stageRow u) (stageCol u), m.2, stageGrp u⟩ off (stageDue u))

/-- `sbar.arrive` on the object of a window (11 R302). -/
def stageArrive (w : Win) (off : Nat) (v : Env) (s : State) : Res :=
  let at_ := w.bind.spbase + off
  match s.stageState w.core at_ with
  | 1 =>
    if s.stageProducer w.core at_ ≠ v.r then .trap (.atIssue 4 13)
    else if s.stageArrived w.core at_ then .trap (.atIssue 8 0)
    else releaseThen 3 v s fun s =>
      .done ((s.scratchWrite w.core 1 (at_ + 16) (s.scratchRead w.core 1 (at_ + 16) + 4)).testStage w.core w.slot off)
  | 3 => .done s
  | _ => .wait

/-- `sbar.arrive` (11 R302). -/
def sbarArriveBody (a : BitVec 7) (v : Env) (s : State) : Res :=
  let u := v.usrc a
  if stageOff u % 32 ≠ 0 then .trap ⟨5, 0, none, stageOff u, 0, false, 0⟩
  else
    if v.team.shapeR ≤ stageRow u ∨ v.team.shapeC ≤ stageCol u then .trap (.atIssue 0 3)
    else match s.memberWin v.team v.r.slot (stageRow u) (stageCol u) with
      | .gone => .trap (.atIssue 0 3)
      | .stalled => .wait
      | .here w => match s.stageTrap w (stageOff u) with
        | some t => .trap t
        | none => stageArrive w (stageOff u) v s

/-- `sbar.wait` has its answer and no longer waits. -/
def State.stageWaited (s : State) (v : Env) : State := s.modGroup v.r fun x => { x with stageWait := none }

/-- `sbar.wait` (11 R303): F 0 traps on a broken object, another F answers in a predicate. A group that waited acts on the state that the
object reached, even if it has been armed again since. -/
def sbarWaitBody (a : BitVec 7) (p : BitVec 3) (v : Env) (s : State) : Res :=
  let off := stageOff (v.usrc a)
  match s.stageTrap v.ownWin off with
  | some t => .trap t
  | none =>
    let woken := match (liveGroup v s).stageWait with
      | some (o, st) => if o = off ∧ st ≠ 0 then some st else none
      | none => none
    match woken.getD (s.stageState v.r.core (v.team.bind.spbase + off)) with
    | 0 => .trap (.atIssue 4 14)
    | 1 => if (liveGroup v s).stageWait = some (off, 0) then .wait
      else .busy (s.modGroup v.r fun x => { x with stageWait := some (off, 0) })
    | 2 => acquireThen 3 v s fun s => .done ((s.stageWaited v).modGroup v.r fun x => x.pset p.toNat v.em (BitVec.allOnes 32))
    | _ =>
      if p = 0 then .trap (.atIssue 13 0) else .done ((s.stageWaited v).modGroup v.r fun x => x.pset p.toNat v.em 0)

/-- 11 R298: initialises a barrier. -/
def execBarInit (c : BitVec 1) (_sc : BitVec 3) (b : BitVec 8) (a : BitVec 7) (s : State) : Host.Outcome State Fault Refusal :=
  perform (useBar c [.us a])
    (barInitBody b a) s

/-- 11 R298: arrives at a barrier. -/
def execBarArrive (c : BitVec 1) (sc : BitVec 3) (b : BitVec 8) (s : State) : Host.Outcome State Fault Refusal :=
  perform (useBar c [])
    (fun v s => arriveThen sc b false v s fun _ s => .done s) s

/-- 11 R298: waits for the phase. -/
def execBarWait (c : BitVec 1) (sc : BitVec 3) (b : BitVec 8) (s : State) : Host.Outcome State Fault Refusal :=
  perform (useBar c [])
    (fun v s => barWaitThen sc b v s .done) s

/-- 11 R298: arrives and waits. -/
def execBarSync (c : BitVec 1) (sc : BitVec 3) (b : BitVec 8) (s : State) : Host.Outcome State Fault Refusal :=
  perform (useBar c [])
    (barSyncBody sc b) s

/-- 11 R298: arrives and drops. -/
def execBarDrop (c : BitVec 1) (sc : BitVec 3) (b : BitVec 8) (s : State) : Host.Outcome State Fault Refusal :=
  perform (useBar c [])
    (fun v s => arriveThen sc b true v s fun _ s => .done s) s

/-- 11 R299: synchronises lanes of one group. -/
def execMsync (c : BitVec 1) (_sc : BitVec 3) (a : BitVec 7) (s : State) : Host.Outcome State Fault Refusal :=
  perform ({ c := c, ops := [.vs a], orph := .once })
    (msyncBody c a) s

/-- 11 R300: waits for frets. -/
def execFwait (c : BitVec 1) (_sc : BitVec 3) (f : BitVec 8) (g : BitVec 4) (s : State) : Host.Outcome State Fault Refusal :=
  perform (useBar c [])
    (fwaitBody f g) s

/-- 11 R301: arms a stage barrier. -/
def execSbarInit (c : BitVec 1) (_sc : BitVec 3) (a : BitVec 7) (s : State) : Host.Outcome State Fault Refusal :=
  perform ({ useBar c [.us a] with pin := true })
    (sbarInitBody a) s

/-- 11 R303: waits for a stage. -/
def execSbarWait (c : BitVec 1) (_sc : BitVec 3) (a : BitVec 7) (p : BitVec 3) (s : State) : Host.Outcome State Fault Refusal :=
  perform (useBar c (if p = 0 then [.us a] else [.us a, .pd p]))
    (sbarWaitBody a p) s

/-- 11 R302: the producer arrives. -/
def execSbarArrive (c : BitVec 1) (_sc : BitVec 3) (a : BitVec 7) (s : State) : Host.Outcome State Fault Refusal :=
  perform ({ useBar c [.us a] with pin := true })
    (sbarArriveBody a) s

/-- 11 R298: tests a barrier. -/
def execBarTry (c : BitVec 1) (sc : BitVec 3) (b : BitVec 8) (p : BitVec 3) (s : State) : Host.Outcome State Fault Refusal :=
  perform (useBar c [.pd p])
    (barTryBody sc b p) s

end Sys2Proof.Machine
end

