-- ==== Sys2Proof/Machine/Queue.lean ====
section
/-! DEFINITION. Queues, the task deque and steals (02 R60 to R65, 11 R305 to R312, 14 R395). -/

namespace Sys2Proof.Machine

/-! ## Queues (02 R60 to R65, 11 R306 to R308) -/

/-- CAP of a queue (02 R60). -/
def QDesc.cap (q : QDesc) : Nat := 2 ^ q.lcap.toNat

/-- The occupancy of a queue (02 R61). -/
def QDesc.occupancy (q : QDesc) : Nat := (q.tail - q.head).toNat

/-- The elements of visible runs (02 R62): the runs are written in order, so those before the first that is not visible. -/
def visibleOf : List (Nat × Bool) → Nat
  | [] => 0
  | (n, true) :: t => n + visibleOf t
  | (_, false) :: _ => 0

/-- The elements that can be popped. -/
def QDesc.visible (q : QDesc) : Nat := visibleOf q.runs

/-- The runs after `n` elements have been popped. -/
def popRuns : Nat → List (Nat × Bool) → List (Nat × Bool)
  | _, [] => []
  | n, (m, b) :: t => if n < m then (m - n, b) :: t else popRuns (n - m) t

/-- An enabled queue of a core. -/
def Core.queue? (k : Core) (n : Nat) : Option QDesc :=
  match k.queues.get none n with
  | none => none
  | some q => if q.en then some q else none

/-- Whether the team's own queue n holds 8 B elements (11 R306). -/
def State.ownWide (s : State) (r : GroupRef) (n : Nat) : Bool :=
  match (s.core r.core).queue? n with
  | none => false
  | some q => q.esz = 1

/-- The same for queue n of the core at a place, to which a push goes. -/
def State.placeWide (s : State) (r : GroupRef) (row col n : Nat) : Bool :=
  s.ownWide { r with core := coreAt (dieOf r.core) row col } n

/-- Changes a queue descriptor. -/
def State.modQueue (s : State) (c n : Nat) (f : QDesc → QDesc) : State :=
  s.modCore c fun k => match k.queues.get none n with
    | none => k
    | some q => { k with queues := k.queues.set none n (some (f q)) }

/-- The bytes of an element. -/
def QDesc.elemBytes (q : QDesc) : Nat := 4 * 2 ^ q.esz.toNat

/-- The physical scratchpad offset of element number n (02 R61). -/
def QDesc.elemAt (q : QDesc) (spbase n : Nat) : Nat := spbase + q.base.toNat + n % q.cap * q.elemBytes

/-- Writes the elements of a run at the tail. -/
def State.writeRun (s : State) (c spbase : Nat) (q : QDesc) : (n : Nat) → List DWord → State
  | _, [] => s
  | n, e :: t => State.writeRun (s.scratchWrite c q.elemBytes (q.elemAt spbase n) e.toNat) c spbase q (n + 1) t

/-- The port's answer to a push (11 R307): whether it is accepted now. A refused push is never overtaken. -/
def QDesc.accepts (q : QDesc) (g : GroupRef) (n : Nat) : Bool :=
  (q.refused.isEmpty || q.refused.head? = some g) && q.occupancy + n ≤ q.cap

/-- The first refused push of a queue is sent again (11 R307). -/
def State.resendPush (s : State) (c n : Nat) : State :=
  match (s.core c).queue? n with
  | none => s
  | some q => match q.refused with
    | [] => s
    | g :: _ => s.postOnce (.queuePushArrive g)

/-- A run is accepted: it is written, and becomes visible later (02 R62, 11 R307). -/
def State.acceptRun (s : State) (g : GroupRef) (p : Push) (q : QDesc) : State :=
  let s1 := s.writeRun p.core (s.windowBase p.core q.owner) q q.tail.toNat p.elems
  let s2 := s1.modQueue p.core p.qn fun q =>
    { q with tail := q.tail + BitVec.ofNat 32 p.elems.length, runs := q.runs ++ [(p.elems.length, false)],
             refused := q.refused.filter fun h => h ≠ g }
  ((s2.modGroup g fun x => { x with push := some { p with answer := some true } }).post
    (.queueRunVisible p.core p.qn)).resendPush p.core p.qn

/-- Whether a group's earlier accesses are all performed: the release of a push that is accepted (04 R127). -/
def State.groupQuiet (s : State) (g : GroupRef) : Bool :=
  (s.group? g).all fun x => x.ownLog.isEmpty && x.ownFences.all (s.die (dieOf g.core)).fenceOver

/-- QUEUE_PUSH_ARRIVE: a run reaches the owner's port and is accepted, once its group's release is complete, or refused; one that reaches
a saved owner waits (11 R307, R308, 02 R65). A refused `qput.try` performs no release (04 R127). -/
def execQueuePushArrive (g : GroupRef) (s : State) : Host.Outcome State Fault Refusal :=
  match (s.group? g).bind (·.push) with
  | none => .next { s with note := .performed }
  | some p =>
    if p.answer.isSome then .next { s with note := .performed }
    else match (s.core p.core).queue? p.qn with
      | none => .next { s with note := .performed }
      | some q =>
        if ((s.core p.core).team? q.owner).any fun t => !(t.save = .none || t.save = .draining) then
          .next { s.post (.queuePushArrive g) with note := .performed }
        else if q.accepts g p.elems.length then
          .next { if s.groupQuiet g then s.acceptRun g p q else s.post (.queuePushArrive g) with note := .performed }
        else if p.tries then
          .next { s.modGroup g fun x => { x with push := some { p with answer := some false } } with note := .performed }
        else .next { s.modQueue p.core p.qn fun q =>
            { q with refused := if q.refused.contains g then q.refused else q.refused ++ [g] } with note := .performed }

/-- The first run not yet visible becomes so (02 R62). -/
def showRun : List (Nat × Bool) → List (Nat × Bool)
  | [] => []
  | (n, true) :: t => (n, true) :: showRun t
  | (n, false) :: t => (n, true) :: t

/-- QUEUE_RUN_VISIBLE: a written run becomes visible; a waiting `qget` may then be served (02 R62, 11 R448). -/
def execQueueRunVisible (core qn : Nat) (s : State) : Host.Outcome State Fault Refusal :=
  .next { s.modQueue core qn fun q => { q with runs := showRun q.runs } with note := .performed }

/-- The queue at a place that a push or `qlen` names, or what the word does instead (11 R306, 01 R464). -/
inductive QueueAt where
  | here (w : Win) (q : QDesc)
  | stalled
  | gone
  | error
  deriving DecidableEq, Repr

/-- Finds the queue at a place (11 R306). -/
def queueAt (row : BitVec 4) (col : BitVec 3) (n : BitVec 4) (v : Env) (s : State) : QueueAt :=
  match s.memberAt v.team (coreAt (dieOf v.r.core) row.toNat col.toNat) with
  | none => .error
  | some (i, j) =>
    match s.memberWin v.team v.r.slot i j with
    | .gone => .gone
    | .stalled => .stalled
    | .here w =>
      match (s.core w.core).queue? n.toNat with
      | none => .error
      | some q => if q.owner = w.slot then .here w q else .error

/-- A queue error at the lowest active lane. -/
def queueError : Res := .trap (.atIssue 10 0)

/-- An odd vector register for an 8 B queue (02 R64). -/
def oddPair (q : QDesc) (d : BitVec 7) : Bool := q.esz = 1 && d.toNat < 96 && d.toNat % 2 = 1

/-- A push that the port has answered retires (11 R307, R308): its run was accepted or refused whatever has become of the owner since. -/
def State.endPush (s : State) (tries : Option (BitVec 3)) (v : Env) (ok : Bool) : State :=
  s.modGroup v.r fun x =>
    let x1 := { x with push := none, wait := .none }
    match tries with
    | none => x1
    | some pd => x1.pset pd.toNat v.em (if ok then BitVec.allOnes 32 else 0)

/-- Whether a queue is the issuing team's own. -/
def ownPort (v : Env) (w : Win) : Bool := w.core = v.r.core && w.slot = v.r.slot

/-- `qput` and `qput.try`: a release, then one run on its way to the port; the word retires with the port's answer (11 R307, R308,
19 R447). A parity error in the entry is delivered to its owner team (02 R73, R74). -/
def pushBody (tries : Option (BitVec 3)) (n row : BitVec 4) (col : BitVec 3) (d : BitVec 7) (v : Env) (s : State) : Res :=
  match (liveGroup v s).push.bind (·.answer) with
  | some ok => .done (s.endPush tries v ok)
  | none =>
    match queueAt row col n v s with
    | .stalled => .wait
    | .gone | .error => queueError
    | .here w q =>
      if oddPair q d then queueError
      else if q.bad && ownPort v w then dataError v s none
      else if (liveGroup v s).push.isSome then .wait
      else
        let send := fun s : State =>
          let elems := v.lanes.map fun l => if q.esz = 1 then v.src2 d l else (v.src d l).setWidth 64
          .busy ((s.modGroup v.r fun x => { x with push := some ⟨w.core, n.toNat, elems, tries.isSome, none⟩, wait := .push }).post
            (.queuePushArrive v.r))
        if tries.isSome then send s else releaseThen 3 v s send

/-- The elements at the head of the queue. -/
def State.headElems (s : State) (c spbase : Nat) (q : QDesc) (m : Nat) : List Nat :=
  (List.range m).map fun k => s.scratchRead c q.elemBytes (q.elemAt spbase (q.head.toNat + k))

/-- Pops `m` elements into the first `m` lanes of a list (11 R307). -/
def State.popInto (s : State) (v : Env) (n : Nat) (q : QDesc) (d : BitVec 7) (m : Nat) : State :=
  let es := s.headElems v.r.core v.team.bind.spbase q m
  let s1 := s.modTeam v.r fun t =>
    (List.zip v.lanes es).foldl (fun t le => putWords t v.r.grp d.toNat (if q.esz = 1 then 2 else 1) (oneLane le.1) le.2) t
  (s1.modQueue v.r.core n fun q =>
    { q with head := q.head + BitVec.ofNat 32 m, runs := popRuns m q.runs, getters := q.getters.filter fun h => h ≠ v.r }).resendPush
      v.r.core n

/-- The team's own queue n, or an error (02 R64). -/
def ownQueue (n : BitVec 4) (d : BitVec 7) (v : Env) (s : State) : Option QDesc :=
  match (s.core v.r.core).queue? n.toNat with
  | none => none
  | some q => if q.owner = v.r.slot && !oddPair q d then some q else none

/-- The lane that would receive the first poisoned element at the head of a queue (02 R74). -/
def State.poisonedHead (s : State) (v : Env) (q : QDesc) (m : Nat) : Option Nat :=
  ((List.zip v.lanes (List.range m)).find? fun lk =>
    s.scratchPoisoned v.r.core q.elemBytes (q.elemAt v.team.bind.spbase (q.head.toNat + lk.2))).map (·.1)

/-- `qget`: blocked words are served in issue order (11 R307). -/
def qgetBody (n : BitVec 4) (d : BitVec 7) (v : Env) (s : State) : Res :=
  match ownQueue n d v s with
  | none => queueError
  | some q =>
    let m := v.lanes.length
    if q.bad then dataError v s none
    else if (q.getters.isEmpty || q.getters.head? = some v.r) && m ≤ q.visible then
      match s.poisonedHead v q m with
      | some l => dataError v s (some l)
      | none => acquireThen 3 v s fun s => .done (s.popInto v n.toNat q d m)
    else if q.getters.contains v.r then .wait
    else .busy (s.modQueue v.r.core n.toNat fun q => { q with getters := q.getters ++ [v.r] })

/-- `qget.try` (11 R308). -/
def qgetTryBody (n : BitVec 4) (d : BitVec 7) (p : BitVec 3) (v : Env) (s : State) : Res :=
  match ownQueue n d v s with
  | none => queueError
  | some q =>
    let m := if q.getters.isEmpty then Nat.min v.lanes.length q.visible else 0
    let got := maskOf fun l => (v.lanes.take m).contains l
    let write := fun s : State => (s.popInto v n.toNat q d m).modGroup v.r fun x => x.pset p.toNat v.em got
    if q.bad then dataError v s none
    else if m = 0 then .done (s.modGroup v.r fun x => x.pset p.toNat v.em 0)
    else match s.poisonedHead v q m with
      | some l => dataError v s (some l)
      | none => acquireThen 3 v s fun s => .done (write s)

/-- `qlen` (11 R308, 01 R464). The odd-register error of an 8 B queue is not raised: 02 R64 says it of a queue word on such a queue, and the
destination of `qlen` is a 32-bit register that names no pair (DESIGN CHOICE, log entry 98). -/
def qlenBody (n row : BitVec 4) (col : BitVec 3) (d : BitVec 7) (v : Env) (s : State) : Res :=
  match queueAt row col n v s with
  | .stalled => .wait
  | .gone => lane32 d (fun _ _ => 0) v s
  | .error => queueError
  | .here w q => if q.bad && ownPort v w then dataError v s none else lane32 d (fun _ _ => q.tail - q.head) v s

/-! ## Tasks (11 R310 to R312, 14 R395) -/

/-- The bytes of the deque and the mailbox in a window (02 R44, 14 R395). -/
def dequeAt (t : BindRec) (k : Nat) : Nat := t.spbase + t.toff + 64 * k

/-- Mailbox entry k. -/
def mailAt (t : BindRec) (k : Nat) : Nat := t.spbase + t.toff + 64 * t.tcap + 16 * k

/-- A mailbox entry's word 0, if a request is pending in it (14 R395). -/
def State.mail (s : State) (c : Nat) (t : BindRec) (k : Nat) : Option Nat :=
  let w := s.scratchRead c 8 (mailAt t k)
  if w / 2 ^ 63 % 2 = 1 then some w else none

/-- The thief that a request names, a group of the same die (14 R395). -/
def mailThief (c w : Nat) : GroupRef :=
  ⟨coreAt (dieOf c) (w / 2 ^ 59 % 16) (w / 2 ^ 56 % 8), w / 2 ^ 49 % 128, w / 2 ^ 44 % 32⟩

/-- A request as it is posted. -/
def mailWord (r : GroupRef) (cycle : Nat) : Nat :=
  2 ^ 63 + rowOf r.core * 2 ^ 59 + colOf r.core * 2 ^ 56 + r.slot % 128 * 2 ^ 49 + r.grp % 32 * 2 ^ 44 + cycle % 2 ^ 32

/-- The entry of the oldest request of a mailbox (14 R395). -/
def State.oldestMail (s : State) (c : Nat) (t : BindRec) : Option Nat :=
  let age := fun w : Nat => (s.cycle + 2 ^ 32 - w % 2 ^ 32) % 2 ^ 32
  ((List.range 8).foldl (init := (none : Option (Nat × Nat))) fun best k =>
    match s.mail c t k with
    | none => best
    | some w => match best with
      | none => some (k, age w)
      | some (b, a) => if a < age w then some (k, age w) else some (b, a)).map (·.1)

/-- The entry of a thief's request in a mailbox. -/
def State.mailOf (s : State) (c : Nat) (t : BindRec) (g : GroupRef) : Option Nat :=
  (List.range 8).find? fun k => match s.mail c t k with
    | none => false
    | some w => mailThief c w = g

/-- Clears a mailbox entry. -/
def State.clearMail (s : State) (c : Nat) (t : BindRec) (k : Nat) : State := s.scratchWrite c 16 (mailAt t k) 0

/-- Whether a team's deque has room (14 R395). -/
def Team.dequeRoom (t : Team) : Bool :=
  t.tcount + (t.groups.filter fun g => match g.2 with
    | none => false
    | some x => x.steal.isSome).length < t.bind.tcap

/-- A task is written at the top of a team's deque (14 R395). -/
def State.pushTask (s : State) (r : GroupRef) (task : BitVec 512) : State :=
  match s.team? r with
  | none => s
  | some t => (s.scratchWrite r.core 64 (dequeAt t.bind t.tcount) task.toNat).modTeam r fun t => { t with tcount := t.tcount + 1 }

/-- A steal completes: its predicate in its lanes, and its fret (11 R312). -/
def State.endSteal (s : State) (g : GroupRef) (ok : Bool) : State :=
  match (s.group? g).bind (·.steal) with
  | none => s
  | some st =>
    (s.modGroup g fun x =>
      { x.pset st.pd.toNat st.lanes (if ok then BitVec.allOnes 32 else 0) with steal := none }).fretDown g st.fret 0

/-- A request is withdrawn from its victim's mailbox and its steal fails; a task on its way still arrives (11 R312). -/
def State.withdrawSteal (s : State) (g : GroupRef) : State :=
  match (s.group? g).bind (·.steal) with
  | none => s
  | some st =>
    match (s.core st.core).team? st.slot with
    | none => s.endSteal g false
    | some t =>
      match s.mailOf st.core t.bind g with
      | none => s
      | some k => (s.clearMail st.core t.bind k).endSteal g false

/-- While a steal is outstanding its time is watched. -/
def State.repostSteal (s : State) (g : GroupRef) : State :=
  if ((s.group? g).bind (·.steal)).isSome then s.postOnce (.stealTimeout g) else s

/-- Whether the victim of a steal has exited (11 R312). -/
def State.victimOver (s : State) (st : Steal) : Bool := ((s.core st.core).team? st.slot).any Team.over

/-- STEAL_TIMEOUT: a request is withdrawn after STEALTO cycles, or when the victim has exited (11 R312, 14 R395). -/
def execStealTimeout (g : GroupRef) (s : State) : Host.Outcome State Fault Refusal :=
  match s.team? g, (s.group? g).bind (·.steal) with
  | some t, some st =>
    if st.post + t.bind.stealto < s.cycle ∨ s.victimOver st then .next { (s.withdrawSteal g).repostSteal g with note := .performed }
    else .next { s.post (.stealTimeout g) with note := .performed }
  | _, _ => .next { s with note := .performed }

/-- TASK_DELIVERY: a stolen task arrives at the thief's core, at the top of its deque (14 R395). -/
def execTaskDelivery (g : GroupRef) (task : BitVec 512) (s : State) : Host.Outcome State Fault Refusal :=
  match (s.group? g).bind (·.steal) with
  | none => .next { s with note := .performed }
  | some _ => .next { (s.pushTask g task).endSteal g true with note := .performed }

/-- The task of a lane: 16 registers, the first in the low word (11 R310). -/
def taskOf (d : BitVec 7) (v : Env) (l : Nat) : BitVec 512 :=
  BitVec.ofNat 512 ((List.range 16).foldl (fun x k => x + (v.team.vget v.r.grp (d.toNat + k) l).toNat * 2 ^ (32 * k)) 0)

/-- One lane of `spawn`: to a thief, or to the deque; none without room (11 R310). -/
def State.spawnLane (s : State) (v : Env) (task : BitVec 512) : Option State :=
  match s.oldestMail v.r.core v.team.bind with
  | some k =>
    let thief := mailThief v.r.core ((s.mail v.r.core v.team.bind k).getD 0)
    some ((s.clearMail v.r.core v.team.bind k).post (.taskDelivery thief task))
  | none =>
    match s.team? v.r with
    | none => none
    | some t => if t.dequeRoom then some (s.pushTask v.r task) else none

/-- The lanes of `spawn` in ascending order, up to the first without room (11 R310). -/
def spawnLanes (d : BitVec 7) (v : Env) : List Nat → State → State × List Nat
  | [], s => (s, [])
  | l :: t, s =>
    match s.spawnLane v (taskOf d v l) with
    | none => (s, l :: t)
    | some s' => spawnLanes d v t s'

/-- `spawn` and `spawn.try` (11 R310); without room for any lane it performs no release (04 R127). -/
def spawnBody (d : BitVec 7) (p : Option (BitVec 3)) (v : Env) (s : State) : Res :=
  if !v.team.bind.ten then queueError
  else
    let r := spawnLanes d v v.lanes s
    let left := maskOf fun l => r.2.contains l
    if left = v.em then match p with
      | some pd => .done (s.modGroup v.r fun x => x.pset pd.toNat v.em 0)
      | none => .wait
    else releaseThen 3 v s fun _ =>
      match p with
      | some pd => .done (r.1.modGroup v.r fun x => x.pset pd.toNat v.em (~~~left))
      | none => if left = 0 then .done r.1 else .part r.1 left

/-- One lane of `take` (11 R311). -/
def State.takeLane (s : State) (v : Env) (d : BitVec 7) (p : BitVec 3) (l : Nat) : State :=
  match s.team? v.r with
  | none => s
  | some t =>
    if t.tcount = 0 then s.modGroup v.r fun x => x.pset p.toNat (oneLane l) 0
    else
      let task := s.scratchRead v.r.core 64 (dequeAt t.bind (t.tcount - 1))
      (s.modTeam v.r fun t => { putWords t v.r.grp d.toNat 16 (oneLane l) task with tcount := t.tcount - 1 }).modGroup v.r fun x =>
        x.pset p.toNat (oneLane l) (oneLane l)

/-- The first lane of `take` that would receive a poisoned task (02 R74). -/
def poisonTask (v : Env) (s : State) : Option Nat :=
  match s.team? v.r with
  | none => none
  | some t => ((List.zip v.lanes (List.range t.tcount)).find? fun lk =>
      s.scratchPoisoned v.r.core 64 (dequeAt t.bind (t.tcount - 1 - lk.2))).map (·.1)

/-- `take` (11 R311). -/
def takeBody (d : BitVec 7) (p : BitVec 3) (v : Env) (s : State) : Res :=
  if !v.team.bind.ten then queueError
  else match poisonTask v s with
    | some l => dataError v s (some l)
    | none => acquireThen 3 v s fun s => .done (v.lanes.foldl (fun s l => s.takeLane v d p l) s)

/-- `steal` (11 R306, R312, 01 R464). -/
def stealBody (row : BitVec 4) (col : BitVec 3) (p : BitVec 3) (v : Env) (s : State) : Res :=
  let victim := coreAt (dieOf v.r.core) row.toNat col.toNat
  let fail := Res.done (s.modGroup v.r fun x => x.pset p.toNat v.em 0)
  match s.memberAt v.team victim with
  | none => queueError
  | some (i, j) =>
    if victim = v.r.core then queueError
    else match s.memberWin v.team v.r.slot i j with
      | .gone => if v.team.bind.ten then fail else queueError
      | .stalled => .wait
      | .here w =>
        if !w.bind.ten || !v.team.bind.ten then queueError
        else if (liveGroup v s).steal.isSome then .wait
        else if !((s.team? v.r).any Team.dequeRoom) then fail
        else match (List.range 8).find? fun k => (s.mail w.core w.bind k).isNone with
          | none => fail
          | some k =>
            let f := s.fretOf v .a
            .done (((s.scratchWrite w.core 16 (mailAt w.bind k) (mailWord v.r s.cycle)).modGroup v.r fun x =>
              { x.fretUp f with steal := some ⟨w.core, w.slot, p, v.em, s.cycle, f⟩ }).post (.stealTimeout v.r))

/-! ## Uses (11 R305) -/

/-- A push: a place and data; the data is a pair for an 8 B queue. -/
def useQput (wide : Bool) (c : BitVec 1) (row : BitVec 4) (col : BitVec 3) (d : BitVec 7) (pd : List Opnd) : Use :=
  { c := c, ops := (if wide && decide (d.toNat < 96) && d.toNat % 2 = 0 then .vk d 2 1 false else .vs d) :: pd, place := some (row.toNat, col.toNat), orph := .lanes }

/-- A pop; the destination is a pair for an 8 B queue. -/
def useQget (wide : Bool) (c : BitVec 1) (d : BitVec 7) (pd : List Opnd) : Use :=
  { c := c, ops := .vk d (if wide && d.toNat % 2 = 0 then 2 else 1) 1 true :: pd, cls := .a, result := true, orph := .lanes }

/-- `qlen`. -/
def useQlen (c : BitVec 1) (row : BitVec 4) (col : BitVec 3) (d : BitVec 7) : Use :=
  { c := c, ops := [.vd d], place := some (row.toNat, col.toNat), cls := .a, result := true, orph := .lanes }

/-- `spawn`: 16 registers from a multiple of 16. -/
def useSpawn (c : BitVec 1) (d : BitVec 7) (pd : List Opnd) : Use :=
  { c := c, ops := .vk d 16 16 false :: pd, legal := decide (d.toNat < 96), orph := .lanes, pin := true }

/-- `take`. -/
def useTake (c : BitVec 1) (d : BitVec 7) (p : BitVec 3) : Use :=
  { c := c, ops := [.vk d 16 16 true, .pd p], cls := .a, result := true, orph := .lanes }

/-- `steal`, once per group. -/
def useSteal (c : BitVec 1) (row : BitVec 4) (col : BitVec 3) (p : BitVec 3) : Use :=
  { c := c, ops := [.pd p], place := some (row.toNat, col.toNat), cls := .a, result := true, orph := .once, once := true }

/-- Performs a pop with the destination that the queue's element size gives (11 R306). -/
def execPop (n : BitVec 4) (use : Bool → Use) (body : Env → State → Res) (s : State) : Host.Outcome State Fault Refusal :=
  perform (use (s.ownWide s.cur n.toNat)) body s

/-- 11 R307: pushes a run, and waits while the queue is full. -/
def execQput (c : BitVec 1) (n : BitVec 4) (row : BitVec 4) (col : BitVec 3) (d : BitVec 7) (s : State) : Host.Outcome State Fault Refusal :=
  perform (useQput (s.placeWide s.cur row.toNat col.toNat n.toNat) c row col d [])
    (pushBody none n row col d) s

/-- 11 R307: pops a run, and waits while too few elements are visible. -/
def execQget (c : BitVec 1) (n : BitVec 4) (d : BitVec 7) (s : State) : Host.Outcome State Fault Refusal :=
  execPop n (fun w => useQget w c d []) (qgetBody n d) s

/-- 11 R308: pushes a run if there is room. -/
def execQputTry (c : BitVec 1) (n : BitVec 4) (row : BitVec 4) (col : BitVec 3) (d : BitVec 7) (p : BitVec 3) (s : State) : Host.Outcome State Fault Refusal :=
  perform (useQput (s.placeWide s.cur row.toNat col.toNat n.toNat) c row col d [.pd p])
    (pushBody (some p) n row col d) s

/-- 11 R308: pops what is visible. -/
def execQgetTry (c : BitVec 1) (n : BitVec 4) (d : BitVec 7) (p : BitVec 3) (s : State) : Host.Outcome State Fault Refusal :=
  execPop n (fun w => useQget w c d [.pd p]) (qgetTryBody n d p) s

/-- 11 R308: the number of elements of a queue. -/
def execQlen (c : BitVec 1) (n : BitVec 4) (row : BitVec 4) (col : BitVec 3) (d : BitVec 7) (s : State) : Host.Outcome State Fault Refusal :=
  perform (useQlen c row col d)
    (qlenBody n row col d) s

/-- 11 R310: pushes a task for each active lane. -/
def execSpawn (c : BitVec 1) (d : BitVec 7) (s : State) : Host.Outcome State Fault Refusal :=
  perform (useSpawn c d [])
    (spawnBody d none) s

/-- 11 R310: pushes tasks while there is room. -/
def execSpawnTry (c : BitVec 1) (d : BitVec 7) (p : BitVec 3) (s : State) : Host.Outcome State Fault Refusal :=
  perform (useSpawn c d [.pd p])
    (spawnBody d (some p)) s

/-- 11 R311: pops a task for each active lane. -/
def execTake (c : BitVec 1) (d : BitVec 7) (p : BitVec 3) (s : State) : Host.Outcome State Fault Refusal :=
  perform (useTake c d p)
    (takeBody d p) s

/-- 11 R312: asks another team for a task. -/
def execSteal (c : BitVec 1) (row : BitVec 4) (col : BitVec 3) (p : BitVec 3) (s : State) : Host.Outcome State Fault Refusal :=
  perform (useSteal c row col p)
    (stealBody row col p) s

end Sys2Proof.Machine
end

