-- ==== Sys2Proof/Machine/Engine.lean ====
section
/-! DEFINITION. What the engines have in common: commands as they are captured at issue (12 R318, 01 R30), the lines and bytes an
engine reads and writes (03 R89 to R95, 13 R359, R360), completion (09 R235), deliveries on stage barriers (02 R70), `drain`
(02 R71). -/

namespace Sys2Proof.Machine

/-! ## Commands -/

/-- An engine word: performed once per group, it counts on SETB (12 R318, 13 R352, R372). -/
def useEngine (c : BitVec 1) (ops : List Opnd) (legal : Bool := true) : Use :=
  { c := c, ops := ops, legal := legal, cls := .b, orph := .once, once := true }

/-- The units that take up commands: request engine, matrix engine, accumulator port, sort unit, traversal unit, block solver. -/
inductive EngineUnit where
  | request
  | matrix
  | port
  | sort
  | traverse
  | solve
  deriving DecidableEq, Repr

/-- The unit of a command. -/
def CmdKind.unit : CmdKind → EngineUnit
  | .copy _ _ _ _ _ _ _ => .request
  | .eprst _ _ _ => .request
  | .srt _ _ _ => .sort
  | .bvht _ _ _ _ _ => .traverse
  | .bslv _ _ _ => .solve
  | .bsadj _ _ _ => .solve
  | .mmad _ _ _ _ _ _ _ => .matrix
  | .stage _ _ _ _ _ _ => .matrix
  | .acc _ _ _ _ _ _ _ => .port

/-- The commands of a core, oldest first. -/
def Core.commands (k : Core) : List Cmd := k.cmds.filterMap (·.2)

/-- A command of a group, before its number is given (12 R318). -/
def plainCmd (kind : CmdKind) (g : GroupRef) (part : Nat) (hyp : BitVec 12) : Cmd :=
  { kind := kind, g := g, part := part, hyp := hyp, fret := none, chain := none, seq := 0, after := 0, since := 0, latched := false, also := [],
    phase := 0, work := Work.new, seen := [], vals := [], left := [], st := 0 }

/-- A command enters its core's issue order. -/
def State.addCmd (s : State) (c : Cmd) : State :=
  s.modCore c.g.core fun k => { k with seq := k.seq + 1, cmds := k.cmds.set none k.seq (some { c with seq := k.seq }) }

/-- The HYP that an engine word captures, and whether its active lanes hold different ones (05 R141). -/
def engineHyp (v : Env) (s : State) : BitVec 12 × Bool :=
  let x := liveGroup v s
  let h := x.hyp.get 0 (lowestLane v.em)
  (h, v.lanes.any fun l => x.hyp.get 0 l ≠ h)

/-- The event that takes up a unit's next command. -/
def EngineUnit.takeup (core id : Nat) : EngineUnit → Instr
  | .request => .copyTakeup core
  | .matrix => .matrixTakeup core
  | .port => .accTakeup core
  | _ => .engineCommandStart core id

/-- An engine word issues its command (12 R318, 13 R352): it is counted on SETB and its unit is to take it up. -/
def State.submit (s : State) (v : Env) (kind : CmdKind) : State :=
  let f := s.fretOf v .b
  let c := { plainCmd kind v.r v.part (engineHyp v s).1 with fret := f, after := (liveGroup v s).nextLog, since := (liveGroup v s).since }
  ((s.fretUp v.r f).addCmd c).postOnce (kind.unit.takeup v.r.core (s.core v.r.core).seq)

/-- An engine word whose active lanes hold different HYPs traps (05 R141); else it is submitted. -/
def State.submitThen (s : State) (v : Env) (kind : CmdKind) (k : State → Res) : Res :=
  if (engineHyp v s).2 then .trap (.atIssue 4 7) else k (s.submit v kind)

/-- Whether what a command's issue was to follow is done: the accesses that it released are performed, and an earlier acquire and the
earlier fences are complete, so that the engine reads nothing older (04 R115, R121, R128). -/
def State.issueDone (s : State) (g : GroupRef) (after since : Nat) : Bool :=
  match s.group? g with
  | none => true
  | some x => (x.log.all fun n => decide (after ≤ n.seq) || !n.counts since) && !x.loadSweep &&
      x.fences.all fun f => decide (after < f.upto ∨ f.since < since) || (s.die (dieOf g.core)).fenceOver f

/-- The same for a command (04 R128). -/
def State.cmdReady (s : State) (c : Cmd) : Bool := s.issueDone c.g c.after c.since

/-- A later status does not replace the first (09 R235). -/
def Cmd.fail (c : Cmd) (st : BitVec 2) : Cmd := { c with st := if c.st = 0 then st else c.st }

/-! ## Completion -/

/-- Whether bytes of a line under a tag that a die has written are not yet applied at their home (03 R85). -/
def State.lineOut (s : State) (die part tag line : Nat) : Bool := (s.die die).out.any (s.outOf part tag line)

/-- A die gives up the exclusivity of a line (03 R91). -/
def State.dropX (s : State) (die part tag line : Nat) : State :=
  s.modDie die fun d =>
    let f := d.frame part tag line
    if f.state = 3 ∨ f.state = 4 then d.setFrame part tag line { f with state := frameState tag { f with state := 0 } } else d

/-- A line leaves an engine's ownership: die exclusivity ends (03 R90, R91). -/
def State.leaveLine (s : State) (die part tag line : Nat) : State :=
  (if (s.llcTag part tag line).xdie.toNat = die then s.modTag part tag line fun t => { t with xdie := 15 } else s).dropX die part tag line

/-- The ownership ranges of a command on a die end (03 R90). -/
def State.endRangesOn (s : State) (die core id : Nat) : State :=
  let mine := fun o : OwnRange => o.core = core && o.cmd = id
  let s1 := ((s.die die).owned.filter mine).foldl (init := s) fun s o =>
    o.lines.foldl (fun s l => s.leaveLine die o.part (s.effectiveTag o.part o.tag) l) s
  s1.modDie die fun d => { d with owned := d.owned.filter fun o => !mine o }

/-- The ownership ranges of a core's command end. -/
def State.endRanges (s : State) (core id : Nat) : State := s.endRangesOn (dieOf core) core id

/-- A chain records the first error status of its commands (13 R362). -/
def Chain.record (h : Chain) (st : BitVec 2) : Chain := { h with status := if h.status = 0 then st else h.status }

/-- A command is complete: its frets are decremented with its status, its ranges end, its chain learns of it; a data error under
policy B kills the team (02 R74, 09 R235). -/
def State.endCmd (s : State) (core id : Nat) : State :=
  match (s.core core).cmd? id with
  | none => s
  | some c =>
    let s1 := ((c.g, c.fret) :: c.also.map fun m => (m.1, m.2.1)).foldl (fun s gf => s.fretDown gf.1 gf.2 c.st) (s.endRanges core id)
    let s2 := s1.modCore core fun k =>
      { k with
        done := k.done + 1
        cmds := k.cmds.set none id none
        matrix := k.matrix.filter fun i => i ≠ id
        chains := match c.chain with
          | none => k.chains
          | some n => k.chains.map fun nc => if nc.1 = n then (n, nc.2.map fun h => h.record c.st) else nc }
    let s3 := match c.kind with
      | .acc _ _ _ _ _ _ _ => (s2.modGroup c.g fun x => { x with lineRegs := x.lineRegs.drop fun i => i = id }).stepPerms c.g
      | _ => s2
    match c.chain with
    | some n => s3.postOnce (.chainDone core n)
    | none => if c.st = 2 ∧ s3.policyB c.part then s3.policyKill c.g.core c.g.slot else s3

/-! ## Bytes that an engine reads and writes -/

/-- Where an element of a command lies: a virtual address, a byte of a window, a byte of the core's operand buffer. -/
inductive Loc where
  | glob (va : Nat)
  | win (w : Win) (off : Nat)
  | ob (at_ : Nat)
  deriving DecidableEq, Repr

/-- An engine that runs a command: core and number, or 2^20 and a communicator's number, or 2^21 and a die's page copier; die, partition,
effective tag, whether writes under it have an effect, and how far it has come. -/
structure Eng where
  core : Nat
  cmd : Nat
  die : Nat
  part : Nat
  tag : Nat
  live : Bool
  work : Work

/-- The engine that runs a command, its hypothesis followed through a confirmation (05 R141, R149). -/
def State.engOf (s : State) (c : Cmd) : Eng :=
  ⟨c.g.core, c.seq, dieOf c.g.core, c.part, s.effectiveTag c.part c.hyp.toNat, s.tagLive c.part c.hyp.toNat, c.work⟩

/-- Notes what an engine has done. -/
def State.modWork (s : State) (e : Eng) (f : Work → Work) : State :=
  if e.core < 2 ^ 20 then s.modCmd e.core e.cmd fun c => { c with work := f c.work }
  else if e.core < 2 ^ 21 then s.modComm (e.core - 2 ^ 20) fun c => { c with work := f c.work }
  else s.modDie e.die fun d => { d with pcWork := f d.pcWork }

/-- What an engine waits as for a page walk. -/
def Eng.waiter (e : Eng) (vline : Nat) : Waiter := if e.core < 2 ^ 20 then .cmd e.core e.cmd vline else .comm (e.core - 2 ^ 20) vline

/-- The number of a unit of which no part is read or written without the rest: a line, or a bank word of a core (03 R91, R93, R94). -/
def Loc.unit : Loc → Nat
  | .glob va => va / 128
  | .win w off => 2 ^ 50 + w.core * 2 ^ 32 + (w.bind.spbase + off) / 16
  | .ob a => 2 ^ 61 + a / 16

/-- The bytes of its unit, and the place in it. -/
def Loc.unitBytes : Loc → Nat
  | .glob _ => 128
  | _ => 16

/-- The first byte's place in its unit. -/
def Loc.inUnit : Loc → Nat
  | .glob va => va % 128
  | .win w off => (w.bind.spbase + off) % 16
  | .ob a => a % 16

/-- The place `n` bytes on. -/
def Loc.plus (l : Loc) (n : Nat) : Loc :=
  match l with
  | .glob va => .glob (va + n)
  | .win w off => .win w (off + n)
  | .ob a => .ob (a + n)

/-- What an engine needs before it can go on: a unit read, a translation for a write, a flip to device bias, or only time. -/
inductive Need where
  | read (l : Loc)
  | walk (vline : Nat)
  | flip (pa : Nat)
  | time
  deriving DecidableEq, Repr

/-- An access of an engine: done, not yet, or an error of the command (13 R360). -/
inductive Look (α : Type) where
  | got (x : α)
  | need (n : Need)
  | failed
  deriving DecidableEq

/-- The value of an access that needs nothing. -/
def Look.value {α : Type} : Look α → Option α
  | .got x => some x
  | _ => none

/-- What a list of accesses needs; of equal needs that follow one another, one. -/
def needsOf {α : Type} (ls : List (Look α)) : List Need :=
  (ls.foldl (init := ([] : List Need)) fun ns l => match l with
    | .need n => if ns.head? = some n then ns else n :: ns
    | _ => ns).reverse

/-! ## Reading (03 R93, 13 R360) -/

/-- Whether a window holds bytes that an engine may read (01 R13, R14). -/
def State.engineReadable (s : State) (w : Win) (off n : Nat) : Bool := off + n ≤ w.bind.spsize && !s.queueStorage w off n

/-- Whether an engine may reach a place for reading; what it may reach of global memory is found when the line is read (01 R12 to R14). -/
def State.mayRead (s : State) (e : Eng) (l : Loc) (n : Nat) : Bool :=
  match l with
  | .glob va => decide (va / 128 < 2 ^ 49) && !e.work.bad.contains (va / 128)
  | .win w off => s.engineReadable w off n
  | .ob _ => true

/-- `n` bytes of a unit that has been read, with their poison: granules of 8 B (02 R73, 03 R99). -/
def unitPart (x : Line × BitVec 16) (o n : Nat) : Nat × Bool :=
  (lineBytes x.1 o n, (List.range 16).any fun g => x.2.getLsbD g && decide (o / 8 ≤ g) && decide (g ≤ (o + n - 1) / 8))

/-- Bytes that lie in one unit. -/
def Eng.readPart (e : Eng) (l : Loc) (n : Nat) : Look (Nat × Bool) :=
  match e.work.buf.get none l.unit with
  | none => .need (.read l)
  | some x => .got (unitPart x l.inUnit n)

/-- Reads an element of `n` bytes, each of its units once (03 R93). -/
def State.engineRead (s : State) (e : Eng) (l : Loc) (n : Nat) : Look (Nat × Bool) :=
  if !s.mayRead e l n then .failed
  else
    let k := l.unitBytes - l.inUnit
    if n ≤ k then e.readPart l n
    else match e.readPart l k, e.readPart (l.plus k) (n - k) with
      | .got a, .got b => .got (a.1 + b.1 * 2 ^ (8 * k), a.2 || b.2)
      | .got _, x => x
      | x, _ => x

/-- The poison of the two granules of a bank word. -/
def bankPoison (psn : List Nat) (a : Nat) : BitVec 16 :=
  (if psn.contains (2 * (a / 16)) then 1 else 0) ||| (if psn.contains (2 * (a / 16) + 1) then 2 else 0)

/-- A unit has been read; what it read first stays. -/
def State.keepUnit (s : State) (e : Eng) (u : Nat) (x : Nat) (psn : BitVec 16) : State :=
  s.modWork e fun w => if (w.buf.get none u).isSome then w else { w with buf := w.buf.set none u (some (BitVec.ofNat 1024 x, psn)) }

/-- A line is refused to an engine. -/
def State.refuseLine (s : State) (e : Eng) (vline : Nat) : State := s.modWork e fun w => { w with bad := vline :: w.bad }

/-- An engine reads a line of global memory whole through its die's L2, or at its owner (03 R89, R93, 06 R169, R170). Under a hypothesis
that has been refuted no frame is filled (05 R149). -/
def State.readGlobal (s : State) (e : Eng) (vline : Nat) : State :=
  match s.translate e.die e.part (128 * vline) 0 with
  | .walk => (s.missOn e.die e.part vline (e.waiter vline)).getD s
  | .stalled => s
  | .refused _ => s.refuseLine e vline
  | .at_ pa pte =>
    let line := pa / 128
    if placeOf pa = .hbm then
      if !e.live then s.keepUnit e vline (s.viewLine e.die e.part e.tag line).toNat 0
      else if !s.canFill e.die line then s
      else match s.fill e.die e.part e.tag line (BitVec.allOnes 128) with
        | .inr s1 => s1
        | .inl s1 =>
          let f := (s1.die e.die).frame e.part e.tag line
          (s1.noteRead e.die line (BitVec.allOnes 128)).keepUnit e vline f.data.toNat (if f.psn then BitVec.allOnes 16 else 0)
    else if s.forwarding pa (pteOwner pte) = .refused then s.refuseLine e vline
    else (s.countForward e.die e.part (128 * vline) pa (pteBit pte 57)).keepUnit e vline (s.forwardedRead (128 * line) (pteOwner pte) 128)
      (if s.forwarding pa (pteOwner pte) = .broken ∨ s.farPoisoned pa (pteOwner pte) then BitVec.allOnes 16 else 0)

/-- An engine reads the unit of a place. -/
def State.readUnit (s : State) (e : Eng) (l : Loc) : State :=
  match l with
  | .glob va => s.readGlobal e (va / 128)
  | .win w off =>
    let a := (w.bind.spbase + off) / 16 * 16
    s.keepUnit e l.unit (s.scratchRead w.core 16 a) (bankPoison (s.core w.core).scratchPsn a)
  | .ob a => s.keepUnit e l.unit ((s.core e.core).ob.read 16 (a / 16 * 16)) (bankPoison (s.core e.core).obPsn a)

/-- Does what an engine needs, as far as it can be done now (06 R164, 13 R360). -/
def State.meet (s : State) (e : Eng) : Need → State
  | .time => s
  | .flip pa => if s.isFlipping pa then s else s.startFlip pa false
  | .read l => s.readUnit e l
  | .walk vline => (s.missOn e.die e.part vline (e.waiter vline)).getD s

/-- Does some of what an engine needs, the first and others by a free choice: accesses of an engine are in no order (04 R128). -/
def State.meetSome (s : State) (e : Eng) (ns : List Need) : State :=
  (List.zip ns (List.range ns.length)).foldl (init := { s with choices := s.choices + ns.length }) fun t nk =>
    if nk.2 = 0 ∨ Config.choice (s.choices + nk.2) % 2 = 1 then t.meet e nk.1 else t

/-! ## Writing (03 R91 to R94) -/

/-- Translates a destination line at a command's start (03 R90, 13 R360, 01 R12). -/
def State.engineLine (s : State) (e : Eng) (vline : Nat) : Look Dest :=
  if 2 ^ 49 ≤ vline ∨ e.work.bad.contains vline then .failed
  else match s.translate e.die e.part (128 * vline) 1 with
    | .walk => .need (.walk vline)
    | .stalled => .need .time
    | .refused _ => .failed
    | .at_ pa pte => if s.forwarding pa (pteOwner pte) = .refused then .failed else .got ⟨vline, pa, pteOwner pte, pteBit pte 57⟩

/-- One element to write: its place, its bytes, its bits, its poison. -/
structure Put where
  loc : Loc
  n : Nat
  val : Nat
  psn : Bool
  deriving DecidableEq, Repr

/-- An element in pieces that lie in one unit each. -/
def Put.pieces (p : Put) : List Put :=
  let k := p.loc.unitBytes - p.loc.inUnit
  if p.n ≤ k then [p] else [{ p with n := k }, ⟨p.loc.plus k, p.n - k, p.val / 2 ^ (8 * k), p.psn⟩]

/-- Whether an engine may write the bytes of an element of `n` bytes that lies in a window (01 R13, R14, 02 R70). -/
def State.engineWritable (s : State) (l : Loc) (n : Nat) : Bool :=
  match l with
  | .win w off => s.windowOk w off n
  | _ => true

/-- What stands between an engine and a line it is to write (03 R90 to R93, 05 R142): the line as it was translated at the start. -/
def State.engineStore (s : State) (e : Eng) (vline : Nat) : Look Dest :=
  match e.work.dests.find? (·.vline = vline) with
  | none => .failed
  | some d =>
    if placeOf d.pa ≠ .hbm then (if e.tag = 0 then .got d else .failed)
    else
      let line := d.pa / 128
      let older := (s.die e.die).owned.takeWhile fun o => !(o.core = e.core && o.cmd = e.cmd)
      if s.isFlipping d.pa then .need .time
      else if older.any fun o => o.part = e.part && s.effectiveTag e.part o.tag = e.tag && o.lines.contains line then .need .time
      else if e.tag ≠ 0 ∧ s.hostBias d.pa then .need (.flip d.pa)
      else .got d

/-- The bytes that pieces put into one unit, with the granules that poisoned ones touch. -/
def unitOfPuts (ps : List Put) : LineBytes × BitVec 16 :=
  ps.foldl (init := (⟨0, 0⟩, 0)) fun acc p =>
    let o := p.loc.inUnit
    let m := byteMask o p.n
    let d := BitVec.ofNat 1024 (p.val % 2 ^ (8 * p.n) * 2 ^ (8 * o))
    (⟨acc.1.mask ||| m, mergeLine acc.1.data d m⟩,
      if p.psn then acc.2 ||| ((BitVec.allOnes 16 <<< (o / 8)) &&& ~~~(BitVec.allOnes 16 <<< ((o + p.n - 1) / 8 + 1))) else acc.2)

/-- The poison of granules after a bank word has been written: one written whole has that of the data, one written in part keeps its own
too (02 R73, R74). -/
def wordPoison (psn : List Nat) (a : Nat) (b : LineBytes) (bad : BitVec 16) : List Nat :=
  (List.range 2).foldl (init := psn) fun l g =>
    let whole := b.mask.extractLsb' (8 * g) 8 = 0xFF#8
    let k := a / 8 + g
    let l1 := if whole then l.filter (· ≠ k) else l
    if bad.getLsbD g && !l1.contains k then l1 ++ [k] else l1

/-- Writes pieces of one bank word (03 R94). -/
def State.putWord (s : State) (e : Eng) (l : Loc) (ps : List Put) : State :=
  let (b, bad) := unitOfPuts ps
  match l with
  | .glob _ => s
  | .win w off =>
    let a := (w.bind.spbase + off) / 16 * 16
    s.modCore w.core fun k =>
      { k with scratch := k.scratch.writeMasked 16 a b.data.toNat b.mask.toNat, scratchPsn := wordPoison k.scratchPsn a b bad }
  | .ob at_ =>
    let a := at_ / 16 * 16
    s.modCore e.core fun k => { k with ob := k.ob.writeMasked 16 a b.data.toNat b.mask.toNat, obPsn := wordPoison k.obPsn a b bad }

/-- An engine notes that it has written a unit. -/
def State.noteWrote (s : State) (e : Eng) (u : Nat) : State := s.modWork e fun w => { w with wrote := u :: w.wrote }

/-- A die takes exclusivity of a line for an engine: state X. The home recalls the line from another die, whose bytes it applies first (03
R91); while that, or room for the line, is awaited nothing is taken. -/
def State.takeX (s : State) (e : Eng) (line : Nat) : State :=
  match s.l2Alloc e.die e.part e.tag line with
  | .inr s1 => s1
  | .inl s1 =>
    match s1.homeHolds e.part e.tag line with
    | .inr s2 => s2
    | .inl s2 =>
      let x := (s2.llcTag e.part e.tag line).xdie.toNat
      if x ≠ 15 ∧ x ≠ e.die ∧ s2.lineOut x e.part e.tag line then s2.postOnce (.rootWriteBatchSend x)
      else
        let s3 := if x = 15 ∨ x = e.die then s2 else s2.dropX x e.part e.tag line
        (s3.modTag e.part e.tag line fun t => { t with xdie := BitVec.ofNat 4 e.die }).modDie e.die fun d =>
          let f := d.frame e.part e.tag line
          d.setFrame e.part e.tag line { f with state := if e.tag = 0 ∧ f.dmask ≠ 0 then 4 else 3 }

/-- Whether an engine's die holds a line exclusive. -/
def State.hasX (s : State) (e : Eng) (line : Nat) : Bool := (s.llcTag e.part e.tag line).xdie.toNat = e.die

/-- Writes the bytes of one line in one write, once it is held exclusive; or takes exclusivity (03 R91, R99). -/
def State.putLine (s : State) (e : Eng) (d : Dest) (b : LineBytes) (bad : BitVec 16) : State :=
  let line := d.pa / 128
  if !e.live then s.noteWrote e d.vline
  else if s.forwarding d.pa d.owner = .broken then s.loseStore.noteWrote e d.vline
  else if placeOf d.pa ≠ .hbm then
    (((s.countForward e.die e.part (128 * d.vline) d.pa d.cnt).forwardedWrite (128 * line) d.owner 128 b.data.toNat b.mask.toNat).setFar
      (farLine d.pa d.owner) b.mask (bad ≠ 0)).noteWrote e d.vline
  else if !s.hasX e line then s.takeX e line
  else
    (((s.hostYields line).sliceWrite e.die e.part e.tag line b (bad ≠ 0)).postOnce (.rootWriteBatchSend e.die)).noteWrote e d.vline

/-- Of elements with one place, any may be written last: each after the first is written or not by a free choice (01 R22). -/
def dropTwice (n : Nat) : List Put → List Loc → List Put
  | [], _ => []
  | p :: t, seen =>
    if seen.contains p.loc ∧ Config.choice (n + t.length) % 2 = 0 then dropTwice n t seen else p :: dropTwice n t (p.loc :: seen)

/-- The lines that elements touch, in order. -/
def putLines (ls : List Loc) : List Nat :=
  ls.foldl (fun acc l => match l with
    | .glob va => if acc.contains (va / 128) then acc else acc ++ [va / 128]
    | _ => acc) []

/-- Pieces in groups of one unit, each unit once. -/
def unitGroups (ps : List Put) : List (Nat × List Put) :=
  ps.foldr (init := []) fun p gs =>
    match gs with
    | (u, qs) :: rest =>
      if u = p.loc.unit then (u, p :: qs) :: rest
      else if rest.any (·.1 = p.loc.unit) then (u, qs) :: rest.map fun g => if g.1 = p.loc.unit then (g.1, p :: g.2) else g
      else (p.loc.unit, [p]) :: gs
    | [] => [(p.loc.unit, [p])]

/-- What an engine's write of elements ends with: it goes on later, or all that is to be written is, with whether that was everything. -/
inductive PutEnd where
  | more (s : State)
  | done (s : State) (ok : Bool)

/-- Writes the pieces of one unit, if nothing stands in the way. -/
def State.putUnit (s : State) (e : Eng) (ps : List Put) : State :=
  match ps with
  | [] => s
  | p :: _ =>
    let qs := dropTwice s.choices ps []
    let s0 := { s with choices := s.choices + 2 ^ 32 }
    match p.loc with
    | .glob va => match s.engineStore e (va / 128) with
      | .got d => let (b, bad) := unitOfPuts qs; s0.putLine e d b bad
      | .need n => s0.meet e n
      | .failed => s0
    | l => (s0.putWord e l qs).noteWrote e l.unit

/-- Which of `n` things happen now: some, by a free choice. -/
def chosenOf (base n : Nat) : List Nat :=
  let l := (List.range n).filter fun k => Config.choice (base + k) % 2 = 1
  if l.isEmpty then List.range n else l

/-- Writes elements of `n` bytes; those without a value are lost to an error (13 R356, R360, 03 R91 to R94). Each step writes some of the
lines and bank words that are left: engines write them in no order. A command that meets an error ends, by a free choice, before units that
the error does not touch are written. -/
def State.engineWrite (s : State) (e : Eng) (n : Nat) (items : List (Loc × Option (Nat × Bool))) : PutEnd :=
  let lines := putLines (items.map (·.1))
  let shut := lines.filter fun l => s.engineStore e l = .failed
  let open_ := fun l : Loc => match l with
    | .glob va => !shut.contains (va / 128)
    | _ => s.engineWritable l n
  let failed := (items.filter fun i => i.2.isNone || !open_ i.1).map (·.1.unit)
  let pieces := items.flatMap fun i => match i.2 with
    | none => []
    | some x => if open_ i.1 then (Put.mk i.1 n x.1 x.2).pieces else []
  let left := (unitGroups pieces).filter fun g => !e.work.wrote.contains g.1 && !failed.contains g.1
  let ok := failed.isEmpty
  if left.isEmpty then .done s ok
  else if !ok && Config.choice (s.choices + 2 ^ 33) % 2 = 0 then .done { s with choices := s.choices + 2 ^ 34 } false
  else
    let now := chosenOf s.choices left.length
    let s1 := (List.zip left (List.range left.length)).foldl (init := { s with choices := s.choices + 2 ^ 34 }) fun t gk =>
      if now.contains gk.2 then t.putUnit e gk.1.2 else t
    .more s1

/-- Before an engine writes other elements in the same units, it forgets what it has written and read. -/
def State.newRound (s : State) (e : Eng) : State := s.modWork e fun w => { w with wrote := [], buf := [] }

/-- The same for a command, between the targets of which each has its own units. -/
def State.newRoundOf (s : State) (c : Cmd) : State := s.modCmd c.g.core c.seq fun c => { c with work := { c.work with wrote := [] } }

/-! ## Ownership ranges (03 R89, R90) -/

/-- The lines from the lowest to the highest of a list, as a range; none is empty. -/
def lineRange : List Nat → List Nat
  | [] => []
  | a :: t =>
    let lo := t.foldl Nat.min a
    let hi := t.foldl Nat.max a
    (List.range (hi - lo + 1)).map (lo + ·)

/-- Whether an engine's command still waits for its start. -/
def State.starting (s : State) (x : Nat × Nat) : Bool :=
  if x.1 < 2 ^ 20 then ((s.core x.1).cmd? x.2).any fun c => decide (c.phase < 2)
  else (s.comm? (x.1 - 2 ^ 20)).any fun c => c.cmd.isSome && c.phase = 0

/-- How an engine's start ends for now: it waits, or it has registered its range and captured the translation of its lines. -/
inductive StartEnd where
  | waits (s : State)
  | starts (s : State)

/-- The start of a command: every line of its destination set is translated, its range enters the ownership table in the order of the
start requests, and what the die wrote before comes first (03 R89, R90, 04 R128). A line whose translation is refused takes no part. -/
def State.startRange (s : State) (e : Eng) (hyp : Nat) (vlines : List Nat) : StartEnd :=
  let me := (e.core, e.cmd)
  let range := lineRange vlines
  if range.isEmpty then .starts (s.closeBatch e.die)
  else
    let looks := range.map (s.engineLine e)
    match needsOf looks with
    | n :: ns => .waits (s.meetSome e (n :: ns))
    | [] =>
      let d := s.die e.die
      let queue := if d.starts.contains me then d.starts.filter s.starting else d.starts.filter s.starting ++ [me]
      let s1 := s.modDie e.die fun d => { d with starts := queue }
      if queue.head? ≠ some me ∨ 256 ≤ d.owned.length then .waits s1
      else
        let ds := looks.filterMap Look.value
        let ls := (ds.filter fun x => placeOf x.pa = .hbm).map (·.pa / 128)
        let tables := (range.flatMap fun v => ((s.cachedLeaf e.die e.part (128 * v)).map (·.tables)).getD []).eraseDups
        .starts (((s1.modDie e.die fun d =>
            { d with starts := d.starts.erase me
                     owned := if ls.isEmpty then d.owned else d.owned ++ [⟨e.core, e.cmd, e.part, hyp, ls⟩] }).modWork e fun w =>
            { w with dests := ds, tables := tables }).closeBatch e.die)

/-- The physical lines of local HBM that an engine has written. -/
def Work.written (w : Work) : List Nat :=
  (w.dests.filter fun d => placeOf d.pa = .hbm && w.wrote.contains d.vline).map (·.pa / 128)

/-- The lines of a command whose writes have been applied at their homes leave ownership (03 R90). -/
def State.leaveApplied (s : State) (e : Eng) : State :=
  let mine := fun o : OwnRange => o.core = e.core && o.cmd = e.cmd
  let gone := e.work.written.filter fun l => !s.lineOut e.die e.part e.tag l
  let s1 := gone.foldl (fun s l => s.leaveLine e.die e.part e.tag l) s
  let rest := fun o : OwnRange => if mine o then { o with lines := o.lines.filter fun l => !gone.contains l } else o
  s1.modDie e.die fun d => { d with owned := d.owned.map rest }

/-- Whether a write of an engine has still to be applied at its home (03 R95). -/
def State.owesWrites (s : State) (e : Eng) : Bool := e.work.written.any (s.lineOut e.die e.part e.tag)

/-- A command whose destinations are written completes once its writes have been applied and its deliveries made (03 R95, 13 R361). -/
def State.awaitHomes (s : State) (core id : Nat) (due : Bool) : State :=
  match (s.core core).cmd? id with
  | none => s
  | some c =>
    let s1 := s.leaveApplied (s.engOf c)
    if due || s1.owesWrites (s.engOf c) then s1.post (.engineCommandComplete core id) else s1.endCmd core id

/-! ## Deliveries on stage barriers (02 R69, R70, 11 R304) -/

/-- STAGE_DELIVERY: a delivery completes on the object at an offset of a team's window, or its command ends with an error (02 R70,
11 R304). -/
def execStageDelivery (core slot off : Nat) (bytes : Nat) (ok : Bool) (s : State) : Host.Outcome State Fault Refusal :=
  match (s.core core).team? slot with
  | none => happened s
  | some t =>
    if t.bind.spsize < off + 32 then happened s
    else
      let a := t.bind.spbase + off
      if !ok ∨ s.stageState core a ≠ 1 ∨ s.stagePend core a = 0 then happened (s.endStage core slot off 3)
      else
        let s1 := (s.scratchWrite core 2 (a + 6) (s.stagePend core a - 1)).scratchWrite core 4 (a + 20)
          (s.scratchRead core 4 (a + 20) + bytes)
        happened (s1.testStage core slot off)

end Sys2Proof.Machine
end

