-- ==== Sys2Proof/Machine/Copy.lean ====
section
/-! DEFINITION. COPY words, `eprst`, the request engine (13 R352 to R361, R382, 03 R89 to R96) and `drain` (02 R71). -/

namespace Sys2Proof.Machine

/-! ## Operands of COPY words (13 R353, R354, R358) -/

/-- QS of a copy word. -/
def cwQs (w : DWord) : Nat := (w.extractLsb' 0 4).toNat
/-- QD. -/
def cwQd (w : DWord) : Nat := (w.extractLsb' 4 4).toNat
/-- DK. -/
def cwDk (w : DWord) : Nat := (w.extractLsb' 8 2).toNat
/-- AH. -/
def cwAh (w : DWord) : Nat := (w.extractLsb' 10 4).toNat
/-- BOFF. -/
def cwBoff (w : DWord) : Nat := (w.extractLsb' 14 18).toNat
/-- The number of index-list entries. -/
def cwCount (w : DWord) : Nat := (w.extractLsb' 32 12).toNat + 1
/-- LOFF. -/
def cwLoff (w : DWord) : Nat := (w.extractLsb' 44 20).toNat
/-- SBV of a stage word. -/
def swValid (w : DWord) : Bool := w.getLsbD 63
/-- SBOFF, or FOFF of a fan-out word. -/
def swOff (w : DWord) : Nat := (w.extractLsb' 0 20).toNat
/-- The number of fan-out entries. -/
def fanCount (w : DWord) : Nat := (w.extractLsb' 20 4).toNat + 1

/-! ## Reservations (02 R49, R51) -/

/-- First byte of a reservation in the operand buffer. -/
def Resv.base (r : Resv) (t : BindRec) : Nat := 1024 * (t.obbase + (r.w0.extractLsb' 40 8).toNat)
/-- Its length in bytes. -/
def Resv.size (r : Resv) : Nat := 1024 * ((r.w0.extractLsb' 48 8).toNat + 1)

/-! ## Checks at issue (13 R355) -/

/-- What a COPY word or a chain entry is checked against: its registers, team and core. -/
structure CopyCtx where
  q : Tbl (Option QReg)
  res : Tbl (Option Resv)
  bind : BindRec
  core : Nat

/-- Whether a record lies in the window of the issuing team: SPACE 1, or SPACE 2 naming the own place (01 R20). -/
def CopyCtx.ownWindow (x : CopyCtx) : Option Ten → Bool
  | none => false
  | some d => d.space = 1 || (d.space = 2 && coreAt (dieOf x.core) d.prow d.pcol = x.core)

/-- The tensor record of a q register, if it holds one. -/
def CopyCtx.ten (x : CopyCtx) (n : Nat) : Option Ten :=
  match x.q.get none n with
  | none => none
  | some r => if r.tensor then some (tenOf r.img) else none

/-- A trap at issue with an address. -/
def trapAt (cls cause addr : Nat) : Trap := ⟨cls, cause, none, addr, 0, false, 0⟩

/-- The index space of a command's destination (13 R356, R357): of its record, or for a reservation the source's own; op 0 `copy`, 1
`copy.t`, 2 `gfill`, 3 `mcast`. -/
def copyDims (op : Nat) (cw : DWord) (src : Ten) (dst : Option Ten) : List Nat :=
  match op, dst with
  | 2, some d => [d.extent 0, cwCount cw, 1, 1]
  | 2, none => [src.extent 0, cwCount cw, 1, 1]
  | _, some d => [d.extent 0, d.extent 1, d.extent 2, d.extent 3]
  | 1, none => [src.extent 1, src.extent 0, src.extent 2, src.extent 3]
  | _, none => [src.extent 0, src.extent 1, src.extent 2, src.extent 3]

/-- The number of index tuples. -/
def dimCount (ds : List Nat) : Nat := ds.foldl (· * ·) 1

/-- The number of elements of a command's destination: of its record, or of what goes into a reservation (13 R355). -/
def destCount (op : Nat) (cw : DWord) (src : Ten) (dst : Option Ten) : Nat :=
  match dst with
  | some d => d.extent 0 * d.extent 1 * d.extent 2 * d.extent 3
  | none => dimCount (copyDims op cw src dst)

/-- The reserved and must-be-zero fields (13 R353 to R355). -/
def copyWordBad (op : Nat) (cw sw : DWord) : Bool :=
  (if op = 3 then sw.extractLsb' 24 40 ≠ 0 || decide (12 ≤ (sw.extractLsb' 20 4).toNat) else sw.extractLsb' 20 43 ≠ 0) ||
    decide (2 ≤ cwDk cw) || (op ≠ 2 && cw.extractLsb' 32 32 ≠ 0) || (cwDk cw = 0 && cw.extractLsb' 10 22 ≠ 0) ||
    (cwDk cw = 1 && cwQd cw ≠ 0)

/-- The checks that need the records, once they are there (13 R355). -/
def copyRecTrap (op : Nat) (cw sw : DWord) (x : CopyCtx) (src : Ten) (dst : Option Ten) : Option Trap :=
  let dk := cwDk cw = 1
  let ds := copyDims op cw src dst
  let res := x.res.get none (cwAh cw)
  let sb := op ≠ 3 && swValid sw
  let w := x.bind.spsize
  if !src.rd || (dst.map (·.wr)) = some false then some (trapAt 4 0 0)
  else if dk && res.isNone then some (trapAt 0 2 0)
  else if (dk && decide ((res.map Resv.size).getD 0 < cwBoff cw + dimCount ds * src.size)) || decide (2 ^ 32 < destCount op cw src dst) ||
      (op = 2 && decide (((dst.map (·.extent 1)).getD (cwCount cw)) < cwCount cw)) then some (trapAt 4 24 0)
  else if sb && (dk || (dst.map (·.space)) = some 0) then some (trapAt 4 22 0)
  else if dk && cwBoff cw % 16 ≠ 0 then some (trapAt 5 0 (cwBoff cw))
  else if op = 2 && cwLoff cw % 4 ≠ 0 then some (trapAt 5 0 (cwLoff cw))
  else if sb && swOff sw % 32 ≠ 0 then some (trapAt 5 0 (swOff sw))
  else if op = 3 && swOff sw % 16 ≠ 0 then some (trapAt 5 0 (swOff sw))
  else if op = 2 && decide (w < cwLoff cw + 4 * cwCount cw) then some (trapAt 4 0 (cwLoff cw))
  else if op = 3 && decide (w < swOff sw + 16 * fanCount sw) then some (trapAt 4 0 (swOff sw))
  else if sb && x.ownWindow dst && decide (w < swOff sw + 32) then some (trapAt 4 0 (swOff sw))
  else if (op = 2 && (src.space ≠ 0 || (dst.map (·.space)) = some 0 || decide (2 < src.rank) || decide (2 < (dst.map (·.rank)).getD 0))) ||
      (op = 3 && (dk || (dst.map (·.space)) ≠ some 1)) then some (trapAt 4 25 0)
  else none

/-- The checks of a COPY word other than `kick`, in order (13 R355). -/
def copyTrap (op : Nat) (cw sw : DWord) (x : CopyCtx) : Option Trap :=
  if copyWordBad op cw sw then some (trapAt 4 22 0)
  else match x.ten (cwQs cw) with
    | none => some (trapAt 4 23 0)
    | some src =>
      if cwDk cw = 1 then copyRecTrap op cw sw x src none
      else match x.ten (cwQd cw) with
        | none => some (trapAt 4 23 0)
        | some d => copyRecTrap op cw sw x src (some d)

/-- The command that a COPY word or a chain entry starts, from the images it captures (01 R30, 13 R355). -/
def copyKind (op : Nat) (rm : BitVec 3) (cw sw : DWord) (x : CopyCtx) : CmdKind :=
  .copy (BitVec.ofNat 3 op) rm cw sw ((x.q.get none (cwQs cw)).getD ⟨true, 0⟩)
    (if cwDk cw = 1 then none else x.q.get none (cwQd cw)) (if cwDk cw = 1 then x.res.get none (cwAh cw) else none)

/-- The commands that the request engine holds (13 R359). -/
def Core.requests (k : Core) : List Cmd := k.commands.filter fun c => c.kind.unit = .request

/-- A command that names a stage barrier, or an `mcast`, forbids a flush of its team (15 R412). -/
def forbidsFlush (op : Nat) (sw : DWord) : Bool := op = 3 || swValid sw

/-- `copy`, `copy.t`, `gfill` and `mcast` (13 R355 to R359, 05 R141). -/
def copyBody (op : Nat) (rm : BitVec 3) (a b : BitVec 6) (v : Env) (s : State) : Res :=
  let cw := v.grp.sget a.toNat
  let sw := v.grp.sget b.toNat
  let x : CopyCtx := ⟨v.grp.q, v.grp.res, v.team.bind, v.r.core⟩
  match copyTrap op cw sw x with
  | some t => .trap t
  | none =>
    let go := fun _ : Unit =>
      if !(engineHyp v s).2 && decide (16 ≤ (s.core v.r.core).requests.length) then .wait
      else s.submitThen v (copyKind op rm cw sw x) fun t => .done (t.modGroup v.r fun g => { g with noFlush := g.noFlush || forbidsFlush op sw })
    if cwDk cw = 1 then goodResv (cwAh cw) v s go else go ()

/-! ## `eprst` (13 R382) -/

/-- The checks of the operand and the template (13 R382). -/
def eprstTrap (u : DWord) (w : Win) (s : State) : Option Trap :=
  let toff := (u.extractLsb' 0 20).toNat
  let len := 16 * ((u.extractLsb' 20 12).toNat + 1)
  if u.extractLsb' 32 32 ≠ 0 then some (trapAt 4 22 0)
  else if toff % 16 ≠ 0 then some (trapAt 5 0 toff)
  else if w.bind.spsize < toff + len ∨ s.queueStorage w toff len then some (trapAt 4 0 toff)
  else none

/-- The check of one lane's record (13 R382). -/
def eprstLane (u : DWord) (w : Win) (s : State) (l off : Nat) : Option Trap :=
  let len := 16 * ((u.extractLsb' 20 12).toNat + 1)
  if off % 16 ≠ 0 then some (.atLane 5 0 l off)
  else if w.bind.spsize < off + len ∨ s.queueStorage w off len then some (.atLane 4 0 l off)
  else none

/-- KEY and CTR of a lane at the start of an episode (08 R217, 13 R382). -/
def newEpisode (x : Group) (l : Nat) : Group :=
  let k := x.key.get 0 l
  { x with key := x.key.set 0 l (k.extractLsb' 32 32 ++ (k.extractLsb' 0 32 + 1)), ctr := x.ctr.set 0 l 0 }

/-- `eprst` (13 R382). -/
def eprstBody (a : BitVec 7) (b : BitVec 5) (v : Env) (s : State) : Res :=
  let u := v.grp.sget b.toNat
  let w : Win := ⟨v.r.core, v.r.slot, v.team.bind⟩
  let off := fun l => (v.src a l).toNat
  match eprstTrap u w s, v.lanes.findSome? fun l => eprstLane u w s l (off l) with
  | some t, _ => .trap t
  | none, some t => .trap t
  | none, none =>
    if !(engineHyp v s).2 && decide (16 ≤ (s.core v.r.core).requests.length) then .wait
    else s.submitThen v (.eprst (v.lanes.map off) (u.extractLsb' 0 20).toNat (16 * ((u.extractLsb' 20 12).toNat + 1))) fun t =>
      .done (t.modGroup v.r fun x => v.lanes.foldl newEpisode x)

/-! ## What a command copies (13 R356 to R358, 01 R23, R25) -/

/-- Index tuples of an index space, dimension 0 fastest. -/
def tuples (ds : List Nat) : List (Nat × Nat × Nat × Nat) :=
  (List.range (ds.getD 3 1)).flatMap fun i3 => (List.range (ds.getD 2 1)).flatMap fun i2 =>
    (List.range (ds.getD 1 1)).flatMap fun i1 => (List.range (ds.getD 0 1)).map fun i0 => (i0, i1, i2, i3)

/-- Whether an index tuple lies within a record's extents. -/
def Ten.inside (t : Ten) (i : Nat × Nat × Nat × Nat) : Bool :=
  i.1 < t.extent 0 && i.2.1 < t.extent 1 && i.2.2.1 < t.extent 2 && i.2.2.2 < t.extent 3

/-- Where a record's memory is: a window of which the engine may already know that it is not there, or global memory. -/
inductive TenAt where
  | glob
  | here (w : Win)
  | stalled
  | gone

/-- Where the memory of a group's record is (01 R11, R20, R464). -/
def State.tenAt (s : State) (g : GroupRef) (t : Ten) : TenAt :=
  if t.space = 0 then .glob
  else match s.team? g with
    | none => .gone
    | some tm =>
      match s.placeWin tm g t.space t.prow t.pcol with
      | .here w => .here w
      | .stalled => .stalled
      | .gone => .gone

/-- The place of an element; none in a member that is gone or has not started. -/
def TenAt.loc (w : TenAt) (a : Nat) : Option Loc :=
  match w with
  | .glob => some (.glob a)
  | .here w => some (.win w a)
  | _ => none

/-- The captured parts of a copy command. -/
structure Copy where
  op : Nat
  rm : Rm
  cw : DWord
  sw : DWord
  src : Ten
  dst : Option Ten
  res : Option Resv

/-- A copy command's parts. -/
def Cmd.copy? (c : Cmd) : Option Copy :=
  match c.kind with
  | .copy op rm cw sw src dst res => some ⟨op.toNat, (rmOf rm.toNat).getD .rne, cw, sw, tenOf src.img, dst.map fun d => tenOf d.img, res⟩
  | _ => none

/-- The index tuples of the destination. -/
def Copy.tuples (x : Copy) : List (Nat × Nat × Nat × Nat) := Machine.tuples (copyDims x.op x.cw x.src x.dst)

/-- The source index of a destination index; `seen` is the index list of a `gfill` (13 R356, R357). -/
def Copy.source (x : Copy) (seen : List Nat) (i : Nat × Nat × Nat × Nat) : Nat × Nat × Nat × Nat :=
  if x.op = 1 then (i.2.1, i.1, i.2.2.1, i.2.2.2)
  else if x.op = 2 then (i.1, seen.getD i.2.1 0 % 2 ^ 32, 0, 0)
  else i

/-- Whether the index list entry of a `gfill` row was read from poisoned bytes. -/
def Copy.listPoison (x : Copy) (seen : List Nat) (i : Nat × Nat × Nat × Nat) : Bool := x.op = 2 && decide (2 ^ 32 ≤ seen.getD i.2.1 0)

/-- The size of a destination element. -/
def Copy.size (x : Copy) : Nat := (x.dst.map Ten.size).getD x.src.size

/-- The destination bits of a source element (13 R356): moved, or converted without a flag. -/
def Copy.convert (x : Copy) (bits : Nat) : Nat :=
  match x.dst with
  | none => bits
  | some d => if d.fmt = x.src.fmt then bits else (roundTo d.elem x.rm 0 (x.src.elem.value bits)).1

/-- The read of one element: its destination bits and poison, none where it cannot be read. -/
def State.copyRead (s : State) (e : Eng) (x : Copy) (at_ : TenAt) (seen : List Nat) (i : Nat × Nat × Nat × Nat) : Look (Nat × Bool) :=
  let j := x.source seen i
  if !x.src.inside j then .got (x.convert x.src.padBits, x.listPoison seen i)
  else match at_.loc (x.src.base + x.src.offset j.1 j.2.1 j.2.2.1 j.2.2.2) with
    | none => .failed
    | some l =>
      match s.engineRead e l x.src.size with
      | .got (b, p) => .got (x.convert b, p || x.listPoison seen i)
      | .need n => .need n
      | .failed => .failed

/-- The offset of a destination element from the record's base, or its place among packed bytes. -/
def Copy.place (x : Copy) (k : Nat) (i : Nat × Nat × Nat × Nat) : Nat :=
  match x.dst with
  | none => cwBoff x.cw + k * x.src.size
  | some d => d.offset i.1 i.2.1 i.2.2.1 i.2.2.2

/-- The places of a command's elements, in the order of its tuples; none in a member that is not there (13 R356). -/
def State.copyPlaces (s : State) (g : GroupRef) (x : Copy) : List (Option Loc) :=
  match x.dst with
  | none =>
    let base := match s.team? g, x.res with
      | some t, some r => r.base t.bind
      | _, _ => 0
    (List.range x.tuples.length).map fun k => some (.ob (base + x.place k (0, 0, 0, 0)))
  | some d => let w := s.tenAt g d; x.tuples.map fun i => w.loc (d.base + x.place 0 i)

/-! ## Targets of `mcast` (13 R358) -/

/-- One fan-out entry. -/
structure Fan where
  sbv : Bool
  sboff : Nat
  row : Nat
  col : Nat
  doff : Nat
  /-- A reserved field is set. -/
  bad : Bool

/-- Decodes a fan-out entry of 16 B. -/
def fanOf (x : Nat) : Fan :=
  { sbv := x / 2 ^ 63 % 2 = 1, sboff := x / 2 ^ 32 % 2 ^ 20, row := x / 2 ^ 23 % 16, col := x / 2 ^ 20 % 8, doff := x % 2 ^ 20,
    bad := x / 2 ^ 52 % 2 ^ 11 ≠ 0 || x / 2 ^ 27 % 32 ≠ 0 || x / 2 ^ 64 % 2 ^ 64 ≠ 0 }

/-- The window of a target. -/
def State.fanWin (s : State) (g : GroupRef) (f : Fan) : WinRes :=
  match s.team? g with
  | none => .gone
  | some t => if t.shapeR ≤ f.row ∨ t.shapeC ≤ f.col then .gone else s.memberWin t g.slot f.row f.col

/-- The places of a target's elements in its window. -/
def Copy.fanPlaces (x : Copy) (w : Win) (f : Fan) : List Loc := x.tuples.map fun i => .win w (f.doff + x.place 0 i)

/-! ## Order of the request engine (13 R359, 02 R54) -/

/-- Local bytes as core, first byte, length; the operand buffer lies above the scratchpad. -/
def Loc.span (n core : Nat) : Loc → Option (Nat × Nat × Nat)
  | .glob _ => none
  | .win w off => some (w.core, w.bind.spbase + off, n)
  | .ob a => some (core, 2 ^ 20 + a, n)

/-- The local bytes that a command of the request engine has still to write. -/
def State.pendingPuts (s : State) (c : Cmd) : List (Nat × Nat × Nat) :=
  match c.kind with
  | .eprst recs _ len =>
    match s.team? c.g with
    | none => []
    | some t => recs.map fun o => (c.g.core, t.bind.spbase + o, len)
  | _ =>
    match c.copy? with
    | none => []
    | some x =>
      if x.op = 3 then
        c.left.flatMap fun k =>
          let f := fanOf (c.seen.getD k 0)
          match s.fanWin c.g f with
          | .here w => (x.fanPlaces w f).filterMap fun l => l.span x.size c.g.core
          | _ => []
      else (s.copyPlaces c.g x).filterMap fun l => l.bind fun l => l.span x.size c.g.core

/-- Whether an earlier command of the engine has still to write bytes that are to be read, or a bank word that is to be written. -/
def State.requestBlocked (s : State) (c : Cmd) (reads writes : List (Nat × Nat × Nat)) : Bool :=
  ((s.core c.g.core).requests.filter fun d => d.seq < c.seq && d.phase ≠ 4).any fun d =>
    (s.pendingPuts d).any fun p =>
      reads.any (fun r => r.1 = p.1 && overlaps r.2.1 r.2.2 p.2.1 p.2.2) ||
        writes.any fun r => r.1 = p.1 && overlaps (r.2.1 / 16) ((r.2.1 + r.2.2 + 15) / 16 - r.2.1 / 16) (p.2.1 / 16)
          ((p.2.1 + p.2.2 + 15) / 16 - p.2.1 / 16)

/-- The operand-buffer bytes that a product or stage word reads: its reservation (02 R54). -/
def State.obReads (s : State) (c : Cmd) : Option (Nat × Nat) :=
  match s.team? c.g, c.kind with
  | some t, .mmad _ _ _ _ r _ _ => some (r.base t.bind, r.size)
  | some t, .stage _ _ _ (some r) _ _ => some (r.base t.bind, r.size)
  | _, _ => none

/-- Whether an earlier-issued product or stage word has still to read a granule that is to be written (02 R54). -/
def State.obBlocked (s : State) (c : Cmd) (writes : List (Nat × Nat × Nat)) : Bool :=
  (s.core c.g.core).commands.any fun d => d.seq < c.seq && match s.obReads d with
    | none => false
    | some (b, n) => writes.any fun w => decide (2 ^ 20 ≤ w.2.1) && overlaps ((w.2.1 - 2 ^ 20) / 1024)
        ((w.2.1 - 2 ^ 20 + w.2.2 + 1023) / 1024 - (w.2.1 - 2 ^ 20) / 1024) (b / 1024) (n / 1024)

/-! ## Take-up and the run of a command (13 R359 to R361, 03 R90 to R95) -/

/-- The bytes of its team's window that a command reads at take-up: index list, fan-out list or template (13 R357, R358, R382). -/
def Cmd.takeupSpan (c : Cmd) : Option (Nat × Nat) :=
  match c.kind with
  | .eprst _ toff len => some (toff, len)
  | .copy op _ cw sw _ _ _ =>
    if op = 2 then some (cwLoff cw, 4 * cwCount cw) else if op = 3 then some (swOff sw, 16 * fanCount sw) else none
  | _ => none

/-- The same as local bytes of its core. -/
def State.takeupBytes (s : State) (c : Cmd) : List (Nat × Nat × Nat) :=
  match s.team? c.g, c.takeupSpan with
  | some t, some (off, n) => [(c.g.core, t.bind.spbase + off, n)]
  | _, _ => []

/-- Whether an engine may read them (01 R14, 13 R360). -/
def State.takeupOk (s : State) (c : Cmd) : Bool :=
  match s.team? c.g, c.takeupSpan with
  | some t, some (off, n) => s.engineReadable ⟨c.g.core, c.g.slot, t.bind⟩ off n
  | _, _ => true

/-- What a command reads at take-up, with its poison in the bit above (13 R357, R358, R382); a list that it may not read is an error of the
command (01 R14, 13 R360). -/
def State.takeupReads (s : State) (c : Cmd) : Cmd :=
  match s.team? c.g with
  | none => c
  | some t =>
    if !s.takeupOk c then c.fail 1 else
    let rd := fun n off => s.scratchRead c.g.core n (t.bind.spbase + off) +
      (if s.scratchPoisoned c.g.core n (t.bind.spbase + off) then 2 ^ (8 * n) else 0)
    match c.kind with
    | .eprst _ toff len => { c with seen := (List.range (len / 8)).map fun k => rd 8 (toff + 8 * k) }
    | .copy op _ cw sw _ _ _ =>
      if op = 2 then { c with seen := (List.range (cwCount cw)).map fun k => rd 4 (cwLoff cw + 4 * k) }
      else if op = 3 then
        { c with seen := (List.range (fanCount sw)).map fun k => rd 16 (swOff sw + 16 * k), left := List.range (fanCount sw) }
      else c
    | _ => c

/-- The oldest command of a unit that has not been taken up. -/
def Core.nextOf (k : Core) (u : EngineUnit) : Option Cmd := k.commands.find? fun c => c.kind.unit = u && c.phase = 0

/-- COPY_TAKEUP: the request engine takes up its oldest command, once no earlier one has still to write the list or template that it reads
(13 R359, R361). -/
def execCopyTakeup (core : Nat) (s : State) : Host.Outcome State Fault Refusal :=
  match (s.core core).nextOf .request with
  | none => happened s
  | some c =>
    if !s.cmdReady c || s.requestBlocked c (s.takeupBytes c) [] then happened (s.postOnce (.copyTakeup core))
    else
      let s1 := (s.modCmd core c.seq fun c => { s.takeupReads c with phase := 1 }).post (.engineCommandStart core c.seq)
      happened (if ((s1.core core).nextOf .request).isSome then s1.postOnce (.copyTakeup core) else s1)

/-- The poison of any value that was read, and the failure to read one, as the command's status. -/
def Cmd.judge (c : Cmd) (vals : List (Option (Nat × Bool))) (ok : Bool) : Cmd :=
  let c1 := if ok then c else c.fail 1
  if vals.any fun x => (x.map (·.2)) = some true then c1.fail 2 else c1

/-- The delivery of a command that names a stage barrier (13 R354, 02 R70); an object in queue storage is not reached (01 R14). -/
def State.deliver (s : State) (c : Cmd) (w : Win) (off bytes : Nat) : State :=
  if w.bind.spsize < off + 32 ∨ s.queueStorage w off 32 then s else s.post (.stageDelivery w.core w.slot off bytes (c.st = 0))

/-- Whether a delivery on an object is on its way. -/
def State.deliveryDue (s : State) (core slot off : Nat) : Bool :=
  s.pending.any fun i => match i with
    | .stageDelivery c n o _ _ => c = core && n = slot && o = off
    | _ => false

/-- Whether deliveries that a copy command makes are on their way (13 R354, R361). -/
def State.copyDue (s : State) (c : Cmd) (x : Copy) : Bool :=
  if x.op = 3 then c.seen.any fun k =>
    let f := fanOf k
    f.sbv && match s.fanWin c.g f with
      | .here w => s.deliveryDue w.core w.slot f.sboff
      | _ => false
  else swValid x.sw && match (x.dst.map (s.tenAt c.g)).getD .glob with
    | .here w => s.deliveryDue w.core w.slot (swOff x.sw)
    | _ => false

/-- The reading part of a copy command. -/
def State.copyReads (s : State) (id : Nat) (c : Cmd) (x : Copy) : State :=
  let e := s.engOf c
  let again := fun s : State => s.post (.engineCommandComplete c.g.core id)
  match s.tenAt c.g x.src with
  | .stalled => again s
  | at_ =>
    let spans := x.tuples.filterMap fun i =>
      let j := x.source c.seen i
      if x.src.inside j then (at_.loc (x.src.base + x.src.offset j.1 j.2.1 j.2.2.1 j.2.2.2)).bind fun l => l.span x.src.size c.g.core
      else none
    if s.requestBlocked c spans [] then again s
    else
      let looks := x.tuples.map fun i => s.copyRead e x at_ c.seen i
      match needsOf looks with
      | n :: ns => again (s.meetSome e (n :: ns))
      | [] => again (s.modCmd c.g.core id fun c => { c with vals := looks.map Look.value, phase := 3 })

/-- The places of a copy command are written, with `ok`: its status, and its delivery if it names an object (13 R354, 02 R70). -/
def State.copyWritten (s : State) (id : Nat) (c : Cmd) (x : Copy) (at_ : TenAt) (bytes : Nat) (ok : Bool) : State :=
  let c1 := c.judge c.vals ok
  let out := match at_ with
    | .here w => swValid x.sw && (decide (w.bind.spsize < swOff x.sw + 32) || s.queueStorage w (swOff x.sw) 32)
    | _ => false
  let c2 := if out then c1.fail 1 else c1
  let s2 := s.modCmd c.g.core id fun c => { c with st := c2.st, phase := 4 }
  let s3 := match at_ with
    | .here w => if swValid x.sw then s2.deliver c2 w (swOff x.sw) bytes else s2
    | _ => s2
  s3.awaitHomes c.g.core id (s3.copyDue c x)

/-- The writing part of a copy command with one destination; a command whose index list could not be read writes nothing (13 R360). -/
def State.copyWrites (s : State) (id : Nat) (c : Cmd) (x : Copy) : State :=
  let e := s.engOf c
  let again := fun s : State => s.post (.engineCommandComplete c.g.core id)
  let at_ := (x.dst.map (s.tenAt c.g)).getD .glob
  match at_ with
  | .stalled => again s
  | .gone => (s.modCmd c.g.core id fun c => c.fail 1).endCmd c.g.core id
  | _ =>
    if c.st = 1 then s.copyWritten id c x at_ 0 false
    else
      let places := s.copyPlaces c.g x
      let spans := places.filterMap fun l => l.bind fun l => l.span x.size c.g.core
      if s.requestBlocked c [] spans || s.obBlocked c spans then again s
      else
        let items := (places.zip c.vals).filterMap fun pv => pv.1.map fun l => (l, pv.2)
        match s.engineWrite e x.size items with
        | .more s1 => again s1
        | .done s1 ok => s1.copyWritten id c x at_ (items.length * x.size) ok

/-- A target of an `mcast` is served or refused with a status, on its own (13 R358): its delivery is made, and the command keeps the first
error. -/
def State.fanServed (s : State) (id : Nat) (c : Cmd) (k bytes : Nat) (f : Fan) (w : Option Win) (st : BitVec 2) : State :=
  let s1 := (s.newRoundOf c).modCmd c.g.core id fun c => { (if st = 0 then c else c.fail st) with left := c.left.filter fun j => j ≠ k }
  match w with
  | none => s1
  | some w => if f.sbv then s1.deliver { c with st := st } w f.sboff bytes else s1

/-- One target of an `mcast` (13 R358): a part of it is written, it is refused, or it waits. -/
def State.fanTarget (s : State) (id : Nat) (c : Cmd) (x : Copy) (k : Nat) : State :=
  let f := fanOf (c.seen.getD k 0)
  match s.fanWin c.g f with
  | .stalled => s
  | .gone => s.fanServed id c k 0 f none 1
  | .here w =>
    let places := x.fanPlaces w f
    let spans := places.filterMap fun l => l.span x.size c.g.core
    let fits := f.sboff % 32 = 0 && decide (f.sboff + 32 ≤ w.bind.spsize) && !s.queueStorage w f.sboff 32
    let bad := f.bad || (f.sbv && !fits) || places.any fun l => !s.engineWritable l x.size
    if bad then s.fanServed id c k 0 f (some w) 1
    else if s.requestBlocked c [] spans then s
    else
      let psn := decide (2 ^ 128 ≤ c.seen.getD k 0)
      let vals := c.vals.map fun y => y.map fun y => (y.1, y.2 || psn)
      match s.engineWrite (s.engOf c) x.size (places.zip vals) with
      | .more s1 => s1
      | .done s1 ok => s1.fanServed id c k (places.length * x.size) f (some w) (({ c with st := 0 }).judge vals ok).st

/-- The target of an `mcast` that goes on: the one begun, else one that a free choice names. -/
def State.fanNext (s : State) (c : Cmd) : Option Nat :=
  if c.work.wrote.isEmpty then c.left[Config.choice s.choices % c.left.length]? else c.left.head?

/-- The writing part of an `mcast`: target by target, in no order (13 R358). -/
def State.fanWrites (s : State) (id : Nat) (c : Cmd) (x : Copy) : State :=
  match s.fanNext c with
  | none => if s.copyDue c x then s.post (.engineCommandComplete c.g.core id) else s.endCmd c.g.core id
  | some k =>
    let c1 := { c with left := k :: c.left.filter fun j => j ≠ k }
    let s1 := { s with choices := s.choices + 1 }.modCmd c.g.core id fun _ => c1
    (s1.fanTarget id c1 x k).post (.engineCommandComplete c.g.core id)

/-- The copies of `eprst` (13 R382). -/
def State.eprstWrites (s : State) (id : Nat) (c : Cmd) (recs : List Nat) : State :=
  match s.team? c.g with
  | none => s.endCmd c.g.core id
  | some t =>
    let spans := s.pendingPuts c
    if s.requestBlocked c [] spans then s.post (.engineCommandComplete c.g.core id)
    else
      let w : Win := ⟨c.g.core, c.g.slot, t.bind⟩
      let items := recs.flatMap fun o => (List.range c.seen.length).map fun k =>
        ((Loc.win w (o + 8 * k)), some (c.seen.getD k 0 % 2 ^ 64, decide (2 ^ 64 ≤ c.seen.getD k 0)))
      match s.engineWrite (s.engOf c) 8 items with
      | .more s1 => s1.post (.engineCommandComplete c.g.core id)
      | .done s1 ok => (s1.modCmd c.g.core id fun c => c.judge (items.map (·.2)) ok).endCmd c.g.core id

/-- A step of the run of a command of the request engine. -/
def State.runRequest (s : State) (id : Nat) (c : Cmd) : State :=
  match c.kind with
  | .eprst recs _ _ => s.eprstWrites id c recs
  | _ =>
    match c.copy? with
    | none => s
    | some x =>
      if c.phase = 2 then (if c.st = 1 then (s.modCmd c.g.core id fun c => { c with phase := 3 }).post (.engineCommandComplete c.g.core id)
        else s.copyReads id c x)
      else if c.phase = 4 then s.awaitHomes c.g.core id (s.copyDue c x)
      else if x.op = 3 then s.fanWrites id c x
      else s.copyWrites id c x

/-- The global places that a command of the request engine writes. -/
def State.requestLines (s : State) (c : Cmd) : List Nat :=
  match c.copy? with
  | none => []
  | some x => if x.op = 3 then [] else putLines ((s.copyPlaces c.g x).filterMap id)

/-! ## `drain` (02 R71, R72) -/

/-- The paths on which `drain` waits for a command. -/
def Cmd.paths (c : Cmd) : List Nat :=
  let out := fun q : QReg => if (tenOf q.img).space = 0 then [0, 4] else [0]
  match c.kind with
  | .copy _ _ _ _ _ none _ => [3]
  | .copy _ _ _ _ _ (some d) _ => if (tenOf d.img).space = 0 then [4] else [0]
  | .eprst _ _ _ => [0]
  | .srt _ q _ => out q
  | .bvht _ _ _ q _ => out q
  | .bslv _ _ _ => [0]
  | .bsadj _ _ _ => [0]
  | .mmad _ _ _ _ _ _ _ => [1]
  | .stage _ _ _ _ _ _ => [1]
  | .acc fn _ _ _ _ _ _ => if fn = 2 ∨ fn = 5 then [0] else if fn = 3 then [2] else [1]

/-- `drain`: waits for the commands that the core issued before it on a path, then acquires without a sweep (02 R71, R72, 04 R117). -/
def drainBody (f : BitVec 3) (v : Env) (s : State) : Res :=
  let here := (s.core v.r.core).seq
  let place := ((liveGroup v s).drainAt).getD here
  if (s.core v.r.core).commands.any fun c => c.seq < place && c.paths.contains f.toNat then
    .busy (s.modGroup v.r fun x => { x with drainAt := some place })
  else .done ((s.modGroup v.r fun x => { x with drainAt := none }).closeBatch (dieOf v.r.core))

/-- 02 R71, R72: waits for earlier engine commands on a path, then acquires. -/
def execDrain (c : BitVec 1) (_sc : BitVec 3) (f : BitVec 3) (s : State) : Host.Outcome State Fault Refusal :=
  perform ({ c := c, ops := [], legal := decide (f.toNat < 5), orph := .once, once := true })
    (drainBody f) s

/-- 13 R356: copies a tensor. -/
def execCopy (c : BitVec 1) (a : BitVec 6) (b : BitVec 6) (m : BitVec 3) (s : State) : Host.Outcome State Fault Refusal :=
  perform (useEngine c [.us6 a, .us6 b] (decide (m.toNat < 5)))
    (copyBody 0 m a b) s

/-- 13 R356: copies a tensor with dimensions 0 and 1 exchanged. -/
def execCopyT (c : BitVec 1) (a : BitVec 6) (b : BitVec 6) (m : BitVec 3) (s : State) : Host.Outcome State Fault Refusal :=
  perform (useEngine c [.us6 a, .us6 b] (decide (m.toNat < 5)))
    (copyBody 1 m a b) s

/-- 13 R357, 03 R96: gathers rows on fill. -/
def execGfill (c : BitVec 1) (a : BitVec 6) (b : BitVec 6) (m : BitVec 3) (s : State) : Host.Outcome State Fault Refusal :=
  perform (useEngine c [.us6 a, .us6 b] (decide (m.toNat < 5)))
    (copyBody 2 m a b) s

/-- 13 R358: copies into the windows of cluster members. -/
def execMcast (c : BitVec 1) (a : BitVec 6) (b : BitVec 6) (m : BitVec 3) (s : State) : Host.Outcome State Fault Refusal :=
  perform (useEngine c [.us6 a, .us6 b] (decide (m.toNat < 5)))
    (copyBody 3 m a b) s

/-- 13 R382: resets each lane's episode and queues the copies of its template. -/
def execEprst (c : BitVec 1) (a : BitVec 7) (b : BitVec 5) (s : State) : Host.Outcome State Fault Refusal :=
  perform ({ c := c, ops := [.vs a, .us (b.setWidth 7), .key], cls := .b, orph := .lanes })
    (eprstBody a b) s

end Sys2Proof.Machine
end

