-- ==== Sys2Proof/Machine/Matrix.lean ====
section
/-! DEFINITION. MX and BF words: reservations, products, gangs, leases and the capo, stride registers, butterfly stages (12 R317 to R344). -/

namespace Sys2Proof.Machine

/-! ## Reservations (02 R48 to R53) -/

/-- FMT of a reservation. -/
def Resv.fmt (r : Resv) : Nat := (r.w0.extractLsb' 0 4).toNat
/-- Rows per row scale. -/
def Resv.blk (r : Resv) : Nat := [1, 8, 16, 32].getD (r.w0.extractLsb' 16 2).toNat 1
/-- MASK: 0 dense, 1 2:4, 2 4:8. -/
def Resv.mask (r : Resv) : Nat := (r.w0.extractLsb' 18 2).toNat
/-- M, the rows. -/
def Resv.m (r : Resv) : Nat := 64 * ((r.w0.extractLsb' 22 6).toNat + 1)
/-- K, the elements of a row. -/
def Resv.k (r : Resv) : Nat := 32 * ((r.w0.extractLsb' 28 6).toNat + 1)
/-- The element format. -/
def Resv.elem (r : Resv) : Fmt := (fmtOf r.fmt).getD .f32
/-- RSV. -/
def Resv.rsv (r : Resv) : Bool := r.w8.getLsbD 63
/-- CSV. -/
def Resv.csv (r : Resv) : Bool := r.w8.getLsbD 62
/-- RSOFF. -/
def Resv.rsoff (r : Resv) : Nat := (r.w8.extractLsb' 0 20).toNat
/-- CSOFF. -/
def Resv.csoff (r : Resv) : Nat := (r.w8.extractLsb' 20 20).toNat
/-- Bytes of the values (02 R51). -/
def Resv.valBytes (r : Resv) : Nat := if r.mask = 0 then r.m * r.k * r.elem.bytes else r.m * r.k * r.elem.bytes / 2
/-- Bytes of values and metadata (02 R51). -/
def Resv.need (r : Resv) : Nat := r.valBytes + if r.mask = 0 then 0 else r.m * r.k / 8

/-- Whether FMT, BLK and MASK may be combined and the reserved fields are zero (02 R50). -/
def Resv.combined (r : Resv) : Bool :=
  r.w0.extractLsb' 56 8 = 0 && r.w0.extractLsb' 34 6 = 0 && r.w0.extractLsb' 20 2 = 0 && r.w0.extractLsb' 4 12 = 0 &&
    r.w8.extractLsb' 40 22 = 0 && r.mask ≠ 3 &&
    (if r.fmt < 2 then r.blk = 1 && r.mask = 0 else if r.fmt < 4 then r.blk = 1 else decide (r.fmt < 8))

/-- The checks of `mres` (02 R50, R51). -/
def resvTrap (r : Resv) (t : BindRec) : Option Trap :=
  if !r.combined || decide (r.size < r.need) then some (.atIssue 0 0)
  else if t.obsize < (r.w0.extractLsb' 40 8).toNat + (r.w0.extractLsb' 48 8).toNat + 1 then some (.atIssue 4 0)
  else if r.rsv && decide (t.spsize < r.rsoff + 4 * ((r.m + r.blk - 1) / r.blk)) then some (.atIssue 4 0)
  else if (r.rsv && r.rsoff % 4 ≠ 0) || (r.csv && r.csoff % 4 ≠ 0) then
    some (trapAt 5 0 (if r.rsv && r.rsoff % 4 ≠ 0 then r.rsoff else r.csoff))
  else none

/-- `mres` (12 R319). -/
def mresBody (h : BitVec 4) (sa : BitVec 6) (v : Env) (s : State) : Res :=
  let r : Resv := ⟨v.grp.sget sa.toNat, v.grp.sget (sa.toNat + 1)⟩
  match resvTrap r v.team.bind with
  | some t => .trap t
  | none => .done (s.modGroup v.r fun x => { x with res := x.res.set none h.toNat (some r), resBad := x.resBad.filter fun k => k ≠ h.toNat })

/-- `mrel` (12 R319). -/
def mrelBody (h : BitVec 4) (v : Env) (s : State) : Res :=
  .done (s.modGroup v.r fun x => { x with res := x.res.set none h.toNat none, resBad := x.resBad.filter fun k => k ≠ h.toNat })

/-! ## Tile words (12 R317) -/

/-- The checks of a tile word by itself (12 R317, 02 R56). -/
def tileTrap (w : DWord) : Option Trap :=
  let t := tileOf w
  if w.extractLsb' 56 8 ≠ 0 ∨ t.cell = 3 ∨ 512 < t.row0 + t.nr ∨ 512 < t.col0 + t.cols then some (.atIssue 4 15)
  else if t.w = 2 ∧ t.col0 % 2 = 1 then some (.atIssue 0 0)
  else none

/-- Whether rows leave the team's accumulator range (02 R55). -/
def outsideAcc (b : BindRec) (row n : Nat) : Bool := row < b.abase || b.abase + b.arows < row + n

/-- The format of a tile's cells (12 R317). -/
def Tile.fmt (t : Tile) : Fmt := if t.cell = 0 then .f32 else if t.cell = 1 then .fx64 else .f64

/-! ## Accumulator cells (02 R55 to R58) -/

/-- A column of a row. -/
def Core.accCol (k : Core) (r c : Nat) : Word := k.acc.get 0 (512 * r + c)

/-- The bits of a cell. -/
def Core.cell (k : Core) (t : Tile) (r j : Nat) : Nat :=
  let c := t.col0 + t.w * j
  if t.w = 1 then (k.accCol r c).toNat else (k.accCol r c).toNat + 2 ^ 32 * (k.accCol r (c + 1)).toNat

/-- Writes a column. -/
def Core.putCol (k : Core) (r c : Nat) (x : Word) : Core := { k with acc := k.acc.set 0 (512 * r + c) x }

/-- Writes a cell. -/
def Core.putCell (k : Core) (t : Tile) (r j x : Nat) : Core :=
  let c := t.col0 + t.w * j
  if t.w = 1 then k.putCol r c (BitVec.ofNat 32 x)
  else (k.putCol r c (BitVec.ofNat 32 x)).putCol r (c + 1) (BitVec.ofNat 32 (x / 2 ^ 32))

/-- OVF of a row (02 R57). -/
def Core.ovf (k : Core) (r : Nat) : Bool := (k.accSt.get 0 r).getLsbD 0
/-- PSN of a row (02 R57). -/
def Core.rowPsn (k : Core) (r : Nat) : Bool := (k.accSt.get 0 r).getLsbD 1
/-- Sets OVF or PSN of a row: bit 0 or 1. -/
def Core.mark (k : Core) (r b : Nat) : Core := { k with accSt := k.accSt.set 0 r (k.accSt.get 0 r ||| (1#2 <<< b)) }
/-- Clears the status bits of a row that `m` names. -/
def Core.unmark (k : Core) (r : Nat) (m : BitVec 2) : Core := { k with accSt := k.accSt.set 0 r (k.accSt.get 0 r &&& ~~~m) }

/-! ## Checks of product words (12 R321, R325) -/

/-- The pairs of R321: cell and Ks; none where A and B are no pair. -/
def pairOf (a b : Nat) : Option (Nat × Nat) :=
  if (a = 3 ∧ b = 3) ∨ (a = 2 ∧ b = 2) then some (0, 32)
  else if (a = 4 ∨ a = 5) ∧ (b = 4 ∨ b = 5) then some (0, 64)
  else if a = 0 ∧ b = 0 then some (0, 16)
  else if a = 1 ∧ b = 1 then some (2, 8)
  else if (a = 6 ∨ a = 7) ∧ b = 7 then some (1, 64)
  else none

/-- The checks of a product word, in order: `ext` says that the group holds its extended block, `n` is the number of slices (12 R325). -/
def productTrap (sp tr : Bool) (tile : DWord) (r : Option Resv) (vb n : Nat) (ext : Bool) (b : BindRec) : Option Trap :=
  let t := tileOf tile
  match r with
  | none => some (.atIssue 0 2)
  | some r =>
    match pairOf r.fmt t.bfmt with
    | none => some (.atIssue 0 0)
    | some (cell, ks) =>
      if (if sp then r.mask = 0 ∨ r.fmt < 2 else r.mask ≠ 0 ∨ tr = true) then some (.atIssue 0 0)
      else if vb < 32 ∨ 64 < vb ∨ ext = false then some (.atIssue 1 0)
      else match tileTrap tile with
        | some x => some x
        | none =>
          if t.cell ≠ cell then some (.atIssue 4 15)
          else if outsideAcc b t.row0 t.nr then some (.atIssue 4 0)
          else if t.nr ∉ [16, 32, 48, 64] ∨ t.nc ∉ [16, 32, 48, 64] ∨ t.row0 % 4 ≠ 0 then some (.atIssue 4 15)
          else
            let rows := if tr then r.k else r.m
            let k := if tr then r.m else r.k
            if rows < 64 * t.arowb + t.nr ∨ k < 8 * t.ak + n * ks then some (.atIssue 4 16) else none

/-- One register line of a B slice, register i of it, read whole into the slice: lane L at key 32 i + L (12 R322, 02 R40); key 1024 holds
one when a faulty value feeds the tile's columns (02 R74). -/
def sliceLine (t : Team) (g vb : Nat) (bf nc : Nat) (x : Tbl Word) (i : Nat) : Tbl Word :=
  let psn := ((t.group? g).map (·.psnLines)).getD []
  let e := ((fmtOf bf).getD .f32).bytes
  let hit := psn.any fun k => decide (k / 32 = vb + i) && decide ((i * 128 + 4 * (k % 32)) / e % 64 < nc)
  let y := (List.range 32).foldl (fun x l => x.set 0 (32 * i + l) (t.vget g (vb + i) l)) x
  if hit then y.set 0 1024 1 else y

/-- A B slice as it stands in a group's registers (12 R322). -/
def sliceOf (t : Team) (g vb : Nat) (bf nc : Nat) : Tbl Word := (List.range 32).foldl (sliceLine t g vb bf nc) []

/-! ## Leases and the capo (12 R330 to R333) -/

/-- Whether a group belongs to a capo pair, active or still queued (12 R332). -/
def Core.paired (k : Core) (now : Nat) (r : GroupRef) : Bool :=
  (k.liveLease now).any (fun l => l.partner.isSome && l.covers r.slot r.grp) ||
    k.leaseQ.any fun q => q.slot = r.slot && q.partner.isSome && (q.grp = r.grp || q.partner = some r.grp)

/-- Whether a group holds the capo. -/
def Core.hasCapo (k : Core) (now : Nat) (r : GroupRef) : Bool :=
  (k.liveLease now).any fun l => l.slot = r.slot && l.partner.isSome && l.holder now = r.grp

/-- Whether a matrix word of a group breaks the capo rule: it is in a pair, does not hold the capo, and does not wait for the grant of
its own request (12 R331, R333). -/
def Core.capoBreach (k : Core) (now : Nat) (r : GroupRef) : Bool := k.paired now r && !k.hasCapo now r && !(k.asked r && !k.holds now r)

/-- `mlease` (12 R330, R333). -/
def mleaseBody (sa : BitVec 6) (v : Env) (s : State) : Res :=
  let u := v.grp.sget sa.toNat
  let cp := u.getLsbD 27
  let part := (u.extractLsb' 22 5).toNat
  let k := s.core v.r.core
  let other : GroupRef := { v.r with grp := part }
  if u.extractLsb' 28 36 ≠ 0 ∨ (cp = false ∧ part ≠ 0) ∨ (cp = true ∧ (part = v.r.grp ∨ v.team.bind.ngm1 < part)) then .trap (.atIssue 4 18)
  else if k.holds s.cycle v.r || k.asked v.r || (cp && (k.holds s.cycle other || k.asked other || k.paired s.cycle other)) then
    .trap (.atIssue 14 0)
  else .done ((s.modCore v.r.core fun k =>
      { k with leaseQ := k.leaseQ ++ [⟨v.r.slot, v.r.grp, (u.extractLsb' 0 8).toNat + 1, (u.extractLsb' 8 14).toNat + 1,
                                       if cp then some part else none, none⟩] }).askGrant v.r.core)

/-- `mfree`: the lease ends at issue + 2 (12 R331). -/
def mfreeBody (v : Env) (s : State) : Res :=
  .done (if (s.core v.r.core).holds s.cycle v.r then
      s.modCore v.r.core fun k => { k with lease := k.lease.map fun l => { l with freed := some (l.freed.getD (s.cycle + 2)) } }
    else s)

/-- `capo.take` (12 R332, R333). -/
def capoTakeBody (v : Env) (s : State) : Res :=
  let k := s.core v.r.core
  let free := fun s : State => s.modGroup v.r fun x => if x.wait = .capo then { x with wait := .none } else x
  if k.hasCapo s.cycle v.r then .done (free s)
  else if k.paired s.cycle v.r then .busy (s.modGroup v.r fun x => { x with wait := .capo })
  else if (liveGroup v s).wait = .capo then .done (free s)
  else .trap (.atIssue 14 0)

/-- The capo is to move to the other group of the pair, at issue + 2 (12 R332). -/
def Lease.pass (l : Lease) (g now : Nat) : Lease :=
  match l.partner with
  | none => l
  | some p => { l with token := g, next := some (now + 2, if l.grp = g then p else l.grp) }

/-- `capo.pass` (12 R332, R333). -/
def capoPassBody (v : Env) (s : State) : Res :=
  if (s.core v.r.core).hasCapo s.cycle v.r then
    .done (s.modCore v.r.core fun k => { k with lease := k.lease.map fun l => l.pass v.r.grp s.cycle })
  else .trap (.atIssue 14 0)

/-- LEASE_GRANT: the arbiter grants the request at the head of its queue while no lease is active (12 R331, R332). -/
def execLeaseGrant (core : Nat) (s : State) : Host.Outcome State Fault Refusal :=
  let k := s.core core
  if (k.liveLease s.cycle).isSome then happened s
  else match k.leaseQ.dropWhile fun q => !k.wanted q with
    | [] => happened (s.modCore core fun k => { k with leaseQ := [], lease := none })
    | q :: rest =>
      let l : Lease := { slot := q.slot, grp := q.grp, partner := q.partner, token := q.grp, words := q.words, ends := s.cycle + q.cycles }
      happened (((s.modCore core fun k => { k with leaseQ := rest, lease := some l }).postOnce (.leaseExpire core)).postOnce
        (.matrixTakeup core))

/-- LEASE_EXPIRE: the lease ends in the cycle in which CLEFT reaches 0, or an `mfree` takes effect (12 R331). -/
def execLeaseExpire (core : Nat) (s : State) : Host.Outcome State Fault Refusal :=
  match (s.core core).lease with
  | none => happened (s.askGrant core)
  | some _ => happened (if ((s.core core).liveLease s.cycle).isSome then s.post (.leaseExpire core) else s.endLease core)

/-! ## Gangs and product words (12 R320, R327 to R329) -/

/-- The members of a gang, ascending. -/
def gangList (m : Word) : List Nat := lanesOf m

/-- `gang` (12 R327). -/
def gangBody (sa : BitVec 6) (v : Env) (s : State) : Res :=
  let m : Word := (v.grp.sget sa.toNat).setWidth 32
  let n := popcount m
  if m ≠ 0 ∧ (n < 2 ∨ 6 < n ∨ m.getLsbD v.r.grp = false ∨ (gangList m).any (v.team.bind.ngm1 < ·)) then .trap (.atIssue 4 17)
  else .done (s.modGroup v.r fun x => { x with gang := m.setWidth 64 })

/-- The registers of a B slice have still to be read by a command (12 R322). -/
def State.readLater (s : State) (g : GroupRef) (id vb : Nat) : State :=
  s.modGroup g fun x => { x with readRegs := x.readRegs.set (0, 0) id (vb, 32) }

/-- A matrix word enters the core's issue order; one without a gang asks for its lease (12 R326, R331, 05 R141). -/
def submitMatrix (v : Env) (s : State) (kind : CmdKind) (k : State → State) : Res :=
  s.submitThen v kind fun t => .done ((k t).enterRequests v.r.core)

/-- The oldest product word of a group that waits at the open latch for MEMBERS. -/
def Group.latchedFor (x : Group) (members : Word) : Option Latched := x.latches.find? fun l => l.members = members

/-- The words waiting at the latch for MEMBERS, ascending by member; none while one has not arrived. -/
def State.latched (s : State) (core slot : Nat) (members : Word) : Option (List (GroupRef × Latched)) :=
  let ls := (gangList members).filterMap fun g =>
    ((s.group? ⟨core, slot, g⟩).bind (·.latchedFor members)).map fun l => ((⟨core, slot, g⟩ : GroupRef), l)
  if ls.length = (gangList members).length then some ls else none

/-- The slices that a latched command brings. -/
def CmdKind.slices : CmdKind → List (Tbl Word)
  | .mmad _ _ _ _ _ _ xs => xs
  | _ => []

/-- The one command of a closed latch: the leader's reservation and tile, every member's slice and fret; it stands at the leader's place in
the issue order (12 R328). -/
def gangCmd (cs : List Cmd) : Option Cmd :=
  match cs with
  | [] => none
  | c :: rest =>
    let kind := match c.kind with
      | .mmad sp new tr tile r vb _ => CmdKind.mmad sp new tr tile r vb (cs.flatMap fun c => c.kind.slices)
      | k => k
    some { c with kind := kind, also := rest.map fun d => (d.g, d.fret, d.seq) }

/-- A latch closes once every member has issued a product word there: equal words become one command, else they all fail (12 R328). From
here on the latch is open no longer, and nothing breaks it (12 R329). -/
def State.closeLatch (s : State) (core slot : Nat) (members : Word) : State :=
  match s.latched core slot members with
  | none => s
  | some ls =>
    let same := ls.all fun l => decide (((ls.head?.map fun m => (m.2.word, m.2.tile)) = some (l.2.word, l.2.tile)))
    if !same then ls.foldl (fun s l => s.breakLatchOf l.1 l.2) s
    else
      let s1 := ls.foldl (fun s l => s.modGroup l.1 fun x => { x with latches := x.latches.filter fun y => y.cmd ≠ l.2.cmd }) s
      let s2 := s1.modCore core fun k => { k with cmds := ls.foldl (fun t l => t.set none l.2.cmd none) k.cmds }
      match gangCmd (ls.filterMap fun l => (s.core core).cmd? l.2.cmd) with
      | none => s2
      | some c => (s2.modCore core fun k => { k with cmds := k.cmds.set none c.seq (some c) }).post (.gangLatchClose core slot members)

/-- A product word of a gang member arrives at the latch (12 R328). -/
def State.arriveLatch (s : State) (v : Env) (id : Nat) (tile : DWord) (members : Word) : State :=
  let word := ((s.codeWord v.part v.pc).getD 0) &&& 0x7FFFFFFF
  ((s.modCmd v.r.core id fun c => { c with latched := true }).modGroup v.r fun x =>
    { x with latches := x.latches ++ [⟨word, tile, members, id⟩] }).closeLatch v.r.core v.r.slot members

/-- `mmad` and `mmad.sp` (12 R320 to R328). The slice's values are those at issue: no later word of the group writes its registers before
the word is taken up (12 R322). -/
def mmadBody (sp : Bool) (h : BitVec 4) (sc : BitVec 6) (vb : BitVec 7) (new tr : BitVec 1) (v : Env) (s : State) : Res :=
  let tile := v.grp.sget sc.toNat
  let r := v.grp.resv h.toNat
  let members : Word := v.grp.gang.setWidth 32
  let n := if members = 0 then 1 else popcount members
  match productTrap sp (tr = 1) tile r vb.toNat n (v.team.holdsExt v.r.grp) v.team.bind with
  | some t => .trap t
  | none =>
    if (s.core v.r.core).capoBreach s.cycle v.r then .trap (.atIssue 14 0)
    else goodResv h.toNat v s fun _ =>
      let t := tileOf tile
      let kind := CmdKind.mmad sp (new = 1) (tr = 1) tile (r.getD ⟨0, 0⟩) vb.toNat [sliceOf v.team v.r.grp vb.toNat t.bfmt t.nc]
      let id := (s.core v.r.core).seq
      if members = 0 then submitMatrix v s kind fun t => t.readLater v.r id vb.toNat
      else s.submitThen v kind fun t => .done ((t.readLater v.r id vb.toNat).arriveLatch v id tile members)

/-- GANG_LATCH_CLOSE: every member has issued; the one command may be taken up (12 R326, R328). -/
def execGangLatchClose (core slot : Nat) (members : Lanes) (s : State) : Host.Outcome State Fault Refusal :=
  let mine := fun c : Cmd => c.latched && c.g.slot = slot && !c.also.isEmpty && (c.g.grp :: c.also.map fun m => m.1.grp) = gangList members
  match (s.core core).commands.find? mine with
  | none => happened s
  | some c => happened (((s.modCmd core c.seq fun c => { c with latched := false }).enterRequests core).postOnce (.matrixTakeup core))

/-! ## Stride registers (12 R337) -/

/-- LL, LS, NB and VAR of a z register. -/
def zLl (z : DWord) : Nat := (z.extractLsb' 4 4).toNat
/-- LS. -/
def zLs (z : DWord) : Nat := (z.extractLsb' 0 4).toNat
/-- NB. -/
def zNb (z : DWord) : Nat := (z.extractLsb' 8 9).toNat + 1
/-- VAR. -/
def zVar (z : DWord) : Bool := z.getLsbD 17
/-- Whether LL and LS are a stage's (12 R337, R343). -/
def zShape (z : DWord) : Bool := decide (1 ≤ zLl z) && decide (zLl z ≤ 12) && decide (zLs z < zLl z)

/-- `zset` (12 R337). -/
def zsetBody (z : BitVec 3) (sa : BitVec 6) (v : Env) (s : State) : Res :=
  let u := v.grp.sget sa.toNat
  if u.extractLsb' 18 46 ≠ 0 ∨ zShape u = false ∨ 512 < zNb u * ((2 ^ zLl u + 511) / 512) then .trap (.atIssue 4 19)
  else .done (s.modGroup v.r fun x => { x with z := x.z.set 0 z.toNat u })

/-! ## Butterfly stages (12 R338 to R344) -/

/-- Operands of a stage word: stages, first weight, rows (12 R338). -/
def sinStages (w : DWord) : Nat := (w.extractLsb' 56 3).toNat + 1
/-- WOFF. -/
def sinWoff (w : DWord) : Nat := (w.extractLsb' 32 18).toNat
/-- GROW0. -/
def sinGrow (w : DWord) : Nat := (w.extractLsb' 18 9).toNat
/-- IROW0. -/
def sinIrow (w : DWord) : Nat := (w.extractLsb' 0 9).toNat
/-- OROW0. -/
def soutRow (w : DWord) : Nat := (w.extractLsb' 0 9).toNat

/-- The rows that NB vectors of length L cover. -/
def vecRows (z : DWord) : Nat := zNb z * ((2 ^ zLl z + 511) / 512)

/-- The rows of the gradient region of `bfwg`. -/
def gradRows (z : DWord) : Nat := (2 * 2 ^ zLl z + 511) / 512

/-- The checks of a stage word, in order; op 0 `bfstg`, 1 `bfchn`, 2 `bfstg.t`, 3 `bfwg` (12 R343). -/
def stageTrap (op : Nat) (zs : List DWord) (fits : Bool) (r : Option Resv) (sin sout : DWord) (b : BindRec) : Option Trap :=
  let z := zs.headD 0
  let badRes := op ≠ 3 && (match r with
    | none => false
    | some r => !([3, 4, 6].contains r.fmt) || r.mask ≠ 0)
  let badWord := sin.extractLsb' 59 5 ≠ 0 || sin.extractLsb' 50 6 ≠ 0 || sin.extractLsb' 27 5 ≠ 0 || sin.extractLsb' 9 9 ≠ 0 ||
    sout.extractLsb' 9 55 ≠ 0 || (op ≠ 1 && sin.extractLsb' 56 3 ≠ 0) || (op ≠ 3 && sin.extractLsb' 18 9 ≠ 0)
  if !fits then some (.atIssue 0 0)
  else if op ≠ 3 && r.isNone then some (.atIssue 0 2)
  else if badRes then some (.atIssue 0 0)
  else if badWord then some (.atIssue 4 20)
  else if !zs.all zShape then some (.atIssue 4 20)
  else if zs.any fun y => zLl y ≠ zLl z || zNb y ≠ zNb z then some (.atIssue 4 20)
  else if op ≠ 3 && decide ((((r.map fun r => r.m * r.k).getD 0)) < sinWoff sin + 2 * 2 ^ zLl z * zs.length) then some (.atIssue 4 16)
  else if outsideAcc b (sinIrow sin) (vecRows z) || outsideAcc b (soutRow sout) (if op = 3 then gradRows z else vecRows z) ||
      (op = 3 && outsideAcc b (sinGrow sin) (vecRows z)) then some (.atIssue 4 0)
  else none

/-- A stage word (12 R338 to R344). -/
def stageBody (op : Nat) (bf : Bool) (zc : BitVec 3) (h : BitVec 4) (sa sb : BitVec 6) (v : Env) (s : State) : Res :=
  let sin := v.grp.sget sa.toNat
  let sout := v.grp.sget sb.toNat
  let n := if op = 1 then sinStages sin else 1
  let zs := (List.range n).map fun j => v.grp.zget (zc.toNat + j)
  let r := if op = 3 then none else v.grp.resv h.toNat
  match stageTrap op zs (decide (zc.toNat + n ≤ 8)) r sin sout v.team.bind with
  | some t => .trap t
  | none =>
    if (s.core v.r.core).capoBreach s.cycle v.r then .trap (.atIssue 14 0)
    else
      let go := fun _ : Unit => submitMatrix v s (.stage (BitVec.ofNat 2 op) bf zs r sin sout) id
      if op = 3 then go () else goodResv h.toNat v s go

/-! ## Order on accumulator rows (12 R336) -/

/-- The rows that a command reads and those that it writes. -/
def CmdKind.rows : CmdKind → List Nat × List Nat
  | .mmad _ new _ tile _ _ _ => (if new then [] else (tileOf tile).rows, (tileOf tile).rows)
  | .stage op _ zs _ sin sout =>
    let z := zs.headD 0
    let i := (List.range (vecRows z)).map (sinIrow sin + ·)
    if op = 3 then
      let o := (List.range (gradRows z)).map (soutRow sout + ·)
      (i ++ (List.range (vecRows z)).map (sinGrow sin + ·) ++ o, o)
    else (i, (List.range (vecRows z)).map (soutRow sout + ·))
  | .acc fn f tile _ _ _ _ =>
    let rs := (tileOf tile).rows
    if fn = 2 then (rs, if f.getLsbD 2 then rs else [])
    else if fn = 3 ∨ fn = 5 then (rs, [])
    else ([], rs)
  | _ => ([], [])

/-- Whether a later command must wait for an earlier one on a row. -/
def rowsClash (old new : CmdKind) : Bool :=
  let a := old.rows
  let b := new.rows
  a.2.any (fun r => b.1.contains r || b.2.contains r) || a.1.any fun r => b.2.contains r

/-- Whether a matrix word must wait on a row for an earlier ACC word, or on a granule for an earlier copy (12 R336, 02 R54). -/
def State.matrixBlocked (s : State) (c : Cmd) : Bool :=
  (s.core c.g.core).commands.any fun d => d.seq < c.seq && match d.kind.unit with
    | .port => rowsClash d.kind c.kind
    | .request =>
      d.phase ≠ 4 && match s.obReads c with
        | none => false
        | some (b, n) => (s.pendingPuts d).any fun w => decide (2 ^ 20 ≤ w.2.1) && overlaps ((w.2.1 - 2 ^ 20) / 1024)
            ((w.2.1 - 2 ^ 20 + w.2.2 + 1023) / 1024 - (w.2.1 - 2 ^ 20) / 1024) (b / 1024) (n / 1024)
    | _ => false

/-- The place of a command in the issue order of a group, if it is that group's word or a gang's of which it is a member. -/
def Cmd.placeOf (c : Cmd) (g : GroupRef) : Option Nat :=
  if c.g = g then some c.seq else (c.also.find? fun m => m.1 = g).map (·.2.2)

/-- Whether two matrix words write a row of the accumulator store in common. -/
def sameRows (a b : CmdKind) : Bool := a.rows.2.any fun r => b.rows.2.contains r

/-- Whether a matrix word must be taken up after another that waits: a word of the same holder issued before it (12 R331), or one that
accumulates into the same rows, issued before it by a group that has a part in both (08 R221, 12 R328). -/
def Cmd.follows (c d : Cmd) : Bool :=
  (c.g :: c.also.map (·.1)).any fun g => match c.placeOf g, d.placeOf g with
    | some a, some b => decide (b < a) && ((c.g = g && d.g = g) || sameRows c.kind d.kind)
    | _, _ => false

/-- The next matrix word of the lease's holder: its oldest that follows no other (12 R331, 08 R221). -/
def Core.nextMatrix (k : Core) (l : Lease) : Option Cmd :=
  let waiting := k.commands.filter fun c => c.kind.unit = .matrix && c.phase = 0
  waiting.find? fun c => !c.latched && l.covers c.g.slot c.g.grp && !waiting.any c.follows

/-- A take-up counts against the lease, which ends at its last word (12 R331). -/
def State.useLease (s : State) (core : Nat) (l : Lease) : State :=
  if l.words ≤ 1 then s.endLease core else s.modCore core fun k => { k with lease := some { l with words := l.words - 1 } }

/-- The groups whose words a command is: its own and the other members of its gang. -/
def Cmd.groups (c : Cmd) : List GroupRef := c.g :: c.also.map (·.1)

/-- What issued words of the groups were to read for a command is read. -/
def State.readDone (s : State) (c : Cmd) : State :=
  c.groups.foldl (init := s) fun s g => s.modGroup g fun x =>
    { x with readRegs := x.readRegs.drop fun i => some i = c.placeOf g }

/-- The engine takes up a matrix word, and its slices are read (12 R322). -/
def State.takeMatrix (s : State) (core : Nat) (l : Lease) (c : Cmd) : State :=
  let s1 := (s.readDone c).modCore core fun k =>
    { k with
      matrix := k.matrix ++ [c.seq]
      cmds := k.cmds.set none c.seq (some { c with phase := 1 })
      leaseQ := k.leaseQ.filter fun q => q.word ≠ some c.seq }
  (s1.useLease core l).post (.matrixComplete core c.seq)

/-- MATRIX_TAKEUP: the engine takes up the next word that holds a lease and waits for nothing (12 R326, R331, R336). -/
def execMatrixTakeup (core : Nat) (s : State) : Host.Outcome State Fault Refusal :=
  let s1 := s.enterRequests core
  let s2 := match (s1.core core).liveLease s1.cycle with
    | none => s1
    | some l =>
      match (s1.core core).nextMatrix l with
      | none => s1
      | some c => if s1.matrixBlocked c then s1 else s1.takeMatrix core l c
  happened (if (s2.core core).commands.any fun c => c.kind.unit = .matrix && c.phase = 0 && !c.latched then s2.postOnce (.matrixTakeup core) else s2)

/-! ## Products (12 R323, R324, 08 R219, R220, 02 R52) -/

/-- The reservation of a running word: base byte, geometry, the operand buffer's bytes and poison. -/
structure Operand where
  ob : Mem
  psn : List Nat
  base : Nat
  r : Resv

/-- Whether a bit of the metadata is one. -/
def Operand.kept (a : Operand) (i k : Nat) : Bool :=
  let b := i * a.r.k + k
  (a.ob.byte (a.base + a.r.valBytes + b / 8)).getLsbD (b % 8)

/-- Where a stored element lies; none for a pruned one (02 R52). -/
def Operand.at_ (a : Operand) (i k : Nat) : Option Nat :=
  let e := a.r.elem.bytes
  if a.r.mask = 0 then some (a.base + (i * a.r.k + k) * e)
  else if a.kept i k then some (a.base + (i * (a.r.k / 2) + ((List.range k).filter fun j => a.kept i j).length) * e)
  else none

/-- The value of a stored element; none for a pruned one. -/
def Operand.value (a : Operand) (i k : Nat) : Option Num :=
  (a.at_ i k).map fun x => a.r.elem.value (a.ob.read a.r.elem.bytes x)

/-- Whether a stored element is faulty. -/
def Operand.faulty (a : Operand) (i k : Nat) : Bool :=
  match a.at_ i k with
  | none => false
  | some x => (touchedGranules x a.r.elem.bytes).any fun p => a.psn.contains p

/-- Whether the aligned blocks that a region of the metadata touches obey the rule of 02 R52 along rows and columns. -/
def Operand.valid (a : Operand) (i0 ni k0 nk : Nat) : Bool :=
  let b := if a.r.mask = 1 then 4 else 8
  let ones := fun (xs : List (Nat × Nat)) => (xs.filter fun x => a.kept x.1 x.2).length
  (List.range ((i0 + ni + b - 1) / b - i0 / b)).all fun u => (List.range ((k0 + nk + b - 1) / b - k0 / b)).all fun v =>
    let r := (i0 / b + u) * b
    let c := (k0 / b + v) * b
    (List.range b).all fun x =>
      decide (ones ((List.range b).map fun y => (r + x, c + y)) ≤ b / 2) && decide (ones ((List.range b).map fun y => (r + y, c + x)) ≤ b / 2)

/-- Whether metadata of a region is faulty. -/
def Operand.metaFaulty (a : Operand) (i0 ni k0 nk : Nat) : Bool :=
  (List.range ni).any fun i => (List.range nk).any fun k =>
    a.psn.contains ((a.base + a.r.valBytes + ((i0 + i) * a.r.k + k0 + k) / 8) / 8)

/-- Element (kk, n) of a B slice (12 R322). -/
def sliceValue (f : Fmt) (x : Tbl Word) (kk n : Nat) : Num :=
  let o := kk * 64 * f.bytes + n * f.bytes
  let w := fun i => (x.get 0 i).toNat
  f.value (if f.bytes = 8 then w (o / 4) + 2 ^ 32 * w (o / 4 + 1) else w (o / 4) / 2 ^ (8 * (o % 4)) % 2 ^ (8 * f.bytes))

/-- The exact sum of a list of products; an empty sum is zero. -/
def sumOf : List Num → Num
  | [] => .zero false
  | x :: t => t.foldl (Num.add false) x

/-- Consecutive chunks of 16 (08 R219); the last may be shorter. -/
def chunks : (n : Nat) → List Num → List (List Num)
  | 0, _ => []
  | n + 1, xs => if xs.isEmpty then [] else xs.take 16 :: chunks n (xs.drop 16)

/-- The chunked sum of a float cell (08 R219, R220). -/
def chunkedSum (f : Fmt) (start : Nat) (ps : List Num) : Nat :=
  (chunks ps.length ps).foldl (init := start) fun c xs =>
    let x := (roundTo f .rne 0 (sumOf xs)).1
    (roundTo f .rne 0 (Num.add false (f.value c) (f.value x))).1

/-- A value as an integer count of 64ths; products of ds8 and i8 are such counts exactly (08 R209). -/
def units64 : Num → Int
  | .fin s m e _ => scaled s m e (-6)
  | _ => 0

/-- The saturated sum of an fx64 cell, with its overflow (02 R58, 08 R220). -/
def fxSum (start : Nat) (ps : List Num) : Nat × Bool :=
  let x := signedOf 64 start + (ps.map units64).foldl (· + ·) 0
  let r := saturated (-(2 ^ 63)) (2 ^ 63 - 1) 64 x false
  (r.1, r.2.nv)

/-- One product word at work: its operand, tile and slices. -/
structure Product where
  a : Operand
  t : Tile
  tr : Bool
  new : Bool
  bf : Fmt
  ks : Nat
  slices : List (Tbl Word)

/-- The stored element that Aop(i, k) is (12 R323). -/
def Product.stored (p : Product) (i k : Nat) : Nat × Nat :=
  if p.tr then (p.t.ak * 8 + k, p.t.arowb * 64 + i) else (p.t.arowb * 64 + i, p.t.ak * 8 + k)

/-- The number of products of a cell. -/
def Product.depth (p : Product) : Nat := p.slices.length * p.ks

/-- The products of cell (i, j), ascending in k; a pruned element's is an exact zero (12 R323, 08 R219). -/
def Product.terms (p : Product) (i j : Nat) : List Num :=
  (List.range p.depth).map fun k =>
    let x := p.stored i k
    match p.a.value x.1 x.2 with
    | none => .zero false
    | some v => Num.mul v (sliceValue p.bf (p.slices.getD (k / p.ks) []) (k % p.ks) j)

/-- Writes cell (i, j) (12 R323). -/
def Product.cell (p : Product) (k : Core) (ij : Nat × Nat) : Core :=
  let r := p.t.row0 + ij.1
  let start := if p.new then 0 else k.cell p.t r ij.2
  let ts := p.terms ij.1 ij.2
  if p.t.cell = 1 then
    let y := fxSum start ts
    let k1 := k.putCell p.t r ij.2 y.1
    if y.2 then k1.mark r 0 else k1
  else k.putCell p.t r ij.2 (chunkedSum p.t.fmt start ts)

/-- The rows and columns of the metadata that the word reads. -/
def Product.region (p : Product) : Nat × Nat × Nat × Nat :=
  let x := p.stored 0 0
  if p.tr then (x.1, p.depth, x.2, p.t.nr) else (x.1, p.t.nr, x.2, p.depth)

/-- The tile rows that a faulty value feeds (02 R74). -/
def Product.faultyRows (p : Product) (k : Core) : List Nat :=
  let g := p.region
  let all := p.slices.any (fun x => x.get 0 1024 ≠ 0) || (p.a.r.mask ≠ 0 && p.a.metaFaulty g.1 g.2.1 g.2.2.1 g.2.2.2)
  (List.range p.t.nr).filter fun i =>
    all || (!p.new && k.rowPsn (p.t.row0 + i)) ||
      (!p.a.psn.isEmpty && (List.range p.depth).any fun d => let x := p.stored i d; p.a.faulty x.1 x.2)

/-- The tile's cells, row by row. -/
def Tile.cells (t : Tile) : List (Nat × Nat) := (List.range t.nr).flatMap fun i => (List.range t.nc).map fun j => (i, j)

/-- Runs a product word: the core after it and its status (12 R323, R324, 02 R52). -/
def Product.run (p : Product) (k : Core) : Core × BitVec 2 :=
  let g := p.region
  let bad := p.faultyRows k
  if p.a.r.mask ≠ 0 ∧ p.a.valid g.1 g.2.1 g.2.2.1 g.2.2.2 = false then (k, 1)
  else
    let k1 := p.t.cells.foldl p.cell k
    (bad.foldl (fun k i => k.mark (p.t.row0 + i) 1) k1, if bad.isEmpty then 0 else 2)

/-! ## Stages (12 R339 to R342, 08 R222) -/

/-- Reverses the low `n` bits. -/
def bitRev : (n x : Nat) → Nat
  | 0, _ => 0
  | n + 1, x => x % 2 * 2 ^ n + bitRev n (x / 2)

/-- The pairs of a stage in order (12 R339). -/
def stagePairs (z : DWord) : List (Nat × Nat) :=
  let s := 2 ^ zLs z
  ((List.range (2 ^ zLl z)).filter fun i => i % (2 * s) < s).map fun i =>
    if zVar z then (bitRev (zLl z) i, bitRev (zLl z) (i + s)) else (i, i + s)

/-- A number with its poison. -/
abbrev Tainted := Num × Bool

/-- One exact sum of two products, rounded once (08 R222). -/
def mixRow (f : Fmt) (a x b y : Tainted) : Tainted :=
  (f.value (roundTo f .rne 0 (Num.add false (Num.mul a.1 x.1) (Num.mul b.1 y.1))).1, a.2 || x.2 || b.2 || y.2)

/-- One exact sum of a number and a product, rounded once. -/
def addProduct (f : Fmt) (g x y : Tainted) : Tainted :=
  (f.value (roundTo f .rne 0 (Num.add false g.1 (Num.mul x.1 y.1))).1, g.2 || x.2 || y.2)

/-- Weight q of pair p of stage j (12 R339). -/
def Operand.weight (a : Operand) (woff l j p q : Nat) : Tainted :=
  let n := woff + 2 * l * j + 4 * p + q
  let e := a.r.elem.bytes
  let x := a.base + n * e
  (a.r.elem.value (a.ob.read e x), !a.psn.isEmpty && (touchedGranules x e).any fun g => a.psn.contains g)

/-- Element e of vector b of a region (12 R338). -/
def Core.vecAt (k : Core) (row l b e : Nat) : Tainted :=
  let r := row + b * ((l + 511) / 512) + e / 512
  (Fmt.value .f32 (k.accCol r (e % 512)).toNat, k.rowPsn r)

/-- Writes an element of a vector; a poisoned one marks its row (02 R74). -/
def Core.putVec (k : Core) (row l b e : Nat) (x : Tainted) : Core :=
  let r := row + b * ((l + 511) / 512) + e / 512
  let k1 := k.putCol r (e % 512) (BitVec.ofNat 32 (roundTo .f32 .rne 0 x.1).1)
  if x.2 then k1.mark r 1 else k1

/-- Stage j of a chain on one vector; `t` transposes the pair's weights (12 R340, R341). -/
def Operand.stage (a : Operand) (woff l : Nat) (t : Bool) (f : Fmt) (z : DWord) (j : Nat) (x : List Tainted) : List Tainted :=
  let w := a.weight woff l j
  let ps := stagePairs z
  (List.range ps.length).foldl (init := x) fun y p =>
    let uw := ps.getD p (0, 0)
    let xu := x.getD uw.1 (.nan, false)
    let xw := x.getD uw.2 (.nan, false)
    (y.set uw.1 (mixRow f (w p 0) xu (w p (if t then 2 else 1)) xw)).set uw.2 (mixRow f (w p (if t then 1 else 2)) xu (w p 3) xw)

/-- `bfstg`, `bfchn` and `bfstg.t` on every vector, ascending (12 R340, R341). -/
def runStages (a : Operand) (t bf : Bool) (zs : List DWord) (sin sout : DWord) (k : Core) : Core :=
  let z := zs.headD 0
  let l := 2 ^ zLl z
  (List.range (zNb z)).foldl (init := k) fun k b =>
    let x := (List.range l).map fun e => k.vecAt (sinIrow sin) l b e
    let y := (List.range zs.length).foldl (init := x) fun x j =>
      a.stage (sinWoff sin) l t (if bf && decide (j + 1 < zs.length) then .bf16 else .f32) (zs.getD j 0) j x
    (List.range l).foldl (fun k e => k.putVec (soutRow sout) l b e (y.getD e (.nan, false))) k

/-- `bfwg` (12 R342). -/
def runGradients (z sin sout : DWord) (k : Core) : Core :=
  let l := 2 ^ zLl z
  let ps := stagePairs z
  (List.range (zNb z)).foldl (init := k) fun k b =>
    (List.range (4 * ps.length)).foldl (init := k) fun k c =>
      let uw := ps.getD (c / 4) (0, 0)
      let g := k.vecAt (sinGrow sin) l b (if c % 4 < 2 then uw.1 else uw.2)
      let x := k.vecAt (sinIrow sin) l b (if c % 2 = 0 then uw.1 else uw.2)
      k.putVec (soutRow sout) (2 * l) 0 c (addProduct .f32 (k.vecAt (soutRow sout) (2 * l) 0 c) g x)

/-- Whether a stage word reads a faulty value (02 R74). -/
def stageFaulty (a : Option Operand) (op : BitVec 2) (zs : List DWord) (sin sout : DWord) (k : Core) : Bool :=
  (CmdKind.rows (.stage op false zs none sin sout)).1.any (fun r => k.rowPsn r) ||
    match a with
    | none => false
    | some a =>
      let l := 2 ^ zLl (zs.headD 0)
      !a.psn.isEmpty && (List.range (2 * l * zs.length)).any fun n => (a.weight (sinWoff sin) l 0 0 n).2

/-- Runs a stage word. -/
def runStage (a : Option Operand) (op : BitVec 2) (bf : Bool) (zs : List DWord) (sin sout : DWord) (k : Core) : Core × BitVec 2 :=
  let k1 := match a with
    | none => runGradients (zs.headD 0) sin sout k
    | some a => runStages a (op = 2) bf zs sin sout k
  (k1, if stageFaulty a op zs sin sout k then 2 else 0)

/-! ## Completion (12 R326, R344) -/

/-- What a matrix word does to its core. -/
def runMatrix (c : Cmd) (b : BindRec) (k : Core) : Core × BitVec 2 :=
  match c.kind with
  | .mmad _ new tr tile r _ xs =>
    let t := tileOf tile
    Product.run ⟨⟨k.ob, k.obPsn, r.base b, r⟩, t, tr, new, (fmtOf t.bfmt).getD .f32, ((pairOf r.fmt t.bfmt).map (·.2)).getD 16, xs⟩ k
  | .stage op bf zs r sin sout => runStage (r.map fun r => ⟨k.ob, k.obPsn, r.base b, r⟩) op bf zs sin sout k
  | _ => (k, 0)

/-- How many lines of its slice a mask-walk's product has read since its take-up; another product has its slices from its issue. -/
def Cmd.linesRead (c : Cmd) : Nat := c.left.headD 0

/-- Whether a mask-walk's product has still lines of its slice to read (13 R366). -/
def Cmd.readsOn (c : Cmd) : Bool := c.chain.isSome && c.kind.unit = .matrix && decide (c.linesRead < 32)

/-- A mask-walk's product reads some more register lines, each whole (13 R366, 02 R40). -/
def State.readLines (s : State) (core : Nat) (c : Cmd) : State :=
  match c.readsOn, s.team? c.g, c.kind with
  | true, some t, .mmad sp new tr tile r vb xs =>
    let n := 1 + Config.choice s.choices % (32 - c.linesRead)
    let y := tileOf tile
    let x := ((List.range n).map (c.linesRead + ·)).foldl (sliceLine t c.g.grp vb y.bfmt y.nc) (xs.headD [])
    ({ s with choices := s.choices + 1 }).modCmd core c.seq fun c =>
      { c with kind := .mmad sp new tr tile r vb [x], left := [c.linesRead + n] }
  | _, _, _ => s

/-- MATRIX_COMPLETE: the word's tile or outputs are written, in the order of take-up, and its frets are decremented (12 R326, R344). -/
def execMatrixComplete (core cmd : Nat) (s : State) : Host.Outcome State Fault Refusal :=
  match (s.core core).cmd? cmd with
  | none => happened s
  | some c =>
    let again := fun s : State => happened (s.post (.matrixComplete core cmd))
    if (s.core core).matrix.head? ≠ some cmd then again (s.readLines core c)
    else match s.team? c.g with
      | none => happened (s.endCmd core cmd)
      | some t =>
        if c.readsOn then again (s.readLines core c) else
        let r := runMatrix c t.bind (s.core core)
        happened (((s.modCore core fun _ => r.1).modCmd core cmd fun c => c.fail r.2).endCmd core cmd)

/-- 12 R319: fills a reservation-table entry. -/
def execMres (c : BitVec 1) (h : BitVec 4) (sc : BitVec 6) (s : State) : Host.Outcome State Fault Refusal :=
  perform ({ useEngine c [⟨.s, sc.toNat, 2, 1, false⟩] (decide (sc.toNat < 63)) with orph := .once })
    (mresBody h sc) s

/-- 12 R319: frees a reservation-table entry. -/
def execMrel (c : BitVec 1) (h : BitVec 4) (s : State) : Host.Outcome State Fault Refusal :=
  perform (useEngine c [])
    (mrelBody h) s

/-- 12 R320 to R328: a dense product. -/
def execMmad (c : BitVec 1) (h : BitVec 4) (sc : BitVec 6) (v : BitVec 7) (n : BitVec 1) (s : State) : Host.Outcome State Fault Refusal :=
  perform ({ useEngine c [.us6 sc, .vk v 32 1 false] with own := true })
    (mmadBody false h sc v n 0) s

/-- 12 R320 to R328: a sparse product. -/
def execMmadSp (c : BitVec 1) (h : BitVec 4) (sc : BitVec 6) (v : BitVec 7) (n : BitVec 1) (t : BitVec 1) (s : State) : Host.Outcome State Fault Refusal :=
  perform ({ useEngine c [.us6 sc, .vk v 32 1 false] with own := true })
    (mmadBody true h sc v n t) s

/-- 12 R327: names the gang. -/
def execGang (c : BitVec 1) (sc : BitVec 6) (s : State) : Host.Outcome State Fault Refusal :=
  perform (useEngine c [.us6 sc])
    (gangBody sc) s

/-- 12 R332: waits for the capo. -/
def execCapoTake (c : BitVec 1) (s : State) : Host.Outcome State Fault Refusal :=
  perform (useEngine c [])
    (capoTakeBody) s

/-- 12 R332: passes the capo. -/
def execCapoPass (c : BitVec 1) (s : State) : Host.Outcome State Fault Refusal :=
  perform (useEngine c [])
    (capoPassBody) s

/-- 12 R330: asks for a lease. -/
def execMlease (c : BitVec 1) (sc : BitVec 6) (s : State) : Host.Outcome State Fault Refusal :=
  perform (useEngine c [.us6 sc])
    (mleaseBody sc) s

/-- 12 R331: ends the lease. -/
def execMfree (c : BitVec 1) (s : State) : Host.Outcome State Fault Refusal :=
  perform (useEngine c [])
    (mfreeBody) s

/-- 12 R340: one stage. -/
def execBfstg (c : BitVec 1) (z : BitVec 3) (h : BitVec 4) (imm : BitVec 6) (o : BitVec 6) (s : State) : Host.Outcome State Fault Refusal :=
  perform (useEngine c [.us6 imm, .us6 o, .zr z 1 false])
    (stageBody 0 false z h imm o) s

/-- 12 R340: a chain of stages. -/
def execBfchn (c : BitVec 1) (z : BitVec 3) (h : BitVec 4) (imm : BitVec 6) (o : BitVec 6) (f : BitVec 1) (s : State) : Host.Outcome State Fault Refusal :=
  perform (useEngine c [.us6 imm, .us6 o, .zr z 1 false])
    (stageBody 1 (f = 1) z h imm o) s

/-- 12 R341: one stage transposed. -/
def execBfstgT (c : BitVec 1) (z : BitVec 3) (h : BitVec 4) (imm : BitVec 6) (o : BitVec 6) (s : State) : Host.Outcome State Fault Refusal :=
  perform (useEngine c [.us6 imm, .us6 o, .zr z 1 false])
    (stageBody 2 false z h imm o) s

/-- 12 R342: the weight gradients of a stage. -/
def execBfwg (c : BitVec 1) (z : BitVec 3) (imm : BitVec 6) (o : BitVec 6) (s : State) : Host.Outcome State Fault Refusal :=
  perform (useEngine c [.us6 imm, .us6 o, .zr z 1 false])
    (stageBody 3 false z 0 imm o) s

/-- 12 R337: writes a z register. -/
def execZset (c : BitVec 1) (z : BitVec 3) (imm : BitVec 6) (s : State) : Host.Outcome State Fault Refusal :=
  perform (useEngine c [.us6 imm, .zr z 1 true])
    (zsetBody z imm) s

/-- 12 R337: reads a z register. -/
def execZget (c : BitVec 1) (z : BitVec 3) (o : BitVec 6) (s : State) : Host.Outcome State Fault Refusal :=
  perform ({ useEngine c [.ud (o.setWidth 7), .zr z 1 false] with result := true })
    (uniform o.toNat fun v => v.grp.zget z.toNat) s

end Sys2Proof.Machine
end

