-- ==== Sys2Proof/Machine/Accum.lean ====
section
/-! DEFINITION. ACC words and the accumulator port (12 R345 to R351). -/

namespace Sys2Proof.Machine

/-! ## Descriptors and register words (12 R345, R346, R349) -/

/-- OFF of a scratchpad descriptor. -/
def dscOff (d : DWord) : Nat := (d.extractLsb' 0 20).toNat
/-- PITCH. -/
def dscPitch (d : DWord) : Nat := (d.extractLsb' 20 16).toNat
/-- FMT. -/
def dscFmt (d : DWord) : Nat := (d.extractLsb' 36 4).toNat
/-- RM. -/
def dscRm (d : DWord) : Nat := (d.extractLsb' 40 3).toNat

/-- Bytes of an element that an ACC word of code FN moves, and of one row (12 R346, R350). -/
def accBytes (fn : Nat) (st : Bool) (t : Tile) (d : DWord) : Nat × Nat :=
  if fn = 5 then (4, if st then 4 else 4 * t.cols)
  else
    let e := ((fmtOf (dscFmt d)).getD .f32).bytes
    (e, e * t.nc)

/-- The checks of a scratchpad descriptor, in order (12 R346). -/
def dscTrap (fn : Nat) (st : Bool) (t : Tile) (d : DWord) (spsize : Nat) : Option Trap :=
  let x := accBytes fn st t d
  if d.extractLsb' 43 21 ≠ 0 ∨ (fn ≠ 2 ∧ dscRm d ≠ 0) ∨ (fn = 5 ∧ dscFmt d ≠ 0) then some (.atIssue 4 21)
  else if 14 ≤ dscFmt d ∨ 5 ≤ dscRm d then some (.atIssue 0 0)
  else if dscOff d % x.1 ≠ 0 ∨ dscPitch d % x.1 ≠ 0 then some (trapAt 5 0 (dscOff d))
  else if spsize < dscOff d + (t.nr - 1) * dscPitch d + x.2 then some (trapAt 4 0 (dscOff d))
  else none

/-- The checks of the scale word, in order (12 R348). -/
def scaleTrap (t : Tile) (sc : DWord) (r : Option Resv) (spsize : Nat) : Option Trap :=
  match r with
  | none => some (.atIssue 0 2)
  | some r =>
    if sc.extractLsb' 16 48 ≠ 0 then some (.atIssue 4 21)
    else if r.m < (sc.extractLsb' 4 12).toNat + t.nr then some (.atIssue 4 16)
    else if r.csv ∧ spsize < r.csoff + 4 * t.nc then some (.atIssue 4 0)
    else none

/-- The number of registers that a tile maps to (12 R349). -/
def regLines (t : Tile) : Nat := t.nr * (t.cols / 32)

/-- The checks of a register word, in order; `ext` says that the group holds its extended block (12 R349). -/
def regTrap (t : Tile) (sb : DWord) (ext : Bool) : Option Trap :=
  let v := (sb.extractLsb' 0 7).toNat
  if sb.extractLsb' 7 57 ≠ 0 then some (.atIssue 4 21)
  else if t.col0 % 32 ≠ 0 ∨ t.cols % 32 ≠ 0 then some (.atIssue 4 15)
  else if (if v < 32 then 32 < v + regLines t else 96 < v + regLines t ∨ ext = false) then some (.atIssue 1 0)
  else none

/-- The checks of a tile word against the team's range (12 R317, 02 R55). -/
def accTileTrap (w : DWord) (b : BindRec) : Option Trap :=
  (tileTrap w).or (if outsideAcc b (tileOf w).row0 (tileOf w).nr then some (.atIssue 4 0) else none)

/-- The registers that a word moves, as they stand; a poisoned lane adds 2^20 to its key (12 R349). -/
def captureRegs (t : Team) (g v n : Nat) : Tbl Word :=
  let psn := ((t.group? g).map (·.psnLines)).getD []
  let x : Tbl Word := (List.range (32 * n)).foldl (fun x i => x.set 0 i (t.vget g (v + i / 32) (i % 32))) []
  psn.foldl (init := x) fun x k => if v ≤ k / 32 ∧ k / 32 < v + n then x.set 0 (k - 32 * v + 2 ^ 20) 1 else x

/-- Whether a register word names a register with a write pending (02 R41). -/
def linePending (x : Group) (v n : Nat) : Bool := x.pendingRegs.any fun p => p.1 = .v && decide (v ≤ p.2 ∧ p.2 < v + n)

/-- `accclr`, `accld`, `epi` and `accst`: FN, F, tile word, descriptor, scale word (12 R345 to R350). -/
def accBody (fn f : Nat) (a b sc : BitVec 6) (v : Env) (s : State) : Res :=
  let tile := v.grp.sget a.toNat
  let t := tileOf tile
  let d := v.grp.sget b.toNat
  let w := v.grp.sget sc.toNat
  let scl := fn = 2 ∧ f % 2 = 1
  let r := if scl then v.grp.resv (w.extractLsb' 0 4).toNat else none
  let size := v.team.bind.spsize
  match (accTileTrap tile v.team.bind).or ((if fn = 0 then none else dscTrap fn (decide (f % 2 = 1)) t d size).or
      (if scl then scaleTrap t w r size else none)) with
  | some x => .trap x
  | none =>
    let go := fun _ : Unit => s.submitThen v (.acc (BitVec.ofNat 4 fn) (BitVec.ofNat 4 f) tile d (if scl then w else 0) r []) .done
    if scl then goodResv (w.extractLsb' 0 4).toNat v s go else go ()

/-- `accmv` (FN 3) and `accput` (FN 4) (12 R349). What `accput` moves are the registers' values at its issue: no later word of the group
writes them before they are read. -/
def accRegBody (fn : Nat) (a b : BitVec 6) (v : Env) (s : State) : Res :=
  let tile := v.grp.sget a.toNat
  let t := tileOf tile
  let d := v.grp.sget b.toNat
  let first := (d.extractLsb' 0 7).toNat
  match (accTileTrap tile v.team.bind).or (regTrap t d (v.team.holdsExt v.r.grp)) with
  | some x => .trap x
  | none =>
    if linePending (liveGroup v s) first (regLines t) then .wait
    else
      let id := (s.core v.r.core).seq
      s.submitThen v (.acc (BitVec.ofNat 4 fn) 0 tile d 0 none (if fn = 4 then captureRegs v.team v.r.grp first (regLines t) else [])) fun s1 =>
        .done (s1.modGroup v.r fun x =>
          if fn = 3 then { x with lineRegs := x.lineRegs.set (0, 0) id (first, regLines t) }
          else { x with readRegs := x.readRegs.set (0, 0) id (first, regLines t) })

/-! ## The words at work (12 R347 to R350) -/

/-- Whether a tile row covers every column (02 R57). -/
def Tile.full (t : Tile) : Bool := t.col0 = 0 && t.cols = 512

/-- Writes the columns of a row of a tile. -/
def Core.putCols (k : Core) (t : Tile) (r : Nat) (f : Nat → Word) : Core :=
  (List.range t.cols).foldl (fun k x => k.putCol r (t.col0 + x) (f x)) k

/-- After a row is written: a faulty source poisons it, a row written whole is clean (12 R347, R349). -/
def Core.rowWritten (k : Core) (t : Tile) (r : Nat) (psn : Bool) : Core :=
  let k1 := if t.full then k.unmark r 2 else k
  if psn then k1.mark r 1 else k1

/-- An ACC word at work: engine, window, tile, descriptor, and whether it meets an error (R14). -/
structure AccJob where
  e : Eng
  w : Win
  t : Tile
  d : DWord
  err : Bool

/-- Where column or element `j` of `n` bytes of tile row `i` lies. -/
def AccJob.loc (x : AccJob) (i n j : Nat) : Loc := .win x.w (dscOff x.d + i * dscPitch x.d + n * j)

/-- Of a word that meets an error, which rows are done is not stated: each by a free choice (13 R356, 01 R14). -/
def AccJob.runs (x : AccJob) (s : State) (i : Nat) : Bool := !x.err || Config.choice (s.choices + 2 ^ 34 + i) % 2 = 1

/-- What one row comes to for now: it goes on later, or it is done with a status. -/
inductive RowEnd where
  | more (s : State)
  | done (s : State) (st : BitVec 2)

/-- The elements of a row in scratchpad. -/
def AccJob.reads (x : AccJob) (s : State) (i n m : Nat) : List (Look (Nat × Bool)) :=
  (List.range m).map fun j => s.engineRead x.e (x.loc i n j) n

/-- `accld`: one row; its cells are converted to the cell type (12 R347). -/
def AccJob.loadRow (x : AccJob) (s : State) (i : Nat) : RowEnd :=
  let f := (fmtOf (dscFmt x.d)).getD .f32
  let looks := x.reads s i f.bytes x.t.nc
  match needsOf looks with
  | n :: ns => .more (s.meetSome x.e (n :: ns))
  | [] =>
    let vals := looks.map Look.value
    let r := x.t.row0 + i
    if vals.any Option.isNone || !x.runs s i then .done s 1
    else
      let psn := vals.any fun y => y.any (·.2)
      let s1 := s.modCore x.e.core fun k =>
        let k1 := (List.range x.t.nc).foldl (init := k) fun k j =>
          let raw := ((vals.getD j none).getD (0, false)).1
          if f = x.t.fmt then k.putCell x.t r j raw
          else
            let y := roundTo x.t.fmt .rne 0 (f.value raw)
            let k1 := k.putCell x.t r j y.1
            if x.t.cell = 1 ∧ y.2.nv ∧ f.value raw ≠ .nan then k1.mark r 0 else k1
        k1.rowWritten x.t r psn
      .done s1 (if x.err then 1 else if psn then 2 else 0)

/-- Writes the elements of one row of `n` bytes each; once they are written, `k` ends the row. -/
def AccJob.writeRow (x : AccJob) (s : State) (i n : Nat) (vals : List (Option (Nat × Bool))) (k : State → Bool → RowEnd) : RowEnd :=
  match s.engineWrite x.e n ((List.range vals.length).map fun j => (x.loc i n j, vals.getD j none)) with
  | .more s1 => .more s1
  | .done s1 ok => k s1 ok

/-- A scale of `epi`: 1.0 where absent (12 R348, 02 R53). -/
def AccJob.scale (x : AccJob) (s : State) (present : Bool) (off : Nat) : Look (Num × Bool) :=
  if !present then .got (Num.ofInt 1 0, false)
  else match s.engineRead x.e (.win x.w off) 4 with
    | .got y => .got (Fmt.value .f32 y.1, y.2)
    | .need n => .need n
    | .failed => .failed

/-- Whether the bits of an fx64 cell are in guard (02 R58). -/
def inGuard (x : Nat) : Bool := x / 2 ^ 55 = 0 || x / 2 ^ 55 = 511

/-- A finite value beyond every format. -/
def beyond (neg : Bool) : Num := .fin neg 1 5000 false

/-- `epi`: one cell under its scales, with whether it was out of guard (12 R348). -/
def epiCell (t : Tile) (f : Fmt) (rm : Rm) (relu : Bool) (row col : Num) (bits : Nat) : Nat × Bool :=
  if t.cell = 1 ∧ inGuard bits = false then ((roundTo f .rtz 0 (beyond (decide (2 ^ 63 ≤ bits)))).1, true)
  else
    let v := Num.mul (Num.mul (t.fmt.value bits) row) col
    let v := if relu ∧ v ≠ .nan ∧ v.sign then Num.zero false else v
    ((roundTo f rm 0 v).1, false)

/-- `epi`: one row (12 R348). -/
def AccJob.epiRow (x : AccJob) (sf : BitVec 4) (sc : DWord) (res : Option Resv) (ovtrap : Bool) (s : State) (i : Nat) : RowEnd :=
  let k := s.core x.e.core
  let r := x.t.row0 + i
  let f := (fmtOf (dscFmt x.d)).getD .f32
  if k.rowPsn r then .done s 2
  else if !x.runs s i then .done s 1
  else
    let rs := match res with
      | none => x.scale s false 0
      | some q => x.scale s q.rsv (q.rsoff + 4 * (((sc.extractLsb' 4 12).toNat + i) / q.blk))
    let cs := (List.range x.t.nc).map fun j => match res with
      | none => x.scale s false 0
      | some q => x.scale s q.csv (q.csoff + 4 * j)
    match needsOf (rs :: cs) with
    | n :: ns => .more (s.meetSome x.e (n :: ns))
    | [] =>
      let out := (List.range x.t.nc).map fun j =>
        match rs.value, (cs.getD j .failed).value with
        | some a, some b =>
          let y := epiCell x.t f ((rmOf (dscRm x.d)).getD .rne) (sf.getLsbD 1) a.1 b.1 (k.cell x.t r j)
          some (y.1, a.2 || b.2, y.2)
        | _, _ => none
      let beyond := out.any fun y => y.any (·.2.2)
      let psn := out.any fun y => y.any (·.2.1)
      x.writeRow s i f.bytes (out.map fun y => y.map fun y => (y.1, y.2.1)) fun s1 ok =>
        .done (s1.modCore x.e.core fun k =>
            let k1 := if beyond then k.mark r 0 else k
            if sf.getLsbD 2 then k1.putCols x.t r fun _ => 0 else k1)
          (if !ok || x.err then 1 else if psn then 2 else if beyond && ovtrap then 3 else 0)

/-- `accst`: one row, its columns or its status bits (12 R350). -/
def AccJob.storeRow (x : AccJob) (st : Bool) (s : State) (i : Nat) : RowEnd :=
  let k := s.core x.e.core
  let r := x.t.row0 + i
  if !st && k.rowPsn r then .done s 2
  else if !x.runs s i then .done s 1
  else
    let vals := if st then [some ((k.accSt.get 0 r).toNat, false)]
      else (List.range x.t.cols).map fun c => some ((k.accCol r (x.t.col0 + c)).toNat, false)
    x.writeRow s i 4 vals fun s1 ok => .done s1 (if ok && !x.err then 0 else 1)

/-- `accclr`: one row (12 R347). -/
def AccJob.clearRow (x : AccJob) (s : State) (i : Nat) : RowEnd :=
  .done (s.modCore x.e.core fun k => (k.putCols x.t (x.t.row0 + i) fun _ => 0).unmark (x.t.row0 + i) 3) 0

/-- `accmv`: one row into its registers (12 R349, 02 R59). -/
def AccJob.moveRow (x : AccJob) (g : GroupRef) (s : State) (i : Nat) : RowEnd :=
  let k := s.core x.e.core
  let r := x.t.row0 + i
  let n := x.t.cols / 32
  let first := (x.d.extractLsb' 0 7).toNat + i * n
  if k.rowPsn r then .done s 2
  else .done (s.modTeam g fun t => (List.range n).foldl (init := t) fun t j =>
      t.vset g.grp (first + j) (BitVec.allOnes 32) fun l => k.accCol r (x.t.col0 + 32 * j + l)) 0

/-- `accput`: one row from the captured registers (12 R349, 02 R74). -/
def AccJob.putRow (x : AccJob) (regs : Tbl Word) (s : State) (i : Nat) : RowEnd :=
  let r := x.t.row0 + i
  let o := i * x.t.cols
  let psn := (List.range x.t.cols).any fun c => regs.get 0 (o + c + 2 ^ 20) ≠ 0
  .done (s.modCore x.e.core fun k => (k.putCols x.t r fun c => regs.get 0 (o + c)).rowWritten x.t r psn) (if psn then 2 else 0)

/-- Whether bytes that an ACC word reads or writes lie where an engine may not go (01 R14, 02 R70). -/
def AccJob.blocked (x : AccJob) (fn : Nat) (f : BitVec 4) (sc : DWord) (res : Option Resv) (s : State) : Bool :=
  let n := accBytes fn (f.getLsbD 0) x.t x.d
  if fn = 1 then (List.range x.t.nr).any fun i => !s.engineReadable x.w (dscOff x.d + i * dscPitch x.d) n.2
  else if fn = 2 ∨ fn = 5 then
    ((List.range x.t.nr).any fun i => !s.windowOk x.w (dscOff x.d + i * dscPitch x.d) n.2) ||
      match res with
      | none => false
      | some q =>
        (q.rsv && (List.range x.t.nr).any fun i =>
          !s.engineReadable x.w (q.rsoff + 4 * (((sc.extractLsb' 4 12).toNat + i) / q.blk)) 4) ||
          (q.csv && !s.engineReadable x.w q.csoff (4 * x.t.nc))
  else false

/-- One row of an ACC word. -/
def AccJob.row (x : AccJob) (c : Cmd) (ovtrap : Bool) (s : State) (i : Nat) : RowEnd :=
  match c.kind with
  | .acc fn f _ _ sc res regs =>
    if fn = 0 then x.clearRow s i
    else if fn = 1 then x.loadRow s i
    else if fn = 2 then x.epiRow f sc res ovtrap s i
    else if fn = 3 then x.moveRow c.g s i
    else if fn = 4 then x.putRow regs s i
    else x.storeRow (f.getLsbD 0) s i
  | _ => .done s 0

/-- An ACC word at work on a window. -/
def State.accJob (s : State) (c : Cmd) (b : BindRec) : Option AccJob :=
  match c.kind with
  | .acc fn f tile sb sc res _ =>
    let x : AccJob := ⟨s.engOf c, ⟨c.g.core, c.g.slot, b⟩, tileOf tile, sb, false⟩
    some { x with err := x.blocked fn.toNat f sc res s }
  | _ => none

/-- A step of an ACC word: its next row goes on, the rows ascending; the words of a row are read and written in no order (03 R94). -/
def State.runAcc (s : State) (c : Cmd) (b : BindRec) : State :=
  match s.accJob c b with
  | none => s.endCmd c.g.core c.seq
  | some x =>
    let i := c.left.headD 0
    let again := fun s : State => s.post (.accComplete c.g.core c.seq)
    let s0 := if x.err then s.modCmd c.g.core c.seq fun c => c.fail 1 else s
    if x.t.nr ≤ i then s0.endCmd c.g.core c.seq
    else match x.row c (b.mode.getLsbD 7) s0 i with
      | .more s1 => again s1
      | .done s1 st => again ((s1.modCmd c.g.core c.seq fun c => { c.fail st with left := [i + 1] }).newRound x.e)

/-! ## The accumulator port (12 R336, R351) -/

/-- Whether the port must still wait with a word: for earlier words on its rows, and for what its issue released (12 R336, 04 R128). -/
def State.portBlocked (s : State) (c : Cmd) : Bool :=
  ((s.core c.g.core).commands.any fun d => d.seq < c.seq && rowsClash d.kind c.kind) || !s.cmdReady c

/-- ACC_TAKEUP: the port takes up its oldest word once it is free and the word waits for nothing (12 R336, R351). -/
def execAccTakeup (core : Nat) (s : State) : Host.Outcome State Fault Refusal :=
  match (s.core core).nextOf .port with
  | none => happened s
  | some c =>
    let busy := (s.core core).commands.any fun d => d.kind.unit = .port && d.phase ≠ 0
    if busy || s.portBlocked c then happened (s.postOnce (.accTakeup core))
    else
      let s1 := ((s.readDone c).modCmd core c.seq fun c => { c with phase := 1 }).post (.accComplete core c.seq)
      happened (if ((s1.core core).nextOf .port).isSome then s1.postOnce (.accTakeup core) else s1)

/-- ACC_COMPLETE: a step of the word, up to the decrement of its fret (12 R347 to R351). -/
def execAccComplete (core cmd : Nat) (s : State) : Host.Outcome State Fault Refusal :=
  match (s.core core).cmd? cmd with
  | none => happened s
  | some c =>
    match s.team? c.g with
    | none => happened (s.endCmd core cmd)
    | some t => happened (s.runAcc c t.bind)

/-- 12 R347: clears a tile. -/
def execAccclr (c : BitVec 1) (a : BitVec 6) (s : State) : Host.Outcome State Fault Refusal :=
  perform (useEngine c [.us6 a])
    (accBody 0 0 a 0 0) s

/-- 12 R347: loads a tile from scratchpad. -/
def execAccld (c : BitVec 1) (a : BitVec 6) (b : BitVec 6) (s : State) : Host.Outcome State Fault Refusal :=
  perform (useEngine c [.us6 a, .us6 b])
    (accBody 1 0 a b 0) s

/-- 12 R348: converts a tile into scratchpad. -/
def execEpi (c : BitVec 1) (a : BitVec 6) (b : BitVec 6) (sc : BitVec 6) (k : BitVec 1) (j : BitVec 1) (g : BitVec 1) (s : State) : Host.Outcome State Fault Refusal :=
  perform (useEngine c [.us6 a, .us6 b, .us6 sc] (decide (g = 1 ∨ sc = 0)))
    (accBody 2 (g.toNat + 2 * j.toNat + 4 * k.toNat) a b sc) s

/-- 12 R349: moves columns into registers. -/
def execAccmv (c : BitVec 1) (a : BitVec 6) (b : BitVec 6) (s : State) : Host.Outcome State Fault Refusal :=
  perform ({ useEngine c [.us6 a, .us6 b] with result := true })
    (accRegBody 3 a b) s

/-- 12 R349: moves registers into columns. -/
def execAccput (c : BitVec 1) (a : BitVec 6) (b : BitVec 6) (s : State) : Host.Outcome State Fault Refusal :=
  perform (useEngine c [.us6 a, .us6 b])
    (accRegBody 4 a b) s

/-- 12 R350: stores columns or status bits. -/
def execAccst (c : BitVec 1) (a : BitVec 6) (b : BitVec 6) (t : BitVec 1) (s : State) : Host.Outcome State Fault Refusal :=
  perform (useEngine c [.us6 a, .us6 b])
    (accBody 5 t.toNat a b 0) s

end Sys2Proof.Machine
end

