-- ==== Sys2Proof/Machine/Bits.lean ====
section
/-! DEFINITION. The bit words (10 R255, R256). -/

namespace Sys2Proof.Machine

/-- The number of leading zero bits; 32 of zero (10 R255). -/
def clz (a : Word) : Word := BitVec.ofNat 32 (32 - (if a = 0 then 0 else Nat.log2 a.toNat + 1))

/-- The number of trailing zero bits; 32 of zero (10 R255). -/
def ctz (a : Word) : Word := BitVec.ofNat 32 (((List.range 32).find? fun i => a.getLsbD i).getD 32)

/-- The number of one bits (10 R255). -/
def popc (a : Word) : Word := BitVec.ofNat 32 ((List.range 32).filter fun i => a.getLsbD i).length

/-- A word bit by bit. -/
def wordOf (p : Nat → Bool) : Word := maskOf p

/-- The length of a bit field: min(b[13:8], 32) (10 R255). -/
def fieldLen (b : Word) : Nat := min (b.toNat / 256 % 64) 32

/-- `bext` (10 R255). -/
def bext (a b : Word) : Word := (a >>> (b.toNat % 32)) &&& BitVec.ofNat 32 (2 ^ fieldLen b - 1)

/-- `bins` (10 R255). -/
def bins (d a b : Word) : Word :=
  let m := BitVec.ofNat 32 ((2 ^ fieldLen b - 1) * 2 ^ (b.toNat % 32))
  (d &&& ~~~m) ||| ((a <<< (b.toNat % 32)) &&& m)

/-- `ilv2` (10 R255). -/
def ilv2 (a b : Word) : Word := wordOf fun i => if i % 2 = 0 then a.getLsbD (i / 2) else b.getLsbD (i / 2)

/-- `ilv3` (10 R255). -/
def ilv3 (a b : Word) : Word :=
  wordOf fun i => if 30 ≤ i then false
    else if i % 3 = 0 then a.getLsbD (i / 3) else if i % 3 = 1 then a.getLsbD (16 + i / 3) else b.getLsbD (i / 3)

/-- `dlv3` (10 R255). -/
def dlv3 (a b : Word) : Word :=
  let k := b.toNat % 4
  wordOf fun i => decide (i < 10) && decide (k < 3) && a.getLsbD (3 * i + k)

/-- Byte i of the pool that `prmt` selects from (10 R256). -/
def poolByte (a b : Word) (i : Nat) : BitVec 8 := if i < 4 then a.extractLsb' (8 * i) 8 else b.extractLsb' (8 * (i - 4)) 8

/-- One selected byte of `prmt` (10 R256). -/
def prmtByte (d a b : Word) (i : Nat) : BitVec 8 :=
  let n := d.toNat / 2 ^ (4 * i) % 16
  let y := poolByte a b (n % 8)
  if n / 8 = 1 then (if y.msb then 0xFF else 0) else y

/-- `prmt` (10 R256). -/
def prmt (d a b : Word) : Word := prmtByte d a b 3 ++ prmtByte d a b 2 ++ prmtByte d a b 1 ++ prmtByte d a b 0

/-- 10 R255: the number of leading zero bits; 32 of zero. -/
def execClz (c : BitVec 1) (d : BitVec 7) (a : BitVec 7) (s : State) : Host.Outcome State Fault Refusal :=
  perform (useAd c d a)
    (lane32 d fun v l => clz (v.src a l)) s

/-- 10 R255: the number of trailing zero bits; 32 of zero. -/
def execCtz (c : BitVec 1) (d : BitVec 7) (a : BitVec 7) (s : State) : Host.Outcome State Fault Refusal :=
  perform (useAd c d a)
    (lane32 d fun v l => ctz (v.src a l)) s

/-- 10 R255: the number of one bits. -/
def execPopc (c : BitVec 1) (d : BitVec 7) (a : BitVec 7) (s : State) : Host.Outcome State Fault Refusal :=
  perform (useAd c d a)
    (lane32 d fun v l => popc (v.src a l)) s

/-- 10 R255: bit i moved to bit 31 − i. -/
def execBrev (c : BitVec 1) (d : BitVec 7) (a : BitVec 7) (s : State) : Host.Outcome State Fault Refusal :=
  perform (useAd c d a)
    (lane32 d fun v l => (v.src a l).reverse) s

/-- 10 R255: a field of a at b[4:0] of min(b[13:8], 32) bits. -/
def execBext (c : BitVec 1) (d : BitVec 7) (a : BitVec 7) (b : BitVec 7) (s : State) : Host.Outcome State Fault Refusal :=
  perform (useAbd c d a b)
    (lane32 d fun v l => bext (v.src a l) (v.src b l)) s

/-- 10 R255: a put into the field of d. -/
def execBins (c : BitVec 1) (d : BitVec 7) (a : BitVec 7) (b : BitVec 7) (s : State) : Host.Outcome State Fault Refusal :=
  perform (useAbd c d a b)
    (lane32 d fun v l => bins (v.src d l) (v.src a l) (v.src b l)) s

/-- 10 R255: the bits of two halves interleaved. -/
def execIlv2 (c : BitVec 1) (d : BitVec 7) (a : BitVec 7) (b : BitVec 7) (s : State) : Host.Outcome State Fault Refusal :=
  perform (useAbd c d a b)
    (lane32 d fun v l => ilv2 (v.src a l) (v.src b l)) s

/-- 10 R255: the bits of three 10-bit values interleaved. -/
def execIlv3 (c : BitVec 1) (d : BitVec 7) (a : BitVec 7) (b : BitVec 7) (s : State) : Host.Outcome State Fault Refusal :=
  perform (useAbd c d a b)
    (lane32 d fun v l => ilv3 (v.src a l) (v.src b l)) s

/-- 10 R255: one of three interleaved values. -/
def execDlv3 (c : BitVec 1) (d : BitVec 7) (a : BitVec 7) (b : BitVec 7) (s : State) : Host.Outcome State Fault Refusal :=
  perform (useAbd c d a b)
    (lane32 d fun v l => dlv3 (v.src a l) (v.src b l)) s

/-- 10 R255: the number of equal leading bits. -/
def execCpl (c : BitVec 1) (d : BitVec 7) (a : BitVec 7) (b : BitVec 7) (s : State) : Host.Outcome State Fault Refusal :=
  perform (useAbd c d a b)
    (lane32 d fun v l => clz ((v.src a l) ^^^ (v.src b l))) s

/-- 10 R255: a where d is one, b where it is zero. -/
def execBsel (c : BitVec 1) (d : BitVec 7) (a : BitVec 7) (b : BitVec 7) (s : State) : Host.Outcome State Fault Refusal :=
  perform (useAbd c d a b)
    (lane32 d fun v l => ((v.src d l) &&& (v.src a l)) ||| (~~~(v.src d l) &&& (v.src b l))) s

/-- 10 R255: bytes of a and b selected by d (R256). -/
def execPrmt (c : BitVec 1) (d : BitVec 7) (a : BitVec 7) (b : BitVec 7) (s : State) : Host.Outcome State Fault Refusal :=
  perform (useAbd c d a b)
    (lane32 d fun v l => prmt (v.src d l) (v.src a l) (v.src b l)) s

end Sys2Proof.Machine
end

