-- ==== Sys2Proof/Machine/Physics.lean ====
section
/-! DEFINITION. PHY words: the sort unit, the traversal unit and the block solver (13 R372 to R379, R465). -/

namespace Sys2Proof.Machine

/-! ## Checks at issue (13 R465, R376) -/

/-- A named tensor record, if the q register is valid and holds one. -/
def Env.ten (v : Env) (n : Nat) : Option QReg := (v.grp.qget n).bind fun q => if q.tensor then some q else none

/-- Whether a record has the shape that a PHY word wants: u32 elements, two dimensions, EXT0, and bounds of EXT1 (13 R373, R374). -/
def phyShape (t : Ten) (ext0 lo hi : Nat) : Bool :=
  t.elem = .u32 && t.rank = 2 && t.extent 0 = ext0 && decide (lo ≤ t.extent 1) && decide (t.extent 1 ≤ hi)

/-- The checks of `srt` and `bvht`, in order: the operands' reserved bits, each record with its permission and shape, CNTOFF (13 R465). -/
def phyTrap (rsv : Bool) (ins outs : List (Option QReg)) (shapes : List (Nat × Nat × Nat)) (cnt : Nat) (b : BindRec) : Option Trap :=
  let all := ins ++ outs
  if rsv then some (.atIssue 4 26)
  else if all.any Option.isNone then some (.atIssue 4 23)
  else
    let ts := fun qs : List (Option QReg) => qs.map fun q => tenOf (q.getD ⟨true, 0⟩).img
    if (ts ins).any (fun t => !t.rd) || (ts outs).any fun t => !t.wr then some (.atIssue 4 0)
    else if ((ts all).zip shapes).any fun x => !phyShape x.1 x.2.1 x.2.2.1 x.2.2.2 then some (.atIssue 4 26)
    else if cnt % 8 ≠ 0 then some (trapAt 5 0 cnt)
    else if b.spsize < cnt + 8 then some (trapAt 4 0 cnt)
    else none

/-- CNTOFF of an operand. -/
def cntOff (sb : DWord) : Nat := (sb.extractLsb' 0 20).toNat

/-- `srt` (13 R373). -/
def srtBody (a b : BitVec 6) (v : Env) (s : State) : Res :=
  let sa := v.grp.sget a.toNat
  let sb := v.grp.sget b.toNat
  let qi := v.ten (sa.extractLsb' 0 4).toNat
  let qo := v.ten (sa.extractLsb' 4 4).toNat
  match phyTrap (sa.extractLsb' 8 56 ≠ 0 || sb.extractLsb' 20 44 ≠ 0) [qi] [qo] [(4, 1, 65536), (2, 0, 2 ^ 32)] (cntOff sb) v.team.bind with
  | some t => .trap t
  | none => s.submitThen v (.srt (qi.getD ⟨true, 0⟩) (qo.getD ⟨true, 0⟩) (cntOff sb)) .done

/-- `bvht` (13 R374). -/
def bvhtBody (ray : Bool) (a b : BitVec 6) (v : Env) (s : State) : Res :=
  let sa := v.grp.sget a.toNat
  let sb := v.grp.sget b.toNat
  let q := fun k => v.ten (sa.extractLsb' k 4).toNat
  match phyTrap (sa.extractLsb' 12 52 ≠ 0 || sb.extractLsb' 20 44 ≠ 0) [q 0, q 4] [q 8]
      [(8, 0, 2 ^ 32), (8, 0, 2 ^ 32), (2, 0, 2 ^ 32)] (cntOff sb) v.team.bind with
  | some t => .trap t
  | none => s.submitThen v (.bvht ray ((q 0).getD ⟨true, 0⟩) ((q 4).getD ⟨true, 0⟩) ((q 8).getD ⟨true, 0⟩) (cntOff sb)) .done

/-- The operands of the block solver (13 R376): n, r, blocks, offsets, element bytes. -/
structure Solve where
  adj : Bool
  f32 : Bool
  n : Nat
  r : Nat
  nb : Nat
  loff : Nat
  boff : Nat
  aoff : Nat
  xoff : Nat

/-- Decodes the operands. -/
def solveOf (adj f32 : Bool) (sa sb : DWord) : Solve :=
  { adj := adj, f32 := f32, n := (sa.extractLsb' 60 4).toNat + 1, r := (sb.extractLsb' 20 4).toNat + 1, nb := (sb.extractLsb' 24 8).toNat + 1,
    loff := (sa.extractLsb' 40 20).toNat, boff := (sa.extractLsb' 20 20).toNat, aoff := (sa.extractLsb' 0 20).toNat,
    xoff := (sb.extractLsb' 0 20).toNat }

/-- The format of the elements. -/
def Solve.fmt (x : Solve) : Fmt := if x.f32 then .f32 else .f64
/-- Bytes of an element. -/
def Solve.e (x : Solve) : Nat := x.fmt.bytes
/-- LS, the size of a pivot log (13 R376). -/
def Solve.ls (x : Solve) : Nat := (16 + x.n * x.n * x.e + 15) / 16 * 16

/-- The checks of `bslv` and `bsadj` (13 R376). -/
def Solve.trap (x : Solve) (rsv : Bool) (spsize : Nat) : Option Trap :=
  let offs := [x.aoff, x.boff, x.xoff]
  let ends := [x.loff + x.nb * x.ls, x.boff + x.nb * (x.n * x.r * x.e), x.xoff + x.nb * (x.n * x.r * x.e)] ++
    (if x.adj then [] else [x.aoff + x.nb * (x.n * x.n * x.e)])
  if 12 < x.n ∨ 12 < x.r ∨ rsv ∨ (x.adj ∧ x.aoff ≠ 0) then some (.atIssue 4 26)
  else match offs.find? fun o => o % x.e ≠ 0 with
    | some o => some (trapAt 5 0 o)
    | none =>
      if x.loff % 16 ≠ 0 then some (trapAt 5 0 x.loff)
      else if ends.any (spsize < ·) then some (.atIssue 4 0)
      else none

/-- `bslv` and `bsadj` (13 R376). -/
def solveBody (adj f32 : Bool) (a b : BitVec 6) (v : Env) (s : State) : Res :=
  let sa := v.grp.sget a.toNat
  let sb := v.grp.sget b.toNat
  match (solveOf adj f32 sa sb).trap (sb.extractLsb' 32 32 ≠ 0) v.team.bind.spsize with
  | some t => .trap t
  | none => s.submitThen v (if adj then .bsadj f32 sa sb else .bslv f32 sa sb) .done

/-! ## The sort unit (13 R373) -/

/-- The read of element (i, n) of a record of two dimensions; a padding element outside it (01 R23). -/
def State.recRead (s : State) (e : Eng) (at_ : TenAt) (t : Ten) (i n : Nat) : Look (Nat × Bool) :=
  if !t.inside (i, n, 0, 0) then .got (t.padBits, false)
  else match at_.loc (t.base + t.offset i n 0 0) with
    | none => .failed
    | some l => s.engineRead e l t.size

/-- The place of element (i, n) of an output record; none where it is dropped (01 R23). -/
def recPlace (at_ : TenAt) (t : Ten) (i n : Nat) : Option Loc :=
  if !t.inside (i, n, 0, 0) then none else at_.loc (t.base + t.offset i n 0 0)

/-- Row k of an output record. -/
def recRow (at_ : TenAt) (t : Ten) (psn : Bool) (k x y : Nat) : List (Loc × Option (Nat × Bool)) :=
  (((recPlace at_ t 0 k).map fun l => (l, some (x, psn))).toList) ++ ((recPlace at_ t 1 k).map fun l => (l, some (y, psn))).toList

/-- An element of a sort: ENV, OBJ, LO, HI. -/
abbrev SortItem := Nat × Nat × Nat × Nat

/-- Ord of R373. -/
def sortOrd (f : Nat) : Nat := if 2 ^ 31 ≤ f then 2 ^ 32 - 1 - f else f + 2 ^ 31

/-- The key of R373. -/
def SortItem.key (x : SortItem) : Nat := x.1 * 2 ^ 32 + sortOrd x.2.2.1

/-- An f32 comparison, false with a NaN. -/
def f32Le (a b : Nat) : Bool :=
  let x := Fmt.value .f32 a
  let y := Fmt.value .f32 b
  x ≠ .nan && y ≠ .nan && decide (Num.cmp x y ≤ 0)

/-- Inserts behind every element of the same or a lower key. -/
def sortInsert (x : SortItem) : List SortItem → List SortItem
  | [] => [x]
  | y :: t => if y.key ≤ x.key then y :: sortInsert x t else x :: y :: t

/-- The stable sort of the elements that have an interval. -/
def sortItems (xs : List SortItem) : List SortItem := (xs.filter fun x => f32Le x.2.2.1 x.2.2.2).foldl (fun acc x => sortInsert x acc) []

/-- The overlapping pairs in order. -/
def sortPairs : List SortItem → List (Nat × Nat)
  | [] => []
  | a :: t => ((t.filter fun b => b.1 = a.1 && f32Le b.2.2.1 a.2.2.2).map fun b => (a.2.1, b.2.1)) ++ sortPairs t

/-- The count words of R373. -/
def countItems (w : Win) (cnt k cap : Nat) (psn : Bool) : List (Loc × Option (Nat × Bool)) :=
  [(.win w cnt, some (Nat.min k (2 ^ 32 - 1), psn)), (.win w (cnt + 4), some (Nat.min k cap, psn))]

/-- A step of `srt`: reading, then writing. -/
def State.srtRun (s : State) (id : Nat) (c : Cmd) (b : BindRec) (qin qout : Ten) (cnt : Nat) : State :=
  let e := s.engOf c
  let again := fun s : State => s.post (.engineCommandComplete c.g.core id)
  match s.tenAt c.g qin, s.tenAt c.g qout with
  | .stalled, _ => again s
  | _, .stalled => again s
  | src, dst =>
    if c.phase = 2 then
      let looks := (List.range (qin.extent 1)).flatMap fun n => (List.range 4).map fun i => s.recRead e src qin i n
      match needsOf looks with
      | n :: ns => again (s.meetSome e (n :: ns))
      | [] =>
        let vals := looks.map Look.value
        if vals.any Option.isNone then again (s.modCmd c.g.core id fun c => { c.fail 1 with phase := 4 })
        else again (s.modCmd c.g.core id fun c => { c.judge vals true with vals := vals, phase := 3 })
    else
      let at_ := fun k => ((c.vals.getD k none).getD (0, false)).1
      let ps := sortPairs (sortItems ((List.range (qin.extent 1)).map fun n => (at_ (4 * n), at_ (4 * n + 1), at_ (4 * n + 2), at_ (4 * n + 3))))
      let cap := qout.extent 1
      let psn := c.st = 2
      let rows := (List.range (Nat.min ps.length cap)).flatMap fun k => let p := ps.getD k (0, 0); recRow dst qout psn k p.1 p.2
      match s.engineWrite e 4 (rows ++ countItems ⟨c.g.core, c.g.slot, b⟩ cnt ps.length cap psn) with
      | .more s1 => again s1
      | .done s1 ok =>
        let gone := match dst with
          | .gone => true
          | _ => false
        again (s1.modCmd c.g.core id fun c => { (if ok && !gone then c else c.fail 1) with phase := 4 })

/-! ## The traversal unit (13 R374, R375) -/

/-- Whether a box query meets a node. -/
def boxHit (q n : List Nat) : Bool :=
  (List.range 3).all fun a => f32Le (n.getD a 0) (q.getD (a + 3) 0) && f32Le (q.getD a 0) (n.getD (a + 3) 0)

/-- The lesser and the greater of two values that are no NaN. -/
def numMin (a b : Num) : Num := if Num.cmp b a < 0 then b else a
/-- The greater. -/
def numMax (a b : Num) : Num := if Num.cmp a b < 0 then b else a

/-- t1 or t2 of R375. -/
def rayTime (bound o d : Num) : Num := Fmt.value .f32 (roundTo .f32 .rne 0 (Num.div (Num.add false bound o.neg) d)).1

/-- One axis of a ray test: none for a miss. -/
def rayAxis (lo hi o d : Num) (nf : Num × Num) : Option (Num × Num) :=
  if o = .nan ∨ d = .nan ∨ lo = .nan ∨ hi = .nan then none
  else if d.isZero then (if Num.cmp lo o ≤ 0 ∧ Num.cmp o hi ≤ 0 then some nf else none)
  else
    let t1 := rayTime lo o d
    let t2 := rayTime hi o d
    if t1 = .nan ∨ t2 = .nan then none else some (numMax nf.1 (numMin t1 t2), numMin nf.2 (numMax t1 t2))

/-- Whether a ray query meets a node. -/
def rayHit (q n : List Nat) : Bool :=
  let x := fun (l : List Nat) i => Fmt.value .f32 (l.getD i 0)
  if x q 6 = .nan ∨ x q 7 = .nan then false
  else match (List.range 3).foldl (init := some (x q 6, x q 7)) fun (nf : Option (Num × Num)) a =>
      nf.bind (rayAxis (x n a) (x n (a + 3)) (x q a) (x q (a + 3))) with
    | none => false
    | some nf => decide (Num.cmp nf.1 nf.2 ≤ 0)

/-- Whether a child is a node. -/
def isNodeChild (c : Nat) : Bool := c < 2 ^ 31
/-- Whether a child is a primitive. -/
def isPrimitive (c : Nat) : Bool := 2 ^ 31 ≤ c && c ≠ 2 ^ 32 - 1

/-- The stack after a hit, top first, RIGHT pushed before LEFT; none where it would hold more than 64 entries. -/
def pushChildren (n : List Nat) (stack : List Nat) : Option (List Nat) :=
  let push := fun (st : Option (List Nat)) c =>
    if !isNodeChild c then st else st.bind fun l => if 64 ≤ l.length then none else some (c :: l)
  push (push (some stack) (n.getD 7 0)) (n.getD 6 0)

/-- The primitives that a hit emits, LEFT first. -/
def emitted (n : List Nat) : List Nat := [n.getD 6 0, n.getD 7 0].filterMap fun c => if isPrimitive c then some (c - 2 ^ 31) else none

/-- Eight words of a row of a record. -/
def State.rowRead (s : State) (e : Eng) (at_ : TenAt) (t : Ten) (n : Nat) : List (Look (Nat × Bool)) :=
  (List.range 8).map fun i => s.recRead e at_ t i n

/-- The bits of values that were read. -/
def bitsOf (vals : List (Option (Nat × Bool))) : List Nat := vals.map fun y => (y.getD (0, false)).1

/-- A pair that a traversal has emitted: query and primitive, with its poison. -/
abbrev HitPair := Option (Nat × Bool)

/-- The rows of the output record from the pairs emitted, in order (13 R375). -/
def hitRows (hits : TenAt) (qh : Ten) (ps : List HitPair) : List (Loc × Option (Nat × Bool)) :=
  (List.range (Nat.min ps.length (qh.extent 1))).flatMap fun k =>
    let p := (ps.getD k none).getD (0, false)
    recRow hits qh p.2 k (p.1 / 2 ^ 32) (p.1 % 2 ^ 32)

/-- What a traversal has come to: queries begun, pairs counted, and whether what it reads was refused. -/
structure Traversal where
  query : Nat
  count : Nat
  refused : Bool

/-- Read from a command. -/
def Cmd.traversal (c : Cmd) : Traversal := ⟨c.left.getD 0 0, c.left.getD 1 0, c.left.getD 2 0 = 1⟩

/-- Kept in a command. -/
def Cmd.withTraversal (c : Cmd) (x : Traversal) : Cmd := { c with left := [x.query, x.count, if x.refused then 1 else 0] }

/-- The end of a traversal whose rows or count words cannot be read on: by a free choice it ends before it writes the rows that it emitted
(13 R372). -/
def Cmd.traverseRefused (c : Cmd) (free : Nat) : Cmd :=
  { (c.fail 1).withTraversal { c.traversal with refused := true } with phase := if free % 2 = 0 then 4 else 3 }

/-- One node of a traversal (13 R375): the stack is `seen`; `vals` holds the query's eight words and the pairs emitted so far. -/
def Cmd.visit (c : Cmd) (ray : Bool) (node : List Nat) (cap : Nat) : Cmd :=
  let x := c.traversal
  let rest := c.seen.drop 1
  if !(if ray then rayHit (bitsOf (c.vals.take 8)) node else boxHit (bitsOf (c.vals.take 8)) node) then { c with seen := rest }
  else match pushChildren node rest with
    | none => { c.fail 1 with phase := 3 }
    | some stack =>
      let prims := emitted node
      let ps : List HitPair := prims.map fun i => some ((x.query - 1) * 2 ^ 32 + i, decide (c.st = 2))
      ({ c with seen := stack, vals := c.vals ++ ps.take (cap - x.count) }).withTraversal { x with count := x.count + prims.length }

/-- A step of `bvht`: queries and nodes are read, each line once (03 R93), and the output is written when the traversal is over. -/
def State.bvhtRun (s : State) (id : Nat) (c : Cmd) (b : BindRec) (ray : Bool) (qn qq qh : Ten) (cnt : Nat) : State :=
  let e := s.engOf c
  let again := fun s : State => s.post (.engineCommandComplete c.g.core id)
  let on := fun (s : State) (f : Cmd → Cmd) => again (s.modCmd c.g.core id f)
  let x := c.traversal
  match s.tenAt c.g qn, s.tenAt c.g qq, s.tenAt c.g qh with
  | .stalled, _, _ => again s
  | _, .stalled, _ => again s
  | _, _, .stalled => again s
  | nodes, queries, hits =>
    if c.phase = 3 then
      let rows := hitRows hits qh (c.vals.drop 8)
      let count := if x.refused then [] else countItems ⟨c.g.core, c.g.slot, b⟩ cnt x.count (qh.extent 1) (c.st = 2)
      match s.engineWrite e 4 (rows ++ count) with
      | .more s1 => again s1
      | .done s1 ok =>
        let gone := match hits with
          | .gone => decide (0 < x.count)
          | _ => false
        on s1 fun c => { (if ok && !gone then c else c.fail 1) with phase := 4 }
    else
      let ahead := fun looks : List (Look (Nat × Bool)) =>
        needsOf looks ++ needsOf (s.rowRead e queries qq (Config.choice s.choices % Nat.max 1 (qq.extent 1)))
      match c.seen with
      | [] =>
        if qq.extent 1 ≤ x.query then on s fun c => { c with phase := 3 }
        else
          let looks := s.rowRead e queries qq x.query
          match needsOf looks with
          | _ :: _ => again (s.meetSome e (ahead looks))
          | [] =>
            let vals := looks.map Look.value
            if vals.any Option.isNone then on { s with choices := s.choices + 1 } fun c => c.traverseRefused (Config.choice s.choices)
            else on s fun c => ({ c.judge vals true with vals := vals ++ c.vals.drop 8, seen := [0] }).withTraversal { x with query := x.query + 1 }
      | n :: _ =>
        if qn.extent 1 ≤ n then on s fun c => { c.fail 1 with phase := 3 }
        else
          let looks := s.rowRead e nodes qn n
          match needsOf looks with
          | _ :: _ => again (s.meetSome e (ahead looks))
          | [] =>
            let vals := looks.map Look.value
            if vals.any Option.isNone then on { s with choices := s.choices + 1 } fun c => c.traverseRefused (Config.choice s.choices)
            else on s fun c => (c.judge vals true).visit ray (bitsOf vals) (qh.extent 1)

/-! ## The block solver (13 R376 to R379) -/

/-- A matrix of element bits, row by row. -/
abbrev Matrix := List (List Nat)

/-- Entry (i, j). -/
def Matrix.at_ (m : Matrix) (i j : Nat) : Nat := (m.getD i []).getD j 0

/-- Swaps two rows. -/
def Matrix.swap (m : Matrix) (i j : Nat) : Matrix := (m.set i (m.getD j [])).set j (m.getD i [])

/-- x − m·y, rounded once (13 R377). -/
def mulSub (f : Fmt) (x m y : Nat) : Nat := (roundTo f .rne 0 (Num.add false (f.value x) (Num.mul (f.value m) (f.value y)).neg)).1

/-- x / y, rounded. -/
def divRound (f : Fmt) (x y : Nat) : Nat := (roundTo f .rne 0 (Num.div (f.value x) (f.value y))).1

/-- The rank of a magnitude; a NaN is below every number (13 R377). -/
def magRank (f : Fmt) (x : Nat) : Nat := if f.value x = .nan then 0 else 1 + x % 2 ^ (8 * f.bytes - 1)

/-- The pivot row of column k. -/
def pivotRow (f : Fmt) (a : Matrix) (n k : Nat) : Nat :=
  (List.range n).foldl (fun p i => if k < i ∧ magRank f (a.at_ p k) < magRank f (a.at_ i k) then i else p) k

/-- Factors under way: A, B, the pivots so far, SING. -/
structure Factor where
  a : Matrix
  b : Matrix
  piv : List Nat
  sing : Bool

/-- One column of the elimination (13 R377). -/
def factorStep (f : Fmt) (n r : Nat) (x : Factor) (k : Nat) : Factor :=
  let p := pivotRow f x.a n k
  let a := Matrix.swap x.a k p
  let b := Matrix.swap x.b k p
  let m := fun i => divRound f (a.at_ i k) (a.at_ k k)
  { a := (List.range n).map fun i =>
      if i ≤ k then a.getD i []
      else (List.range n).map fun j => if j < k then a.at_ i j else if j = k then m i else mulSub f (a.at_ i j) (m i) (a.at_ k j),
    b := (List.range n).map fun i => if i ≤ k then b.getD i [] else (List.range r).map fun c => mulSub f (b.at_ i c) (m i) (b.at_ k c),
    piv := x.piv ++ [p], sing := x.sing || (f.value (a.at_ k k)).isZero }

/-- The whole factorisation. -/
def factor (f : Fmt) (n r : Nat) (a b : Matrix) : Factor := (List.range n).foldl (factorStep f n r) ⟨a, b, [], false⟩

/-- Solves row by row, last first: `at_ i j` is the coefficient of unknown j in row i, `diag i` what row i is divided by, if anything. -/
def sweepDown (f : Fmt) (n r : Nat) (coef : Nat → Nat → Nat) (diag : Nat → Option Nat) (b : Matrix) : Matrix :=
  ((List.range n).reverse).foldl (init := b) fun x i =>
    x.set i ((List.range r).map fun c =>
      let y := ((List.range n).filter fun j => i < j).foldl (fun y j => mulSub f y (coef i j) (x.at_ j c)) (x.at_ i c)
      match diag i with
      | none => y
      | some d => divRound f y d)

/-- Solves row by row, first first. -/
def sweepUp (f : Fmt) (n r : Nat) (coef : Nat → Nat → Nat) (diag : Nat → Nat) (b : Matrix) : Matrix :=
  (List.range n).foldl (init := b) fun x i =>
    x.set i ((List.range r).map fun c =>
      divRound f ((List.range i).foldl (fun y j => mulSub f y (coef i j) (x.at_ j c)) (x.at_ i c)) (diag i))

/-- The solutions of a factored block (13 R377). -/
def solveFactored (f : Fmt) (n r : Nat) (x : Factor) : Matrix := sweepDown f n r x.a.at_ (fun i => some (x.a.at_ i i)) x.b

/-- The solutions of Aᵀy = g from a log (13 R378). -/
def solveAdjoint (f : Fmt) (n r : Nat) (lu : Matrix) (piv : Nat → Nat) (g : Matrix) : Matrix :=
  let z := sweepUp f n r (fun i j => lu.at_ j i) (fun i => lu.at_ i i) g
  let w := sweepDown f n r (fun i j => lu.at_ j i) (fun _ => none) z
  ((List.range n).reverse).foldl (fun w k => Matrix.swap w k (piv k)) w

/-- A matrix of consecutive elements. -/
def matrixOf (rows cols : Nat) (xs : List Nat) : Matrix := (List.range rows).map fun i => (xs.drop (i * cols)).take cols

/-- Reads `k` consecutive elements. -/
def State.readElems (s : State) (e : Eng) (w : Win) (off n k : Nat) : List (Look (Nat × Bool)) :=
  (List.range k).map fun i => s.engineRead e (.win w (off + n * i)) n

/-- Several accesses as one: an error in one is an error of all, and what one needs all need first. -/
def gather {α : Type} (ls : List (Look α)) : List Need ⊕ Option (List α) :=
  match needsOf ls with
  | [] => .inr (if ls.any fun l => l.value.isNone then none else some (ls.filterMap Look.value))
  | ns => .inl ns

/-- The first 16 bytes of a log (13 R377): pivots, N, F32, NONFIN, SING. -/
def logHead (piv : List Nat) (n : Nat) (f32 nonfin sing : Bool) : Nat :=
  (List.range n).foldl (fun x k => x + piv.getD k 0 * 2 ^ (8 * k)) 0 + n * 2 ^ 96 +
    ((if f32 then 128 else 0) + (if nonfin then 2 else 0) + if sing then 1 else 0) * 2 ^ 104

/-- Elements to write from an offset. -/
def elemItems (w : Win) (off n : Nat) (psn : Bool) (xs : List Nat) : List (Loc × Option (Nat × Bool)) :=
  (List.range xs.length).map fun i => (.win w (off + n * i), some (xs.getD i 0, psn))

/-- Whether an element is infinite or a NaN. -/
def nonFinite (f : Fmt) (x : Nat) : Bool :=
  match f.value x with
  | .fin _ _ _ _ => false
  | _ => true

/-- What one block comes to: bytes that it has still to read, an error with nothing written, or elements to write with the poison of its
inputs. -/
inductive Block where
  | needs (ns : List Need)
  | failed
  | out (items : List (Loc × Option (Nat × Bool))) (psn : Bool)

/-- Factors and solves block k (13 R377). -/
def State.solveBlock (s : State) (e : Eng) (w : Win) (x : Solve) (k : Nat) : Block :=
  match gather (s.readElems e w (x.aoff + k * (x.n * x.n * x.e)) x.e (x.n * x.n) ++
      s.readElems e w (x.boff + k * (x.n * x.r * x.e)) x.e (x.n * x.r)) with
  | .inl ns => .needs ns
  | .inr none => .failed
  | .inr (some all) =>
    let a := all.take (x.n * x.n)
    let b := all.drop (x.n * x.n)
    let psn := all.any (·.2)
    let fa := factor x.fmt x.n x.r (matrixOf x.n x.n (a.map (·.1))) (matrixOf x.n x.r (b.map (·.1)))
    let sol := (solveFactored x.fmt x.n x.r fa).flatten
    let lu := fa.a.flatten
    let head := logHead fa.piv x.n x.f32 ((lu ++ sol).any (nonFinite x.fmt)) fa.sing
    let lo := x.loff + k * x.ls
    .out (elemItems w lo x.e psn ((List.range (16 / x.e)).map fun q => head / 2 ^ (8 * x.e * q) % 2 ^ (8 * x.e)) ++
      elemItems w (lo + 16) x.e psn lu ++ elemItems w (x.xoff + k * (x.n * x.r * x.e)) x.e psn sol) psn

/-- Whether the head of a log is one that `bsadj` takes (13 R378). -/
def logOk (x : Solve) (head : Nat) : Bool :=
  let byte := fun k => head / 2 ^ (8 * k) % 256
  byte 12 = x.n && byte 13 / 128 = (if x.f32 then 1 else 0) && byte 13 / 4 % 32 = 0 && byte 14 = 0 && byte 15 = 0 &&
    (List.range 12).all fun k => if k < x.n then decide (byte k < x.n) else byte k = 0

/-- Solves the adjoint of block k (13 R378). -/
def State.adjointBlock (s : State) (e : Eng) (w : Win) (x : Solve) (k : Nat) : Block :=
  let lo := x.loff + k * x.ls
  match gather (s.readElems e w lo x.e (16 / x.e) ++ s.readElems e w (lo + 16) x.e (x.n * x.n) ++
      s.readElems e w (x.boff + k * (x.n * x.r * x.e)) x.e (x.n * x.r)) with
  | .inl ns => .needs ns
  | .inr none => .failed
  | .inr (some all) =>
    let h := all.take (16 / x.e)
    let a := (all.drop (16 / x.e)).take (x.n * x.n)
    let g := all.drop (16 / x.e + x.n * x.n)
    let head := (List.range (16 / x.e)).foldl (fun y q => y + (h.getD q (0, false)).1 * 2 ^ (8 * x.e * q)) 0
    if !logOk x head then .failed
    else
      let psn := all.any (·.2)
      let sol := solveAdjoint x.fmt x.n x.r (matrixOf x.n x.n (a.map (·.1))) (fun k => head / 2 ^ (8 * k) % 256) (matrixOf x.n x.r (g.map (·.1)))
      .out (elemItems w (x.xoff + k * (x.n * x.r * x.e)) x.e psn sol.flatten) psn

/-- A step of the block solver: each block is read, then written (13 R376). After an error the blocks that follow run or not by a free choice (13 R372). -/
def State.solveRun (s : State) (id : Nat) (c : Cmd) (b : BindRec) (x : Solve) : State :=
  let e := s.engOf c
  let w : Win := ⟨c.g.core, c.g.slot, b⟩
  let k := c.left.getD 0 0
  if x.nb ≤ k then s.endCmd c.g.core id
  else
    let next := fun (s : State) (f : Cmd → Cmd) (k : Nat) =>
      ((s.modCmd c.g.core id fun c => { f c with left := [k] }).newRound e).post (.engineCommandComplete c.g.core id)
    let after := if Config.choice s.choices % 2 = 0 then k + 1 else x.nb
    let s1 := { s with choices := s.choices + 1 }
    match if x.adj then s.adjointBlock e w x k else s.solveBlock e w x k with
    | .needs ns => (s.meetSome e ns).post (.engineCommandComplete c.g.core id)
    | .failed => next s1 (·.fail 1) after
    | .out items psn =>
      match s1.engineWrite e x.e items with
      | .more s2 => s2.post (.engineCommandComplete c.g.core id)
      | .done s2 ok => next s2 (fun c => let c1 := if ok then c else c.fail 1; if psn then c1.fail 2 else c1) (if ok then k + 1 else after)

/-! ## Start and run -/

/-- A step of the run of a PHY command. -/
def State.runPhysics (s : State) (id : Nat) (c : Cmd) (b : BindRec) : State :=
  if c.phase = 4 then s.awaitHomes c.g.core id false
  else match c.kind with
    | .srt qi qo cnt => s.srtRun id c b (tenOf qi.img) (tenOf qo.img) cnt
    | .bvht ray qn qq qh cnt => s.bvhtRun id c b ray (tenOf qn.img) (tenOf qq.img) (tenOf qh.img) cnt
    | .bslv f sa sb => s.solveRun id c b (solveOf false f sa sb)
    | .bsadj f sa sb => s.solveRun id c b (solveOf true f sa sb)
    | _ => s

/-- The lines of global memory that a PHY command may write: those of its output record. -/
def State.physicsLines (s : State) (c : Cmd) : List Nat :=
  match c.kind with
  | .srt _ q _ | .bvht _ _ _ q _ =>
    let t := tenOf q.img
    if t.space ≠ 0 then []
    else putLines ((List.range (t.extent 1)).flatMap fun n =>
      (recPlace (s.tenAt c.g t) t 0 n).toList ++ (recPlace (s.tenAt c.g t) t 1 n).toList)
  | _ => []

/-- 13 R373: sorts segments and writes the overlapping pairs. -/
def execSrt (c : BitVec 1) (a : BitVec 6) (b : BitVec 6) (s : State) : Host.Outcome State Fault Refusal :=
  perform (useEngine c [.us6 a, .us6 b])
    (srtBody a b) s

/-- 13 R374, R375: traverses a tree for each query. -/
def execBvht (c : BitVec 1) (a : BitVec 6) (b : BitVec 6) (f : BitVec 1) (s : State) : Host.Outcome State Fault Refusal :=
  perform (useEngine c [.us6 a, .us6 b])
    (bvhtBody (f = 1) a b) s

/-- 13 R377: factors and solves blocks. -/
def execBslv (c : BitVec 1) (a : BitVec 6) (b : BitVec 6) (f : BitVec 1) (s : State) : Host.Outcome State Fault Refusal :=
  perform (useEngine c [.us6 a, .us6 b])
    (solveBody false (f = 1) a b) s

/-- 13 R378: solves the adjoint of factored blocks. -/
def execBsadj (c : BitVec 1) (a : BitVec 6) (b : BitVec 6) (f : BitVec 1) (s : State) : Host.Outcome State Fault Refusal :=
  perform (useEngine c [.us6 a, .us6 b])
    (solveBody true (f = 1) a b) s

end Sys2Proof.Machine
end

