-- ==== Sys2Proof/Machine/Chain.lean ====
section
/-! DEFINITION. The start and the run of engine commands, and command chains (13 R362 to R371). -/

namespace Sys2Proof.Machine

/-! ## Start and run of engine commands (03 R89, R90, 13 R359, R379) -/

/-- The lines of global memory that a command writes; the range from the lowest to the highest is to be owned (03 R89). -/
def State.ownedLines (s : State) (c : Cmd) : List Nat :=
  match c.kind.unit with
  | .request => s.requestLines c
  | .sort => s.physicsLines c
  | .traverse => s.physicsLines c
  | _ => []

/-- Whether a command's unit is free for it: the request engine has taken it up, another unit takes its commands in the core's order
once what their issue released is performed (13 R373, R379, 04 R128). -/
def State.mayStart (s : State) (c : Cmd) : Bool :=
  match c.kind.unit with
  | .request => c.phase = 1
  | .matrix => false
  | .port => false
  | u => c.phase = 0 && s.cmdReady c && !((s.core c.g.core).commands.any fun d => d.kind.unit = u && d.seq < c.seq)

/-- ENGINE_COMMAND_START: a command registers its ownership ranges, once they are granted in the order of the start requests (03 R90). -/
def execEngineCommandStart (core cmd : Nat) (s : State) : Host.Outcome State Fault Refusal :=
  match (s.core core).cmd? cmd with
  | none => happened s
  | some c =>
    let again := fun s : State => happened (s.post (.engineCommandStart core cmd))
    if 1 < c.phase ∨ c.kind.unit = .matrix ∨ c.kind.unit = .port then happened s
    else if !s.mayStart c then again s
    else
      match s.startRange (s.engOf c) c.hyp.toNat (s.ownedLines c) with
      | .waits s1 => again s1
      | .starts s1 => happened ((s1.modCmd core cmd fun c => { c with phase := 2 }).post (.engineCommandComplete core cmd))

/-- ENGINE_COMMAND_COMPLETE: a step of a command's run, up to its completion (03 R91 to R95, 13 R356 to R360, R372 to R379). -/
def execEngineCommandComplete (core cmd : Nat) (s : State) : Host.Outcome State Fault Refusal :=
  match (s.core core).cmd? cmd with
  | none => happened s
  | some c =>
    if c.phase < 2 then happened s
    else match c.kind.unit with
      | .request => happened (s.runRequest cmd c)
      | .matrix => happened s
      | .port => happened s
      | _ =>
        match s.team? c.g with
        | none => happened (s.endCmd core cmd)
        | some t => happened (s.runPhysics cmd c t.bind)

/-! ## Chains (13 R362 to R371) -/

/-- Changes a chain. -/
def State.modChain (s : State) (core n : Nat) (f : Chain → Chain) : State :=
  s.modCore core fun k => { k with chains := k.chains.set none n ((k.chains.get none n).map f) }

/-- A word that copies the whole reservation table takes a data error where an entry of it has a parity error (02 R73, R74). -/
def goodResvs (v : Env) (s : State) (k : Unit → Res) : Res :=
  match (liveGroup v s).resBad.find? fun h => (v.grp.resv h).isSome with
  | none => k ()
  | some h => goodResv h v s k

/-- `kick` (13 R362, R363). -/
def kickBody (a : BitVec 6) (v : Env) (s : State) : Res :=
  let u := v.grp.sget a.toNat
  let off := (u.extractLsb' 0 20).toNat
  let k := s.core v.r.core
  if u.extractLsb' 20 44 ≠ 0 then .trap (.atIssue 4 22)
  else if off % 32 ≠ 0 then .trap (trapAt 5 0 off)
  else if (engineHyp v s).2 then .trap (.atIssue 4 7)
  else match (List.range 4).find? fun n => (k.chains.get none n).isNone with
    | none => .wait
    | some n => goodResvs v s fun _ =>
      let f := s.fretOf v .b
      let h : Chain := { g := v.r, off := off, q := v.grp.q, res := v.grp.res, hyp := (engineHyp v s).1, counters := [], executed := 0,
                         status := 0, stopped := false, fret := f, after := (liveGroup v s).nextLog, since := (liveGroup v s).since }
      .done (((s.fretUp v.r f).modCore v.r.core fun k => { k with chains := k.chains.set none n (some h) }).post (.chainStop v.r.core n))

/-- A chain ends, with an error status or none; CHAIN_DONE follows its commands (13 R362, R370). -/
def State.stopChain (s : State) (core n : Nat) (st : BitVec 2) : State :=
  (s.modChain core n fun h => { h.record st with stopped := true }).postOnce (.chainDone core n)

/-- Whether a command that the chain started is still to complete. -/
def Core.chainBusy (k : Core) (n : Nat) : Bool := k.commands.any fun c => c.chain = some n

/-- An entry: header and three words (13 R364). -/
structure Entry where
  head : DWord
  w1 : DWord
  w2 : DWord
  w3 : DWord
  deriving DecidableEq, Repr

/-- TYPE. -/
def Entry.type (x : Entry) : Nat := (x.head.extractLsb' 0 8).toNat
/-- ARG. -/
def Entry.arg (x : Entry) : Nat := (x.head.extractLsb' 32 32).toNat
/-- RM. -/
def Entry.rm (x : Entry) : BitVec 3 := x.head.extractLsb' 10 3

/-- Whether a reserved field or value of a header is in use (13 R364, R370). -/
def Entry.badHead (x : Entry) : Bool :=
  let t := x.type
  decide (8 ≤ t) || x.head.extractLsb' 15 17 ≠ 0 || (t ≠ 5 && x.head.extractLsb' 13 2 ≠ 0) ||
    (if t = 1 ∨ t = 2 ∨ t = 3 then decide (5 ≤ x.rm.toNat) else x.rm ≠ 0) || (t ≠ 1 && x.head.getLsbD 9) ||
    (decide (t < 5) && x.arg ≠ 0)

/-- Whether the words of an entry use a reserved field (13 R365 to R369). -/
def Entry.badBody (x : Entry) : Bool :=
  match x.type with
  | 1 | 2 | 3 => x.w3 ≠ 0
  | 4 => x.w2.extractLsb' 53 11 ≠ 0 || x.w2.extractLsb' 29 8 ≠ 0 || x.w3.extractLsb' 14 50 ≠ 0 ||
      x.w2.extractLsb' 44 2 ≠ 0 || x.w2.extractLsb' 0 3 ≠ 0 || decide (512 ≤ (x.w2.extractLsb' 20 9).toNat)
  | 5 => x.w1.extractLsb' 20 44 ≠ 0 || x.w3.extractLsb' 10 54 ≠ 0 || x.w1.extractLsb' 0 5 ≠ 0
  | 6 => x.w1.extractLsb' 23 41 ≠ 0 || x.w1.getLsbD 22 || x.w1.extractLsb' 0 2 ≠ 0 || x.w2.extractLsb' 20 44 ≠ 0 || x.w2.extractLsb' 0 5 ≠ 0
  | 7 => x.w1.extractLsb' 30 34 ≠ 0 || x.w1.getLsbD 29 || x.w1.extractLsb' 0 2 ≠ 0
  | _ => false

/-- What an entry does once it runs: the state, and where the chain goes on; or it waits, or stops the chain with a status. -/
inductive Walked where
  | next (s : State) (off : Nat)
  | wait
  | stop (st : BitVec 2)

/-- A chain as an entry finds it: its core and number, the chain, its team. -/
structure ChainAt where
  core : Nat
  n : Nat
  h : Chain
  t : Team

/-- The team's window. -/
def ChainAt.win (x : ChainAt) : Win := ⟨x.core, x.h.g.slot, x.t.bind⟩

/-- The event that runs an entry of a type; an entry that cannot be read or has no type is met by CHAIN_STOP. -/
def chainEvent (core n : Nat) : Nat → Instr
  | 1 => .chainCopy core n
  | 2 => .chainGatherFill core n
  | 3 => .chainMulticast core n
  | 4 => .chainMaskWalk core n
  | 5 => .chainLoop core n
  | 6 => .chainConditional core n
  | 7 => .chainSignal core n
  | _ => .chainStop core n

/-- Reads a word of the team's window for a chain: its value, or the status that stops the chain. -/
def ChainAt.read (x : ChainAt) (s : State) (n off : Nat) : Nat ⊕ BitVec 2 :=
  if !s.engineReadable x.win off n then .inr 1
  else if s.scratchPoisoned x.core n (x.t.bind.spbase + off) then .inr 2
  else .inl (s.scratchRead x.core n (x.t.bind.spbase + off))

/-- The entry that a chain has reached, or the status that stops it (13 R370). -/
def ChainAt.entry (x : ChainAt) (s : State) : Entry ⊕ BitVec 2 :=
  if 65536 ≤ x.h.executed then .inr 1
  else match x.read s 32 x.h.off with
    | .inr st => .inr st
    | .inl y =>
      let w := fun k => BitVec.ofNat 64 (y / 2 ^ (64 * k))
      let e : Entry := ⟨w 0, w 1, w 2, w 3⟩
      if e.badHead || e.badBody then .inr 1 else .inl e

/-- A command that a chain starts (13 R363, R365). -/
def State.chainSubmit (s : State) (x : ChainAt) (kind : CmdKind) : State :=
  let c := { plainCmd kind x.h.g x.t.bind.part x.h.hyp with chain := some x.n, after := x.h.after, since := x.h.since }
  (s.addCmd c).postOnce (kind.unit.takeup x.core (s.core x.core).seq)

/-- Whether the base of a record that a loop moved still suits its format and swizzle (01 R22). -/
def placed (q : Option QReg) : Bool :=
  match q with
  | none => true
  | some q => let t := tenOf q.img; t.base % t.size = 0 && (t.swz ≠ 1 || t.base % 1024 = 0)

/-- A data entry: it runs as the word of its type (13 R365). -/
def dataEntry (op : Nat) (x : ChainAt) (e : Entry) (s : State) : Walked :=
  let op := if op = 0 ∧ e.head.getLsbD 9 then 1 else op
  let y : CopyCtx := ⟨x.h.q, x.h.res, x.t.bind, x.core⟩
  match copyTrap op e.w1 e.w2 y with
  | some _ => .stop 1
  | none =>
    if !placed (y.q.get none (cwQs e.w1)) || (cwDk e.w1 = 0 && !placed (y.q.get none (cwQd e.w1))) then .stop 1
    else if 16 ≤ (s.core x.core).requests.length then .wait
    else .next ((s.chainSubmit x (copyKind op e.rm e.w1 e.w2 y)).modGroup x.h.g fun g => { g with noFlush := g.noFlush || forbidsFlush op e.w2 })
      (x.h.off + 32)

/-- The products of a mask-walk, ascending, which read their slices from take-up on; it stops at the first that fails its checks (13 R366). -/
def maskProducts (x : ChainAt) (e : Entry) : List Nat → State → State × Bool
  | [], s => (s, true)
  | b :: rest, s =>
    let row := (e.w1.extractLsb' 0 9).toNat + b * (e.w2.extractLsb' 44 9).toNat
    let blk := (e.w1.extractLsb' 36 6).toNat + b * (e.w2.extractLsb' 38 6).toNat
    let tile := BitVec.ofNat 64 (e.w1.toNat - (e.w1.extractLsb' 0 9).toNat - (e.w1.extractLsb' 36 6).toNat * 2 ^ 36 + row % 512 + blk % 64 * 2 ^ 36)
    let sp := e.w3.getLsbD 11
    let tr := e.w3.getLsbD 12
    let vb := (e.w3.extractLsb' 4 7).toNat
    let r := x.h.res.get none (e.w3.extractLsb' 0 4).toNat
    if 512 ≤ row ∨ 64 ≤ blk then (s, false)
    else match s.team? x.h.g with
      | none => (s, false)
      | some t =>
        match productTrap sp tr tile r vb 1 (t.holdsExt x.h.g.grp) t.bind with
        | some _ => (s, false)
        | none =>
          let kind := CmdKind.mmad sp (e.w3.getLsbD 13) tr tile (r.getD ⟨0, 0⟩) vb []
          maskProducts x e rest ((s.chainSubmit x kind).enterRequests x.core)

/-- A mask-walk entry (13 R366). -/
def maskEntry (x : ChainAt) (e : Entry) (s : State) : Walked :=
  let n := (e.w2.extractLsb' 20 9).toNat + 1
  match x.read s ((n + 7) / 8) (e.w2.extractLsb' 0 20).toNat with
  | .inr st => .stop st
  | .inl mask =>
    let y := maskProducts x e ((List.range n).filter fun b => mask / 2 ^ b % 2 = 1) s
    .next (if y.2 then y.1 else y.1.stopChain x.core x.n 1) (x.h.off + 32)

/-- Adds signed bytes to BASE of a chain record (13 R367). -/
def bumpBase (q : Option QReg) (d : Word) : Option QReg :=
  q.map fun q => { q with img := setField q.img 0 56 ((Int.emod (field q.img 0 56 + d.toInt) (2 ^ 56)).toNat) }

/-- A loop entry (13 R367). -/
def loopEntry (x : ChainAt) (e : Entry) (s : State) : Walked :=
  let id := (e.head.extractLsb' 13 2).toNat
  let count := match x.h.counters.get 0 id with
    | 0 => e.arg
    | k + 1 => k
  if count = 0 then .next (s.modChain x.core x.n fun h => { h with counters := h.counters.set 0 id 0 }) (x.h.off + 32)
  else
    let bump := fun (on : Bool) (n : Nat) (d : Word) (q : Tbl (Option QReg)) => if on then q.set none n (bumpBase (q.get none n) d) else q
    .next (s.modChain x.core x.n fun h =>
      { h with
        counters := h.counters.set 0 id count
        q := bump (e.w3.getLsbD 9) (e.w3.extractLsb' 4 4).toNat (e.w2.extractLsb' 0 32)
          (bump (e.w3.getLsbD 8) (e.w3.extractLsb' 0 4).toNat (e.w2.extractLsb' 32 32) h.q) })
      (e.w1.extractLsb' 0 20).toNat

/-- A conditional entry (13 R368). -/
def condEntry (x : ChainAt) (e : Entry) (s : State) : Walked :=
  if (s.core x.core).chainBusy x.n then .wait
  else match x.read s 4 (e.w1.extractLsb' 0 20).toNat with
    | .inr st => .stop st
    | .inl y =>
      let holds := match (e.w1.extractLsb' 20 2).toNat with
        | 0 => decide (y = e.arg)
        | 1 => decide (y ≠ e.arg)
        | 2 => decide (y < e.arg)
        | _ => decide (e.arg ≤ y)
      .next s (if holds then (e.w2.extractLsb' 0 20).toNat else x.h.off + 32)

/-- A signal entry (13 R369). -/
def signalEntry (x : ChainAt) (e : Entry) (s : State) : Walked :=
  let i := (e.w1.extractLsb' 20 4).toNat
  let j := (e.w1.extractLsb' 24 3).toNat
  let off := (e.w1.extractLsb' 0 20).toNat
  let target := if !e.w1.getLsbD 27 then WinRes.here x.win
    else if x.t.shapeR ≤ i ∨ x.t.shapeC ≤ j then .gone else s.memberWin x.t x.h.g.slot i j
  if (s.core x.core).chainBusy x.n then .wait
  else match target with
    | .stalled => .wait
    | .gone => .stop 1
    | .here w =>
      let a := w.bind.spbase + off
      let add := e.w1.extractLsb' 28 1 = 1
      if !s.windowOk w off 4 then .stop 1
      else if add ∧ s.scratchPoisoned w.core 4 a then .stop 2
      else .next (s.scratchWrite w.core 4 a (if add then (s.scratchRead w.core 4 a + e.arg) % 2 ^ 32 else e.arg)) (x.h.off + 32)

/-- A chain's step at an entry, once what its `kick` released is performed (04 R128): the event of another type gives way to the event of the
entry's own (13 R370). -/
def State.walkChain (s : State) (core n type : Nat) (run : ChainAt → Entry → State → Walked) : State :=
  match (s.core core).chains.get none n with
  | none => s
  | some h =>
    match s.team? h.g with
    | none => s.stopChain core n 1
    | some t =>
      let x : ChainAt := ⟨core, n, h, t⟩
      if h.stopped then s.postOnce (.chainDone core n)
      else if !s.issueDone h.g h.after h.since then s.post (chainEvent core n type)
      else match x.entry s with
        | .inr st => s.stopChain core n st
        | .inl e =>
          if e.type ≠ type then s.post (chainEvent core n e.type)
          else if e.head.getLsbD 8 ∧ (s.core core).chainBusy n then s.post (chainEvent core n type)
          else match run x e s with
            | .wait => s.post (chainEvent core n type)
            | .stop st => s.stopChain core n st
            | .next s1 off => (s1.modChain core n fun h => { h with off := off, executed := h.executed + 1 }).post (chainEvent core n type)

/-- CHAIN_STOP: a stop entry, or an entry that stops the chain with an error (13 R369, R370). -/
def execChainStop (core chain : Nat) (s : State) : Host.Outcome State Fault Refusal :=
  happened (s.walkChain core chain 0 fun _ _ _ => .stop 0)

/-- CHAIN_COPY (13 R365). -/
def execChainCopy (core chain : Nat) (s : State) : Host.Outcome State Fault Refusal :=
  happened (s.walkChain core chain 1 (dataEntry 0))

/-- CHAIN_GATHER_FILL (13 R365). -/
def execChainGatherFill (core chain : Nat) (s : State) : Host.Outcome State Fault Refusal :=
  happened (s.walkChain core chain 2 (dataEntry 2))

/-- CHAIN_MULTICAST (13 R365). -/
def execChainMulticast (core chain : Nat) (s : State) : Host.Outcome State Fault Refusal :=
  happened (s.walkChain core chain 3 (dataEntry 3))

/-- CHAIN_MASK_WALK (13 R366). -/
def execChainMaskWalk (core chain : Nat) (s : State) : Host.Outcome State Fault Refusal :=
  happened (s.walkChain core chain 4 maskEntry)

/-- CHAIN_LOOP (13 R367). -/
def execChainLoop (core chain : Nat) (s : State) : Host.Outcome State Fault Refusal :=
  happened (s.walkChain core chain 5 loopEntry)

/-- CHAIN_CONDITIONAL (13 R368). -/
def execChainConditional (core chain : Nat) (s : State) : Host.Outcome State Fault Refusal :=
  happened (s.walkChain core chain 6 condEntry)

/-- CHAIN_SIGNAL (13 R369). -/
def execChainSignal (core chain : Nat) (s : State) : Host.Outcome State Fault Refusal :=
  happened (s.walkChain core chain 7 signalEntry)

/-- CHAIN_DONE: the chain has stopped and its commands are complete; the fret of its `kick` is decremented (13 R362). -/
def execChainDone (core chain : Nat) (s : State) : Host.Outcome State Fault Refusal :=
  match (s.core core).chains.get none chain with
  | none => happened s
  | some h =>
    if !h.stopped || (s.core core).chainBusy chain then happened s
    else
      let s1 := (s.fretDown h.g h.fret h.status).modCore core fun k => { k with chains := k.chains.set none chain none }
      let part := ((s.team? h.g).map fun t => t.bind.part).getD 0
      happened (if h.status = 2 ∧ s.policyB part then s1.policyKill core h.g.slot else s1)

/-- 13 R362, R363: starts a command chain. -/
def execKick (c : BitVec 1) (a : BitVec 6) (s : State) : Host.Outcome State Fault Refusal :=
  perform (useEngine c [.us6 a])
    (kickBody a) s

end Sys2Proof.Machine
end

