-- ==== Sys2Proof/Machine/Cmp.lean ====
section
/-! DEFINITION. The compare words (10 R261). -/

namespace Sys2Proof.Machine

/-- The combination of a condition with the old predicate: set, and, or, xor (10 R261). -/
def combine (k : BitVec 2) (t old : Bool) : Bool :=
  match k.toNat with
  | 0 => t
  | 1 => old && t
  | 2 => old || t
  | _ => old != t

/-- An integer compare: 64-bit values for TY 1 (10 R261). -/
def cmpIntBody (cond : Cond) (p : BitVec 3) (k t : BitVec 2) (a b : BitVec 7) (v : Env) (s : State) : Res :=
  lanePred p.toNat (fun v => maskOf fun l =>
    combine k (if t = 1 then cond.int (v.src2 a l) (v.src2 b l) else cond.int (v.src a l) (v.src b l))
      ((v.grp.pget p.toNat).getLsbD l)) v s

/-- The operand of a float compare: TY 2 and 3 take bits [15:0] (10 R261). -/
def cmpOperand (t : BitVec 2) (v : Env) (f : BitVec 7) (l : Nat) : Nat :=
  match t.toNat with
  | 0 => (v.src f l).toNat
  | 1 => (v.src2 f l).toNat
  | _ => (v.src f l).toNat % 2 ^ 16

/-- A lane of a float compare; FTZ does not apply (10 R261, 08 R215). -/
def cmpFloatLane (cond : Cond) (p : BitVec 3) (k t : BitVec 2) (a b : BitVec 7) (v : Env) (_ : Group) (l : Nat) : LaneOut :=
  let r := cond.float (tyFmt t) (cmpOperand t v a l) (cmpOperand t v b l)
  { preds := [(p.toNat, combine k r.1 ((v.grp.pget p.toNat).getLsbD l))], flags := r.2 }

/-- 10 R261: the integer condition eq, combined with the old predicate under PC. -/
def execCmpEq (c : BitVec 1) (p : BitVec 3) (k : BitVec 2) (t : BitVec 2) (a : BitVec 7) (b : BitVec 7) (s : State) : Host.Outcome State Fault Refusal :=
  perform (useCmpInt c p t a b k)
    (cmpIntBody .eq p k t a b) s

/-- 10 R261: the integer condition ne, combined with the old predicate under PC. -/
def execCmpNe (c : BitVec 1) (p : BitVec 3) (k : BitVec 2) (t : BitVec 2) (a : BitVec 7) (b : BitVec 7) (s : State) : Host.Outcome State Fault Refusal :=
  perform (useCmpInt c p t a b k)
    (cmpIntBody .ne p k t a b) s

/-- 10 R261: the integer condition lt, combined with the old predicate under PC. -/
def execCmpLt (c : BitVec 1) (p : BitVec 3) (k : BitVec 2) (t : BitVec 2) (a : BitVec 7) (b : BitVec 7) (s : State) : Host.Outcome State Fault Refusal :=
  perform (useCmpInt c p t a b k)
    (cmpIntBody .lt p k t a b) s

/-- 10 R261: the integer condition le, combined with the old predicate under PC. -/
def execCmpLe (c : BitVec 1) (p : BitVec 3) (k : BitVec 2) (t : BitVec 2) (a : BitVec 7) (b : BitVec 7) (s : State) : Host.Outcome State Fault Refusal :=
  perform (useCmpInt c p t a b k)
    (cmpIntBody .le p k t a b) s

/-- 10 R261: the integer condition gt, combined with the old predicate under PC. -/
def execCmpGt (c : BitVec 1) (p : BitVec 3) (k : BitVec 2) (t : BitVec 2) (a : BitVec 7) (b : BitVec 7) (s : State) : Host.Outcome State Fault Refusal :=
  perform (useCmpInt c p t a b k)
    (cmpIntBody .gt p k t a b) s

/-- 10 R261: the integer condition ge, combined with the old predicate under PC. -/
def execCmpGe (c : BitVec 1) (p : BitVec 3) (k : BitVec 2) (t : BitVec 2) (a : BitVec 7) (b : BitVec 7) (s : State) : Host.Outcome State Fault Refusal :=
  perform (useCmpInt c p t a b k)
    (cmpIntBody .ge p k t a b) s

/-- 10 R261: the integer condition ltu, combined with the old predicate under PC. -/
def execCmpLtu (c : BitVec 1) (p : BitVec 3) (k : BitVec 2) (t : BitVec 2) (a : BitVec 7) (b : BitVec 7) (s : State) : Host.Outcome State Fault Refusal :=
  perform (useCmpInt c p t a b k)
    (cmpIntBody .ltu p k t a b) s

/-- 10 R261: the integer condition leu, combined with the old predicate under PC. -/
def execCmpLeu (c : BitVec 1) (p : BitVec 3) (k : BitVec 2) (t : BitVec 2) (a : BitVec 7) (b : BitVec 7) (s : State) : Host.Outcome State Fault Refusal :=
  perform (useCmpInt c p t a b k)
    (cmpIntBody .leu p k t a b) s

/-- 10 R261: the integer condition gtu, combined with the old predicate under PC. -/
def execCmpGtu (c : BitVec 1) (p : BitVec 3) (k : BitVec 2) (t : BitVec 2) (a : BitVec 7) (b : BitVec 7) (s : State) : Host.Outcome State Fault Refusal :=
  perform (useCmpInt c p t a b k)
    (cmpIntBody .gtu p k t a b) s

/-- 10 R261: the integer condition geu, combined with the old predicate under PC. -/
def execCmpGeu (c : BitVec 1) (p : BitVec 3) (k : BitVec 2) (t : BitVec 2) (a : BitVec 7) (b : BitVec 7) (s : State) : Host.Outcome State Fault Refusal :=
  perform (useCmpInt c p t a b k)
    (cmpIntBody .geu p k t a b) s

/-- 10 R261: the float condition feq, with its NV rule. -/
def execCmpFeq (c : BitVec 1) (p : BitVec 3) (k : BitVec 2) (t : BitVec 2) (a : BitVec 7) (b : BitVec 7) (s : State) : Host.Outcome State Fault Refusal :=
  perform (useCmp c p t a b k)
    (laneBody (cmpFloatLane .feq p k t a b)) s

/-- 10 R261: the float condition fne, with its NV rule. -/
def execCmpFne (c : BitVec 1) (p : BitVec 3) (k : BitVec 2) (t : BitVec 2) (a : BitVec 7) (b : BitVec 7) (s : State) : Host.Outcome State Fault Refusal :=
  perform (useCmp c p t a b k)
    (laneBody (cmpFloatLane .fne p k t a b)) s

/-- 10 R261: the float condition flt, with its NV rule. -/
def execCmpFlt (c : BitVec 1) (p : BitVec 3) (k : BitVec 2) (t : BitVec 2) (a : BitVec 7) (b : BitVec 7) (s : State) : Host.Outcome State Fault Refusal :=
  perform (useCmp c p t a b k)
    (laneBody (cmpFloatLane .flt p k t a b)) s

/-- 10 R261: the float condition fle, with its NV rule. -/
def execCmpFle (c : BitVec 1) (p : BitVec 3) (k : BitVec 2) (t : BitVec 2) (a : BitVec 7) (b : BitVec 7) (s : State) : Host.Outcome State Fault Refusal :=
  perform (useCmp c p t a b k)
    (laneBody (cmpFloatLane .fle p k t a b)) s

/-- 10 R261: the float condition fgt, with its NV rule. -/
def execCmpFgt (c : BitVec 1) (p : BitVec 3) (k : BitVec 2) (t : BitVec 2) (a : BitVec 7) (b : BitVec 7) (s : State) : Host.Outcome State Fault Refusal :=
  perform (useCmp c p t a b k)
    (laneBody (cmpFloatLane .fgt p k t a b)) s

/-- 10 R261: the float condition fge, with its NV rule. -/
def execCmpFge (c : BitVec 1) (p : BitVec 3) (k : BitVec 2) (t : BitVec 2) (a : BitVec 7) (b : BitVec 7) (s : State) : Host.Outcome State Fault Refusal :=
  perform (useCmp c p t a b k)
    (laneBody (cmpFloatLane .fge p k t a b)) s

/-- 10 R261: the float condition fun, with its NV rule. -/
def execCmpFun (c : BitVec 1) (p : BitVec 3) (k : BitVec 2) (t : BitVec 2) (a : BitVec 7) (b : BitVec 7) (s : State) : Host.Outcome State Fault Refusal :=
  perform (useCmp c p t a b k)
    (laneBody (cmpFloatLane .fun_ p k t a b)) s

/-- 10 R261: the float condition ford, with its NV rule. -/
def execCmpFord (c : BitVec 1) (p : BitVec 3) (k : BitVec 2) (t : BitVec 2) (a : BitVec 7) (b : BitVec 7) (s : State) : Host.Outcome State Fault Refusal :=
  perform (useCmp c p t a b k)
    (laneBody (cmpFloatLane .ford p k t a b)) s

end Sys2Proof.Machine
end

