-- ==== Sys2Proof/Machine/Packet.lean ====
section
/-! DEFINITION. Launch queues and their packets, the end of a launch, `mcall` (14 R383 to R388, R398, 10 R278). -/

namespace Sys2Proof.Machine

/-! ## Chihoat's accesses to a partition's memory -/

/-- Chihoat writes bytes within one line at a virtual address; a page that is not mapped takes none. -/
def State.rootWrite (s : State) (part n va x : Nat) : State :=
  match s.walk part va with
  | .fault _ => s
  | .leaf e b _ =>
    let pa := leafAddr e b va
    if placeOf pa = .hbm then s.agentWrite pa n x
    else match s.forwarding pa (pteOwner e) with
      | .open_ => s.forwardedWrite pa (pteOwner e) n x (2 ^ n - 1)
      | .refused => s
      | .broken => s.loseStore

/-- The bytes of a range of virtual addresses, each read in the root view; none if one is not readable. -/
def State.rootBytes (s : State) (part : Nat) : (n va : Nat) → Option Nat
  | 0, _ => some 0
  | n + 1, va =>
    match s.rootRead part 1 va, State.rootBytes s part n (va + 1) with
    | some b, some x => some (b + 256 * x)
    | _, _ => none

/-- A write that may cross a line is made in two parts. -/
def State.rootStore (s : State) (part n va x : Nat) : State :=
  let k := 128 - va % 128
  if n ≤ k then s.rootWrite part n va x else (s.rootWrite part k va (x % 2 ^ (8 * k))).rootWrite part (n - k) (va + k) (x / 2 ^ (8 * k))

/-! ## Launch queues (14 R383) -/

/-- A queue when its partition is created (14 R386). -/
def LQueue.empty : LQueue :=
  { prod := 0, cons := 0, ignored := 0, level := 0, nbv := 1, depWait := none, held := false, drainTo := none, batch := none }

/-- A launch queue of a partition. -/
def Part.lq (p : Part) (q : Nat) : LQueue := p.queues.get LQueue.empty q

/-- Changes a launch queue. -/
def State.modLq (s : State) (part q : Nat) (f : LQueue → LQueue) : State :=
  s.modPart part fun p => { p with queues := p.queues.set LQueue.empty q (f (p.lq q)) }

/-- The physical address of packet slot n of a queue (14 R383, 21 R460). -/
def Part.ringAt (p : Part) (q n : Nat) : Nat := p.lqBase + 64 * (2 ^ p.lqn * q + n % 2 ^ p.lqn)

/-- The packets that a queue holds. -/
def LQueue.count (k : LQueue) : Nat := (k.prod - k.cons).toNat

/-- Whether the packet at the head of a queue may be taken up (14 R386, R388, R398). -/
def LQueue.mayTake (k : LQueue) : Bool := decide (k.prod ≠ k.cons) && k.depWait.isNone && !k.held && k.drainTo.isNone

/-- The packet at the head of a queue. -/
def State.headPacket (s : State) (p : Part) (q : Nat) : BitVec 512 := BitVec.ofNat 512 (s.hbm.read 64 (p.ringAt q (p.lq q).cons.toNat))

/-- TYPE of a packet (14 R385). -/
def packetType (x : BitVec 512) : Nat := field x 0 8

/-- TAG of a packet. -/
def packetTag (x : BitVec 512) : Nat := field x 32 32

/-- REBUILD of a type 5 packet, DRAIN of a type 3 packet, MODEV of a launch. -/
def packetFlag (x : BitVec 512) : Bool := field x 8 1 = 1

/-- The event that takes a packet up. -/
def packetEvent (part q : Nat) (x : BitVec 512) : Instr :=
  match packetType x with
  | 2 => .pktDependenceWait part q
  | 3 => .pktSetDeterminism part q
  | 4 => .pktSetNbv part q
  | 5 => if packetFlag x then .pktCommRebuild part q else .pktCommCreate part q
  | 6 => .pktEnergyEstimate part q
  | 7 => .pktSpillGrant part q
  | _ => .pktLaunch part q

/-- Whether an event takes up a packet of a partition. -/
def takesUp (part : Nat) : Instr → Bool
  | .pktLaunch p _ | .pktDependenceWait p _ | .pktSetDeterminism p _ | .pktSetNbv p _ | .pktCommCreate p _ | .pktCommRebuild p _
  | .pktEnergyEstimate p _ | .pktSpillGrant p _ => p = part
  | _ => false

/-- Chihoat serves the queues of a partition in turn (14 R386): the next packet is to be taken up. -/
def State.serve (s : State) (part : Nat) : State :=
  match s.part? part with
  | none => s
  | some p =>
    if p.resetting || s.pending.any (takesUp part) then s
    else match ((List.range 16).map fun k => (p.next + k) % 16).find? fun q => (p.lq q).mayTake with
      | none => s
      | some q => s.post (packetEvent part q (s.headPacket p q))

/-- The packet at the head of a queue has been taken up (14 R383, R386). -/
def State.taken (s : State) (part q : Nat) : State :=
  (s.modLq part q fun k => { k with cons := k.cons + 1 }).modPart part fun p => { p with next := (q + 1) % 16 }

/-- A packet that fails completes; one that is no launch posts an event (14 R387). -/
def State.failPacket (s : State) (part q : Nat) : State := (s.taken part q).postEvent

/-- An event takes up the head packet of a queue when that packet is its own; `k` does what the packet says (14 R386). -/
def takeUp (part q : Nat) (e : Instr) (s : State) (k : Part → BitVec 512 → State) : Host.Outcome State Fault Refusal :=
  match s.part? part with
  | none => happened s
  | some p =>
    let x := s.headPacket p q
    if p.resetting || 16 ≤ q || !(p.lq q).mayTake || packetEvent part q x ≠ e then happened (s.serve part)
    else happened ((k p x).serve part)

/-- Whether a packet has bits only in the listed fields (14 R385). -/
def onlyFields {w : Nat} (x : BitVec w) (fs : List (Nat × Nat)) : Bool :=
  x.toNat = fs.foldl (fun n f => n + field x f.1 f.2 * 2 ^ f.1) 0

/-- TYPE and TAG of the header. -/
def headerFields : List (Nat × Nat) := [(0, 8), (32, 32)]

/-! ## Doorbells (14 R383, 16 R422, R425) -/

/-- A doorbell is served once the features are committed and bring-up is over (16 R425, 21 R454). -/
def State.open_ (s : State) : Bool := s.modl.featDone && s.modl.bringup = 8

/-- DOORBELL_WRITE: the host offers a new PROD; one that would overfill the queue, or that is lower, is counted as ignored (14 R383, 16
R422). -/
def execDoorbellWrite (part queue : Nat) (prod : BitVec 32) (s : State) : Host.Outcome State Fault Refusal :=
  match s.part? part with
  | none => happened s
  | some p =>
    if !s.open_ || 16 ≤ queue then happened s
    else
      let k := p.lq queue
      let n := (prod - k.cons).toNat
      if 2 ^ p.lqn < n ∨ n < k.count then
        happened (s.modLq part queue fun k => { k with ignored := if k.ignored = 0xFFFF then k.ignored else k.ignored + 1 })
      else happened ((s.modLq part queue fun k => { k with prod := prod }).serve part)

/-- DOORBELL_IGNORED_CLEAR: a write of 0 clears IGNORED (16 R422). -/
def execDoorbellIgnoredClear (part queue : Nat) (value : DWord) (s : State) : Host.Outcome State Fault Refusal :=
  happened (if value = 0 ∧ queue < 16 then s.modLq part queue fun k => { k with ignored := 0 } else s)

/-! ## Launches (14 R385 to R388, R391) -/

/-- The fields of a launch packet (14 R385). -/
def launchFields : List (Nat × Nat) :=
  [(0, 8), (8, 2), (32, 32), (64, 56), (128, 64), (192, 64), (256, 64), (320, 64), (384, 64), (448, 64)]

/-- Whether a launch packet is malformed (14 R385). -/
def launchMalformed (x : BitVec 512) : Bool :=
  packetType x ≠ 1 || !onlyFields x launchFields || field x 192 32 = 0 || (!packetFlag x && field x 224 32 ≠ 0)

/-- A completion record (14 R387). -/
def completion (x : BitVec 512) (status : Nat) : Nat := packetTag x * 2 ^ 32 + status * 2 ^ 8 + packetType x

/-- Writes the completion record of a launch packet, if it names one (14 R387). -/
def State.complete (s : State) (part : Nat) (x : BitVec 512) (status : Nat) : State :=
  let va := field x 384 56
  if va = 0 then s else s.rootStore part 8 va (completion x status)

/-- Whether a cluster shape is one of 07 R179. -/
def shapeOk (a b : Nat) : Bool :=
  (a = 1 && decide (1 ≤ b ∧ b ≤ 8)) || (a = 2 && decide (1 ≤ b ∧ b ≤ 6)) || (a = 3 && b = 4) || (a = 4 && b = 3) ||
    (a = 6 && b = 2) || (a = 12 && b = 1)

/-- Whether a mode word is legal (08 R210). -/
def modeOk (m : Word) : Bool := m.extractLsb' 8 24 = 0 && !m.getLsbD 3 && decide (m.extractLsb' 0 3 < (6 : BitVec 3))

/-- Whether a logical core of a die belongs to a partition (21 R459). -/
def Part.hasCore (p : Part) (die row col : Nat) : Bool := p.units.contains (8 * die + 2 * (row / 3) + col / 4)

/-- The canonical list of a cluster shape: the origins whose rectangle lies in the partition, by die, row, column (14 R391). -/
def Part.canonical (p : Part) (a b : Nat) (dies : Option (BitVec 12)) : List (Nat × Nat × Nat) :=
  (List.range 12).flatMap fun d => (List.range (13 - a)).flatMap fun r => (List.range (9 - b)).filterMap fun c =>
    if (dies.all fun m => m.getLsbD d) && (List.range a).all (fun i => (List.range b).all fun j => p.hasCore d (r + i) (c + j)) then
      some (d, r, c)
    else none

/-- DIEMASK of a launch packet, if it restricts placement (14 R391). -/
def packetDies (x : BitVec 512) : Option (BitVec 12) := if field x 9 1 = 1 then some (BitVec.ofNat 12 (field x 468 12)) else none

/-- MODE of the launch (08 R210). -/
def packetMode (x : BitVec 512) (k : KImage) : Word := if packetFlag x then BitVec.ofNat 32 (field x 224 32) else k.mode

/-- Whether a launch is refused with STATUS 3 at take-up (14 R387). -/
def launchRefused (p : Part) (q : LQueue) (x : BitVec 512) (k : KImage) : Bool :=
  let nbv := if field x 440 8 = 0 then q.nbv.toNat else field x 440 8
  !shapeOk k.shapeR k.shapeC || k.lanes = 0 || decide (1024 < k.lanes) || !modeOk (packetMode x k) || nbv ≠ 1 || k.nbv ≠ 1 ||
    decide (q.level.toNat < k.det) || (p.canonical k.shapeR k.shapeC (packetDies x)).isEmpty

/-- The logical place that a word of the kernel's code names (01 R19). -/
def State.logicalPlace (s : State) (part kimg : Nat) (k : KImage) (off : Nat) : Option (Nat × Nat) :=
  (s.rootBytes part 4 (kimg + k.codeOff + off)).map fun w => (w / 2 ^ 14 % 16, w / 2 ^ 11 % 8)

/-- Whether an entry of the relocation table is refused: its SLOT, a place outside the shape (01 R19). For a WORDOFF that is no multiple of 4,
or past the code, the spec names no outcome; here the launch is refused with STATUS 2 as well (log entry 100, DESIGN CHOICE). -/
def State.badReloc (s : State) (part kimg : Nat) (k : KImage) (e : Nat × Nat) : Bool :=
  e.2 ≠ 0 || e.1 % 4 ≠ 0 || decide (k.codeLen < e.1 + 4) || match s.logicalPlace part kimg k e.1 with
    | none => true
    | some (i, j) => decide (k.shapeR ≤ i) || decide (k.shapeC ≤ j)

/-- The kernel image that Chihoat finds at KIMG (14 R387). -/
def State.findImage (s : State) (part kimg : Nat) : Option KImage :=
  if (s.rootRead part 1 kimg).isSome then Config.kernelImage s.choices else none

/-- The lowest launch id that is not in use (14 R389). -/
def State.freeLaunch (s : State) : Option Nat := (List.range 65536).find? fun i => (s.launch? i).isNone

/-- A launch as its packet and image give it (14 R385, R389, 08 R217). -/
def launchOf (part queue : Nat) (q : LQueue) (x : BitVec 512) (k : KImage) : Launch :=
  { part := part, queue := queue, tag := BitVec.ofNat 32 (packetTag x), kimg := field x 64 56, image := k,
    seed := if field x 128 64 = 0 then k.seed else BitVec.ofNat 64 (field x 128 64), mode := packetMode x k,
    nclus := field x 192 32, arg0 := BitVec.ofNat 64 (field x 256 64), arg1 := BitVec.ofNat 64 (field x 320 64),
    compl := field x 384 56, stealto := if field x 480 32 = 0 then 65536 else field x 480 32,
    dieMask := BitVec.ofNat 12 (field x 468 12), hinted := field x 9 1 = 1, level := q.level, eest := field x 448 20,
    nextCluster := 0, clusters := [], copies := [], doneWords := [], status := 0 }

/-- A launch is taken up: it is refused, or it waits for the placement of its clusters (14 R386, R387, 01 R19). -/
def State.startLaunch (s : State) (p : Part) (part queue : Nat) (x : BitVec 512) : State :=
  let kimg := field x 64 56
  let s1 := { s.taken part queue with choices := s.choices + 1 }
  match s.findImage part kimg with
  | none => s1.complete part x 3
  | some k =>
    if launchRefused p (p.lq queue) x k then s1.complete part x 3
    else if k.relocs.any (s.badReloc part kimg k) then s1.complete part x 2
    else match s.freeLaunch with
      | none => s
      | some id =>
        ({ s1.modPart part fun p => { p with order := p.order ++ [id] } with
          launches := s1.launches.set none id (some (launchOf part queue (p.lq queue) x k)) }).postOnce
            (.clusterPlace (p.order.headD id))

/-- The estimate against which the launch at the head of a queue is admitted, and the batch that is left (14 R388). -/
def LQueue.estimate (k : LQueue) (x : BitVec 512) : Nat × Option (Nat × Nat) :=
  match k.batch with
  | none => (field x 448 20, none)
  | some (n, e) => (e, if n ≤ 1 then none else some (n - 1, 0))

/-- Whether a launch must be held until the next interval (14 R388); one that asks for nothing, such as a later one of a batch, never is. -/
def Part.holds (p : Part) (est : Nat) : Bool := est ≠ 0 && decide (p.budget < p.committed + est) && p.committed ≠ 0

/-- A launch packet: malformed, held, or admitted against the budget (14 R385, R387, R388). -/
def State.admission (s : State) (p : Part) (part queue : Nat) (x : BitVec 512) : State :=
  let est := (p.lq queue).estimate x
  if packetType x ≠ 1 then s.failPacket part queue
  else if launchMalformed x then
    ((s.modLq part queue fun k => { k with batch := est.2 }).taken part queue).complete part x 5
  else if p.holds est.1 then s.modLq part queue fun k => { k with held := true }
  else ((s.modLq part queue fun k => { k with batch := est.2 }).modPart part fun p => { p with committed := p.committed + est.1 }).startLaunch
    p part queue x

/-- PKT_LAUNCH: a launch packet is taken up when it is admitted (14 R386 to R388). -/
def execPktLaunch (part queue : Nat) (s : State) : Host.Outcome State Fault Refusal :=
  takeUp part queue (.pktLaunch part queue) s fun p x => s.admission p part queue x

/-! ## The other packets (14 R386, R388, R398, 05 R153) -/

/-- PKT_DEPENDENCE_WAIT: the queue is held until the word satisfies WOP (14 R386). -/
def execPktDependenceWait (part queue : Nat) (s : State) : Host.Outcome State Fault Refusal :=
  takeUp part queue (.pktDependenceWait part queue) s fun _ x =>
    if !onlyFields x ([(64, 56), (128, 64), (192, 1)] ++ headerFields) || field x 64 56 % 8 ≠ 0 then s.failPacket part queue
    else ((s.taken part queue).modLq part queue fun k =>
        { k with depWait := some (field x 64 56, BitVec.ofNat 64 (field x 128 64), field x 192 1 = 1) }).post
      (.dependenceWaitPoll part queue)

/-- Whether a word satisfies a dependence wait (14 R385). -/
def depHolds (w v : Nat) (ge : Bool) : Bool := if ge then decide (v ≤ w) else w = v

/-- DEPENDENCE_WAIT_POLL: the awaited word is read in the root view; the queue goes on once it satisfies the wait (14 R386). -/
def execDependenceWaitPoll (part queue : Nat) (s : State) : Host.Outcome State Fault Refusal :=
  match (s.part? part).bind fun p => (p.lq queue).depWait with
  | none => happened s
  | some (a, v, ge) =>
    let free := s.modLq part queue fun k => { k with depWait := none }
    match s.rootRead part 8 a with
    | none => happened (free.postEvent.serve part)
    | some w => happened (if depHolds w v.toNat ge then free.serve part else s.post (.dependenceWaitPoll part queue))

/-- A queue that waits for its earlier launches takes its new level when none is left (14 R398). -/
def State.endDrain (s : State) (part queue : Nat) : State :=
  match (s.part? part).bind fun p => (p.lq queue).drainTo with
  | none => s
  | some lv =>
    if s.launches.any fun l => l.2.any fun l => l.part = part && l.queue = queue then s
    else s.modLq part queue fun k => { k with drainTo := none, level := lv }

/-- PKT_SET_DETERMINISM: the level of later launches, at once or once the earlier ones have finished (14 R398, 16 R425). -/
def execPktSetDeterminism (part queue : Nat) (s : State) : Host.Outcome State Fault Refusal :=
  takeUp part queue (.pktSetDeterminism part queue) s fun _ x =>
    let lv := BitVec.ofNat 2 (field x 64 2)
    if !onlyFields x ([(8, 1), (64, 2)] ++ headerFields) || lv = 3 || (lv = 2 && !s.feature 4) then s.failPacket part queue
    else
      let s1 := s.taken part queue
      if packetFlag x then (s1.modLq part queue fun k => { k with drainTo := some lv }).endDrain part queue
      else s1.modLq part queue fun k => { k with level := lv }

/-- PKT_SET_NBV: the version of later launches; only 1 is accepted (14 R385). -/
def execPktSetNbv (part queue : Nat) (s : State) : Host.Outcome State Fault Refusal :=
  takeUp part queue (.pktSetNbv part queue) s fun _ x =>
    if !onlyFields x ((64, 8) :: headerFields) || field x 64 8 ≠ 1 then s.failPacket part queue
    else (s.taken part queue).modLq part queue fun k => { k with nbv := 1 }

/-- PKT_ENERGY_ESTIMATE: one estimate for the next NL launch packets (14 R388). -/
def execPktEnergyEstimate (part queue : Nat) (s : State) : Host.Outcome State Fault Refusal :=
  takeUp part queue (.pktEnergyEstimate part queue) s fun _ x =>
    if !onlyFields x ([(64, 20), (96, 16)] ++ headerFields) || field x 96 16 = 0 then s.failPacket part queue
    else (s.taken part queue).modLq part queue fun k => { k with batch := some (field x 96 16, field x 64 20) }

/-- Whether two ranges of physical addresses overlap. -/
def Extent.overlaps (a b : Extent) : Bool := decide (a.base < b.base + b.size) && decide (b.base < a.base + a.size)

/-- The extents of every partition. -/
def State.allExtents (s : State) : List Extent := s.parts.flatMap fun p => (p.2.map (·.extents)).getD []

/-- The extent that a grant packet describes; none if the controller refuses it: a region that overlaps another extent, whichever
partition's, is (05 R153). -/
def grantExtent (all : List Extent) (p : Part) (x : BitVec 512) : Option Extent :=
  let e : Extent := ⟨field x 80 36 * 65536, field x 64 5⟩
  if !onlyFields x ([(64, 5), (80, 36), (127, 1)] ++ headerFields) || decide (e.lb < 6) || decide (20 < e.lb) ||
      decide (2 ^ 40 < e.base + e.size) || all.any e.overlaps || decide (4 ≤ p.extents.length) then none
  else some e

/-- PKT_SPILL_GRANT: an extent is added to the partition's spill area (05 R153, R155). The spec does not say what the index region of a new
extent holds; here the grant clears nothing, and the V bits are those that HBM holds (log entry 103, DESIGN CHOICE). -/
def execPktSpillGrant (part queue : Nat) (s : State) : Host.Outcome State Fault Refusal :=
  takeUp part queue (.pktSpillGrant part queue) s fun p x =>
    match grantExtent s.allExtents p x with
    | none => s.failPacket part queue
    | some e =>
      if field x 127 1 = 0 then s.taken part queue
      else (s.taken part queue).modPart part fun p => { p with extents := p.extents ++ [e], capWaits := none }

/-! ## The end of a launch (14 R387, 01 R19) -/

/-- The members of a cluster of a launch are all gone (09 R236). -/
def Launch.clusterGone (l : Launch) (c : Cluster) : Bool :=
  (List.range l.image.shapeR).all fun i => (List.range l.image.shapeC).all fun j => (c.members.get (0, 0, 0) (8 * i + j)).1 = 2

/-- Every team of every cluster has exited and released its slot. -/
def State.launchOver (s : State) (id : Nat) (l : Launch) : Bool :=
  l.nextCluster = l.nclus && l.clusters.all l.clusterGone &&
    !(s.cores.any fun k => k.2.teams.any fun t => t.2.any fun t => t.bind.launch = id)

/-- LAUNCH_COMPLETE: the completion record is written once every global write has been applied at its home (14 R387, 03 R95). -/
def execLaunchComplete (launch : Nat) (s : State) : Host.Outcome State Fault Refusal :=
  match s.launch? launch with
  | none => happened s
  | some l =>
    if !s.launchOver launch l then happened s
    else
      let dirty := (List.range 12).filter fun d => !s.dieQuiet d
      if !dirty.isEmpty then
        happened ((dirty.foldl (fun s d => s.postOnce (.rootWriteBatchSend d)) s).post (.launchComplete launch))
      else
        let s1 := if l.compl = 0 then s
          else s.rootStore l.part 8 l.compl (l.tag.toNat * 2 ^ 32 + l.status.toNat * 2 ^ 8 + 1)
        let s2 : State := { s1 with launches := s1.launches.set none launch none }
        happened ((s2.endDrain l.part l.queue).serve l.part)

/-! ## `mcall` (10 R278, 14 R384) -/

/-- What the queue hardware answers to a packet (14 R384): 2 malformed, 1 full, 0 accepted. -/
def callAnswer (p : Option Part) (q ty : Nat) : DWord :=
  match p with
  | none => 2
  | some p => if 16 ≤ q ∨ ty = 0 ∨ 8 ≤ ty then 2 else if (p.lq q).count = 2 ^ p.lqn then 1 else 0

/-- An accepted packet is written and PROD advanced as one step (14 R383). -/
def State.putPacket (s : State) (part q x : Nat) : State :=
  match s.part? part with
  | none => s
  | some p => ((s.agentWrite (p.ringAt q (p.lq q).prod.toNat) 64 x).modLq part q fun k => { k with prod := k.prod + 1 }).serve part

/-- `mcall` (10 R278). -/
def mcallBody (d a b : BitVec 7) (v : Env) (s : State) : Res :=
  let off := (v.usrc a).toNat
  let q := (v.usrc b).toNat
  let t := v.team.bind
  if off % 64 ≠ 0 then .trap { Trap.atIssue 5 0 with addr := off }
  else if decide (t.spsize < off + 64) || s.queueStorage ⟨v.r.core, v.r.slot, t⟩ off 64 then .trap { Trap.atIssue 4 0 with addr := off }
  else releaseThen 6 v s fun s =>
    if s.scratchPoisoned v.r.core 64 (t.spbase + off) then dataError v s none
    else
      let x := s.scratchRead v.r.core 64 (t.spbase + off)
      let n := callAnswer (s.part? v.part) q (x % 256)
      let s1 := if n = 0 then s.putPacket v.part q x else s
      .done (s1.modGroup v.r fun g => g.sset d.toNat n)

/-- 10 R278: hands a packet to a launch queue. -/
def execMcall (c : BitVec 1) (d : BitVec 7) (a : BitVec 7) (b : BitVec 7) (s : State) : Host.Outcome State Fault Refusal :=
  perform ({ c := c, ops := [.ud d, .us a, .us b], orph := .free, once := true, pin := true })
    (mcallBody d a b) s

end Sys2Proof.Machine
end

