-- ==== Sys2Proof/Machine/Collect.lean ====
section
/-! DEFINITION. Communicators and collective commands (16 R430 to R438). -/

namespace Sys2Proof.Machine

/-! ## Control block and rings (16 R431, R435) -/

/-- PROD at offset 0 and CONS at offset 8 of the control block, in the root view; zero where it is not readable. -/
def State.commCount (s : State) (c : Comm) (off : Nat) : DWord := BitVec.ofNat 64 ((s.rootRead c.part 8 (c.ctl + off)).getD 0)

/-- PROD. -/
def State.commProd (s : State) (c : Comm) : DWord := s.commCount c 0
/-- CONS. -/
def State.commCons (s : State) (c : Comm) : DWord := s.commCount c 8

/-- The entries of the rings. -/
def Comm.entries (c : Comm) : Nat := 2 ^ c.lring

/-- The command at a ring position, in the root view (16 R431, R432). -/
def State.commCommand (s : State) (c : Comm) (k : Nat) : Option (BitVec 512) :=
  (s.rootRead c.part 64 (c.ring + 64 * (k % c.entries))).map (BitVec.ofNat 512)

/-- The completion entry of a ring position is written (16 R435). -/
def State.commEntry (s : State) (c : Comm) (k tag status : Nat) : State :=
  s.rootWrite c.part 8 (c.compl + 8 * (k % c.entries)) (tag * 2 ^ 32 + status)

/-- CONS is advanced. -/
def State.setCons (s : State) (c : Comm) (k : DWord) : State := s.rootWrite c.part 8 (c.ctl + 8) k.toNat

/-! ## Commands (16 R432, R436) -/

/-- KIND of a command. -/
def commKind (x : BitVec 512) : Nat := field x 0 4
/-- OP. -/
def commOp (x : BitVec 512) : Nat := field x 4 4
/-- ROOTM. -/
def commRoot (x : BitVec 512) : Nat := field x 20 12
/-- TAG. -/
def commTag (x : BitVec 512) : Nat := field x 32 32
/-- SRC. -/
def commSrc (x : BitVec 512) : Nat := field x 64 56
/-- DST. -/
def commDst (x : BitVec 512) : Nat := field x 128 56
/-- LEN. -/
def commLen (x : BitVec 512) : Nat := field x 192 32

/-- The fields of a command. -/
def commFields : List (Nat × Nat) := [(0, 8), (20, 12), (32, 32), (64, 56), (128, 56), (192, 32)]

/-- Whether a command sets a reserved field or value, or SRC or DST is misaligned (16 R436). -/
def commMalformed (c : Comm) (x : BitVec 512) : Bool :=
  !onlyFields x commFields || decide (3 ≤ commKind x) || decide (4 ≤ commOp x) || commLen x = 0 || decide (2 ^ 24 < commLen x) ||
    (commKind x ≠ 0 && decide (c.members.length ≤ commRoot x)) || commSrc x % 4 ≠ 0 || commDst x % 4 ≠ 0

/-- The event that performs a command. -/
def commEvent (i : Nat) (x : BitVec 512) : Instr :=
  if commKind x = 1 then .collReduce i else if commKind x = 2 then .collBroadcast i else .collAllReduce i

/-- The modules of the other members (16 R437). -/
def Comm.others (c : Comm) : List Nat :=
  let own := (c.members[c.self]?).map (·.1)
  c.members.filterMap fun m => if some m.1 = own then none else some m.1

/-- Whether a communicator is broken: it has been, or a class-2 flow from this module to another member is on a broken route (16 R437). -/
def State.commBroken (s : State) (c : Comm) : Bool := c.broken || c.others.any fun m => s.routeBroken m 2

/-- The status of the command under way is known: its completion entry is to be written. -/
def State.commResult (s : State) (i st : Nat) : State := (s.modComm i fun c => { c with result := some st }).postOnce (.collComplete i)

/-- The engine takes the next command, if there is one and none is under way, once every member has submitted its descriptor (16 R430,
R431). -/
def State.nextCommand (s : State) (i : Nat) : State :=
  match s.comm? i with
  | none => s
  | some c =>
    let n := (s.commProd c - s.commCons c).toNat
    if c.cmd.isSome ∨ n = 0 ∨ c.entries < n then s
    else if !c.broken && !c.ready then s
    else if s.commBroken c then (s.modComm i fun c => { c with broken := true }).postOnce (.collComplete i)
    else
      let x := s.commCommand c (s.commCons c).toNat
      let s1 := s.modComm i fun c => { c with cmd := some (x.getD 0), phase := 0, work := Work.new, result := none }
      match x with
      | none => s1.commResult i 2
      | some x => s1.post (commEvent i x)

/-- COLL_PROD_WRITE: a root write of PROD wakes the engine; one under a hypothesis is answered with TAG 0 and STATUS 2 (16 R431). -/
def execCollProdWrite (comm : Nat) (prod : DWord) (hyp : BitVec 12) (s : State) : Host.Outcome State Fault Refusal :=
  match s.comm? comm with
  | none => happened s
  | some c =>
    if hyp ≠ 0 then happened (s.commEntry c (s.commProd c).toNat 0 2)
    else if prod = s.commCons c then happened s
    else happened (s.nextCommand comm)

/-! ## The slot tree (16 R433, R434) -/

/-- The format f32 (08 R203). -/
def f32Fmt : FloatFmt := ⟨8, 23, 127, true, 0x7F7FFFFF, 0x7FC00000⟩

/-- Op of a command on two values (16 R433, 08 R212, R214, R224). -/
def commCombineOp (op : Nat) (l r : Word) : Word :=
  match op with
  | 0 => BitVec.ofNat 32 ((FloatFmt.round f32Fmt .rne 0 (Num.add false (f32Fmt.value l.toNat) (f32Fmt.value r.toNat))).1)
  | 1 => BitVec.ofNat 32 (f32Fmt.minmax true false l.toNat r.toNat).1
  | 2 => BitVec.ofNat 32 (f32Fmt.minmax false false l.toNat r.toNat).1
  | _ => l + r

/-- Combine: EMPTY adds nothing (16 R433). -/
def commCombine (op : Nat) (l r : Option Word) : Option Word :=
  match l, r with
  | l, none => l
  | none, r => r
  | some l, some r => some (commCombineOp op l r)

/-- What a member can know of a node: its value, EMPTY among them, once it is received or every slot below it is. `own` gives the
values of the member's own slots, `got` the received nodes (16 R433, R434). -/
def nodeValue (op : Nat) (own : Nat → Option (Option Word)) (got : Nat → Nat → Option (Option Word)) : (j lo : Nat) → Option (Option Word)
  | 0, lo => match got lo (lo + 1) with
    | some v => some v
    | none => own lo
  | j + 1, lo => match got lo (lo + 2 ^ (j + 1)) with
    | some v => some v
    | none => match nodeValue op own got j lo, nodeValue op own got j (lo + 2 ^ j) with
      | some a, some b => some (commCombine op a b)
      | _, _ => none

/-- The entry of this module: slots owned, slots used, first slot. -/
def Comm.mine (c : Comm) : Nat × Nat × Nat := (c.members.getD c.self (0, 0, 0, 0)).2

/-- The received value of a node at an element. -/
def Comm.received (c : Comm) (e lo hi : Nat) : Option (Option Word) :=
  (c.nodes.find? fun n => n.1 = lo && n.2.1 = hi && n.2.2.1 = e).map fun n => n.2.2.2

/-- The value of a slot of this member at an element, from the vectors that it read: EMPTY if the slot is not used; none if it is
another member's (16 R430). -/
def Comm.slotValue (c : Comm) (x : BitVec 512) (vals : List (Nat × Bool)) (e slot : Nat) : Option (Option Word) :=
  let (owned, used, lo) := c.mine
  if slot < lo ∨ lo + owned ≤ slot then none
  else if used ≤ slot - lo then some none
  else some ((vals[(slot - lo) * commLen x + e]?).map fun v => BitVec.ofNat 32 v.1)

/-- A node's value at an element. -/
def Comm.node (c : Comm) (x : BitVec 512) (vals : List (Nat × Bool)) (e j lo : Nat) : Option (Option Word) :=
  nodeValue (commOp x) (c.slotValue x vals e) (c.received e) j lo

/-- Whether every node that this member computes is known, for every element (16 R434). -/
def Comm.computed (c : Comm) (x : BitVec 512) (vals : List (Nat × Bool)) : Bool :=
  let (owned, _, lo) := c.mine
  (List.range (commLen x)).all fun e => (List.range 13).all fun j => (List.range owned).all fun k =>
    (lo + k) % 2 ^ j ≠ 0 || (c.node x vals e j (lo + k)).isSome

/-- Whether this member is ROOTM. -/
def Comm.isRoot (c : Comm) (x : BitVec 512) : Bool := c.self = commRoot x

/-- The addresses that this member reads: a vector for each used slot, or the root's one of a broadcast (16 R432). -/
def Comm.sources (c : Comm) (x : BitVec 512) : List Nat :=
  let n := if commKind x = 2 then (if c.isRoot x then commLen x else 0) else c.mine.2.1 * commLen x
  (List.range n).map fun k => commSrc x + 4 * k

/-- The addresses that this member writes. -/
def Comm.destinations (c : Comm) (x : BitVec 512) : List Nat :=
  if commKind x = 1 ∧ !c.isRoot x then [] else (List.range (commLen x)).map fun e => commDst x + 4 * e

/-- Whether an element of the result derives from poisoned bytes that this member read (03 R99). -/
def Comm.poisonedAt (c : Comm) (x : BitVec 512) (vals : List (Nat × Bool)) (e : Nat) : Bool :=
  if commKind x = 2 then (vals[e]?).any (·.2)
  else (List.range c.mine.2.1).any fun k => (vals[k * commLen x + e]?).any (·.2)

/-- The result at an element: the root of the tree, +0 for EMPTY, or the root member's vector (16 R433). -/
def Comm.resultAt (c : Comm) (x : BitVec 512) (vals : List (Nat × Bool)) (e : Nat) : Option Word :=
  if commKind x = 2 then
    (if c.isRoot x then (vals[e]?).map fun v => BitVec.ofNat 32 v.1 else (c.received e 0 4096).map fun v => v.getD 0)
  else (c.node x vals e 12 0).map fun v => v.getD 0

/-! ## A command under way (16 R434 to R437) -/

/-- The collective engine as a caching agent of HDIE, which reads and writes the root view (16 R435, 05 R141). -/
def Comm.eng (i : Nat) (c : Comm) : Eng := ⟨2 ^ 20 + i, 0, c.hdie, c.part, 0, true, c.work⟩

/-- Does what the engine needs and performs the command again later. -/
def State.commMeet (s : State) (i : Nat) (c : Comm) (x : BitVec 512) (ns : List Need) : State :=
  (s.meetSome (c.eng i) ns).post (commEvent i x)

/-- Whether a command's launch runs at determinism level 2: every launch of the partition does, or some and it is a free choice which
one issued it (16 R436, log entry 4). -/
def State.atLevel2 (s : State) (part : Nat) : Bool :=
  let ls := s.launches.filterMap fun l => match l.2 with
    | none => none
    | some l => if l.part = part then some l.level else none
  ls.any (· = 2) && (ls.all (· = 2) || Config.choice s.choices % 2 = 1)

/-- Phase 0: the command is checked, and its destination registered as an ownership range (16 R436, 03 R90). -/
def State.commStart (s : State) (i : Nat) (c : Comm) (x : BitVec 512) : State :=
  let e := c.eng i
  let s1 := { s with choices := s.choices + 1 }
  let lines := putLines ((c.destinations x).map .glob)
  if commMalformed c x || (!c.dci && s.atLevel2 c.part) || (lines.map (s.engineLine e)).contains .failed then s1.commResult i 2
  else match s1.startRange e 0 lines with
    | .waits s2 => s2.post (commEvent i x)
    | .starts s2 => (s2.modComm i fun c => { c with phase := 1 }).post (commEvent i x)

/-- The command ends with an error: nothing more is written, and its lines leave ownership. -/
def State.commFail (s : State) (i : Nat) (c : Comm) : State := (s.endRangesOn c.hdie (2 ^ 20 + i) 0).commResult i 2

/-- Phase 1: the inputs are read; once the result is known, the destination is written (16 R433 to R435). -/
def State.commRun (s : State) (i : Nat) (c : Comm) (x : BitVec 512) : State :=
  let e := c.eng i
  let reads := (c.sources x).map fun a => s.engineRead e (.glob a) 4
  if reads.contains .failed then s.commFail i c
  else match needsOf reads with
    | n :: ns => s.commMeet i c x (n :: ns)
    | [] =>
      let vals := reads.filterMap Look.value
      let st := if vals.any (·.2) then 2 else 0
      let dests := c.destinations x
      if dests.isEmpty then (if c.computed x vals then s.commResult i st else s)
      else
        let outs := (List.range (commLen x)).filterMap fun e => c.resultAt x vals e
        if outs.length ≠ commLen x then s
        else
          let stores := (putLines (dests.map .glob)).map fun v => s.engineStore e v
          let items := (List.zip dests (List.zip outs (List.range (commLen x)))).map fun d =>
            (Loc.glob d.1, some (d.2.1.toNat, c.poisonedAt x vals d.2.2))
          if stores.contains .failed then s.commFail i c
          else match s.engineWrite e 4 items with
            | .more s1 => s1.post (commEvent i x)
            | .done s1 _ => (s1.modComm i fun c => { c with phase := if st = 0 then 2 else 3 }).post (commEvent i x)

/-- Phases 2 and 3: the command completes once its writes have been applied at their homes (16 R435, 03 R95). -/
def State.commSettle (s : State) (i : Nat) (c : Comm) (x : BitVec 512) : State :=
  let s1 := s.leaveApplied (c.eng i)
  if s1.owesWrites (c.eng i) then s1.post (commEvent i x) else (s1.endRangesOn c.hdie (2 ^ 20 + i) 0).commResult i (if c.phase = 3 then 2 else 0)

/-- A command under way moves on. A command that waits for a value of another member waits for its message. -/
def State.commStep (s : State) (i : Nat) (kind : Nat → Bool) : State :=
  match s.comm? i with
  | none => s
  | some c =>
    match c.cmd with
    | none => s
    | some x =>
      if !kind (commKind x) ∨ c.result.isSome then s
      else if s.commBroken c then (s.modComm i fun c => { c with broken := true }).postOnce (.collComplete i)
      else if c.phase = 0 then s.commStart i c x
      else if c.phase = 1 then s.commRun i c x
      else s.commSettle i c x

/-- COLL_ALL_REDUCE: KIND 0 over the slot tree (16 R433, R434); a reserved KIND ends here with STATUS 2 (16 R436). -/
def execCollAllReduce (comm : Nat) (s : State) : Host.Outcome State Fault Refusal :=
  happened (s.commStep comm fun k => k = 0 || decide (3 ≤ k))

/-- COLL_REDUCE: KIND 1 to the root member (16 R433, R434). -/
def execCollReduce (comm : Nat) (s : State) : Host.Outcome State Fault Refusal := happened (s.commStep comm (· = 1))

/-- COLL_BROADCAST: KIND 2 from the root member (16 R432). -/
def execCollBroadcast (comm : Nat) (s : State) : Host.Outcome State Fault Refusal := happened (s.commStep comm (· = 2))

/-- Whether a range is a node of the slot tree (16 R433). -/
def isNode (lo hi : Nat) : Bool :=
  decide (hi ≤ 4096) && (List.range 13).any fun j => hi = lo + 2 ^ j && lo % 2 ^ j = 0

/-- COLL_NODE_RECEIVE: a node's value arrives over class 2 (16 R434); it waits for its command, and what is no node of the command's tree
says that the members' commands differ (16 R436). -/
def execCollNodeReceive (comm lo hi elem : Nat) (value : Option Word) (s : State) : Host.Outcome State Fault Refusal :=
  match s.comm? comm with
  | none => happened s
  | some c =>
    if s.commBroken c then happened s
    else match c.cmd with
      | none => happened (s.post (.collNodeReceive comm lo hi elem value))
      | some x =>
        if c.result.isSome ∨ 2 ≤ c.phase ∨ (c.received elem lo hi).isSome then happened (s.post (.collNodeReceive comm lo hi elem value))
        else if !isNode lo hi ∨ commLen x ≤ elem then happened (s.commFail comm c)
        else happened ((s.modComm comm fun c => { c with nodes := c.nodes ++ [(lo, hi, elem, value)] }).postOnce (commEvent comm x))

/-! ## Completion, creation, rebuilding (16 R430, R435, R437, R438) -/

/-- The command under way is forgotten. -/
def Comm.idle (c : Comm) : Comm := { c with cmd := none, phase := 0, work := Work.new, nodes := [], result := none }

/-- Every pending command completes with STATUS 1, and CONS becomes PROD (16 R437, R438). -/
def State.failPending (s : State) (i : Nat) (c : Comm) : State :=
  let first := (s.commCons c).toNat
  let n := (s.commProd c - s.commCons c).toNat
  let tag := fun s : State => fun k => (match k, c.cmd with
    | 0, some x => some x
    | _, _ => s.commCommand c (first + k)).elim 0 commTag
  if c.entries < n then s
  else
    let s1 := (List.range n).foldl (fun s k => s.commEntry c (first + k) (tag s k) 1) (s.endRangesOn c.hdie (2 ^ 20 + i) 0)
    (s1.setCons c (s.commProd c)).modComm i Comm.idle

/-- COLL_COMPLETE: the completion entry of the oldest command is written and CONS advanced (16 R435); a broken communicator completes
all of them with STATUS 1 (16 R437). -/
def execCollComplete (comm : Nat) (s : State) : Host.Outcome State Fault Refusal :=
  match s.comm? comm with
  | none => happened s
  | some c =>
    if s.commBroken c then happened ((s.modComm comm fun c => { c with broken := true }).failPending comm c)
    else match c.cmd, c.result with
      | some x, some st =>
        let k := s.commCons c
        let s1 := (s.commEntry c k.toNat (commTag x) st).setCons c (k + 1)
        happened ((s1.modComm comm Comm.idle).nextCommand comm)
      | _, _ => happened s

/-- What another member says of a communicator arrives (16 R430, R436, R437). What concerns a command waits for it. -/
def State.commNotice (s : State) (i what : Nat) : State ⊕ State :=
  match s.comm? i with
  | none => .inr s
  | some c => match what with
    | 0 => .inr ((s.modComm i fun c => { c with ready := true }).nextCommand i)
    | 1 => .inr ((s.modComm i fun c => { c with broken := true }).postOnce (.collComplete i))
    | 2 => if c.cmd.isNone ∨ c.result.isSome ∨ 2 ≤ c.phase then .inl s else .inr (s.commFail i c)
    | _ => .inr s

/-- A member entry of a descriptor: module, slots owned, slots used, first slot (16 R430). -/
def memberOf (x : Nat) (m : Nat) : Nat × Nat × Nat × Nat :=
  let e := x / 2 ^ (512 + 64 * m) % 2 ^ 64
  (e / 2 ^ 52, e / 2 ^ 26 % 2 ^ 13, e / 2 ^ 13 % 2 ^ 13, e % 2 ^ 13)

/-- Whether the members' ranges cover slots 0 to 4,095 exactly once in ascending order (16 R430). -/
def covers : (next : Nat) → List (Nat × Nat × Nat × Nat) → Bool
  | next, [] => next = 4096
  | next, m :: t => m.2.2.2 = next && decide (1 ≤ m.2.1 ∧ m.2.1 ≤ 4096) && decide (m.2.2.1 ≤ m.2.1) && covers (next + m.2.1) t

/-- The header fields of a descriptor (16 R430). -/
def descFields : List (Nat × Nat) := [(0, 1), (19, 45), (64, 56), (128, 56), (192, 56), (256, 4)]

/-- A communicator as its descriptor gives it. -/
def commOf (part x : Nat) : Comm :=
  { part := part, id := BitVec.ofNat 16 (x / 2 ^ 48), self := x / 2 ^ 23 % 2 ^ 12, hdie := x / 2 ^ 19 % 16, dci := x % 2 = 1,
    ctl := x / 2 ^ 64 % 2 ^ 56, ring := x / 2 ^ 128 % 2 ^ 56, compl := x / 2 ^ 192 % 2 ^ 56, lring := x / 2 ^ 256 % 16,
    members := (List.range (x / 2 ^ 35 % 2 ^ 13)).map (memberOf x), broken := false, cmd := none, phase := 0, work := Work.new, nodes := [],
    result := none, ready := x / 2 ^ 35 % 2 ^ 13 = 1 }

/-- Whether a descriptor meets the rules of its layout (16 R430). -/
def descOk (id : Option (BitVec 12)) (x : Nat) (c : Comm) : Bool :=
  onlyFields (BitVec.ofNat 512 x) descFields && decide (1 ≤ c.members.length ∧ c.members.length ≤ 4096) &&
    decide (c.self < c.members.length) && decide (c.hdie < 12) && c.ctl % 64 = 0 && c.ring % 64 = 0 && c.compl % 8 = 0 &&
    decide (4 ≤ c.lring ∧ c.lring ≤ 12) && covers 0 c.members &&
    ((List.range c.members.length).all fun m => x / 2 ^ (512 + 64 * m + 39) % 2 ^ 13 = 0) &&
    (id.all fun n => (c.members[c.self]?).any fun m => m.1 = n.toNat)

/-- The descriptor that a type 5 packet names, if it can be read and is well formed (16 R430). -/
def State.descriptor (s : State) (part : Nat) (x : BitVec 512) : Option Comm :=
  let va := field x 64 56
  match s.rootBytes part 64 va with
  | none => none
  | some h =>
    match s.rootBytes part (64 + 8 * (h / 2 ^ 35 % 2 ^ 13)) va with
    | none => none
    | some d => if descOk s.modl.moduleId d (commOf part d) then some (commOf part d) else none

/-- The communicator with an id, if it is in use. -/
def State.commById (s : State) (id : BitVec 16) : Option Nat :=
  (List.range s.comms.length).find? fun i => (s.comms[i]?).any fun c => c.id = id && (s.part? c.part).isSome

/-- The fields of a type 5 packet (14 R385). -/
def commPacketFields : List (Nat × Nat) := [(8, 1), (64, 56)] ++ headerFields

/-- PKT_COMM_CREATE: a communicator is created from its descriptor (16 R430). -/
def execPktCommCreate (part queue : Nat) (s : State) : Host.Outcome State Fault Refusal :=
  takeUp part queue (.pktCommCreate part queue) s fun _ x =>
    match s.descriptor part x with
    | none => s.failPacket part queue
    | some c =>
      if !onlyFields x commPacketFields || (s.commById c.id).isSome then s.failPacket part queue
      else
        let s1 : State := { s.taken part queue with comms := s.comms ++ [c] }
        s1.nextCommand s.comms.length

/-- PKT_COMM_REBUILD: every pending command completes with STATUS 1, and the communicator runs again (16 R438). -/
def execPktCommRebuild (part queue : Nat) (s : State) : Host.Outcome State Fault Refusal :=
  takeUp part queue (.pktCommRebuild part queue) s fun _ x =>
    match s.descriptor part x with
    | none => s.failPacket part queue
    | some c =>
      match s.commById c.id with
      | none => s.failPacket part queue
      | some i =>
        if !onlyFields x commPacketFields then s.failPacket part queue
        else match s.comm? i with
          | none => s.failPacket part queue
          | some old => (((s.taken part queue).failPending i old).modComm i fun _ => c).nextCommand i

end Sys2Proof.Machine
end

