-- ==== Sys2Proof/Machine/Slots.lean ====
section
/-! DEFINITION. Slots: placement, binding, release, pre-emption and restoring of teams (14 R389 to R392, 15 R412 to R417, 01 R16 to R20). -/

namespace Sys2Proof.Machine

/-! ## The bind record (14 R389) -/

/-- The fields of the 128 B record after V, lowest bit and width, in the order of `BindRec.values`. -/
def bindFields : List (Nat × Nat) :=
  [(5, 5), (10, 6), (16, 16), (32, 32), (64, 56), (128, 20), (148, 21), (192, 8), (201, 9), (222, 3), (228, 4), (256, 16), (288, 20),
   (308, 11), (319, 1), (320, 56), (384, 112), (512, 9), (544, 11), (576, 32), (608, 4), (612, 3), (615, 10), (640, 32), (672, 32),
   (704, 64), (768, 56), (832, 32), (864, 6), (896, 64), (960, 64)]

/-- The values of the fields of a record; accumulator rows are in units of 64. -/
def BindRec.values (b : BindRec) (tcount : Nat) : List Nat :=
  [b.ngm1, b.part, b.launch, b.team, b.entry, b.spbase, b.spsize, b.obbase, b.obsize, b.abase / 64, b.arows / 64, b.qen.toNat, b.toff,
   b.tcap, b.ten.toNat, b.qimg, b.str.toNat, b.bres, tcount, b.clidx, b.mi, b.mj, b.lanesm1, b.mode.toNat, b.stealto, b.seed.toNat,
   b.img, b.imglen, b.epri, b.arg0.toNat, b.arg1.toNat]

/-- The sum of values put at their fields. -/
def packFields : List (Nat × Nat) → List Nat → Nat
  | (lo, n) :: fs, v :: vs => v % 2 ^ n * 2 ^ lo + packFields fs vs
  | _, _ => 0

/-- The 128 B record, with V set (14 R389). -/
def BindRec.image (b : BindRec) (tcount : Nat) : BitVec 1024 := BitVec.ofNat 1024 (1 + packFields bindFields (b.values tcount))

/-- The record that a 128 B image holds (14 R389). -/
def BindRec.ofImage (x : BitVec 1024) : BindRec :=
  { team := field x 32 32, launch := field x 16 16, part := field x 10 6, ngm1 := field x 5 5, entry := field x 64 56,
    spsize := field x 148 21, spbase := field x 128 20, arows := 64 * field x 228 4, abase := 64 * field x 222 3,
    obsize := field x 201 9, obbase := field x 192 8, ten := field x 319 1 = 1, tcap := field x 308 11, toff := field x 288 20,
    qen := BitVec.ofNat 16 (field x 256 16), qimg := field x 320 56, str := BitVec.ofNat 112 (field x 384 112), bres := field x 512 9,
    lanesm1 := field x 615 10, mj := field x 612 3, mi := field x 608 4, clidx := field x 576 32, stealto := field x 672 32,
    mode := BitVec.ofNat 32 (field x 640 32), seed := BitVec.ofNat 64 (field x 704 64), img := field x 768 56,
    epri := field x 864 6, imglen := field x 832 32, arg0 := BitVec.ofNat 64 (field x 896 64),
    arg1 := BitVec.ofNat 64 (field x 960 64) }

/-- TCOUNT of a record. -/
def recordTcount (x : BitVec 1024) : Nat := field x 544 11

/-- Whether a record is valid and its reserved fields are zero (00 R8). -/
def recordOk (x : BitVec 1024) : Bool := field x 0 1 = 1 && onlyFields x ((0, 1) :: bindFields)

/-! ## Teams on a core -/

/-- Slot numbers from 128 up are the model's names for saved teams (15 R412). -/
def parked (slot : Nat) : Bool := decide (128 ≤ slot)

/-- The resident teams of a core with their slots. -/
def Core.resident (k : Core) : List (Nat × Team) :=
  k.teams.filterMap fun st => match st.2 with
    | none => none
    | some t => if parked st.1 then none else some (st.1, t)

/-- The lowest free slot of a core (14 R389). -/
def Core.freeSlot (k : Core) : Option Nat := (List.range 128).find? fun n => (k.team? n).isNone

/-- The lowest slot number for a saved team. -/
def Core.freePark (k : Core) : Nat := 128 + ((List.range (k.teams.length + 1)).find? fun n => (k.team? (128 + n)).isNone).getD 0

/-- Entry k of STR (14 R389). -/
def BindRec.strAt (b : BindRec) (k : Nat) : Nat := b.str.toNat / 2 ^ (7 * k) % 128

/-- The group pairs of a team. -/
def BindRec.pairs (b : BindRec) : Nat := b.ngm1 / 2 + 1

/-- The pairs of group slots that resident teams use, as 2 × string + extended block (02 R38, 07 R181). -/
def Core.usedPairs (k : Core) : List Nat := k.resident.flatMap fun t => (List.range t.2.bind.pairs).map t.2.bind.strAt

/-- The free pairs of group slots, lowest first. -/
def Core.freePairs (k : Core) : List Nat := (List.range 128).filter fun n => !k.usedPairs.contains n

/-- STR with the given pairs. -/
def strOf (ps : List Nat) : BitVec 112 := BitVec.ofNat 112 (packFields ((List.range 16).map fun k => (7 * k, 7)) ps)

/-- Places of `n` units, multiples of `step` below `total`, that meet no used range. -/
def freePlaces (total step n : Nat) (used : List (Nat × Nat)) : List Nat :=
  ((List.range (total / step)).map fun k => step * k).filter fun b =>
    b + n ≤ total && !used.any fun u => overlaps b n u.1 u.2

/-- The scratchpad windows in use on a core (02 R43). -/
def Core.windows (k : Core) : List (Nat × Nat) := k.resident.map fun t => (t.2.bind.spbase, t.2.bind.spsize)

/-- The operand-buffer windows in use, in granules (02 R47). -/
def Core.obWindows (k : Core) : List (Nat × Nat) := k.resident.map fun t => (t.2.bind.obbase, t.2.bind.obsize)

/-- The accumulator rows in use (02 R55). -/
def Core.accWindows (k : Core) : List (Nat × Nat) := k.resident.map fun t => (t.2.bind.abase, t.2.bind.arows)

/-- What a team needs of a core. -/
structure Demand where
  pairs : Nat
  spsize : Nat
  obsize : Nat
  arows : Nat
  qs : List Nat

/-- The demand of a kernel's team (07 R179, 09 R248). -/
def imageDemand (m : KImage) : Demand := ⟨(m.lanes + 63) / 64, m.scratch, m.ob, (m.accRows + 63) / 64 * 64, m.queues.map (·.1)⟩

/-- The demand of a saved team. -/
def Team.demand (t : Team) : Demand :=
  ⟨t.bind.pairs, t.bind.spsize, t.bind.obsize, t.bind.arows, (List.range 16).filter fun n => t.bind.qen.getLsbD n⟩

/-- Whether a core has room: a slot, group slots, windows and queue descriptors (14 R391). -/
def Core.room (k : Core) (d : Demand) : Bool :=
  k.freeSlot.isSome && decide (d.pairs ≤ k.freePairs.length) && !(freePlaces (2 ^ 20) 4096 d.spsize k.windows).isEmpty &&
    !(freePlaces 256 1 d.obsize k.obWindows).isEmpty && !(freePlaces 512 64 d.arows k.accWindows).isEmpty &&
    !d.qs.any fun n => (k.queues.get none n).isSome

/-- Where Chihoat puts a team's windows: any of the free places (14 R389, log entry 4). -/
def chosen (n : Nat) (l : List Nat) : Nat := l.getD (Config.choice n % l.length) 0

/-! ## Placement (14 R391, R392) -/

/-- The next cluster of a partition is to be placed: that of the launch taken up first (14 R391). -/
def State.askPlace (s : State) (part : Nat) : State :=
  match (s.part? part).bind fun p => p.order.head? with
  | none => s
  | some l => s.postOnce (.clusterPlace l)

/-- The physical core of member (i, j) of a cluster at an origin (01 R16, R18). -/
def State.coreOf (s : State) (o : Nat × Nat × Nat) (i j : Nat) : Nat := coreAt o.1 (s.physRow o.1 (o.2.1 + i) (o.2.2 + j)) (o.2.2 + j)

/-- Whether every core of a cluster's rectangle has room (14 R391). -/
def State.roomAt (s : State) (m : KImage) (o : Nat × Nat × Nat) : Bool :=
  (List.range m.shapeR).all fun i => (List.range m.shapeC).all fun j => (s.core (s.coreOf o i j)).room (imageDemand m)

/-- The origin of cluster c: at level 0 any with room, at another level the first attempt's with room (14 R391, 08 R217). -/
def State.chooseOrigin (s : State) (l : Launch) (list : List (Nat × Nat × Nat)) : Option (Nat × Nat × Nat) :=
  if l.level = 0 then
    let open_ := list.filter (s.roomAt l.image)
    open_[Config.choice s.choices % open_.length]?
  else
    (List.range 65536).findSome? fun a =>
      let x := mix64 l.seed 0x504C4143455F4B45 (BitVec.ofNat 64 (l.nextCluster * 65536 + a))
      match list[x.toNat % list.length]? with
      | none => none
      | some o => if s.roomAt l.image o then some o else none

/-- A member of a placed cluster that waits for its core: launch, cluster, place, and whether it is saved. -/
structure Waiting where
  launch : Nat
  l : Launch
  c : Cluster
  i : Nat
  j : Nat
  slot : Option Nat

/-- Whether a cluster has a started member (14 R392). -/
def Cluster.started (c : Cluster) : Bool := c.members.any fun m => m.2.1 ≠ 0

/-- The member of a cluster that waits for a core: unstarted, or saved (14 R392, 15 R413). -/
def State.waitingIn (s : State) (core id : Nat) (l : Launch) (c : Cluster) : Option Waiting :=
  ((List.range l.image.shapeR).flatMap fun i => (List.range l.image.shapeC).map fun j => (i, j)).findSome? fun ij =>
    if s.coreOf (c.die, c.orow, c.ocol) ij.1 ij.2 ≠ core then none
    else
      let m := c.members.get (0, 0, 0) (8 * ij.1 + ij.2)
      if m.1 = 0 then some ⟨id, l, c, ij.1, ij.2, none⟩
      else if m.1 = 1 ∧ parked m.2.2 then some ⟨id, l, c, ij.1, ij.2, some m.2.2⟩
      else none

/-- Every member that waits for a core. -/
def State.waiting (s : State) (core : Nat) : List Waiting :=
  s.launches.flatMap fun il => match il.2 with
    | none => []
    | some l => l.clusters.filterMap (s.waitingIn core il.1 l)

/-- Of two waiting members, whether the first goes first: members of started clusters, then the oldest placement (14 R392). -/
def Waiting.before (a b : Waiting) : Bool :=
  if a.c.started = b.c.started then decide (a.c.placed ≤ b.c.placed) else a.c.started

/-- The member to which a core's room is given next (14 R392). -/
def firstWaiting : List Waiting → Option Waiting
  | [] => none
  | a :: t => match firstWaiting t with
    | none => some a
    | some b => if a.before b then some a else some b

/-- What a waiting member needs. -/
def State.demandOf (s : State) (core : Nat) (w : Waiting) : Demand :=
  match w.slot.bind fun n => (s.core core).team? n with
  | none => imageDemand w.l.image
  | some t => t.demand

/-- The room of a core is offered to the member that is next (14 R392). -/
def State.offer (s : State) (core : Nat) : State :=
  match firstWaiting (s.waiting core), (s.core core).freeSlot with
  | some w, some n => if (s.core core).room (s.demandOf core w) then s.postOnce (.slotBind core n) else s
  | _, _ => s

/-- CLUSTER_PLACE: the next cluster of the launch is placed when there is room; one that cannot be placed holds back every later one (14
R391). -/
def execClusterPlace (launch : Nat) (s : State) : Host.Outcome State Fault Refusal :=
  match s.launch? launch with
  | none => happened s
  | some l =>
    match s.part? l.part with
    | none => happened s
    | some p =>
      if p.order.head? ≠ some launch ∨ p.resetting then happened s
      else
        let dies := if l.hinted then some l.dieMask else none
        match s.chooseOrigin l (p.canonical l.image.shapeR l.image.shapeC dies) with
        | none => happened s
        | some o =>
          let c : Cluster := { index := l.nextCluster, placed := s.cycle, die := o.1, orow := o.2.1, ocol := o.2.2, members := [] }
          let s1 := { s.modLaunch launch fun l =>
              { l with nextCluster := l.nextCluster + 1, clusters := l.clusters ++ [c] } with choices := s.choices + 1 }
          let s2 := if l.nextCluster + 1 = l.nclus then s1.modPart l.part fun p => { p with order := p.order.filter fun k => k ≠ launch } else s1
          let cores := (List.range l.image.shapeR).flatMap fun i => (List.range l.image.shapeC).map fun j => s.coreOf o i j
          happened ((cores.foldl State.offer s2).askPlace l.part)

/-! ## Moving a team's slot, windows and queues -/

/-- A reference to a group of one slot of a core, moved to another slot. -/
def moveRef (core old new : Nat) (r : GroupRef) : GroupRef := if r.core = core ∧ r.slot = old then { r with slot := new } else r

/-- The bytes of a range of a memory, moved. -/
def moveBytes (m : Mem) (src dest n : Nat) : Mem :=
  if src = dest then m
  else
    let part := m.filter fun kx => decide (src ≤ kx.1) && decide (kx.1 < src + n)
    let rest := m.filter fun kx => !(decide (src ≤ kx.1) && decide (kx.1 < src + n)) && !(decide (dest ≤ kx.1) && decide (kx.1 < dest + n))
    part.foldl (fun m kx => m.setByte (kx.1 - src + dest) kx.2) rest

/-- Numbers of a range, moved; those of the new range go. -/
def moveNats (src dest n : Nat) (l : List Nat) : List Nat :=
  if src = dest then l
  else
    (l.filter fun k => !(decide (src ≤ k) && decide (k < src + n)) && !(decide (dest ≤ k) && decide (k < dest + n))) ++
      (l.filter fun k => decide (src ≤ k) && decide (k < src + n)).map fun k => k - src + dest

/-- The keys of a range of a table, moved. -/
def moveKeys {α : Type} [DecidableEq α] (d : α) (t : Tbl α) (src dest n : Nat) : Tbl α :=
  if src = dest then t
  else
    let part := t.filter fun kx => decide (src ≤ kx.1) && decide (kx.1 < src + n)
    let rest := t.filter fun kx => !(decide (src ≤ kx.1) && decide (kx.1 < src + n)) && !(decide (dest ≤ kx.1) && decide (kx.1 < dest + n))
    part.foldl (fun t kx => Tbl.set d t (kx.1 - src + dest) kx.2) rest

/-- The number under which a queue descriptor of a slot is held: its own, or one beyond 16 for a saved team (02 R65). -/
def queueKey (slot n : Nat) : Nat := if parked slot then 16 * (slot - 127) + n % 16 else n % 16

/-- The queue descriptors of a slot, moved to another one. -/
def Core.moveQueues (k : Core) (old new : Nat) : Core :=
  let mine := fun nq : Nat × Option QDesc => nq.2.any fun q => q.owner = old
  let rest := k.queues.filter fun nq => !mine nq
  { k with queues := (k.queues.filter mine).foldl (fun t nq => t.set none (queueKey new nq.1) (nq.2.map fun q => { q with owner := new })) rest }

/-- The pushes that wait for the queues of a slot name them under their new numbers. -/
def Group.movePush (core new : Nat) (ks : List Nat) (x : Group) : Group :=
  match x.push with
  | none => x
  | some p => if p.core = core ∧ ks.contains p.qn ∧ p.answer.isNone then { x with push := some { p with qn := queueKey new p.qn } } else x

/-- What a group holds of references to another team. -/
def Group.moveRefs (core old new : Nat) (ks : List Nat) (x : Group) : Group :=
  let y := x.movePush core new ks
  match y.steal with
  | none => y
  | some t => if t.core = core ∧ t.slot = old then { y with steal := some { t with slot := new } } else y

/-- Every reference of a core to a slot, moved. -/
def Core.moveRefs (core old new : Nat) (ks : List Nat) (k : Core) : Core :=
  { k with
    teams := k.teams.map fun st => (st.1, st.2.map fun t =>
      { t with groups := t.groups.map fun gx => (gx.1, gx.2.map (Group.moveRefs core old new ks)) })
    armed := k.armed.map fun a => (a.1, a.2.1, moveRef core old new a.2.2) }

/-- A team moves to another slot and other windows of its core, with their contents (15 R415, 07 R181). -/
def State.moveTeam (s : State) (core old new : Nat) (b : BindRec) : State :=
  match (s.core core).team? old with
  | none => s
  | some t =>
    let a := t.bind
    let ks := (s.core core).queues.filterMap fun nq => if nq.2.any fun q => q.owner = old then some nq.1 else none
    let s1 := s.modCore core fun k =>
      let k1 := { k with
        teams := (k.teams.set none old none).set none new (some { t with bind := b })
        scratch := moveBytes k.scratch a.spbase b.spbase a.spsize
        scratchPsn := moveNats (a.spbase / 8) (b.spbase / 8) (a.spsize / 8) k.scratchPsn
        ob := moveBytes k.ob (1024 * a.obbase) (1024 * b.obbase) (1024 * a.obsize)
        obPsn := moveNats (128 * a.obbase) (128 * b.obbase) (128 * a.obsize) k.obPsn
        acc := moveKeys 0 k.acc (512 * a.abase) (512 * b.abase) (512 * a.arows)
        accSt := moveKeys 0 k.accSt a.abase b.abase a.arows
        armed := k.armed.map fun (x : Nat × Nat × GroupRef) => if x.1 = old then (new, x.2) else x
        tails := moveKeys none k.tails (32 * old) (32 * new) 32 }
      k1.moveQueues old new
    let s2 : State := { s1 with cores := s1.cores.map fun ck => (ck.1, Core.moveRefs core old new ks ck.2) }
    s2.setMember t 1 core new

/-! ## Events that name a slot -/

/-- Whether an event under way belongs to a group of a slot. -/
def ofSlot (core slot : Nat) : Instr → Bool
  | .groupSlotRelease g | .lineDataArrive g _ _ | .laneStorePerform g _ _ | .sweepAnswer g _
  | .operandLogReplay g _ | .rldFill g _ | .trapDeliver g _ | .lateFault g _ | .queuePushArrive g | .stealTimeout g | .taskDelivery g _
  | .sleepExpire g => g.core = core && g.slot = slot
  | .contextSaveWrite c n | .preemptDrainTimeout c n | .slotRelease c n | .regroupComplete c n | .gangLatchClose c n _
  | .stageDelivery c n _ _ _ => c = core && n = slot
  | _ => false

/-- A walk without the logged words of a slot among those that it answers. -/
def PageWalk.without (core slot : Nat) (w : PageWalk) : PageWalk :=
  { w with waiters := w.waiters.filter fun y => match y with
      | .lane g _ _ => !(g.core = core && g.slot = slot)
      | _ => true }

/-- The events of a slot are no longer under way, and no walk answers its words. -/
def State.purge (s : State) (core slot : Nat) : State :=
  { s.modDie (dieOf core) fun d =>
      { d with walks := d.walks.map (PageWalk.without core slot), missQ := d.missQ.map (PageWalk.without core slot) } with
    pending := s.pending.filter fun e => !ofSlot core slot e }

/-! ## Binding (14 R390) -/

/-- The result of a slot command (14 R390). -/
def State.slotResult (s : State) (core slot op res : Nat) : State :=
  s.modCore core fun k => { k with slotCmd := BitVec.ofNat 64 (res * 2 ^ 60 + op * 2 ^ 7 + slot % 128) }

/-- A queue descriptor from its 32 B image (02 R60). -/
def qdescOf (x : BitVec 256) (owner : Nat) : QDesc :=
  let n := (field x 96 32 + 2 ^ 32 - field x 64 32) % 2 ^ 32
  { en := field x 63 1 = 1, esz := BitVec.ofNat 2 (field x 48 2), lcap := BitVec.ofNat 4 (field x 32 4), base := BitVec.ofNat 20 (field x 0 20),
    head := BitVec.ofNat 32 (field x 64 32), tail := BitVec.ofNat 32 (field x 96 32), owner := owner,
    runs := if n = 0 then [] else [(n, true)], refused := [], getters := [] }

/-- The image of a descriptor (02 R60). -/
def QDesc.image (q : QDesc) : Nat :=
  q.base.toNat + q.lcap.toNat * 2 ^ 32 + q.esz.toNat * 2 ^ 48 + q.en.toNat * 2 ^ 63 + q.head.toNat * 2 ^ 64 + q.tail.toNat * 2 ^ 96

/-- Whether an enabled descriptor breaks 02 R61: a reserved field or value, its capacity, its storage or its occupancy. -/
def badQueue (b : BindRec) (x : BitVec 256) (others : List (Nat × Nat)) : Bool :=
  let q := qdescOf x 0
  let size := q.cap * q.elemBytes
  !onlyFields x [(0, 20), (32, 4), (48, 2), (63, 1), (64, 32), (96, 32)] || decide (2 ≤ q.esz.toNat) ||
    decide (q.lcap.toNat < 5) || decide (14 < q.lcap.toNat) || q.base.toNat % 128 ≠ 0 || decide (b.spsize < q.base.toNat + size) ||
    others.any (fun o => overlaps q.base.toNat size o.1 o.2) || decide (q.cap < q.occupancy)

/-- The descriptor images that QEN names (14 R389). -/
def State.queueImages (s : State) (b : BindRec) : List (Nat × BitVec 256) :=
  ((List.range 16).filter fun n => b.qen.getLsbD n).map fun n => (n, BitVec.ofNat 256 (s.hbm.read 32 (b.qimg + 32 * n)))

/-- The task range of a record (02 R44). -/
def BindRec.taskRange (b : BindRec) : List (Nat × Nat) := if b.ten then [(b.toff, 64 * b.tcap + 128)] else []

/-- Whether one of the enabled descriptors is refused (02 R61). -/
def badQueues (b : BindRec) : List (Nat × BitVec 256) → List (Nat × Nat) → Bool
  | [], _ => false
  | (_, x) :: t, used =>
    let q := qdescOf x 0
    if !q.en then badQueues b t used
    else badQueue b x used || badQueues b t ((q.base.toNat, q.cap * q.elemBytes) :: used)

/-- Whether windows of a record break 02 R43, R47 or R55, or overlap a resident team's (14 R390). -/
def Core.badWindows (k : Core) (b : BindRec) : Bool :=
  b.spbase % 4096 ≠ 0 || b.spsize % 4096 ≠ 0 || decide (b.spsize < 4096) || decide (2 ^ 20 < b.spbase + b.spsize) ||
    k.windows.any (fun u => overlaps b.spbase b.spsize u.1 u.2) ||
    decide (256 < b.obbase + b.obsize) || k.obWindows.any (fun u => overlaps b.obbase b.obsize u.1 u.2) ||
    decide (b.arows < 64) || decide (512 < b.abase + b.arows) || k.accWindows.any (fun u => overlaps b.abase b.arows u.1 u.2)

/-- Whether a task range breaks its limits or leaves the window (02 R43, R44, 14 R389). -/
def BindRec.badTasks (b : BindRec) : Bool :=
  b.ten && (b.toff % 64 ≠ 0 || decide (b.tcap < 16) || decide (1024 < b.tcap) || decide (b.spsize < b.toff + 64 * b.tcap + 128))

/-- Whether a bind is refused (14 R390). -/
def State.bindRefused (s : State) (core : Nat) (x : BitVec 1024) : Bool :=
  let b := BindRec.ofImage x
  let k := s.core core
  !recordOk x || k.badWindows b || b.badTasks || badQueues b (s.queueImages b) b.taskRange ||
    (s.queueImages b).any (fun nq => (k.queues.get none nq.1).isSome) ||
    decide (b.spsize < b.imglen + 16) || (s.rootBytes b.part b.imglen b.img).isNone

/-- The lanes of group g of a team (07 R179). -/
def BindRec.groupLanes (b : BindRec) (g : Nat) : Lanes := lanesBelow (Nat.min 32 (b.lanesm1 + 1 - 32 * g))

/-- A group at bind: every register zero but LCUR, entry 0 at ENTRY (07 R179, R187, R194, 14 R390). Its core has served its groups `n` times. -/
def BindRec.freshGroup (b : BindRec) (g n : Nat) : Group :=
  let m := b.groupLanes g
  { v := [], s := [], p := [], q := [], z := [], frets := [], res := [], lcur := 32, trapv := 0, idem := 0, status := 0, gang := 0, hyp := [],
    key := [], ctr := [], idemKey := [], idemCtr := [], lid := [],
    frontier := [{ pc := BitVec.ofNat 56 b.entry, mask := m, gmask := 0, pri := BitVec.ofNat 6 b.epri, deferred := false, redo := none,
                   kept := none, due := false }]
    aside := [], handler := none, log := [], nextLog := 0, exited := ~~~m, wait := .none, sweep := none, loadSweep := false, drainAt := none,
    fences := [], resBad := [], stageWait := none, ticket := 0, steal := none, push := none, hypWords := [], lineRegs := [],
    readRegs := [], perms := [], latches := [], retired := 0, rate := 0, total := 0, lastIssue := n, psnLines := [], noFlush := false, released := false }

/-- The team of a record, with its cluster's shape and origin as its launch gives them (01 R18, 07 R179). -/
def State.freshTeam (s : State) (core : Nat) (x : BitVec 1024) : Team :=
  let b := BindRec.ofImage x
  let l := s.launch? b.launch
  let c := l.bind fun l => l.clusters.find? fun c => c.index = b.clidx
  { bind := b, groups := (List.range (b.ngm1 + 1)).map fun g => (g, some (b.freshGroup g (s.core core).served)), ext := [], tcount := recordTcount x, save := .none,
    ctx := ((s.core core).slotSrc.extractLsb' 0 56).toNat, shapeR := (l.map fun l => l.image.shapeR).getD 1,
    shapeC := (l.map fun l => l.image.shapeC).getD 1, die := dieOf core, orow := (c.map fun c => c.orow).getD (rowOf core),
    ocol := (c.map fun c => c.ocol).getD (colOf core), regroupKeys := [], idemKernel := (l.map fun l => l.image.idem).getD false, held := [],
    drainEnd := 0 }

/-- The windows of a new team: rows cleared, the image copied, the arguments written (14 R390, 02 R57). -/
def State.fillWindow (s : State) (core : Nat) (b : BindRec) : State :=
  let s1 := s.modCore core fun k =>
    { k with acc := k.acc.drop fun n => decide (512 * b.abase ≤ n) && decide (n < 512 * (b.abase + b.arows))
             accSt := k.accSt.drop fun n => decide (b.abase ≤ n) && decide (n < b.abase + b.arows) }
  ((s1.scratchWrite core b.imglen b.spbase ((s.rootBytes b.part b.imglen b.img).getD 0)).scratchWrite core 8 (b.spbase + b.spsize - 16)
    b.arg0.toNat).scratchWrite core 8 (b.spbase + b.spsize - 8) b.arg1.toNat

/-- SLOTCMD OP 0 with the record at SLOTSRC.ADDR (14 R390): the result, and the state after a bind. -/
def State.bindSlot (s : State) (core slot : Nat) : State :=
  let x := BitVec.ofNat 1024 (s.hbm.read 128 ((s.core core).slotSrc.extractLsb' 0 56).toNat)
  let b := BindRec.ofImage x
  if ((s.core core).team? slot).isSome then s.slotResult core slot 0 2
  else if s.bindRefused core x then s.slotResult core slot 0 1
  else
    let t := s.freshTeam core x
    let s1 := (s.fillWindow core b).modCore core fun k =>
      { k with teams := k.teams.set none slot (some t)
               queues := (s.queueImages b).foldl (fun q nx => q.set none nx.1 (some (qdescOf nx.2 slot))) k.queues }
    ((s1.setMember t 1 core slot).slotResult core slot 0 0).postOnce (.rateWindowEnd core)

/-! ## What Chihoat prepares (14 R389, 01 R19) -/

/-- The memory of Chihoat for a core and slot: record and context, and queue images after them (14 R389, R414). -/
def recordAddr (core slot : Nat) : Nat := Config.chihoatMemory + (128 * core + slot) * 2 ^ 22

/-- One word of a code copy: the kernel's word with its place field in physical coordinates (01 R19). -/
def State.copiedWord (s : State) (l : Launch) (o : Nat × Nat × Nat) (off : Nat) : Nat :=
  let w := (s.rootBytes l.part 4 (l.kimg + l.image.codeOff + off)).getD 0
  if l.image.relocs.any fun e => e.1 = off then
    let c := s.coreOf o (w / 2 ^ 14 % 16) (w / 2 ^ 11 % 8)
    w - w / 2 ^ 11 % 128 * 2 ^ 11 + (rowOf c * 8 + colOf c) * 2 ^ 11
  else w

/-- Whether Chihoat may put a code copy at an address: every page of it can be read, and it meets no other live copy of the partition (01
R19). -/
def State.copyFits (s : State) (l : Launch) (va : Nat) : Bool :=
  let n := l.image.codeLen
  ((List.range (n / 65536 + 2)).all fun k => (s.rootRead l.part 1 (Nat.min (va + 65536 * k) (va + n - 1))).isSome) &&
    s.launches.all fun kl => match kl.2 with
      | none => true
      | some y => y.part ≠ l.part || y.copies.all fun c => !overlaps va n c.2 y.image.codeLen

/-- The code copy for an origin, made before the first team there is bound (01 R19): its address. None while the address and mapping that a
free choice names are none that Chihoat may take: it looks further. -/
def State.codeFor (s : State) (id : Nat) (l : Launch) (o : Nat × Nat × Nat) : State × Option Nat :=
  match l.copies.find? fun c => c.1 = o with
  | some c => (s, some c.2)
  | none =>
    let c := Config.codeCopy s.choices
    let va := c.1 % 2 ^ 56 / 384 * 384
    let s1 := { s.installRoot c.2 with choices := s.choices + 1 }
    if !s1.copyFits l va then ({ s with choices := s.choices + 1 }, none)
    else
      let s2 := (List.range (l.image.codeLen / 4)).foldl (fun s' k => s'.rootWrite l.part 4 (va + 4 * k) (s.copiedWord l o (4 * k))) s1
      (s2.modLaunch id fun l => { l with copies := l.copies ++ [(o, va)] }, some va)

/-- The record that Chihoat writes for an unstarted member (14 R389, R390). -/
def State.recordFor (s : State) (core slot : Nat) (w : Waiting) (entry : Nat) : BindRec :=
  let k := s.core core
  let m := w.l.image
  let d := (imageDemand m)
  { team := (w.c.index * m.shapeR * m.shapeC + w.i * m.shapeC + w.j) % 2 ^ 32, launch := w.launch, part := w.l.part, ngm1 := (m.lanes - 1) / 32,
    entry := entry, spsize := d.spsize, spbase := chosen s.choices (freePlaces (2 ^ 20) 4096 d.spsize k.windows), arows := d.arows,
    abase := chosen (s.choices + 1) (freePlaces 512 64 d.arows k.accWindows), obsize := d.obsize,
    obbase := chosen (s.choices + 2) (freePlaces 256 1 d.obsize k.obWindows), ten := m.task.isSome, tcap := (m.task.map (·.1)).getD 0,
    toff := (m.task.map (·.2)).getD 0, qen := m.queues.foldl (fun q n => q ||| (1#16 <<< n.1)) 0, qimg := recordAddr core slot + 2 ^ 21,
    str := strOf (k.freePairs.take d.pairs),
    bres := Config.choice (s.choices + 3) % (257 - (k.resident.foldl (fun n t => n + t.2.bind.bres) 0)), lanesm1 := m.lanes - 1, mj := w.j,
    mi := w.i, clidx := w.c.index, stealto := w.l.stealto, mode := w.l.mode, seed := w.l.seed,
    img := if m.imgLen = 0 then 0 else w.l.kimg + m.imgOff, epri := m.epri, imglen := m.imgLen, arg0 := w.l.arg0, arg1 := w.l.arg1 }

/-- Chihoat prepares the bind of an unstarted member: record, queue images, SLOTSRC (14 R389, R390). -/
def State.prepare (s1 : State) (core slot : Nat) (w : Waiting) (entry : Nat) : State :=
  let b := s1.recordFor core slot w entry
  let s2 := w.l.image.queues.foldl (fun (s : State) n => { s with hbm := s.hbm.write 32 (b.qimg + 32 * (n.1 % 16)) n.2.toNat }) s1
  { s2.modCore core fun k => { k with slotSrc := BitVec.ofNat 64 (recordAddr core slot) } with
    hbm := s2.hbm.write 128 (recordAddr core slot) (b.image 0).toNat, choices := s2.choices + 4 }

/-- Members that have not started will not (14 R390). -/
def noMore (r c : Nat) (t : Tbl (Nat × Nat × Nat)) : Tbl (Nat × Nat × Nat) :=
  ((List.range r).flatMap fun i => (List.range c).map fun j => 8 * i + j).foldl
    (fun t k => if (t.get (0, 0, 0) k).1 = 0 then t.set (0, 0, 0) k (2, 0, 0) else t) t

/-- The teams of a launch, by core and slot. -/
def State.launchTeams (s : State) (id : Nat) : List (Nat × Nat) :=
  s.cores.flatMap fun ck => ck.2.teams.filterMap fun st => match st.2 with
    | none => none
    | some t => if t.bind.launch = id then some (ck.1, st.1) else none

/-- No further cluster or member of a launch starts. -/
def Launch.stopped (l : Launch) : Launch :=
  { l with nextCluster := l.nclus, clusters := l.clusters.map fun c => { c with members := noMore l.image.shapeR l.image.shapeC c.members } }

/-- The physical cores of a placed cluster's members. -/
def State.memberCores (s : State) (l : Launch) (c : Cluster) : List Nat :=
  (List.range l.image.shapeR).flatMap fun i => (List.range l.image.shapeC).map fun j => s.coreOf (c.die, c.orow, c.ocol) i j

/-- The launch of a refused bind: its started teams are killed, it completes with STATUS 3, and the cores that its members waited for
are offered to the next (14 R390, R392). -/
def State.refuseLaunch (s : State) (id : Nat) : State :=
  match s.launch? id with
  | none => s
  | some l =>
    let s1 := (s.launchStatus id 3).modLaunch id Launch.stopped
    let s2 := (s.launchTeams id).foldl (fun s r => s.killTeam r.1 r.2 3) s1
    let s3 := (l.clusters.flatMap (s.memberCores l)).foldl State.offer s2
    ((s3.modPart l.part fun p => { p with order := p.order.filter fun k => k ≠ id }).askPlace l.part).postOnce (.launchComplete id)

/-! ## Restoring (15 R415) -/

/-- A word that a save withdrew, with its numbers raised by `n` and its team in a slot (12 R334). -/
def Cmd.renumber (c : Cmd) (slot n : Nat) : Cmd :=
  { c with g := { c.g with slot := slot }, seq := c.seq + n, also := c.also.map fun a => ({ a.1 with slot := slot }, a.2.1, a.2.2 + n) }

/-- A group as a restore leaves it: what it knows of withdrawn words names them by their new numbers, and a kept fault is found anew by the
replay (15 R415). -/
def Group.restored (n served : Nat) (x : Group) : Group :=
  let up := fun (t : Tbl (Nat × Nat)) => t.map fun (kx : Nat × (Nat × Nat)) => (kx.1 + n, kx.2)
  { x with
    log := x.log.map fun e => { e with fault := none }
    lineRegs := up x.lineRegs
    readRegs := up x.readRegs
    latches := x.latches.map fun l => { l with cmd := l.cmd + n }
    perms := x.perms.map fun p => { p with cmds := p.cmds.map (· + n) }
    lastIssue := served }

/-- The frets of an engine word count it again. -/
def State.recount (s : State) (c : Cmd) : State := ((c.g, c.fret) :: c.also.map fun m => (m.1, m.2.1)).foldl (fun s gf => s.fretUp gf.1 gf.2) s

/-- A withdrawn word is issued again: it is counted, and takes a new place in the core's order (12 R334). -/
def State.reissue (s : State) (core : Nat) (c : Cmd) : State :=
  (((s.recount c).modCore core fun k => { k with seq := Nat.max k.seq (c.seq + 1), cmds := k.cmds.set none c.seq (some c) }).enterRequests core).postOnce
    (c.kind.unit.takeup core c.seq)

/-- WAITERS bits of groups in `bar.sync` are set again (15 R413, 11 R298). -/
def Team.waiters (t : Team) (bid : BitVec 8) : Lanes :=
  maskOf fun g => (t.group? g).any fun x => x.wait = .barSync bid

/-- Barrier entries whose groups wait in `bar.sync`. -/
def Core.rewait (k : Core) (t : Team) : Core :=
  let f := fun b : Barrier => if b.ofTeam t.bind then { b with waiters := b.waiters ||| (t.waiters b.bid &&& b.arrMask) } else b
  { k with barriers := k.barriers.map f, spilled := k.spilled.map f }

/-- A group whose `fence.sc` has no ticket yet asks for one (04 R122). -/
def State.askTicket (s : State) (r : GroupRef) : State :=
  match s.group? r with
  | none => s
  | some x =>
    if x.fences.any fun f => f.f = 3 && decide (5 ≤ f.sc) then
      { (s.modGroup r fun x => { x with ticket := 1 }).post .fenceScTicket with
        modl := { s.modl with ticketQueue := s.modl.ticketQueue ++ [r] } }
    else s

/-- A saved team returns to a core (15 R415). -/
def State.restoreSlot (s : State) (core slot park : Nat) : State :=
  match (s.core core).team? park with
  | none => s.slotResult core slot 0 1
  | some t =>
    let k := s.core core
    let d := t.demand
    let b := { t.bind with
      spbase := chosen s.choices (freePlaces (2 ^ 20) 4096 d.spsize k.windows)
      abase := chosen (s.choices + 1) (freePlaces 512 64 d.arows k.accWindows)
      obbase := chosen (s.choices + 2) (freePlaces 256 1 d.obsize k.obWindows)
      str := strOf (k.freePairs.take d.pairs) }
    let s1 := { s.moveTeam core park slot b with choices := s.choices + 3 }
    let s2 := s1.modTeam ⟨core, slot, 0⟩ fun t =>
      { t with save := .none, held := [], groups := t.groups.map fun gx => (gx.1, gx.2.map (Group.restored k.seq k.served)) }
    let s3 := t.held.foldl (fun s c => s.reissue core (c.renumber slot k.seq)) s2
    let s4 := t.groups.foldl (fun s gx => match gx.2 with
      | none => s
      | some x => ((x.log.foldl (fun s n => s.post (.operandLogReplay ⟨core, slot, gx.1⟩ n.seq)) s).postOnce
          (.groupSlotRelease ⟨core, slot, gx.1⟩)).askTicket ⟨core, slot, gx.1⟩) s3
    let s5 := (s4.modCore core fun k => (k.rewait t)).modCore core fun k =>
      { k with preAct := k.preAct &&& ~~~4#64 }
    (((List.range 16).foldl (fun s n => s.resendPush core n) s5).slotResult core slot 0 0).postOnce (.rateWindowEnd core)

/-- The saved team of a core whose context lies at SLOTSRC.ADDR. -/
def Core.savedAt (k : Core) : Option Nat :=
  (k.teams.find? fun st => parked st.1 && st.2.any fun t => t.ctx = (k.slotSrc.extractLsb' 0 56).toNat).map (·.1)

/-- Chihoat leaves no address in SLOTSRC after a command of its own. -/
def State.clearSrc (s : State) (core : Nat) : State := s.modCore core fun k => { k with slotSrc := 0 }

/-- SLOT_BIND: Chihoat prepares the record of the member that is next, or the restore of a saved one, and the slot table takes it;
with no such member it takes what SLOTSRC and PREACT.RST name (14 R390, R392, 15 R415). -/
def execSlotBind (core slot : Nat) (s : State) : Host.Outcome State Fault Refusal :=
  if 128 ≤ slot then happened s
  else if ((s.core core).team? slot).isSome then happened ((s.slotResult core slot 0 2).offer core)
  else match firstWaiting (s.waiting core) with
    | none =>
      if (s.core core).slotSrc = 0 then happened s
      else match (s.core core).preAct.getLsbD 2, (s.core core).savedAt with
      | true, some park => happened (s.restoreSlot core slot park)
      | true, none => happened (s.slotResult core slot 0 1)
      | false, _ => happened (s.bindSlot core slot)
    | some w =>
      if !(s.core core).room (s.demandOf core w) then happened s
      else match w.slot with
        | some park =>
          let s1 := s.modCore core fun k =>
            { k with preAct := k.preAct ||| 4#64, slotSrc := BitVec.ofNat 64 (((k.team? park).map fun t => t.ctx).getD 0) }
          happened (((s1.restoreSlot core slot park).clearSrc core).offer core)
        | none =>
          match s.codeFor w.launch w.l (w.c.die, w.c.orow, w.c.ocol) with
          | (s0, none) => happened (s0.post (.slotBind core slot))
          | (s0, some entry) =>
            let s1 := ((s0.prepare core slot w entry).bindSlot core slot).clearSrc core
            if ((s1.core core).team? slot).isSome then happened (s1.offer core)
            else happened (s1.refuseLaunch w.launch)

/-! ## Release (14 R390, 09 R236, 15 R416) -/

/-- Whether a slot still has commands taken up or chains (15 R416, R371). -/
def Core.slotBusy (k : Core) (slot : Nat) : Bool :=
  (k.cmds.any fun c => c.2.any fun c => c.g.slot = slot) || k.chains.any fun c => c.2.any fun c => c.g.slot = slot

/-- TCOUNT goes back into the record and the descriptors into their images (14 R390, 02 R60). -/
def State.writeBack (s : State) (core slot : Nat) (t : Team) : State :=
  let w := t.bind.bres + t.tcount * 2 ^ 32
  let s1 : State := { s with hbm := s.hbm.write 8 (t.ctx + 64) w }
  (s.core core).queues.foldl (fun s nq => match nq.2 with
    | none => s
    | some q => if q.owner = slot then { s with hbm := s.hbm.write 32 (t.bind.qimg + 32 * (nq.1 % 16)) q.image } else s) s1

/-- The groups that have a steal outstanding at a victim's slot (11 R312). -/
def State.thieves (s : State) (core slot : Nat) : List GroupRef :=
  s.cores.flatMap fun ck => ck.2.teams.flatMap fun st => match st.2 with
    | none => []
    | some t => t.groups.filterMap fun gx => match gx.2.bind (·.steal) with
      | none => none
      | some v => if v.core = core ∧ v.slot = slot then some ⟨ck.1, st.1, gx.1⟩ else none

/-- What of a core belongs to a slot goes with its team (02 R65, R70, 15 R416, R417). -/
def Core.clearSlot (k : Core) (slot : Nat) (t : Team) : Core :=
  { k with
    teams := k.teams.set none slot none
    queues := k.queues.filter fun nq => !(nq.2.any fun q => q.owner = slot)
    barriers := k.barriers.filter fun b => !b.ofTeam t.bind
    spilled := k.spilled.filter fun b => !b.ofTeam t.bind
    armed := k.armed.filter fun a => a.1 ≠ slot
    leaseQ := k.leaseQ.filter fun q => q.slot ≠ slot
    lease := k.lease.bind fun l => if l.slot = slot then none else some l
    cmds := k.cmds.filter fun c => !(c.2.any fun c => c.g.slot = slot)
    chains := k.chains.filter fun c => !(c.2.any fun c => c.g.slot = slot) }

/-- W of a team: the words it has retired since its first bind (15 R412). -/
def Team.words (t : Team) : Nat := t.groups.foldl (fun n gx => n + ((gx.2.map fun x => x.total).getD 0)) 0

/-- A launch notes a finished team; one that is to be bound again is unstarted (15 R412). -/
def State.noteFinished (s : State) (core slot : Nat) (t : Team) : State :=
  if t.save = .again then s.setMember t 0 0 0
  else (s.setMember t 2 core slot).modLaunch t.bind.launch fun l => { l with doneWords := l.doneWords ++ [(t.die, t.words)] }

/-- A slot is given up: its team ends, and the room is offered (14 R390, R392). -/
def State.dropTeam (s : State) (core slot : Nat) (t : Team) : State :=
  let own := t.groups.map fun gx => (⟨core, slot, gx.1⟩ : GroupRef)
  let s1 := own.foldl State.withdrawSteal s
  let s2 := (s1.thieves core slot).foldl State.withdrawSteal s1
  let s3 := ((s2.writeBack core slot t).modCore core fun k => k.clearSlot slot t).purge core slot
  let s4 := (s3.noteFinished core slot t).slotResult core slot 3 0
  ((s4.offer core).askPlace t.bind.part).postOnce (.launchComplete t.bind.launch)

/-- SLOT_RELEASE: the slot of a team whose groups have all given theirs up is released (14 R390, 09 R236). -/
def execSlotRelease (core slot : Nat) (s : State) : Host.Outcome State Fault Refusal :=
  match (s.core core).team? slot with
  | none => happened (s.slotResult core slot 3 3)
  | some t =>
    if t.groups.any fun gx => gx.2.any fun x => !x.released then happened s
    else if (s.core core).slotBusy slot then happened (s.post (.slotRelease core slot))
    else happened (s.dropTeam core slot t)

/-- SLOT_KILL: SLOTCMD OP 2 kills the team in a slot at once (14 R390, 15 R416). -/
def execSlotKill (core slot : Nat) (s : State) : Host.Outcome State Fault Refusal :=
  match (s.core core).team? slot with
  | none => happened (s.slotResult core slot 2 3)
  | some _ => happened ((s.killTeam core slot 0).slotResult core slot 2 0)

/-- Whether a group that has exited may give its slot up: no fret counts, nothing of it is under way (09 R236). -/
def Group.spent (x : Group) : Bool :=
  x.frontier.isEmpty && x.aside.isEmpty && x.handler.isNone && x.log.isEmpty && x.hypWords.isEmpty && x.steal.isNone &&
    (List.range 12).all x.fretClear

/-- GROUP_SLOT_RELEASE: an exited group gives its slot up once its frets are clear; a status left makes the launch complete with an error
(09 R236). -/
def execGroupSlotRelease (g : GroupRef) (s : State) : Host.Outcome State Fault Refusal :=
  match s.team? g, s.group? g with
  | some t, some x =>
    if x.released ∨ x.exited ≠ BitVec.allOnes 32 then happened s
    else if !x.spent then happened (s.post (.groupSlotRelease g))
    else
      let s1 := if (x.failedFret (List.range 12)).isSome then s.launchStatus t.bind.launch 1 else s
      let s2 := s1.modGroup g fun x => { x with released := true }
      happened (if (s2.team? g).any fun t => t.groups.all fun gx => gx.2.all fun x => x.released then s2.post (.slotRelease g.core g.slot) else s2)
  | _, _ => happened s

/-! ## Pre-emption (15 R412 to R414) -/

/-- DTHR, FTHR and DMAX of PRECTL (15 R412). -/
def Die.dthr (d : Die) : Nat := (d.preCtl.extractLsb' 40 24).toNat
/-- FTHR. -/
def Die.fthr (d : Die) : Nat := (d.preCtl.extractLsb' 24 16).toNat
/-- DMAX. -/
def Die.dmax (d : Die) : Nat := (d.preCtl.extractLsb' 0 24).toNat

/-- Whether a pre-empted team drains: E of 15 R412 against DTHR. -/
def State.drains (s : State) (core : Nat) (t : Team) : Bool :=
  let done := ((s.launch? t.bind.launch).map fun l => l.doneWords.filter fun w => w.1 = dieOf core).getD []
  let d := (s.die (dieOf core)).dthr
  let r := t.groups.foldl (fun n gx => n + ((gx.2.map fun x => x.rate).getD 0)) 0
  let sum := done.foldl (fun n w => n + w.2) 0
  d ≠ 0 && !done.isEmpty && decide ((sum - done.length * t.words) * 1024 ≤ d * (done.length * Nat.max 1 r))

/-- Whether a pre-empted team may be flushed (15 R412). -/
def State.flushes (s : State) (core : Nat) (t : Team) : Bool :=
  t.idemKernel && decide (t.words < (s.die (dieOf core)).fthr * 1024) && !(t.groups.any fun gx => gx.2.any fun x => x.noFlush)

/-- PREACT.ACT (15 R412). -/
def State.setAct (s : State) (core n : Nat) : State :=
  s.modCore core fun k => { k with preAct := (k.preAct &&& ~~~3#64) ||| BitVec.ofNat 64 n }

/-- The commands of a slot that a save withdraws: matrix words not taken up, and ACC words behind them (12 R334, 15 R413). -/
def Core.withdrawable (k : Core) (slot : Nat) (c : Cmd) : Bool :=
  let product := fun m : Cmd => m.g.slot = slot && m.phase = 0 && m.chain.isNone && m.kind.unit = .matrix
  product c || (c.g.slot = slot && c.phase = 0 && c.chain.isNone && c.kind.unit = .port && k.commands.any fun m => product m && m.seq < c.seq)

/-- The frets of an engine word count it no more (12 R334, 09 R233). -/
def State.uncount (s : State) (c : Cmd) : State :=
  ((c.g, c.fret) :: c.also.map fun m => (m.1, m.2.1)).foldl (fun s gf => s.fretDown gf.1 gf.2 0) s

/-- A save withdraws the team's matrix words that have not been taken up and ends its leases; the products of its chains keep their place
in the lease queue (12 R334, 13 R371). -/
def State.withdrawWords (s : State) (core slot : Nat) : State :=
  let k := s.core core
  let mine := k.commands.filter (k.withdrawable slot)
  let keeps := fun q : LeaseReq => q.slot ≠ slot || q.word.any fun id => (k.cmd? id).any fun c => c.chain.isSome
  ((((mine.foldl State.uncount s).modTeam ⟨core, slot, 0⟩ fun t => { t with held := mine }).modCore core fun k =>
    { k with
      cmds := k.cmds.filter fun nc => !(nc.2.any (mine.contains ·))
      leaseQ := k.leaseQ.filter keeps
      lease := k.lease.bind fun l => if l.slot = slot then none else some l }).enterRequests core)

/-- A save starts: no group issues, words not taken up are withdrawn, and the context follows once the team is at rest (15 R413, R414). -/
def State.startSave (s : State) (core slot : Nat) : State :=
  ((s.modTeam ⟨core, slot, 0⟩ fun t => { t with save := .saving }).modCore core fun k =>
    { k with slotCmd := BitVec.ofNat 64 (2 ^ 63 + 2 ^ 7 + slot), slotSrc := BitVec.ofNat 64 (((k.team? slot).map fun t => t.ctx).getD 0) }).post
    (.contextSaveWrite core slot) |>.withdrawWords core slot

/-- Whether a group stands at a word that must end before a save: a push with an answer, a rollback (15 R411, R413). -/
def Group.midWord (x : Group) : Bool := x.wait = .rollback || x.push.any fun p => p.answer.isSome

/-- SLOT_SAVE: Chihoat asks for pre-emption; the hardware drains, flushes or saves (15 R412). -/
def execSlotSave (core slot : Nat) (s : State) : Host.Outcome State Fault Refusal :=
  match (s.core core).team? slot with
  | none => happened (s.slotResult core slot 1 3)
  | some t =>
    if t.save ≠ .none ∨ t.over then happened s
    else if t.groups.any fun gx => gx.2.any Group.midWord then happened (s.post (.slotSave core slot))
    else if s.drains core t then
      happened (((s.modTeam ⟨core, slot, 0⟩ fun t =>
        { t with save := .draining, drainEnd := s.cycle + (s.die (dieOf core)).dmax }).setAct core 0).post (.preemptDrainTimeout core slot))
    else if s.flushes core t then happened ((s.killForAgain core slot).setAct core 2)
    else happened ((s.startSave core slot).setAct core 1)

/-- PREEMPT_DRAIN_TIMEOUT: a team that has not exited DMAX cycles after the request is saved (15 R412). -/
def execPreemptDrainTimeout (core slot : Nat) (s : State) : Host.Outcome State Fault Refusal :=
  match (s.core core).team? slot with
  | none => happened s
  | some t =>
    if t.save ≠ .draining ∨ t.over then happened s
    else if s.cycle < t.drainEnd ∨ t.groups.any fun gx => gx.2.any Group.midWord then happened (s.post (.preemptDrainTimeout core slot))
    else happened ((s.startSave core slot).setAct core 1)

/-- Whether an entry of the operand log may be kept: it has a fault, or a line of it waits on translation, WP or HYPCAP (15 R413). -/
def State.logKept (s : State) (core part : Nat) (n : LogEntry) : Bool :=
  n.fault.isSome || ((s.part? part).any fun p => p.capWaits.isSome) || n.accs.any fun a =>
    match s.translate (dieOf core) part (a.addr / 128 * 128) n.op.kind with
    | .walk | .stalled => true
    | _ => false

/-- Whether a group is at rest (15 R413): a fence is complete, or waits for a word that stays in the log and goes on with it after the
restore. -/
def State.groupAtRest (s : State) (core part : Nat) (x : Group) : Bool :=
  !x.loadSweep && (x.fences.all fun f => (s.die (dieOf core)).fenceOver f || x.log.any fun n => decide (n.seq < f.upto)) && x.hypWords.isEmpty && x.log.all (s.logKept core part)

/-- Whether a team is at rest: its engine words, chains and incoming deliveries are complete (15 R413, 13 R371). -/
def State.atRest (s : State) (core slot : Nat) (t : Team) : Bool :=
  let k := s.core core
  (k.commands.all fun c => c.g.slot ≠ slot) && !(k.chains.any fun c => c.2.any fun c => c.g.slot = slot) &&
    (t.groups.all fun gx => gx.2.all fun x => s.groupAtRest core t.bind.part x) &&
    !s.pending.any fun e => match e with
      | .stageDelivery c n _ _ _ => c = core && n = slot
      | .taskDelivery g _ => g.core = core && g.slot = slot
      | .gangLatchClose c n _ => c = core && n = slot
      | .queueRunVisible c n => c = core && ((s.core core).queues.get none n).any fun q => q.owner = slot
      | _ => false

/-- The entries that wait at `msync` are entries of the frontier again, which issue it again (15 R413). -/
def Group.withdrawMsync (x : Group) : List FEntry :=
  x.aside.foldl (init := x.frontier) fun fs w =>
    if fs.any fun f => f.pc = w.entry.pc then
      fs.map fun f => if f.pc = w.entry.pc then f.join w.entry.mask w.entry.gmask w.entry.pri w.entry.deferred w.entry.redo else f
    else fs ++ [{ w.entry with passed := 0 }]

/-- A group at rest: waits are withdrawn, `sleep` ends, an arrival at `bar.sync` and a `capo.take` stay (15 R413). -/
def Group.rested (x : Group) : Group :=
  { x with
    frontier := x.withdrawMsync, aside := []
    wait := match x.wait with
      | .barSync b => .barSync b
      | .capo => .capo
      | _ => .none
    push := none, sweep := none, ticket := 0, drainAt := none
    fences := if x.log.isEmpty then [] else x.fences.map fun f => { f with mark := none, acq := 0 } }

/-- What the save takes from a group outside it: waits in queues and at locks, fence tickets, steals (15 R413). -/
def State.restGroup (s : State) (r : GroupRef) : State :=
  let s1 := ((s.withdrawSteal r).dropPush r).modTeam r fun t => t.quitLock r.grp
  { (s1.modCore r.core fun k => k.dropWaiter r).modGroup r Group.rested with
    modl := { s1.modl with
      ticketHolder := if s1.modl.ticketHolder = some r then none else s1.modl.ticketHolder
      ticketQueue := s1.modl.ticketQueue.filter fun q => q ≠ r } }

/-- A little-endian row of values of `n` bytes. -/
def rowOfBytes (n : Nat) (f : Nat → Nat) (k : Nat) : Nat :=
  (List.range k).foldl (fun x i => x + f i % 2 ^ (8 * n) * 2 ^ (8 * n * i)) 0

/-- A frontier entry in the form of 07 R187. -/
def FEntry.image (e : FEntry) : Nat :=
  e.pc.toNat + e.pri.toNat * 2 ^ 56 + e.deferred.toNat * 2 ^ 62 + 2 ^ 63 + e.mask.toNat * 2 ^ 64 + e.gmask.toNat * 2 ^ 96

/-- The parts of a group's section that 15 R414 lays out: offset, bytes, value. `f` is the number of a free value for the rest. -/
def Team.groupParts (t : Team) (f g : Nat) (x : Group) : List (Nat × Nat × Nat) :=
  (List.range 32).map (fun n => (128 * n, 128, rowOfBytes 4 (fun l => (t.vget g n l).toNat) 32)) ++
  [(0x1000, 512, rowOfBytes 8 (fun n => (x.sget n).toNat) 64),
   (0x1200, 1024, rowOfBytes 64 (fun n => ((x.qget n).map fun q => q.img.toNat).getD 0) 16),
   (0x1600, 256, rowOfBytes 16 (fun n => ((x.resv n).map fun r => r.w0.toNat + r.w8.toNat * 2 ^ 64).getD 0) 16),
   (0x1700, 128, rowOfBytes 16 (fun n => ((x.frontier[n]?).map FEntry.image).getD 0) 8),
   (0x1780, 64, rowOfBytes 8 (fun n => (x.zget n).toNat) 8),
   (0x17C0, 32, rowOfBytes 4 (fun n => (x.pget n).toNat) 8),
   (0x17E0, 32, Config.contextBytes f),
   (0x1800, 128, Config.contextBytes (f + 1)),
   (0x1880, 512, rowOfBytes 16 (fun l => (x.key.get 0 l).toNat + (x.ctr.get 0 l).toNat * 2 ^ 64) 32),
   (0x1A80, 512, rowOfBytes 16 (fun l => (x.idemKey.get 0 l).toNat + (x.idemCtr.get 0 l).toNat * 2 ^ 64) 32),
   (0x1C80, 64, rowOfBytes 2 (fun l => (x.hyp.get 0 l).toNat) 32),
   (0x1CC0, 3328, Config.contextBytes (f + 2)), (0x29C0, 0x1640, 0)]

/-- The parts of a context image (15 R414), from ADDR + 128. -/
def Team.contextParts (t : Team) (k : Core) (f : Nat) : List (Nat × Nat × Nat) :=
  let n := t.bind.ngm1 + 1
  let xs := 0x400 + 0x4000 * n
  let ys := xs + 0x2000 * ((n + 1) / 2)
  let os := ys + t.bind.spsize
  let rs := os + 1024 * t.bind.obsize
  [(0, 1024, Config.contextBytes f)] ++
  (t.groups.flatMap fun gx => match gx.2 with
    | none => []
    | some x => (t.groupParts (f + 1 + 3 * gx.1) gx.1 x).map fun p => (0x400 + 0x4000 * gx.1 + p.1, p.2)) ++
  ((List.range ((n + 1) / 2)).flatMap fun e => (List.range 64).map fun r =>
    (xs + 0x2000 * e + 128 * r, 128, rowOfBytes 4 (fun l => ((t.ext.get ⟨[], none, none⟩ e).v.get 0 (32 * (32 + r) + l)).toNat) 32)) ++
  [(ys, t.bind.spsize, k.scratch.read t.bind.spsize t.bind.spbase),
   (os, 1024 * t.bind.obsize, k.ob.read (1024 * t.bind.obsize) (1024 * t.bind.obbase))] ++
  ((List.range t.bind.arows).map fun r =>
    (rs + 2048 * r, 2048, rowOfBytes 4 (fun c => (k.acc.get 0 (512 * (t.bind.abase + r) + c)).toNat) 512)) ++
  ((List.range t.bind.arows).map fun r => (rs + 2048 * t.bind.arows + 4 * r, 4, (k.accSt.get 0 (t.bind.abase + r)).toNat))

/-- The save writes the record and the context in root memory (15 R414). -/
def State.writeContext (s : State) (core slot : Nat) (t : Team) : State :=
  let s1 := { s.writeBack core slot t with choices := s.choices + 97 }
  let s2 : State := { s1 with hbm := s1.hbm.write 128 t.ctx (t.bind.image t.tcount).toNat }
  { s2 with hbm := (t.contextParts (s.core core) s.choices).foldl (fun m p => m.write p.2.1 (t.ctx + 128 + p.1) p.2.2) s2.hbm }

/-- WAITERS bits of a saved team's groups are cleared (15 R413). -/
def Core.unwait (k : Core) (t : Team) : Core :=
  let f := fun b : Barrier => if b.ofTeam t.bind then { b with waiters := 0 } else b
  { k with barriers := k.barriers.map f, spilled := k.spilled.map f }

/-- A team at rest leaves its core: steals at it fail, its lanes leave CONFIRMED ids, its context is written, and its slot is free (15 R412 to
R414, 11 R312, 05 R139). -/
def State.parkTeam (s : State) (core slot : Nat) (t : Team) : State :=
  let own := t.groups.map fun gx => (⟨core, slot, gx.1⟩ : GroupRef)
  let s0 := (s.thieves core slot).foldl State.withdrawSteal s
  let s1 := own.foldl (fun s r => (s.restGroup r).followLanes r t.bind.part (~~~(((s.group? r).map (·.exited)).getD 0))) s0
  let s2 := (s1.modTeam ⟨core, slot, 0⟩ fun t => { t with regroupKeys := [], save := .saved }).modCore core fun k => k.unwait t
  let s3 := (((s2.core core).team? slot).map fun t => s2.writeContext core slot t).getD s2
  let n := (s3.core core).freePark
  let b := { t.bind with spbase := 2 ^ 20 * (n - 127), obbase := 256 * (n - 127), abase := 512 * (n - 127) }
  let s4 := (((s3.purge core slot).moveTeam core slot n b).slotResult core slot 1 0).clearSrc core
  (s4.offer core).askPlace t.bind.part

/-- CONTEXT_SAVE_WRITE: once the team is at rest its context is written and its slot given up (15 R413, R414). -/
def execContextSaveWrite (core slot : Nat) (s : State) : Host.Outcome State Fault Refusal :=
  match (s.core core).team? slot with
  | none => happened s
  | some t =>
    if t.save ≠ .saving ∨ t.over then happened s
    else if !s.atRest core slot t then happened (s.post (.contextSaveWrite core slot))
    else happened (s.parkTeam core slot t)

end Sys2Proof.Machine
end

