-- ==== Sys2Proof/Machine/Monitor.lean ====
section
/-! DEFINITION. What happens by itself: waiting groups, counters and thresholds, energy and clock, watchdog and partition reset (07 R198, 14 R393, R396, 15 R418, R419, 21 R461 to R463). -/

namespace Sys2Proof.Machine

/-! ## Waiting groups -/

/-- SLEEP_EXPIRE: a sleeping group becomes ready again (10 R277). -/
def execSleepExpire (g : GroupRef) (s : State) : Host.Outcome State Fault Refusal :=
  match (s.group? g).map Group.wait with
  | some (.sleep t) =>
    happened (if s.cycle < t then s.post (.sleepExpire g) else s.modGroup g fun x => { x with wait := .none })
  | _ => happened s

/-- A live lane of a team at `regroup`: its key, logical identity, group and lane (07 R198). -/
structure KeyedLane where
  key : Nat
  id : Nat

/-- Inserts a lane in the order of key, then identity. -/
def insertKeyed (a : KeyedLane) : List KeyedLane → List KeyedLane
  | [] => [a]
  | b :: t => if a.key < b.key ∨ (a.key = b.key ∧ a.id < b.id) then a :: b :: t else b :: insertKeyed a t

/-- The groups of a team that stand at `regroup`, ascending. -/
def Team.arrived (t : Team) : List Nat :=
  (List.range 32).filter fun g => (t.group? g).any fun x => x.wait = .regroup

/-- Whether every live group of a team stands at `regroup` (07 R199). -/
def Team.allArrived (t : Team) : Bool :=
  (List.range 32).all fun g => (t.group? g).all fun x => x.wait = .regroup || x.exited = BitVec.allOnes 32

/-- The logical identities of the live lanes, sorted (07 R198). -/
def Team.sortedIds (t : Team) : List Nat :=
  ((t.arrived.flatMap fun g => match t.group? g with
      | none => []
      | some x => (lanesOf x.live).map fun l => (⟨t.regroupKeys.get 0 (32 * g + l) - 1, x.lidOf g l⟩ : KeyedLane)).foldl
    (fun acc a => insertKeyed a acc) []).map (·.id)

/-- The entry after `regroup` of a group whose slots below `n` are live (07 R198). -/
def regroupEntry (n : Nat) (e : FEntry) : FEntry :=
  { pc := e.pc + 4, mask := lanesBelow n, gmask := 0, pri := e.pri, deferred := false, redo := none, kept := none, due := false }

/-- One group as `regroup` leaves it: its slots take identities, the others are exited (07 R198). -/
def Group.regrouped (g : Nat) (ids : List Nat) (x : Group) : Group :=
  { x with
    wait := .none, handler := none, lcur := 32, retired := x.retired + 1, total := x.total + 1
    exited := ~~~(lanesBelow ids.length)
    lid := (List.range 32).foldl (fun t l => match ids[l]? with
      | none => t
      | some i => t.set 0 l (if i = 32 * g + l then 0 else i + 1)) x.lid
    frontier := if ids.isEmpty then [] else (x.current.map (regroupEntry ids.length)).toList }

/-- The j-th group of those that arrived: its lanes that end leave their ids, those that begin count on theirs, and it takes its
identities; a group without one exits (07 R198, 05 R138). -/
def State.regroupOne (s : State) (r : GroupRef) (part : Nat) (ids : List Nat) : State :=
  match s.group? r with
  | none => s
  | some x =>
    let now := lanesBelow ids.length
    let s1 := s.exitLanes r part (x.live &&& ~~~now)
    let s2 := (lanesOf (now &&& ~~~x.live)).foldl (fun s l => s.countRef part (x.hypOf l) true) s1
    let s3 := s2.modGroup r (Group.regrouped r.grp ids)
    if ids.isEmpty then s3.groupExit r else s3

/-- REGROUP_COMPLETE: compaction completes after the last group arrives (07 R198, R199). -/
def execRegroupComplete (core slot : Nat) (s : State) : Host.Outcome State Fault Refusal :=
  match (s.core core).team? slot with
  | none => happened s
  | some t =>
    if t.regroupKeys.isEmpty ∨ !t.allArrived then happened s
    else
      let ids := t.sortedIds
      let s1 := s.modTeam ⟨core, slot, 0⟩ fun t => { t with regroupKeys := [] }
      happened ((List.zip t.arrived (List.range t.arrived.length)).foldl
        (fun s gj => s.regroupOne ⟨core, slot, gj.1⟩ t.bind.part ((ids.drop (32 * gj.2)).take 32)) s1)

/-- RATE_WINDOW_END: each group's count of retired words becomes its rate (14 R393); medians, lags and favoured groups follow from the
rates. -/
def execRateWindowEnd (core : Nat) (s : State) : Host.Outcome State Fault Refusal :=
  let s1 := s.modCore core fun k =>
    { k with teams := k.teams.map fun st => (st.1, st.2.map fun t =>
        { t with groups := t.groups.map fun gx => (gx.1, gx.2.map fun x => { x with rate := x.retired, retired := 0 }) }) }
  happened (if (s.core core).resident.isEmpty then s1 else s1.postOnce (.rateWindowEnd core))

/-! ## Counters and thresholds (14 R396, 21 R461) -/

/-- Kind and index of SEL (21 R461). -/
def selKind (sel : Nat) : Nat := sel / 4096
/-- The index. -/
def selIndex (sel : Nat) : Nat := sel % 4096

/-- The indices of each kind of counter (21 R461). -/
def kindSize : Nat → Nat
  | 0 => 1248
  | 1 => 21
  | 2 => 20
  | 3 => 1024
  | 4 => 64
  | 5 => 64
  | _ => 0

/-- A physical quantity is measured: energies grow, a temperature is what it is; the values are open (21 R461, log entry 4). -/
def State.measure (s : State) (sel : Nat) : State :=
  let old := s.modl.meters.get 0 sel
  let x := if selKind sel = 2 then Config.choice s.choices else old + Config.choice s.choices
  { s with choices := s.choices + 1, modl := { s.modl with meters := s.modl.meters.set 0 sel x } }

/-- Measures the counter if it is a physical quantity. -/
def State.sample (s : State) (sel : Nat) : State :=
  if selKind sel = 3 ∨ selKind sel = 5 then s else s.measure sel

/-- The value of a counter as it was last measured, or as the machine holds it (21 R461). -/
def State.counter (s : State) (sel : Nat) : Nat :=
  let k := selIndex sel
  if selKind sel = 3 then ((s.part? (k / 16)).map fun p => (p.lq (k % 16)).count).getD 0
  else if selKind sel = 5 then ((s.part? k).map fun p => p.orphans).getD 0
  else s.modl.meters.get 0 sel

/-- A threshold unit of a die. -/
def Die.threshold (d : Die) (u : Nat) : Threshold := d.thresholds.get ⟨0, 0, false⟩ u

/-- Changes a threshold unit. -/
def State.modThreshold (s : State) (die u : Nat) (f : Threshold → Threshold) : State :=
  s.modDie die fun d => { d with thresholds := d.thresholds.set ⟨0, 0, false⟩ u (f (d.threshold u)) }

/-- THRESHOLD_FIRE: an armed unit looks at its counter; a crossing sets FIRED, clears EN and posts TASK (14 R396). -/
def execThresholdFire (die unit : Nat) (s : State) : Host.Outcome State Fault Refusal :=
  let th := (s.die die).threshold unit
  let sel := (th.ctl.extractLsb' 0 16).toNat
  if !th.ctl.getLsbD 63 || decide (kindSize (selKind sel) ≤ selIndex sel) then happened s
  else
    let s1 := s.sample sel
    let v := s1.counter sel
    let beyond := if th.ctl.getLsbD 62 then decide (v < th.val.toNat) else decide (th.val.toNat < v)
    if beyond && th.was then
      happened { s1.modThreshold die unit fun h =>
          { h with ctl := (h.ctl ||| (1#64 <<< 61)) &&& ~~~(1#64 <<< 63), was := false } with
        modl := { s1.modl with tasks := s1.modl.tasks ++ [(die, (th.ctl.extractLsb' 32 16).toNat)] } }
    else happened ((s1.modThreshold die unit fun h => { h with was := h.was || !beyond }).post (.thresholdFire die unit))

/-! ## Energy and clock (21 R462, R463, 14 R388) -/

/-- CLOCK_STEP_TAKE_EFFECT: a written step takes effect; no other state changes (21 R462). -/
def execClockStepTakeEffect (part : Nat) (s : State) : Host.Outcome State Fault Refusal :=
  happened (s.modPart part fun p => match p.clockNext with
    | none => p
    | some n => { p with clock := n, clockNext := none })

/-- The step that Chihoat writes at the end of an interval, in units of 0.05 GHz (21 R463). -/
def nextClock (clock budget e : Nat) : Nat :=
  if budget < e then Nat.max 10 (clock - 1) else if 10 * e < 9 * budget ∧ clock < 25 then clock + 1 else clock

/-- EBUDGET in nanojoules (21 R460, R461). -/
def Part.budgetNj (p : Part) : Nat := p.budget * 10 ^ 8

/-- ENERGY_INTERVAL_END: the energy of the interval against the budget, the clock's step, and the launches that were held (21 R463, 14
R388). -/
def execEnergyIntervalEnd (part : Nat) (s : State) : Host.Outcome State Fault Refusal :=
  match s.part? part with
  | none => happened s
  | some p =>
    let sel := 4 * 4096 + part
    let s1 := s.measure sel
    let n := nextClock p.clock p.budgetNj (s1.counter sel)
    let s2 := { s1.modPart part fun p =>
        { p with committed := 0, clockNext := if n = p.clock then p.clockNext else some n
                 queues := (List.range 16).foldl (fun t q => t.set LQueue.empty q { p.lq q with held := false }) p.queues } with
      modl := { s1.modl with meters := s1.modl.meters.set 0 sel 0 } }
    let s3 := if n = p.clock then s2 else s2.postOnce (.clockStepTakeEffect part)
    happened ((s3.serve part).postOnce (.energyIntervalEnd part))

/-! ## Partition reset (15 R418, R419, 03 R101, 05 R158) -/

/-- The teams of a partition, by core and slot. -/
def State.partTeams (s : State) (part : Nat) : List (Nat × Nat) :=
  s.cores.flatMap fun ck => ck.2.teams.filterMap fun st =>
    if ((s.core ck.1).team? st.1).any fun t => t.bind.part = part then some (ck.1, st.1) else none

/-- What the watchdog compares: words retired by the partition's teams, engine commands completed on their cores (15 R418). -/
def State.progress (s : State) (part : Nat) : List Nat :=
  (s.partTeams part).flatMap fun r => match (s.core r.1).team? r.2 with
    | none => []
    | some t => [t.words, (s.core r.1).done]

/-- WATCHDOG_EXPIRE: a partition with a bound team that has made no progress since the watchdog last looked is reset (15 R418). -/
def execWatchdogExpire (part : Nat) (s : State) : Host.Outcome State Fault Refusal :=
  match s.part? part with
  | none => happened s
  | some p =>
    if p.wdog = 0 then happened s
    else
      let now := s.progress part
      let s1 := (s.modPart part fun p => { p with seen := now }).postOnce (.watchdogExpire part)
      happened (if (s.partTeams part).any (fun r => !parked r.2) ∧ now = p.seen then s1.postOnce (.partitionReset part) else s1)

/-- A frame or version of a partition. -/
def keyOfPart {α : Type} (part : Nat) (kx : Nat × α) : Bool := keyPart kx.1 = part

/-- Every frame, version and ownership range of a partition is discarded; what is on its way to a home is lost (03 R101). -/
def State.discardPart (s : State) (part : Nat) : State :=
  let s1 := (s.versions.filter (keyOfPart part)).foldl (fun s kv => s.dropVersion part (keyTag kv.1) (keyLine kv.1)) s
  { s1 with
    dies := s1.dies.map fun d => (d.1, { d.2 with l2 := d.2.l2.filter fun kf => !keyOfPart part kf
                                                  out := d.2.out.filter fun o => keyPart o.key ≠ part
                                                  owned := d.2.owned.filter fun o => o.part ≠ part })
    llc := s1.llc.filter fun kt => !keyOfPart part kt
    pending := (s1.pending.filter fun e => match e with
        | .homeRequest _ p _ _ => p ≠ part
        | _ => true).map fun e => match e with
        | .homeApplyWrite w => if w.part = part then .homeApplyWrite { w with bytes := ⟨0, 0⟩, psn := false } else e
        | _ => e }

/-- The packets that a queue holds and that have not been taken up (14 R383). -/
def State.queuedPackets (s : State) (p : Part) (q : Nat) : List (BitVec 512) :=
  (List.range (p.lq q).count).map fun k => BitVec.ofNat 512 (s.hbm.read 64 (p.ringAt q ((p.lq q).cons.toNat + k)))

/-- The packets of a queue are discarded; a launch among them completes with STATUS 6 (15 R419). -/
def State.discardQueue (s : State) (part : Nat) (p : Part) (q : Nat) : State :=
  let s1 := (s.queuedPackets p q).foldl (fun s x =>
    if packetType x = 1 ∧ field x 384 56 ≠ 0 then s.rootStore part 8 (field x 384 56) (completion x 6) else s) s
  s1.modLq part q fun k => { k with cons := k.prod, depWait := none, held := false, drainTo := none, batch := none }

/-- The hypothesis tree and the queues of a partition as after its reset (15 R419, 05 R136, R158). -/
def Part.afterReset (p : Part) : Part :=
  { p with hyp := [(0, HypEntry.root)], reqs := [], resolving := none, completing := [], order := [], committed := 0, seen := [],
           resetting := true, capWaits := none }

/-- A launch of a partition that is reset: no more of it starts, and it completes with STATUS 6 (14 R387, 15 R419). -/
def Launch.afterReset (l : Launch) : Launch := { l.stopped with status := 6 }

/-- Communicators of a partition break (16 R437). -/
def State.breakComms (s : State) (part : Nat) : State :=
  let s1 : State := { s with comms := s.comms.map fun c => if c.part = part then { c with broken := true } else c }
  (List.range s1.comms.length).foldl (fun s i => if (s.comms[i]?).any fun c => c.part = part then s.postOnce (.collComplete i) else s) s1

/-- The launches of a partition. -/
def State.partLaunches (s : State) (part : Nat) : List Nat :=
  s.launches.filterMap fun il => if il.2.any fun l => l.part = part then some il.1 else none

/-- PARTITION_RESET: every team of the partition is killed, its packets, frames, versions and tree go, its communicators break (15 R418,
R419, 03 R101). -/
def execPartitionReset (part : Nat) (s : State) : Host.Outcome State Fault Refusal :=
  match s.part? part with
  | none => happened s
  | some p =>
    let s1 := (List.range 16).foldl (fun s q => s.discardQueue part p q) s
    let s2 := (s.partLaunches part).foldl (fun s l => (s.modLaunch l Launch.afterReset).postOnce (.launchComplete l)) s1
    let s3 := (s.partTeams part).foldl (fun s r => s.killTeam r.1 r.2 6) s2
    let s4 : State := { s3 with cores := s3.cores.map fun ck => (ck.1, { ck.2 with
      barriers := ck.2.barriers.filter fun b => b.part ≠ part, spilled := ck.2.spilled.filter fun b => b.part ≠ part }) }
    happened (((s4.discardPart part).modPart part Part.afterReset).breakComms part |>.postOnce (.partitionResetComplete part))

/-- PARTITION_RESET_COMPLETE: once no team of the partition is left, its lines are gone from every die and it accepts launches again (15
R419). -/
def execPartitionResetComplete (part : Nat) (s : State) : Host.Outcome State Fault Refusal :=
  match s.part? part with
  | none => happened s
  | some p =>
    if !p.resetting then happened s
    else if !(s.partTeams part).isEmpty then happened (s.post (.partitionResetComplete part))
    else happened (((s.discardPart part).modPart part fun p => { p with resetting := false }).serve part)

end Sys2Proof.Machine
end

