-- ==== Sys2Proof/Machine/Pages.lean ====
section
/-! DEFINITION. Moving pages, bias, hints, and the accesses of the host and of other modules (06 R169 to R177, 16 R423, R424). -/

namespace Sys2Proof.Machine

/-! ## Lines taken back from the dies (03 R85, 06 R174, R176, R177) -/

/-- Whether a die has root bytes of the lines that their homes have not acknowledged. -/
def State.rootDirty (s : State) (p : Nat → Bool) (die : Nat) : Bool := (s.die die).out.any fun o => keyTag o.key = 0 && p (keyLine o.key)

/-- The dies that hold unapplied root bytes of the lines. -/
def State.dirtyDies (s : State) (p : Nat → Bool) : List Nat := (List.range 12).filter (s.rootDirty p)

/-- The dies send what they have written. -/
def State.sendDirty (s : State) (ds : List Nat) : State := ds.foldl (fun s d => s.postOnce (.rootWriteBatchSend d)) s

/-- Every die drops its root frames of the lines, and what it translated through them. -/
def State.dropFrames (s : State) (p : Nat → Bool) : State :=
  (List.range 12).foldl (fun s d => s.dropLeavesOf d p)
    { s with dies := s.dies.map fun d => (d.1, { d.2 with l2 := d.2.l2.filter fun kf => !(keyTag kf.1 = 0 && p (keyLine kf.1)) }) }

/-- A line is taken back from every die: besides, its home forgets its sharers. -/
def State.dropLines (s : State) (p : Nat → Bool) : State :=
  { s.dropFrames p with llc := s.llc.map fun kt =>
      if (keyTag kt.1 = 0 && p (keyLine kt.1)) = true then (kt.1, kt.2.map fun t => { t with sharers := 0, xdie := 15 }) else kt }

/-! ## Translation invalidations (06 R173) -/

/-- The invalidations that homes have sent and dies have not applied, each with its die; among them every one of a table line. -/
def State.tableInvalidations (s : State) : List (Nat × LineWrite) :=
  s.pending.filterMap fun e => match e with
    | .applyInvalidation d w => if w.tag = 0 then some (d, w) else none
    | _ => none

/-- Whether an invalidation is still to be applied, or stays for a command that translated through its line (06 R167). -/
def State.stillDue (s : State) (dw : Nat × LineWrite) : Bool :=
  s.tableInvalidations.any fun x => x.1 = dw.1 && x.2.line = dw.2.line && x.2.die = dw.2.die && x.2.clock = dw.2.clock

/-- TSYNC: BUSY is set, and the invalidations that homes have sent are awaited (06 R171, R173). -/
def execTsync (die : Nat) (s : State) : Host.Outcome State Fault Refusal :=
  let due := s.tableInvalidations
  happened ((s.modDie die fun d => { d with tsync := 1, tsyncDue := d.tsyncDue ++ due }).postOnce (.tsyncDone die))

/-- TSYNC_DONE: BUSY clears once every awaited invalidation has been applied, and every access translated through what it dropped has been
performed (06 R173). -/
def execTsyncDone (die : Nat) (s : State) : Host.Outcome State Fault Refusal :=
  if (s.die die).tsyncDue.any s.stillDue then happened (s.post (.tsyncDone die))
  else happened (s.modDie die fun d => { d with tsync := 0, tsyncDue := [] })

/-! ## The page copier (06 R171, R174) -/

/-- SIZE of PCCTL as a number of lines; none if it is reserved. -/
def copySize (ctl : DWord) : Option Nat :=
  match (ctl.extractLsb' 0 2).toNat with
  | 0 => some 512
  | 1 => some (2 ^ 19)
  | _ => none

/-- The source's physical address, its owner, and the destination's address (06 R171). -/
def Die.copySrc (d : Die) : Nat := (d.pcSrc.extractLsb' 16 36).toNat * 65536
/-- The owning module of the source. -/
def Die.copyOwner (d : Die) : Nat := if d.copySrc / 2 ^ 40 = 0xFFF then (d.pcSrc.extractLsb' 4 12).toNat else 0
/-- The destination's physical address. -/
def Die.copyDst (d : Die) : Nat := (d.pcDst.extractLsb' 16 36).toNat * 65536

/-- Whether a copy is refused (06 R171). -/
def Die.copyRefused (d : Die) : Bool :=
  match copySize d.pcCtl with
  | none => true
  | some n =>
    let b := 128 * n
    let (src, _, dst) := d.pcJob
    src % b ≠ 0 || dst % b ≠ 0 || placeOf dst ≠ .hbm || (placeOf src = .hbm && decide (src < dst + b) && decide (dst < src + b))

/-- PAGE_COPY: a write of PCCTL starts the copier (06 R171, R174); one without BUSY, or while it runs, starts nothing. ERR of an earlier copy
stays until the next copy starts (log entry 105). -/
def execPageCopy (die : Nat) (ctl : DWord) (s : State) : Host.Outcome State Fault Refusal :=
  if (s.die die).pcCtl.getLsbD 63 then happened s
  else
    let size := ctl &&& 3
    if !ctl.getLsbD 63 then happened (s.modDie die fun d => { d with pcCtl := (d.pcCtl &&& (1#64 <<< 62)) ||| size })
    else happened ((s.modDie die fun d =>
      { d with pcCtl := (1#64 <<< 63) ||| size, pcJob := (d.copySrc, d.copyOwner, d.copyDst), pcNext := 0
               pcWork := Work.new, pcErr := false }).postOnce (.pageCopyDone die))

/-- The page copier of a die as an engine; its root frames are no partition's. -/
def State.copier (s : State) (die : Nat) : Eng := ⟨2 ^ 21 + die, 0, die, noPart, 0, true, (s.die die).pcWork⟩

/-- The copier ends: BUSY clears, ERR is set if the copy was refused or met a lasting error (06 R171). -/
def State.endCopy (s : State) (die : Nat) (err : Bool) : State :=
  s.modDie die fun d =>
    { d with pcCtl := (d.pcCtl &&& ~~~(1#64 <<< 63)) ||| (if err then 1#64 <<< 62 else 0), pcNext := 0, pcWork := Work.new, pcErr := false }

/-- The lines that the copier has written leave its die's exclusivity once their homes have applied them (03 R90, R91). -/
def State.leaveCopied (s : State) (die : Nat) : State :=
  (s.llc.filterMap fun kt => kt.2.bind fun t =>
      if keyPart kt.1 = noPart && t.xdie.toNat = die && !s.lineOut die noPart 0 (keyLine kt.1) then some (keyLine kt.1) else none).foldl
    (fun s l => s.leaveLine die noPart 0 l) s

/-- Whether a write of the copier has still to be applied. -/
def State.copyOwes (s : State) (die : Nat) : Bool := (s.die die).out.any fun o => keyPart o.key = noPart

/-- The copier writes one line to the destination as an engine write, after what the source's home has applied; poisoned if the source is.
While exclusivity of the line, or room for it, is awaited it does not go on (06 R174, 03 R91, R99). -/
def State.copyLine (s : State) (die pa : Nat) (x : Line) (bad : Bool) : State :=
  let e := s.copier die
  let s1 := ((s.modDie die fun d => { d with clock := clockMax d.clock s.applied }).closeBatch die).putLine e ⟨0, pa, 0, false⟩
    ⟨BitVec.allOnes 128, x⟩ (if bad then BitVec.allOnes 16 else 0)
  let s2 := if (s1.die die).pcWork.wrote.isEmpty then s1
    else s1.modDie die fun d => { d with pcNext := d.pcNext + 1, pcWork := Work.new, pcErr := d.pcErr || bad }
  s2.post (.pageCopyDone die)

/-- PAGE_COPY_DONE: the copier takes the next source line: its home takes it back from every die, or its owner is read. Once the last line
has been written and every write applied the copy completes, with ERR if it met a lasting error; a refused copy completes with ERR and no
data moved (06 R171, R174). A forwarded source whose access is refused or lost is taken as a lasting error (log entry 106). -/
def execPageCopyDone (die : Nat) (s0 : State) : Host.Outcome State Fault Refusal :=
  let s := s0.leaveCopied die
  let d := s.die die
  if !d.pcCtl.getLsbD 63 then happened s
  else match copySize d.pcCtl with
    | none => happened (s.endCopy die true)
    | some n =>
      if d.copyRefused then happened (s.endCopy die true)
      else if d.pcNext = n then
        if s.copyOwes die then happened (s.post (.pageCopyDone die)) else happened (s.endCopy die d.pcErr)
      else
        let src := d.pcJob.1 + 128 * d.pcNext
        let owner := d.pcJob.2.1
        let dst := d.pcJob.2.2 + 128 * d.pcNext
        if s.isFlipping src ∨ s.isFlipping dst then happened (s.post (.pageCopyDone die))
        else if placeOf src ≠ .hbm then
          let lost := s.forwarding src owner ≠ .open_ ∨ s.farPoisoned src owner
          happened (s.copyLine die dst (if lost then 0 else BitVec.ofNat 1024 (s.forwardedRead src owner 128)) lost)
        else
          let dirty := s.dirtyDies (· = src / 128)
          if !dirty.isEmpty then happened ((s.sendDirty dirty).post (.pageCopyDone die))
          else
            let s1 := (s.dropLines (· = src / 128)).hostYields (src / 128)
            happened (s1.copyLine die dst (s1.homeLine (src / 128)) (s1.rootPoisoned (src / 128)))

/-! ## Bias flips (06 R176, R177) -/

/-- The bit of a frame in the bias table (06 R176). -/
def State.biasBit (s : State) (frame : Nat) : Bool := (s.hbm.byte (s.modl.biasBase + frame / 8)).getLsbD (frame % 8)

/-- The bit of a frame in the bias table changes: a root write of the home's at the table's home (06 R176, R177). -/
def State.setBias (s : State) (frame : Nat) (host : Bool) : State :=
  let pa := s.modl.biasBase + frame / 8
  let bit := 2 ^ (frame % 8)
  let old := (s.hbm.byte pa).toNat
  s.agentWrite pa 1 (old - (if s.biasBit frame then bit else 0) + if host then bit else 0)

/-- Whether a flip of a frame changes nothing: it is in the target bias, has no bias, or may not go to the host (06 R176, R177, 16
R425). -/
def State.flipIdle (s : State) (pa : Nat) (toHost : Bool) : Bool :=
  placeOf pa ≠ .hbm || (toHost && !s.feature 2) || (!s.isFlipping pa && s.biasBit (pa / 65536) = toHost)

/-- Frame address and target of a flip request (06 R177). -/
def flipFrame (x : DWord) : Nat := (x.extractLsb' 16 36).toNat * 65536
/-- The target: host bias. -/
def flipToHost (x : DWord) : Bool := x.getLsbD 62

/-- BIAS_FLIP: a write of BFLIP asks for a flip (06 R177); one without BUSY asks for nothing. -/
def execBiasFlip (die : Nat) (flip : DWord) (s : State) : Host.Outcome State Fault Refusal :=
  let x := flip &&& 0xC00FFFFFFFFF0000
  if (s.die die).bflip.getLsbD 63 then happened s
  else if !flip.getLsbD 63 ∨ s.flipIdle (flipFrame flip) (flipToHost flip) then
    happened (s.modDie die fun d => { d with bflip := x &&& ~~~(1#64 <<< 63) })
  else happened ((s.modDie die fun d => { d with bflip := x }).startFlip (flipFrame flip) (flipToHost flip))

/-- The mailbox's command is done (21 R458). -/
def State.mboxDone (s : State) (code : Nat) : State :=
  { s with modl := { s.modl with
      mboxCmd := s.modl.mboxCmd &&& ~~~(1#64 <<< 63)
      mboxStat := (s.modl.mboxCmd <<< 32) ||| BitVec.ofNat 64 (code % 256) } }

/-- Whether the mailbox waits for a flip of a frame. -/
def State.mboxFlips (s : State) (frame : Nat) (toHost : Bool) : Bool :=
  let x : DWord := s.modl.mboxPayload.setWidth 64
  s.modl.mboxCmd.getLsbD 63 && s.modl.mboxCmd.extractLsb' 40 8 = 7 && flipFrame x / 65536 = frame && flipToHost x = toHost

/-- Everyone who asked for a flip learns of its completion (06 R177). -/
def State.flipAnswer (s : State) (frame : Nat) (toHost : Bool) : State :=
  let s1 : State := { s with dies := s.dies.map fun d => (d.1,
      if d.2.bflip.getLsbD 63 && flipFrame d.2.bflip / 65536 = frame && flipToHost d.2.bflip = toHost then
        { d.2 with bflip := d.2.bflip &&& ~~~(1#64 <<< 63) }
      else d.2) }
  if s1.mboxFlips frame toHost then s1.mboxDone 0 else s1

/-- The oldest flip asked for a frame ends. -/
def dropFlip (frame : Nat) : List (Nat × Bool) → List (Nat × Bool)
  | [] => []
  | f :: t => if f.1 = frame then t else f :: dropFlip frame t

/-- BIAS_FLIP_DONE: the losing side is drained, then the bias bit changes: before host bias every die sends its bytes of the frame and drops
its lines, and the LLC drops them; before device bias the home recalls every copy of the host's, whose bytes are the home's. Flips of one frame end in the order they were asked for (06
R177). -/
def execBiasFlipDone (frame : Nat) (toHost : Bool) (s : State) : Host.Outcome State Fault Refusal :=
  match s.modl.flipping.find? fun f => f.1 = frame with
  | none => happened s
  | some f =>
    if f.2 ≠ toHost then happened (s.post (.biasFlipDone frame toHost))
    else
      let p := fun line => line / 512 = frame
      let dirty := if toHost then s.dirtyDies p else []
      if !dirty.isEmpty then happened ((s.sendDirty dirty).post (.biasFlipDone frame toHost))
      else
        let s1 : State := if toHost then
            let s' := s.dropFrames p
            { s' with llc := s'.llc.filter fun kt => !(keyTag kt.1 = 0 && p (keyLine kt.1)) }
          else { s with modl := { s.modl with hostCopies := s.modl.hostCopies.filter fun l => !p l } }
        let s2 := s1.setBias frame toHost
        happened ({ s2 with modl := { s2.modl with flipping := dropFlip frame s2.modl.flipping } }.flipAnswer frame toHost)

/-! ## Hints (06 R170, R171) -/

/-- HINT_POST: the hint of a count that has reached HINTTHR is written, with the count at the crossing, or dropped if the ring is full (06
R170, R171). -/
def execHintPost (die part : Nat) (hint : Hint) (s : State) : Host.Outcome State Fault Refusal :=
  happened (s.writeHint die part hint.vpage hint.count hint.src)

/-! ## The host and other modules (06 R169, R176, 16 R423, R424, 04 R130) -/

/-- The device address of a line of the host's memory map, through a committed decoder (16 R423). -/
def State.windowLine (s : State) (hostLine : Nat) : Option Nat :=
  (s.modl.hdm.find? fun d => d.2.2.2.2 && decide (d.2.1 * 2 ^ 28 ≤ 128 * hostLine) && decide (128 * hostLine < (d.2.1 + d.2.2.1) * 2 ^ 28)).map
    fun d => hostLine - d.2.1 * 2 ^ 21 + d.2.2.2.1 * 2 ^ 21

/-- A host access reaches a line: none if it is no line of a window or the module is not open (16 R423, 21 R454). -/
def State.hostLineOf (s : State) (hostLine : Nat) : Option Nat := if s.open_ then s.windowLine hostLine else none

/-- A host access waits while the frame flips, and in host bias until no die holds the line (06 R176, R177): the state it then meets,
or the one that waits. -/
def State.hostAccess (s : State) (line : Nat) : State ⊕ State :=
  if s.isFlipping (128 * line) then .inl s
  else if !s.hostBias (128 * line) then .inr s
  else
    let dirty := s.dirtyDies (· = line)
    if dirty.isEmpty then .inr (s.dropLines (· = line)) else .inl (s.sendDirty dirty)

/-- The host holds a copy of a line in host bias (06 R176). -/
def State.hostHolds (s : State) (line : Nat) : State :=
  if s.hostBias (128 * line) ∧ !s.modl.hostCopies.contains line then { s with modl := { s.modl with hostCopies := s.modl.hostCopies ++ [line] } }
  else s

/-- HOST_MEM_READ: the host reads a line of a window: its root value, with its poison; in host bias it then holds a copy (06 R176, 16 R424). -/
def execHostMemRead (hostLine : Nat) (s : State) : Host.Outcome State Fault Refusal :=
  match s.hostLineOf hostLine with
  | none => happened s
  | some line =>
    match s.hostAccess line with
    | .inl s1 => happened (s1.post (.hostMemRead hostLine))
    | .inr s1 =>
      let s2 := s1.hostHolds line
      happened { s2 with modl := { s2.modl with hostData := s2.homeLine line, hostPoison := s2.rootPoisoned line } }

/-- HOST_MEM_WRITE: the host writes bytes of a line of a window at its home; data that arrives poisoned is a lasting error (06 R176, 16
R424). -/
def execHostMemWrite (hostLine : Nat) (bytes : LineBytes) (poison : Bool) (s : State) : Host.Outcome State Fault Refusal :=
  match s.hostLineOf hostLine with
  | none => happened s
  | some line =>
    match s.hostAccess line with
    | .inl s1 => happened (s1.post (.hostMemWrite hostLine bytes poison))
    | .inr s1 => happened (s1.rootApply line bytes s1.applied 12 0 poison)

/-- HOST_SNOOP: the home answers a host snoop on a line in host bias by recalling it from every die (06 R176). -/
def execHostSnoop (line : Nat) (s : State) : Host.Outcome State Fault Refusal :=
  if s.isFlipping (128 * line) then happened (s.post (.hostSnoop line))
  else if !s.hostBias (128 * line) then happened s
  else
    let dirty := s.dirtyDies (· = line)
    if dirty.isEmpty then happened ((s.dropLines (· = line)).hostHolds line) else happened ((s.sendDirty dirty).post (.hostSnoop line))

/-- The bytes of a line from an offset on, round its end. -/
def lineFrom (x : Line) (off n : Nat) : Nat := (x.toNat / 2 ^ (8 * off) + x.toNat * 2 ^ (8 * (128 - off))) % 2 ^ (8 * n)

/-- Another module is answered with a line as it stands, and its poison (03 R99). -/
def State.fabAnswer (s : State) (line : Nat) : State :=
  { s with modl := { s.modl with fabData := s.homeLine line, fabPoison := s.rootPoisoned line } }

/-- FABRIC_REQUEST_IN: another module's access is performed at the home (06 R169, 04 R130). `kind` is a function code of 11 R285: 14 a
load, 15 a store, else an atomic on the 4 or 8 masked bytes, whose operand lies there and the second one of `cas` after it. A load or atomic
of a poisoned line is answered with its poison, and the atomic has no other effect (03 R99). -/
def execFabricRequestIn (kind : BitVec 4) (line : Nat) (bytes : LineBytes) (s : State) : Host.Outcome State Fault Refusal :=
  if !s.open_ || !s.feature 3 || decide (2 ^ 33 ≤ line) then happened s
  else if s.isFlipping (128 * line) then happened (s.post (.fabricRequestIn kind line bytes))
  else if kind = 15 then happened (s.rootApply line bytes s.applied 12)
  else if kind = 14 ∨ s.rootPoisoned line then happened (s.fabAnswer line)
  else
    let n := ((List.range 128).filter fun k => bytes.mask.getLsbD k).length
    let off := ((List.range 128).find? fun k => bytes.mask.getLsbD k).getD 0
    if bytes.mask ≠ byteMask off n ∨ (n ≠ 4 ∧ n ≠ 8) ∨ off % n ≠ 0 then happened s
    else
      let old := lineBytes (s.homeLine line) off n
      let s1 := s.fabAnswer line
      match atomNew kind (8 * n) old (lineFrom bytes.data off n) (lineFrom bytes.data ((off + n) % 128) n) with
      | none => happened s1
      | some x => happened (s1.rootApply line (bytesAt (128 * line + off) n x) s1.applied 12)

/-! ## Chihoat's changes of tables (06 R172), and the memory of others (06 R161) -/

/-- Chihoat's `.dev` atomic on 8 bytes, from a die's core: performed at the home once the die's writes have been applied there; on the left
while it waits. A poisoned line gives it an error and nothing is written (06 R172, R177, 03 R87, R99). -/
def State.chihoatAtomic (s : State) (die : Nat) (op : BitVec 4) (pa : Nat) (x y : DWord) : State ⊕ State :=
  let line := pa / 128
  if decide (2 ^ 40 ≤ pa) || pa % 8 ≠ 0 then .inr s
  else if s.isFlipping pa then .inl s
  else if !s.lineSettled die noPart line [0] then .inl (s.postOnce (.rootWriteBatchSend die))
  else if s.rootPoisoned line then .inr s
  else match atomNew op 64 (lineBytes (s.homeLine line) (pa % 128) 8) x.toNat y.toNat with
    | none => .inr s
    | some v => .inr (s.writeHome die noPart 0 line (bytesAt pa 8 v))

/-- The host, or another module, writes a line of its own memory (06 R161, 16 R424). -/
def State.farWrite (s : State) (remote : Bool) (line : Nat) (x : LineBytes) (poison : Bool) : State :=
  let s1 : State := if remote then { s with remote := s.remote.writeMasked 128 (128 * line) x.data.toNat x.mask.toNat }
    else { s with hostMem := s.hostMem.writeMasked 128 (128 * line) x.data.toNat x.mask.toNat }
  s1.setFar (remote, line) x.mask poison

end Sys2Proof.Machine
end

