-- ==== Sys2Proof/Machine/Errors.lean ====
section
/-! DEFINITION. Errors of memories and caches, and what else comes from outside (02 R73 to R75, 03 R97 to R100, 06 R172, 16 R424). -/

namespace Sys2Proof.Machine

/-! ## Memories of a core (02 R73, R75) -/

/-- Spares of a memory: units 0 scratchpad, 1 operand buffer, 2 accumulator, 3 register slices (02 R73). -/
def unitSpares (unit : Nat) : Nat := if unit = 1 then 2 else 4

/-- Whether two rows of a unit share their spares: the same bank, the operand buffer, the same quadrant bank, the same slice (02 R37, R73). -/
def sameBank (unit a b : Nat) : Bool :=
  if unit = 0 then a % 32 = b % 32 else if unit = 1 then true else if unit = 2 then a % 4 = b % 4 else a / 256 = b / 256

/-- The spares that have been used for a row. -/
def Core.sparesUsed (k : Core) (unit row : Nat) : Nat := (k.retired.filter fun r => r.1 = unit && sameBank unit r.2 row).length

/-- A line of a register slice, row 256 × string + line, as slot, group and register: a line of a base block, or of an extended block, which
is named by the first group of its pair (02 R37, R38). -/
def Core.lineOwner (k : Core) (row : Nat) : Option (Nat × Nat × Nat) :=
  let line := row % 256
  let pair := 2 * (row / 256) + (if line < 128 then line / 64 else (line - 128) / 64)
  k.resident.findSome? fun st =>
    ((List.range st.2.bind.pairs).find? fun j => st.2.bind.strAt j = pair).map fun j =>
      if line < 128 then (st.1, 2 * j + line / 32 % 2, line % 32) else (st.1, 2 * j, 32 + (line - 128) % 64)

/-- A line of a register slice is zeroed and poisoned (02 R73). -/
def Team.loseLine (t : Team) (g n : Nat) : Team := (t.vset g n (BitVec.allOnes 32) fun _ => 0).poisonLine g n

/-- A row is retired to a spare, which is zero and poisoned until it is written: unit 0 a row of a scratchpad bank, 1 a granule of the
operand buffer, 2 an accumulator row, 3 a register line. With no spare left the core is reported (02 R73). -/
def Core.retireRow (k : Core) (unit row : Nat) : Core :=
  let room := decide (k.sparesUsed unit row < unitSpares unit)
  let k1 := { k with retired := k.retired ++ [(unit, row)], reported := k.reported || !room }
  if unit = 0 then
    { k1 with scratch := k.scratch.write 16 (16 * row) 0
              scratchPsn := k.scratchPsn ++ [2 * row, 2 * row + 1].filter fun p => !k.scratchPsn.contains p }
  else if unit = 1 then
    { k1 with ob := k.ob.write 1024 (1024 * row) 0
              obPsn := k.obPsn ++ ((List.range 128).map fun j => 128 * row + j).filter fun p => !k.obPsn.contains p }
  else if unit = 2 then
    { k1 with acc := k.acc.drop fun n => n / 512 = row
              accSt := k.accSt.set 0 row (k.accSt.get 0 row ||| 2) }
  else match k.lineOwner row with
    | none => k1
    | some (slot, g, n) => { k1 with teams := k1.teams.set none slot ((k1.team? slot).map fun t => t.loseLine g n) }

/-- The row of a register of a group in its slice: 256 × string + line (02 R37, R38). -/
def BindRec.lineRow (b : BindRec) (g n : Nat) : Nat :=
  let pair := b.strAt (g / 2)
  256 * (pair / 2) + (if n < 32 then 64 * (pair % 2) + 32 * (g % 2) + n else 128 + 64 * (pair % 2) + (n - 32))

/-- The rows of a unit. -/
def unitRows (unit : Nat) : Nat := if unit = 0 then 65536 else if unit = 1 then 256 else if unit = 2 then 512 else if unit = 3 then 16384 else 0

/-- One more in a counter of a table. -/
def countUp (t : Tbl Nat) (k : Nat) : Tbl Nat := t.set 0 k (t.get 0 k + 1)

/-- An error in a row of a core's memory: it is corrected, was transient, or is lasting (02 R73). -/
def State.rowError (s : State) (core unit row : Nat) (kind : ErrKind) : State :=
  if unitRows unit ≤ row then s
  else s.modCore core fun k => match kind with
    | .single => { k with corrected := countUp k.corrected unit }
    | .transient => { k with transient := countUp k.transient unit }
    | .lasting => k.retireRow unit row

/-- LATE_FAULT: a lasting register-slice or operand-log error found after younger words issued; `line` is the register, or 96
and the log's place. The register's line is retired to a spare, and what it held is lost and poisoned (02 R73, 15 R409, R411). -/
def execLateFault (g : GroupRef) (line : Nat) (s : State) : Host.Outcome State Fault Refusal :=
  match s.team? g, s.group? g with
  | some t, some x =>
    let poisoned := if line < 96 then s.modCore g.core fun k => k.retireRow 3 (t.bind.lineRow g.grp line) else s
    if s.policyB t.bind.part then happened (poisoned.policyKill g.core g.slot)
    else if x.idem.getLsbD 63 = false then happened (poisoned.killTeam g.core g.slot 1)
    else
      let s0 := if x.wait = .rollback then s else poisoned
      let s1 := (x.log.foldl (fun s n => s.dropLog g n) s0).dropTail g
      let s2 := s1.modGroup g fun x => { x.forget with wait := .rollback }
      if s2.enginesBusy g then happened (s2.post (.lateFault g line)) else happened (s2.rolledBack g t.bind.entry)
  | _, _ => happened s

/-- PATROL_SCRUB: a row of the scratchpad, the operand buffer or the accumulator is read; it is clean, or an error is found (02 R73, R75).
Which is a free choice (log entry 4). -/
def execPatrolScrub (core unit row : Nat) (s : State) : Host.Outcome State Fault Refusal :=
  if 3 ≤ unit ∨ unitRows unit ≤ row then happened s
  else
    let s1 := { s with choices := s.choices + 1 }
    match Config.choice s.choices % 4 with
    | 0 => happened s1
    | 1 => happened (s1.rowError core unit row .single)
    | 2 => happened (s1.rowError core unit row .transient)
    | _ => happened (s1.rowError core unit row .lasting)

/-! ## Caches and HBM (03 R97, R98, R100) -/

/-- The number of an L2 slice. -/
def l2Unit (die line : Nat) : Nat := 32 * die + l2Slice line

/-- The number of an LLC slice. -/
def llcUnit (line : Nat) : Nat := 384 + homeDie line

/-- Changes what is known of errors. -/
def State.modHealth (s : State) (f : Health → Health) : State := { s with health := f s.health }

/-- A frame with a lasting error is retired to a spare of its slice; with none left its way is disabled for its set, and the slice is
reported for repair (03 R97, R98). -/
def Health.retire (h : Health) (unit spares set way : Nat) : Health :=
  if h.spares.get 0 unit < spares then { h with spares := countUp h.spares unit }
  else
    { h with off := if h.off.contains (unit, set, way) then h.off else h.off ++ [(unit, set, way)]
             repair := if h.repair.contains unit then h.repair else h.repair ++ [unit] }

/-- An error that SECDED or the symbol code corrects, or that a retry does not find again. -/
def Health.soft (h : Health) (unit : Nat) (kind : ErrKind) : Health :=
  match kind with
  | .single => { h with corrected := countUp h.corrected unit }
  | .transient => { h with transient := countUp h.transient unit }
  | .lasting => h

/-- A frame of a die's L2 and what it has still to send are poisoned. -/
def Die.poisonFrame (d : Die) (key : Nat) (f : Frame) : Die :=
  { d with l2 := d.l2.set none key (some { f with psn := true })
           out := d.out.map fun o => if o.key = key ∧ o.sent.isNone then { o with psn := true } else o }

/-- An error in the data of an L2 frame: a clean frame drops its bytes, which are fetched again; a dirty or speculative one is corrected, was
transient, or goes on in a spare, poisoned (03 R97, R98). -/
def State.l2Error (s : State) (die key : Nat) (kind : ErrKind) : State :=
  match (s.die die).l2.get none key with
  | none => s
  | some f =>
    let unit := l2Unit die (keyLine key)
    if f.dmask = 0 ∧ f.state ≠ 5 then
      (s.modDie die fun d => d.setFrame (keyPart key) (keyTag key) (keyLine key)
        { f with vmask := 0, state := frameState (keyTag key) { f with vmask := 0 } }).modHealth fun h => { h with refetched := countUp h.refetched unit }
    else match kind with
      | .lasting => (s.modDie die fun d => d.poisonFrame key f).modHealth fun h => h.retire unit 64 (l2Set (keyLine key)) f.way
      | _ => s.modHealth fun h => h.soft unit kind

/-- A line of HBM is poisoned. -/
def State.poisonHbm (s : State) (line : Nat) : State := { s with hbmPsn := if s.hbmPsn.contains line then s.hbmPsn else s.hbmPsn ++ [line] }

/-- What an LLC frame holds is poisoned: the root's bytes, or a version. -/
def State.poisonLlc (s : State) (key : Nat) : State :=
  if keyTag key = 0 then { s.poisonHbm (keyLine key) with llc := s.llc.map fun kt => rootModified (keyLine key) true kt }
  else { s with versions := s.versions.set none key ((s.versions.get none key).map fun v => { v with psn := true })
                llc := s.llc.set none key ((s.llc.get none key).map fun t => { t with psn := true }) }

/-- An error in the data of an LLC frame: one whose bytes HBM holds is fetched again from there; one of STATE 2 or 3 is corrected, was
transient, or goes on in a spare, poisoned (03 R97, R98). -/
def State.llcError (s : State) (key : Nat) (kind : ErrKind) : State :=
  match s.llc.get none key with
  | none => s
  | some t =>
    let unit := llcUnit (keyLine key)
    if t.state ≠ 2 ∧ t.state ≠ 3 then s.modHealth fun h => { h with refetched := countUp h.refetched unit }
    else match kind with
      | .lasting => (s.poisonLlc key).modHealth fun h => h.retire unit 4096 (llcSet (keyLine key)) t.way
      | _ => s.modHealth fun h => h.soft unit kind

/-- An error that a read of HBM finds, of a line that the LLC does not hold: corrected, transient, or lasting: the line is written back with
the poison pattern, and its 64 KiB frame is reported to Chihoat (03 R97, R98). -/
def State.hbmError (s : State) (line : Nat) (kind : ErrKind) : State :=
  let held := s.llc.any fun kt => keyLine kt.1 = line && keyTag kt.1 = 0 && kt.2.isSome
  if held ∨ 2 ^ 33 ≤ line then s
  else match kind with
    | .lasting => (s.poisonHbm line).modHealth fun h =>
        { h with frames := if h.frames.contains (line / 512) then h.frames else h.frames ++ [line / 512] }
    | _ => s.modHealth fun h => h.soft (392 + homeStack (128 * line)) kind

/-- The partitions whose way mask of a slice holds a way (03 R83, R100). -/
def State.partsOfWay (s : State) (slice way : Nat) : List Nat :=
  s.parts.filterMap fun np => if np.2.any fun p => (if slice < 384 then p.l2ways else p.llcways).getLsbD way then some np.1 else none

/-- An error in a tag, mask or ownership entry: corrected from the other copy; in both copies it is reported to Chihoat, which resets every
partition whose way mask holds the way (03 R97, R100). -/
def State.tagError (s : State) (slice way : Nat) (both : Bool) : State :=
  if 392 ≤ slice ∨ 16 ≤ way then s
  else if !both then s.modHealth fun h => h.soft slice .single
  else (s.partsOfWay slice way).foldl (fun s p => s.postOnce (.partitionReset p)) (s.modHealth fun h => { h with tags := h.tags ++ [(slice, way)] })

/-! ## Table entries of a core (02 R73, R74) -/

/-- The parity of a barrier entry is wrong; under policy B its team is killed (02 R74). -/
def State.barrierError (s : State) (core i : Nat) : State :=
  match (s.core core).barriers[i]? with
  | none => s
  | some b =>
    let s1 := s.modCore core fun k => { k with barriers := k.barriers.set i { b with bad := true } }
    match (s.core core).resident.find? fun st => b.ofTeam st.2.bind with
    | none => s1
    | some st => if s.policyB b.part then s1.policyKill core st.1 else s1

/-- The parity of a queue descriptor is wrong (02 R74). -/
def State.queueError (s : State) (core n : Nat) : State :=
  match (s.core core).queues.get none n with
  | none => s
  | some q =>
    let s1 := s.modCore core fun k => { k with queues := k.queues.set none n (some { q with bad := true }) }
    match (s.core core).team? q.owner with
    | none => s1
    | some t => if s.policyB t.bind.part then s1.policyKill core q.owner else s1

/-- The parity of an entry of a group's reservation table is wrong (02 R74). -/
def State.resError (s : State) (g : GroupRef) (h : Nat) : State :=
  match s.team? g, s.group? g with
  | some t, some x =>
    if (x.resv h).isNone then s
    else
      let s1 := s.modGroup g fun x => { x with resBad := if x.resBad.contains h then x.resBad else x.resBad ++ [h] }
      if s.policyB t.bind.part then s1.policyKill g.core g.slot else s1
  | _, _ => s

/-! ## What comes from outside -/

/-- What has come takes place; on the left while Chihoat's atomic waits. -/
def State.arrive (s : State) : Input → State ⊕ State
  | .l2 die key kind => .inr (s.l2Error die key kind)
  | .llc key kind => .inr (s.llcError key kind)
  | .hbm line kind => .inr (s.hbmError line kind)
  | .tag slice way both => .inr (s.tagError slice way both)
  | .barrier core i => .inr (s.barrierError core i)
  | .queue core n => .inr (s.queueError core n)
  | .reservation g h => .inr (s.resError g h)
  | .core core unit row kind => .inr (s.rowError core unit row kind)
  | .far remote line bytes poison => .inr (s.farWrite remote line bytes poison)
  | .comm i what => s.commNotice i what
  | .atomic die op pa x y => s.chihoatAtomic die op pa x y

/-- The next of what comes from outside arrives. -/
def arrival (i : Nat) (s : State) : Host.Outcome State Fault Refusal :=
  match s.outside[i]? with
  | none => happened s
  | some x =>
    match s.arrive x with
    | .inl s1 => happened s1
    | .inr s1 => happened { s1 with outside := s1.outside.eraseIdx i }

end Sys2Proof.Machine
end

