-- ==== Sys2Proof/Machine/Hyp.lean ====
section
/-! DEFINITION. The hypothesis words (11 R313 to R316, 05 R138). -/

namespace Sys2Proof.Machine

/-- How far a HYP word with a wait or a trap among its lanes has come: the state, the lanes left from the one that waits, or the
trap. -/
inductive HypRun where
  | go (s : State)
  | stop (s : State) (left : List Nat)
  | trap (t : Trap)

/-- The lanes of a word in ascending order, until one waits or traps (11 R314). -/
def hypLanes (f : Nat → State → HypRun) : List Nat → State → HypRun
  | [], s => .go s
  | l :: t, s =>
    match f l s with
    | .go s' => hypLanes f t s'
    | .stop s' _ => .stop s' (l :: t)
    | .trap x => .trap x

/-- What a HYP word makes of its lanes. -/
def HypRun.res (r : HypRun) (all : Lanes) : Res :=
  match r with
  | .go s => .done s
  | .stop s left =>
    let m := maskOf fun l => left.contains l
    if m = all then .wait else .part s m
  | .trap t => .trap t

/-- The lowest FREE id (05 R138). -/
def Part.freeId (p : Part) : Option Nat := (List.range 4096).find? fun k => (p.entry k).state = 0

/-- `hnew` in one lane (05 R138). -/
def hnewLane (d : BitVec 7) (v : Env) (l : Nat) (s : State) : HypRun :=
  match s.part? v.part with
  | none => .stop s []
  | some p =>
    let h := (liveGroup v s).hypOf l
    let e := p.entry h
    if e.depth = 15 then .trap (.atLane 4 5 l 0)
    else match p.freeId with
      | none => .stop s []
      | some k =>
        .go ((s.modPart v.part fun p =>
            (p.modEntry k fun _ => { HypEntry.free with state := 1, depth := e.depth + 1, parent := BitVec.ofNat 12 h }).modEntry h
              fun e => { e with nchild := e.nchild + 1 }).modTeam v.r fun t =>
          t.vset v.r.grp d.toNat (oneLane l) fun _ => BitVec.ofNat 32 k)

/-- `henter` in one lane (05 R138). -/
def henterLane (a : BitVec 7) (v : Env) (l : Nat) (s : State) : HypRun :=
  let h := (v.src a l).toNat
  match s.part? v.part with
  | none => .trap (.atLane 4 6 l 0)
  | some p =>
    if 4096 ≤ h then .trap (.atLane 4 6 l 0)
    else if (p.entry h).live then .go (s.setHyp v.r v.part l h)
    else if (p.entry h).state = 3 then .go (s.setHyp v.r v.part l (p.follow h))
    else .trap (.atLane 4 6 l 0)

/-- `hleave` in one lane (05 R138). -/
def hleaveLane (v : Env) (l : Nat) (s : State) : HypRun :=
  let h := (liveGroup v s).hypOf l
  if h = 0 then .go s
  else match s.part? v.part with
    | none => .go s
    | some p => .go (s.setHyp v.r v.part l (p.entry h).parent.toNat)

/-- The 64-bit entry of an id (05 R136). -/
def HypEntry.image (e : HypEntry) : DWord :=
  e.state ++ e.depth ++ e.parent ++ e.nchild ++ 0#9 ++ e.refcnt

/-- `hqry` (11 R316). -/
def hqryBody (d a : BitVec 7) (v : Env) (s : State) : Res :=
  match v.lanes.find? fun l => 4096 ≤ (v.src a l).toNat with
  | some l => .trap (.atLane 4 6 l 0)
  | none => lane64 d (fun v l => (((s.part? v.part).map fun p => p.entry (v.src a l).toNat).getD HypEntry.free).image) v s

/-- `hcf` and `hrf`: one request for each lane that names an id, in ascending lane order; a word without one answers at once (11
R315). -/
def resolveBody (confirm : Bool) (d a : BitVec 7) (v : Env) (s : State) : Res :=
  let id := fun l => (v.src a l).toNat
  let ok := v.lanes.filter fun l => id l ≠ 0 && decide (id l < 4096)
  if ok.isEmpty then lane32 d (fun _ _ => 2) v s
  else
    let x := liveGroup v s
    let f := s.fretOf v .b
    let status : Tbl Word := v.lanes.foldl (fun t l => if ok.contains l then t else t.set 0 l 2) []
    let s1 := s.modGroup v.r fun x =>
      { x.fretUp f with nextLog := x.nextLog + 1, hypWords := x.hypWords ++ [⟨x.nextLog, d.toNat, v.em, status, ok.length, f⟩] }
    .done ((s1.modPart v.part fun p =>
      { p with reqs := p.reqs ++ ok.map fun l => ⟨BitVec.ofNat 12 (id l), confirm, some v.r, l, x.nextLog⟩ }).postOnce
        (.hypRequestTakeup v.part))

/-- 11 R314, 05 R138: opens a hypothesis in each active lane. -/
def execHnew (c : BitVec 1) (d : BitVec 7) (s : State) : Host.Outcome State Fault Refusal :=
  perform ({ c := c, ops := [.vd d], cls := .a, result := true, orph := .lanes, pin := true })
    (fun v s => (hypLanes (hnewLane d v) v.lanes s).res v.em) s

/-- 11 R314, 05 R138: enters a hypothesis. -/
def execHenter (c : BitVec 1) (a : BitVec 7) (s : State) : Host.Outcome State Fault Refusal :=
  perform ({ c := c, ops := [.vs a], orph := .lanes })
    (fun v s => (hypLanes (henterLane a v) v.lanes s).res v.em) s

/-- 11 R314, 05 R138: goes back to the parent. -/
def execHleave (c : BitVec 1) (s : State) : Host.Outcome State Fault Refusal :=
  perform ({ c := c, ops := [], orph := .lanes })
    (fun v s => (hypLanes (hleaveLane v) v.lanes s).res v.em) s

/-- 11 R315: requests confirmations. -/
def execHcf (c : BitVec 1) (d : BitVec 7) (a : BitVec 7) (s : State) : Host.Outcome State Fault Refusal :=
  perform ({ c := c, ops := [.vd d, .vs a], cls := .b, result := true, orph := .lanes, pin := true })
    (resolveBody true d a) s

/-- 11 R315: requests refutations. -/
def execHrf (c : BitVec 1) (d : BitVec 7) (a : BitVec 7) (s : State) : Host.Outcome State Fault Refusal :=
  perform ({ c := c, ops := [.vd d, .vs a], cls := .b, result := true, orph := .lanes, pin := true })
    (resolveBody false d a) s

/-- 11 R316: reads entries of the tree. -/
def execHqry (c : BitVec 1) (d : BitVec 7) (a : BitVec 7) (s : State) : Host.Outcome State Fault Refusal :=
  perform ({ c := c, ops := [.vd2 d, .vs a], cls := .a, result := true, orph := .lanes })
    (hqryBody d a) s

end Sys2Proof.Machine
end

