-- ==== Sys2Proof/Machine/HypCtl.lean ====
section
/-! DEFINITION. The hypothesis controller: requests, commit points, completions and the work of the slices after a commit (05 R137, R144,
R147 to R151). A commit is installed and applied in one step, so no read falls between installation and commit. -/

namespace Sys2Proof.Machine

/-- The ids that are not FREE. -/
def Part.ids (p : Part) : List Nat := (List.range 4096).filter fun k => (p.entry k).state ≠ 0

/-- The ids whose path to the root passes through one of `hs`, those among `hs` included (05 R135). -/
def Part.below (p : Part) (hs : List Nat) : List Nat :=
  p.ids.filter fun j => (p.path j).any fun k => hs.contains k

/-- The LIVE or CONFIRMING children of an id (05 R136). -/
def Part.children (p : Part) (h : Nat) : List Nat :=
  p.ids.filter fun k => k ≠ 0 && (p.entry k).live && (p.entry k).parent.toNat = h

/-- NCHILD of every id as its children stand (05 R136). -/
def Part.recount (p : Part) : Part :=
  p.ids.foldl (fun q h => q.modEntry h fun e => { e with nchild := BitVec.ofNat 13 (p.children h).length }) p

/-- LIVE or CONFIRMING ids become REFUTED (05 R137). -/
def Part.refute (p : Part) (ids : List Nat) : Part :=
  ids.foldl (fun p k => if k ≠ 0 ∧ (p.entry k).live then p.modEntry k fun e => { e with state := 4 } else p) p

/-- Commit of a confirmation of h into its parent (05 R148): siblings and their descendants are refuted, h's children become its parent's,
their subtrees rise by one level, and remaps that pointed at h are rewritten. -/
def Part.confirm (p : Part) (h : Nat) : Part :=
  let q := (p.entry h).parent
  let lost := p.below ((p.children q.toNat).filter fun k => k ≠ h)
  let risen := (p.below [h]).filter fun k => k ≠ h && (p.entry k).live
  let kids := p.children h
  let p1 := p.refute lost
  let p2 := risen.foldl (fun p k => p.modEntry k fun e => { e with depth := e.depth - 1 }) p1
  let p3 := kids.foldl (fun p k => p.modEntry k fun e => { e with parent := q }) p2
  let p4 := p3.modEntry h fun e => { e with state := 3, remap := some q }
  let p5 : Part := { p4 with hyp := p4.hyp.map fun ke =>
    if ke.2.remap = Option.some (BitVec.ofNat 12 h) then (ke.1, { ke.2 with remap := some q }) else ke }
  p5.recount

/-- The ids that the commit of a request resolves (05 R148, R150). -/
def Part.resolved (p : Part) (h : Nat) (confirm : Bool) : List Nat :=
  (if confirm then h :: p.below ((p.children (p.entry h).parent.toNat).filter fun k => k ≠ h) else p.below [h]).filter fun k =>
    k ≠ 0 && (p.entry k).live

/-- Commit of a refutation of h (05 R150). -/
def Part.refuteTree (p : Part) (h : Nat) : Part := (p.refute (p.below [h])).recount

/-- The slices that hold a frame or version of an id: the dies' L2 slices, the LLC slice of its home, the spill area (05 R151). -/
def State.slicesOf (s : State) (part id : Nat) : List Nat :=
  let l2 := (List.range 12).flatMap fun d => (s.die d).l2.filterMap fun kf =>
    if keyPart kf.1 = part ∧ keyTag kf.1 = id then some (32 * d + l2Slice (keyLine kf.1)) else none
  let llc := s.versions.flatMap fun kv => match kv.2 with
    | none => []
    | some v => if keyPart kv.1 = part ∧ keyTag kv.1 = id then [if v.spill.isSome then 392 else 384 + homeDie (keyLine kv.1)] else []
  (l2 ++ llc).eraseDups

/-- A frame tagged h is merged into the frame of its line tagged q: h's written bytes prevail, then q's, then the view that h held (05
R151). -/
def mergeFrames (q : Nat) (old h : Frame) : Frame :=
  let m := (h.vmask &&& ~~~old.dmask) ||| h.dmask
  let g : Frame :=
    { old with data := mergeLine old.data h.data m, vmask := old.vmask ||| h.vmask ||| h.dmask,
               dmask := old.dmask ||| h.dmask, psn := old.psn || h.psn,
               way := if old.vmask = 0 ∧ old.dmask = 0 then h.way else old.way }
  { g with state := frameState q g }

/-- A die's frames of id h become frames of q (05 R151). -/
def Die.relabel (d : Die) (part h q : Nat) : Die :=
  d.l2.foldl (init := d) fun d kf =>
    match kf.2 with
    | none => d
    | some f =>
      if keyPart kf.1 = part ∧ keyTag kf.1 = h then
        let line := keyLine kf.1
        let e := d.setFrame part q line (mergeFrames q (d.frame part q line) f)
        { e with l2 := e.l2.set none kf.1 none }
      else d

/-- Every die's frames of an id become frames of its target. -/
def State.relabel (s : State) (part h q : Nat) : State :=
  (List.range 12).foldl (fun s d => s.modDie d fun x => x.relabel part h q) s

/-- The LLC's frames of an id become frames of its target (05 R151): a line that has one already keeps it, with both lists of sharers. -/
def State.relabelTags (s : State) (part h q : Nat) : State :=
  s.llc.foldl (init := s) fun s kt =>
    match kt.2 with
    | none => s
    | some t =>
      if keyPart kt.1 = part ∧ keyTag kt.1 = h then
        let key := lineKey part q (keyLine kt.1)
        let u : LlcTag := match s.llc.get none key with
          | some u => { u with sharers := u.sharers ||| t.sharers }
          | none => { t with state := if q = 0 then 1 else 3 }
        { s with llc := (s.llc.set none kt.1 none).set none key (some u) }
      else s

/-- Frames and versions of a refuted id are dropped without writeback, and what its slices have not sent (05 R149, R151). -/
def State.discard (s : State) (part id : Nat) : State :=
  let mine := fun k : Nat => keyPart k = part && keyTag k = id
  let s1 := (List.range 12).foldl (init := s) fun s d => s.modDie d fun x =>
    { x with l2 := x.l2.filter fun kf => !mine kf.1, out := x.out.filter fun o => !(mine o.key && o.sent.isNone) }
  let s2 := { s1 with llc := s1.llc.filter fun kt => !mine kt.1 }
  (s2.versions.filter fun kv => mine kv.1).foldl (fun s kv => s.dropVersion part id (keyLine kv.1)) s2

/-- A version becomes a write of another tag at its home: for the root a root write with the controller's clock (05 R144, R148). -/
def State.mergeVersion (s : State) (part h q line : Nat) (v : Version) : State :=
  let s1 := s.dropVersion part h line
  if q = 0 then s1.rootApply line v.bytes s1.applied 12 part v.psn
  else
    let s2 := match (s1.unspill part q line).llcAlloc part q line with
      | .inl s2 => s2
      | .inr s2 => s2
    (s2.versionWrite part q line v.bytes v.psn).sendInvalidations ⟨line, q, part, v.bytes, 12, s2.applied, v.psn⟩ 12

/-- The versions of a confirmed id become writes of its parent at their homes (05 R144, R148). -/
def State.mergeVersions (s : State) (part h q : Nat) : State :=
  (s.versions.filter fun kv => keyPart kv.1 = part && keyTag kv.1 = h).foldl (init := s) fun s kv =>
    match kv.2 with
    | none => s
    | some v => s.mergeVersion part h q (keyLine kv.1) v

/-- Whether a die holds written bytes that a confirmation of h into q waits for: those under h, and those under q on lines of which h has a
version, so that h's writes come after them (05 R144, R148). -/
def State.unsent (s : State) (part h q die : Nat) : Bool :=
  (s.die die).out.any fun o =>
    let t := s.effectiveTag part (keyTag o.key)
    (keyPart o.key = part && t = h) ||
      ((t = q && (q = 0 || keyPart o.key = part)) && (s.versions.get none (lineKey part h (keyLine o.key))).isSome)

/-- The dies that hold such bytes. -/
def State.unsentDies (s : State) (part h q : Nat) : List Nat := (List.range 12).filter fun d => s.unsent part h q d

/-- A request's answer is on its way to its word (05 R147, R148). -/
def State.answer (s : State) (part : Nat) (r : HypReq) (status : Word) : State :=
  match r.g with
  | none => s
  | some g => (s.modPart part fun p => { p with completing := p.completing ++ [(r, status)] }).post (.hypResolutionComplete part g)

/-- HYP_REQUEST_TAKEUP: the controller takes up the oldest request when none is under way (05 R147). -/
def execHypRequestTakeup (part : Nat) (s : State) : Host.Outcome State Fault Refusal :=
  match s.part? part with
  | none => happened s
  | some p =>
    match p.resolving, p.reqs with
    | some _, _ => happened (s.postOnce (.hypRequestTakeup part))
    | none, [] => happened s
    | none, r :: rest =>
      let s1 := s.modPart part fun p => { p with reqs := rest }
      let s2 := if rest.isEmpty then s1 else s1.postOnce (.hypRequestTakeup part)
      if (p.entry r.id.toNat).state = 1 then
        happened ((s2.modPart part fun p =>
          let p1 := { p with resolving := some r }
          if r.confirm then p1.modEntry r.id.toNat fun e => { e with state := 2 } else p1).post (.hypCommit part))
      else happened (s2.answer part r 1)

/-- The work that a commit leaves to the slices (05 R151). -/
def State.assignWork (s : State) (part : Nat) (work : List (Nat × List Nat)) : State :=
  work.foldl (init := s) fun s iw =>
    iw.2.foldl (fun s sl => s.post (.hypSliceWorkDone part sl iw.1))
      (s.modPart part fun p => p.modEntry iw.1 fun e => { e with due := iw.2 })

/-- The data of the resolved ids after a commit (05 R144, R151). -/
def State.settleData (s : State) (part h q : Nat) (confirm : Bool) (ids : List Nat) : State :=
  let s1 := if confirm then ((s.relabel part h q).relabelTags part h q).mergeVersions part h q else s
  (ids.filter fun k => !confirm || k ≠ h).foldl (fun s k => s.discard part k) s1

/-- HYP_COMMIT: the commit point of the request under way, once a confirmation's writes have all reached their homes (05 R148, R150). -/
def execHypCommit (part : Nat) (s : State) : Host.Outcome State Fault Refusal :=
  match s.part? part with
  | none => happened s
  | some p =>
    match p.resolving with
    | none => happened s
    | some r =>
      let h := r.id.toNat
      let dirty := if r.confirm then s.unsentDies part h (p.entry h).parent.toNat else []
      if !dirty.isEmpty then
        happened ((dirty.foldl (fun s d => s.postOnce (.rootWriteBatchSend d)) s).post (.hypCommit part))
      else
        let ids := p.resolved h r.confirm
        let q := (p.entry h).parent.toNat
        let work := ids.map fun k => (k, s.slicesOf part k)
        let s1 := s.modPart part fun p => { (if r.confirm then p.confirm h else p.refuteTree h) with resolving := none }
        let s2 := (s1.settleData part h q r.confirm ids).assignWork part work
        happened ((s2.modPart part fun p => p.freeIds).answer part r 0)

/-- The completion of one request at its word: when it is the last, every lane's status is written and the fret goes down (11 R315). -/
def State.finishRequest (s : State) (g : GroupRef) (r : HypReq) (status : Word) : State :=
  match (s.group? g).bind fun x => x.hypWords.find? fun w => w.ix = r.wordIx with
  | none => s
  | some w =>
    let st := w.status.set 0 r.lane status
    if w.left ≤ 1 then
      (((s.modTeam g fun t => t.vset g.grp w.d w.lanes fun l => st.get 0 l).modGroup g fun x =>
        { x with hypWords := x.hypWords.filter fun y => y.ix ≠ w.ix }).fretDown g w.fret 0).stepPerms g
    else s.modGroup g fun x =>
      { x with hypWords := x.hypWords.map fun y => if y.ix = w.ix then { y with status := st, left := y.left - 1 } else y }

/-- HYP_RESOLUTION_COMPLETE: a request completes at its word once the word's die has applied the commit (05 R148). -/
def execHypResolutionComplete (part : Nat) (g : GroupRef) (s : State) : Host.Outcome State Fault Refusal :=
  match (s.part? part).bind fun p => p.completing.find? fun rs => rs.1.g = some g with
  | none => happened s
  | some rs =>
    if s.invalidationsDue (dieOf g.core) none then happened (s.post (.hypResolutionComplete part g))
    else happened ((s.modPart part fun p => { p with completing := p.completing.erase rs }).finishRequest g rs.1 rs.2)

/-- Whether writes under an id that a slice has sent are still on their way. -/
def State.sliceSends (s : State) (part slice id : Nat) : Bool :=
  (s.die (slice / 32)).out.any fun o => keyPart o.key = part && keyTag o.key = id && l2Slice (keyLine o.key) = slice % 32

/-- HYP_SLICE_WORK_DONE: a slice reports its relabel or discard of an id done; the id may become FREE (05 R137, R151). A slice whose writes
under the id are still on their way reports after they have been acknowledged. -/
def execHypSliceWorkDone (part slice id : Nat) (s : State) : Host.Outcome State Fault Refusal :=
  if slice < 384 && s.sliceSends part slice id then happened (s.post (.hypSliceWorkDone part slice id))
  else happened (s.modPart part fun p => (p.modEntry id fun e => { e with due := e.due.filter fun k => k ≠ slice }).freeIds)

end Sys2Proof.Machine
end

