-- ==== Sys2Proof/Machine/Sha.lean ====
section
/-! DEFINITION. The hash functions that 21 R455 to R457 name: SHA-256 and SHA-512 of FIPS 180-4, HMAC and MGF1 over SHA-512. The
specification names the standard; what is written here is the standard's text (log entry 23). -/

namespace Sys2Proof.Machine

/-! ## Byte strings -/

/-- A byte string, first byte first. -/
abbrev ByteString := List Byte

/-- The first bytes of a number, least significant first. -/
def littleBytes (n x : Nat) : ByteString := (List.range n).map fun i => BitVec.ofNat 8 (x / 2 ^ (8 * i))

/-- The last bytes of a number, most significant first. -/
def bigBytes (n x : Nat) : ByteString := (littleBytes n x).reverse

/-- A byte string as a number, least significant byte first. -/
def littleNat (b : ByteString) : Nat := b.foldr (fun x n => x.toNat + 256 * n) 0

/-- A byte string as a number, most significant byte first. -/
def bigNat (b : ByteString) : Nat := b.foldl (fun n x => 256 * n + x.toNat) 0

/-! ## SHA-2 -/

/-- The round constants: the first 64 bits of the fractional parts of the cube roots of the first 80 primes. Those of SHA-256 are the
upper halves of the first 64. -/
def shaRounds : List DWord :=
  [0x428A2F98D728AE22, 0x7137449123EF65CD, 0xB5C0FBCFEC4D3B2F, 0xE9B5DBA58189DBBC, 0x3956C25BF348B538, 0x59F111F1B605D019, 0x923F82A4AF194F9B, 0xAB1C5ED5DA6D8118] ++
  [0xD807AA98A3030242, 0x12835B0145706FBE, 0x243185BE4EE4B28C, 0x550C7DC3D5FFB4E2, 0x72BE5D74F27B896F, 0x80DEB1FE3B1696B1, 0x9BDC06A725C71235, 0xC19BF174CF692694] ++
  [0xE49B69C19EF14AD2, 0xEFBE4786384F25E3, 0x0FC19DC68B8CD5B5, 0x240CA1CC77AC9C65, 0x2DE92C6F592B0275, 0x4A7484AA6EA6E483, 0x5CB0A9DCBD41FBD4, 0x76F988DA831153B5] ++
  [0x983E5152EE66DFAB, 0xA831C66D2DB43210, 0xB00327C898FB213F, 0xBF597FC7BEEF0EE4, 0xC6E00BF33DA88FC2, 0xD5A79147930AA725, 0x06CA6351E003826F, 0x142929670A0E6E70] ++
  [0x27B70A8546D22FFC, 0x2E1B21385C26C926, 0x4D2C6DFC5AC42AED, 0x53380D139D95B3DF, 0x650A73548BAF63DE, 0x766A0ABB3C77B2A8, 0x81C2C92E47EDAEE6, 0x92722C851482353B] ++
  [0xA2BFE8A14CF10364, 0xA81A664BBC423001, 0xC24B8B70D0F89791, 0xC76C51A30654BE30, 0xD192E819D6EF5218, 0xD69906245565A910, 0xF40E35855771202A, 0x106AA07032BBD1B8] ++
  [0x19A4C116B8D2D0C8, 0x1E376C085141AB53, 0x2748774CDF8EEB99, 0x34B0BCB5E19B48A8, 0x391C0CB3C5C95A63, 0x4ED8AA4AE3418ACB, 0x5B9CCA4F7763E373, 0x682E6FF3D6B2B8A3] ++
  [0x748F82EE5DEFB2FC, 0x78A5636F43172F60, 0x84C87814A1F0AB72, 0x8CC702081A6439EC, 0x90BEFFFA23631E28, 0xA4506CEBDE82BDE9, 0xBEF9A3F7B2C67915, 0xC67178F2E372532B] ++
  [0xCA273ECEEA26619C, 0xD186B8C721C0C207, 0xEADA7DD6CDE0EB1E, 0xF57D4F7FEE6ED178, 0x06F067AA72176FBA, 0x0A637DC5A2C898A6, 0x113F9804BEF90DAE, 0x1B710B35131C471B] ++
  [0x28DB77F523047D84, 0x32CAAB7B40C72493, 0x3C9EBE0A15C9BEBC, 0x431D67C49C100D4C, 0x4CC5D4BECB3E42B6, 0x597F299CFC657E2A, 0x5FCB6FAB3AD6FAEC, 0x6C44198C4A475817]

/-- The initial hash value: the first 64 bits of the fractional parts of the square roots of the first 8 primes. That of SHA-256 is their
upper halves. -/
def shaStart : List DWord :=
  [0x6A09E667F3BCC908, 0xBB67AE8584CAA73B, 0x3C6EF372FE94F82B, 0xA54FF53A5F1D36F1, 0x510E527FADE682D1, 0x9B05688C2B3E6C1F, 0x1F83D9ABFB41BD6B, 0x5BE0CD19137E2179]

/-- A function of the family: its word width, its rounds, and the amounts of its rotations and shifts (Σ0, Σ1, σ0, σ1). -/
structure ShaFn (w : Nat) where
  rounds : Nat
  sum0 : Nat × Nat × Nat
  sum1 : Nat × Nat × Nat
  mix0 : Nat × Nat × Nat
  mix1 : Nat × Nat × Nat
  deriving DecidableEq, Repr

/-- SHA-256. -/
def sha256Fn : ShaFn 32 := ⟨64, (2, 13, 22), (6, 11, 25), (7, 18, 3), (17, 19, 10)⟩

/-- SHA-512. -/
def sha512Fn : ShaFn 64 := ⟨80, (28, 34, 39), (14, 18, 41), (1, 8, 7), (19, 61, 6)⟩

/-- The upper bits of a constant. -/
def shaUpper (w : Nat) (x : DWord) : BitVec w := (x >>> (64 - w)).setWidth w

/-- The exclusive or of three rotations. -/
def shaSum {w : Nat} (r : Nat × Nat × Nat) (x : BitVec w) : BitVec w := x.rotateRight r.1 ^^^ x.rotateRight r.2.1 ^^^ x.rotateRight r.2.2

/-- The exclusive or of two rotations and a shift. -/
def shaMix {w : Nat} (r : Nat × Nat × Nat) (x : BitVec w) : BitVec w := x.rotateRight r.1 ^^^ x.rotateRight r.2.1 ^^^ (x >>> r.2.2)

/-- The message schedule of a block. -/
def shaSchedule {w : Nat} (f : ShaFn w) (block : List (BitVec w)) : List (BitVec w) :=
  ((List.range (f.rounds - 16)).foldl (init := block.reverse) fun l _ =>
    (shaMix f.mix1 (l.getD 1 0) + l.getD 6 0 + shaMix f.mix0 (l.getD 14 0) + l.getD 15 0) :: l).reverse

/-- One round on the working variables a to h. -/
def shaRound {w : Nat} (f : ShaFn w) (v : List (BitVec w)) (kw : BitVec w) : List (BitVec w) :=
  match v with
  | [a, b, c, d, e, g, h, i] =>
    let t1 := i + shaSum f.sum1 e + ((e &&& g) ^^^ (~~~e &&& h)) + kw
    let t2 := shaSum f.sum0 a + ((a &&& b) ^^^ (a &&& c) ^^^ (b &&& c))
    [t1 + t2, a, b, c, d + t1, e, g, h]
  | _ => v

/-- One block on the hash value. -/
def shaBlock {w : Nat} (f : ShaFn w) (hash block : List (BitVec w)) : List (BitVec w) :=
  let kws := List.zipWith (· + ·) (shaRounds.map (shaUpper w)) (shaSchedule f block)
  List.zipWith (· + ·) hash (kws.foldl (shaRound f) hash)

/-- A message with its padding: a bit 1, zeros, and the length in bits in the last two words. -/
def shaPad (w : Nat) (m : ByteString) : ByteString :=
  m ++ 0x80#8 :: List.replicate ((4 * w - 1 - w / 4 - m.length % (2 * w)) % (2 * w)) 0 ++ bigBytes (w / 4) (8 * m.length)

/-- The word of a padded message at an index. -/
def shaWord (w : Nat) (m : ByteString) (i : Nat) : BitVec w := BitVec.ofNat w (bigNat ((m.drop (w / 8 * i)).take (w / 8)))

/-- The hash of a message. -/
def shaHash {w : Nat} (f : ShaFn w) (m : ByteString) : ByteString :=
  let p := shaPad w m
  let blocks := (List.range (p.length / (2 * w))).map fun b => (List.range 16).map fun i => shaWord w p (16 * b + i)
  (blocks.foldl (shaBlock f) (shaStart.map (shaUpper w))).flatMap fun x => bigBytes (w / 8) x.toNat

/-- SHA-256 of a byte string given as its length and its value as a little-endian number; the digest likewise (21 R455). -/
def sha256 (length value : Nat) : BitVec 256 := BitVec.ofNat 256 (littleNat (shaHash sha256Fn (littleBytes length value)))

/-! ## HMAC and MGF1 over SHA-512 -/

/-- HMAC-SHA-512 with a key of at most one block. -/
def hmac512 (key m : ByteString) : ByteString :=
  let k := key ++ List.replicate (128 - key.length) 0
  shaHash sha512Fn (k.map (· ^^^ 0x5C) ++ shaHash sha512Fn (k.map (· ^^^ 0x36) ++ m))

/-- MGF1-SHA-512: a mask of a given length. -/
def mgf512 (seed : ByteString) (n : Nat) : ByteString :=
  ((List.range ((n + 63) / 64)).flatMap fun c => shaHash sha512Fn (seed ++ bigBytes 4 c)).take n

end Sys2Proof.Machine
end

