-- ==== Sys2Proof/Machine/Slh.lean ====
section
/-! DEFINITION. The signatures that 21 R455 and R457 name: SLH-DSA-SHA2-256s and SLH-DSA-SHA2-192f of FIPS 205. The specification names
the standard; what is written here is the standard's text, with an empty context string (log entry 23). -/

namespace Sys2Proof.Machine

/-- A parameter set: bytes of a hash, height of the hypertree, its layers, height and number of the FORS trees, bytes of a message digest. -/
structure SlhSet where
  n : Nat
  h : Nat
  d : Nat
  a : Nat
  k : Nat
  m : Nat
  deriving DecidableEq, Repr

/-- SLH-DSA-SHA2-256s. -/
def slh256s : SlhSet := ⟨32, 64, 8, 14, 22, 47⟩

/-- SLH-DSA-SHA2-192f. -/
def slh192f : SlhSet := ⟨24, 66, 22, 8, 33, 42⟩

/-- The height of one tree of the hypertree. -/
def SlhSet.hp (p : SlhSet) : Nat := p.h / p.d

/-- The chains of a WOTS+ key: two for each byte of the message, and three of the checksum. -/
def SlhSet.len (p : SlhSet) : Nat := 2 * p.n + 3

/-- The bytes of a signature. -/
def SlhSet.size (p : SlhSet) : Nat := (1 + p.k * (p.a + 1) + p.h + p.d * p.len) * p.n

/-- An address: layer, tree, type and the three words that the type gives a meaning. Types: 0 WOTS+ hash, 1 WOTS+ key, 2 tree, 3 FORS
tree, 4 FORS roots, 5 WOTS+ secret, 6 FORS secret. -/
structure SlhAdrs where
  layer : Nat
  tree : Nat
  type : Nat
  w1 : Nat
  w2 : Nat
  w3 : Nat
  deriving DecidableEq, Repr

/-- An address of another type with its words. -/
def SlhAdrs.as (x : SlhAdrs) (type w1 w2 w3 : Nat) : SlhAdrs := { x with type := type, w1 := w1, w2 := w2, w3 := w3 }

/-- The compressed address. -/
def SlhAdrs.bytes (x : SlhAdrs) : ByteString :=
  bigBytes 1 x.layer ++ bigBytes 8 x.tree ++ bigBytes 1 x.type ++ bigBytes 4 x.w1 ++ bigBytes 4 x.w2 ++ bigBytes 4 x.w3

/-- A key's public seed under a parameter set. -/
structure SlhCtx where
  p : SlhSet
  seed : ByteString
  deriving DecidableEq, Repr

/-- F and PRF: SHA-256. -/
def SlhCtx.f (c : SlhCtx) (x : SlhAdrs) (m : ByteString) : ByteString :=
  (shaHash sha256Fn (c.seed ++ List.replicate (64 - c.p.n) 0 ++ x.bytes ++ m)).take c.p.n

/-- H and T: SHA-512. -/
def SlhCtx.t (c : SlhCtx) (x : SlhAdrs) (m : ByteString) : ByteString :=
  (shaHash sha512Fn (c.seed ++ List.replicate (128 - c.p.n) 0 ++ x.bytes ++ m)).take c.p.n

/-- The digest of a message. -/
def SlhCtx.hmsg (c : SlhCtx) (r root m : ByteString) : ByteString :=
  mgf512 (r ++ c.seed ++ shaHash sha512Fn (r ++ c.seed ++ root ++ m)) c.p.m

/-- The first digits of a byte string to base 2^b, most significant first. -/
def baseDigits (x : ByteString) (b n : Nat) : List Nat := (List.range n).map fun i => bigNat x / 2 ^ (8 * x.length - b * (i + 1)) % 2 ^ b

/-- The n-byte string at an index of a list of them. -/
def SlhCtx.part (c : SlhCtx) (s : ByteString) (i : Nat) : ByteString := (s.drop (c.p.n * i)).take c.p.n

/-! ## WOTS+ -/

/-- A chain from a step, over a number of steps. -/
def SlhCtx.chain (c : SlhCtx) (x : SlhAdrs) (m : ByteString) (i s : Nat) : ByteString :=
  (List.range s).foldl (fun y j => c.f { x with w3 := i + j } y) m

/-- The digits of a message that a WOTS+ key signs, with their checksum. -/
def SlhCtx.digits (c : SlhCtx) (m : ByteString) : List Nat :=
  let ds := baseDigits m 4 (2 * c.p.n)
  let sum := ds.foldl (fun n d => n + (15 - d)) 0
  ds ++ baseDigits (bigBytes 2 (16 * sum)) 4 3

/-- The secret of a chain. -/
def SlhCtx.wotsSecret (c : SlhCtx) (sk : ByteString) (x : SlhAdrs) (i : Nat) : ByteString := c.f (x.as 5 x.w1 i 0) sk

/-- The public key of a WOTS+ key pair. -/
def SlhCtx.wotsKey (c : SlhCtx) (sk : ByteString) (x : SlhAdrs) : ByteString :=
  c.t (x.as 1 x.w1 0 0) ((List.range c.p.len).flatMap fun i => c.chain (x.as 0 x.w1 i 0) (c.wotsSecret sk x i) 0 15)

/-- A WOTS+ signature. -/
def SlhCtx.wotsSign (c : SlhCtx) (sk : ByteString) (x : SlhAdrs) (m : ByteString) : ByteString :=
  (c.digits m).zipIdx.flatMap fun d => c.chain (x.as 0 x.w1 d.2 0) (c.wotsSecret sk x d.2) 0 d.1

/-- The public key that a WOTS+ signature gives. -/
def SlhCtx.wotsFrom (c : SlhCtx) (x : SlhAdrs) (sig m : ByteString) : ByteString :=
  c.t (x.as 1 x.w1 0 0) ((c.digits m).zipIdx.flatMap fun d => c.chain (x.as 0 x.w1 d.2 0) (c.part sig d.2) d.1 (15 - d.1))

/-! ## Trees -/

/-- A node of a tree from the one below it and its neighbour; `idx` is the leaf's index and `z` the height. -/
def SlhCtx.join (c : SlhCtx) (x : SlhAdrs) (idx z : Nat) (node auth : ByteString) : ByteString :=
  let y := { x with w2 := z + 1, w3 := idx / 2 ^ (z + 1) }
  if idx / 2 ^ z % 2 = 0 then c.t y (node ++ auth) else c.t y (auth ++ node)

/-- The root that a leaf and its authentication path give. -/
def SlhCtx.climb (c : SlhCtx) (x : SlhAdrs) (idx height : Nat) (leaf path : ByteString) : ByteString :=
  (List.range height).foldl (fun node z => c.join x idx z node (c.part path z)) leaf

/-- A node of a tree of the hypertree. -/
def SlhCtx.xmssNode (c : SlhCtx) (sk : ByteString) (x : SlhAdrs) : (z i : Nat) → ByteString
  | 0, i => c.wotsKey sk (x.as 0 i 0 0)
  | z + 1, i => c.t (x.as 2 0 (z + 1) i) (c.xmssNode sk x z (2 * i) ++ c.xmssNode sk x z (2 * i + 1))

/-- An XMSS signature. -/
def SlhCtx.xmssSign (c : SlhCtx) (sk : ByteString) (x : SlhAdrs) (idx : Nat) (m : ByteString) : ByteString :=
  c.wotsSign sk (x.as 0 idx 0 0) m ++ (List.range c.p.hp).flatMap fun j => c.xmssNode sk x j (Nat.xor (idx / 2 ^ j) 1)

/-- The root that an XMSS signature gives. -/
def SlhCtx.xmssFrom (c : SlhCtx) (x : SlhAdrs) (idx : Nat) (sig m : ByteString) : ByteString :=
  c.climb (x.as 2 0 0 0) idx c.p.hp (c.wotsFrom (x.as 0 idx 0 0) sig m) (sig.drop (c.p.n * c.p.len))

/-- The address, the leaf and the place in a signature of a layer. -/
def SlhCtx.layerOf (c : SlhCtx) (tree leaf j : Nat) : SlhAdrs × Nat :=
  let leafs := tree * 2 ^ c.p.hp + leaf
  (⟨j, leafs / 2 ^ (c.p.hp * (j + 1)), 0, 0, 0, 0⟩, leafs / 2 ^ (c.p.hp * j) % 2 ^ c.p.hp)

/-- A hypertree signature. -/
def SlhCtx.htSign (c : SlhCtx) (sk : ByteString) (tree leaf : Nat) (m : ByteString) : ByteString :=
  ((List.range c.p.d).foldl (init := (([] : ByteString), m)) fun acc j =>
    let (x, idx) := c.layerOf tree leaf j
    let sig := c.xmssSign sk x idx acc.2
    (acc.1 ++ sig, c.xmssFrom x idx sig acc.2)).1

/-- The root that a hypertree signature gives. -/
def SlhCtx.htFrom (c : SlhCtx) (tree leaf : Nat) (sig m : ByteString) : ByteString :=
  (List.range c.p.d).foldl (init := m) fun node j =>
    let (x, idx) := c.layerOf tree leaf j
    c.xmssFrom x idx (sig.drop (c.p.n * (c.p.len + c.p.hp) * j)) node

/-! ## FORS -/

/-- The secret of a leaf. -/
def SlhCtx.forsSecret (c : SlhCtx) (sk : ByteString) (x : SlhAdrs) (i : Nat) : ByteString := c.f (x.as 6 x.w1 0 i) sk

/-- A node of the FORS trees. -/
def SlhCtx.forsNode (c : SlhCtx) (sk : ByteString) (x : SlhAdrs) : (z i : Nat) → ByteString
  | 0, i => c.f (x.as 3 x.w1 0 i) (c.forsSecret sk x i)
  | z + 1, i => c.t (x.as 3 x.w1 (z + 1) i) (c.forsNode sk x z (2 * i) ++ c.forsNode sk x z (2 * i + 1))

/-- A FORS signature. -/
def SlhCtx.forsSign (c : SlhCtx) (sk : ByteString) (x : SlhAdrs) (md : ByteString) : ByteString :=
  (baseDigits md c.p.a c.p.k).zipIdx.flatMap fun d =>
    c.forsSecret sk x (d.2 * 2 ^ c.p.a + d.1) ++
      (List.range c.p.a).flatMap fun j => c.forsNode sk x j (d.2 * 2 ^ (c.p.a - j) + Nat.xor (d.1 / 2 ^ j) 1)

/-- The key that a FORS signature gives. -/
def SlhCtx.forsFrom (c : SlhCtx) (x : SlhAdrs) (sig md : ByteString) : ByteString :=
  c.t (x.as 4 x.w1 0 0) ((baseDigits md c.p.a c.p.k).zipIdx.flatMap fun d =>
    let s := sig.drop (c.p.n * (c.p.a + 1) * d.2)
    let idx := d.2 * 2 ^ c.p.a + d.1
    c.climb (x.as 3 x.w1 0 0) idx c.p.a (c.f (x.as 3 x.w1 0 idx) (c.part s 0)) (s.drop c.p.n))

/-! ## Signing and verifying -/

/-- What a digest selects: the message of FORS, the tree and the leaf. -/
def SlhCtx.select (c : SlhCtx) (digest : ByteString) : ByteString × Nat × Nat :=
  let b1 := (c.p.k * c.p.a + 7) / 8
  let b2 := (c.p.h - c.p.hp + 7) / 8
  (digest.take b1, bigNat ((digest.drop b1).take b2) % 2 ^ (c.p.h - c.p.hp),
    bigNat ((digest.drop (b1 + b2)).take ((c.p.hp + 7) / 8)) % 2 ^ c.p.hp)

/-- A message with its context string, which is empty. -/
def slhMessage (m : ByteString) : ByteString := 0 :: 0 :: m

/-- The root of a key pair. -/
def SlhCtx.root (c : SlhCtx) (sk : ByteString) : ByteString := c.xmssNode sk ⟨c.p.d - 1, 0, 0, 0, 0, 0⟩ c.p.hp 0

/-- The signature of a message by a key pair, its secret seed, its message key and its public seed, with a random string. -/
def slhSign (p : SlhSet) (sk prf seed rand m : ByteString) : ByteString :=
  let c : SlhCtx := ⟨p, seed⟩
  let r := (hmac512 prf (rand ++ slhMessage m)).take p.n
  let (md, tree, leaf) := c.select (c.hmsg r (c.root sk) (slhMessage m))
  let x : SlhAdrs := ⟨0, tree, 3, leaf, 0, 0⟩
  let fors := c.forsSign sk x md
  r ++ fors ++ c.htSign sk tree leaf (c.forsFrom x fors md)

/-- Whether a signature of a message by a public key, its seed and its root, is good. -/
def slhVerify (p : SlhSet) (seed root m sig : ByteString) : Bool :=
  let c : SlhCtx := ⟨p, seed⟩
  let r := sig.take p.n
  let fors := sig.drop p.n
  let (md, tree, leaf) := c.select (c.hmsg r root (slhMessage m))
  decide (sig.length = p.size) &&
    c.htFrom tree leaf (fors.drop (p.n * p.k * (p.a + 1))) (c.forsFrom ⟨0, tree, 3, leaf, 0, 0⟩ fors md) = root

end Sys2Proof.Machine
end

