-- ==== Sys2Proof/Machine/Manage.lean ====
section
/-! DEFINITION. Bring-up, the mailbox, partitions, management registers, routes (21 R454 to R462, 16 R425 to R429, 01 R16, R17). -/

namespace Sys2Proof.Machine

/-! ## Measurements and images (21 R455, R456) -/

/-- A measurement register. -/
def State.mr (s : State) (i : Nat) : BitVec 256 := s.modl.mr.get 0 i

/-- Extends a measurement register: MR := SHA-256(MR ‖ d) (21 R456). -/
def State.extend (s : State) (i : Nat) (d : BitVec 256) : State :=
  { s with modl := { s.modl with mr := s.modl.mr.set 0 i (sha256 64 ((s.mr i).toNat + d.toNat * 2 ^ 256)) } }

/-- The bytes that an image's signature covers: the header, whose reserved fields are zero, and the payload (21 R455). -/
def signedBytes (f : Firmware) : ByteString :=
  littleBytes 64 (f.len.toNat + f.svn.toNat * 2 ^ 32 + f.comp.toNat * 2 ^ 48 + f.digest.toNat * 2 ^ 256) ++ littleBytes f.len.toNat f.payload

/-- Whether the signature of an image by a public key, its seed and its root, is good (21 R455). -/
def signatureGood (key : BitVec 512) (f : Firmware) : Bool :=
  slhVerify slh256s (littleBytes 32 key.toNat) (littleBytes 32 (key.toNat / 2 ^ 256)) (signedBytes f) (littleBytes slh256s.size f.signature)

/-- Whether a firmware image is accepted under a public key (21 R455). -/
def imageOk (key : BitVec 512) (rollback : Nat) (f : Firmware) : Bool :=
  sha256 64 key.toNat = sha256 64 Config.fusedKey.toNat && signatureGood key f && f.digest = sha256 f.len.toNat f.payload && f.reservedZero &&
    decide (f.comp.toNat < 4) && f.len.toNat % 64 = 0 && decide (rollback ≤ f.svn.toNat)

/-- Inserts an image in the order of COMP. -/
def insertImage (a : Firmware) : List Firmware → List Firmware
  | [] => [a]
  | b :: t => if a.comp < b.comp then a :: b :: t else b :: insertImage a t

/-- The images other than stage 0, in ascending COMP (21 R456). -/
def otherImages (fs : List Firmware) : List Firmware :=
  (fs.filter fun f => f.comp ≠ 0).foldl (fun acc f => insertImage f acc) []

/-! ## The mailbox (21 R458) -/

/-- Bring-up stops at a step; the mailbox's status names it (21 R454, R458). -/
def State.bringupFails (s : State) (n : Nat) : State :=
  { s with modl := { s.modl with bringup := n - 1, failed := some n, mboxCmd := BitVec.ofNat 64 (n * 2 ^ 32), mboxStat := 4 } }

/-- A mailbox command: ignored while GO reads 1 and before the mailbox opens; a module that failed answers CODE 4 (21 R454, R458). -/
def mailbox (op : Nat) (tag : BitVec 32) (arg : BitVec 8) (payload : BitVec 512) (s : State) (k : State → State) :
    Host.Outcome State Fault Refusal :=
  if s.modl.mboxCmd.getLsbD 63 then happened s
  else
    let word := fun a : Nat => BitVec.ofNat 64 (2 ^ 63 + op * 2 ^ 40 + a * 2 ^ 32 + tag.toNat)
    match s.modl.failed with
    | some n => happened ({ s with modl := { s.modl with mboxCmd := word n } }.mboxDone 4)
    | none =>
      if s.modl.bringup ≠ 8 then happened s
      else happened (k { s with modl := { s.modl with mboxCmd := word arg.toNat, mboxPayload := payload } })

/-- The command is done with a response. -/
def State.mboxAnswer (s : State) (x : Nat) : State := { s with modl := { s.modl with mboxResp := x } }.mboxDone 0

/-- The bytes that a quote signs, as a little-endian number: nonce, MR0 to MR7, FEATEN0 to 3, module id (21 R457). -/
def State.quoteBytes (s : State) (nonce : BitVec 256) : Nat :=
  let id := (s.modl.moduleId.map BitVec.toNat).getD 0
  (List.range 8).foldl (fun x i => x + (s.mr i).toNat * 2 ^ (256 * (i + 1))) nonce.toNat + s.modl.featEn.toNat * 2 ^ (256 * 9) +
    id * 2 ^ (256 * 10)

/-- The identity key's signature of a quote's bytes, 328 B (21 R457). The random string is a free value. -/
def quoteSignature (rand : BitVec 192) (x : Nat) : Nat :=
  let k := littleBytes 72 Config.identityKey.toNat
  littleNat (slhSign slh192f (k.take 24) ((k.drop 24).take 24) (k.drop 48) (littleBytes 24 rand.toNat) (littleBytes 328 x))

/-- MBOX_QUOTE: the identity key signs the nonce and the measurements (21 R457). -/
def execMboxQuote (tag : BitVec 32) (nonce : BitVec 256) (s : State) : Host.Outcome State Fault Refusal :=
  mailbox 1 tag 0 (nonce.setWidth 512) s fun s =>
    State.mboxAnswer { s with choices := s.choices + 1 } (quoteSignature (Config.quoteRandom s.choices) (s.quoteBytes nonce))

/-- MBOX_READ_MR: a measurement register is read (21 R456). -/
def execMboxReadMr (tag : BitVec 32) (arg : BitVec 8) (s : State) : Host.Outcome State Fault Refusal :=
  mailbox 2 tag arg 0 s fun s => if arg < 8 then s.mboxAnswer (s.mr arg.toNat).toNat else s.mboxDone 1

/-- MBOX_EXTEND_MR: the host extends MR4 to MR7 (21 R456). -/
def execMboxExtendMr (tag : BitVec 32) (arg : BitVec 8) (digest : BitVec 256) (s : State) : Host.Outcome State Fault Refusal :=
  mailbox 3 tag arg (digest.setWidth 512) s fun s =>
    if 4 ≤ arg ∧ arg < 8 then (s.extend arg.toNat digest).mboxDone 0 else s.mboxDone 1

/-! ## Partitions (21 R459, R460) -/

/-- The fields of a partition record (21 R460). -/
def recordFields : List (Nat × Nat) :=
  [(0, 64), (64, 32), (129, 2), (160, 16), (176, 16), (192, 20), (269, 39), (320, 64), (384, 4), (400, 36)]

/-- A partition as its record gives it (21 R460). -/
def partOf (x : BitVec 512) : Part :=
  { units := (List.range 96).filter fun u => x.getLsbD u
    l2ways := BitVec.ofNat 16 (field x 176 16), llcways := BitVec.ofNat 16 (field x 160 16), shed := x.getLsbD 130,
    policyB := x.getLsbD 129, hbmBase := field x 202 10, hbmSize := field x 192 10 + 1, root := field x 269 39 * 2 ^ 13,
    budget := field x 352 32, interval := field x 336 16, wdog := field x 320 16, lqBase := field x 400 36 * 2 ^ 16,
    lqn := field x 384 4, queues := [], hyp := [(0, HypEntry.root)], reqs := [], resolving := none, completing := [], extents := [],
    orphans := 0, next := 0, committed := 0, order := [], seen := [], clock := 25, clockNext := none, resetting := false,
    capWaits := none }

/-- Whether an address lies in a partition's share of HBM; the share is kept in GiB (21 R460). -/
def Part.inShare (p : Part) (pa : Nat) : Bool := decide (p.hbmBase * 2 ^ 30 ≤ pa) && decide (pa < (p.hbmBase + p.hbmSize) * 2 ^ 30)

/-- Whether two partitions cannot both exist: they share a unit or a part of HBM (21 R460). -/
def Part.clashes (p q : Part) : Bool :=
  p.units.any q.units.contains || (decide (p.hbmBase < q.hbmBase + q.hbmSize) && decide (q.hbmBase < p.hbmBase + p.hbmSize))

/-- Whether a record is accepted for a partition number (21 R460). -/
def State.recordAccepted (s : State) (n : Nat) (x : BitVec 512) : Bool :=
  let p := partOf x
  onlyFields x recordFields && !p.units.isEmpty && !(p.units.any s.modl.unavailable.contains) && p.l2ways ≠ 0 && p.llcways ≠ 0 &&
    decide (p.hbmBase + p.hbmSize ≤ 1024) && p.inShare p.root && p.inShare p.lqBase && decide (4 ≤ p.lqn ∧ p.lqn ≤ 12) &&
    decide (1 ≤ p.interval ∧ p.interval ≤ 1000) && (s.part? n).isNone && !(s.parts.any fun q => q.2.any fun q => p.clashes q)

/-- MBOX_CREATE_PARTITION: an accepted record makes a partition and extends MR2; its interval and its watchdog start (21 R456, R460). -/
def execMboxCreatePartition (tag : BitVec 32) (arg : BitVec 8) (record : BitVec 512) (s : State) : Host.Outcome State Fault Refusal :=
  mailbox 4 tag arg record s fun s =>
    let n := arg.toNat
    if 64 ≤ n then s.mboxDone 1
    else if !s.recordAccepted n record then s.mboxDone 3
    else
      let p := partOf record
      let s1 := ({ s with parts := s.parts.set none n (some p) }.extend 2 (sha256 64 record.toNat)).postOnce (.energyIntervalEnd n)
      (if p.wdog = 0 then s1 else s1.postOnce (.watchdogExpire n)).mboxDone 0

/-- A partition ends: its hypotheses, translations, launches and communicators go with it (21 R460). -/
def State.removePart (s : State) (n : Nat) : State :=
  let s1 := (s.versions.filter (keyOfPart n)).foldl (fun s kv => s.dropVersion n (keyTag kv.1) (keyLine kv.1)) s
  { s1 with
    parts := s1.parts.set none n none
    launches := s1.launches.filter fun l => !(l.2.any fun l => l.part = n)
    comms := s1.comms.map fun c => if c.part = n then { c with part := 64, broken := true } else c
    dies := s1.dies.map fun d => (d.1, { d.2 with
      l2 := d.2.l2.filter fun kf => !(keyOfPart n kf && keyTag kf.1 ≠ 0)
      tcache := d.2.tcache.filter fun l => l.part ≠ n
      pointers := d.2.pointers.filter fun l => l.part ≠ n
      counters := d.2.counters.filter fun c => c.1 / 2 ^ 40 ≠ n }) }

/-- MBOX_DESTROY_PARTITION: refused while the partition has a bound or saved team (21 R460). -/
def execMboxDestroyPartition (tag : BitVec 32) (arg : BitVec 8) (s : State) : Host.Outcome State Fault Refusal :=
  mailbox 5 tag arg 0 s fun s =>
    let n := arg.toNat
    if (s.part? n).isNone || !(s.partTeams n).isEmpty then s.mboxDone 3 else (s.removePart n).mboxDone 0

/-- MBOX_RESET_PARTITION: the host asks for a reset (15 R418), refused while feature 5 is off (16 R425). -/
def execMboxResetPartition (tag : BitVec 32) (arg : BitVec 8) (s : State) : Host.Outcome State Fault Refusal :=
  mailbox 6 tag arg 0 s fun s =>
    if !s.feature 5 then s.mboxDone 2
    else if (s.part? arg.toNat).isNone then s.mboxDone 3
    else (s.postOnce (.partitionReset arg.toNat)).mboxDone 0

/-- MBOX_BIAS_FLIP: the host driver asks for a flip, and GO reads 1 until it is done (06 R177). -/
def execMboxBiasFlip (tag : BitVec 32) (arg : BitVec 8) (flip : DWord) (s : State) : Host.Outcome State Fault Refusal :=
  mailbox 7 tag arg (flip.setWidth 512) s fun s =>
    if s.flipIdle (flipFrame flip) (flipToHost flip) then s.mboxDone 0 else s.startFlip (flipFrame flip) (flipToHost flip)

/-- MBOX_RAISE_ROLLBACK: the fused counter is raised by one of its 64 positions (21 R455). -/
def execMboxRaiseRollback (tag : BitVec 32) (arg : BitVec 8) (s : State) : Host.Outcome State Fault Refusal :=
  mailbox 8 tag arg 0 s fun s =>
    if s.modl.rollback < 64 then { s with modl := { s.modl with rollback := s.modl.rollback + 1 } }.mboxDone 0 else s.mboxDone 1

/-- MBOX_READ_EVENT: an entry of the event ring is read (21 R458). -/
def execMboxReadEvent (tag : BitVec 32) (arg : BitVec 8) (s : State) : Host.Outcome State Fault Refusal :=
  mailbox 9 tag arg 0 s fun s =>
    match s.modl.events[arg.toNat]? with
    | some e => s.mboxAnswer e.toNat
    | none => s.mboxDone 1

/-! ## Bring-up (21 R454, 01 R16, R17) -/

/-- The disabled physical rows of a column of a die, ascending: cores are numbered 104 die + 8 row + column. -/
def disabledRows (disabled : List Nat) (die col : Nat) : List Nat :=
  (List.range 13).filter fun r => disabled.contains (104 * die + 8 * r + col)

/-- The column spare map of a die (01 R16): a column without a disabled row keeps row 12. -/
def spareMap (disabled : List Nat) (die : Nat) : Tbl Nat :=
  (List.range 8).foldl (fun t c => t.set 12 c ((disabledRows disabled die c).headD 12)) []

/-- The logical cores with no working physical core behind them (01 R17). -/
def unbackedCores (disabled : List Nat) (die : Nat) : List Nat :=
  (List.range 8).flatMap fun c => (disabledRows disabled die c).tail.map fun f => 8 * (f - 1) + c

/-- The unit of a logical core of a die (21 R459). -/
def unitOf (die core : Nat) : Nat := 8 * die + 2 * (core / 8 / 3) + core % 8 / 4

/-- The units that bring-up marks unavailable (01 R17). -/
def unavailableUnits (disabled : List Nat) : List Nat :=
  (List.range 96).filter fun u => (unbackedCores disabled (u / 8)).any fun k => unitOf (u / 8) k = u

/-- The machine when power comes up: what outlives it is outside the module or fused. -/
def State.powerUp (s : State) : State :=
  { State.reset with
    hostMem := s.hostMem, remote := s.remote, cycle := s.cycle, choices := s.choices,
    modl := { Module.reset with rollback := s.modl.rollback } }

/-- Steps 3 to 6: self-test, spare maps, links, the host link; a test that fails is a free choice (21 R454, log entry 4). -/
def State.bringUp (s : State) (disabled : List Nat) (id : BitVec 12) : State :=
  let c := Config.choice s.choices % 7
  let s1 := { s with choices := s.choices + 2 }
  if c = 3 ∨ c = 5 ∨ c = 6 then s1.bringupFails c
  else
    let units := unavailableUnits disabled
    let s2 : State := { s1 with
      dies := (List.range 12).foldl (fun t d => t.set Die.reset d
        { Die.reset with spare := spareMap disabled d, unbacked := unbackedCores disabled d }) s1.dies
      modl := { s1.modl with
        bringup := 6, featCap := Config.offered.setWidth 256
        biasBase := Config.choice (s.choices + 1) % (2 ^ 40 - 2 ^ 21 + 1)
        unavailable := units, idLoad := id } }
    units.foldl (fun s _ => s.postEvent) s2

/-- POWER_GOOD: the boot ROM runs, images are verified and measured, and bring-up goes on to step 6 or stops at the step that fails (21
R454 to R456, 01 R16, R17). -/
def execPowerGood (images : List Firmware) (key : BitVec 512) (disabled : List Nat) (moduleId : BitVec 12) (s : State) :
    Host.Outcome State Fault Refusal :=
  let s0 := s.powerUp
  let ok := imageOk key s0.modl.rollback.toNat
  match images.find? fun f => f.comp = 0 with
  | none => happened (s0.bringupFails 1)
  | some f =>
    if !ok f then happened (s0.bringupFails 1)
    else
      let s1 := s0.extend 0 f.digest
      let others := otherImages images
      if !others.all ok then happened (s1.bringupFails 2)
      else happened ((others.foldl (fun s f => s.extend 1 f.digest) s1).bringUp disabled moduleId)

/-- Steps 7 and 8 of bring-up: the module id and the ports, once feature 3 is committed, then the mailbox opens (21 R454, 16 R426). -/
def State.openModule (s : State) : State :=
  let s1 := { s with choices := s.choices + 37 }
  if !s.feature 3 then { s1 with modl := { s1.modl with bringup := 8 } }
  else if Config.choice s.choices % 2 = 1 then s1.bringupFails 7
  else
    { s1 with modl := { s1.modl with
        bringup := 8, moduleId := some s.modl.idLoad
        ports := (List.range 36).foldl (fun t p => t.set 0 p (BitVec.ofNat 64 (Config.choice (s.choices + 1 + p) % 2))) [] } }

/-- FEATURE_COMMIT: FEATEN is committed, MR3 extended, and bring-up goes on (16 R425, 21 R454, R456). -/
def execFeatureCommit (s : State) : Host.Outcome State Fault Refusal :=
  if s.modl.featCommit || s.modl.bringup ≠ 6 || s.modl.failed.isSome then happened s
  else
    let s1 := { s with modl := { s.modl with featCommit := true, featDone := true } }
    happened (s1.extend 3 (sha256 32 s.modl.featEn.toNat)).openModule

/-! ## Management registers (06 R171, 14 R390, R396, 15 R412, 16 R423, R425, R429, 21 R462) -/

/-- Writes a threshold unit's control: FIRED is cleared by a 0, arming starts the watch (14 R396). -/
def State.writeThCtl (s : State) (die unit : Nat) (x : DWord) : State :=
  if 32 ≤ unit then s
  else
    let s1 := s.modThreshold die unit fun h =>
      { h with ctl := (x &&& 0xC000FFFF0000FFFF) ||| (h.ctl &&& x &&& (1#64 <<< 61)), was := false }
    if x.getLsbD 63 then s1.postOnce (.thresholdFire die unit) else s1

/-- An HDM decoder: host base, size, device base, commit. -/
def State.decoder (s : State) (n : Nat) : Nat × Nat × Nat × Bool := s.modl.hdm.get (0, 0, 0, false) n

/-- Changes an HDM decoder that is not committed. -/
def State.setDecoder (s : State) (n : Nat) (x : Nat × Nat × Nat × Bool) : State :=
  if 4 ≤ n ∨ (s.decoder n).2.2.2 then s else { s with modl := { s.modl with hdm := s.modl.hdm.set (0, 0, 0, false) n x } }

/-- Whether a decoder may be committed: the feature is on, its range lies in HBM and overlaps no other's (16 R423, R425). -/
def State.mayCommit (s : State) (n : Nat) : Bool :=
  let (_, size, dbase, _) := s.decoder n
  s.feature 1 && size ≠ 0 && decide (dbase + size ≤ 4096) && (List.range 4).all fun m =>
    let (_, size', dbase', c) := s.decoder m
    m = n || !c || decide (dbase + size ≤ dbase') || decide (dbase' + size' ≤ dbase)

/-- A write of a decoder's commit. -/
def State.commitDecoder (s : State) (n : Nat) (on : Bool) : State :=
  let (b, size, d, _) := s.decoder n
  if 4 ≤ n ∨ (on && !s.mayCommit n) then s
  else { s with modl := { s.modl with hdm := s.modl.hdm.set (0, 0, 0, false) n (b, size, d, on) } }

/-- Writes a word of FEATEN, until the commit (16 R425). -/
def State.writeFeaten (s : State) (w : Nat) (x : DWord) : State :=
  if 4 ≤ w ∨ s.modl.featCommit ∨ s.modl.bringup < 6 then s
  else { s with modl := { s.modl with
    featEn := ((s.modl.featEn &&& ~~~((0xFFFFFFFFFFFFFFFF : BitVec 256) <<< (64 * w))) ||| (x.setWidth 256 <<< (64 * w))) &&& 0x3F } }

/-- Writes a partition's clock step (21 R462). -/
def State.writeClock (s : State) (part n : Nat) : State :=
  if n < 10 ∨ 25 < n ∨ (s.part? part).isNone then s
  else (s.modPart part fun p => { p with clockNext := some n }).postOnce (.clockStepTakeEffect part)

/-- Writes a management register; nonzero values in reserved fields are ignored (00 R8). DESIGN CHOICE (log entry 104): a write of HINTPTR
changes HEAD alone, so that DROP, which 06 R171 only says saturates, is never cleared by firmware. -/
def State.writeMgmt (s : State) (reg : MgmtReg) (x : DWord) : State :=
  match reg with
  | .featen w => s.writeFeaten w x
  | .hintThr d => s.modDie d fun k => { k with hintThr := x &&& 0xFFFF }
  | .hintBase d => s.modDie d fun k => { k with hintBase := x &&& 0x000FFFFFFFFFF000 }
  | .hintPtr d => s.modDie d fun k => { k with hintPtr := (k.hintPtr &&& ~~~0xFFFF#64) ||| (x &&& 0xFFFF) }
  | .pcSrc d => s.modDie d fun k => { k with pcSrc := x &&& 0x000FFFFFFFFFFFF0 }
  | .pcDst d => s.modDie d fun k => { k with pcDst := x &&& 0x000FFFFFFFFF0000 }
  | .thCtl d u => s.writeThCtl d u x
  | .thVal d u => if 32 ≤ u then s else s.modThreshold d u fun h => { h with val := x }
  | .preCtl d => s.modDie d fun k => { k with preCtl := x }
  | .preAct c => s.modCore c fun k => { k with preAct := (k.preAct &&& 3) ||| (x &&& 4) }
  | .slotSrc c => s.modCore c fun k => { k with slotSrc := x &&& 0x00FFFFFFFFFFFFFF }
  | .portSt p =>
    if 36 ≤ p then s
    else { s with modl := { s.modl with ports := s.modl.ports.set 0 p (s.modl.ports.get 0 p &&& ~~~(x &&& 2)) } }
  | .clockStep p => s.writeClock p x.toNat
  | .hdmBase n => s.setDecoder n (x.toNat, (s.decoder n).2.1, (s.decoder n).2.2.1, false)
  | .hdmSize n => s.setDecoder n ((s.decoder n).1, x.toNat, (s.decoder n).2.2.1, false)
  | .hdmDbase n => s.setDecoder n ((s.decoder n).1, (s.decoder n).2.1, x.toNat, false)
  | .hdmCommit n => s.commitDecoder n (x.getLsbD 0)

/-- MGMT_REGISTER_WRITE: a management register is written (06 R171). -/
def execMgmtRegisterWrite (reg : MgmtReg) (value : DWord) (s : State) : Host.Outcome State Fault Refusal :=
  happened (s.writeMgmt reg value)

/-! ## Routes (16 R427, R429) -/

/-- ROUTE_ENTRY_WRITE: Chihoat writes an entry, which clears BRK (16 R427). -/
def execRouteEntryWrite (index : Nat) (value : BitVec 8) (s : State) : Host.Outcome State Fault Refusal :=
  if 16384 ≤ index then happened s
  else happened { s with modl := { s.modl with routes := s.modl.routes.set 0 index (value &&& 0xBF) } }

/-- Communicators that a broken route breaks: what is pending completes with STATUS 1 (16 R437). -/
def State.noteBroken (s : State) : State :=
  (List.range s.comms.length).foldl (init := s) fun s i =>
    match s.comm? i with
    | none => s
    | some c => if s.commBroken c && !c.broken then (s.modComm i fun c => { c with broken := true }).postOnce (.collComplete i) else s

/-- PORTST of a port that goes down: UP is cleared, DOWNEV set; RETRY and FECCOR have grown by what the link has retried and corrected,
which is open (16 R429, log entry 79). -/
def portDownSt (x : DWord) (retried corrected : Nat) : DWord :=
  let grown := fun lo k : Nat => Nat.min 0xFFFF ((x.extractLsb' lo 16).toNat + k) * 2 ^ lo
  BitVec.ofNat 64 (grown 48 retried + grown 32 corrected + 2)

/-- PORT_DOWN: a port fails: UP is cleared, DOWNEV set, and every entry that names it is broken (16 R429). -/
def execPortDown (port : Nat) (s : State) : Host.Outcome State Fault Refusal :=
  if 36 ≤ port then happened s
  else
    let s1 : State := { s with choices := s.choices + 2, modl := { s.modl with
      ports := s.modl.ports.set 0 port (portDownSt (s.modl.ports.get 0 port) (Config.choice s.choices) (Config.choice (s.choices + 1)))
      routes := s.modl.routes.map fun e => if e.2.extractLsb' 0 6 = BitVec.ofNat 6 port then (e.1, e.2 ||| 0x40) else e } }
    happened s1.noteBroken

end Sys2Proof.Machine
end

