-- ==== Sys2Proof/Machine/Mov.lean ====
section
/-! DEFINITION. The move words, vector and uniform, and the immediates (10 R262 to R265, R267). -/

namespace Sys2Proof.Machine

/-- Identity k of `gidx` (10 R263). -/
def gidxValue (v : Env) (s : State) (k l : Nat) : Nat :=
  match k with
  | 0 => l
  | 1 => v.r.grp
  | 2 => v.team.bind.mi
  | 3 => v.team.bind.mj
  | 4 => v.team.bind.clidx
  | 5 => v.team.bind.lanesm1 + 1
  | _ => ((s.launch? v.team.bind.launch).map (·.nclus)).getD 1

/-- The predicates of a lane as a byte, p0 in bit 0 (10 R264). -/
def predByte (x : Group) (l : Nat) : Word :=
  wordOf fun n => decide (n < 8) && (x.pget n).getLsbD l

/-- `movp.set` (10 R264). -/
def movpSetBody (a : BitVec 7) (v : Env) (s : State) : Res :=
  .done (s.modGroup v.r fun x =>
    [1, 2, 3, 4, 5, 6, 7].foldl (fun x n => x.pset n v.em (maskOf fun l => (v.src a l).getLsbD n)) x)

/-- 10 R262: a copied. -/
def execMov (c : BitVec 1) (d : BitVec 7) (a : BitVec 7) (s : State) : Host.Outcome State Fault Refusal :=
  perform (useAd c d a)
    (lane32 d fun v l => v.src a l) s

/-- 10 R262: a where pN is true, b elsewhere; N is 1 to 7. -/
def execSel (c : BitVec 1) (n : BitVec 3) (d : BitVec 7) (a : BitVec 7) (b : BitVec 7) (s : State) : Host.Outcome State Fault Refusal :=
  perform (useSel c n d a b)
    (lane32 d fun v l => if (v.grp.pget n.toNat).getLsbD l then v.src a l else v.src b l) s

/-- 10 R262, 07 R180: the lane’s logical identity. -/
def execLid (c : BitVec 1) (d : BitVec 7) (s : State) : Host.Outcome State Fault Refusal :=
  perform (useD c d)
    (lane32 d fun v l => BitVec.ofNat 32 (v.grp.lidOf v.r.grp l)) s

/-- 10 R263: identity k. -/
def execGidx (c : BitVec 1) (d : BitVec 7) (k : BitVec 7) (s : State) : Host.Outcome State Fault Refusal :=
  perform (useGidx c d k)
    (lane32 d fun v l => BitVec.ofNat 32 (gidxValue v s k.toNat l)) s

/-- 10 R262: a of the lowest active lane. -/
def execBcast (c : BitVec 1) (d : BitVec 7) (a : BitVec 7) (s : State) : Host.Outcome State Fault Refusal :=
  perform (useAd c d a)
    (lane32 d fun v _ => v.src a (lowestLane v.all)) s

/-- 10 R262: pa and pb. -/
def execPand (c : BitVec 1) (d : BitVec 3) (a : BitVec 3) (b : BitVec 3) (s : State) : Host.Outcome State Fault Refusal :=
  perform (useP c d [a, b])
    (lanePred d.toNat fun v => v.grp.pget a.toNat &&& v.grp.pget b.toNat) s

/-- 10 R262: pa or pb. -/
def execPor (c : BitVec 1) (d : BitVec 3) (a : BitVec 3) (b : BitVec 3) (s : State) : Host.Outcome State Fault Refusal :=
  perform (useP c d [a, b])
    (lanePred d.toNat fun v => v.grp.pget a.toNat ||| v.grp.pget b.toNat) s

/-- 10 R262: pa xor pb. -/
def execPxor (c : BitVec 1) (d : BitVec 3) (a : BitVec 3) (b : BitVec 3) (s : State) : Host.Outcome State Fault Refusal :=
  perform (useP c d [a, b])
    (lanePred d.toNat fun v => v.grp.pget a.toNat ^^^ v.grp.pget b.toNat) s

/-- 10 R262: not pa. -/
def execPnot (c : BitVec 1) (d : BitVec 3) (a : BitVec 3) (s : State) : Host.Outcome State Fault Refusal :=
  perform (useP c d [a])
    (lanePred d.toNat fun v => ~~~(v.grp.pget a.toNat)) s

/-- 10 R265: the active lanes in which pa is true, as a mask. -/
def execVote (c : BitVec 1) (d : BitVec 7) (a : BitVec 3) (s : State) : Host.Outcome State Fault Refusal :=
  perform (useVote c d a)
    (uniform d.toNat fun v => (v.all &&& v.grp.pget a.toNat).setWidth 64) s

/-- 10 R265: one lane of v[A], zero-extended, whether or not it is active. -/
def execSmovv (c : BitVec 1) (d : BitVec 7) (a : BitVec 7) (b : BitVec 7) (s : State) : Host.Outcome State Fault Refusal :=
  perform (useSmovv c d a b)
    (uniform d.toNat fun v => (v.team.vget v.r.grp a.toNat ((v.usrc b).toNat % 32)).setWidth 64) s

/-- 10 R264: the eight predicates of the lane as a byte. -/
def execMovpGet (c : BitVec 1) (d : BitVec 7) (s : State) : Host.Outcome State Fault Refusal :=
  perform (useD c d)
    (lane32 d fun v l => predByte v.grp l) s

/-- 10 R264: p1 to p7 from bits 1 to 7 of a. -/
def execMovpSet (c : BitVec 1) (a : BitVec 7) (s : State) : Host.Outcome State Fault Refusal :=
  perform (useMovpSet c a)
    (movpSetBody a) s

/-- 10 R267: the immediate, sign-extended. -/
def execMovi (c : BitVec 1) (d : BitVec 7) (imm : BitVec 17) (s : State) : Host.Outcome State Fault Refusal :=
  perform (useD c d)
    (lane32 d fun v l => imm.signExtend 32) s

/-- 10 R267: the register shifted left by 17, with the immediate in the low bits. -/
def execMovx (c : BitVec 1) (d : BitVec 7) (imm : BitVec 17) (s : State) : Host.Outcome State Fault Refusal :=
  perform (useD c d)
    (lane32 d fun v l => ((v.src d l) <<< 17) ||| imm.setWidth 32) s

/-- 10 R267: the immediate, sign-extended. -/
def execSmovi (c : BitVec 1) (d : BitVec 7) (imm : BitVec 17) (s : State) : Host.Outcome State Fault Refusal :=
  perform (useUd c d)
    (uniform d.toNat fun _ => imm.signExtend 64) s

/-- 10 R267: the register shifted left by 17, with the immediate in the low bits. -/
def execSmovx (c : BitVec 1) (d : BitVec 7) (imm : BitVec 17) (s : State) : Host.Outcome State Fault Refusal :=
  perform (useUd c d)
    (uniform d.toNat fun v => ((v.grp.sget d.toNat) <<< 17) ||| imm.setWidth 64) s

end Sys2Proof.Machine
end

