-- ==== Sys2Proof/Machine/Rng.lean ====
section
/-! DEFINITION. The random words: draws and the lane state behind them (13 R380, R381, 08 R217, R218). -/

namespace Sys2Proof.Machine

/-- A word that writes KEY or CTR of each active lane (13 R380, R381). -/
def laneReg (put : Group → Nat → Group) (v : Env) (s : State) : Res :=
  .done (s.modGroup v.r fun x => v.lanes.foldl put x)

/-- One draw of a lane, written to registers (08 R217, 13 R380). -/
def drawBody (regs : DWord → List (Nat × Word)) : Env → State → Res :=
  laneBody fun v x l => { regs := regs (drawAt v.team.bind.seed x l 0), draws := 1 }

/-- The f32 of bits [63:40] of a draw, times 2^-24 (08 R217). -/
def drawFloat (x : DWord) : Word :=
  BitVec.ofNat 32 (roundTo .f32 .rne 0 (.fin false (x.extractLsb' 40 24).toNat (-24) false)).1

/-- 13 R380: the low 32 bits of a draw. -/
def execRng (c : BitVec 1) (d : BitVec 7) (s : State) : Host.Outcome State Fault Refusal :=
  perform (useD c d)
    (drawBody (fun x => [(d.toNat, x.setWidth 32)])) s

/-- 13 R380: a draw, to a pair. -/
def execRngD (c : BitVec 1) (d : BitVec 7) (s : State) : Host.Outcome State Fault Refusal :=
  perform ({ c := c, ops := [.vd2 d] })
    (drawBody (fun x => [(d.toNat, x.setWidth 32), (d.toNat + 1, x.extractLsb' 32 32)])) s

/-- 13 R380: a draw as an f32 in [0, 1). -/
def execRngf (c : BitVec 1) (d : BitVec 7) (s : State) : Host.Outcome State Fault Refusal :=
  perform (useD c d)
    (drawBody (fun x => [(d.toNat, drawFloat x)])) s

/-- 13 R380, R381: KEY of each lane. -/
def execSkey (c : BitVec 1) (a : BitVec 7) (s : State) : Host.Outcome State Fault Refusal :=
  perform ({ c := c, ops := [.vs2 a, .key] })
    (fun v => laneReg (fun x l => { x with key := x.key.set 0 l (v.src2 a l) }) v) s

/-- 13 R380, R381: CTR of each lane. -/
def execSctr (c : BitVec 1) (a : BitVec 7) (s : State) : Host.Outcome State Fault Refusal :=
  perform ({ c := c, ops := [.vs2 a, .ctr] })
    (fun v => laneReg (fun x l => { x with ctr := x.ctr.set 0 l (v.src2 a l) }) v) s

end Sys2Proof.Machine
end

