-- ==== Sys2Proof/Machine/Uni.lean ====
section
/-! DEFINITION. The uniform words (10 R266). -/

namespace Sys2Proof.Machine

/-- 10 R266: a + b. -/
def execSadd (c : BitVec 1) (d : BitVec 7) (a : BitVec 7) (b : BitVec 7) (s : State) : Host.Outcome State Fault Refusal :=
  perform (useUabd c d a b)
    (uniform d.toNat fun v => (v.usrc a) + (v.usrc b)) s

/-- 10 R266: a − b. -/
def execSsub (c : BitVec 1) (d : BitVec 7) (a : BitVec 7) (b : BitVec 7) (s : State) : Host.Outcome State Fault Refusal :=
  perform (useUabd c d a b)
    (uniform d.toNat fun v => (v.usrc a) - (v.usrc b)) s

/-- 10 R266: the low 64 bits of a × b. -/
def execSmul (c : BitVec 1) (d : BitVec 7) (a : BitVec 7) (b : BitVec 7) (s : State) : Host.Outcome State Fault Refusal :=
  perform (useUabd c d a b)
    (uniform d.toNat fun v => (v.usrc a) * (v.usrc b)) s

/-- 10 R266: bitwise and. -/
def execSand (c : BitVec 1) (d : BitVec 7) (a : BitVec 7) (b : BitVec 7) (s : State) : Host.Outcome State Fault Refusal :=
  perform (useUabd c d a b)
    (uniform d.toNat fun v => (v.usrc a) &&& (v.usrc b)) s

/-- 10 R266: bitwise or. -/
def execSor (c : BitVec 1) (d : BitVec 7) (a : BitVec 7) (b : BitVec 7) (s : State) : Host.Outcome State Fault Refusal :=
  perform (useUabd c d a b)
    (uniform d.toNat fun v => (v.usrc a) ||| (v.usrc b)) s

/-- 10 R266: bitwise exclusive or. -/
def execSxor (c : BitVec 1) (d : BitVec 7) (a : BitVec 7) (b : BitVec 7) (s : State) : Host.Outcome State Fault Refusal :=
  perform (useUabd c d a b)
    (uniform d.toNat fun v => (v.usrc a) ^^^ (v.usrc b)) s

/-- 10 R266: a shifted left by b[5:0]. -/
def execSshl (c : BitVec 1) (d : BitVec 7) (a : BitVec 7) (b : BitVec 7) (s : State) : Host.Outcome State Fault Refusal :=
  perform (useUabd c d a b)
    (uniform d.toNat fun v => (v.usrc a) <<< ((v.usrc b).toNat % 64)) s

/-- 10 R266: a shifted right by b[5:0], zero-filled. -/
def execSshr (c : BitVec 1) (d : BitVec 7) (a : BitVec 7) (b : BitVec 7) (s : State) : Host.Outcome State Fault Refusal :=
  perform (useUabd c d a b)
    (uniform d.toNat fun v => (v.usrc a) >>> ((v.usrc b).toNat % 64)) s

/-- 10 R266: a shifted right by b[5:0], sign-filled. -/
def execSsra (c : BitVec 1) (d : BitVec 7) (a : BitVec 7) (b : BitVec 7) (s : State) : Host.Outcome State Fault Refusal :=
  perform (useUabd c d a b)
    (uniform d.toNat fun v => (v.usrc a).sshiftRight ((v.usrc b).toNat % 64)) s

/-- 10 R266: the signed minimum. -/
def execSmin (c : BitVec 1) (d : BitVec 7) (a : BitVec 7) (b : BitVec 7) (s : State) : Host.Outcome State Fault Refusal :=
  perform (useUabd c d a b)
    (uniform d.toNat fun v => smin (v.usrc a) (v.usrc b)) s

/-- 10 R266: the signed maximum. -/
def execSmax (c : BitVec 1) (d : BitVec 7) (a : BitVec 7) (b : BitVec 7) (s : State) : Host.Outcome State Fault Refusal :=
  perform (useUabd c d a b)
    (uniform d.toNat fun v => smax (v.usrc a) (v.usrc b)) s

/-- 10 R266: the unsigned minimum. -/
def execSminu (c : BitVec 1) (d : BitVec 7) (a : BitVec 7) (b : BitVec 7) (s : State) : Host.Outcome State Fault Refusal :=
  perform (useUabd c d a b)
    (uniform d.toNat fun v => umin (v.usrc a) (v.usrc b)) s

/-- 10 R266: the unsigned maximum. -/
def execSmaxu (c : BitVec 1) (d : BitVec 7) (a : BitVec 7) (b : BitVec 7) (s : State) : Host.Outcome State Fault Refusal :=
  perform (useUabd c d a b)
    (uniform d.toNat fun v => umax (v.usrc a) (v.usrc b)) s

/-- 10 R266: a. -/
def execSmov (c : BitVec 1) (d : BitVec 7) (a : BitVec 7) (s : State) : Host.Outcome State Fault Refusal :=
  perform (useUad c d a)
    (uniform d.toNat fun v => (v.usrc a)) s

/-- 10 R266: 1 if a is below b signed, else 0. -/
def execScmplt (c : BitVec 1) (d : BitVec 7) (a : BitVec 7) (b : BitVec 7) (s : State) : Host.Outcome State Fault Refusal :=
  perform (useUabd c d a b)
    (uniform d.toNat fun v => if (v.usrc a).slt (v.usrc b) then 1 else 0) s

/-- 10 R266: 1 if a equals b, else 0. -/
def execScmpeq (c : BitVec 1) (d : BitVec 7) (a : BitVec 7) (b : BitVec 7) (s : State) : Host.Outcome State Fault Refusal :=
  perform (useUabd c d a b)
    (uniform d.toNat fun v => if (v.usrc a) = (v.usrc b) then 1 else 0) s

end Sys2Proof.Machine
end

