-- ==== Sys2Proof/Machine/Xl.lean ====
section
/-! DEFINITION. The cross-lane words (11 R289 to R295). -/

namespace Sys2Proof.Machine

/-- Src32 of lane j where it is active, the lane's own value elsewhere (11 R290). -/
def shuffled (a : BitVec 7) (v : Env) (l : Nat) (j : Int) : Word :=
  if 0 ≤ j ∧ j < 32 ∧ v.all.getLsbD j.toNat then v.src a j.toNat else v.src a l

/-- A word whose lanes read a 5-bit literal. -/
def useShflK (c : BitVec 1) (d a : BitVec 7) (_k : BitVec 5) : Use := useAd c d a

/-- `perm`: A is a v register, for which it does not wait at issue; it counts on SETA (11 R291). -/
def usePerm (c : BitVec 1) (d a b : BitVec 7) : Use :=
  { c := c, ops := [.vd d, ⟨.block, a.toNat, 1, 1, false⟩, .vs b], legal := decide (a.toNat < 96), cls := .a, result := true }

/-- The register and lane that `perm` reads; none outside A's block (11 R291). -/
def permSource (a b : BitVec 7) (v : Env) (l : Nat) : Option (Nat × Nat) :=
  let x := v.src b l
  let g := a.toNat + (x.extractLsb' 5 5).toNat
  if g < blockEnd a.toNat then some (g, (x.extractLsb' 0 5).toNat) else none

/-- The `perm` of an environment, with the pending writes of its block for which it waits (11 R291). -/
def permOf (d a b : BitVec 7) (v : Env) (x : Group) (f : Option Nat) : Perm :=
  let mine := fun n : RegKind × Nat => n.1 = .v && blockEnd n.2 = blockEnd a.toNat
  { ix := x.nextLog, d := d.toNat, a := a.toNat, lanes := v.em, fret := f
    picks := v.lanes.filterMap fun l => (permSource a b v l).map fun gw => (l, gw.1, gw.2)
    log := (x.log.filter fun n => n.writes.any mine).map (·.seq)
    cmds := (x.lineRegs.filter fun r => (List.range r.2.2).any fun i => mine (.v, r.2.1 + i)).map (·.1)
    hyps := (x.hypWords.filter fun h => mine (.v, h.d)).map (·.ix)
    perms := (x.perms.filter fun p => mine (.v, p.d)).map (·.ix) }

/-- `perm`: it issues at once; where a write to its block is pending it reads and completes after that (11 R291). -/
def permBody (d a b : BitVec 7) (v : Env) (s : State) : Res :=
  let f := s.fretOf v .a
  let p := permOf d a b v (liveGroup v s) f
  if !p.ready (liveGroup v s) then
    .done ((s.fretUp v.r f).modGroup v.r fun x => { x with nextLog := x.nextLog + 1, perms := x.perms ++ [p] })
  else
    let src := permSource a b v
    match v.lanes.find? fun l => match src l with
      | none => false
      | some (g, w) => v.grp.psnLines.contains (32 * g + w) with
    | some l => dataError v s (some l)
    | none => lane32 d (fun v l => match src l with
        | none => 0
        | some (g, w) => v.team.vget v.r.grp g w) v s

/-- The sum of Src32 over the active lanes of which `p` is true, modulo 2^32 (11 R292). -/
def sumOver (a : BitVec 7) (v : Env) (p : Nat → Bool) : Word :=
  (lanesOf v.all).foldl (fun x j => if p j then x + v.src a j else x) 0

/-- A reduction: the first active lane's value combined with the others in ascending order (11 R292). -/
def reduced (f : Word → Word → Word) (a : BitVec 7) (v : Env) : Word :=
  match lanesOf v.all with
  | [] => 0
  | l :: ls => ls.foldl (fun x j => f x (v.src a j)) (v.src a l)

/-- The f32 sum of a running value and a lane's, under MODE.FRM, drawing from the lane's stream (08 R223). -/
def f32Step (v : Env) (x : Group) (acc l : Nat) (y : Word) : Nat × Flags :=
  let m := modeRm v.team.bind.mode
  (tyFmt 0).flt .fadd false m (elementDraw v x m l 0) acc y.toNat

/-- What an f32 word has done when it meets its next lane: the running value, the flags, the lanes written with their values and
flags, and the lane at which it stopped. -/
structure F32Run where
  acc : Option Nat
  flags : Flags
  outs : List (Nat × LaneOut)
  stop : Option (Nat × Flags)

/-- One further lane of an f32 scan or sum (08 R223, 11 R293). -/
def f32Lane (d : BitVec 7) (a : BitVec 7) (v : Env) (x : Group) (r : F32Run) (l : Nat) : F32Run :=
  match r.stop with
  | some _ => r
  | none =>
    let step := match r.acc with
      | none => ((v.src a l).toNat, ({} : Flags))
      | some y => f32Step v x y l (v.src a l)
    let drew := r.acc.isSome && modeRm v.team.bind.mode = .rsk
    if trapsUnder v.team.bind.mode step.2 then { r with flags := r.flags.or step.2, stop := some (l, step.2) }
    else
      { acc := some step.1, flags := r.flags.or step.2
        outs := r.outs ++ [(l, { regs := [(d.toNat, BitVec.ofNat 32 step.1)], flags := step.2, draws := if drew then 1 else 0 })]
        stop := none }

/-- The entry of a word is marked with the running value of an f32 scan (11 R293). -/
def State.keepRunning (s : State) (v : Env) (r : Option Nat) : State :=
  s.modGroup v.r fun x =>
    { x with frontier := x.frontier.map fun f => if f.pc = v.e.pc then { f with kept := r.map (BitVec.ofNat 32) } else f }

/-- `scan.fadd`: a restart goes on from the running value kept with the entry (11 R292, R293). -/
def scanFaddBody (d a : BitVec 7) (v : Env) (s : State) : Res :=
  let r := v.lanes.foldl (f32Lane d a v (drawGroup v s)) ⟨v.e.kept.map BitVec.toNat, {}, [], none⟩
  match r.stop with
  | some (l, f) => .trap { Trap.atLane 6 0 l 0 with status := f.bits }
  | none => .done ((s.modTeam v.r fun t => r.outs.foldl (applyLane v.r.grp) t).keepRunning v r.acc)

/-- `rdc.add.1`: the whole sum is formed before any lane is written (11 R292, R293). -/
def rdcFaddBody (d a : BitVec 7) (v : Env) (s : State) : Res :=
  let r := (lanesOf v.all).foldl (f32Lane d a v (drawGroup v s)) ⟨none, {}, [], none⟩
  match r.stop with
  | some _ => .trap { Trap.atIssue 6 0 with status := r.flags.bits }
  | none =>
    let sum := BitVec.ofNat 32 (r.acc.getD 0)
    .done (s.modTeam v.r fun t =>
      ((r.outs.filter fun lo => v.em.getLsbD lo.1).map fun lo => (lo.1, { lo.2 with regs := [(d.toNat, sum)] })).foldl
        (applyLane v.r.grp) t)

/-- `rdc.min.2` and `rdc.max.2` (11 R292, R293, 08 R214). -/
def rdcFminBody (op : FltOp) (d a : BitVec 7) (v : Env) (s : State) : Res :=
  let step := fun (r : Option Nat × Flags × Bool) (l : Nat) =>
    match r.1, r.2.2 with
    | none, _ => (some (v.src a l).toNat, r.2.1, false)
    | some _, true => r
    | some x, false =>
      let y := (tyFmt 0).flt op false .rne 0 x (v.src a l).toNat
      (some y.1, r.2.1.or y.2, trapsUnder v.team.bind.mode y.2)
  let r := (lanesOf v.all).foldl step (none, {}, false)
  if r.2.2 then .trap { Trap.atIssue 6 0 with status := r.2.1.bits }
  else .done ((s.modTeam v.r fun t => t.vset v.r.grp d.toNat v.em fun _ => BitVec.ofNat 32 (r.1.getD 0)).modGroup v.r fun x =>
    { x with status := x.status ||| r.2.1.bits })

/-- `rdc.min` and `rdc.max`: T 0 signed, 1 unsigned, 2 f32 (11 R292). -/
def rdcMinBody (mn : Bool) (t : BitVec 2) (d a : BitVec 7) : Env → State → Res :=
  match t.toNat with
  | 0 => lane32 d fun v _ => reduced (if mn then smin else smax) a v
  | 1 => lane32 d fun v _ => reduced (if mn then umin else umax) a v
  | _ => rdcFminBody (if mn then .fmin else .fmax) d a

/-- STATUS.OVF (10 R275). -/
def ovfBit : DWord := 1#64 <<< 8

/-- Where a work index lies: the active lane whose row holds it, and the offset in the row (11 R294). -/
def rowOfWork (lens : List (Nat × Nat)) (w : Nat) : Option (Nat × Nat) :=
  match lens with
  | [] => none
  | (l, n) :: t => if w < n then some (l, w) else rowOfWork t (w - n)

/-- `rbal` (11 R294). -/
def rbalBody (d a : BitVec 7) (p : BitVec 3) (v : Env) (s : State) : Res :=
  let lens := (lanesOf v.all).map fun l => (l, (v.src a l).toNat)
  let total : Nat := lens.foldl (fun n lw => n + lw.2) 0
  if 2 ^ 32 ≤ total then
    .done (s.modGroup v.r fun x => { x.pset p.toNat v.em 0 with status := x.status ||| ovfBit })
  else
    let on := v.em &&& v.grp.pget p.toNat
    let place := fun l => rowOfWork lens (v.team.vget v.r.grp d.toNat l).toNat
    let hit := maskOf fun l => on.getLsbD l && (place l).isSome
    .done ((s.modTeam v.r fun t =>
      (t.vset v.r.grp d.toNat hit fun l => BitVec.ofNat 32 ((place l).getD (0, 0)).1).vset v.r.grp (d.toNat + 1) hit fun l =>
        BitVec.ofNat 32 ((place l).getD (0, 0)).2).modGroup v.r fun x => x.pset p.toNat (on &&& ~~~hit) 0)

/-- `rbal` names the pair D, D+1 and pn as destinations (11 R294, R295). -/
def useRbal (c : BitVec 1) (d a : BitVec 7) (p : BitVec 3) : Use := { c := c, ops := [.vd2 d, .vs a, .pd p] }

/-- `cmpx` names D and pn (11 R295). -/
def useCmpx (c : BitVec 1) (d a : BitVec 7) (p : BitVec 3) : Use := { c := c, ops := [.vd d, .vs a, .pd p] }

/-- The offsets of `cmpx`: for each active lane, the offset it receives, or none on overflow (11 R295). -/
def compaction (a : BitVec 7) (on : Lanes) (v : Env) : (ls : List Nat) → (run : Nat) → List (Nat × Option Nat)
  | [], _ => []
  | l :: t, run =>
    if !on.getLsbD l then (l, some run) :: compaction a on v t run
    else if run + (v.src a l).toNat < 2 ^ 32 then (l, some run) :: compaction a on v t (run + (v.src a l).toNat)
    else (l, none) :: compaction a on v t run

/-- `cmpx` (11 R295). -/
def cmpxBody (d a : BitVec 7) (p : BitVec 3) (v : Env) (s : State) : Res :=
  let outs := compaction a (v.grp.pget p.toNat) v (lanesOf v.all) 0
  let value := fun l => (outs.find? fun o => o.1 = l).bind (·.2)
  let ok := maskOf fun l => v.em.getLsbD l && (value l).isSome
  let lost := v.em &&& ~~~ok
  .done ((s.modTeam v.r fun t => t.vset v.r.grp d.toNat ok fun l => BitVec.ofNat 32 ((value l).getD 0)).modGroup v.r fun x =>
    { x.pset p.toNat lost 0 with status := if lost = 0 then x.status else x.status ||| ovfBit })

/-- 11 R290: a of the lane that b names. -/
def execShfl (c : BitVec 1) (d : BitVec 7) (a : BitVec 7) (b : BitVec 7) (s : State) : Host.Outcome State Fault Refusal :=
  perform (useAbd c d a b)
    (lane32 d fun v l => shuffled a v l ((v.src b l).extractLsb' 0 5).toNat) s

/-- 11 R290: a of the lane k below. -/
def execShflUp (c : BitVec 1) (d : BitVec 7) (a : BitVec 7) (k : BitVec 5) (s : State) : Host.Outcome State Fault Refusal :=
  perform (useShflK c d a k)
    (lane32 d fun v l => shuffled a v l ((l : Int) - k.toNat)) s

/-- 11 R290: a of the lane k above. -/
def execShflDn (c : BitVec 1) (d : BitVec 7) (a : BitVec 7) (k : BitVec 5) (s : State) : Host.Outcome State Fault Refusal :=
  perform (useShflK c d a k)
    (lane32 d fun v l => shuffled a v l (l + k.toNat)) s

/-- 11 R290: a of the lane L xor k. -/
def execShflXor (c : BitVec 1) (d : BitVec 7) (a : BitVec 7) (k : BitVec 5) (s : State) : Host.Outcome State Fault Refusal :=
  perform (useShflK c d a k)
    (lane32 d fun v l => shuffled a v l (l ^^^ k.toNat)) s

/-- 11 R291: a word of the block of A. -/
def execPerm (c : BitVec 1) (d : BitVec 7) (a : BitVec 7) (b : BitVec 7) (s : State) : Host.Outcome State Fault Refusal :=
  perform (usePerm c d a b)
    (permBody d a b) s

/-- 11 R292: the inclusive sum. -/
def execScanAdd (c : BitVec 1) (d : BitVec 7) (a : BitVec 7) (s : State) : Host.Outcome State Fault Refusal :=
  perform (useAd c d a)
    (lane32 d fun v l => sumOver a v fun j => decide (j ≤ l)) s

/-- 11 R292: the exclusive sum. -/
def execScanAddx (c : BitVec 1) (d : BitVec 7) (a : BitVec 7) (s : State) : Host.Outcome State Fault Refusal :=
  perform (useAd c d a)
    (lane32 d fun v l => sumOver a v fun j => decide (j < l)) s

/-- 11 R292: the sum over the active lanes, integer or f32. -/
def execRdcAdd (c : BitVec 1) (d : BitVec 7) (a : BitVec 7) (t : BitVec 1) (s : State) : Host.Outcome State Fault Refusal :=
  perform (useAd c d a)
    (if t = 0 then lane32 d (fun v _ => sumOver a v fun _ => true) else rdcFaddBody d a) s

/-- 11 R292: the minimum over the active lanes. -/
def execRdcMin (c : BitVec 1) (d : BitVec 7) (a : BitVec 7) (t : BitVec 2) (s : State) : Host.Outcome State Fault Refusal :=
  perform ({ useAd c d a with legal := decide (t.toNat < 3) })
    (rdcMinBody true t d a) s

/-- 11 R292: the maximum over the active lanes. -/
def execRdcMax (c : BitVec 1) (d : BitVec 7) (a : BitVec 7) (t : BitVec 2) (s : State) : Host.Outcome State Fault Refusal :=
  perform ({ useAd c d a with legal := decide (t.toNat < 3) })
    (rdcMinBody false t d a) s

/-- 11 R294: maps work items onto rows. -/
def execRbal (c : BitVec 1) (d : BitVec 7) (a : BitVec 7) (p : BitVec 3) (s : State) : Host.Outcome State Fault Refusal :=
  perform (useRbal c d a p)
    (rbalBody d a p) s

/-- 11 R295: compaction offsets. -/
def execCmpx (c : BitVec 1) (d : BitVec 7) (a : BitVec 7) (p : BitVec 3) (s : State) : Host.Outcome State Fault Refusal :=
  perform (useCmpx c d a p)
    (cmpxBody d a p) s

/-- 11 R292, R293: the inclusive f32 sum. -/
def execScanFadd (c : BitVec 1) (d : BitVec 7) (a : BitVec 7) (s : State) : Host.Outcome State Fault Refusal :=
  perform (useAd c d a)
    (scanFaddBody d a) s

end Sys2Proof.Machine
end

