-- ==== Sys2Proof/Machine/Dispatch.lean ====
section
/-! DEFINITION. The dispatcher: one arm for each instruction. -/

namespace Sys2Proof.Machine

def exec (i : Instr) (s : State) : Host.Outcome State Fault Refusal :=
  match i with
  | .powerGood images key disabled moduleId => Sys2Proof.Machine.execPowerGood images key disabled moduleId s
  | .featureCommit => Sys2Proof.Machine.execFeatureCommit s
  | .doorbellWrite part queue prod => Sys2Proof.Machine.execDoorbellWrite part queue prod s
  | .doorbellIgnoredClear part queue value => Sys2Proof.Machine.execDoorbellIgnoredClear part queue value s
  | .mboxQuote tag nonce => Sys2Proof.Machine.execMboxQuote tag nonce s
  | .mboxReadMr tag arg => Sys2Proof.Machine.execMboxReadMr tag arg s
  | .mboxExtendMr tag arg digest => Sys2Proof.Machine.execMboxExtendMr tag arg digest s
  | .mboxCreatePartition tag arg record => Sys2Proof.Machine.execMboxCreatePartition tag arg record s
  | .mboxDestroyPartition tag arg => Sys2Proof.Machine.execMboxDestroyPartition tag arg s
  | .mboxResetPartition tag arg => Sys2Proof.Machine.execMboxResetPartition tag arg s
  | .mboxBiasFlip tag arg flip => Sys2Proof.Machine.execMboxBiasFlip tag arg flip s
  | .mboxRaiseRollback tag arg => Sys2Proof.Machine.execMboxRaiseRollback tag arg s
  | .mboxReadEvent tag arg => Sys2Proof.Machine.execMboxReadEvent tag arg s
  | .mgmtRegisterWrite reg value => Sys2Proof.Machine.execMgmtRegisterWrite reg value s
  | .hostMemRead hostLine => Sys2Proof.Machine.execHostMemRead hostLine s
  | .hostMemWrite hostLine bytes poison => Sys2Proof.Machine.execHostMemWrite hostLine bytes poison s
  | .hostSnoop line => Sys2Proof.Machine.execHostSnoop line s
  | .pktLaunch part queue => Sys2Proof.Machine.execPktLaunch part queue s
  | .pktDependenceWait part queue => Sys2Proof.Machine.execPktDependenceWait part queue s
  | .dependenceWaitPoll part queue => Sys2Proof.Machine.execDependenceWaitPoll part queue s
  | .pktSetDeterminism part queue => Sys2Proof.Machine.execPktSetDeterminism part queue s
  | .pktSetNbv part queue => Sys2Proof.Machine.execPktSetNbv part queue s
  | .pktCommCreate part queue => Sys2Proof.Machine.execPktCommCreate part queue s
  | .pktCommRebuild part queue => Sys2Proof.Machine.execPktCommRebuild part queue s
  | .pktEnergyEstimate part queue => Sys2Proof.Machine.execPktEnergyEstimate part queue s
  | .pktSpillGrant part queue => Sys2Proof.Machine.execPktSpillGrant part queue s
  | .launchComplete launch => Sys2Proof.Machine.execLaunchComplete launch s
  | .clusterPlace launch => Sys2Proof.Machine.execClusterPlace launch s
  | .slotBind core slot => Sys2Proof.Machine.execSlotBind core slot s
  | .slotSave core slot => Sys2Proof.Machine.execSlotSave core slot s
  | .slotKill core slot => Sys2Proof.Machine.execSlotKill core slot s
  | .slotRelease core slot => Sys2Proof.Machine.execSlotRelease core slot s
  | .contextSaveWrite core slot => Sys2Proof.Machine.execContextSaveWrite core slot s
  | .preemptDrainTimeout core slot => Sys2Proof.Machine.execPreemptDrainTimeout core slot s
  | .groupSlotRelease g => Sys2Proof.Machine.execGroupSlotRelease g s
  | .tsync die => Sys2Proof.Machine.execTsync die s
  | .tsyncDone die => Sys2Proof.Machine.execTsyncDone die s
  | .pageCopy die ctl => Sys2Proof.Machine.execPageCopy die ctl s
  | .pageCopyDone die => Sys2Proof.Machine.execPageCopyDone die s
  | .biasFlip die flip => Sys2Proof.Machine.execBiasFlip die flip s
  | .biasFlipDone frame toHost => Sys2Proof.Machine.execBiasFlipDone frame toHost s
  | .hintPost die part hint => Sys2Proof.Machine.execHintPost die part hint s
  | .thresholdFire die unit => Sys2Proof.Machine.execThresholdFire die unit s
  | .routeEntryWrite index value => Sys2Proof.Machine.execRouteEntryWrite index value s
  | .clockStepTakeEffect part => Sys2Proof.Machine.execClockStepTakeEffect part s
  | .energyIntervalEnd part => Sys2Proof.Machine.execEnergyIntervalEnd part s
  | .watchdogExpire part => Sys2Proof.Machine.execWatchdogExpire part s
  | .partitionReset part => Sys2Proof.Machine.execPartitionReset part s
  | .portDown port => Sys2Proof.Machine.execPortDown port s
  | .fabricRequestIn kind line bytes => Sys2Proof.Machine.execFabricRequestIn kind line bytes s
  | .collProdWrite comm prod hyp => Sys2Proof.Machine.execCollProdWrite comm prod hyp s
  | .collAllReduce comm => Sys2Proof.Machine.execCollAllReduce comm s
  | .collReduce comm => Sys2Proof.Machine.execCollReduce comm s
  | .collBroadcast comm => Sys2Proof.Machine.execCollBroadcast comm s
  | .collNodeReceive comm lo hi elem value => Sys2Proof.Machine.execCollNodeReceive comm lo hi elem value s
  | .collComplete comm => Sys2Proof.Machine.execCollComplete comm s
  | .lineDataArrive g entry vline => Sys2Proof.Machine.execLineDataArrive g entry vline s
  | .laneStorePerform g entry vline => Sys2Proof.Machine.execLaneStorePerform g entry vline s
  | .homeRequest die part line want => Sys2Proof.Machine.execHomeRequest die part line want s
  | .homeApplyWrite w => Sys2Proof.Machine.execHomeApplyWrite w s
  | .writeAck w => Sys2Proof.Machine.execWriteAck w s
  | .applyInvalidation die w => Sys2Proof.Machine.execApplyInvalidation die w s
  | .sweepAnswer g cacheDie => Sys2Proof.Machine.execSweepAnswer g cacheDie s
  | .fenceScTicket => Sys2Proof.Machine.execFenceScTicket s
  | .patrolScrub core unit row => Sys2Proof.Machine.execPatrolScrub core unit row s
  | .engineCommandStart core cmd => Sys2Proof.Machine.execEngineCommandStart core cmd s
  | .engineCommandComplete core cmd => Sys2Proof.Machine.execEngineCommandComplete core cmd s
  | .copyTakeup core => Sys2Proof.Machine.execCopyTakeup core s
  | .stageDelivery core slot off bytes ok => Sys2Proof.Machine.execStageDelivery core slot off bytes ok s
  | .translationWalk space i0 i1 i2 i3 => Sys2Proof.Machine.execTranslationWalk space i0 i1 i2 i3 s
  | .operandLogReplay g entry => Sys2Proof.Machine.execOperandLogReplay g entry s
  | .rldFill g entry => Sys2Proof.Machine.execRldFill g entry s
  | .trapDeliver g entry => Sys2Proof.Machine.execTrapDeliver g entry s
  | .lateFault g line => Sys2Proof.Machine.execLateFault g line s
  | .queuePushArrive g => Sys2Proof.Machine.execQueuePushArrive g s
  | .queueRunVisible core qn => Sys2Proof.Machine.execQueueRunVisible core qn s
  | .stealTimeout g => Sys2Proof.Machine.execStealTimeout g s
  | .taskDelivery g task => Sys2Proof.Machine.execTaskDelivery g task s
  | .leaseGrant core => Sys2Proof.Machine.execLeaseGrant core s
  | .leaseExpire core => Sys2Proof.Machine.execLeaseExpire core s
  | .gangLatchClose core slot members => Sys2Proof.Machine.execGangLatchClose core slot members s
  | .matrixTakeup core => Sys2Proof.Machine.execMatrixTakeup core s
  | .matrixComplete core cmd => Sys2Proof.Machine.execMatrixComplete core cmd s
  | .accTakeup core => Sys2Proof.Machine.execAccTakeup core s
  | .accComplete core cmd => Sys2Proof.Machine.execAccComplete core cmd s
  | .chainStop core chain => Sys2Proof.Machine.execChainStop core chain s
  | .chainCopy core chain => Sys2Proof.Machine.execChainCopy core chain s
  | .chainGatherFill core chain => Sys2Proof.Machine.execChainGatherFill core chain s
  | .chainMulticast core chain => Sys2Proof.Machine.execChainMulticast core chain s
  | .chainMaskWalk core chain => Sys2Proof.Machine.execChainMaskWalk core chain s
  | .chainLoop core chain => Sys2Proof.Machine.execChainLoop core chain s
  | .chainConditional core chain => Sys2Proof.Machine.execChainConditional core chain s
  | .chainSignal core chain => Sys2Proof.Machine.execChainSignal core chain s
  | .chainDone core chain => Sys2Proof.Machine.execChainDone core chain s
  | .regroupComplete core slot => Sys2Proof.Machine.execRegroupComplete core slot s
  | .sleepExpire g => Sys2Proof.Machine.execSleepExpire g s
  | .hypRequestTakeup part => Sys2Proof.Machine.execHypRequestTakeup part s
  | .hypCommit part => Sys2Proof.Machine.execHypCommit part s
  | .hypResolutionComplete part g => Sys2Proof.Machine.execHypResolutionComplete part g s
  | .hypSliceWorkDone part slice id => Sys2Proof.Machine.execHypSliceWorkDone part slice id s
  | .rateWindowEnd core => Sys2Proof.Machine.execRateWindowEnd core s
  | .partitionResetComplete part => Sys2Proof.Machine.execPartitionResetComplete part s
  | .rootWriteBatchSend die => Sys2Proof.Machine.execRootWriteBatchSend die s
  | .hdr w a b g p n => Sys2Proof.Machine.execHdr w a b g p n s
  | .add c d a b => Sys2Proof.Machine.execAdd c d a b s
  | .sub c d a b => Sys2Proof.Machine.execSub c d a b s
  | .mul c d a b => Sys2Proof.Machine.execMul c d a b s
  | .mulh c d a b => Sys2Proof.Machine.execMulh c d a b s
  | .mulhu c d a b => Sys2Proof.Machine.execMulhu c d a b s
  | .min c d a b => Sys2Proof.Machine.execMin c d a b s
  | .max c d a b => Sys2Proof.Machine.execMax c d a b s
  | .minu c d a b => Sys2Proof.Machine.execMinu c d a b s
  | .maxu c d a b => Sys2Proof.Machine.execMaxu c d a b s
  | .and c d a b => Sys2Proof.Machine.execAnd c d a b s
  | .or c d a b => Sys2Proof.Machine.execOr c d a b s
  | .xor c d a b => Sys2Proof.Machine.execXor c d a b s
  | .andn c d a b => Sys2Proof.Machine.execAndn c d a b s
  | .orn c d a b => Sys2Proof.Machine.execOrn c d a b s
  | .shl c d a b => Sys2Proof.Machine.execShl c d a b s
  | .shr c d a b => Sys2Proof.Machine.execShr c d a b s
  | .sra c d a b => Sys2Proof.Machine.execSra c d a b s
  | .rotl c d a b => Sys2Proof.Machine.execRotl c d a b s
  | .rotr c d a b => Sys2Proof.Machine.execRotr c d a b s
  | .addc c d a b => Sys2Proof.Machine.execAddc c d a b s
  | .subb c d a b => Sys2Proof.Machine.execSubb c d a b s
  | .absd c d a b => Sys2Proof.Machine.execAbsd c d a b s
  | .addi c d a imm => Sys2Proof.Machine.execAddi c d a imm s
  | .andi c d a imm => Sys2Proof.Machine.execAndi c d a imm s
  | .ori c d a imm => Sys2Proof.Machine.execOri c d a imm s
  | .xori c d a imm => Sys2Proof.Machine.execXori c d a imm s
  | .shli c d a imm => Sys2Proof.Machine.execShli c d a imm s
  | .shri c d a imm => Sys2Proof.Machine.execShri c d a imm s
  | .srai c d a imm => Sys2Proof.Machine.execSrai c d a imm s
  | .muli c d a imm => Sys2Proof.Machine.execMuli c d a imm s
  | .addD c d a b => Sys2Proof.Machine.execAddD c d a b s
  | .subD c d a b => Sys2Proof.Machine.execSubD c d a b s
  | .mulD c d a b => Sys2Proof.Machine.execMulD c d a b s
  | .mulhD c d a b => Sys2Proof.Machine.execMulhD c d a b s
  | .mulhuD c d a b => Sys2Proof.Machine.execMulhuD c d a b s
  | .minD c d a b => Sys2Proof.Machine.execMinD c d a b s
  | .maxD c d a b => Sys2Proof.Machine.execMaxD c d a b s
  | .minuD c d a b => Sys2Proof.Machine.execMinuD c d a b s
  | .maxuD c d a b => Sys2Proof.Machine.execMaxuD c d a b s
  | .andD c d a b => Sys2Proof.Machine.execAndD c d a b s
  | .orD c d a b => Sys2Proof.Machine.execOrD c d a b s
  | .xorD c d a b => Sys2Proof.Machine.execXorD c d a b s
  | .shlD c d a b => Sys2Proof.Machine.execShlD c d a b s
  | .shrD c d a b => Sys2Proof.Machine.execShrD c d a b s
  | .sraD c d a b => Sys2Proof.Machine.execSraD c d a b s
  | .clz c d a => Sys2Proof.Machine.execClz c d a s
  | .ctz c d a => Sys2Proof.Machine.execCtz c d a s
  | .popc c d a => Sys2Proof.Machine.execPopc c d a s
  | .brev c d a => Sys2Proof.Machine.execBrev c d a s
  | .bext c d a b => Sys2Proof.Machine.execBext c d a b s
  | .bins c d a b => Sys2Proof.Machine.execBins c d a b s
  | .ilv2 c d a b => Sys2Proof.Machine.execIlv2 c d a b s
  | .ilv3 c d a b => Sys2Proof.Machine.execIlv3 c d a b s
  | .dlv3 c d a b => Sys2Proof.Machine.execDlv3 c d a b s
  | .cpl c d a b => Sys2Proof.Machine.execCpl c d a b s
  | .bsel c d a b => Sys2Proof.Machine.execBsel c d a b s
  | .prmt c d a b => Sys2Proof.Machine.execPrmt c d a b s
  | .fadd c t d a b => Sys2Proof.Machine.execFadd c t d a b s
  | .fsub c t d a b => Sys2Proof.Machine.execFsub c t d a b s
  | .fmul c t d a b => Sys2Proof.Machine.execFmul c t d a b s
  | .fmin c t d a b => Sys2Proof.Machine.execFmin c t d a b s
  | .fmax c t d a b => Sys2Proof.Machine.execFmax c t d a b s
  | .fminm c t d a b => Sys2Proof.Machine.execFminm c t d a b s
  | .fmaxm c t d a b => Sys2Proof.Machine.execFmaxm c t d a b s
  | .fdiv c t d a b => Sys2Proof.Machine.execFdiv c t d a b s
  | .fma c t d a b => Sys2Proof.Machine.execFma c t d a b s
  | .fms c t d a b => Sys2Proof.Machine.execFms c t d a b s
  | .fnma c t d a b => Sys2Proof.Machine.execFnma c t d a b s
  | .fnms c t d a b => Sys2Proof.Machine.execFnms c t d a b s
  | .cvt c t d a f m => Sys2Proof.Machine.execCvt c t d a f m s
  | .rcp c t d a m => Sys2Proof.Machine.execRcp c t d a m s
  | .rsq c t d a m => Sys2Proof.Machine.execRsq c t d a m s
  | .sqrt c t d a m => Sys2Proof.Machine.execSqrt c t d a m s
  | .exp2 c t d a m => Sys2Proof.Machine.execExp2 c t d a m s
  | .log2 c t d a m => Sys2Proof.Machine.execLog2 c t d a m s
  | .sinp c t d a m => Sys2Proof.Machine.execSinp c t d a m s
  | .rint c t d a m => Sys2Proof.Machine.execRint c t d a m s
  | .cmpEq c p k t a b => Sys2Proof.Machine.execCmpEq c p k t a b s
  | .cmpNe c p k t a b => Sys2Proof.Machine.execCmpNe c p k t a b s
  | .cmpLt c p k t a b => Sys2Proof.Machine.execCmpLt c p k t a b s
  | .cmpLe c p k t a b => Sys2Proof.Machine.execCmpLe c p k t a b s
  | .cmpGt c p k t a b => Sys2Proof.Machine.execCmpGt c p k t a b s
  | .cmpGe c p k t a b => Sys2Proof.Machine.execCmpGe c p k t a b s
  | .cmpLtu c p k t a b => Sys2Proof.Machine.execCmpLtu c p k t a b s
  | .cmpLeu c p k t a b => Sys2Proof.Machine.execCmpLeu c p k t a b s
  | .cmpGtu c p k t a b => Sys2Proof.Machine.execCmpGtu c p k t a b s
  | .cmpGeu c p k t a b => Sys2Proof.Machine.execCmpGeu c p k t a b s
  | .cmpFeq c p k t a b => Sys2Proof.Machine.execCmpFeq c p k t a b s
  | .cmpFne c p k t a b => Sys2Proof.Machine.execCmpFne c p k t a b s
  | .cmpFlt c p k t a b => Sys2Proof.Machine.execCmpFlt c p k t a b s
  | .cmpFle c p k t a b => Sys2Proof.Machine.execCmpFle c p k t a b s
  | .cmpFgt c p k t a b => Sys2Proof.Machine.execCmpFgt c p k t a b s
  | .cmpFge c p k t a b => Sys2Proof.Machine.execCmpFge c p k t a b s
  | .cmpFun c p k t a b => Sys2Proof.Machine.execCmpFun c p k t a b s
  | .cmpFord c p k t a b => Sys2Proof.Machine.execCmpFord c p k t a b s
  | .mov c d a => Sys2Proof.Machine.execMov c d a s
  | .sel c n d a b => Sys2Proof.Machine.execSel c n d a b s
  | .lid c d => Sys2Proof.Machine.execLid c d s
  | .gidx c d k => Sys2Proof.Machine.execGidx c d k s
  | .bcast c d a => Sys2Proof.Machine.execBcast c d a s
  | .pand c d a b => Sys2Proof.Machine.execPand c d a b s
  | .por c d a b => Sys2Proof.Machine.execPor c d a b s
  | .pxor c d a b => Sys2Proof.Machine.execPxor c d a b s
  | .pnot c d a => Sys2Proof.Machine.execPnot c d a s
  | .vote c d a => Sys2Proof.Machine.execVote c d a s
  | .smovv c d a b => Sys2Proof.Machine.execSmovv c d a b s
  | .movpGet c d => Sys2Proof.Machine.execMovpGet c d s
  | .movpSet c a => Sys2Proof.Machine.execMovpSet c a s
  | .sadd c d a b => Sys2Proof.Machine.execSadd c d a b s
  | .ssub c d a b => Sys2Proof.Machine.execSsub c d a b s
  | .smul c d a b => Sys2Proof.Machine.execSmul c d a b s
  | .sand c d a b => Sys2Proof.Machine.execSand c d a b s
  | .sor c d a b => Sys2Proof.Machine.execSor c d a b s
  | .sxor c d a b => Sys2Proof.Machine.execSxor c d a b s
  | .sshl c d a b => Sys2Proof.Machine.execSshl c d a b s
  | .sshr c d a b => Sys2Proof.Machine.execSshr c d a b s
  | .ssra c d a b => Sys2Proof.Machine.execSsra c d a b s
  | .smin c d a b => Sys2Proof.Machine.execSmin c d a b s
  | .smax c d a b => Sys2Proof.Machine.execSmax c d a b s
  | .sminu c d a b => Sys2Proof.Machine.execSminu c d a b s
  | .smaxu c d a b => Sys2Proof.Machine.execSmaxu c d a b s
  | .smov c d a => Sys2Proof.Machine.execSmov c d a s
  | .scmplt c d a b => Sys2Proof.Machine.execScmplt c d a b s
  | .scmpeq c d a b => Sys2Proof.Machine.execScmpeq c d a b s
  | .movi c d imm => Sys2Proof.Machine.execMovi c d imm s
  | .movx c d imm => Sys2Proof.Machine.execMovx c d imm s
  | .smovi c d imm => Sys2Proof.Machine.execSmovi c d imm s
  | .smovx c d imm => Sys2Proof.Machine.execSmovx c d imm s
  | .jmp p o => Sys2Proof.Machine.execJmp p o s
  | .bt sc p o => Sys2Proof.Machine.execBt sc p o s
  | .bf sc p o => Sys2Proof.Machine.execBf sc p o s
  | .bany sc p o => Sys2Proof.Machine.execBany sc p o s
  | .ball sc p o => Sys2Proof.Machine.execBall sc p o s
  | .call p o => Sys2Proof.Machine.execCall p o s
  | .nop => Sys2Proof.Machine.execNop s
  | .exit => Sys2Proof.Machine.execExit s
  | .ret => Sys2Proof.Machine.execRet s
  | .brx a p => Sys2Proof.Machine.execBrx a p s
  | .yield => Sys2Proof.Machine.execYield s
  | .trap n => Sys2Proof.Machine.execTrap n s
  | .ient => Sys2Proof.Machine.execIent s
  | .regroup a => Sys2Proof.Machine.execRegroup a s
  | .bkpt n => Sys2Proof.Machine.execBkpt n s
  | .ldB c sc o d q x => Sys2Proof.Machine.execLdB c sc o d q x s
  | .ldBs c sc o d q x => Sys2Proof.Machine.execLdBs c sc o d q x s
  | .ldH c sc o d q x => Sys2Proof.Machine.execLdH c sc o d q x s
  | .ldHs c sc o d q x => Sys2Proof.Machine.execLdHs c sc o d q x s
  | .ldW c sc o d q x => Sys2Proof.Machine.execLdW c sc o d q x s
  | .ldD c sc o d q x => Sys2Proof.Machine.execLdD c sc o d q x s
  | .ldQ c sc o d q x => Sys2Proof.Machine.execLdQ c sc o d q x s
  | .ldl c sc o d q x => Sys2Proof.Machine.execLdl c sc o d q x s
  | .sld c sc o d q x => Sys2Proof.Machine.execSld c sc o d q x s
  | .ldNc c sc o d q x => Sys2Proof.Machine.execLdNc c sc o d q x s
  | .stB c sc o d q x => Sys2Proof.Machine.execStB c sc o d q x s
  | .stH c sc o d q x => Sys2Proof.Machine.execStH c sc o d q x s
  | .stW c sc o d q x => Sys2Proof.Machine.execStW c sc o d q x s
  | .stD c sc o d q x => Sys2Proof.Machine.execStD c sc o d q x s
  | .stQ c sc o d q x => Sys2Proof.Machine.execStQ c sc o d q x s
  | .stl c sc o d q x => Sys2Proof.Machine.execStl c sc o d q x s
  | .sst c sc o d q x => Sys2Proof.Machine.execSst c sc o d q x s
  | .atomAdd c sc o d q x => Sys2Proof.Machine.execAtomAdd c sc o d q x s
  | .atomSub c sc o d q x => Sys2Proof.Machine.execAtomSub c sc o d q x s
  | .atomAnd c sc o d q x => Sys2Proof.Machine.execAtomAnd c sc o d q x s
  | .atomOr c sc o d q x => Sys2Proof.Machine.execAtomOr c sc o d q x s
  | .atomXor c sc o d q x => Sys2Proof.Machine.execAtomXor c sc o d q x s
  | .atomMin c sc o d q x => Sys2Proof.Machine.execAtomMin c sc o d q x s
  | .atomMax c sc o d q x => Sys2Proof.Machine.execAtomMax c sc o d q x s
  | .atomUmin c sc o d q x => Sys2Proof.Machine.execAtomUmin c sc o d q x s
  | .atomUmax c sc o d q x => Sys2Proof.Machine.execAtomUmax c sc o d q x s
  | .atomXchg c sc o d q x => Sys2Proof.Machine.execAtomXchg c sc o d q x s
  | .atomCas c sc o d q x => Sys2Proof.Machine.execAtomCas c sc o d q x s
  | .atomFadd c sc o d q x => Sys2Proof.Machine.execAtomFadd c sc o d q x s
  | .atomFmin c sc o d q x => Sys2Proof.Machine.execAtomFmin c sc o d q x s
  | .atomFmax c sc o d q x => Sys2Proof.Machine.execAtomFmax c sc o d q x s
  | .atomLd c sc o d q x => Sys2Proof.Machine.execAtomLd c sc o d q x s
  | .atomSt c sc o d q x => Sys2Proof.Machine.execAtomSt c sc o d q x s
  | .atomdAdd c sc o d q x => Sys2Proof.Machine.execAtomdAdd c sc o d q x s
  | .atomdSub c sc o d q x => Sys2Proof.Machine.execAtomdSub c sc o d q x s
  | .atomdAnd c sc o d q x => Sys2Proof.Machine.execAtomdAnd c sc o d q x s
  | .atomdOr c sc o d q x => Sys2Proof.Machine.execAtomdOr c sc o d q x s
  | .atomdXor c sc o d q x => Sys2Proof.Machine.execAtomdXor c sc o d q x s
  | .atomdMin c sc o d q x => Sys2Proof.Machine.execAtomdMin c sc o d q x s
  | .atomdMax c sc o d q x => Sys2Proof.Machine.execAtomdMax c sc o d q x s
  | .atomdUmin c sc o d q x => Sys2Proof.Machine.execAtomdUmin c sc o d q x s
  | .atomdUmax c sc o d q x => Sys2Proof.Machine.execAtomdUmax c sc o d q x s
  | .atomdXchg c sc o d q x => Sys2Proof.Machine.execAtomdXchg c sc o d q x s
  | .atomdCas c sc o d q x => Sys2Proof.Machine.execAtomdCas c sc o d q x s
  | .atomdFadd c sc o d q x => Sys2Proof.Machine.execAtomdFadd c sc o d q x s
  | .atomdFmin c sc o d q x => Sys2Proof.Machine.execAtomdFmin c sc o d q x s
  | .atomdFmax c sc o d q x => Sys2Proof.Machine.execAtomdFmax c sc o d q x s
  | .atomdLd c sc o d q x => Sys2Proof.Machine.execAtomdLd c sc o d q x s
  | .atomdSt c sc o d q x => Sys2Proof.Machine.execAtomdSt c sc o d q x s
  | .shfl c d a b => Sys2Proof.Machine.execShfl c d a b s
  | .shflUp c d a k => Sys2Proof.Machine.execShflUp c d a k s
  | .shflDn c d a k => Sys2Proof.Machine.execShflDn c d a k s
  | .shflXor c d a k => Sys2Proof.Machine.execShflXor c d a k s
  | .perm c d a b => Sys2Proof.Machine.execPerm c d a b s
  | .scanAdd c d a => Sys2Proof.Machine.execScanAdd c d a s
  | .scanAddx c d a => Sys2Proof.Machine.execScanAddx c d a s
  | .rdcAdd c d a t => Sys2Proof.Machine.execRdcAdd c d a t s
  | .rdcMin c d a t => Sys2Proof.Machine.execRdcMin c d a t s
  | .rdcMax c d a t => Sys2Proof.Machine.execRdcMax c d a t s
  | .rbal c d a p => Sys2Proof.Machine.execRbal c d a p s
  | .cmpx c d a p => Sys2Proof.Machine.execCmpx c d a p s
  | .scanFadd c d a => Sys2Proof.Machine.execScanFadd c d a s
  | .fence c sc f => Sys2Proof.Machine.execFence c sc f s
  | .fenceSc c sc => Sys2Proof.Machine.execFenceSc c sc s
  | .barInit c sc b a => Sys2Proof.Machine.execBarInit c sc b a s
  | .barArrive c sc b => Sys2Proof.Machine.execBarArrive c sc b s
  | .barWait c sc b => Sys2Proof.Machine.execBarWait c sc b s
  | .barSync c sc b => Sys2Proof.Machine.execBarSync c sc b s
  | .barDrop c sc b => Sys2Proof.Machine.execBarDrop c sc b s
  | .msync c sc a => Sys2Proof.Machine.execMsync c sc a s
  | .drain c sc f => Sys2Proof.Machine.execDrain c sc f s
  | .fwait c sc f g => Sys2Proof.Machine.execFwait c sc f g s
  | .sbarInit c sc a => Sys2Proof.Machine.execSbarInit c sc a s
  | .sbarWait c sc a p => Sys2Proof.Machine.execSbarWait c sc a p s
  | .sbarArrive c sc a => Sys2Proof.Machine.execSbarArrive c sc a s
  | .barTry c sc b p => Sys2Proof.Machine.execBarTry c sc b p s
  | .qput c n row col d => Sys2Proof.Machine.execQput c n row col d s
  | .qget c n d => Sys2Proof.Machine.execQget c n d s
  | .qputTry c n row col d p => Sys2Proof.Machine.execQputTry c n row col d p s
  | .qgetTry c n d p => Sys2Proof.Machine.execQgetTry c n d p s
  | .qlen c n row col d => Sys2Proof.Machine.execQlen c n row col d s
  | .spawn c d => Sys2Proof.Machine.execSpawn c d s
  | .spawnTry c d p => Sys2Proof.Machine.execSpawnTry c d p s
  | .take c d p => Sys2Proof.Machine.execTake c d p s
  | .steal c row col p => Sys2Proof.Machine.execSteal c row col p s
  | .kick c a => Sys2Proof.Machine.execKick c a s
  | .copy c a b m => Sys2Proof.Machine.execCopy c a b m s
  | .copyT c a b m => Sys2Proof.Machine.execCopyT c a b m s
  | .gfill c a b m => Sys2Proof.Machine.execGfill c a b m s
  | .mcast c a b m => Sys2Proof.Machine.execMcast c a b m s
  | .rfence c => Sys2Proof.Machine.execRfence c s
  | .mres c h sc => Sys2Proof.Machine.execMres c h sc s
  | .mrel c h => Sys2Proof.Machine.execMrel c h s
  | .mmad c h sc v n => Sys2Proof.Machine.execMmad c h sc v n s
  | .mmadSp c h sc v n t => Sys2Proof.Machine.execMmadSp c h sc v n t s
  | .gang c sc => Sys2Proof.Machine.execGang c sc s
  | .capoTake c => Sys2Proof.Machine.execCapoTake c s
  | .capoPass c => Sys2Proof.Machine.execCapoPass c s
  | .mlease c sc => Sys2Proof.Machine.execMlease c sc s
  | .mfree c => Sys2Proof.Machine.execMfree c s
  | .bfstg c z h imm o => Sys2Proof.Machine.execBfstg c z h imm o s
  | .bfchn c z h imm o f => Sys2Proof.Machine.execBfchn c z h imm o f s
  | .bfstgT c z h imm o => Sys2Proof.Machine.execBfstgT c z h imm o s
  | .bfwg c z imm o => Sys2Proof.Machine.execBfwg c z imm o s
  | .zset c z imm => Sys2Proof.Machine.execZset c z imm s
  | .zget c z o => Sys2Proof.Machine.execZget c z o s
  | .accclr c a => Sys2Proof.Machine.execAccclr c a s
  | .accld c a b => Sys2Proof.Machine.execAccld c a b s
  | .epi c a b sc k j g => Sys2Proof.Machine.execEpi c a b sc k j g s
  | .accmv c a b => Sys2Proof.Machine.execAccmv c a b s
  | .accput c a b => Sys2Proof.Machine.execAccput c a b s
  | .accst c a b t => Sys2Proof.Machine.execAccst c a b t s
  | .srt c a b => Sys2Proof.Machine.execSrt c a b s
  | .bvht c a b f => Sys2Proof.Machine.execBvht c a b f s
  | .bslv c a b f => Sys2Proof.Machine.execBslv c a b f s
  | .bsadj c a b f => Sys2Proof.Machine.execBsadj c a b f s
  | .rng c d => Sys2Proof.Machine.execRng c d s
  | .rngD c d => Sys2Proof.Machine.execRngD c d s
  | .rngf c d => Sys2Proof.Machine.execRngf c d s
  | .eprst c a b => Sys2Proof.Machine.execEprst c a b s
  | .skey c a => Sys2Proof.Machine.execSkey c a s
  | .sctr c a => Sys2Proof.Machine.execSctr c a s
  | .hnew c d => Sys2Proof.Machine.execHnew c d s
  | .henter c a => Sys2Proof.Machine.execHenter c a s
  | .hleave c => Sys2Proof.Machine.execHleave c s
  | .hcf c d a => Sys2Proof.Machine.execHcf c d a s
  | .hrf c d a => Sys2Proof.Machine.execHrf c d a s
  | .hqry c d a => Sys2Proof.Machine.execHqry c d a s
  | .xacq c => Sys2Proof.Machine.execXacq c s
  | .xrel c => Sys2Proof.Machine.execXrel c s
  | .rld c d a k b => Sys2Proof.Machine.execRld c d a k b s
  | .srd c d a => Sys2Proof.Machine.execSrd c d a s
  | .swr c d a => Sys2Proof.Machine.execSwr c d a s
  | .xtry c p => Sys2Proof.Machine.execXtry c p s
  | .tret c => Sys2Proof.Machine.execTret c s
  | .sleep c a => Sys2Proof.Machine.execSleep c a s
  | .mcall c d a b => Sys2Proof.Machine.execMcall c d a b s

end Sys2Proof.Machine
end

