-- ==== Sys2Proof/Machine/Shape.lean ====
section
/-! DEFINITION. What the issue unit must know of every word before it runs, as each word's meaning gives it: its operands, the
checks of its encoding, its fret. -/

namespace Sys2Proof

open Machine in
/-- The use of a word; a line word is taken with every register it could name (11 R283). Events have none. -/
def Instr.use (k : UseCtx) : Instr → Option Use
  | .hdr _ _ _ _ p _ => some ({ c := 0, ops := [.ps p], once := true })
  | .add c d a b => some (useAbd c d a b)
  | .sub c d a b => some (useAbd c d a b)
  | .mul c d a b => some (useAbd c d a b)
  | .mulh c d a b => some (useAbd c d a b)
  | .mulhu c d a b => some (useAbd c d a b)
  | .min c d a b => some (useAbd c d a b)
  | .max c d a b => some (useAbd c d a b)
  | .minu c d a b => some (useAbd c d a b)
  | .maxu c d a b => some (useAbd c d a b)
  | .and c d a b => some (useAbd c d a b)
  | .or c d a b => some (useAbd c d a b)
  | .xor c d a b => some (useAbd c d a b)
  | .andn c d a b => some (useAbd c d a b)
  | .orn c d a b => some (useAbd c d a b)
  | .shl c d a b => some (useAbd c d a b)
  | .shr c d a b => some (useAbd c d a b)
  | .sra c d a b => some (useAbd c d a b)
  | .rotl c d a b => some (useAbd c d a b)
  | .rotr c d a b => some (useAbd c d a b)
  | .addc c d a b => some (useCarry c d a b)
  | .subb c d a b => some (useCarry c d a b)
  | .absd c d a b => some (useAbd c d a b)
  | .addi c d a _ => some (useAd c d a)
  | .andi c d a _ => some (useAd c d a)
  | .ori c d a _ => some (useAd c d a)
  | .xori c d a _ => some (useAd c d a)
  | .shli c d a _ => some (useAd c d a)
  | .shri c d a _ => some (useAd c d a)
  | .srai c d a _ => some (useAd c d a)
  | .muli c d a _ => some (useAd c d a)
  | .addD c d a b => some (useAbd2 c d a b)
  | .subD c d a b => some (useAbd2 c d a b)
  | .mulD c d a b => some (useAbd2 c d a b)
  | .mulhD c d a b => some (useAbd2 c d a b)
  | .mulhuD c d a b => some (useAbd2 c d a b)
  | .minD c d a b => some (useAbd2 c d a b)
  | .maxD c d a b => some (useAbd2 c d a b)
  | .minuD c d a b => some (useAbd2 c d a b)
  | .maxuD c d a b => some (useAbd2 c d a b)
  | .andD c d a b => some (useAbd2 c d a b)
  | .orD c d a b => some (useAbd2 c d a b)
  | .xorD c d a b => some (useAbd2 c d a b)
  | .shlD c d a b => some (useAbd2 c d a b)
  | .shrD c d a b => some (useAbd2 c d a b)
  | .sraD c d a b => some (useAbd2 c d a b)
  | .clz c d a => some (useAd c d a)
  | .ctz c d a => some (useAd c d a)
  | .popc c d a => some (useAd c d a)
  | .brev c d a => some (useAd c d a)
  | .bext c d a b => some (useAbd c d a b)
  | .bins c d a b => some (useAbd c d a b)
  | .ilv2 c d a b => some (useAbd c d a b)
  | .ilv3 c d a b => some (useAbd c d a b)
  | .dlv3 c d a b => some (useAbd c d a b)
  | .cpl c d a b => some (useAbd c d a b)
  | .bsel c d a b => some (useAbd c d a b)
  | .prmt c d a b => some (useAbd c d a b)
  | .fadd c t d a b => some (useT c t d a b)
  | .fsub c t d a b => some (useT c t d a b)
  | .fmul c t d a b => some (useT c t d a b)
  | .fmin c t d a b => some (useT c t d a b)
  | .fmax c t d a b => some (useT c t d a b)
  | .fminm c t d a b => some (useT c t d a b)
  | .fmaxm c t d a b => some (useT c t d a b)
  | .fdiv c t d a b => some (useDiv c t d a b)
  | .fma c t d a b => some (useT c t d a b)
  | .fms c t d a b => some (useT c t d a b)
  | .fnma c t d a b => some (useT c t d a b)
  | .fnms c t d a b => some (useT c t d a b)
  | .cvt c t d a f m => some (useCvt c t d a f m)
  | .rcp c t d a m => some (useSpecial c t d a m)
  | .rsq c t d a m => some (useSpecial c t d a m)
  | .sqrt c t d a m => some (useSpecial c t d a m)
  | .exp2 c t d a m => some (useSpecial c t d a m)
  | .log2 c t d a m => some (useSpecial c t d a m)
  | .sinp c t d a m => some (useSpecial c t d a m)
  | .rint c t d a m => some (useSpecial c t d a m)
  | .cmpEq c p k' t a b => some (useCmpInt c p t a b k')
  | .cmpNe c p k' t a b => some (useCmpInt c p t a b k')
  | .cmpLt c p k' t a b => some (useCmpInt c p t a b k')
  | .cmpLe c p k' t a b => some (useCmpInt c p t a b k')
  | .cmpGt c p k' t a b => some (useCmpInt c p t a b k')
  | .cmpGe c p k' t a b => some (useCmpInt c p t a b k')
  | .cmpLtu c p k' t a b => some (useCmpInt c p t a b k')
  | .cmpLeu c p k' t a b => some (useCmpInt c p t a b k')
  | .cmpGtu c p k' t a b => some (useCmpInt c p t a b k')
  | .cmpGeu c p k' t a b => some (useCmpInt c p t a b k')
  | .cmpFeq c p k' t a b => some (useCmp c p t a b k')
  | .cmpFne c p k' t a b => some (useCmp c p t a b k')
  | .cmpFlt c p k' t a b => some (useCmp c p t a b k')
  | .cmpFle c p k' t a b => some (useCmp c p t a b k')
  | .cmpFgt c p k' t a b => some (useCmp c p t a b k')
  | .cmpFge c p k' t a b => some (useCmp c p t a b k')
  | .cmpFun c p k' t a b => some (useCmp c p t a b k')
  | .cmpFord c p k' t a b => some (useCmp c p t a b k')
  | .mov c d a => some (useAd c d a)
  | .sel c n d a b => some (useSel c n d a b)
  | .lid c d => some (useD c d)
  | .gidx c d k' => some (useGidx c d k')
  | .bcast c d a => some (useAd c d a)
  | .pand c d a b => some (useP c d [a, b])
  | .por c d a b => some (useP c d [a, b])
  | .pxor c d a b => some (useP c d [a, b])
  | .pnot c d a => some (useP c d [a])
  | .vote c d a => some (useVote c d a)
  | .smovv c d a b => some (useSmovv c d a b)
  | .movpGet c d => some (useD c d)
  | .movpSet c a => some (useMovpSet c a)
  | .sadd c d a b => some (useUabd c d a b)
  | .ssub c d a b => some (useUabd c d a b)
  | .smul c d a b => some (useUabd c d a b)
  | .sand c d a b => some (useUabd c d a b)
  | .sor c d a b => some (useUabd c d a b)
  | .sxor c d a b => some (useUabd c d a b)
  | .sshl c d a b => some (useUabd c d a b)
  | .sshr c d a b => some (useUabd c d a b)
  | .ssra c d a b => some (useUabd c d a b)
  | .smin c d a b => some (useUabd c d a b)
  | .smax c d a b => some (useUabd c d a b)
  | .sminu c d a b => some (useUabd c d a b)
  | .smaxu c d a b => some (useUabd c d a b)
  | .smov c d a => some (useUad c d a)
  | .scmplt c d a b => some (useUabd c d a b)
  | .scmpeq c d a b => some (useUabd c d a b)
  | .movi c d _ => some (useD c d)
  | .movx c d _ => some (useD c d)
  | .smovi c d _ => some (useUd c d)
  | .smovx c d _ => some (useUd c d)
  | .jmp _ o => some (useBranch o [])
  | .bt sc _ o => some (useBranch o [sc])
  | .bf sc _ o => some (useBranch o [sc])
  | .bany sc _ o => some (useBranch o [sc])
  | .ball sc _ o => some (useBranch o [sc])
  | .call _ o => some ({ useBranch o [] with ops := [.ud 63] })
  | .nop => some ({ c := 0, ops := [] })
  | .exit => some ({ c := 0, ops := [] })
  | .ret => some ({ c := 0, ops := [.us 63] })
  | .brx a p => some ({ c := 0, ops := [.vs a], legal := decide (p.toNat < 64), once := true })
  | .yield => some ({ c := 0, ops := [] })
  | .trap _ => some ({ c := 0, ops := [], once := true })
  | .ient => some ({ c := 0, ops := [] })
  | .regroup a => some ({ c := 0, ops := [.vs a], once := true })
  | .bkpt _ => some ({ c := 0, ops := [], once := true })
  | .ldB c _ _ d q x => some (useLd c (.vd d) q x)
  | .ldBs c _ _ d q x => some (useLd c (.vd d) q x)
  | .ldH c _ _ d q x => some (useLd c (.vd d) q x)
  | .ldHs c _ _ d q x => some (useLd c (.vd d) q x)
  | .ldW c _ _ d q x => some (useLd c (.vd d) q x)
  | .ldD c _ _ d q x => some (useLd c (.vd2 d) q x)
  | .ldQ c _ _ d q x => some (useLd c (.vk d 4 4 true) q x)
  | .ldl c _ _ d q x => some (useLine c true d q x 96)
  | .sld c _ _ d q x => some (useSld c d q x)
  | .ldNc c _ _ d q x => some (useLd c (.vd d) q x)
  | .stB c _ _ d q x => some (useSt c (.vs d) q x (true))
  | .stH c _ _ d q x => some (useSt c (.vs d) q x (true))
  | .stW c _ _ d q x => some (useSt c (.vs d) q x (true))
  | .stD c _ _ d q x => some (useSt c (.vs2 d) q x (true))
  | .stQ c _ _ d q x => some (useSt c (.vk d 4 4 false) q x (decide (d.toNat < 96)))
  | .stl c _ _ d q x => some (useLine c false d q x 96)
  | .sst c _ _ d q x => some (useSst c d q x)
  | .atomAdd c _ o d q x => some (useAtom false k.ret 0 c o d q x)
  | .atomSub c _ o d q x => some (useAtom false k.ret 1 c o d q x)
  | .atomAnd c _ o d q x => some (useAtom false k.ret 2 c o d q x)
  | .atomOr c _ o d q x => some (useAtom false k.ret 3 c o d q x)
  | .atomXor c _ o d q x => some (useAtom false k.ret 4 c o d q x)
  | .atomMin c _ o d q x => some (useAtom false k.ret 5 c o d q x)
  | .atomMax c _ o d q x => some (useAtom false k.ret 6 c o d q x)
  | .atomUmin c _ o d q x => some (useAtom false k.ret 7 c o d q x)
  | .atomUmax c _ o d q x => some (useAtom false k.ret 8 c o d q x)
  | .atomXchg c _ o d q x => some (useAtom false k.ret 9 c o d q x)
  | .atomCas c _ o d q x => some (useAtom false k.ret 10 c o d q x)
  | .atomFadd c _ o d q x => some (useAtom false k.ret 11 c o d q x)
  | .atomFmin c _ o d q x => some (useAtom false k.ret 12 c o d q x)
  | .atomFmax c _ o d q x => some (useAtom false k.ret 13 c o d q x)
  | .atomLd c _ o d q x => some (useAtom false k.ret 14 c o d q x)
  | .atomSt c _ o d q x => some (useAtom false k.ret 15 c o d q x)
  | .atomdAdd c _ o d q x => some (useAtom true k.ret 0 c o d q x)
  | .atomdSub c _ o d q x => some (useAtom true k.ret 1 c o d q x)
  | .atomdAnd c _ o d q x => some (useAtom true k.ret 2 c o d q x)
  | .atomdOr c _ o d q x => some (useAtom true k.ret 3 c o d q x)
  | .atomdXor c _ o d q x => some (useAtom true k.ret 4 c o d q x)
  | .atomdMin c _ o d q x => some (useAtom true k.ret 5 c o d q x)
  | .atomdMax c _ o d q x => some (useAtom true k.ret 6 c o d q x)
  | .atomdUmin c _ o d q x => some (useAtom true k.ret 7 c o d q x)
  | .atomdUmax c _ o d q x => some (useAtom true k.ret 8 c o d q x)
  | .atomdXchg c _ o d q x => some (useAtom true k.ret 9 c o d q x)
  | .atomdCas c _ o d q x => some (useAtom true k.ret 10 c o d q x)
  | .atomdFadd c _ o d q x => some (useAtom true k.ret 11 c o d q x)
  | .atomdFmin c _ o d q x => some (useAtom true k.ret 12 c o d q x)
  | .atomdFmax c _ o d q x => some (useAtom true k.ret 13 c o d q x)
  | .atomdLd c _ o d q x => some (useAtom true k.ret 14 c o d q x)
  | .atomdSt c _ o d q x => some (useAtom true k.ret 15 c o d q x)
  | .shfl c d a b => some (useAbd c d a b)
  | .shflUp c d a k' => some (useShflK c d a k')
  | .shflDn c d a k' => some (useShflK c d a k')
  | .shflXor c d a k' => some (useShflK c d a k')
  | .perm c d a b => some (usePerm c d a b)
  | .scanAdd c d a => some (useAd c d a)
  | .scanAddx c d a => some (useAd c d a)
  | .rdcAdd c d a t => some (if t = 1 then useDraw k (useAd c d a) else useAd c d a)
  | .rdcMin c d a t => some ({ useAd c d a with legal := decide (t.toNat < 3) })
  | .rdcMax c d a t => some ({ useAd c d a with legal := decide (t.toNat < 3) })
  | .rbal c d a p => some (useRbal c d a p)
  | .cmpx c d a p => some (useCmpx c d a p)
  | .scanFadd c d a => some (useDraw k (useAd c d a))
  | .fence c _ f => some (useFence c f)
  | .fenceSc c _ => some ({ c := c, ops := [] })
  | .barInit c _ _ a => some (useBar c [.us a])
  | .barArrive c _ _ => some (useBar c [])
  | .barWait c _ _ => some (useBar c [])
  | .barSync c _ _ => some (useBar c [])
  | .barDrop c _ _ => some (useBar c [])
  | .msync c _ a => some ({ c := c, ops := [.vs a], orph := .once })
  | .drain c _ f => some ({ c := c, ops := [], legal := decide (f.toNat < 5), orph := .once, once := true })
  | .fwait c _ _ _ => some (useBar c [])
  | .sbarInit c _ a => some ({ useBar c [.us a] with pin := true })
  | .sbarWait c _ a p => some (useBar c (if p = 0 then [.us a] else [.us a, .pd p]))
  | .sbarArrive c _ a => some ({ useBar c [.us a] with pin := true })
  | .barTry c _ _ p => some (useBar c [.pd p])
  | .qput c n row col d => some (useQput (k.pushWide row.toNat col.toNat n.toNat) c row col d [])
  | .qget c n d => some (useQget (k.wide n.toNat) c d [])
  | .qputTry c n row col d p => some (useQput (k.pushWide row.toNat col.toNat n.toNat) c row col d [.pd p])
  | .qgetTry c n d p => some (useQget (k.wide n.toNat) c d [.pd p])
  | .qlen c _ row col d => some (useQlen c row col d)
  | .spawn c d => some (useSpawn c d [])
  | .spawnTry c d p => some (useSpawn c d [.pd p])
  | .take c d p => some (useTake c d p)
  | .steal c row col p => some (useSteal c row col p)
  | .kick c a => some (useEngine c [.us6 a])
  | .copy c a b m => some (useEngine c [.us6 a, .us6 b] (decide (m.toNat < 5)))
  | .copyT c a b m => some (useEngine c [.us6 a, .us6 b] (decide (m.toNat < 5)))
  | .gfill c a b m => some (useEngine c [.us6 a, .us6 b] (decide (m.toNat < 5)))
  | .mcast c a b m => some (useEngine c [.us6 a, .us6 b] (decide (m.toNat < 5)))
  | .rfence c => some ({ c := c, ops := [] })
  | .mres c _ sc => some ({ useEngine c [⟨.s, sc.toNat, 2, 1, false⟩] (decide (sc.toNat < 63)) with orph := .once })
  | .mrel c _ => some (useEngine c [])
  | .mmad c _ sc v _ => some ({ useEngine c [.us6 sc, .vk v 32 1 false] with own := true })
  | .mmadSp c _ sc v _ _ => some ({ useEngine c [.us6 sc, .vk v 32 1 false] with own := true })
  | .gang c sc => some (useEngine c [.us6 sc])
  | .capoTake c => some (useEngine c [])
  | .capoPass c => some (useEngine c [])
  | .mlease c sc => some (useEngine c [.us6 sc])
  | .mfree c => some (useEngine c [])
  | .bfstg c z _ imm o => some (useEngine c [.us6 imm, .us6 o, .zr z 1 false])
  | .bfchn c z _ imm o _ => some (useEngine c [.us6 imm, .us6 o, .zr z 1 false])
  | .bfstgT c z _ imm o => some (useEngine c [.us6 imm, .us6 o, .zr z 1 false])
  | .bfwg c z imm o => some (useEngine c [.us6 imm, .us6 o, .zr z 1 false])
  | .zset c z imm => some (useEngine c [.us6 imm, .zr z 1 true])
  | .zget c z o => some ({ useEngine c [.ud (o.setWidth 7), .zr z 1 false] with result := true })
  | .accclr c a => some (useEngine c [.us6 a])
  | .accld c a b => some (useEngine c [.us6 a, .us6 b])
  | .epi c a b sc _ _ g => some (useEngine c [.us6 a, .us6 b, .us6 sc] (decide (g = 1 ∨ sc = 0)))
  | .accmv c a b => some ({ useEngine c [.us6 a, .us6 b] with result := true })
  | .accput c a b => some (useEngine c [.us6 a, .us6 b])
  | .accst c a b _ => some (useEngine c [.us6 a, .us6 b])
  | .srt c a b => some (useEngine c [.us6 a, .us6 b])
  | .bvht c a b _ => some (useEngine c [.us6 a, .us6 b])
  | .bslv c a b _ => some (useEngine c [.us6 a, .us6 b])
  | .bsadj c a b _ => some (useEngine c [.us6 a, .us6 b])
  | .rng c d => some (useD c d)
  | .rngD c d => some ({ c := c, ops := [.vd2 d] })
  | .rngf c d => some (useD c d)
  | .eprst c a b => some ({ c := c, ops := [.vs a, .us (b.setWidth 7), .key], cls := .b, orph := .lanes })
  | .skey c a => some ({ c := c, ops := [.vs2 a, .key] })
  | .sctr c a => some ({ c := c, ops := [.vs2 a, .ctr] })
  | .hnew c d => some ({ c := c, ops := [.vd d], cls := .a, result := true, orph := .lanes, pin := true })
  | .henter c a => some ({ c := c, ops := [.vs a], orph := .lanes })
  | .hleave c => some ({ c := c, ops := [], orph := .lanes })
  | .hcf c d a => some ({ c := c, ops := [.vd d, .vs a], cls := .b, result := true, orph := .lanes, pin := true })
  | .hrf c d a => some ({ c := c, ops := [.vd d, .vs a], cls := .b, result := true, orph := .lanes, pin := true })
  | .hqry c d a => some ({ c := c, ops := [.vd2 d, .vs a], cls := .a, result := true, orph := .lanes })
  | .xacq c => some ({ c := c, ops := [] })
  | .xrel c => some ({ c := c, ops := [] })
  | .rld c d a _ _ => some (useRld c d a)
  | .srd c d a => some (useSrd c d a)
  | .swr c d a => some (useSwr c d a)
  | .xtry c p => some ({ c := c, ops := [.pd p] })
  | .tret c => some ({ c := c, ops := [] })
  | .sleep c a => some ({ c := c, ops := [.us a] })
  | .mcall c d a b => some ({ c := c, ops := [.ud d, .us a, .us b], orph := .free, once := true, pin := true })
  | .powerGood .. => none
  | .featureCommit => none
  | .doorbellWrite .. => none
  | .doorbellIgnoredClear .. => none
  | .mboxQuote .. => none
  | .mboxReadMr .. => none
  | .mboxExtendMr .. => none
  | .mboxCreatePartition .. => none
  | .mboxDestroyPartition .. => none
  | .mboxResetPartition .. => none
  | .mboxBiasFlip .. => none
  | .mboxRaiseRollback .. => none
  | .mboxReadEvent .. => none
  | .mgmtRegisterWrite .. => none
  | .hostMemRead .. => none
  | .hostMemWrite .. => none
  | .hostSnoop .. => none
  | .pktLaunch .. => none
  | .pktDependenceWait .. => none
  | .dependenceWaitPoll .. => none
  | .pktSetDeterminism .. => none
  | .pktSetNbv .. => none
  | .pktCommCreate .. => none
  | .pktCommRebuild .. => none
  | .pktEnergyEstimate .. => none
  | .pktSpillGrant .. => none
  | .launchComplete .. => none
  | .clusterPlace .. => none
  | .slotBind .. => none
  | .slotSave .. => none
  | .slotKill .. => none
  | .slotRelease .. => none
  | .contextSaveWrite .. => none
  | .preemptDrainTimeout .. => none
  | .groupSlotRelease .. => none
  | .tsync .. => none
  | .tsyncDone .. => none
  | .pageCopy .. => none
  | .pageCopyDone .. => none
  | .biasFlip .. => none
  | .biasFlipDone .. => none
  | .hintPost .. => none
  | .thresholdFire .. => none
  | .routeEntryWrite .. => none
  | .clockStepTakeEffect .. => none
  | .energyIntervalEnd .. => none
  | .watchdogExpire .. => none
  | .partitionReset .. => none
  | .portDown .. => none
  | .fabricRequestIn .. => none
  | .collProdWrite .. => none
  | .collAllReduce .. => none
  | .collReduce .. => none
  | .collBroadcast .. => none
  | .collNodeReceive .. => none
  | .collComplete .. => none
  | .lineDataArrive .. => none
  | .laneStorePerform .. => none
  | .homeRequest .. => none
  | .homeApplyWrite .. => none
  | .writeAck .. => none
  | .applyInvalidation .. => none
  | .sweepAnswer .. => none
  | .fenceScTicket => none
  | .patrolScrub .. => none
  | .engineCommandStart .. => none
  | .engineCommandComplete .. => none
  | .copyTakeup .. => none
  | .stageDelivery .. => none
  | .translationWalk .. => none
  | .operandLogReplay .. => none
  | .rldFill .. => none
  | .trapDeliver .. => none
  | .lateFault .. => none
  | .queuePushArrive .. => none
  | .queueRunVisible .. => none
  | .stealTimeout .. => none
  | .taskDelivery .. => none
  | .leaseGrant .. => none
  | .leaseExpire .. => none
  | .gangLatchClose .. => none
  | .matrixTakeup .. => none
  | .matrixComplete .. => none
  | .accTakeup .. => none
  | .accComplete .. => none
  | .chainStop .. => none
  | .chainCopy .. => none
  | .chainGatherFill .. => none
  | .chainMulticast .. => none
  | .chainMaskWalk .. => none
  | .chainLoop .. => none
  | .chainConditional .. => none
  | .chainSignal .. => none
  | .chainDone .. => none
  | .regroupComplete .. => none
  | .sleepExpire .. => none
  | .hypRequestTakeup .. => none
  | .hypCommit .. => none
  | .hypResolutionComplete .. => none
  | .hypSliceWorkDone .. => none
  | .rateWindowEnd .. => none
  | .partitionResetComplete .. => none
  | .rootWriteBatchSend .. => none

end Sys2Proof
end

