-- ==== Sys2Proof/Machine/Issue.lean ====
section
/-! DEFINITION. Issue: the chain at a group's current entry is fetched, checked (09 R226 to R228, R242, R243) and performed word
by word; the agents that can move; the choice among them. -/

namespace Sys2Proof.Machine

/-! ## Chains (09 R226 to R228) -/

/-- The pipes (09 R227). -/
inductive Pipe where
  | vx
  | sf
  | xl
  | mem
  | un
  | mx
  deriving DecidableEq, Repr

/-- The pipe of a word by its major and, for MOV and IMM, its function (09 R227, R240). -/
def pipeOf (w : Word) : Option Pipe :=
  let fn := (w.extractLsb' 21 5).toNat
  match (w.extractLsb' 26 5).toNat with
  | 0 | 10 | 12 | 13 | 19 | 27 | 28 | 29 => some .un
  | 1 | 2 | 3 | 4 | 5 | 6 | 8 | 26 => some .vx
  | 7 => some .sf
  | 9 => if fn = 15 ∨ fn = 16 then some .un else some .vx
  | 11 => if (w.extractLsb' 24 2).toNat ≤ 1 then some .vx else some .un
  | 14 | 15 | 16 | 17 | 20 | 21 => some .mem
  | 18 => some .xl
  | 22 | 23 | 24 | 25 => some .mx
  | _ => none

/-- BR or CTL (09 R240). -/
def isControl (w : Word) : Bool := w.extractLsb' 26 5 = 12 || w.extractLsb' 26 5 = 13

/-- Whether the elements of a list are pairwise different. -/
def distinct {α : Type} [DecidableEq α] : List α → Bool
  | [] => true
  | a :: t => !t.contains a && distinct t

/-- What the fetch of a chain finds: its words, a trap's CLASS, CAUSE and address, or that it is held; the state with what the fetch has set
under way. -/
inductive Fetched where
  | words (ws : List Word)
  | fault (cls cause va : Nat) (s : State)
  | held (s : State)

/-- The table lines that a walk of an address reads. -/
def State.tableLines (s : State) (part va : Nat) : List Nat :=
  match s.part? part with
  | none => []
  | some p => s.walkLines va 4 p.root

/-- The fetch of an address walks the tables at their homes (log entry 108): one in host bias is flipped first; a fault is first posted to
Chihoat, which installs entries, or declines (06 R162 to R164, R177). None: the word can be read. -/
def State.fetchStop (s : State) (die part pc : Nat) : Option Fetched :=
  let lines := s.tableLines part pc
  if lines.any fun l => s.isFlipping (128 * l) then some (.held s)
  else match lines.find? fun l => s.hostBias (128 * l) with
    | some l => some (.held (s.startFlip (128 * l) false))
    | none =>
      match s.walk part pc with
      | .fault c =>
        let s1 := { s with choices := s.choices + 1 }
        match Config.chihoat s.choices with
        | some es => some (.held (if s.homesOpen die then s1.installEntries die es else s.postOnce (.rootWriteBatchSend die)))
        | none => some (.fault 3 c pc s1)
      | .leaf e b _ =>
        let pa := leafAddr e b pc
        if !pteBit e 61 then some (.fault 4 2 pc s)
        else if s.isFlipping pa then some (.held s)
        else match s.forwarding pa (pteOwner e) with
          | .open_ => none
          | .refused => some (.fault 4 0 pc s)
          | .broken => some (.fault 12 0 pc s)

/-- The words from `pc` up to the first with C = 0, at most `n` (09 R228). -/
def State.fetchWords (s : State) (die part : Nat) : (n pc : Nat) → Fetched
  | 0, _ => .words []
  | n + 1, pc =>
    match s.fetchStop die part pc, s.codeWord part pc with
    | some f, _ => f
    | none, none => .fault 3 2 pc s
    | none, some w =>
      if w.getLsbD 31 = false then .words [w]
      else match State.fetchWords s die part n (pc + 4) with
        | .words ws => .words (w :: ws)
        | f => f

/-- The chain at an address: it lies within its packet (09 R226, R228). -/
def State.fetchChain (s : State) (die part pc : Nat) : Fetched := s.fetchWords die part (3 - pc % 12 / 4) pc

/-- The last word of a chain. -/
def lastWord : List Word → Word
  | [] => 0
  | [w] => w
  | _ :: t => lastWord t

/-- The destinations that the words of a chain name, each word's once (07 R185). -/
def chainDests (k : UseCtx) (is : List Instr) : List (RegKind × Nat) :=
  is.flatMap fun i => match i.use k with
    | none => []
    | some u => u.dests.eraseDups

/-- The rules of 09 R228 for a chain of two words or more; a single word has C = 0. -/
def chainOk (k : UseCtx) (ws : List Word) (is : List Instr) : Bool :=
  !(lastWord ws).getLsbD 31 && (ws.length ≤ 1 ||
    (distinct (ws.map pipeOf) && ws.all (fun w => !isHeader w) && ws.dropLast.all (fun w => !isControl w) &&
      distinct (chainDests k is)))

noncomputable section

/-- The instructions of a chain; none when a word is no word of the table (09 R242). -/
def decodeAll : List Word → Option (List Instr)
  | [] => some []
  | w :: t =>
    match decodeWord w, decodeAll t with
    | .ok i, some is => some (i :: is)
    | _, _ => none

/-! ## Performing a chain (07 R185, 09 R243, 15 R407) -/

/-- A trap found in a chain: the stage of 09 R243 at which it is found, and the trap. -/
abbrev Stop := Nat × Trap

/-- The lane of a trap in an environment: the lowest active lane unless it names one. -/
def Trap.laneIn (t : Trap) (m : Lanes) : Nat := t.lane.getD (lowestLane m)

/-- Of two traps found in a chain, the one that is raised: the earlier check, then the lower lane, then the earlier word. -/
def firstStop (m : Lanes) (a b : Stop) : Stop :=
  if b.1 < a.1 then b
  else if a.1 = b.1 ∧ a.1 = 3 ∧ b.2.laneIn m < a.2.laneIn m then b
  else a

/-- How the words of a chain ended: all performed, one waits (its index), lanes of one wait, or a trap. -/
structure ChainEnd where
  s : State
  waits : Option Nat
  left : Lanes
  stop : Option Stop
  other : Option (Host.Outcome State Fault Refusal)

/-- A chain whose words are to be performed. -/
def ChainEnd.start (s : State) : ChainEnd := ⟨s, none, 0, none, none⟩

/-- Whether every word of a chain has been performed. -/
def ChainEnd.whole (c : ChainEnd) : Bool := c.waits.isNone && c.left = 0 && c.stop.isNone && c.other.isNone

/-- Performs the words of a chain in order. A word that stops or waits leaves the state as it was, so that every later word is
still checked. -/
def runWords (m : Lanes) : List Instr → Nat → ChainEnd → ChainEnd
  | [], _, c => c
  | i :: t, k, c =>
    match exec i { c.s with ofs := k, note := .performed } with
    | .next s' =>
      match s'.note with
      | .performed => runWords m t (k + 1) { c with s := s' }
      | .waits => runWords m t (k + 1) { c with waits := some (c.waits.getD k) }
      | .partly l => runWords m t (k + 1) { c with left := c.left ||| l }
      | .stops st t' => runWords m t (k + 1) { c with stop := some (match c.stop with
          | none => (st, t')
          | some x => firstStop m x (st, t')) }
    | o => { c with other := some o }

/-- The end of a chain's issue: the next issue reads the machine as it is. -/
def State.endChain (s : State) : State := { s with snap := none, limit := none, ofs := 0 }

/-- A chain stops at a trap: below its lane every word is completed, at and above it none (15 R407). Where a word below the lane has still
to wait, none is completed (log entry 107). -/
def stopChain (v : Env) (ws : List Word) (is : List Instr) (t : Trap) (s0 : State) : State :=
  let below := v.em &&& lanesBelow (t.laneIn v.em)
  let c := runWords v.em is 0 (.start { s0 with limit := some below })
  let ran := below ≠ 0 ∧ c.whole
  let s1 := if ran then c.s else s0
  let done := if t.cls ≥ 16 then v.em else if ran then below else 0
  { s1.endChain.takeTrap v.r t ⟨v.entry s1, v.em, done, v.pc, v.pc + 4 * ws.length, false, none⟩ with note := .performed }

/-- Lanes of a word wait: for the lanes below every word of the chain is performed, and the chain goes on with the others (05 R138, 11 R310,
R314). -/
def partChain (v : Env) (is : List Instr) (left : Lanes) (s0 : State) : State :=
  let done := v.em &&& ~~~left
  let c := runWords v.em is 0 (.start { s0 with limit := some done })
  if done = 0 ∨ !c.whole then { s0.endChain with note := .waits }
  else
    let f := fun e : FEntry => if e.pc = v.e.pc then { e with redo := some left } else e
    { c.s.endChain.modGroup v.r fun x =>
        { x with frontier := x.frontier.map f, handler := x.handler.map fun h => { h with entry := f h.entry } } with note := .waits }

/-- A word of a chain has only to wait for the words before it: those are performed, and the rest follows from where it stands, reading what
the chain read at its issue (07 R185, R196, R198). -/
def passTo (v : Env) (k : Nat) (s : State) : State :=
  let f := fun e : FEntry => if e.pc = v.e.pc then { e with pc := e.pc + BitVec.ofNat 56 (4 * k), due := false, tail := true } else e
  let s1 := s.endChain.modGroup v.r fun x =>
    { x with frontier := x.frontier.map f, handler := x.handler.map fun h => { h with entry := f h.entry } }
  { s1.modCore v.r.core fun c => { c with tails := c.tails.set none (32 * v.r.slot + v.r.grp) (some ⟨v.pc + 4 * k, v.team⟩) } with note := .waits }

/-- Whether a word waits at `regroup`, which every word of its chain precedes (07 R198). -/
def isRegroup : Instr → Bool
  | .regroup _ => true
  | _ => false

/-- A word of a chain waits: by itself, and with it the whole chain, or only for the words before it. -/
def waitChain (v : Env) (ws : List Word) (is : List Instr) (k : Nat) (stop : Option Stop) (s0 : State) : Host.Outcome State Fault Refusal :=
  match exec (is.getD k .nop) { s0 with ofs := k, note := .performed } with
  | .next s' =>
    if k = 0 ∨ (s'.note = .waits ∧ !isRegroup (is.getD k .nop)) then .next { s'.endChain with note := .waits }
    else match stop with
      | some (_, t) => .next (stopChain v ws is t s0)
      | none => .next (passTo v k (runWords v.em (is.take k) 0 (.start s0)).s)
  | o => o

/-- Performs the words of a chain, which read from the team that `s0` holds for them. -/
def runChain (v : Env) (ws : List Word) (is : List Instr) (s0 : State) : Host.Outcome State Fault Refusal :=
  let c := runWords v.em is 0 (.start s0)
  match c.other, c.stop, c.waits with
  | some o, _, _ => o
  | none, some (st, t), none =>
    if st = 3 ∧ c.left ≠ 0 ∧ lowestLane c.left ≤ t.laneIn v.em then .next (partChain v is c.left s0) else .next (stopChain v ws is t s0)
  | none, none, none => if c.left ≠ 0 then .next (partChain v is c.left s0) else .next (c.s.endChain.dropTail v.r)
  | none, some (st, t), some k => if st < 3 then .next (stopChain v ws is t s0) else waitChain v ws is k c.stop s0
  | none, none, some k => waitChain v ws is k none s0

/-! ## One issue of a group -/

/-- What the operands of a group's words depend on. -/
def State.useCtx (s : State) (v : Env) : UseCtx := ⟨s.clauseFret v .a ≠ 15, fun n => s.ownWide v.r n, s.placeWide v.r,
  (v.team.bind.mode.extractLsb' 0 3) = 5⟩

/-- The trap of a chain that is refused as a whole: it names the first word, and the lowest lane of the execution mask (09
R228, R242). -/
def refuseChain (v : Env) (t : Trap) (n : Nat) (s : State) : State :=
  { s.takeTrap v.r t ⟨v.e, v.em, 0, v.pc, v.pc + 4 * n, false, none⟩ with note := .performed }

/-- The CAUSE of a refused chain: an entry that must meet a header and does not says so (09 R239, R243, log entry 109). -/
def refusedCause (v : Env) (ws : List Word) : Nat := if v.e.due && !(ws.head?.any isHeader) then 1 else 0

/-- The state in which a group's word issues. -/
def State.issuing (s : State) (g : GroupRef) : State := { s with cur := g, snap := none, limit := none, ofs := 0 }

/-- A group as the words of a chain read it that follow later: as the chain read it, but where it stands now. -/
def Group.asRead (old x : Group) : Group :=
  { old with frontier := x.frontier, aside := x.aside, handler := x.handler, lcur := x.lcur, exited := x.exited }

/-- The team from which the words of a chain read: as it stands at their issue, or stood at the issue of the words before them (07 R185). -/
def State.chainTeam (s : State) (v : Env) : Team :=
  match (s.core v.r.core).tails.get none (32 * v.r.slot + v.r.grp) with
  | none => v.team
  | some t => if v.e.tail ∧ t.pc = v.pc then t.team.modGroup v.r.grp fun old => old.asRead v.grp else v.team

/-- A group issues the chain at its current entry. -/
def issueChain (g : GroupRef) (s : State) : Host.Outcome State Fault Refusal :=
  let s0 := s.issuing g
  match s0.env with
  | none => .fault .noGroup
  | some v =>
    match s0.fetchChain (dieOf g.core) v.part v.pc with
    | .held s1 => .next { s1 with note := .waits }
    | .fault cls c va s1 => .next (refuseChain v ⟨cls, c, none, va, 0, false, 0⟩ 1 s1)
    | .words ws =>
      let bad := refuseChain v (.atIssue 0 (refusedCause v ws)) ws.length s0
      match decodeAll ws with
      | none => .next bad
      | some is =>
        if !chainOk (s0.useCtx v) ws is then .next bad
        else match is, v.e.tail with
          | [i], false => exec i s0
          | _, _ => runChain v ws is { s0 with snap := some (s0.chainTeam v) }

/-! ## Who moves (07 R186, R200) -/

/-- Whether a group issues in a step: it has a current entry, its team is resident, and nothing but its word holds it. -/
def Group.mayIssue (x : Group) : Bool :=
  !x.released && x.current.isSome &&
    match x.wait with
    | .none | .push | .barSync _ | .capo => true
    | .sleep _ | .regroup | .rollback => false

/-- Whether a team's groups issue (15 R412, R413). -/
def Team.mayIssue (t : Team) : Bool :=
  match t.save with
  | .none | .draining => true
  | .saving | .saved | .again => false

/-- The groups of a core that may issue. -/
def Core.ready (k : Core) (c : Nat) : List (GroupRef × Group) :=
  k.teams.flatMap fun st => match st.2 with
    | none => []
    | some t =>
      if t.mayIssue then
        t.groups.filterMap fun gx => match gx.2 with
          | none => none
          | some x => if x.mayIssue then some (⟨c, st.1, gx.1⟩, x) else none
      else []

/-- The place of a group among those of its core that have waited as long: lower string, then lower group slot (14 R394). -/
def Core.slotOrder (k : Core) (r : GroupRef) : Nat := 2 * ((((k.team? r.slot).map fun t => t.bind.strAt (r.grp / 2)).getD 0)) + r.grp % 2

/-- Whether group `a` comes before group `b` among those that have waited for 4,096 cycles: the longest-waiting first (14 R394). -/
def Core.agedBefore (k : Core) (a b : GroupRef × Group) : Bool :=
  decide (a.2.lastIssue < b.2.lastIssue) || (a.2.lastIssue = b.2.lastIssue && decide (k.slotOrder a.1 < k.slotOrder b.1))

/-- The first of a list of groups in that order. -/
def Core.firstAged (k : Core) : List (GroupRef × Group) → Option (GroupRef × Group)
  | [] => none
  | a :: t => match k.firstAged t with
    | none => some a
    | some b => if k.agedBefore a b then some a else some b

/-- The groups of a core of which one issues next: a group that has not issued while the core's two slots were filled 4,096 times goes before
all others; of these, any may (07 R200, 14 R394, log entry 114). -/
def Core.issuers (k : Core) (c : Nat) : List Agent :=
  let gs := k.ready c
  match k.firstAged (gs.filter fun gx => decide (gx.2.lastIssue + 8192 ≤ k.served)) with
  | some gx => [.group gx.1]
  | none => gs.map fun gx => .group gx.1

/-- Every agent that can move: the pending events, what comes from outside, and the groups that may issue. -/
def State.movers (s : State) : List Agent :=
  (List.range s.pending.length).map .event ++ (List.range s.outside.length).map .outside ++ s.cores.flatMap fun c => c.2.issuers c.1

/-- The agent that moves: the one that is settled, the only one that can, or a free choice (04 R131). -/
def State.mover (s : State) : Option Agent :=
  match s.turn with
  | some a => some a
  | none =>
    match s.movers with
    | [] => none
    | [a] => some a
    | as => as[Config.choice s.choices % as.length]?

/-- A group has its turn at an issue slot of its core (07 R186, R200). -/
def State.serve1 (s : State) (g : GroupRef) : State :=
  (s.modCore g.core fun k => { k with served := k.served + 1 }).modGroup g fun x => { x with lastIssue := (s.core g.core).served }

/-- The state in which the chosen agent moves: the choice is counted, a group's turn too, an event leaves the pending ones. -/
def State.moving (s : State) (a : Agent) : State :=
  let s1 : State := { s with turn := none, choices := if s.turn.isNone ∧ 1 < s.movers.length then s.choices + 1 else s.choices }
  match a with
  | .group g => s1.serve1 g
  | .event i => { s1 with pending := s1.pending.eraseIdx i, snap := none, limit := none, ofs := 0 }
  | .outside _ => { s1 with snap := none, limit := none, ofs := 0 }

/-- An agent moves. -/
def move (a : Agent) (s : State) : Host.Outcome State Fault Refusal :=
  match a with
  | .group g => issueChain g (s.moving a)
  | .event i =>
    match s.pending[i]? with
    | none => .next (s.moving a)
    | some e => exec e (s.moving a)
  | .outside i => arrival i (s.moving a)

/-- The clock advances (log entry 3). -/
def tick : Host.Outcome State Fault Refusal → Host.Outcome State Fault Refusal
  | .next s => .next { s with cycle := s.cycle + 1 }
  | o => o

end

end Sys2Proof.Machine
end

