-- ==== Sys2Proof/Machine/Place.lean ====
section
/-! DEFINITION. A program of one packet in a bound team of one group: what stands for a load from outside (log entry 1). -/

namespace Sys2Proof.Machine

/-- The virtual and physical address of the packet: a multiple of 384 (09 R226). -/
def placeEntry : Nat := 0x300000

/-- A packet whose first word is a header that sets both frets, 0 and 1; a header of its own stands first. -/
def placePacket (w : Nat) : Nat :=
  let hdr := 1 * 2 ^ 6
  let nop := 0x34000000
  if w / 2 ^ 26 % 32 = 0 then w + nop * 2 ^ 32 + nop * 2 ^ 64 else hdr + w * 2 ^ 32 + nop * 2 ^ 64

/-- Where the word stands in the packet. -/
def placeOffset (w : Nat) : Nat := if w / 2 ^ 26 % 32 = 0 then 0 else 4

/-- A partition with nothing but a page table (21 R460). -/
def placePart : Part :=
  { units := [0], l2ways := 0xFFFF, llcways := 0xFFFF, shed := false, policyB := false, hbmBase := 0, hbmSize := 0,
    root := 0x10000, budget := 0, interval := 0, wdog := 0, lqBase := 0, lqn := 0, queues := [], hyp := [(0, HypEntry.root)],
    reqs := [], resolving := none, completing := [], extents := [], orphans := 0, next := 0,
    committed := 0, order := [], seen := [], clock := 25, clockNext := none, resetting := false,
    capWaits := none }

/-- A bind record of one group with the whole scratchpad and every task and queue register zero (14 R389). -/
def placeBind : BindRec :=
  { team := 0, launch := 0, part := 0, ngm1 := 0, entry := placeEntry, spsize := 2 ^ 20, spbase := 0, arows := 512, abase := 0,
    obsize := 0, obbase := 0, ten := false, tcap := 0, toff := 0, qen := 0, qimg := 0, str := 0, bres := 0, lanesm1 := 31,
    mj := 0, mi := 0, clidx := 0, stealto := 0, mode := 0, seed := 0, img := 0, epri := 63, imglen := 0, arg0 := 0, arg1 := 0 }

/-- A group at bind with its entry at the word (07 R187, R194). -/
def placeGroup (w : Nat) : Group :=
  { v := [], s := [], p := [], q := [], z := [], frets := [], res := [], lcur := 32, trapv := 0, idem := 0, status := 0,
    gang := 0, hyp := [], key := [], ctr := [], idemKey := [], idemCtr := [], lid := [],
    frontier := [{ pc := BitVec.ofNat 56 (placeEntry + placeOffset w), mask := BitVec.allOnes 32, gmask := 0, pri := 63,
                   deferred := false, redo := none, kept := none, due := false }]
    aside := [], handler := none, log := [], nextLog := 0, exited := 0, wait := .none, sweep := none, loadSweep := false,
    drainAt := none, fences := [], resBad := [], stageWait := none, ticket := 0, steal := none, push := none, hypWords := [], lineRegs := [], readRegs := [], perms := [], latches := [], retired := 0, rate := 0, total := 0,
    lastIssue := 0, psnLines := [], noFlush := false, released := false }

/-- A team of that group. -/
def placeTeam (w : Nat) : Team :=
  { bind := placeBind, groups := [(0, some (placeGroup w))], ext := [], tcount := 0, save := .none, ctx := 0, shapeR := 1,
    shapeC := 1, die := 0, orow := 0, ocol := 0, regroupKeys := [], idemKernel := false, held := [],
    drainEnd := 0 }

/-- The page-table entries: a pointer at level 0 to a table whose first entry is a leaf of 64 GiB at 0 with every permission (06
R160), and the packet. -/
def placeMemory (m : Mem) (w : Nat) : Mem :=
  let leaf := 2 ^ 63 + 2 ^ 62 + 2 ^ 61 + 2 ^ 60 + 2 ^ 59
  ((m.write 8 0x10000 (2 ^ 63 + 0x20000)).write 8 0x20000 leaf).write 12 placeEntry (placePacket w)

/-- The state in which that program is loaded and its group moves next. -/
def State.placeWord (s : State) (w : Nat) : State :=
  { s with
    cores := s.cores.set Core.reset 0 { s.core 0 with teams := (s.core 0).teams.set none 0 (some (placeTeam w)) }
    parts := s.parts.set none 0 (some placePart)
    hbm := placeMemory s.hbm w
    turn := some (.group ⟨0, 0, 0⟩) }

end Sys2Proof.Machine
end

