-- ==== Sys2Proof/Machine/Step.lean ====
section
/-! DEFINITION. One step of the machine, and the state in which a given word is the next one to run. -/

namespace Sys2Proof.Machine

noncomputable section

/-- One step: an agent moves and the clock advances; with nothing to do only the clock advances. -/
def step (s : State) : Host.Outcome State Fault Refusal :=
  tick (match s.mover with
    | none => .next s
    | some a => move a s)

end

/-- The state with a word of value `w` where the next step fetches: a program of one packet in a team of one group is loaded
(`placeWord`, log entry 1). -/
def State.withFetchWord (s : State) (nbits w : Nat) : State := s.placeWord (w % 2 ^ nbits)

end Sys2Proof.Machine
end

