-- ==== Sys2Proof/Safety.lean ====
section
/-! DEFINITION. The terms that statements about the machine use: the registers of a group, a word that issues undisturbed, what a
word leaves unchanged. -/

namespace Sys2Proof.Machine

/-! ## What software reads -/

/-- Lane l of vector register n of a group; zero of a group that is not bound. -/
def State.vreg (s : State) (r : GroupRef) (n l : Nat) : Word :=
  match s.team? r with
  | none => 0
  | some t => t.vget r.grp n l

/-- Uniform register n of a group. -/
def State.sreg (s : State) (r : GroupRef) (n : Nat) : DWord :=
  match s.group? r with
  | none => 0
  | some x => x.sget n

/-- Predicate n of a group, one bit a lane. -/
def State.preg (s : State) (r : GroupRef) (n : Nat) : Lanes :=
  match s.group? r with
  | none => 0
  | some x => x.pget n

/-- STATUS of a group (10 R275). -/
def State.statusReg (s : State) (r : GroupRef) : DWord := ((s.group? r).map (·.status)).getD 0

/-- KEY of a lane of a group (08 R217). -/
def State.keyReg (s : State) (r : GroupRef) (l : Nat) : DWord := ((s.group? r).map fun x => x.keyOf l).getD 0

/-- CTR of a lane of a group (08 R217). -/
def State.ctrReg (s : State) (r : GroupRef) (l : Nat) : DWord := ((s.group? r).map fun x => x.ctrOf l).getD 0

/-! ## A word that issues (07 R189, R195, 09 R232, R243) -/

/-- A word issues undisturbed: every check passes, a lane is active, its fret has room, no register it names is awaited or poisoned,
and no active lane that counts is an orphan. -/
structure Issues (u : Use) (s : State) (v : Env) : Prop where
  env : s.env = some v
  checks : issueTrap u v s = none
  active : v.em ≠ 0
  fret : fretFull u v s = false
  ready : u.interlocked v.grp = false
  clean : u.poisonedLane v = none
  live : orphanLane u v s = none

/-- The state in which an issuing word takes effect: lanes follow a confirmed hypothesis first (05 R139). -/
def followed (u : Use) (v : Env) (s : State) : State := if u.orph = .free then s else s.followLanes v.r v.part v.em

/-- The group is there, and its next entry has room in the frontier (07 R190): eight entries with the waiting ones. -/
structure Room (s : State) (v : Env) : Prop where
  limit : s.limit = none
  group : ∃ y, s.group? v.r = some y ∧ (dropEntry y.frontier v.e).length + y.aside.length < 8

/-! ## What stays -/

/-- Every part of the module outside one core is the same. -/
structure SameModule (s t : State) : Prop where
  dies : t.dies = s.dies
  parts : t.parts = s.parts
  launches : t.launches = s.launches
  comms : t.comms = s.comms
  hbm : t.hbm = s.hbm
  hbmPsn : t.hbmPsn = s.hbmPsn
  hostMem : t.hostMem = s.hostMem
  remote : t.remote = s.remote
  llc : t.llc = s.llc
  versions : t.versions = s.versions
  applied : t.applied = s.applied
  modl : t.modl = s.modl
  health : t.health = s.health
  outside : t.outside = s.outside
  pending : t.pending = s.pending
  turn : t.turn = s.turn
  cycle : t.cycle = s.cycle
  choices : t.choices = s.choices

/-- Lanes of the registers of its pair's block are no longer poisoned for a group, and nothing else of it has changed (02 R73). -/
structure Group.Cleaner (x y : Group) : Prop where
  same : y = { x with psnLines := y.psnLines }
  poison : ∀ k ∈ y.psnLines, k ∈ x.psnLines
  own : ∀ k ∈ x.psnLines, k / 32 < 32 → k ∈ y.psnLines

/-- Everything outside one group and its extended block is the same: the module, every other core, every memory and table of the
core, every other team, the team's other fields, every other group; for the other group of its pair, poison of the block may be gone. -/
structure SameOutside (r : GroupRef) (s t : State) : Prop where
  modl : SameModule s t
  cores : ∀ c, c ≠ r.core → t.core c = s.core c
  core : { t.core r.core with teams := [] } = { s.core r.core with teams := [] }
  teams : ∀ n, n ≠ r.slot → (t.core r.core).team? n = (s.core r.core).team? n
  team : (t.team? r).map (fun x => { x with groups := [], ext := [] }) = (s.team? r).map fun x => { x with groups := [], ext := [] }
  groups : ∀ g, g ≠ r.grp → g ≠ partnerOf r.grp → (t.team? r).bind (fun x => x.group? g) = (s.team? r).bind fun x => x.group? g
  partner : ∃ f : Group → Group, (∀ x : Group, x.Cleaner (f x)) ∧
    (t.team? r).bind (fun x => x.group? (partnerOf r.grp)) = ((s.team? r).bind fun x => x.group? (partnerOf r.grp)).map f

/-- A group as the end of a word leaves it: its entries, its cursor and its counts of retired words aside, nothing changes (07 R190, 14
R393, 15 R412). -/
def Group.sameRegs (x y : Group) : Prop :=
  y = { x with frontier := y.frontier, handler := y.handler, lcur := y.lcur, retired := y.retired, total := y.total,
               noFlush := y.noFlush }

/-! ## What a word writes -/

/-- The registers of a group that a word writes, with their new values: vector registers by register and lane, uniform registers,
predicates by register and lane, STATUS bits that are set, KEY and CTR by lane. What it does not name is unchanged. -/
structure Writes where
  v : Nat → Nat → Option Word := fun _ _ => none
  s : Nat → Option DWord := fun _ => none
  p : Nat → Nat → Option Bool := fun _ _ => none
  status : DWord := 0
  key : Nat → Option DWord := fun _ => none
  ctr : Nat → Option DWord := fun _ => none

/-- A group without what `Writes` speaks of and without its entries, its cursor and its counts of retired words; the poison of its
registers goes with their values (02 R73). -/
def Group.rest (x : Group) : Group :=
  { x with frontier := [], handler := none, lcur := 0, retired := 0, total := 0, noFlush := false, v := [], s := [], p := [],
           status := 0, key := [], ctr := [], psnLines := [] }

/-- A word is done: the registers that it writes have their new values, and everything else of the machine but the group's entries, its
cursor and its counts of retired words is as it was. -/
structure Wrote (r : GroupRef) (w : Writes) (s t : State) : Prop where
  done : t.note = .performed
  vreg : ∀ n l, l < 32 → t.vreg r n l = (w.v n l).getD (s.vreg r n l)
  sreg : ∀ n, t.sreg r n = (w.s n).getD (s.sreg r n)
  preg : ∀ n l, l < 32 → (t.preg r n).getLsbD l = (w.p n l).getD ((s.preg r n).getLsbD l)
  status : t.statusReg r = s.statusReg r ||| w.status
  key : ∀ l, l < 32 → t.keyReg r l = (w.key l).getD (s.keyReg r l)
  ctr : ∀ l, l < 32 → t.ctrReg r l = (w.ctr l).getD (s.ctrReg r l)
  group : (t.group? r).map Group.rest = (s.group? r).map Group.rest
  blocks : ∀ k, k ≠ r.grp / 2 → ((t.team? r).map fun x => x.ext.get ⟨[], none, none⟩ k) = (s.team? r).map fun x => x.ext.get ⟨[], none, none⟩ k
  locks : ∀ k, ((t.team? r).map fun x => { x.ext.get ⟨[], none, none⟩ k with v := [] }) =
    (s.team? r).map fun x => { x.ext.get ⟨[], none, none⟩ k with v := [] }
  outside : SameOutside r s t

/-- An instruction whose use is `u` completes and writes `w` wherever it issues undisturbed, its group has room for its next entry, and
`ok` holds. -/
def Completes (i : Instr) (u : Use) (ok : Env → State → Prop) (w : Env → State → Writes) : Prop :=
  ∀ s v, Issues u s v → Room s v → ok v (followed u v s) →
    ∃ t, exec i s = .next t ∧ Wrote v.r (w v (followed u v s)) (followed u v s) t

/-- Nothing more is asked. -/
def always (_ : Env) (_ : State) : Prop := True

/-- One vector register in the active lanes (07 R189, R195). -/
def Writes.lanes (m : Lanes) (d : BitVec 7) (f : Nat → Word) : Writes :=
  { v := fun n l => if n = d.toNat ∧ m.getLsbD l then some (f l) else none }

/-- A pair in the active lanes, its low word in the first register (10 R249). -/
def Writes.pair (m : Lanes) (d : BitVec 7) (f : Nat → DWord) : Writes :=
  { v := fun n l =>
      if m.getLsbD l = false then none
      else if n = d.toNat then some ((f l).extractLsb' 0 32)
      else if n = d.toNat + 1 then some ((f l).extractLsb' 32 32)
      else none }

/-- k registers from d in the active lanes, register d + n with `f n`. -/
def Writes.block (d k : Nat) (m : Lanes) (f : Nat → Nat → Word) : Writes :=
  { v := fun n l => if m.getLsbD l ∧ d ≤ n ∧ n < d + k then some (f (n - d) l) else none }

/-- One predicate in the active lanes; p0 is not written (07 R194). -/
def Writes.pred (m : Lanes) (d : BitVec 3) (f : Nat → Bool) : Writes :=
  { p := fun n l => if n = d.toNat ∧ n ≠ 0 ∧ m.getLsbD l then some (f l) else none }

/-- What the lanes of a word give: registers, predicates, flags and draws (08 R216 to R218). -/
def Writes.ofLanes (m : Lanes) (x : Nat → DWord) (out : Nat → LaneOut) : Writes :=
  { v := fun n l => if m.getLsbD l then ((out l).regs.find? fun r => r.1 = n).map (·.2) else none
    p := fun n l => if n ≠ 0 ∧ m.getLsbD l then ((out l).preds.find? fun r => r.1 = n).map (·.2) else none
    status := (lanesOf m).foldl (fun st l => st ||| (out l).flags.bits) 0
    ctr := fun l => if m.getLsbD l then some (x l + BitVec.ofNat 64 (out l).draws) else none }

/-- One uniform register; s0 is not written (07 R194). -/
def Writes.uni (d : BitVec 7) (x : DWord) : Writes := { s := fun n => if n = d.toNat ∧ n ≠ 0 then some x else none }

/-! ## The arithmetic of the specification, on exact integers (10 R251, R254, R266) -/

/-- The integer operations of R251. -/
inductive IntOp where
  | add
  | sub
  | mul
  | mulh
  | mulhu
  | min
  | max
  | minu
  | maxu
  | and
  | or
  | xor
  | andn
  | orn
  | shl
  | shr
  | sra
  | rotl
  | rotr
  | absd
  deriving DecidableEq, Repr

/-- What an operation gives of two w-bit values: computed exactly, then taken modulo 2^w. A count is taken modulo w. -/
def IntOp.value (o : IntOp) {w : Nat} (a b : BitVec w) : BitVec w :=
  let k := b.toNat % w
  match o with
  | .add => BitVec.ofInt w (a.toInt + b.toInt)
  | .sub => BitVec.ofInt w (a.toInt - b.toInt)
  | .mul => BitVec.ofInt w (a.toInt * b.toInt)
  | .mulh => BitVec.ofInt w (a.toInt * b.toInt / 2 ^ w)
  | .mulhu => BitVec.ofNat w (a.toNat * b.toNat / 2 ^ w)
  | .min => if a.toInt ≤ b.toInt then a else b
  | .max => if a.toInt ≤ b.toInt then b else a
  | .minu => if a.toNat ≤ b.toNat then a else b
  | .maxu => if a.toNat ≤ b.toNat then b else a
  | .and => a &&& b
  | .or => a ||| b
  | .xor => a ^^^ b
  | .andn => a &&& ~~~b
  | .orn => a ||| ~~~b
  | .shl => BitVec.ofNat w (a.toNat * 2 ^ k)
  | .shr => BitVec.ofNat w (a.toNat / 2 ^ k)
  | .sra => BitVec.ofInt w (a.toInt / 2 ^ k)
  | .rotl => BitVec.ofNat w (a.toNat * 2 ^ k + a.toNat / 2 ^ (w - k))
  | .rotr => BitVec.ofNat w (a.toNat / 2 ^ k + a.toNat * 2 ^ (w - k))
  | .absd => BitVec.ofNat w (a.toInt - b.toInt).natAbs

/-- The INT words but `addc` and `subb` (10 R251). -/
def intWords : List ((BitVec 1 → BitVec 7 → BitVec 7 → BitVec 7 → Instr) × IntOp) :=
  [(.add, .add), (.sub, .sub), (.mul, .mul), (.mulh, .mulh), (.mulhu, .mulhu), (.min, .min), (.max, .max), (.minu, .minu),
   (.maxu, .maxu), (.and, .and), (.or, .or), (.xor, .xor), (.andn, .andn), (.orn, .orn), (.shl, .shl), (.shr, .shr), (.sra, .sra),
   (.rotl, .rotl), (.rotr, .rotr), (.absd, .absd)]

/-- The INTD words (10 R254). -/
def pairWords : List ((BitVec 1 → BitVec 7 → BitVec 7 → BitVec 7 → Instr) × IntOp) :=
  [(.addD, .add), (.subD, .sub), (.mulD, .mul), (.mulhD, .mulh), (.mulhuD, .mulhu), (.minD, .min), (.maxD, .max), (.minuD, .minu),
   (.maxuD, .maxu), (.andD, .and), (.orD, .or), (.xorD, .xor), (.shlD, .shl), (.shrD, .shr), (.sraD, .sra)]

/-- The uniform words of two operands (10 R266). -/
def uniWords : List ((BitVec 1 → BitVec 7 → BitVec 7 → BitVec 7 → Instr) × IntOp) :=
  [(.sadd, .add), (.ssub, .sub), (.smul, .mul), (.sand, .and), (.sor, .or), (.sxor, .xor), (.sshl, .shl), (.sshr, .shr),
   (.ssra, .sra), (.smin, .min), (.smax, .max), (.sminu, .minu), (.smaxu, .maxu)]

/-- The INTI words with a signed immediate (10 R253). -/
def immWords : List ((BitVec 1 → BitVec 7 → BitVec 7 → BitVec 9 → Instr) × IntOp) :=
  [(.addi, .add), (.andi, .and), (.ori, .or), (.xori, .xor), (.muli, .mul)]

/-- The INTI words with a count (10 R253). -/
def countWords : List ((BitVec 1 → BitVec 7 → BitVec 7 → BitVec 5 → Instr) × IntOp) :=
  [(.shli, .shl), (.shri, .shr), (.srai, .sra)]

/-! ## Bits (10 R255, R256) -/

/-- The number of zero bits above the highest one; 32 of zero. -/
def leadingZeros (a : Word) : Word := BitVec.ofNat 32 (((List.range 32).find? fun i => a.getLsbD (31 - i)).getD 32)

/-- The number of zero bits below the lowest one; 32 of zero. -/
def trailingZeros (a : Word) : Word := BitVec.ofNat 32 (((List.range 32).find? fun i => a.getLsbD i).getD 32)

/-- pos and len of `bext` and `bins`. -/
def bitPos (b : Word) : Nat := (b.extractLsb' 0 5).toNat
/-- len. -/
def bitCount (b : Word) : Nat := min (b.extractLsb' 8 6).toNat 32

/-- The BITS words of one source. -/
def bitWords1 : List ((BitVec 1 → BitVec 7 → BitVec 7 → Instr) × (Word → Word)) :=
  [(.clz, leadingZeros), (.ctz, trailingZeros), (.popc, fun a => BitVec.ofNat 32 ((List.range 32).countP fun i => a.getLsbD i)),
   (.brev, fun a => wordOf fun i => a.getLsbD (31 - i))]

/-- The BITS words of two sources. -/
def bitWords2 : List ((BitVec 1 → BitVec 7 → BitVec 7 → BitVec 7 → Instr) × (Word → Word → Word)) :=
  [(.bext, fun a b => wordOf fun i => decide (i < bitCount b) && a.getLsbD (i + bitPos b)),
   (.ilv2, fun a b => wordOf fun i => if i % 2 = 0 then a.getLsbD (i / 2) else b.getLsbD (i / 2)),
   (.ilv3, fun a b => wordOf fun i => if 30 ≤ i then false else if i % 3 = 0 then a.getLsbD (i / 3)
     else if i % 3 = 1 then a.getLsbD (16 + i / 3) else b.getLsbD (i / 3)),
   (.dlv3, fun a b => wordOf fun i => decide (i < 10) && decide ((b.extractLsb' 0 2).toNat ≤ 2) &&
     a.getLsbD (3 * i + (b.extractLsb' 0 2).toNat)),
   (.cpl, fun a b => leadingZeros (a ^^^ b))]

/-- The BITS words that also read their destination: d, a, b. -/
def bitWords3 : List ((BitVec 1 → BitVec 7 → BitVec 7 → BitVec 7 → Instr) × (Word → Word → Word → Word)) :=
  [(.bins, fun d a b => wordOf fun i =>
     if bitPos b ≤ i ∧ i < bitPos b + bitCount b then a.getLsbD (i - bitPos b) else d.getLsbD i),
   (.bsel, fun d a b => wordOf fun i => if d.getLsbD i then a.getLsbD i else b.getLsbD i)]

/-! ## Compares (10 R261) -/

/-- The integer conditions: whether the operands are read as signed, and the condition. -/
def cmpIntWords : List ((BitVec 1 → BitVec 3 → BitVec 2 → BitVec 2 → BitVec 7 → BitVec 7 → Instr) × Bool × (Int → Int → Bool)) :=
  [(.cmpEq, true, fun a b => a = b), (.cmpNe, true, fun a b => a ≠ b), (.cmpLt, true, fun a b => a < b),
   (.cmpLe, true, fun a b => a ≤ b), (.cmpGt, true, fun a b => a > b), (.cmpGe, true, fun a b => a ≥ b),
   (.cmpLtu, false, fun a b => a < b), (.cmpLeu, false, fun a b => a ≤ b), (.cmpGtu, false, fun a b => a > b),
   (.cmpGeu, false, fun a b => a ≥ b)]

/-- A w-bit value as an integer, signed or not. -/
def readInt (signed : Bool) {w : Nat} (x : BitVec w) : Int := if signed then x.toInt else x.toNat

/-- The new predicate under PC. -/
def underPc (pc : BitVec 2) (t old : Bool) : Bool :=
  if pc = 0 then t else if pc = 1 then old && t else if pc = 2 then old || t else xor old t

/-- The float conditions. -/
def cmpFloatWords : List ((BitVec 1 → BitVec 3 → BitVec 2 → BitVec 2 → BitVec 7 → BitVec 7 → Instr) × Cond) :=
  [(.cmpFeq, .feq), (.cmpFne, .fne), (.cmpFlt, .flt), (.cmpFle, .fle), (.cmpFgt, .fgt), (.cmpFge, .fge), (.cmpFun, .fun_),
   (.cmpFord, .ford)]

/-! ## Floating-point words (10 R257 to R260) -/

/-- The FLT words but `fdiv`. -/
def fltWords : List ((BitVec 1 → BitVec 2 → BitVec 7 → BitVec 7 → BitVec 7 → Instr) × FltOp) :=
  [(.fadd, .fadd), (.fsub, .fsub), (.fmul, .fmul), (.fmin, .fmin), (.fmax, .fmax), (.fminm, .fminm), (.fmaxm, .fmaxm)]

/-- The FMA words: whether the product and whether the destination's old value are negated. -/
def fmaWords : List ((BitVec 1 → BitVec 2 → BitVec 7 → BitVec 7 → BitVec 7 → Instr) × Bool × Bool) :=
  [(.fma, false, false), (.fms, false, true), (.fnma, true, false), (.fnms, true, true)]

/-- The special functions. -/
def specialWords : List ((BitVec 1 → BitVec 2 → BitVec 7 → BitVec 7 → BitVec 3 → Instr) × SpecialOp) :=
  [(.rcp, .rcp), (.rsq, .rsq), (.sqrt, .sqrt), (.exp2, .exp2), (.log2, .log2), (.sinp, .sinp), (.rint, .rint)]

/-- No active lane raises a flag whose trap is enabled (08 R216). -/
def noFlagTrap (out : Env → State → Nat → LaneOut) (v : Env) (s : State) : Prop :=
  ∀ l, v.em.getLsbD l = true → trapsUnder v.team.bind.mode (out v s l).flags = false

/-! ## Cross-lane words (11 R290 to R295) -/

/-- The source lane of a shuffle: lane j if it is there and active, else the lane itself (11 R290). -/
def fromLane (v : Env) (a : BitVec 7) (l : Nat) (j : Int) : Word :=
  if 0 ≤ j ∧ j ≤ 31 ∧ v.em.getLsbD j.toNat = true then v.src a j.toNat else v.src a l

/-- The exact sum of a source over the active lanes of which `p` is true. -/
def exactSum (v : Env) (a : BitVec 7) (p : Nat → Bool) : Nat := (((lanesOf v.em).filter p).map fun j => (v.src a j).toNat).sum

/-- The active lanes' source values. -/
def activeValues (v : Env) (a : BitVec 7) : List Word := (lanesOf v.em).map fun j => v.src a j

/-- Whether a lane of `cmpx` gives no offset, `run` being the sum of the counts before it. -/
def packOver (on : Nat → Bool) (c : Nat → Nat) (run l : Nat) : Bool := on l && decide (2 ^ 32 ≤ run + c l)

/-- The running sum of `cmpx` over some lanes in order: the counts of those that are on and do not overflow it (11 R295). -/
def packSum (on : Nat → Bool) (c : Nat → Nat) (ls : List Nat) : Nat :=
  ls.foldl (fun run j => if on j && !packOver on c run j then run + c j else run) 0

/-- The running sum of `cmpx` before lane l. -/
def packBefore (v : Env) (on : Nat → Bool) (a : BitVec 7) (l : Nat) : Nat :=
  packSum on (fun j => (v.src a j).toNat) ((lanesOf v.em).filter fun j => decide (j < l))

/-- P of `rbal`: the lengths of the rows before lane l (11 R294). -/
def rowsBefore (v : Env) (a : BitVec 7) (l : Nat) : Nat := exactSum v a fun j => decide (j < l)

/-- The row in which work item w lies (11 R294). -/
def rowHolding (v : Env) (a : BitVec 7) (w : Nat) : Nat :=
  ((lanesOf v.em).find? fun r => decide (rowsBefore v a r ≤ w ∧ w < rowsBefore v a r + (v.src a r).toNat)).getD 0

/-- An f32 sum over the active lanes in order, starting from a kept value if there is one (11 R292, R293, 08 R223). -/
def f32Sum (d a : BitVec 7) (v : Env) (s : State) (kept : Option Nat) : F32Run :=
  (lanesOf v.em).foldl (f32Lane d a v (drawGroup v s)) ⟨kept, {}, [], none⟩

/-- What an f32 sum gives for lane l. -/
def F32Run.out (r : F32Run) (l : Nat) : LaneOut := ((r.outs.find? fun o => o.1 = l).map (·.2)).getD {}

/-- The f32 minimum or maximum over the active lanes in order, with the flags of every step (11 R292, 08 R214). -/
def f32Least (op : FltOp) (v : Env) (a : BitVec 7) : Nat × Flags :=
  (activeValues v a).tail.foldl (fun r y => let z := (tyFmt 0).flt op false .rne 0 r.1 y.toNat; (z.1, r.2.or z.2))
    (((activeValues v a).headD 0).toNat, {})

/-- The next draw of a lane (08 R217). -/
def nextDraw (v : Env) (s : State) (l : Nat) : DWord := mix64 v.team.bind.seed (v.grp.keyOf l) (s.ctrReg v.r l)

/-- What a word that draws once in each active lane writes. -/
def Writes.drawn (v : Env) (s : State) (w : Writes) : Writes :=
  { w with ctr := fun l => if v.em.getLsbD l then some (s.ctrReg v.r l + 1) else none }

/-! ## Words that do more than write registers -/

/-- The word of group `r` is over: its group's entries, cursor and counts of retired words have moved on from `s`, and nothing else has
changed. -/
def Ended (r : GroupRef) (s t : State) : Prop :=
  ∃ o f, (∀ x : Group, x.sameRegs (f x)) ∧ t = { s.modGroup r f with ofs := o, note := .performed }

/-- An instruction whose use is `u` completes with effect `eff`, and no other, wherever it issues undisturbed, its group has room for its
next entry, and `ok` holds. -/
def Does (i : Instr) (u : Use) (ok : Env → State → Prop) (eff : Env → State → State) : Prop :=
  ∀ s v, Issues u s v → Room s v → ok v (followed u v s) → ∃ t, exec i s = .next t ∧ Ended v.r (eff v (followed u v s)) t

/-- An instruction whose use is `u` waits, having done `eff` and no more, wherever it issues undisturbed and `ok` holds. -/
def Holds (i : Instr) (u : Use) (ok : Env → State → Prop) (eff : Env → State → State) : Prop :=
  ∀ s v, Issues u s v → ok v (followed u v s) → exec i s = .next { eff v (followed u v s) with note := .waits }

/-- Nothing is done. -/
def unchanged (_ : Env) (s : State) : State := s

/-- An instruction whose use is `u` completes with outcomes `outs` (07 R190) and its group's registers changed by `f`, wherever it issues
undisturbed, `ok` holds, the entries have room, and the group has an entry left. -/
def Jumps (i : Instr) (u : Use) (ok : Env → State → Prop) (outs : Env → List Outc) (f : Env → Group → Group) : Prop :=
  ∀ s v y z, Issues u s v → s.limit = none → s.group? v.r = some y → (y.handler = none → v.grp.handler = none) → ok v s →
    advanced (s.headerAt v.part) v (outs v) ((f v y).retire u v.r.core) = some z →
    (z.frontier ≠ [] ∨ z.aside ≠ [] ∨ z.handler ≠ none) →
    exec i s = .next { s.modGroup v.r (fun _ => z) with ofs := 0, note := .performed }

/-- The registers are as they were. -/
def same (_ : Env) (x : Group) : Group := x

/-- The lanes `m` go to the word 4 × o bytes on at priority `pri`, the others of the entry to the next word (10 R268). -/
def goTo (v : Env) (o : BitVec 14) (m : Lanes) (pri : BitVec 6) : List Outc :=
  [{ pc := ((v.pc : Int) + 4 * o.toInt).toNat % 2 ^ 56, lanes := m, pri := pri, due := true },
   { pc := v.pc + 4, lanes := v.e.mask &&& ~~~m, pri := v.e.pri }]

/-- The lanes of an entry at an address. -/
def lanesAt (fs : List FEntry) (pc : Nat) : Lanes := ((fs.find? fun e => e.pc.toNat = pc).map (·.mask)).getD 0

/-- The lanes that outcomes send to an address. -/
def sentTo (outs : List Outc) (pc : Nat) : Lanes := outs.foldl (fun m o => if o.pc = pc then m ||| o.lanes else m) 0

/-- The target of a lane of `brx` (10 R270). -/
def brxTarget (v : Env) (a : BitVec 7) (l : Nat) : Nat := (BitVec.ofNat 56 v.pc + (v.src a l).signExtend 56).toNat

/-- The lanes of an entry in which the guard of a header is false (07 R189). -/
def guardedOff (v : Env) (g : BitVec 1) (p : BitVec 3) (n : BitVec 1) : Lanes :=
  if g = 0 then 0 else maskOf fun l => v.e.mask.getLsbD l && ((v.grp.pget p.toNat).getLsbD l == decide (n = 1))

/-- The frets that a mask names are clear and hold no status (09 R231, R235). -/
def fretsDone (x : Group) (m : Nat) : Prop := ∀ f, f < 12 → m / 2 ^ f % 2 = 1 → (x.fret f).cnt = 0 ∧ (x.fret f).st = 0

/-- IDEM as `ient` records it (10 R272, 15 R410). -/
def idemOf (v : Env) (e : FEntry) : DWord :=
  BitVec.ofNat 64 (2 ^ 63 + e.pri.toNat * 2 ^ 56 + ((v.pc - v.team.bind.entry) / 12 + 1) % 2 ^ 24 * 2 ^ 32 + e.mask.toNat)

/-- The keys of the active lanes at `regroup`, each plus one (07 R198). -/
def keysAt (v : Env) (a : BitVec 7) (k : Tbl Nat) : Tbl Nat :=
  (lanesOf v.em).foldl (fun k l => k.set 0 (32 * v.r.grp + l) (((v.src a l).extractLsb' 0 8).toNat + 1)) k

/-! ## Fences and barriers (04 R121, R122, 11 R297 to R303) -/

/-- Nothing that the group has issued holds a later access: its accesses are performed, its fences are over, no acquire's sweep is under way
(04 R112, R121). -/
abbrev settled (v : Env) (s : State) : Prop :=
  (liveGroup v s).ownLog = [] ∧ (liveGroup v s).loadSweep = false ∧ s.fencesOver v = true

/-- The acquire half of a word is over: from scope .dev the sweep has been answered by every cache die (04 R121). -/
abbrev acquired (v : Env) (s : State) (sc : Nat) : Prop :=
  settled v s ∧ (5 ≤ sc → (liveGroup v s).sweep = some 0xFF)

/-- The acquire half ends: the sweep that was answered is put away, and what the die writes from then on follows its earlier writes (04
R117, R121). -/
def sweepDone (v : Env) (s : State) (sc : Nat) : State :=
  (if sc < 5 then s else s.modGroup v.r fun x => { x with sweep := none }).closeBatch (dieOf v.r.core)

/-- The acquire half has a sweep still to start. -/
abbrev sweepDue (v : Env) (s : State) (sc : Nat) : Prop := settled v s ∧ 5 ≤ sc ∧ (liveGroup v s).sweep = none

/-- A barrier after group g has arrived (02 R67). -/
def Barrier.afterArrival (b : Barrier) (g : Nat) (drop : Bool) : Barrier :=
  let arr := b.arrMask ||| oneLane g
  let next := if drop then b.nextExp - 1 else b.nextExp
  let c : Barrier := { b with dropMask := if drop then b.dropMask ||| oneLane g else b.dropMask, nextExp := next }
  if popcount arr = b.exp.toNat then { c with waiters := 0, arrMask := 0, phase := b.phase + 1, exp := next }
  else { c with arrMask := arr }

/-- A group may arrive at a barrier: it has neither arrived nor dropped (02 R67). -/
abbrev mayArrive (v : Env) (s : State) (bid : BitVec 8) : Prop :=
  (s.barrierOf v bid).arrMask.getLsbD v.r.grp = false ∧ (s.barrierOf v bid).dropMask.getLsbD v.r.grp = false

/-- The barrier's entry has no parity error (02 R73). -/
abbrev soundBarrier (v : Env) (s : State) (bid : BitVec 8) : Prop := (s.barrierOf v bid).bad = false

/-- A group waits for its phase: it has arrived and has not dropped (11 R298). -/
abbrev mustWait (v : Env) (s : State) (bid : BitVec 8) : Prop :=
  (s.barrierOf v bid).arrMask.getLsbD v.r.grp = true ∧ (s.barrierOf v bid).dropMask.getLsbD v.r.grp = false

/-- A group has arrived and its phase is still in progress. -/
abbrev phaseOpen (v : Env) (s : State) (bid : BitVec 8) : Prop := (s.barrierOf v bid).arrMask.getLsbD v.r.grp = true

/-- The object that a stage word names lies in a window, aligned and clear of queue storage (11 R301, 01 R14). -/
abbrev stageIn (s : State) (w : Win) (u : DWord) : Prop :=
  stageOff u % 32 = 0 ∧ stageOff u + 32 ≤ w.bind.spsize ∧ s.queueStorage w (stageOff u) 32 = false

/-- The state of the object on which `sbar.wait` acts: the one that it was woken by, or else the one that it has (11 R303). -/
def stageReached (v : Env) (s : State) (u : DWord) : Nat :=
  match (liveGroup v s).stageWait with
  | some (o, st) => if o = stageOff u ∧ st ≠ 0 then st else s.stageState v.r.core (v.team.bind.spbase + stageOff u)
  | none => s.stageState v.r.core (v.team.bind.spbase + stageOff u)

/-! ## Traps (15 R402 to R405) -/

/-- The frame of a group's trap in its core's scratchpad (15 R401). -/
def frameAt (t : Team) (x : Group) (g : Nat) : Nat := t.bind.spbase + frameOff x g

/-- The lanes of a trap frame for which the trapping word is still to be performed (15 R404). -/
def frameRest (s : State) (c a resume lane : Nat) (once : Bool) : Lanes :=
  let w := s.scratchRead c 8 (a + 16)
  let rest := maskOf fun l => decide (lane ≤ l) && w.testBit (32 + l) && !w.testBit l
  if resume = 2 then 0
  else if resume = 1 then (if once then 0 else rest &&& ~~~oneLane lane)
  else if once then BitVec.ofNat 32 (w / 2 ^ 32) else rest

/-! ## Hypothesis words (05 R138, 11 R314, R315) -/

/-- Lane l opens id k below its own (05 R138). -/
def openLane (d : BitVec 7) (v : Env) (s : State) (l : Nat) : State :=
  match s.part? v.part with
  | none => s
  | some p =>
    let h := (liveGroup v s).hypOf l
    let k := ((List.range 4096).find? fun k => (p.entry k).state = 0).getD 0
    (s.modPart v.part fun p =>
        (p.modEntry k fun _ => { HypEntry.free with state := 1, depth := (p.entry h).depth + 1, parent := BitVec.ofNat 12 h }).modEntry h
          fun e => { e with nchild := e.nchild + 1 }).modTeam v.r fun t =>
      t.vset v.r.grp d.toNat (oneLane l) fun _ => BitVec.ofNat 32 k

/-- Every active lane can open an id: its own is not FREE and not at depth 15, and there are enough FREE ids. -/
def mayOpen (v : Env) (s : State) : Prop :=
  ∃ p, s.part? v.part = some p ∧ (∀ l, v.em.getLsbD l = true →
      (p.entry ((liveGroup v s).hypOf l)).state ≠ 0 ∧ (p.entry ((liveGroup v s).hypOf l)).depth ≠ 15) ∧
    popcount v.em ≤ ((List.range 4096).filter fun k => (p.entry k).state = 0).length

/-- Lane l goes back to the parent of its id; the root has none (05 R138). -/
def leaveLane (v : Env) (s : State) (l : Nat) : State :=
  match s.part? v.part with
  | none => s
  | some p =>
    if (liveGroup v s).hypOf l = 0 then s else s.setHyp v.r v.part l (p.entry ((liveGroup v s).hypOf l)).parent.toNat

/-- The lanes whose source names an id that can be resolved (11 R315). -/
def namesId (v : Env) (a : BitVec 7) : List Nat :=
  (lanesOf v.em).filter fun l => (v.src a l).toNat ≠ 0 && decide ((v.src a l).toNat < 4096)

/-- The use of `hcf` and `hrf`. -/
def useResolve (c : BitVec 1) (d a : BitVec 7) : Use :=
  { c := c, ops := [.vd d, .vs a], cls := .b, result := true, orph := .lanes, pin := true }

/-- A resolution word files its requests: one for each lane that names an id, lanes that name none having status 2 (11 R315). -/
def filed (confirm : Bool) (d a : BitVec 7) (v : Env) (s : State) : State :=
  let x := liveGroup v s
  let f := s.fretOf v .b
  ((s.modGroup v.r fun x =>
      { x.fretUp f with
        nextLog := x.nextLog + 1
        hypWords := x.hypWords ++ [⟨x.nextLog, d.toNat, v.em,
          (lanesOf v.em).foldl (fun t l => if (namesId v a).contains l then t else t.set 0 l 2) [], (namesId v a).length, f⟩] }).modPart
    v.part fun p =>
      { p with reqs := p.reqs ++ (namesId v a).map fun l =>
          ⟨BitVec.ofNat 12 (v.src a l).toNat, confirm, some v.r, l, x.nextLog⟩ }).postOnce (.hypRequestTakeup v.part)

/-! ## Memory words (01 R31 to R34, 11 R280 to R288, 15 R408) -/

/-- The lanes whose accesses a memory word makes: with an index from 96 up, the lowest one for all. -/
def accessLanes (v : Env) (x : Nat) : List Nat := if 96 ≤ x then [lowestLane v.em] else lanesOf v.em

/-- The width of a memory word's accesses. -/
def MemWord.bytes (m : MemWord) (b : Buf) : Nat := m.width.getD (min (2 ^ b.esize) 8)

/-- What the address unit answers for the access of a lane. -/
def MemWord.at_ (m : MemWord) (v : Env) (s : State) (b : Buf) (win : Option Win) (l : Nat) : LaneAddr :=
  laneAddr s b win (m.bytes b) l (indexOf v m.x l)

/-- The accesses of a memory word, in lane order. -/
def MemWord.accesses (m : MemWord) (v : Env) (s : State) (b : Buf) (win : Option Win) : List Access :=
  (accessLanes v m.x).filterMap fun l => match m.at_ v s b win l with
    | .ok a => some ⟨l, a, m.bytes b, m.data v l, m.data2 v l, BitVec.ofNat 16 (2 ^ m.bytes b - 1), 0⟩
    | _ => none

/-- The lanes whose access is suppressed (01 R33). -/
def MemWord.suppressed (m : MemWord) (v : Env) (s : State) (b : Buf) (win : Option Win) : Lanes :=
  maskOf fun l => (accessLanes v m.x).contains l && decide (m.at_ v s b win l = .suppressed)

/-- The lanes that one access of a memory word serves. -/
def MemWord.serves (m : MemWord) (v : Env) (l : Nat) : Lanes := if 96 ≤ m.x then v.em else oneLane l

/-- The destinations of suppressed lanes receive zero (01 R33). -/
def MemWord.zeroed (m : MemWord) (v : Env) (s : State) (b : Buf) (win : Option Win) : State :=
  if m.need = 1 ∨ m.suppressed v s b win = 0 then s
  else s.modTeam v.r fun t =>
    (m.op (m.bytes b)).put ⟨0, 0, 16, 0, 0, 0, 0⟩ (if 96 ≤ m.x then v.em else m.suppressed v s b win) 0 v.r.grp t

/-- A memory word may make its accesses: its record allows them, every lane's address is good or suppressed, and no order holds it. -/
structure Reaches (m : MemWord) (v : Env) (s : State) (b : Buf) (win : Option Win) : Prop where
  buf : checkedBuf v m.q m.need = some b
  good : ∀ l ∈ accessLanes v m.x, ∀ t, m.at_ v s b win l ≠ .trap t
  order : s.orderHeld v (decide (m.need ≠ 0)) = false
  release : m.release = true → s.released v m.sc = true

/-- Its record lies in a window, of its own team or of a live member of its cluster, no byte that it reads is poisoned, and no older `rld` has
still to read a byte that it writes. -/
structure ReachesWindow (m : MemWord) (v : Env) (s : State) (b : Buf) (w : Win) : Prop extends Reaches m v s b (some w) where
  space : b.space ≠ 0
  win : winOf v s b.space b.prow b.pcol = .here w
  clean : m.need ≠ 1 → ∀ a ∈ m.accesses v s b (some w), s.scratchPoisoned w.core a.width (w.bind.spbase + a.addr) = false
  after : m.need ≠ 0 →
    (liveGroup v s).rldOver v.team.bind.spbase v.r.core w.core w.bind.spbase (m.accesses v s b (some w)) = false

/-- Its record lies in global memory, and the operand log takes it. -/
structure ReachesMemory (m : MemWord) (v : Env) (s : State) (b : Buf) : Prop extends Reaches m v s b none where
  space : b.space = 0
  some_ : m.accesses v s b none ≠ []
  room : (liveGroup v s).log.length < 4
  free : (liveGroup v s).lineBusy (m.accesses v s b none) = false
  near : hypRemote v s m.need (m.accesses v s b none) = none

/-- Accesses of a memory word performed in a window, one after the other. -/
def MemWord.made (m : MemWord) (v : Env) (s : State) (b : Buf) (w : Win) (as : List Access) : State :=
  as.foldl (fun s a => s.scratchAccess v.r w.core (w.bind.spbase + a.addr) (m.op (m.bytes b)) a (m.serves v a.lane))
    (m.zeroed v s b (some w))

/-- The accesses of a memory word performed in a window, lane after lane. -/
def MemWord.inWindow (m : MemWord) (v : Env) (s : State) (b : Buf) (w : Win) : State :=
  acquireSweep m.acquire m.sc v (m.made v s b w (m.accesses v s b (some w)))

/-- Another agent's operation falls between two lanes of an atomic: the accesses `now` are made, and the entry goes on with those of `later`
(11 R288). -/
def MemWord.some_ (m : MemWord) (v : Env) (s : State) (b : Buf) (w : Win) (now later : List Access) : State :=
  let f := fun e : FEntry => if e.pc = v.e.pc then { e with redo := some (maskOf fun l => later.any fun a => a.lane = l) } else e
  { (m.made v s b w now).modGroup v.r fun x =>
      { x with frontier := x.frontier.map f, handler := x.handler.map fun h => { h with entry := f h.entry } } with
    choices := s.choices + 1, note := .waits }

/-- A memory word in the operand log, its lines on their way. -/
def MemWord.inMemory (m : MemWord) (v : Env) (s : State) (b : Buf) : State :=
  logWord v (m.op (m.bytes b)) (m.accesses v s b none) (if 96 ≤ m.x then 0 else m.suppressed v s b none) (decide (96 ≤ m.x)) m.acquire
    (m.acquire && decide (5 ≤ m.sc)) m.wide m.cls (m.zeroed v s b none)

/-- The element loads: width and sign. -/
noncomputable def loadWords (c : BitVec 1) (sc : BitVec 3) (o : BitVec 1) (d : BitVec 7) (q : BitVec 4) (x : BitVec 7) :
    List (Instr × Use × Nat × Bool) :=
  [(.ldB c sc o d q x, useLd c (.vd d) q x, 1, false), (.ldBs c sc o d q x, useLd c (.vd d) q x, 1, true),
   (.ldH c sc o d q x, useLd c (.vd d) q x, 2, false), (.ldHs c sc o d q x, useLd c (.vd d) q x, 2, true),
   (.ldW c sc o d q x, useLd c (.vd d) q x, 4, false), (.ldD c sc o d q x, useLd c (.vd2 d) q x, 8, false),
   (.ldQ c sc o d q x, useLd c (.vk d 4 4 true) q x, 16, false), (.ldNc c sc o d q x, useLd c (.vd d) q x, 4, false)]

/-- The element stores: width and data. -/
noncomputable def storeWords (c : BitVec 1) (sc : BitVec 3) (o : BitVec 1) (d : BitVec 7) (q : BitVec 4) (x : BitVec 7) :
    List (Instr × Use × Nat × (Env → Nat → BitVec 128)) :=
  [(.stB c sc o d q x, useSt c (.vs d) q x true, 1, fun v l => (v.src d l).setWidth 128),
   (.stH c sc o d q x, useSt c (.vs d) q x true, 2, fun v l => (v.src d l).setWidth 128),
   (.stW c sc o d q x, useSt c (.vs d) q x true, 4, fun v l => (v.src d l).setWidth 128),
   (.stD c sc o d q x, useSt c (.vs2 d) q x true, 8, fun v l => (v.src2 d l).setWidth 128),
   (.stQ c sc o d q x, useSt c (.vk d 4 4 false) q x (decide (d.toNat < 96)), 16, quad d)]

/-- The memory word of a uniform load and of a uniform store (11 R284). -/
def sldWord (sc : BitVec 3) (o : BitVec 1) (d : BitVec 7) (q : BitVec 4) (x : BitVec 5) : MemWord :=
  { ldWord 8 false sc o d q (x.setWidth 7 + 96) with op := fun w => .uniLoad d.toNat w, width := none }
/-- The uniform store. -/
def sstWord (sc : BitVec 3) (o : BitVec 1) (d : BitVec 7) (q : BitVec 4) (x : BitVec 5) : MemWord :=
  { stWord 8 sc o q (x.setWidth 7 + 96) (fun v _ => (v.usrc d).setWidth 128) with op := fun w => .store w, width := none }

/-- The atomics: double width and function code (11 R285, R287). -/
noncomputable def atomWords (c : BitVec 1) (sc : BitVec 3) (o : BitVec 2) (d : BitVec 7) (q : BitVec 3) (x : BitVec 7) :
    List (Instr × Bool × BitVec 4) :=
  [(.atomAdd c sc o d q x, false, 0), (.atomSub c sc o d q x, false, 1), (.atomAnd c sc o d q x, false, 2),
   (.atomOr c sc o d q x, false, 3), (.atomXor c sc o d q x, false, 4), (.atomMin c sc o d q x, false, 5),
   (.atomMax c sc o d q x, false, 6), (.atomUmin c sc o d q x, false, 7), (.atomUmax c sc o d q x, false, 8),
   (.atomXchg c sc o d q x, false, 9), (.atomCas c sc o d q x, false, 10), (.atomFadd c sc o d q x, false, 11),
   (.atomFmin c sc o d q x, false, 12), (.atomFmax c sc o d q x, false, 13), (.atomLd c sc o d q x, false, 14),
   (.atomSt c sc o d q x, false, 15), (.atomdAdd c sc o d q x, true, 0), (.atomdSub c sc o d q x, true, 1),
   (.atomdAnd c sc o d q x, true, 2), (.atomdOr c sc o d q x, true, 3), (.atomdXor c sc o d q x, true, 4),
   (.atomdMin c sc o d q x, true, 5), (.atomdMax c sc o d q x, true, 6), (.atomdUmin c sc o d q x, true, 7),
   (.atomdUmax c sc o d q x, true, 8), (.atomdXchg c sc o d q x, true, 9), (.atomdCas c sc o d q x, true, 10),
   (.atomdFadd c sc o d q x, true, 11), (.atomdFmin c sc o d q x, true, 12), (.atomdFmax c sc o d q x, true, 13),
   (.atomdLd c sc o d q x, true, 14), (.atomdSt c sc o d q x, true, 15)]

/-- A memory word of use `u` ends, its accesses made in a window or sent to memory, and nothing else changes; an atomic in a window may make
the accesses of its lower lanes first and the others when it next issues. -/
def Accesses (i : Instr) (u : Use) (m : MemWord) (s : State) (v : Env) : Prop :=
  Issues u s v → Room s v →
    (∀ b w, ReachesWindow m v (followed u v s) b w →
      (m.need = 2 → (followed u v s).atomicSplit (m.accesses v (followed u v s) b (some w)) = none) →
      ∃ t, exec i s = .next t ∧ Ended v.r (m.inWindow v (followed u v s) b w) t) ∧
    (∀ b w now later, ReachesWindow m v (followed u v s) b w → m.need = 2 →
      (followed u v s).atomicSplit (m.accesses v (followed u v s) b (some w)) = some (now, later) →
      exec i s = .next (m.some_ v (followed u v s) b w now later)) ∧
    ∀ b, ReachesMemory m v (followed u v s) b → ∃ t, exec i s = .next t ∧ Ended v.r (m.inMemory v (followed u v s) b) t

/-- The state after a load's registers are written: an acquire from scope .dev then starts its sweep. -/
def afterLoad (o : BitVec 1) (sc : BitVec 3) (v : Env) (s : State) : State :=
  if o = 1 ∧ 5 ≤ sc.toNat then s.startSweep v.r true else s

/-- The bytes of a core's scratchpad differ, and nothing else but poison that is gone. -/
structure OnlyScratch (c : Nat) (s t : State) : Prop where
  state : { t with cores := s.cores } = s
  cores : ∀ k, k ≠ c → t.core k = s.core k
  core : { t.core c with scratch := [], scratchPsn := [] } = { s.core c with scratch := [], scratchPsn := [] }
  poison : ∀ g ∈ (t.core c).scratchPsn, g ∈ (s.core c).scratchPsn

/-- Byte p of a core's scratchpad. -/
def State.scratchByte (s : State) (c p : Nat) : Byte := (s.core c).scratch.byte p

/-- Byte p after a store: that of the last access in lane order that covers it, or as it was. -/
def storedByte (as : List Access) (base p : Nat) (old : Byte) : Byte :=
  as.foldl (fun x a => if base + a.addr ≤ p ∧ p < base + a.addr + a.width then a.data.extractLsb' (8 * (p - (base + a.addr))) 8 else x) old

/-- What an element load writes: one or two bytes extended, or a word of four bytes; `read` reads so many bytes. -/
def extended (w : Nat) (signed : Bool) (read : Nat → Nat) : Word :=
  if w = 1 then (if signed then (BitVec.ofNat 8 (read 1)).signExtend 32 else BitVec.ofNat 32 (read 1))
  else if w = 2 then (if signed then (BitVec.ofNat 16 (read 2)).signExtend 32 else BitVec.ofNat 32 (read 2))
  else BitVec.ofNat 32 (read 4)

/-- The line word of a group: its first address, its lines, its bytes inside the record (11 R283). -/
structure LineOf (load : Bool) (o : BitVec 1) (sc : BitVec 3) (d : BitVec 7) (q : BitVec 4) (x : BitVec 5) (v : Env) (s : State)
    (b : Buf) (win : Option Win) (n a0 inside : Nat) : Prop where
  count : n = ((v.grp.sget x.toNat).extractLsb' 32 5).toNat + 1
  block : d.toNat + n ≤ blockEnd d.toNat
  buf : checkedBuf v q.toNat (if load then 0 else 1) = some b
  plain : b.swz = 0 ∧ b.stride = 2 ^ b.esize
  addr : a0 = b.base + ((v.grp.sget x.toNat).extractLsb' 0 32).toNat * 2 ^ b.esize
  aligned : a0 % 128 = 0
  inside_ : inside = min (128 * n) ((b.extent - ((v.grp.sget x.toNat).extractLsb' 0 32).toNat) * 2 ^ b.esize)
  whole : b.oob = true ∨ inside = 128 * n
  place : (b.space = 0 ∧ win = none) ∨ (b.space ≠ 0 ∧ ∃ w, win = some w ∧ winOf v s b.space b.prow b.pcol = .here w)
  good : lineBytesTrap s b win a0 inside = none
  order : s.orderHeld v (!load) = false
  release : load = false → o = 1 → s.released v sc.toNat = true

/-- The accesses of a line word, line after line and lane after lane; `bytes` names those inside the record. -/
def lineAccesses (load : Bool) (v : Env) (d a0 n inside : Nat) : List Access :=
  (List.range n).flatMap fun k => (lanesOf v.em).map fun l =>
    { lane := l, addr := a0 + (128 * k + 4 * l), width := 4,
      data := if load then 0 else (v.team.vget v.r.grp (d + k) l).setWidth 128, data2 := 0,
      bytes := BitVec.ofNat 16 (2 ^ min 4 (inside - (128 * k + 4 * l)) - 1), reg := d + k }

/-- A word of a line as `ldl` reads it: the bytes inside the record, the others zero. -/
def lineWord (s : State) (c at_ off inside : Nat) : Word :=
  BitVec.ofNat 32 ((List.range 4).foldl (fun x k => if off + k < inside then x + (s.scratchByte c (at_ + off + k)).toNat * 256 ^ k else x) 0)

/-! ## Queues and tasks (11 R306 to R312, 14 R395) -/

/-- The elements that a push sends, in lane order (11 R307). -/
def pushed (q : QDesc) (d : BitVec 7) (v : Env) : List DWord :=
  (lanesOf v.em).map fun l => if q.esz = 1 then v.src2 d l else (v.src d l).setWidth 64

/-- The queue at a place is there, its entry has no parity error that its own team would meet, and the data register fits its elements, which
are `wide` or not. -/
abbrev pushes (wide : Bool) (n row : BitVec 4) (col : BitVec 3) (d : BitVec 7) (v : Env) (s : State) (w : Win) (q : QDesc) : Prop :=
  queueAt row col n v s = .here w q ∧ oddPair q d = false ∧ (q.bad && ownPort v w) = false ∧
    s.placeWide v.r row.toNat col.toNat n.toNat = wide ∧ (liveGroup v s).push = none

/-- A push is over: its group waits no longer, and for `qput.try` a predicate says whether it was accepted. -/
def pushOver (tries : Option (BitVec 3)) (ok : Bool) (v : Env) (s : State) : State :=
  s.modGroup v.r fun x =>
    match tries with
    | none => { x with push := none, wait := .none }
    | some p => { x with push := none, wait := .none }.pset p.toNat v.em (if ok then BitVec.allOnes 32 else 0)

/-- A push is on its way to the port of a queue. -/
def pushSent (w : Win) (n : BitVec 4) (q : QDesc) (d : BitVec 7) (tries : Bool) (v : Env) (s : State) : State :=
  (s.modGroup v.r fun x => { x with push := some ⟨w.core, n.toNat, pushed q d v, tries, none⟩, wait := .push }).post
    (.queuePushArrive v.r)

/-! ## Engine words (12, 13) -/

/-- An s register that a 6-bit field names. -/
def Env.s6 (v : Env) (f : BitVec 6) : DWord := v.grp.sget f.toNat

/-- The records that a COPY word is checked against. -/
def Env.copyCtx (v : Env) : CopyCtx := ⟨v.grp.q, v.grp.res, v.team.bind, v.r.core⟩

/-- The COPY words: operation code (13 R352). -/
noncomputable def copyWords (c : BitVec 1) (a b : BitVec 6) (m : BitVec 3) : List (Instr × Nat) :=
  [(.copy c a b m, 0), (.copyT c a b m, 1), (.gfill c a b m, 2), (.mcast c a b m, 3)]

/-- The active lanes hold one hypothesis (05 R141). -/
def oneHyp (v : Env) (s : State) : Prop := ∀ l, v.em.getLsbD l = true → (liveGroup v s).hypOf l = (liveGroup v s).hypOf (lowestLane v.em)

/-- A core's request engine has room (13 R359). -/
def requestRoom (v : Env) (s : State) : Prop := (s.core v.r.core).requests.length < 16

/-- No rule of the capo is broken (12 R333). -/
def capoFree (v : Env) (s : State) : Prop := (s.core v.r.core).capoBreach s.cycle v.r = false

/-- The use of a product word: it checks its own registers (12 R325). -/
def useProduct (c : BitVec 1) (sc : BitVec 6) (vb : BitVec 7) : Use :=
  { useEngine c [.us6 sc, .vk vb 32 1 false] with own := true }

/-- The command of a product word (12 R320, R322). -/
def productKind (sp : Bool) (h : BitVec 4) (sc : BitVec 6) (vb : BitVec 7) (n t : BitVec 1) (v : Env) : CmdKind :=
  .mmad sp (decide (n = 1)) (decide (t = 1)) (v.s6 sc) ((v.grp.resv h.toNat).getD ⟨0, 0⟩) vb.toNat
    [sliceOf v.team v.r.grp vb.toNat (tileOf (v.s6 sc)).bfmt (tileOf (v.s6 sc)).nc]

/-- The members of the group's gang; zero is none (12 R327). -/
def gangOf (v : Env) : Word := v.grp.gang.extractLsb' 0 32

/-- An entry of the group's reservation table has no parity error (02 R73). -/
def soundResv (v : Env) (s : State) (h : Nat) : Prop := h ∉ (liveGroup v s).resBad

/-- A product word passes its checks (12 R325, R333). -/
def productOk (sp : Bool) (h : BitVec 4) (sc : BitVec 6) (vb : BitVec 7) (t : BitVec 1) (v : Env) (s : State) : Prop :=
  productTrap sp (decide (t = 1)) (v.s6 sc) (v.grp.resv h.toNat) vb.toNat (if gangOf v = 0 then 1 else popcount (gangOf v))
    (v.team.holdsExt v.r.grp) v.team.bind = none ∧ capoFree v s ∧ soundResv v s h.toNat ∧ oneHyp v s

/-- A product word's command is issued, and its slice is still to be read (12 R322, R326). -/
def issueProduct (kind : CmdKind) (vb : BitVec 7) (v : Env) (s : State) : State :=
  (s.submit v kind).modGroup v.r fun x => { x with readRegs := x.readRegs.set (0, 0) (s.core v.r.core).seq (vb.toNat, 32) }

/-- The stage words with one operand form: operation code, the BF16 bit, the number of stages, the reservation (12 R340 to R342). -/
noncomputable def stageWords (c : BitVec 1) (z : BitVec 3) (h : BitVec 4) (a b : BitVec 6) (f : BitVec 1) (v : Env) :
    List (Instr × Nat × Bool × Nat × Option Resv) :=
  [(.bfstg c z h a b, 0, false, 1, v.grp.resv h.toNat),
   (.bfchn c z h a b f, 1, decide (f = 1), ((v.s6 a).extractLsb' 56 3).toNat + 1, v.grp.resv h.toNat),
   (.bfstgT c z h a b, 2, false, 1, v.grp.resv h.toNat), (.bfwg c z a b, 3, false, 1, none)]

/-- The z registers of a stage word. -/
def stagesOf (v : Env) (z : BitVec 3) (n : Nat) : List DWord := (List.range n).map fun j => v.grp.zget (z.toNat + j)

/-- The checks of an ACC word of the scratchpad (12 R345 to R348): FN, F, descriptor, scale word. -/
def accOk (fn f : Nat) (a b sc : BitVec 6) (v : Env) : Prop :=
  accTileTrap (v.s6 a) v.team.bind = none ∧
    (fn ≠ 0 → dscTrap fn (decide (f % 2 = 1)) (tileOf (v.s6 a)) (v.s6 b) v.team.bind.spsize = none) ∧
    (fn = 2 → f % 2 = 1 → scaleTrap (tileOf (v.s6 a)) (v.s6 sc) (v.grp.resv ((v.s6 sc).extractLsb' 0 4).toNat) v.team.bind.spsize = none)

/-- The command of an ACC word of the scratchpad. -/
def accKind (fn f : Nat) (a b sc : BitVec 6) (v : Env) : CmdKind :=
  .acc (BitVec.ofNat 4 fn) (BitVec.ofNat 4 f) (v.s6 a) (v.s6 b) (if fn = 2 ∧ f % 2 = 1 then v.s6 sc else 0)
    (if fn = 2 ∧ f % 2 = 1 then v.grp.resv ((v.s6 sc).extractLsb' 0 4).toNat else none) []

/-- The checks of an ACC word of registers, none of which is awaited (12 R349). -/
def accRegOk (a b : BitVec 6) (v : Env) (s : State) : Prop :=
  accTileTrap (v.s6 a) v.team.bind = none ∧ regTrap (tileOf (v.s6 a)) (v.s6 b) (v.team.holdsExt v.r.grp) = none ∧
    linePending (liveGroup v s) ((v.s6 b).extractLsb' 0 7).toNat (regLines (tileOf (v.s6 a))) = false ∧ oneHyp v s

/-! ## Events -/

/-- An event takes place, with state `t` after it. -/
def Occurs (i : Instr) (s t : State) : Prop := exec i s = .next { t with note := .performed }

/-- An event takes place, and `p` holds of the state after it. -/
def OccursWith (i : Instr) (s : State) (p : State → Prop) : Prop := ∃ t, exec i s = .next t ∧ t.note = .performed ∧ p t

/-- The mailbox takes commands: none is being worked on, and bring-up has come to its end (21 R454, R458). -/
def mailboxOpen (s : State) : Prop := s.modl.mboxCmd.getLsbD 63 = false ∧ s.modl.failed = none ∧ s.modl.bringup = 8

/-- After a mailbox command: GO reads 0, STAT holds its tag and its code, the response is there if it has one (21 R458). -/
def mboxEnd (op : Nat) (tag : BitVec 32) (arg : BitVec 8) (payload : BitVec 512) (code : BitVec 8) (resp : Option Nat) (s : State) : State :=
  { s with modl := { s.modl with
      mboxCmd := BitVec.ofNat 64 (op * 2 ^ 40 + arg.toNat * 2 ^ 32 + tag.toNat)
      mboxStat := tag ++ 0#24 ++ code
      mboxPayload := payload
      mboxResp := resp.getD s.modl.mboxResp } }

/-- While a mailbox command is worked on: GO reads 1. -/
def mboxBusy (op : Nat) (tag : BitVec 32) (arg : BitVec 8) (payload : BitVec 512) (s : State) : State :=
  { s with modl := { s.modl with
      mboxCmd := BitVec.ofNat 64 (2 ^ 63 + op * 2 ^ 40 + arg.toNat * 2 ^ 32 + tag.toNat), mboxPayload := payload } }

/-- A measurement register after it was extended by d (21 R456). -/
def extendedMr (old d : BitVec 256) : BitVec 256 := sha256 64 (old.toNat + 2 ^ 256 * d.toNat)

/-- A byte that a spilled version may occupy: of an extent, or of the index entry that a version names (05 R153). -/
def spillByte (s : State) (p : Nat) : Prop :=
  ∃ n q, s.part? n = some q ∧ ∃ e ∈ q.extents, (e.base ≤ p ∧ p < e.base + e.size) ∨
    ∃ kv ∈ s.versions, ∃ v k m, kv.2 = some v ∧ v.spill = some (k, m) ∧ e.entryAt m ≤ p ∧ p < e.entryAt m + 8

/-- Root memory is unchanged, but for versions that leave the LLC for the spill area or come back (05 R153, R154). -/
def KeepsHbm (s t : State) : Prop := ∀ p, ¬spillByte s p → t.hbm.byte p = s.hbm.byte p

/-- A byte of root memory after bytes of a line are written at their home. -/
def mergedByte (line : Nat) (x : LineBytes) (old : Nat → Byte) (p : Nat) : Byte :=
  if p / 128 = line ∧ x.mask.getLsbD (p % 128) then x.data.extractLsb' (8 * (p % 128)) 8 else old p

/-- The state after an event that waits: it is delivered again. -/
def Waits (i : Instr) (s : State) : Prop := Occurs i s (s.post i)

/-- A chain has reached an entry of a type, which may run (13 R364, R370). -/
structure ChainReady (core n type : Nat) (x : ChainAt) (e : Entry) (s : State) : Prop where
  at_ : x.core = core ∧ x.n = n
  chain : (s.core core).chains.get none n = some x.h
  team : s.team? x.h.g = some x.t
  going : x.h.stopped = false
  entry : x.entry s = .inl e
  type_ : e.type = type
  order : e.head.getLsbD 8 = true → (s.core core).chainBusy n = false
  ready : s.issueDone x.h.g x.h.after x.h.since = true

/-- The chain goes on at an offset. -/
def chainOn (core n type off : Nat) (s : State) : State :=
  (s.modChain core n fun h => { h with off := off, executed := h.executed + 1 }).post (chainEvent core n type)

/-- The value of a cell of a product word's tile: the sum of its products over the start value, as many bits as the cell has (08 R219, R220,
12 R323). -/
def Product.value (p : Product) (k : Core) (i j : Nat) : Nat :=
  let start := if p.new then 0 else k.cell p.t (p.t.row0 + i) j
  (if p.t.cell = 1 then (fxSum start (p.terms i j)).1 else chunkedSum p.t.fmt start (p.terms i j)) % 2 ^ (32 * p.t.w)

/-- The packet of an event stands at the head of its queue, which may give it (14 R383, R386). -/
structure PacketAt (part q : Nat) (e : Instr) (p : Part) (x : BitVec 512) (s : State) : Prop where
  part_ : s.part? part = some p
  going : p.resetting = false
  queue : q < 16
  may : (p.lq q).mayTake = true
  packet : s.headPacket p q = x
  event : packetEvent part q x = e

/-- A packet has bits only in its header's TYPE and TAG and in the listed fields (14 R385). -/
def fieldsOnly (x : BitVec 512) (fs : List (Nat × Nat)) : Prop := onlyFields x (fs ++ [(0, 8), (32, 32)]) = true

/-- The registers of a queue as the host and Chihoat see them. -/
def State.queueRegs (s : State) (part q : Nat) : Option LQueue := (s.part? part).map fun p => p.lq q

/-- The result of a slot command (14 R390). -/
def slotAnswer (op res slot : Nat) : DWord := BitVec.ofNat 64 (res * 2 ^ 60 + op * 2 ^ 7 + slot % 128)

/-- The record that SLOTSRC of a core names (14 R390). -/
def State.recordAt (s : State) (core : Nat) : BitVec 1024 :=
  BitVec.ofNat 1024 (s.hbm.read 128 ((s.core core).slotSrc.extractLsb' 0 56).toNat)

/-- A collective command of a communicator is under way and has no status yet (16 R431). -/
structure CommAt (i : Nat) (c : Comm) (x : BitVec 512) (s : State) : Prop where
  comm : s.comm? i = some c
  cmd : c.cmd = some x
  going : c.result = none
  whole : s.commBroken c = false

/-- The value of node [lo, lo + 2^j) of the slot tree over the slots' values; none is EMPTY (16 R433). -/
def slotTree (op : Nat) (slot : Nat → Option Word) : (j lo : Nat) → Option Word
  | 0, lo => slot lo
  | j + 1, lo => commCombine op (slotTree op slot j lo) (slotTree op slot j (lo + 2 ^ j))

/-- Nothing but the table of partitions has changed. -/
def OnlyParts (s t : State) : Prop := { t with parts := s.parts, note := s.note } = s

/-- Lanes in the order of `regroup`: key, then logical identity (07 R198). -/
def keyOrder (a b : KeyedLane) : Prop := a.key < b.key ∨ (a.key = b.key ∧ a.id ≤ b.id)

/-- The live lanes that stand at `regroup`, with their keys and identities. -/
def keyedLanes (t : Team) : List KeyedLane :=
  t.arrived.flatMap fun g => ((t.group? g).map fun x => (lanesOf x.live).map fun l =>
    (⟨t.regroupKeys.get 0 (32 * g + l) - 1, x.lidOf g l⟩ : KeyedLane)).getD []

/-- A group's push and the queue that it is sent to. -/
structure PushAt (g : GroupRef) (x : Group) (p : Push) (q : QDesc) (s : State) : Prop where
  group : s.group? g = some x
  push : x.push = some p
  open_ : p.answer = none
  queue : (s.core p.core).queue? p.qn = some q

/-- The owner of a queue takes elements: it is not being saved (02 R65). -/
def ownerTakes (c : Nat) (q : QDesc) (s : State) : Prop :=
  ∀ t, (s.core c).team? q.owner = some t → t.save = .none ∨ t.save = .draining

/-- Every byte memory is in its canonical form. -/
structure State.Canonical (s : State) : Prop where
  hbm : s.hbm.wf = true
  hostMem : s.hostMem.wf = true
  remote : s.remote.wf = true
  scratch : ∀ c, (s.core c).scratch.wf = true
  ob : ∀ c, (s.core c).ob.wf = true

/-- Group g moves next, and its current entry lies at a word that it can fetch. -/
structure NextWord (s : State) (g : GroupRef) (s0 : State) (v : Env) (w : Word) : Prop where
  moves : s.mover = some (.group g)
  state : s0 = (s.moving (.group g)).issuing g
  env : s0.env = some v
  open_ : s0.fetchStop (dieOf g.core) v.part v.pc = none
  word : s0.codeWord v.part v.pc = some w
  whole : v.e.tail = false

end Sys2Proof.Machine
end

