-- ==== Sys2Proof/WellFormed.lean ====
section
/-! DEFINITION. When an instruction is well formed: the values of its fields are those that its form and its description allow
(09 R237, R242). An event has no encoding and is always well formed. -/

namespace Sys2Proof

/-- Every field holds a value that the word's encoding allows, so that the word alone is no illegal instruction (09 R242). -/
def Instr.wellFormed (i : Instr) : Bool :=
  match i.use .plain with
  | none => true
  | some u => u.encodingOk

end Sys2Proof
end

