-- ==== Sys2Proof/Certificates/Slice0/Obligations.lean ====
section
/-! DEFINITION. The statements for the provers. -/

open Sys2Proof Sys2Proof.Machine

/-- 10 R251, R253, R254: every INT word but the two with a carry, every INTI word and every INTD word writes its result in the active lanes
of its destination, and nothing else. -/
def Obligations.IntegerWords : Prop :=
  (∀ p ∈ intWords, ∀ c d a b, Completes (p.1 c d a b) (useAbd c d a b) always fun v _ =>
    .lanes v.em d fun l => p.2.value (v.src a l) (v.src b l)) ∧
  (∀ p ∈ immWords, ∀ c d a imm, Completes (p.1 c d a imm) (useAd c d a) always fun v _ =>
    .lanes v.em d fun l => p.2.value (v.src a l) (BitVec.ofInt 32 imm.toInt)) ∧
  (∀ p ∈ countWords, ∀ c d a k, Completes (p.1 c d a k) (useAd c d a) always fun v _ =>
    .lanes v.em d fun l => p.2.value (v.src a l) (BitVec.ofNat 32 k.toNat)) ∧
  ∀ p ∈ pairWords, ∀ c d a b, Completes (p.1 c d a b) (useAbd2 c d a b) always fun v _ =>
    .pair v.em d fun l => p.2.value (v.src2 a l) (v.src2 b l)

/-- 10 R265 to R267: every uniform word of two operands, `smov`, the two compares, `vote`, `smovv` and the uniform immediates write one
uniform register, and nothing else. -/
def Obligations.UniformWords : Prop :=
  (∀ c d a, Completes (.vote c d a) (useVote c d a) always fun v _ =>
    .uni d ((v.em &&& v.grp.pget a.toNat).setWidth 64)) ∧
  (∀ c d a b, Completes (.smovv c d a b) (useSmovv c d a b) always fun v _ =>
    .uni d ((v.team.vget v.r.grp a.toNat ((v.usrc b).extractLsb' 0 5).toNat).setWidth 64)) ∧
  (∀ c d imm, Completes (.smovi c d imm) (useUd c d) always fun _ _ => .uni d (BitVec.ofInt 64 imm.toInt)) ∧
  (∀ c d imm, Completes (.smovx c d imm) (useUd c d) always fun v _ =>
    .uni d (BitVec.ofNat 64 ((v.grp.sget d.toNat).toNat * 2 ^ 17 + imm.toNat))) ∧
  (∀ p ∈ uniWords, ∀ c d a b, Completes (p.1 c d a b) (useUabd c d a b) always fun v _ =>
    .uni d (p.2.value (v.usrc a) (v.usrc b))) ∧
  (∀ c d a, Completes (.smov c d a) (useUad c d a) always fun v _ => .uni d (v.usrc a)) ∧
  (∀ c d a b, Completes (.scmplt c d a b) (useUabd c d a b) always fun v _ =>
    .uni d (if (v.usrc a).toInt < (v.usrc b).toInt then 1 else 0)) ∧
  ∀ c d a b, Completes (.scmpeq c d a b) (useUabd c d a b) always fun v _ =>
    .uni d (if (v.usrc a).toNat = (v.usrc b).toNat then 1 else 0)

/-- 10 R252: `addc` and `subb` take p7 as carry and borrow, and write the result and p7 in the active lanes, and nothing else; each names p7 as
a destination; a chain of which two words do so is an illegal-instruction trap; p7 is zero at bind. -/
def Obligations.CarryWords : Prop :=
  (∀ c d a b, Completes (.addc c d a b) (useCarry c d a b) always fun v _ =>
    let t := fun l => (v.src a l).toNat + (v.src b l).toNat + if (v.grp.pget 7).getLsbD l then 1 else 0
    { v := fun n l => if n = d.toNat ∧ v.em.getLsbD l then some (BitVec.ofNat 32 (t l)) else none
      p := fun n l => if n = 7 ∧ v.em.getLsbD l then some ((t l).testBit 32) else none }) ∧
  (∀ c d a b, Completes (.subb c d a b) (useCarry c d a b) always fun v _ =>
    let t : Nat → Int := fun l => (v.src a l).toNat - (v.src b l).toNat - if (v.grp.pget 7).getLsbD l then 1 else 0
    { v := fun n l => if n = d.toNat ∧ v.em.getLsbD l then some (BitVec.ofInt 32 (t l)) else none
      p := fun n l => if n = 7 ∧ v.em.getLsbD l then some (decide (t l < 0)) else none }) ∧
  (∀ (c : BitVec 1) (d a b : BitVec 7) (k : UseCtx), ∀ i ∈ [Instr.addc c d a b, .subb c d a b],
    ∃ u, i.use k = some u ∧ (.p, 7) ∈ u.dests) ∧
  (∀ (s : State) g s0 v ws is (m n : Nat) (i j : Instr) (u x : Use), s.mover = some (.group g) → s0 = (s.moving (.group g)).issuing g → s0.env = some v →
    s0.fetchChain (dieOf g.core) v.part v.pc = .words ws → decodeAll ws = some is → m ≠ n → is[m]? = some i → is[n]? = some j →
    i.use (s0.useCtx v) = some u → (.p, 7) ∈ u.dests → j.use (s0.useCtx v) = some x → (.p, 7) ∈ x.dests →
    step s = .next { s0.takeTrap v.r (.atIssue 0 (refusedCause v ws)) ⟨v.e, v.em, 0, v.pc, v.pc + 4 * ws.length, false, none⟩ with
      note := .performed, cycle := s.cycle + 1 }) ∧
  ∀ b g n, (BindRec.freshGroup b g n).pget 7 = 0

/-- 10 R255: every BITS word but `prmt` writes its result in the active lanes of its destination, and nothing else. -/
def Obligations.BitWords : Prop :=
  (∀ p ∈ bitWords1, ∀ c d a, Completes (p.1 c d a) (useAd c d a) always fun v _ => .lanes v.em d fun l => p.2 (v.src a l)) ∧
  (∀ p ∈ bitWords2, ∀ c d a b, Completes (p.1 c d a b) (useAbd c d a b) always fun v _ =>
    .lanes v.em d fun l => p.2 (v.src a l) (v.src b l)) ∧
  ∀ p ∈ bitWords3, ∀ c d a b, Completes (p.1 c d a b) (useAbd c d a b) always fun v _ =>
    .lanes v.em d fun l => p.2 (v.src d l) (v.src a l) (v.src b l)

/-- 10 R256: byte i of `prmt` is the byte of the pool that bits [4i+2:4i] of the old destination name, or its sign where bit 4i+3 is one. -/
def Obligations.PrmtSelectsBytes : Prop :=
  ∀ c d a b, Completes (.prmt c d a b) (useAbd c d a b) always fun v _ =>
    .lanes v.em d fun l => wordOf fun k =>
      let sel := v.src d l
      let n := (sel.extractLsb' (4 * (k / 8)) 3).toNat
      let bit := fun j => if n < 4 then (v.src a l).getLsbD (8 * n + j) else (v.src b l).getLsbD (8 * (n - 4) + j)
      if sel.getLsbD (4 * (k / 8) + 3) then bit 7 else bit (k % 8)

/-- 10 R261: an integer compare combines its condition with the old predicate in the active lanes, and writes nothing else. -/
def Obligations.IntegerCompares : Prop :=
  ∀ p ∈ cmpIntWords, ∀ c pd k t a b, Completes (p.1 c pd k t a b) (useCmpInt c pd t a b k) always fun v _ =>
    .pred v.em pd fun l =>
      let cond := if t = 1 then p.2.2 (readInt p.2.1 (v.src2 a l)) (readInt p.2.1 (v.src2 b l))
        else p.2.2 (readInt p.2.1 (v.src a l)) (readInt p.2.1 (v.src b l))
      underPc k cond ((v.grp.pget pd.toNat).getLsbD l)

/-- 10 R257, R258, R261, 08 R216: where no enabled flag is raised, every FLT and FMA word writes its destination, its flags and, under rsk,
its draws, every float compare its predicate and its flags, and nothing else. -/
def Obligations.FloatWords : Prop :=
  (∀ p ∈ cmpFloatWords, ∀ c pd k t a b, Completes (p.1 c pd k t a b) (useCmp c pd t a b k)
    (noFlagTrap fun v s => cmpFloatLane p.2 pd k t a b v (drawGroup v s)) fun v s =>
      .ofLanes v.em (s.ctrReg v.r) (cmpFloatLane p.2 pd k t a b v (drawGroup v s))) ∧
  (∀ p ∈ fltWords, ∀ c t d a b, Completes (p.1 c t d a b) (useT c t d a b)
    (noFlagTrap fun v s => fltLane p.2 t d a b v (drawGroup v s)) fun v s =>
      .ofLanes v.em (s.ctrReg v.r) (fltLane p.2 t d a b v (drawGroup v s))) ∧
  (∀ c t d a b, Completes (.fdiv c t d a b) (useDiv c t d a b)
    (noFlagTrap fun v s => fltLane .fdiv t d a b v (drawGroup v s)) fun v s =>
      .ofLanes v.em (s.ctrReg v.r) (fltLane .fdiv t d a b v (drawGroup v s))) ∧
  ∀ p ∈ fmaWords, ∀ c t d a b, Completes (p.1 c t d a b) (useT c t d a b)
    (noFlagTrap fun v s => fmaLane p.2.1 p.2.2 t d a b v (drawGroup v s)) fun v s =>
      .ofLanes v.em (s.ctrReg v.r) (fmaLane p.2.1 p.2.2 t d a b v (drawGroup v s))

/-- 10 R259, R260, 08 R216: where no enabled flag is raised, `cvt` and the special functions write their destination, their flags and, for
`cvt` under rsk, their draws, and nothing else. -/
def Obligations.ConversionWords : Prop :=
  (∀ c t d a f m, Completes (.cvt c t d a f m) (useCvt c t d a f m)
    (noFlagTrap fun v s => cvtLane t d a f m v (drawGroup v s)) fun v s =>
      .ofLanes v.em (s.ctrReg v.r) (cvtLane t d a f m v (drawGroup v s))) ∧
  ∀ p ∈ specialWords, ∀ c t d a m, Completes (p.1 c t d a m) (useSpecial c t d a m)
    (noFlagTrap fun v s => specialLane p.2 t d a m v (drawGroup v s)) fun v s =>
      .ofLanes v.em (s.ctrReg v.r) (specialLane p.2 t d a m v (drawGroup v s))

/-- 10 R262, R263, R264, R267: the vector moves write their destination in the active lanes, and nothing else. -/
def Obligations.MoveWords : Prop :=
  (∀ c d a, Completes (.mov c d a) (useAd c d a) always fun v _ => .lanes v.em d (v.src a)) ∧
  (∀ c n d a b, Completes (.sel c n d a b) (useSel c n d a b) always fun v _ =>
    .lanes v.em d fun l => if (v.grp.pget n.toNat).getLsbD l then v.src a l else v.src b l) ∧
  (∀ c d, Completes (.lid c d) (useD c d) always fun v _ => .lanes v.em d fun l => BitVec.ofNat 32 (v.grp.lidOf v.r.grp l)) ∧
  (∀ c d k, Completes (.gidx c d k) (useGidx c d k) always fun v s =>
    .lanes v.em d fun l => BitVec.ofNat 32 (gidxValue v s k.toNat l)) ∧
  (∀ c d a, Completes (.bcast c d a) (useAd c d a) always fun v _ => .lanes v.em d fun _ => v.src a (lowestLane v.em)) ∧
  (∀ c d, Completes (.movpGet c d) (useD c d) always fun v _ =>
    .lanes v.em d fun l => wordOf fun n => decide (n < 8) && (v.grp.pget n).getLsbD l) ∧
  (∀ c d imm, Completes (.movi c d imm) (useD c d) always fun v _ => .lanes v.em d fun _ => BitVec.ofInt 32 imm.toInt) ∧
  ∀ c d imm, Completes (.movx c d imm) (useD c d) always fun v _ =>
    .lanes v.em d fun l => BitVec.ofNat 32 ((v.src d l).toNat * 2 ^ 17 + imm.toNat)

/-- 10 R262, R264: the predicate words write one predicate in the active lanes and `movp.set` p1 to p7, and nothing else. -/
def Obligations.PredicateWords : Prop :=
  (∀ c d a b, Completes (.pand c d a b) (useP c d [a, b]) always fun v _ =>
    .pred v.em d fun l => (v.grp.pget a.toNat).getLsbD l && (v.grp.pget b.toNat).getLsbD l) ∧
  (∀ c d a b, Completes (.por c d a b) (useP c d [a, b]) always fun v _ =>
    .pred v.em d fun l => (v.grp.pget a.toNat).getLsbD l || (v.grp.pget b.toNat).getLsbD l) ∧
  (∀ c d a b, Completes (.pxor c d a b) (useP c d [a, b]) always fun v _ =>
    .pred v.em d fun l => xor ((v.grp.pget a.toNat).getLsbD l) ((v.grp.pget b.toNat).getLsbD l)) ∧
  (∀ c d a, Completes (.pnot c d a) (useP c d [a]) always fun v _ => .pred v.em d fun l => !(v.grp.pget a.toNat).getLsbD l) ∧
  ∀ c a, Completes (.movpSet c a) (useMovpSet c a) always fun v _ =>
    { p := fun n l => if 1 ≤ n ∧ n ≤ 7 ∧ v.em.getLsbD l then some ((v.src a l).getLsbD n) else none }

/-- 11 R290, R291, R292: the shuffles, the integer scans and the integer reductions write their destination in the active lanes, and nothing
else; `perm` does so where no write to A's block is pending and no word that it reads is poisoned, and else issues with its fret counted and
reads later. -/
def Obligations.CrossLaneWords : Prop :=
  (∀ c d a b, Completes (.shfl c d a b) (useAbd c d a b) always fun v _ =>
    .lanes v.em d fun l => fromLane v a l ((v.src b l).extractLsb' 0 5).toNat) ∧
  (∀ c d a (k : BitVec 5), Completes (.shflUp c d a k) (useAd c d a) always fun v _ =>
    .lanes v.em d fun l => fromLane v a l ((l : Int) - k.toNat)) ∧
  (∀ c d a (k : BitVec 5), Completes (.shflDn c d a k) (useAd c d a) always fun v _ =>
    .lanes v.em d fun l => fromLane v a l ((l : Int) + k.toNat)) ∧
  (∀ c d a (k : BitVec 5), Completes (.shflXor c d a k) (useAd c d a) always fun v _ =>
    .lanes v.em d fun l => fromLane v a l ((l ^^^ k.toNat : Nat) : Int)) ∧
  (∀ c d a b, Completes (.perm c d a b) (usePerm c d a b)
    (fun v s => (∀ n ∈ (liveGroup v s).pendingRegs, n.1 = .v → ¬ blockEnd n.2 = blockEnd a.toNat) ∧ v.grp.psnLines = []) fun v _ =>
    .lanes v.em d fun l =>
      let g := a.toNat + ((v.src b l).extractLsb' 5 5).toNat
      if g < blockEnd a.toNat then v.team.vget v.r.grp g ((v.src b l).extractLsb' 0 5).toNat else 0) ∧
  (∀ c d a b, Does (.perm c d a b) (usePerm c d a b)
    (fun v s => ∃ n ∈ (liveGroup v s).log.flatMap LogEntry.writes, n.1 = .v ∧ blockEnd n.2 = blockEnd a.toNat) fun v s =>
    (s.fretUp v.r (s.fretOf v .a)).modGroup v.r fun x =>
      { x with nextLog := x.nextLog + 1, perms := x.perms ++ [permOf d a b v (liveGroup v s) (s.fretOf v .a)] }) ∧
  (∀ c d a, Completes (.scanAdd c d a) (useAd c d a) always fun v _ =>
    .lanes v.em d fun l => BitVec.ofNat 32 (exactSum v a fun j => decide (j ≤ l))) ∧
  (∀ c d a, Completes (.scanAddx c d a) (useAd c d a) always fun v _ =>
    .lanes v.em d fun l => BitVec.ofNat 32 (exactSum v a fun j => decide (j < l))) ∧
  (∀ c d a, Completes (.rdcAdd c d a 0) (useAd c d a) always fun v _ =>
    .lanes v.em d fun _ => BitVec.ofNat 32 (exactSum v a fun _ => true)) ∧
  (∀ c d a (t : BitVec 2), t = 0 ∨ t = 1 → Completes (.rdcMin c d a t) { useAd c d a with legal := decide (t.toNat < 3) } always fun v _ =>
    .lanes v.em d fun _ => (activeValues v a).tail.foldl (if t = 0 then IntOp.value .min else IntOp.value .minu) ((activeValues v a).headD 0)) ∧
  ∀ c d a (t : BitVec 2), t = 0 ∨ t = 1 → Completes (.rdcMax c d a t) { useAd c d a with legal := decide (t.toNat < 3) } always fun v _ =>
    .lanes v.em d fun _ => (activeValues v a).tail.foldl (if t = 0 then IntOp.value .max else IntOp.value .maxu) ((activeValues v a).headD 0)

/-- 11 R292 to R295, 08 R216: where no enabled flag is raised, the row words and the f32 sums, minima and maxima write what the rules give,
and nothing else. -/
def Obligations.RowWords : Prop :=
  (∀ c d a p, Completes (.rbal c d a p) (useRbal c d a p) (fun v _ => exactSum v a (fun _ => true) < 2 ^ 32) fun v _ =>
    let on := fun l => v.em.getLsbD l && (v.grp.pget p.toNat).getLsbD l
    let w := fun l => (v.team.vget v.r.grp d.toNat l).toNat
    let hit := fun l => on l && decide (w l < exactSum v a fun _ => true)
    { v := fun n l => if hit l = false then none
        else if n = d.toNat then some (BitVec.ofNat 32 (rowHolding v a (w l)))
        else if n = d.toNat + 1 then some (BitVec.ofNat 32 (w l - rowsBefore v a (rowHolding v a (w l)))) else none
      p := fun n l => if n = p.toNat ∧ n ≠ 0 ∧ on l ∧ hit l = false then some false else none }) ∧
  (∀ c d a p, Completes (.rbal c d a p) (useRbal c d a p) (fun v _ => 2 ^ 32 ≤ exactSum v a fun _ => true) fun v _ =>
    { p := fun n l => if n = p.toNat ∧ n ≠ 0 ∧ v.em.getLsbD l then some false else none
      status := 0x100 }) ∧
  (∀ c d a p, Completes (.cmpx c d a p) (useCmpx c d a p) always fun v _ =>
    let on := (v.grp.pget p.toNat).getLsbD
    let gone := fun l => packOver on (fun j => (v.src a j).toNat) (packBefore v on a l) l
    { v := fun n l => if n = d.toNat ∧ v.em.getLsbD l ∧ gone l = false then some (BitVec.ofNat 32 (packBefore v on a l)) else none
      p := fun n l => if n = p.toNat ∧ n ≠ 0 ∧ v.em.getLsbD l ∧ gone l then some false else none
      status := if (lanesOf v.em).any gone then 0x100 else 0 }) ∧
  (∀ c d a, Completes (.scanFadd c d a) (useAd c d a) (fun v s => (f32Sum d a v s (v.e.kept.map BitVec.toNat)).stop.isNone) fun v s =>
    .ofLanes v.em (s.ctrReg v.r) (f32Sum d a v s (v.e.kept.map BitVec.toNat)).out) ∧
  (∀ c d a, Completes (.rdcAdd c d a 1) (useAd c d a) (fun v s => (f32Sum d a v s none).stop.isNone) fun v s =>
    .ofLanes v.em (s.ctrReg v.r) fun l =>
      { (f32Sum d a v s none).out l with regs := [(d.toNat, BitVec.ofNat 32 ((f32Sum d a v s none).acc.getD 0))] }) ∧
  (∀ c d a, Completes (.rdcMin c d a 2) (useAd c d a) (fun v _ => trapsUnder v.team.bind.mode (f32Least .fmin v a).2 = false) fun v _ =>
    { Writes.lanes v.em d (fun _ => BitVec.ofNat 32 (f32Least .fmin v a).1) with status := (f32Least .fmin v a).2.bits }) ∧
  ∀ c d a, Completes (.rdcMax c d a 2) (useAd c d a) (fun v _ => trapsUnder v.team.bind.mode (f32Least .fmax v a).2 = false) fun v _ =>
    { Writes.lanes v.em d (fun _ => BitVec.ofNat 32 (f32Least .fmax v a).1) with status := (f32Least .fmax v a).2.bits }

/-- 08 R217, 13 R380, R381: the random words take one draw in each active lane, `skey` and `sctr` write KEY and CTR, and nothing else
changes. -/
def Obligations.RandomWords : Prop :=
  (∀ c d, Completes (.rng c d) (useD c d) always fun v s =>
    .drawn v s (.lanes v.em d fun l => (nextDraw v s l).extractLsb' 0 32)) ∧
  (∀ c d, Completes (.rngD c d) { c := c, ops := [.vd2 d] } always fun v s => .drawn v s (.pair v.em d (nextDraw v s))) ∧
  (∀ c d, Completes (.rngf c d) (useD c d) always fun v s =>
    .drawn v s (.lanes v.em d fun l => drawFloat (nextDraw v s l))) ∧
  (∀ c a, Completes (.skey c a) { c := c, ops := [.vs2 a, .key] } always fun v _ =>
    { key := fun l => if v.em.getLsbD l then some (v.src2 a l) else none }) ∧
  ∀ c a, Completes (.sctr c a) { c := c, ops := [.vs2 a, .ctr] } always fun v _ =>
    { ctr := fun l => if v.em.getLsbD l then some (v.src2 a l) else none }

/-- 10 R268 to R271: the branches, `call`, `ret`, `brx`, `nop`, `yield` and an `exit` of lanes of the root send the lanes of the entry where
the rules say; `call` writes s63, `exit` marks its lanes, and nothing else of the machine changes. -/
def Obligations.ControlFlow : Prop :=
  (∀ p o, Jumps (.jmp p o) (useBranch o []) always (fun v => goTo v o v.em p) same) ∧
  (∀ n p o, Jumps (.bt n p o) (useBranch o [n]) always (fun v => goTo v o (v.em &&& v.grp.pget n.toNat) p) same) ∧
  (∀ n p o, Jumps (.bf n p o) (useBranch o [n]) always (fun v => goTo v o (v.em &&& ~~~v.grp.pget n.toNat) p) same) ∧
  (∀ n p o, Jumps (.bany n p o) (useBranch o [n]) always
    (fun v => goTo v o (if (lanesOf v.em).any fun l => (v.grp.pget n.toNat).getLsbD l then v.em else 0) p) same) ∧
  (∀ n p o, Jumps (.ball n p o) (useBranch o [n]) always
    (fun v => goTo v o (if (lanesOf v.em).all fun l => (v.grp.pget n.toNat).getLsbD l then v.em else 0) p) same) ∧
  (∀ p o, Jumps (.call p o) { useBranch o [] with ops := [.ud 63] } always (fun v => goTo v o v.em p) fun v x =>
    x.sset 63 (BitVec.ofNat 64 (v.e.pri.toNat * 2 ^ 56 + (v.pc / 12 * 12 + 12)))) ∧
  (Jumps .ret { c := 0, ops := [.us 63] }
    (fun v _ => ((v.grp.sget 63).extractLsb' 0 56).toNat % 12 = 0 ∧ (v.grp.sget 63).extractLsb' 62 2 = 0)
    (fun v => [{ pc := ((v.grp.sget 63).extractLsb' 0 56).toNat, lanes := v.em, pri := (v.grp.sget 63).extractLsb' 56 6, due := true },
               { pc := v.pc + 4, lanes := v.e.mask &&& ~~~v.em, pri := v.e.pri }]) same) ∧
  (∀ a p, Jumps (.brx a p) { c := 0, ops := [.vs a], legal := decide (p.toNat < 64), once := true }
    (fun v _ => ∀ l, v.em.getLsbD l = true → brxTarget v a l % 12 = 0)
    (fun v => (((lanesOf v.em).foldl (fun ts l => insertSorted (brxTarget v a l) ts) []).map fun u =>
        { pc := u, lanes := maskOf fun l => v.em.getLsbD l && brxTarget v a l = u, pri := p.setWidth 6, due := true }) ++
      [{ pc := v.pc + 4, lanes := v.e.mask &&& ~~~v.em, pri := v.e.pri }]) same) ∧
  (Jumps .nop { c := 0, ops := [] } always (fun v => [{ pc := v.pc + 4, lanes := v.e.mask, pri := v.e.pri }]) same) ∧
  (Jumps .yield { c := 0, ops := [] } always (fun v => [{ pc := v.pc + 4, lanes := v.e.mask, pri := v.e.pri, deferred := true }]) same) ∧
  Jumps .exit { c := 0, ops := [] }
    (fun v s => v.grp.handler = none ∧ ∀ y, s.group? v.r = some y → y.aside = [] ∧ ∀ l, v.em.getLsbD l = true → y.hypOf l = 0)
    (fun v => [{ pc := v.pc + 4, lanes := v.e.mask &&& ~~~v.em, pri := v.e.pri }])
    fun v x => { x with exited := x.exited ||| v.em, idem := x.idem &&& ~~~(v.em.setWidth 64) }

/-- 07 R190: adding outcomes to entries at different addresses keeps the addresses different, sends every lane where its outcome says, and
leaves at most eight entries with the waiting ones. -/
def Obligations.FrontierUpdate : Prop :=
  ∀ hdr g n fs outs fs', (fs.map (·.pc)).Nodup → (∀ o ∈ outs, o.pc < 2 ^ 56) → fs.length + n ≤ 8 →
    addOutcs hdr g n fs outs = some fs' →
    (fs'.map (·.pc)).Nodup ∧ fs'.length + n ≤ 8 ∧ ∀ pc, lanesAt fs' pc = lanesAt fs pc ||| sentTo outs pc

/-- 10 R274, R275: `srd` reads the register that its A names, after the lanes have followed a confirmed hypothesis where that is HYP;
`swr` writes TRAPV whole and the six bits of STATUS; nothing else changes. -/
def Obligations.SystemRegisters : Prop :=
  (∀ c d a, a ≠ 6 → Completes (.srd c d a) (useSrd c d a) always fun v s =>
    if a = 7 then .pair v.em d (v.grp.keyOf ·) else if a = 8 then .pair v.em d (v.grp.ctrOf ·)
    else .uni d (groupReg v s a.toNat)) ∧
  (∀ c d s v, Issues (useSrd c d 6) s v → Room s v → ∃ t, exec (.srd c d 6) s = .next t ∧
    Wrote v.r (.lanes v.em d fun l => BitVec.ofNat 32 (((s.part? v.part).map fun p => p.follow (v.grp.hypOf l)).getD (v.grp.hypOf l)))
      (s.followLanes v.r v.part v.em) t) ∧
  (∀ c a, Does (.swr c 1 a) (useSwr c 1 a) always fun v s => s.modGroup v.r fun x => { x with trapv := v.usrc a }) ∧
  ∀ c a, Does (.swr c 3 a) (useSwr c 3 a) always fun v s => s.modGroup v.r fun x => { x with status := v.usrc a &&& 0x11F }

/-- 07 R196: `xacq` takes the lock of the extended block where it is free, keeps it where its group holds it, and else waits for it, `xtry`
says in its predicate whether it has it, `xrel` gives a lock that its group holds to the group that waits for it, or to none, once every
earlier word has read and written the block, and nothing else changes. -/
def Obligations.BlockLock : Prop :=
  (∀ c, Does (.xacq c) { c := c, ops := [] } (fun v s => liveHolder v s = none) fun v s =>
    s.modTeam v.r fun t => t.setHolder v.r.grp (some v.r.grp)) ∧
  (∀ c, Does (.xacq c) { c := c, ops := [] } (fun v s => liveHolder v s = some v.r.grp) fun _ s => s) ∧
  (∀ c, Holds (.xacq c) { c := c, ops := [] } (fun v s => ∃ h, liveHolder v s = some h ∧ h ≠ v.r.grp) fun v s =>
    s.modTeam v.r fun t => t.setWaiter v.r.grp) ∧
  (∀ c p, Does (.xtry c p) { c := c, ops := [.pd p] } (fun v s => liveHolder v s = none ∨ liveHolder v s = some v.r.grp) fun v s =>
    (s.modTeam v.r fun t => t.setHolder v.r.grp (some v.r.grp)).modGroup v.r fun x => x.pset p.toNat v.em (BitVec.allOnes 32)) ∧
  (∀ c p, Does (.xtry c p) { c := c, ops := [.pd p] } (fun v s => ∃ h, liveHolder v s = some h ∧ h ≠ v.r.grp) fun v s =>
    s.modGroup v.r fun x => x.pset p.toNat v.em 0) ∧
  (∀ c, Does (.xrel c) { c := c, ops := [] } (fun v s => liveHolder v s ≠ some v.r.grp) fun _ s => s) ∧
  ∀ c, Does (.xrel c) { c := c, ops := [] }
    (fun v s => liveHolder v s = some v.r.grp ∧ (∀ n ∈ (liveGroup v s).pendingRegs, n.1 = .v → n.2 < 32) ∧
      (∀ r ∈ (liveGroup v s).readRegs, r.2.1 < 32) ∧ ∀ p ∈ (liveGroup v s).perms, p.a < 32) fun v s =>
    s.modTeam v.r fun t =>
      let x := t.ext.get ⟨[], none, none⟩ (v.r.grp / 2)
      { t with ext := t.ext.set ⟨[], none, none⟩ (v.r.grp / 2) { x with holder := x.waiter, waiter := none } }

/-- 09 R229, R231, 07 R189: a clause header in its place, whose frets are clear and hold no status and whose guard is no pending predicate,
sets GMASK to the lanes in which its guard is false and goes on to the next word, and nothing else of the machine changes. -/
def Obligations.HeaderWord : Prop :=
  ∀ w a b g p n s v y z, s.env = some v → s.limit = none → s.group? v.r = some y → (y.handler = none → v.grp.handler = none) →
    v.pc % 12 = 0 → (a.toNat < 12 ∨ a = 15) → (b.toNat < 12 ∨ b = 15) → (g = 1 ∨ (p = 0 ∧ n = 0)) → fretsDone v.grp w.toNat →
    (g = 1 → (.p, p.toNat) ∉ v.grp.pendingRegs) →
    let gm := guardedOff v g p n
    let v' : Env := { v with e := { v.e with gmask := gm }, em := v.e.mask }
    let y' : Group := { y with handler := y.handler.map fun h => { h with entry := { h.entry with gmask := gm, due := false } } }
    advanced (s.headerAt v.part) v' [{ pc := v.pc + 4, lanes := v.e.mask, pri := v.e.pri }]
      (y'.retire { c := 0, ops := [.ps p], once := true } v.r.core) = some z →
    (z.frontier ≠ [] ∨ z.aside ≠ [] ∨ z.handler ≠ none) →
    exec (.hdr w a b g p n) s = .next { s.modGroup v.r (fun _ => z) with ofs := 0, note := .performed }

/-- 10 R272, R277, 07 R198: `ient` records its region where the frontier holds one entry with an empty GMASK and else clears V; `sleep` sets
its group aside until a later cycle; `regroup` of all live lanes records their keys and waits; nothing else changes. -/
def Obligations.GroupControl : Prop :=
  (Does .ient { c := 0, ops := [] }
    (fun v s => ∃ y e, s.group? v.r = some y ∧ y.handler = none ∧ y.frontier = [e] ∧ y.aside = [] ∧ e.gmask = 0) fun v s =>
    s.modGroup v.r fun x => { x with
      idem := idemOf v (x.frontier.headD v.e)
      idemKey := (lanesOf v.em).foldl (fun t l => t.set 0 l (v.grp.keyOf l)) x.idemKey
      idemCtr := (lanesOf v.em).foldl (fun t l => t.set 0 l (v.grp.ctrOf l)) x.idemCtr }) ∧
  (Does .ient { c := 0, ops := [] }
    (fun v s => ∃ y, s.group? v.r = some y ∧
      ¬(y.handler = none ∧ y.aside = [] ∧ y.frontier.length = 1 ∧ ∀ e ∈ y.frontier, e.gmask = 0)) fun v s =>
    s.modGroup v.r fun x => { x with idem := x.idem &&& 0x7FFF_FFFF_FFFF_FFFF }) ∧
  (∀ c a, Does (.sleep c a) { c := c, ops := [.us a] } (fun v _ => v.usrc a = 0) unchanged) ∧
  (∀ c a, Does (.sleep c a) { c := c, ops := [.us a] } (fun v _ => v.usrc a ≠ 0) fun v s =>
    (s.modGroup v.r fun x => { x with wait := .sleep (s.cycle + min (v.usrc a).toNat (2 ^ 24)) }).post (.sleepExpire v.r)) ∧
  ∀ a, Holds (.regroup a) { c := 0, ops := [.vs a], once := true }
    (fun v s => v.em = ~~~(liveGroup v s).exited ∧ s.released v 2 = true) fun v s =>
    ((s.modTeam v.r fun t =>
        { t with regroupKeys := keysAt v a t.regroupKeys }).modGroup v.r fun x =>
      { x with wait := .regroup, idem := x.idem &&& 0x7FFF_FFFF_FFFF_FFFF }).postOnce (.regroupComplete v.r.core v.r.slot)

/-- 04 R121, R122: a fence ends at issue and holds the later accesses that its halves name: with a release half still to come no store or
atomic goes on, with an acquire half still to come no access does, and a release alone holds no load; with nothing outstanding it holds
nothing; `fence.sc` from scope .dev also asks for the ticket, one request of a group at a time. -/
def Obligations.FenceWords : Prop :=
  (∀ c sc (f : BitVec 3), f.toNat < 3 → Does (.fence c sc f) (useFence c f) always fun v s => s.fenceFrom v sc.toNat f.toNat) ∧
  (∀ (s : State) (v : Env) (x : Group) (sc f : Nat), s.group? v.r = some x → f < 4 →
    let t := s.fenceFrom v sc f
    (f ≠ 1 → (∃ n ∈ x.ownLog, n.seq < x.nextLog) → t.orderHeld v true = true) ∧
    (f ≠ 2 → (∃ n ∈ x.ownLog, n.seq < x.nextLog ∧ n.op.returns = true) → t.orderHeld v false = true) ∧
    (f ≠ 2 → 5 ≤ sc → t.orderHeld v false = true) ∧
    (f = 2 → x.acquiring = false → t.orderHeld v false = false) ∧
    (sc < 5 → x.log = [] → x.fences = [] → t.group? v.r = some x) ∧
    (f = 2 → x.log = [] → x.fences = [] → s.dieQuiet (dieOf v.r.core) = true → t.group? v.r = some x) ∧
    t.hbm = s.hbm ∧ (t.core v.r.core).scratch = (s.core v.r.core).scratch ∧ (∀ n l, t.vreg v.r n l = s.vreg v.r n l) ∧
    ∀ d, (t.die d) = s.die d) ∧
  (∀ c (sc : BitVec 3), sc.toNat < 5 → Does (.fenceSc c sc) { c := c, ops := [], orph := .once, once := true } always
    fun v s => s.fenceFrom v sc.toNat 3) ∧
  (∀ c (sc : BitVec 3), 5 ≤ sc.toNat → Does (.fenceSc c sc) { c := c, ops := [], orph := .once, once := true }
    (fun v s => (liveGroup v s).ticket = 0) fun v s =>
    { ((s.modGroup v.r fun x => { x with ticket := 1 }).fenceFrom v sc.toNat 3).post .fenceScTicket with
      modl := { s.modl with ticketQueue := s.modl.ticketQueue ++ [v.r] } }) ∧
  ∀ c (sc : BitVec 3), 5 ≤ sc.toNat → Holds (.fenceSc c sc) { c := c, ops := [], orph := .once, once := true }
    (fun v s => (liveGroup v s).ticket ≠ 0) unchanged

/-- 02 R66 to R68, 11 R297, R298: the barrier words write their team's entry as the rules give it, `bar.wait` and `bar.sync` wait while their
phase is in progress, `bar.try` answers in its predicate, and nothing else changes. -/
def Obligations.BarrierWords : Prop :=
  (∀ c sc bid a, Does (.barInit c sc bid a) (useBar c [.us a])
    (fun v s => 1 ≤ (v.usrc a).toNat ∧ (v.usrc a).toNat ≤ 32 ∧ (v.usrc a).toNat ≤ v.team.bind.ngm1 + 1 ∧
      ∀ b, (s.core v.r.core).barrier? v.team.bind bid = some b → b.arrMask = 0 ∧ b.waiters = 0) fun v s =>
    s.setBarrier v { part := v.team.bind.part, launch := v.team.bind.launch, team := v.team.bind.team, bid := bid, dropMask := 0,
                     arrMask := 0, phase := 0, exp := (v.usrc a).setWidth 6, nextExp := (v.usrc a).setWidth 6, waiters := 0 }) ∧
  (∀ c sc bid, Does (.barArrive c sc bid) (useBar c [])
    (fun v s => soundBarrier v s bid ∧ s.released v (max sc.toNat 2) = true ∧ mayArrive v s bid) fun v s =>
    s.setBarrier v ((s.barrierOf v bid).afterArrival v.r.grp false)) ∧
  (∀ c sc bid, Does (.barDrop c sc bid) (useBar c [])
    (fun v s => soundBarrier v s bid ∧ s.released v (max sc.toNat 2) = true ∧ mayArrive v s bid) fun v s =>
    s.setBarrier v ((s.barrierOf v bid).afterArrival v.r.grp true)) ∧
  (∀ c sc bid, Does (.barWait c sc bid) (useBar c [])
    (fun v s => soundBarrier v s bid ∧ ¬mustWait v s bid ∧ acquired v (s.setBarrier v (s.barrierOf v bid)) (max sc.toNat 2)) fun v s =>
    sweepDone v (s.setBarrier v (s.barrierOf v bid)) (max sc.toNat 2)) ∧
  (∀ c sc bid, Holds (.barWait c sc bid) (useBar c [])
    (fun v s => soundBarrier v s bid ∧ mustWait v s bid ∧ (s.barrierOf v bid).waiters.getLsbD v.r.grp = false) fun v s =>
    s.setBarrier v { s.barrierOf v bid with waiters := (s.barrierOf v bid).waiters ||| oneLane v.r.grp }) ∧
  (∀ c sc bid, Holds (.barSync c sc bid) (useBar c [])
    (fun v s => (liveGroup v s).wait = .none ∧ soundBarrier v s bid ∧ s.released v (max sc.toNat 2) = true ∧ mayArrive v s bid) fun v s =>
    (s.setBarrier v ((s.barrierOf v bid).afterArrival v.r.grp false)).modGroup v.r fun x => { x with wait := .barSync bid }) ∧
  (∀ c sc bid, Does (.barSync c sc bid) (useBar c [])
    (fun v s => (liveGroup v s).wait = .barSync bid ∧ soundBarrier v s bid ∧ ¬mustWait v s bid ∧
      acquired v (s.setBarrier v (s.barrierOf v bid)) (max sc.toNat 2)) fun v s =>
    (sweepDone v (s.setBarrier v (s.barrierOf v bid)) (max sc.toNat 2)).modGroup v.r fun x => { x with wait := .none }) ∧
  (∀ c sc bid p, Does (.barTry c sc bid p) (useBar c [.pd p]) (fun v s => soundBarrier v s bid ∧ phaseOpen v s bid) fun v s =>
    s.modGroup v.r fun x => x.pset p.toNat v.em 0) ∧
  ∀ c sc bid p, Does (.barTry c sc bid p) (useBar c [.pd p])
    (fun v s => soundBarrier v s bid ∧ ¬phaseOpen v s bid ∧ acquired v (s.setBarrier v (s.barrierOf v bid)) (max sc.toNat 2)) fun v s =>
    (sweepDone v (s.setBarrier v (s.barrierOf v bid)) (max sc.toNat 2)).modGroup v.r fun x => x.pset p.toNat v.em (BitVec.allOnes 32)

/-- 11 R299, R300: an `msync` whose mask every active lane gives, none outside it, ends when every lane of it that has not exited has arrived
and releases the waiting entries, and else sets its entry aside; `fwait` ends when its frets are clear and hold no status. -/
def Obligations.LaneSyncWords : Prop :=
  (∀ c sc a m, Does (.msync c sc a) { c := c, ops := [.vs a], orph := .once }
    (fun v s => v.e.passed = 0 ∧ (∀ l, v.em.getLsbD l = true → v.src a l = m ∧ m.getLsbD l = true) ∧
      (∀ w ∈ (liveGroup v s).aside, w.mask = m) ∧ s.released v 1 = true ∧
      ∀ l, m.getLsbD l = true → (liveGroup v s).exited.getLsbD l = true ∨ v.em.getLsbD l = true ∨
        ∃ w ∈ (liveGroup v s).aside, w.lanes.getLsbD l = true) fun v s =>
    s.modGroup v.r fun x => x.msyncRelease (s.headerAt v.part)) ∧
  (∀ c sc a m l0, Holds (.msync c sc a) { c := c, ops := [.vs a], orph := .once }
    (fun v s => v.e.passed = 0 ∧ (∀ l, v.em.getLsbD l = true → v.src a l = m ∧ m.getLsbD l = true) ∧
      (∀ w ∈ (liveGroup v s).aside, w.mask = m) ∧ s.released v 1 = true ∧ (liveGroup v s).handler = none ∧
      m.getLsbD l0 = true ∧ (liveGroup v s).exited.getLsbD l0 = false ∧ v.em.getLsbD l0 = false ∧
        ∀ w ∈ (liveGroup v s).aside, w.lanes.getLsbD l0 = false) fun v s =>
    s.modGroup v.r fun x => x.setAside v.e m v.em (decide (c = 1) || s.snap.isSome)) ∧
  ∀ c sc f g, Does (.fwait c sc f g) (useBar c [])
    (fun v s => fretsDone (liveGroup v s) (f.toNat + 256 * g.toNat)) fun v s => s.closeBatch (dieOf v.r.core)

/-- 02 R69, R70, 11 R301 to R303: `sbar.init` arms an object of its own window, `sbar.arrive` of the named producer sets ARRIVED and tests the
object, `sbar.wait` ends when the object is complete or broken, or was so when it woke the group, and nothing else changes. -/
def Obligations.StageBarrierWords : Prop :=
  (∀ c sc a, Does (.sbarInit c sc a) { useBar c [.us a] with pin := true }
    (fun v s => stageIn s v.ownWin (v.usrc a) ∧ stageRow (v.usrc a) < v.team.shapeR ∧ stageCol (v.usrc a) < v.team.shapeC ∧
      (s.memberState v.team v.r.slot (stageRow (v.usrc a)) (stageCol (v.usrc a))).1 = 1 ∧ stageGrp (v.usrc a) ≤ v.team.bind.ngm1 ∧
      s.stageState v.r.core (v.team.bind.spbase + stageOff (v.usrc a)) ≠ 1 ∧ stageDue (v.usrc a) ≠ 0 ∧
      (v.usrc a).extractLsb' 48 16 = 0) fun v s =>
    s.armStage v.r ⟨s.memberCore v.team (stageRow (v.usrc a)) (stageCol (v.usrc a)),
      (s.memberState v.team v.r.slot (stageRow (v.usrc a)) (stageCol (v.usrc a))).2, stageGrp (v.usrc a)⟩
      (stageOff (v.usrc a)) (stageDue (v.usrc a))) ∧
  (∀ c sc a w, Does (.sbarArrive c sc a) { useBar c [.us a] with pin := true }
    (fun v s => stageIn s w (v.usrc a) ∧ stageRow (v.usrc a) < v.team.shapeR ∧ stageCol (v.usrc a) < v.team.shapeC ∧
      s.memberWin v.team v.r.slot (stageRow (v.usrc a)) (stageCol (v.usrc a)) = .here w ∧
      s.stageState w.core (w.bind.spbase + stageOff (v.usrc a)) = 1 ∧
      s.stageProducer w.core (w.bind.spbase + stageOff (v.usrc a)) = v.r ∧
      s.stageArrived w.core (w.bind.spbase + stageOff (v.usrc a)) = false ∧ s.released v 3 = true) fun v s =>
    let at_ := w.bind.spbase + stageOff (v.usrc a)
    (s.scratchWrite w.core 1 (at_ + 16) (s.scratchRead w.core 1 (at_ + 16) + 4)).testStage w.core w.slot (stageOff (v.usrc a))) ∧
  (∀ c sc a p, Does (.sbarWait c sc a p) (useBar c (if p = 0 then [.us a] else [.us a, .pd p]))
    (fun v s => stageIn s v.ownWin (v.usrc a) ∧ stageReached v s (v.usrc a) = 2 ∧ acquired v s 3) fun v s =>
    ((sweepDone v s 3).modGroup v.r fun x => { x with stageWait := none }).modGroup v.r fun x => x.pset p.toNat v.em (BitVec.allOnes 32)) ∧
  (∀ c sc a p, p ≠ 0 → Does (.sbarWait c sc a p) (useBar c (if p = 0 then [.us a] else [.us a, .pd p]))
    (fun v s => stageIn s v.ownWin (v.usrc a) ∧ stageReached v s (v.usrc a) = 3) fun v s =>
    (s.modGroup v.r fun x => { x with stageWait := none }).modGroup v.r fun x => x.pset p.toNat v.em 0) ∧
  ∀ c sc a p, Holds (.sbarWait c sc a p) (useBar c (if p = 0 then [.us a] else [.us a, .pd p]))
    (fun v s => stageIn s v.ownWin (v.usrc a) ∧ stageReached v s (v.usrc a) = 1 ∧
      (liveGroup v s).stageWait ≠ some (stageOff (v.usrc a), 0)) fun v s =>
    s.modGroup v.r fun x => { x with stageWait := some (stageOff (v.usrc a), 0) }

/-- 10 R271, 15 R400, R407: `trap` and `bkpt` take a trap of their class with their code at the lowest active lane, with every lane done;
inside a chain the trap is noted for the chain as a whole. -/
def Obligations.TrapWords : Prop :=
  ∀ (n : BitVec 7) (k : Instr × Nat), k ∈ [(Instr.trap n, 16), (.bkpt n, 17)] → ∀ s v, Issues { c := 0, ops := [], once := true } s v →
    let t : Trap := ⟨k.2, 0, none, 0, n.toNat, false, 0⟩
    (s.snap = none → exec k.1 s = .next
      { s.takeTrap v.r t ⟨v.entry s, v.em, v.em, v.pc, v.pc + 4, true, none⟩ with note := .performed, ofs := 0 }) ∧
    (s.snap ≠ none → exec k.1 s = .next { s with note := .stops 3 t })

/-- 15 R402, R403: a trap that is enabled and can be delivered holds its entry, makes the handler entry, sets LCUR, and, unless it breaks stage
barriers, leaves the frame of R403 in its group's bank. -/
def Obligations.TrapEntry : Prop :=
  ∀ (s : State) (r : GroupRef) (t : Trap) (p : TrapSite) (tm : Team) (x : Group), s.team? r = some tm → s.group? r = some x → x.handler = none → x.trapv.getLsbD (46 + t.cls) = true →
    s.deliverable tm x r.grp = true →
    let lane := t.lane.getD (lowestLane p.em)
    (∃ y h, (s.takeTrap r t p).group? r = some y ∧ y.handler = some h ∧ y.lcur = BitVec.ofNat 64 lane ∧
      y.frontier = dropEntry x.frontier p.e ∧ h.held = p.e ∧ h.after = BitVec.ofNat 56 p.after ∧ h.once = p.once ∧
      h.entry.pc = BitVec.ofNat 56 (tm.bind.entry + (x.trapv.extractLsb' 0 26).toNat) ∧ h.entry.mask = oneLane lane ∧
      h.entry.gmask = 0 ∧ h.entry.pri = 63) ∧
    (t.cls ≠ 12 → t.cls ≠ 15 → t.fretWait = false →
      let read := fun n o => (s.takeTrap r t p).scratchRead r.core n (frameAt tm x r.grp + o)
      read 8 0 = p.pc % 2 ^ 56 ∧ read 1 8 = t.cls % 256 ∧ read 1 9 = t.cause % 256 ∧ read 1 10 = t.code % 256 ∧
      read 1 11 = lane % 64 + 64 * (if 16 ≤ t.cls then 2 else 0) ∧
      read 4 12 = (match p.log with
        | none => 0
        | some n => 4 + n % 4) ∧
      read 4 16 = p.done.toNat ∧ read 4 20 = p.em.toNat ∧ read 8 24 = t.addr % 2 ^ 56 ∧ read 32 32 = 0)

/-- 15 R405, R416: a trap that is not enabled (an orphan aside), one in handler mode and one that cannot be delivered kill the team with status
1: every group of it has exited. -/
def Obligations.TrapKills : Prop :=
  ∀ (s : State) (r : GroupRef) (t : Trap) (p : TrapSite) (tm : Team) (x : Group), s.team? r = some tm → s.group? r = some x →
    ((x.handler = none ∧ x.trapv.getLsbD (46 + t.cls) = false ∧ t.cls ≠ 11) ∨ x.handler ≠ none ∨
      (x.handler = none ∧ x.trapv.getLsbD (46 + t.cls) = true ∧ s.deliverable tm x r.grp = false)) →
    (∀ g y, tm.group? g = some y → ∃ z, (s.takeTrap r t p).group? { r with grp := g } = some z ∧
      z.frontier = [] ∧ z.handler = none ∧ z.exited = BitVec.allOnes 32) ∧
    ∀ l, s.launch? tm.bind.launch = some l → l.status = 0 →
      ((s.takeTrap r t p).launch? tm.bind.launch).map (·.status) = some 1

/-- 15 R404: `tret` from a trap that no logged word raised ends handler mode and returns the held entry, with the lanes that the frame leaves
to do, or at the next word where none is left; nothing else of the machine changes. -/
def Obligations.TrapReturn : Prop :=
  ∀ (c : BitVec 1) (s : State) (v : Env) (y : Group) (h : Handler) (fs : List FEntry), Issues { c := c, ops := [] } s v → v.grp.handler ≠ none → s.team? v.r = some v.team → s.group? v.r = some y →
    y.handler = some h →
    let a := frameAt v.team y v.r.grp
    let w := s.scratchRead v.r.core 8 (a + 8)
    let resume := w / 2 ^ 30 % 4
    let lane := w / 2 ^ 24 % 64
    let rest := frameRest s v.r.core a resume lane h.once
    w.testBit 34 = false → resume ≠ 3 →
    returnEntry (s.headerAt v.part) y.aside.length y.frontier (resumed h rest) = some fs → fs ≠ [] →
    exec (.tret c) s = .next
      { (s.modGroup v.r fun x =>
          { x with handler := none, frontier := fs, lcur := if rest = 0 then 32 else BitVec.ofNat 64 (lowestLane rest) }).modGroup v.r
            (Group.retire { c := c, ops := [] } v.r.core) with
        ofs := if c = 1 then s.ofs + 1 else 0, note := .performed }

/-- 05 R138, 11 R314 to R316: `hnew` opens the lowest FREE id in each active lane, `hleave` goes back to the parent, `henter` of ids that are LIVE
goes there, `hcf` and `hrf` file their requests or answer at once, `hqry` reads entries, and nothing else changes. -/
def Obligations.HypothesisWords : Prop :=
  (∀ c d, Does (.hnew c d) { c := c, ops := [.vd d], cls := .a, result := true, orph := .lanes, pin := true } mayOpen fun v s =>
    (lanesOf v.em).foldl (openLane d v) s) ∧
  (∀ c a, Does (.henter c a) { c := c, ops := [.vs a], orph := .lanes }
    (fun v s => ∃ p, s.part? v.part = some p ∧
      ∀ l, v.em.getLsbD l = true → (v.src a l).toNat < 4096 ∧ (p.entry (v.src a l).toNat).live = true) fun v s =>
    (lanesOf v.em).foldl (fun s l => s.setHyp v.r v.part l (v.src a l).toNat) s) ∧
  (∀ c, Does (.hleave c) { c := c, ops := [], orph := .lanes } always fun v s => (lanesOf v.em).foldl (leaveLane v) s) ∧
  (∀ c d a (k : Instr × Bool), k ∈ [(Instr.hcf c d a, true), (.hrf c d a, false)] →
    Completes k.1 (useResolve c d a) (fun v _ => namesId v a = []) (fun v _ => .lanes v.em d fun _ => 2) ∧
    Does k.1 (useResolve c d a) (fun v _ => namesId v a ≠ []) (filed k.2 d a)) ∧
  ∀ c d a, Completes (.hqry c d a) { c := c, ops := [.vd2 d, .vs a], cls := .a, result := true, orph := .lanes }
    (fun v _ => ∀ l, v.em.getLsbD l = true → (v.src a l).toNat < 4096) fun v s =>
    .pair v.em d fun l =>
      let e := ((s.part? v.part).map fun p => p.entry (v.src a l).toNat).getD HypEntry.free
      e.state ++ e.depth ++ e.parent ++ e.nchild ++ 0#9 ++ e.refcnt

/-- 01 R31 to R34, 11 R280 to R288, 15 R408: an element or uniform load or store and an atomic whose lanes' addresses are good or suppressed
makes its accesses in the window it names, or goes into the operand log with its lines on their way, and nothing else changes. -/
def Obligations.MemoryWords : Prop :=
  (∀ c sc o d q x, ∀ p ∈ loadWords c sc o d q x, ∀ s v, Accesses p.1 p.2.1 (ldWord p.2.2.1 p.2.2.2 sc o d q x) s v) ∧
  (∀ c sc o d q x, ∀ p ∈ storeWords c sc o d q x, ∀ s v, Accesses p.1 p.2.1 (stWord p.2.2.1 sc o q x p.2.2.2) s v) ∧
  (∀ c sc o d q x s v, Accesses (.sld c sc o d q x) (useSld c d q x) (sldWord sc o d q x) s v) ∧
  (∀ c sc o d q x s v, Accesses (.sst c sc o d q x) (useSst c d q x) (sstWord sc o d q x) s v) ∧
  ∀ c sc o d q x, ∀ p ∈ atomWords c sc o d q x, ∀ s v,
    let ret := returning v s p.2.2.toNat
    Accesses p.1 (useAtom p.2.1 ret p.2.2.toNat c o d q x) (atomWord p.2.1 ret p.2.2 sc o d q x) s v

/-- 11 R281, R284, 01 R33: a load from a window writes in every active lane the bytes at its address, least significant first, extended to a
register as the word says, or zero where the access is suppressed, and nothing else but the sweep of an acquire. -/
def Obligations.WindowLoads : Prop :=
  (∀ c sc o d q x, ∀ p ∈ loadWords c sc o d q x, ∀ s v b w,
    let m := ldWord p.2.2.1 p.2.2.2 sc o d q x
    let s' := followed p.2.1 v s
    Issues p.2.1 s v → Room s v → ReachesWindow m v s' b w →
    ∃ t s1, exec p.1 s = .next t ∧ Ended v.r (afterLoad o sc v s1) t ∧
      Wrote v.r (.block d.toNat (max 1 (p.2.2.1 / 4)) v.em fun n l =>
        match m.at_ v s' b (some w) (if 96 ≤ x.toNat then lowestLane v.em else l) with
        | .ok a => extended p.2.2.1 p.2.2.2 (fun k => s'.scratchRead w.core k (w.bind.spbase + a + 4 * n))
        | _ => 0) s' { s1 with note := .performed }) ∧
  ∀ c sc o d q x s v b w,
    let m := sldWord sc o d q x
    let s' := followed (useSld c d q x) v s
    Issues (useSld c d q x) s v → Room s v → ReachesWindow m v s' b w →
    ∃ t s1, exec (.sld c sc o d q x) s = .next t ∧ Ended v.r (afterLoad o sc v s1) t ∧
      Wrote v.r (.uni d (match m.at_ v s' b (some w) (lowestLane v.em) with
        | .ok a => BitVec.ofNat 64 (s'.scratchRead w.core (m.bytes b) (w.bind.spbase + a))
        | _ => 0)) s' { s1 with note := .performed }

/-- 11 R281, R284, 01 R33: a store to a window writes the bytes of every access that is not suppressed, the highest lane winning where two
meet; every other byte of the scratchpad, and everything else of the machine, is unchanged. -/
def Obligations.WindowStores : Prop :=
  (∀ c sc o d q x, ∀ p ∈ storeWords c sc o d q x, ∀ s v b w,
    let m := stWord p.2.2.1 sc o q x p.2.2.2
    let s' := followed p.2.1 v s
    Issues p.2.1 s v → Room s v → ReachesWindow m v s' b w →
    ∃ t s1, exec p.1 s = .next t ∧ Ended v.r s1 t ∧ OnlyScratch w.core s' s1 ∧ ∀ a, s1.scratchByte w.core a =
      storedByte (m.accesses v s' b (some w)) w.bind.spbase a (s'.scratchByte w.core a)) ∧
  ∀ c sc o d q x s v b w,
    let m := sstWord sc o d q x
    let s' := followed (useSst c d q x) v s
    Issues (useSst c d q x) s v → Room s v → ReachesWindow m v s' b w →
    ∃ t s1, exec (.sst c sc o d q x) s = .next t ∧ Ended v.r s1 t ∧ OnlyScratch w.core s' s1 ∧ ∀ a, s1.scratchByte w.core a =
      storedByte (m.accesses v s' b (some w)) w.bind.spbase a (s'.scratchByte w.core a)

/-- 11 R286, R287: one access of an atomic leaves its operation's value at its location, unless it writes nothing, leaves every other byte of
the scratchpad as it was, and returns the old value to the lane's destination where it names one. -/
def Obligations.AtomicStep : Prop :=
  (∀ p ∈ [((0 : BitVec 4), IntOp.add), (1, .sub), (2, .and), (3, .or), (4, .xor), (5, .min), (6, .max), (7, .minu), (8, .maxu)],
    ∀ bits ∈ [32, 64], ∀ old a b, atomNew p.1 bits old a b =
      some (p.2.value (BitVec.ofNat bits old) (BitVec.ofNat bits a)).toNat) ∧
  (∀ bits ∈ [32, 64], ∀ old a b, atomNew 9 bits old a b = some (a % 2 ^ bits) ∧ atomNew 15 bits old a b = some (a % 2 ^ bits) ∧
    atomNew 14 bits old a b = none ∧ atomNew 10 bits old a b = if old % 2 ^ bits = a % 2 ^ bits then some (b % 2 ^ bits) else none) ∧
  ∀ (s : State) (r : GroupRef) (c at_ : Nat) (fn : BitVec 4) (dbl : Bool) (d : Option Nat) (sc : BitVec 3) (ord : BitVec 2) (a : Access)
    (m : Lanes) (p : Nat), a.width = (if dbl then 8 else 4) →
    let t := s.scratchAccess r c at_ (.atomic fn dbl d sc ord) a m
    let old := s.scratchRead c a.width at_
    (t.scratchByte c p =
      if at_ ≤ p ∧ p < at_ + a.width then
        match atomNew fn (8 * a.width) old a.data.toNat a.data2.toNat with
        | some x => BitVec.ofNat 8 (x / 256 ^ (p - at_))
        | none => s.scratchByte c p
      else s.scratchByte c p) ∧
    ((s.group? r).isSome = true → ∀ n l, d = some n → l < 32 → m.getLsbD l = true →
      t.vreg r n l = BitVec.ofNat 32 old ∧ (dbl = true → t.vreg r (n + 1) l = BitVec.ofNat 32 (old / 2 ^ 32)))

/-- 11 R283: a line load from a window writes word L of line k to lane L of register D + k in the active lanes, zero for bytes beyond the
record; a line store writes the same words back, none of an inactive lane or beyond the record; nothing else changes. -/
def Obligations.WindowLines : Prop :=
  (∀ c sc o d q x s v b w n a0 inside,
    let u := useLine c true d q x (lineCount v x)
    let s' := followed u v s
    Issues u s v → Room s v → LineOf true o sc d q x v s' b (some w) n a0 inside →
    (∀ k, k < inside → s'.scratchPoisoned w.core 4 (w.bind.spbase + a0 + k / 4 * 4) = false) →
    ∃ t s1, exec (.ldl c sc o d q x) s = .next t ∧ Ended v.r (afterLoad o sc v s1) t ∧
      Wrote v.r (.block d.toNat n v.em fun k l => lineWord s' w.core (w.bind.spbase + a0) (128 * k + 4 * l) inside) s'
        { s1 with note := .performed }) ∧
  ∀ c sc o d q x s v b w n a0 inside,
    let u := useLine c false d q x (lineCount v x)
    let s' := followed u v s
    Issues u s v → Room s v → LineOf false o sc d q x v s' b (some w) n a0 inside →
    (liveGroup v s').rldOver v.team.bind.spbase v.r.core w.core w.bind.spbase
      ((lineAccesses false v d.toNat a0 n inside).filter fun a => a.bytes ≠ 0) = false →
    ∃ t s1, exec (.stl c sc o d q x) s = .next t ∧ Ended v.r s1 t ∧ OnlyScratch w.core s' s1 ∧ ∀ p, s1.scratchByte w.core p =
      let k := p - (w.bind.spbase + a0)
      if w.bind.spbase + a0 ≤ p ∧ k < inside ∧ v.em.getLsbD (k / 4 % 32) = true then
        (v.team.vget v.r.grp (d.toNat + k / 128) (k / 4 % 32)).extractLsb' (8 * (k % 4)) 8
      else s'.scratchByte w.core p

/-- 11 R283, 15 R408, 01 R26, R28: a line word of global memory, and `rld`, go into the operand log with their accesses; `rfence` empties the
record cache of its core; nothing else changes. -/
def Obligations.LineAndRecordWords : Prop :=
  (∀ (load : Bool) c sc o d q x s v b n a0 inside,
    let u := useLine c load d q x (lineCount v x)
    let s' := followed u v s
    let all := lineAccesses load v d.toNat a0 n inside
    let accs := all.filter fun a => a.bytes ≠ 0
    let op : MemOp := if load then .lineLoad d.toNat n else .store 4
    Issues u s v → Room s v → LineOf load o sc d q x v s' b none n a0 inside → accs ≠ [] → (liveGroup v s').log.length < 4 →
    (liveGroup v s').lineBusy accs = false → hypRemote v s' (if load then 0 else 1) accs = none →
    ∃ t s1, exec (if load then .ldl c sc o d q x else .stl c sc o d q x) s = .next t ∧
      (load = false ∨ inside = 128 * n → s1 = s') ∧
      Wrote v.r { v := fun r l => if load = false ∨ v.em.getLsbD l = false ∨ r < d.toNat ∨ d.toNat + n ≤ r ∨
          128 * (r - d.toNat) + 4 * l < inside then none else some 0 } s' { s1 with note := .performed } ∧
      Ended v.r (logWord v op accs 0 false (load && decide (o = 1)) (load && decide (o = 1) && decide (5 ≤ sc.toNat))
        (load && decide (o = 0) && decide (5 ≤ sc.toNat)) (if load then .a else .none) s1) t) ∧
  (∀ c d a k b, Does (.rld c d a k b) (useRld c d a)
    (fun v s =>
      let addr := (v.usrc (a - 96)).toNat
      let size := if k = 1 then 64 else 32
      let accs : List Access := [⟨lowestLane v.em, addr, size, 0, 0, 0, 0⟩]
      addr % size = 0 ∧ (b = 0 → addr < 2 ^ 56) ∧ (b = 1 → addr + size ≤ v.team.bind.spsize) ∧ (liveGroup v s).acquiring = false ∧
        (liveGroup v s).log.length < 4 ∧ (b = 0 → (liveGroup v s).lineBusy accs = false)) fun v s =>
    let addr := (v.usrc (a - 96)).toNat
    let hit := (s.core v.r.core).rcache.find? fun e => e.loc = decide (b = 1) && e.addr = addr && e.tensor = decide (k = 1)
    logWord v (.rld d.toNat (decide (k = 1)) (decide (b = 1)) (s.core v.r.core).seq (hit.map (·.img)))
      [⟨lowestLane v.em, addr, if k = 1 then 64 else 32, 0, 0, 0, 0⟩] 0 true false false false .a
      (s.modCore v.r.core fun c =>
        { c with seq := c.seq + 1
                 rcache := match hit with
                   | none => c.rcache
                   | some e => e :: c.rcache.erase e })) ∧
  ∀ c, Does (.rfence c) { c := c, ops := [] } always fun v s =>
    s.modCore v.r.core fun k => { k with rcache := [], seq := k.seq + 1, lastRfence := k.seq }

/-- 11 R306 to R308: a push whose queue is there leaves for its port and waits, and retires with the port's answer; a pop that is first in
line takes the oldest elements into its lanes in order, and else joins the line; `qget.try` takes what is visible; `qlen` reads the
occupancy; nothing else changes. -/
def Obligations.QueueWords : Prop :=
  (∀ c n row col d w q wide, Holds (.qput c n row col d) (useQput wide c row col d [])
    (fun v s => pushes wide n row col d v s w q ∧ s.released v 3 = true) (pushSent w n q d false)) ∧
  (∀ c n row col d p w q wide, Holds (.qputTry c n row col d p) (useQput wide c row col d [.pd p])
    (fun v s => pushes wide n row col d v s w q) (pushSent w n q d true)) ∧
  (∀ c n row col d ok wide, Does (.qput c n row col d) (useQput wide c row col d [])
    (fun v s => s.placeWide v.r row.toNat col.toNat n.toNat = wide ∧ (liveGroup v s).push.bind (·.answer) = some ok) (pushOver none ok)) ∧
  (∀ c n row col d p ok wide, Does (.qputTry c n row col d p) (useQput wide c row col d [.pd p])
    (fun v s => s.placeWide v.r row.toNat col.toNat n.toNat = wide ∧ (liveGroup v s).push.bind (·.answer) = some ok)
    (pushOver (some p) ok)) ∧
  (∀ c n d q s v, let u := useQget (s.ownWide v.r n.toNat) c d []
    Issues u s v → Room s v →
    let s' := followed u v s
    ownQueue n d v s' = some q → q.bad = false → (q.getters = [] ∨ q.getters.head? = some v.r) → popcount v.em ≤ q.visible →
    s'.poisonedHead v q (popcount v.em) = none → acquired v s' 3 →
    ∃ t, exec (.qget c n d) s = .next t ∧ Ended v.r ((sweepDone v s' 3).popInto v n.toNat q d (popcount v.em)) t) ∧
  (∀ c n d q s v, let u := useQget (s.ownWide v.r n.toNat) c d []
    Issues u s v →
    let s' := followed u v s
    ownQueue n d v s' = some q → q.bad = false →
    ((q.getters ≠ [] ∧ q.getters.head? ≠ some v.r) ∨ q.visible < popcount v.em) → v.r ∉ q.getters →
    exec (.qget c n d) s = .next { s'.modQueue v.r.core n.toNat fun q => { q with getters := q.getters ++ [v.r] } with note := .waits }) ∧
  (∀ c n d p q s v, let u := useQget (s.ownWide v.r n.toNat) c d [.pd p]
    Issues u s v → Room s v →
    let s' := followed u v s
    let m := min (popcount v.em) q.visible
    ownQueue n d v s' = some q → q.bad = false → q.getters = [] → m ≠ 0 → s'.poisonedHead v q m = none → acquired v s' 3 →
    ∃ t, exec (.qgetTry c n d p) s = .next t ∧ Ended v.r (((sweepDone v s' 3).popInto v n.toNat q d m).modGroup v.r fun x =>
      x.pset p.toNat v.em (maskOf fun l => ((lanesOf v.em).take m).contains l)) t) ∧
  (∀ c n d p q s v, let u := useQget (s.ownWide v.r n.toNat) c d [.pd p]
    Issues u s v → Room s v →
    let s' := followed u v s
    ownQueue n d v s' = some q → q.bad = false → (q.getters ≠ [] ∨ q.visible = 0) →
    ∃ t, exec (.qgetTry c n d p) s = .next t ∧ Ended v.r (s'.modGroup v.r fun x => x.pset p.toNat v.em 0) t) ∧
  ∀ c n row col d w q, Completes (.qlen c n row col d) (useQlen c row col d)
    (fun v s => queueAt row col n v s = .here w q ∧ (q.bad && ownPort v w) = false) fun v _ =>
    .lanes v.em d fun _ => q.tail - q.head

/-- 11 R310 to R312, 14 R395: `spawn` gives a task of every active lane to a waiting thief or to the deque, the lanes without room waiting,
`spawn.try` says for which lanes it did, `take` takes tasks from the top of the deque, `steal` posts its request in the victim's mailbox;
nothing else changes. -/
def Obligations.TaskWords : Prop :=
  (∀ c d, Does (.spawn c d) (useSpawn c d [])
    (fun v s => v.team.bind.ten = true ∧ s.released v 3 = true ∧ (spawnLanes d v (lanesOf v.em) s).2 = []) fun v s =>
    (spawnLanes d v (lanesOf v.em) s).1) ∧
  (∀ c d s v, Issues (useSpawn c d []) s v → s.snap = none →
    let s' := followed (useSpawn c d []) v s
    let left := (spawnLanes d v (lanesOf v.em) s').2
    v.team.bind.ten = true → s'.released v 3 = true → left ≠ [] → left ≠ lanesOf v.em →
    exec (.spawn c d) s = .next (partly v (maskOf fun l => left.contains l) s' (spawnLanes d v (lanesOf v.em) s').1)) ∧
  (∀ c d p, Does (.spawnTry c d p) (useSpawn c d [.pd p])
    (fun v s => v.team.bind.ten = true ∧ (s.released v 3 = true ∨ (spawnLanes d v (lanesOf v.em) s).2 = lanesOf v.em)) fun v s =>
    (spawnLanes d v (lanesOf v.em) s).1.modGroup v.r fun x =>
      x.pset p.toNat v.em (~~~maskOf fun l => (spawnLanes d v (lanesOf v.em) s).2.contains l)) ∧
  (∀ c d p, Does (.take c d p) (useTake c d p)
    (fun v s => v.team.bind.ten = true ∧ poisonTask v s = none ∧ acquired v s 3) fun v s =>
    (lanesOf v.em).foldl (fun s l => s.takeLane v d p l) (sweepDone v s 3)) ∧
  ∀ c row col p w k, Does (.steal c row col p) (useSteal c row col p)
    (fun v s =>
      (∃ i j, s.memberAt v.team (coreAt (dieOf v.r.core) row.toNat col.toNat) = some (i, j) ∧
        s.memberWin v.team v.r.slot i j = .here w) ∧
      coreAt (dieOf v.r.core) row.toNat col.toNat ≠ v.r.core ∧ w.bind.ten = true ∧ v.team.bind.ten = true ∧
      (liveGroup v s).steal = none ∧ (s.team? v.r).any Team.dequeRoom = true ∧
      ((List.range 8).find? fun k => (s.mail w.core w.bind k).isNone) = some k) fun v s =>
    ((s.scratchWrite w.core 16 (mailAt w.bind k) (mailWord v.r s.cycle)).modGroup v.r fun x =>
      { x.fretUp (s.fretOf v .a) with steal := some ⟨w.core, w.slot, p, v.em, s.cycle, s.fretOf v .a⟩ }).post (.stealTimeout v.r)

/-- 12 R318, R326, 09 R232: an engine word that issues its command adds one command at the end of the core's issue order, counted on its fret, and
asks its unit to take it up; no other command, no memory and no register changes. -/
def Obligations.CommandEntry : Prop :=
  ∀ (s : State) (v : Env) (kind : CmdKind) (x : Group), s.group? v.r = some x → (x.fret ((s.fretOf v .b).getD 0)).cnt ≠ 63 →
    let t := s.submit v kind
    let k := s.core v.r.core
    (t.core v.r.core).seq = k.seq + 1 ∧
    (∀ n, n ≠ k.seq → (t.core v.r.core).cmd? n = k.cmd? n) ∧
    (∃ c, (t.core v.r.core).cmd? k.seq = some c ∧ c.kind = kind ∧ c.g = v.r ∧ c.part = v.part ∧ c.fret = s.fretOf v .b ∧ c.phase = 0 ∧
      c.st = 0 ∧ c.hyp = x.hyp.get 0 (lowestLane v.em)) ∧
    kind.unit.takeup v.r.core k.seq ∈ t.pending ∧
    (∀ f, s.fretOf v .b = some f → ((t.group? v.r).map fun y => (y.fret f).cnt.toNat) = some ((x.fret f).cnt.toNat + 1)) ∧
    (t.core v.r.core).scratch = k.scratch ∧ (t.core v.r.core).ob = k.ob ∧ (t.core v.r.core).acc = k.acc ∧ t.hbm = s.hbm ∧
    (∀ n l, t.vreg v.r n l = s.vreg v.r n l) ∧ (∀ n, t.sreg v.r n = s.sreg v.r n) ∧ ∀ n, t.preg v.r n = s.preg v.r n

/-- 02 R48 to R51, 12 R319, R327, R330 to R333, R337: the words of reservations, gangs, leases, the capo and the stride registers write what the
rules say and nothing else; `mfree` and `capo.pass` take effect two cycles later. -/
def Obligations.MatrixControl : Prop :=
  (∀ c h sc, Does (.mres c h sc) { useEngine c [⟨.s, sc.toNat, 2, 1, false⟩] (decide (sc.toNat < 63)) with orph := .once }
    (fun v _ => resvTrap ⟨v.s6 sc, v.grp.sget (sc.toNat + 1)⟩ v.team.bind = none) fun v s =>
    s.modGroup v.r fun x => { x with res := x.res.set none h.toNat (some ⟨v.s6 sc, v.grp.sget (sc.toNat + 1)⟩)
                                     resBad := x.resBad.filter (· ≠ h.toNat) }) ∧
  (∀ c h, Does (.mrel c h) (useEngine c []) always fun v s =>
    s.modGroup v.r fun x => { x with res := x.res.set none h.toNat none, resBad := x.resBad.filter (· ≠ h.toNat) }) ∧
  (∀ c sc, Does (.gang c sc) (useEngine c [.us6 sc])
    (fun v _ => let m : Word := (v.s6 sc).extractLsb' 0 32
      m = 0 ∨ (2 ≤ popcount m ∧ popcount m ≤ 6 ∧ m.getLsbD v.r.grp = true ∧ ∀ g, m.getLsbD g = true → g ≤ v.team.bind.ngm1)) fun v s =>
    s.modGroup v.r fun x => { x with gang := ((v.s6 sc).extractLsb' 0 32).setWidth 64 }) ∧
  (∀ c sc, Does (.mlease c sc) (useEngine c [.us6 sc])
    (fun v s =>
      let u := v.s6 sc
      let other : GroupRef := { v.r with grp := (u.extractLsb' 22 5).toNat }
      let k := s.core v.r.core
      u.extractLsb' 28 36 = 0 ∧ (u.getLsbD 27 = false → other.grp = 0) ∧ k.holds s.cycle v.r = false ∧ k.asked v.r = false ∧
        (u.getLsbD 27 = true → other.grp ≠ v.r.grp ∧ other.grp ≤ v.team.bind.ngm1 ∧ k.holds s.cycle other = false ∧ k.asked other = false ∧
          k.paired s.cycle other = false))
    fun v s => (s.modCore v.r.core fun k =>
      { k with leaseQ := k.leaseQ ++ [⟨v.r.slot, v.r.grp, ((v.s6 sc).extractLsb' 0 8).toNat + 1, ((v.s6 sc).extractLsb' 8 14).toNat + 1,
                                       if (v.s6 sc).getLsbD 27 then some ((v.s6 sc).extractLsb' 22 5).toNat else none, none⟩] }).askGrant
        v.r.core) ∧
  (∀ c, Does (.mfree c) (useEngine c []) (fun v s => (s.core v.r.core).holds s.cycle v.r = true) fun v s =>
    s.modCore v.r.core fun k => { k with lease := k.lease.map fun l => { l with freed := some (l.freed.getD (s.cycle + 2)) } }) ∧
  (∀ c, Does (.mfree c) (useEngine c []) (fun v s => (s.core v.r.core).holds s.cycle v.r = false) unchanged) ∧
  (∀ c, Does (.capoTake c) (useEngine c [])
    (fun v s => (s.core v.r.core).hasCapo s.cycle v.r = true ∨ ((s.core v.r.core).paired s.cycle v.r = false ∧ (liveGroup v s).wait = .capo))
    fun v s => s.modGroup v.r fun x => { x with wait := if x.wait = .capo then .none else x.wait }) ∧
  (∀ c, Holds (.capoTake c) (useEngine c [])
    (fun v s => (s.core v.r.core).hasCapo s.cycle v.r = false ∧ (s.core v.r.core).paired s.cycle v.r = true) fun v s =>
    s.modGroup v.r fun x => { x with wait := .capo }) ∧
  (∀ c, Does (.capoPass c) (useEngine c []) (fun v s => (s.core v.r.core).hasCapo s.cycle v.r = true) fun v s =>
    s.modCore v.r.core fun k => { k with lease := k.lease.map fun l => match l.partner with
      | none => l
      | some p => { l with token := v.r.grp, next := some (s.cycle + 2, if l.grp = v.r.grp then p else l.grp) } }) ∧
  (∀ c z imm, Does (.zset c z imm) (useEngine c [.us6 imm, .zr z 1 true])
    (fun v _ => (v.s6 imm).extractLsb' 18 46 = 0 ∧ zShape (v.s6 imm) = true ∧
      zNb (v.s6 imm) * ((2 ^ zLl (v.s6 imm) + 511) / 512) ≤ 512) fun v s =>
    s.modGroup v.r fun x => { x with z := x.z.set 0 z.toNat (v.s6 imm) }) ∧
  ∀ c z o, Completes (.zget c z o) { useEngine c [.ud (o.setWidth 7), .zr z 1 false] with result := true } always fun v _ =>
    .uni (o.setWidth 7) (v.grp.zget z.toNat)

/-- 05 R141, 12 R320 to R328, R338 to R351: a product, stage or ACC word that passes its checks under one hypothesis issues one command with its
operands as they stand at issue; a product word of a gang arrives at the latch of its members, which makes one command of equal words. -/
def Obligations.MatrixWords : Prop :=
  (∀ c h sc vb n t (k : Instr × Bool × BitVec 1), k ∈ [(Instr.mmad c h sc vb n, false, 0), (.mmadSp c h sc vb n t, true, t)] →
    Does k.1 (useProduct c sc vb) (fun v s => productOk k.2.1 h sc vb k.2.2 v s ∧ gangOf v = 0)
      (fun v s => (issueProduct (productKind k.2.1 h sc vb n k.2.2 v) vb v s).enterRequests v.r.core) ∧
    Does k.1 (useProduct c sc vb) (fun v s => productOk k.2.1 h sc vb k.2.2 v s ∧ gangOf v ≠ 0)
      (fun v s => (issueProduct (productKind k.2.1 h sc vb n k.2.2 v) vb v s).arriveLatch v (s.core v.r.core).seq (v.s6 sc) (gangOf v))) ∧
  (∀ (s : State) core slot members ls c, s.latched core slot members = some ls →
    (∀ l ∈ ls, ∀ m ∈ ls, l.2.word = m.2.word ∧ l.2.tile = m.2.tile) →
    gangCmd (ls.filterMap fun l => (s.core core).cmd? l.2.cmd) = some c →
    let t := s.closeLatch core slot members
    (t.core core).cmd? c.seq = some c ∧ .gangLatchClose core slot members ∈ t.pending ∧
      ∀ l ∈ ls, l.2.cmd ≠ c.seq → (t.core core).cmd? l.2.cmd = none) ∧
  (∀ c z h a b f s v, ∀ p ∈ stageWords c z h a b f v, let u := useEngine c [.us6 a, .us6 b, .zr z 1 false]
    let zs := stagesOf v z p.2.2.2.1
    Issues u s v → Room s v →
    stageTrap p.2.1 zs (decide (z.toNat + p.2.2.2.1 ≤ 8)) p.2.2.2.2 (v.s6 a) (v.s6 b) v.team.bind = none → capoFree v (followed u v s) →
    (p.2.1 ≠ 3 → soundResv v (followed u v s) h.toNat) → oneHyp v (followed u v s) →
    ∃ t, exec p.1 s = .next t ∧ Ended v.r (((followed u v s).submit v
      (.stage (BitVec.ofNat 2 p.2.1) p.2.2.1 zs p.2.2.2.2 (v.s6 a) (v.s6 b))).enterRequests v.r.core) t) ∧
  (∀ c a, Does (.accclr c a) (useEngine c [.us6 a]) (fun v s => accOk 0 0 a 0 0 v ∧ oneHyp v s) fun v s => s.submit v (accKind 0 0 a 0 0 v)) ∧
  (∀ c a b, Does (.accld c a b) (useEngine c [.us6 a, .us6 b]) (fun v s => accOk 1 0 a b 0 v ∧ oneHyp v s) fun v s => s.submit v (accKind 1 0 a b 0 v)) ∧
  (∀ c a b sc k j g, Does (.epi c a b sc k j g) (useEngine c [.us6 a, .us6 b, .us6 sc] (decide (g = 1 ∨ sc = 0)))
    (fun v s => accOk 2 (g.toNat + 2 * j.toNat + 4 * k.toNat) a b sc v ∧ oneHyp v s ∧
      (g = 1 → soundResv v s ((v.s6 sc).extractLsb' 0 4).toNat)) fun v s =>
    s.submit v (accKind 2 (g.toNat + 2 * j.toNat + 4 * k.toNat) a b sc v)) ∧
  (∀ c a b t, Does (.accst c a b t) (useEngine c [.us6 a, .us6 b]) (fun v s => accOk 5 t.toNat a b 0 v ∧ oneHyp v s) fun v s =>
    s.submit v (accKind 5 t.toNat a b 0 v)) ∧
  (∀ c a b, Does (.accput c a b) (useEngine c [.us6 a, .us6 b]) (accRegOk a b) fun v s =>
    (s.submit v (.acc 4 0 (v.s6 a) (v.s6 b) 0 none
      (captureRegs v.team v.r.grp ((v.s6 b).extractLsb' 0 7).toNat (regLines (tileOf (v.s6 a)))))).modGroup v.r fun x =>
      { x with readRegs := x.readRegs.set (0, 0) (s.core v.r.core).seq (((v.s6 b).extractLsb' 0 7).toNat, regLines (tileOf (v.s6 a))) }) ∧
  ∀ c a b, Does (.accmv c a b) { useEngine c [.us6 a, .us6 b] with result := true } (accRegOk a b) fun v s =>
    (s.submit v (.acc 3 0 (v.s6 a) (v.s6 b) 0 none [])).modGroup v.r fun x =>
      { x with lineRegs := x.lineRegs.set (0, 0) (s.core v.r.core).seq (((v.s6 b).extractLsb' 0 7).toNat, regLines (tileOf (v.s6 a))) }

/-- 13 R352 to R363, R372 to R376, R382, 02 R71: a COPY, PHY or `eprst` word that passes its checks under one hypothesis issues one command with
the records it captures, `kick` starts a chain, `drain` ends when no earlier command of its core is left on its path. -/
def Obligations.EngineWords : Prop :=
  (∀ c a b m, ∀ p ∈ copyWords c a b m, Does p.1 (useEngine c [.us6 a, .us6 b] (decide (m.toNat < 5)))
    (fun v s => copyTrap p.2 (v.s6 a) (v.s6 b) v.copyCtx = none ∧ oneHyp v s ∧ requestRoom v s ∧
      (cwDk (v.s6 a) = 1 → soundResv v s (cwAh (v.s6 a)))) fun v s =>
    (s.submit v (copyKind p.2 m (v.s6 a) (v.s6 b) v.copyCtx)).modGroup v.r fun x =>
      { x with noFlush := x.noFlush || decide (p.2 = 3) || (v.s6 b).getLsbD 63 }) ∧
  (∀ c a b, Does (.eprst c a b) { c := c, ops := [.vs a, .us (b.setWidth 7), .key], cls := .b, orph := .lanes }
    (fun v s =>
      let w : Win := ⟨v.r.core, v.r.slot, v.team.bind⟩
      eprstTrap (v.grp.sget b.toNat) w s = none ∧ oneHyp v s ∧ requestRoom v s ∧
        ∀ l, v.em.getLsbD l = true → eprstLane (v.grp.sget b.toNat) w s l (v.src a l).toNat = none) fun v s =>
    let u := v.grp.sget b.toNat
    (s.submit v (.eprst ((lanesOf v.em).map fun l => (v.src a l).toNat) (u.extractLsb' 0 20).toNat
      (16 * ((u.extractLsb' 20 12).toNat + 1)))).modGroup v.r fun x => (lanesOf v.em).foldl newEpisode x) ∧
  (∀ c a b qi qo, Does (.srt c a b) (useEngine c [.us6 a, .us6 b])
    (fun v s => oneHyp v s ∧ v.ten ((v.s6 a).extractLsb' 0 4).toNat = some qi ∧ v.ten ((v.s6 a).extractLsb' 4 4).toNat = some qo ∧
      phyTrap (decide ((v.s6 a).extractLsb' 8 56 ≠ 0) || decide ((v.s6 b).extractLsb' 20 44 ≠ 0)) [some qi] [some qo]
        [(4, 1, 65536), (2, 0, 2 ^ 32)] ((v.s6 b).extractLsb' 0 20).toNat v.team.bind = none) fun v s =>
    s.submit v (.srt qi qo ((v.s6 b).extractLsb' 0 20).toNat)) ∧
  (∀ c a b (f : BitVec 1) qn qq qh, Does (.bvht c a b f) (useEngine c [.us6 a, .us6 b])
    (fun v s => oneHyp v s ∧ v.ten ((v.s6 a).extractLsb' 0 4).toNat = some qn ∧ v.ten ((v.s6 a).extractLsb' 4 4).toNat = some qq ∧
      v.ten ((v.s6 a).extractLsb' 8 4).toNat = some qh ∧
      phyTrap (decide ((v.s6 a).extractLsb' 12 52 ≠ 0) || decide ((v.s6 b).extractLsb' 20 44 ≠ 0)) [some qn, some qq] [some qh]
        [(8, 0, 2 ^ 32), (8, 0, 2 ^ 32), (2, 0, 2 ^ 32)] ((v.s6 b).extractLsb' 0 20).toNat v.team.bind = none) fun v s =>
    s.submit v (.bvht (decide (f = 1)) qn qq qh ((v.s6 b).extractLsb' 0 20).toNat)) ∧
  (∀ c a b (f : BitVec 1) (k : Instr × Bool), k ∈ [(Instr.bslv c a b f, false), (.bsadj c a b f, true)] →
    Does k.1 (useEngine c [.us6 a, .us6 b])
    (fun v s => oneHyp v s ∧ (solveOf k.2 (decide (f = 1)) (v.s6 a) (v.s6 b)).trap (decide ((v.s6 b).extractLsb' 32 32 ≠ 0))
      v.team.bind.spsize = none) fun v s =>
    s.submit v (if k.2 then .bsadj (decide (f = 1)) (v.s6 a) (v.s6 b) else .bslv (decide (f = 1)) (v.s6 a) (v.s6 b))) ∧
  (∀ c a n, Does (.kick c a) (useEngine c [.us6 a])
    (fun v s => (v.s6 a).extractLsb' 20 44 = 0 ∧ ((v.s6 a).extractLsb' 0 20).toNat % 32 = 0 ∧ oneHyp v s ∧ (liveGroup v s).resBad = [] ∧
      ((List.range 4).find? fun n => ((s.core v.r.core).chains.get none n).isNone) = some n) fun v s =>
    (((s.fretUp v.r (s.fretOf v .b)).modCore v.r.core fun k => { k with chains := k.chains.set none n (some
      { g := v.r, off := ((v.s6 a).extractLsb' 0 20).toNat, q := v.grp.q, res := v.grp.res,
        hyp := (liveGroup v s).hyp.get 0 (lowestLane v.em), counters := [], executed := 0, status := 0, stopped := false,
        fret := s.fretOf v .b, after := (liveGroup v s).nextLog, since := (liveGroup v s).since }) }).post
      (.chainStop v.r.core n))) ∧
  (∀ c sc (f : BitVec 3), Does (.drain c sc f) { c := c, ops := [], legal := decide (f.toNat < 5), orph := .once, once := true }
    (fun v s => ∀ d ∈ (s.core v.r.core).commands, d.seq < ((liveGroup v s).drainAt).getD (s.core v.r.core).seq → f.toNat ∉ d.paths) fun v s =>
    (s.modGroup v.r fun x => { x with drainAt := none }).closeBatch (dieOf v.r.core)) ∧
  ∀ c sc (f : BitVec 3), Holds (.drain c sc f) { c := c, ops := [], legal := decide (f.toNat < 5), orph := .once, once := true }
    (fun v s => ∃ d ∈ (s.core v.r.core).commands, d.seq < ((liveGroup v s).drainAt).getD (s.core v.r.core).seq ∧ f.toNat ∈ d.paths) fun v s =>
    s.modGroup v.r fun x => { x with drainAt := some ((liveGroup v s).drainAt.getD (s.core v.r.core).seq) }

/-- 10 R278, 14 R384: `mcall` of a whole packet in its window hands it to the queue, and answers 0 where it is taken, 1 where the queue is full and
2 where it is malformed, in its destination. -/
def Obligations.QueueCall : Prop :=
  ∀ c d a b, Does (.mcall c d a b) { c := c, ops := [.ud d, .us a, .us b], orph := .free, once := true, pin := true }
    (fun v s => (v.usrc a).toNat % 64 = 0 ∧ (v.usrc a).toNat + 64 ≤ v.team.bind.spsize ∧
      s.queueStorage ⟨v.r.core, v.r.slot, v.team.bind⟩ (v.usrc a).toNat 64 = false ∧ s.released v 6 = true ∧
      s.scratchPoisoned v.r.core 64 (v.team.bind.spbase + (v.usrc a).toNat) = false) fun v s =>
    let x := s.scratchRead v.r.core 64 (v.team.bind.spbase + (v.usrc a).toNat)
    let full := ∃ p ∈ s.part? v.part, (p.lq (v.usrc b).toNat).count = 2 ^ p.lqn
    let bad := s.part? v.part = none ∨ 16 ≤ (v.usrc b).toNat ∨ x % 256 = 0 ∨ 8 ≤ x % 256
    let n : DWord := if bad then 2 else if full then 1 else 0
    (if n = 0 then s.putPacket v.part (v.usrc b).toNat x else s).modGroup v.r fun g => g.sset d.toNat n

/-- 21 R456 to R460: every mailbox command that the open mailbox takes is answered under its tag with the code and the response that the rules
give; a refused one changes nothing but the mailbox; a bias flip that is under way leaves GO at 1. -/
def Obligations.MailboxCommands : Prop :=
  ∀ (tag : BitVec 32) (arg : BitVec 8) (s : State), mailboxOpen s →
    (∀ nonce, Occurs (.mboxQuote tag nonce) s
      (mboxEnd 1 tag 0 (nonce.setWidth 512) 0 (some (quoteSignature (Config.quoteRandom s.choices) (s.quoteBytes nonce)))
        { s with choices := s.choices + 1 })) ∧
    Occurs (.mboxReadMr tag arg) s
      (if arg.toNat < 8 then mboxEnd 2 tag arg 0 0 (some (s.mr arg.toNat).toNat) s else mboxEnd 2 tag arg 0 1 none s) ∧
    (∀ d : BitVec 256, Occurs (.mboxExtendMr tag arg d) s
      (if 4 ≤ arg.toNat ∧ arg.toNat < 8 then
        mboxEnd 3 tag arg (d.setWidth 512) 0 none
          { s with modl := { s.modl with mr := s.modl.mr.set 0 arg.toNat (extendedMr (s.mr arg.toNat) d) } }
      else mboxEnd 3 tag arg (d.setWidth 512) 1 none s)) ∧
    (∀ x : BitVec 512, Occurs (.mboxCreatePartition tag arg x) s
      (if 64 ≤ arg.toNat then mboxEnd 4 tag arg x 1 none s
      else if s.recordAccepted arg.toNat x = false then mboxEnd 4 tag arg x 3 none s
      else
        let p := partOf x
        let s1 : State := { s with
          parts := s.parts.set none arg.toNat (some p)
          modl := { s.modl with mr := s.modl.mr.set 0 2 (extendedMr (s.mr 2) (sha256 64 x.toNat)) } }
        let s2 := s1.postOnce (.energyIntervalEnd arg.toNat)
        mboxEnd 4 tag arg x 0 none (if p.wdog = 0 then s2 else s2.postOnce (.watchdogExpire arg.toNat)))) ∧
    Occurs (.mboxDestroyPartition tag arg) s
      (if s.part? arg.toNat = none ∨ s.partTeams arg.toNat ≠ [] then mboxEnd 5 tag arg 0 3 none s
      else mboxEnd 5 tag arg 0 0 none (s.removePart arg.toNat)) ∧
    Occurs (.mboxResetPartition tag arg) s
      (if s.feature 5 = false then mboxEnd 6 tag arg 0 2 none s
      else if s.part? arg.toNat = none then mboxEnd 6 tag arg 0 3 none s
      else mboxEnd 6 tag arg 0 0 none (s.postOnce (.partitionReset arg.toNat))) ∧
    (∀ x : DWord, Occurs (.mboxBiasFlip tag arg x) s
      (if s.flipIdle (flipFrame x) (flipToHost x) then mboxEnd 7 tag arg (x.setWidth 512) 0 none s
      else (mboxBusy 7 tag arg (x.setWidth 512) s).startFlip (flipFrame x) (flipToHost x))) ∧
    Occurs (.mboxRaiseRollback tag arg) s
      (if s.modl.rollback.toNat < 64 then
        mboxEnd 8 tag arg 0 0 none { s with modl := { s.modl with rollback := s.modl.rollback + 1 } }
      else mboxEnd 8 tag arg 0 1 none s) ∧
    Occurs (.mboxReadEvent tag arg) s
      (match s.modl.events[arg.toNat]? with
        | some e => mboxEnd 9 tag arg 0 0 (some e.toNat) s
        | none => mboxEnd 9 tag arg 0 1 none s)

/-- 21 R454 to R456, 16 R425, R427, R429, 02 R75, 03 R97 to R100: power-up measures what it runs and stops at the step that fails; the feature
commit measures FEATEN and opens the module; route entries, ports, management registers and scrubbed rows change as the rules say; an error
of a clean frame costs a refetch, one of a dirty frame poisons it, one of HBM is reported with its 64 KiB frame, and one of a tag resets the
partitions whose way mask holds its way. -/
def Obligations.ModuleEvents : Prop :=
  (∀ (fs : List Firmware) key dis id s,
    let s0 := s.powerUp
    let ok := fun f => imageOk key s0.modl.rollback.toNat f
    ((∀ f, fs.find? (fun f => f.comp = 0) = some f → ok f = false) → Occurs (.powerGood fs key dis id) s (s0.bringupFails 1)) ∧
    ∀ f, fs.find? (fun f => f.comp = 0) = some f → ok f = true →
      ((∃ g ∈ fs, g.comp ≠ 0 ∧ ok g = false) → Occurs (.powerGood fs key dis id) s ((s0.extend 0 f.digest).bringupFails 2)) ∧
      ((∀ g ∈ fs, g.comp ≠ 0 → ok g = true) → OccursWith (.powerGood fs key dis id) s fun t =>
        t.mr 0 = extendedMr 0 f.digest ∧ t.mr 2 = 0 ∧ t.mr 3 = 0 ∧ t.hbm = [] ∧ t.parts = [] ∧
        ((t.modl.failed = none ∧ t.modl.bringup = 6 ∧ t.modl.idLoad = id ∧ t.modl.featCap = Config.offered.setWidth 256 ∧
            ∀ d c, d < 12 → c < 8 → (t.die d).spare.get 12 c = (disabledRows dis d c).headD 12) ∨
          ∃ n ∈ [3, 5, 6], t.modl.failed = some n ∧ t.modl.bringup = n - 1))) ∧
  (∀ s : State, s.modl.featCommit = true ∨ s.modl.bringup ≠ 6 ∨ s.modl.failed ≠ none → Occurs .featureCommit s s) ∧
  (∀ s : State, s.modl.featCommit = false → s.modl.bringup = 6 → s.modl.failed = none → OccursWith .featureCommit s fun t =>
    t.modl.featCommit = true ∧ t.modl.featEn = s.modl.featEn ∧ t.mr 3 = extendedMr (s.mr 3) (sha256 32 s.modl.featEn.toNat) ∧
    (t.feature 3 = false → t.modl.bringup = 8 ∧ t.modl.moduleId = s.modl.moduleId ∧ t.modl.ports = s.modl.ports) ∧
    (t.feature 3 = true → (t.modl.bringup = 8 ∧ t.modl.moduleId = some s.modl.idLoad) ∨ t.modl.failed = some 7)) ∧
  (∀ reg x s, Occurs (.mgmtRegisterWrite reg x) s (s.writeMgmt reg x)) ∧
  (∀ (w : Nat) (x : DWord) (s : State), w < 4 → s.modl.featCommit = false → 6 ≤ s.modl.bringup →
    ∀ k, k < 256 → (s.writeMgmt (.featen w) x).modl.featEn.getLsbD k =
      if 6 ≤ k then false else if k / 64 = w then x.getLsbD (k % 64) else s.modl.featEn.getLsbD k) ∧
  (∀ (w : Nat) (x : DWord) (s : State), s.modl.featCommit = true → s.writeMgmt (.featen w) x = s) ∧
  (∀ (n : Nat) (v : BitVec 8) (s : State), n < 16384 → OccursWith (.routeEntryWrite n v) s fun t =>
    t.modl.routes.get 0 n = v &&& 0xBF ∧ (∀ k, k ≠ n → t.modl.routes.get 0 k = s.modl.routes.get 0 k)) ∧
  (∀ (n : Nat) (s : State), n < 36 → OccursWith (.portDown n) s fun t =>
    (t.modl.ports.get 0 n).getLsbD 0 = false ∧ (t.modl.ports.get 0 n).getLsbD 1 = true ∧
    (∀ k, k ≠ n → t.modl.ports.get 0 k = s.modl.ports.get 0 k) ∧
    ∀ k, let e := s.modl.routes.get 0 k
      (e ≠ 0 → e.extractLsb' 0 6 = BitVec.ofNat 6 n → t.modl.routes.get 0 k = e ||| 0x40) ∧
      (e.extractLsb' 0 6 ≠ BitVec.ofNat 6 n → t.modl.routes.get 0 k = e)) ∧
  (∀ (c unit row : Nat) (s : State), OccursWith (.patrolScrub c unit row) s fun t =>
    (∀ k, k ≠ c → t.core k = s.core k) ∧ t.hbm = s.hbm ∧ (t.core c).teams = (s.core c).teams ∧
    (∀ p, (unit = 0 ∧ row < 65536 ∧ 16 * row ≤ p ∧ p < 16 * row + 16) ∨ t.scratchByte c p = s.scratchByte c p) ∧
    (∀ p, (unit = 1 ∧ row < 256 ∧ 1024 * row ≤ p ∧ p < 1024 * row + 1024) ∨ (t.core c).ob.byte p = (s.core c).ob.byte p) ∧
    ∀ r k, k < 512 → (unit = 2 ∧ row < 512 ∧ r = row) ∨ (t.core c).accCol r k = (s.core c).accCol r k) ∧
  (∀ die key f (kind : ErrKind) (s : State), (s.die die).l2.get none key = some f →
    let t := s.l2Error die key kind
    (f.dmask = 0 → f.state ≠ 5 → t.health.refetched.get 0 (l2Unit die (keyLine key)) = s.health.refetched.get 0 (l2Unit die (keyLine key)) + 1 ∧
      ∀ g, (t.die die).l2.get none (lineKey (keyPart key) (keyTag key) (keyLine key)) = some g → g.vmask = 0 ∧ g.dmask = 0) ∧
    (f.dmask ≠ 0 → kind = .lasting → (t.die die).l2.get none key = some { f with psn := true } ∧
      (t.health.spares.get 0 (l2Unit die (keyLine key)) = s.health.spares.get 0 (l2Unit die (keyLine key)) + 1 ∨
        l2Unit die (keyLine key) ∈ t.health.repair ∧ (l2Unit die (keyLine key), l2Set (keyLine key), f.way) ∈ t.health.off))) ∧
  (∀ line (s : State), line < 2 ^ 33 → (∀ kt ∈ s.llc, keyLine kt.1 = line → keyTag kt.1 = 0 → kt.2 = none) →
    line ∈ (s.hbmError line .lasting).hbmPsn ∧ line / 512 ∈ (s.hbmError line .lasting).health.frames) ∧
  ∀ slice way (s : State), slice < 392 → way < 16 →
    (s.tagError slice way true).health.tags = s.health.tags ++ [(slice, way)] ∧
    ∀ n p, (n, some p) ∈ s.parts → (if slice < 384 then p.l2ways else p.llcways).getLsbD way = true →
      .partitionReset n ∈ (s.tagError slice way true).pending

/-- 06 R169 to R177, 16 R423, R424: translation syncs, the page copier, bias flips, hints, and the accesses of the host and of other modules
change the registers and the bytes that the rules name, and no other byte of root memory. -/
def Obligations.PageEvents : Prop :=
  (∀ die s, OccursWith (.tsync die) s fun t => (t.die die).tsync = 1 ∧ .tsyncDone die ∈ t.pending ∧ t.hbm = s.hbm ∧
    ∀ e w, .applyInvalidation e w ∈ s.pending → w.tag = 0 → (e, w) ∈ (t.die die).tsyncDue) ∧
  (∀ die s,
    let owed := ∃ dw ∈ (s.die die).tsyncDue, ∃ w, .applyInvalidation dw.1 w ∈ s.pending ∧ w.tag = 0 ∧ w.line = dw.2.line ∧
      w.die = dw.2.die ∧ w.clock = dw.2.clock
    (owed → Waits (.tsyncDone die) s) ∧
    (¬owed → OccursWith (.tsyncDone die) s fun t =>
      (t.die die).tsync = 0 ∧ (t.die die).tsyncDue = [] ∧ ∀ k, k ≠ die → t.die k = s.die k)) ∧
  (∀ die ctl s, (s.die die).pcCtl.getLsbD 63 = true → Occurs (.pageCopy die ctl) s s) ∧
  (∀ die ctl s, (s.die die).pcCtl.getLsbD 63 = false → ctl.getLsbD 63 = false → Occurs (.pageCopy die ctl) s
    (s.modDie die fun d => { d with pcCtl := (d.pcCtl &&& (1#64 <<< 62)) ||| (ctl &&& 3) })) ∧
  (∀ die ctl s, (s.die die).pcCtl.getLsbD 63 = false → ctl.getLsbD 63 = true → OccursWith (.pageCopy die ctl) s fun t =>
    (t.die die).pcCtl = (1#64 <<< 63) ||| (ctl &&& 3) ∧ (t.die die).pcNext = 0 ∧ .pageCopyDone die ∈ t.pending ∧ t.hbm = s.hbm ∧
    (t.die die).pcErr = false ∧ (t.die die).pcJob = ((s.die die).copySrc, (s.die die).copyOwner, (s.die die).copyDst)) ∧
  (∀ die s, (s.die die).pcCtl.getLsbD 63 = true → (s.die die).copyRefused = true → OccursWith (.pageCopyDone die) s fun t =>
    (t.die die).pcCtl.getLsbD 63 = false ∧ (t.die die).pcCtl.getLsbD 62 = true ∧ t.hbm = s.hbm) ∧
  (∀ die n s, (s.die die).pcCtl.getLsbD 63 = true → copySize (s.die die).pcCtl = some n → (s.die die).copyRefused = false →
    (s.die die).pcNext = n → (s.copyOwes die = false → OccursWith (.pageCopyDone die) s fun t =>
      (t.die die).pcCtl.getLsbD 63 = false ∧ ((t.die die).pcCtl.getLsbD 62 = true ↔ (s.die die).pcCtl.getLsbD 62 = true ∨ (s.die die).pcErr = true) ∧
        t.hbm = s.hbm) ∧
      (s.copyOwes die = true → OccursWith (.pageCopyDone die) s fun t =>
        (t.die die).pcCtl = (s.die die).pcCtl ∧ .pageCopyDone die ∈ t.pending ∧ t.hbm = s.hbm)) ∧
  (∀ die n s0,
    let s := s0.leaveCopied die
    let d := s.die die
    let src := d.pcJob.1 + 128 * d.pcNext
    let dst := d.pcJob.2.2 + 128 * d.pcNext
    d.pcCtl.getLsbD 63 = true → copySize d.pcCtl = some n → d.copyRefused = false → d.pcNext < n → d.pcWork.wrote = [] → placeOf src = .hbm →
    s.isFlipping src = false → s.isFlipping dst = false →
    (s.dirtyDies (· = src / 128) ≠ [] → Occurs (.pageCopyDone die) s0 ((s.sendDirty (s.dirtyDies (· = src / 128))).post (.pageCopyDone die))) ∧
    (s.dirtyDies (· = src / 128) = [] → OccursWith (.pageCopyDone die) s0 fun t =>
      KeepsHbm s0 t ∧ (t.die die).pcCtl = d.pcCtl ∧ .pageCopyDone die ∈ t.pending ∧ (d.pcErr = true → (t.die die).pcErr = true) ∧
      ((t.die die).pcNext = d.pcNext ∨ (t.die die).pcNext = d.pcNext + 1) ∧
      ((t.die die).pcNext = d.pcNext + 1 → (s.rootPoisoned (src / 128) = true → (t.die die).pcErr = true) ∧
        ∃ o ∈ (t.die die).out, o.key = lineKey noPart 0 (dst / 128) ∧ o.bytes = ⟨BitVec.allOnes 128, s.homeLine (src / 128)⟩ ∧ o.sent = none ∧
          (s.rootPoisoned (src / 128) = true → o.psn = true)))) ∧
  (∀ die x s, (s.die die).bflip.getLsbD 63 = true → Occurs (.biasFlip die x) s s) ∧
  (∀ die x s, (s.die die).bflip.getLsbD 63 = false → OccursWith (.biasFlip die x) s fun t =>
    let asked := x.getLsbD 63 = true ∧ s.flipIdle (flipFrame x) (flipToHost x) = false
    ((t.die die).bflip.getLsbD 63 = true ↔ asked) ∧ t.hbm = s.hbm ∧
    (asked → .biasFlipDone (flipFrame x / 65536) (flipToHost x) ∈ t.pending ∧ s.modl.flipping.length < t.modl.flipping.length)) ∧
  (∀ frame host s, s.modl.flipping.find? (fun f => f.1 = frame) = some (frame, host) →
    (host = true → s.dirtyDies (fun l => l / 512 = frame) = []) → OccursWith (.biasFlipDone frame host) s fun t =>
      (let a := s.modl.biasBase + frame / 8;
        (¬spillByte s a → ∀ k, k < 8 → (t.hbm.byte a).getLsbD k = if k = frame % 8 then host else (s.hbm.byte a).getLsbD k) ∧
        ∀ p, p ≠ a → ¬spillByte s p → t.hbm.byte p = s.hbm.byte p) ∧
      t.modl.flipping = dropFlip frame s.modl.flipping ∧
      (host = false → ∀ l ∈ t.modl.hostCopies, l / 512 ≠ frame) ∧
      (host = true → ∀ die, ∀ kf ∈ (t.die die).l2, keyTag kf.1 = 0 → keyLine kf.1 / 512 ≠ frame) ∧
      ∀ die, (s.die die).bflip.getLsbD 63 = true → flipFrame (s.die die).bflip / 65536 = frame → flipToHost (s.die die).bflip = host →
        (t.die die).bflip.getLsbD 63 = false) ∧
  (∀ (die part va pa : Nat) (s : State),
    let k := part * 2 ^ 40 + va / 65536
    let n := (s.die die).counters.get 0 k + 1
    let thr := ((s.die die).hintThr.extractLsb' 0 16).toNat
    let t := s.countForward die part va pa true
    (thr = 0 → t = s) ∧
    (thr ≠ 0 → n ≠ 1 ∨ (s.die die).counters.length < 4096 → (t.die die).counters.get 0 k = (if n < thr then n else 0) ∧
      (.hintPost die part ⟨va / 65536, n, hintSource pa⟩ ∈ t.pending ↔
        thr ≤ n ∨ .hintPost die part ⟨va / 65536, n, hintSource pa⟩ ∈ s.pending))) ∧
  (∀ die part page n src s,
    let d := s.die die
    let tail := d.hintPtr.extractLsb' 32 16
    OccursWith (.hintPost die part ⟨page, n, src⟩) s fun t =>
      (t.die die).hintPtr.extractLsb' 0 32 = d.hintPtr.extractLsb' 0 32 ∧
      (tail - d.hintPtr.extractLsb' 0 16 = 256 → t.hbm = s.hbm ∧ (t.die die).hintPtr.extractLsb' 32 16 = tail ∧
        ((t.die die).hintPtr.extractLsb' 48 16).toNat = min 0xFFFF ((d.hintPtr.extractLsb' 48 16).toNat + 1)) ∧
      (tail - d.hintPtr.extractLsb' 0 16 ≠ 256 → (t.die die).hintPtr.extractLsb' 32 16 = tail + 1 ∧
        let at_ := (d.hintBase.extractLsb' 12 40).toNat * 4096 + 16 * (tail.toNat % 256)
        (at_ < 2 ^ 40 → src < 4 → (∀ p, at_ ≤ p → p < at_ + 16 → ¬spillByte s p) → let x := t.hbm.read 16 at_
          x / 2 ^ 16 % 2 ^ 40 = page % 2 ^ 40 ∧ x / 2 ^ 10 % 2 ^ 6 = part % 2 ^ 6 ∧ x / 2 ^ 6 % 2 ^ 4 = die % 2 ^ 4 ∧
            x / 2 ^ 4 % 4 = src ∧ x / 2 ^ 64 = n % 2 ^ 32) ∧
        ∀ p, p < at_ ∨ at_ + 16 ≤ p → ¬spillByte s p → t.hbm.byte p = s.hbm.byte p)) ∧
  (∀ h s, s.hostLineOf h = none → Occurs (.hostMemRead h) s s ∧ ∀ x psn, Occurs (.hostMemWrite h x psn) s s) ∧
  (∀ h line s, s.hostLineOf h = some line → s.isFlipping (128 * line) = true → Waits (.hostMemRead h) s) ∧
  (∀ h line s, s.hostLineOf h = some line → s.isFlipping (128 * line) = false → s.hostBias (128 * line) = false →
    (OccursWith (.hostMemRead h) s fun t => t.modl.hostData = s.homeLine line ∧ (t.modl.hostPoison = true ↔ line ∈ s.hbmPsn) ∧
      t.hbm = s.hbm ∧ t.dies = s.dies) ∧
    ∀ x psn, OccursWith (.hostMemWrite h x psn) s fun t =>
      (∀ p, ¬spillByte s p → t.hbm.byte p = mergedByte line x s.hbm.byte p) ∧ (psn = true → line ∈ t.hbmPsn)) ∧
  (∀ h line s, s.hostLineOf h = some line → s.isFlipping (128 * line) = false → s.hostBias (128 * line) = true → s.dirtyDies (· = line) = [] →
    OccursWith (.hostMemRead h) s fun t => t.modl.hostData = s.homeLine line ∧ line ∈ t.modl.hostCopies ∧ t.hbm = s.hbm ∧
      ∀ die, ∀ kf ∈ (t.die die).l2, keyTag kf.1 = 0 → keyLine kf.1 ≠ line) ∧
  (∀ line s, s.isFlipping (128 * line) = false → s.hostBias (128 * line) = true → s.dirtyDies (· = line) = [] →
    OccursWith (.hostSnoop line) s fun t => t.hbm = s.hbm ∧ line ∈ t.modl.hostCopies ∧
      ∀ die, ∀ kf ∈ (t.die die).l2, keyTag kf.1 = 0 → keyLine kf.1 ≠ line) ∧
  (∀ line x s, s.open_ = true → s.feature 3 = true → line < 2 ^ 33 → s.isFlipping (128 * line) = false →
    (OccursWith (.fabricRequestIn 15 line x) s fun t => ∀ p, ¬spillByte s p → t.hbm.byte p = mergedByte line x s.hbm.byte p) ∧
    (OccursWith (.fabricRequestIn 14 line x) s fun t =>
      t.modl.fabData = s.homeLine line ∧ (t.modl.fabPoison = true ↔ line ∈ s.hbmPsn) ∧ t.hbm = s.hbm) ∧
    ∀ kind n off y, (kind : BitVec 4) ≠ 14 → kind ≠ 15 → (n = 4 ∨ n = 8) → off % n = 0 → off + n ≤ 128 → x.mask = byteMask off n →
      (line ∈ s.hbmPsn → OccursWith (.fabricRequestIn kind line x) s fun t => t.modl.fabPoison = true ∧ t.hbm = s.hbm) ∧
      (line ∉ s.hbmPsn → atomNew kind (8 * n) (s.hbm.read n (128 * line + off)) (lineFrom x.data off n)
        (lineFrom x.data ((off + n) % 128) n) = some y →
      OccursWith (.fabricRequestIn kind line x) s fun t => t.modl.fabData = s.homeLine line ∧
        ((∀ p, 128 * line + off ≤ p → p < 128 * line + off + n → ¬spillByte s p) → t.hbm.read n (128 * line + off) = y % 2 ^ (8 * n)) ∧
        ∀ p, p < 128 * line + off ∨ 128 * line + off + n ≤ p → ¬spillByte s p → t.hbm.byte p = s.hbm.byte p))

/-- 03 R80 to R87, 04 R116, R117, R122, 15 R408: batches go out with their bytes, homes apply them in causal order and answer, sharers drop the
bytes, sweeps and the ticket are answered, fills bring the home's view. -/
def Obligations.CoherenceEvents : Prop :=
  (∀ die s, (s.die die).nextBatch = [] → Occurs (.rootWriteBatchSend die) s s) ∧
  (∀ die s, die < 12 → (s.die die).nextBatch ≠ [] → OccursWith (.rootWriteBatchSend die) s fun t =>
    let n := clockAt (s.die die).clock die + 1
    t.hbm = s.hbm ∧ (t.die die).clock = clockSet (s.die die).clock die n ∧ (t.die die).l2 = (s.die die).l2 ∧ ∀ q ∈ (s.die die).nextBatch,
      .homeApplyWrite ⟨keyLine q.key, keyTag q.key, keyPart q.key, q.bytes, die, clockSet (s.die die).clock die n, q.psn⟩ ∈ t.pending ∧
      { q with sent := some n } ∈ (t.die die).out) ∧
  (∀ w s, s.canApply w = false → Waits (.homeApplyWrite w) s) ∧
  (∀ w s, s.canApply w = true → w.die < 12 →
    let seen := fun t : State => .writeAck w ∈ t.pending ∧ clockAt t.applied w.die = max (clockAt s.applied w.die) (clockAt w.clock w.die) ∧
      ∀ e, e < 12 → e ≠ w.die → clockAt t.applied e = clockAt s.applied e
    let tag := s.effectiveTag w.part w.tag
    (s.tagLive w.part w.tag = false → OccursWith (.homeApplyWrite w) s fun t => seen t ∧ t.hbm = s.hbm ∧ t.versions = s.versions) ∧
    (s.tagLive w.part w.tag = true →
      (∀ s1, s.homeHolds w.part tag w.line = .inr s1 → Occurs (.homeApplyWrite w) s (s1.post (.homeApplyWrite w))) ∧
      ∀ s1, s.homeHolds w.part tag w.line = .inl s1 → OccursWith (.homeApplyWrite w) s fun t => seen t ∧
        (tag = 0 → (∀ p, ¬spillByte s p → t.hbm.byte p = mergedByte w.line w.bytes s.hbm.byte p) ∧
          (∀ q k l, t.version q k l = s.version q k l) ∧ (w.psn = true → w.line ∈ t.hbmPsn) ∧
          ∀ d ∈ s1.sharers w.line, d ≠ w.die → .applyInvalidation d ⟨w.line, 0, 0, w.bytes, w.die, w.clock, w.psn⟩ ∈ t.pending) ∧
        (tag ≠ 0 → KeepsHbm s t ∧ let m := w.bytes.mask &&& ~~~s1.ringBytes w.line
          (t.version w.part tag w.line).mask = (s.version w.part tag w.line).mask ||| m ∧
          (m ≠ 0 → (t.version w.part tag w.line).data = mergeLine (s.version w.part tag w.line).data w.bytes.data m) ∧
          ∀ d ∈ s1.sharers w.line, d ≠ w.die → .applyInvalidation d { w with tag := tag } ∈ t.pending))) ∧
  (∀ w s, let tag := s.effectiveTag w.part w.tag
    OccursWith (.writeAck w) s fun t => t.hbm = s.hbm ∧
      let acked := fun o : OutWrite => o.key = lineKey w.part w.tag w.line ∧ o.sent = some (clockAt w.clock w.die)
      let f := (s.die w.die).frame w.part tag w.line
      let g := (t.die w.die).frame w.part tag w.line
      (∀ o, o ∈ (t.die w.die).out ↔ o ∈ (s.die w.die).out ∧ ¬acked o) ∧
      ((∀ o ∈ (t.die w.die).out, s.outOf w.part tag w.line o = false) → g.dmask = f.dmask &&& ~~~w.bytes.mask) ∧
      (∀ o ∈ (t.die w.die).out, s.outOf w.part tag w.line o = true → f.dmask &&& o.bytes.mask &&& ~~~g.dmask = 0) ∧
      (tag = 0 → g.vmask = f.vmask)) ∧
  (∀ die w s, s.mustFollow die w = true → Waits (.applyInvalidation die w) s) ∧
  (∀ die w s, s.mustFollow die w = false → OccursWith (.applyInvalidation die w) s fun t => t.hbm = s.hbm ∧
    (∀ k, k < 12 → clockAt (t.die die).clock k = max (clockAt (s.die die).clock k) (clockAt w.clock k)) ∧
    (s.effectiveTag w.part w.tag = 0 → (∀ l ∈ (t.die die).tcache, w.line ∉ l.tables) ∧ (∀ y ∈ (t.die die).pointers, w.line ∉ y.lines) ∧
      ∀ kf ∈ (t.die die).l2, ∀ f, kf.2 = some f → keyLine kf.1 = w.line → f.vmask &&& w.bytes.mask &&& ~~~f.dmask = 0) ∧
    ∀ k, k ≠ die → t.die k = s.die k) ∧
  (∀ g n m x s, s.group? g = some x → x.sweep = some m → s.invalidationsDue (dieOf g.core) (some n) = true → Waits (.sweepAnswer g n) s) ∧
  (∀ g n m x s, s.group? g = some x → x.sweep = some m → s.invalidationsDue (dieOf g.core) (some n) = false →
    Occurs (.sweepAnswer g n) s (if m ||| (1#8 <<< n) = 0xFF ∧ (x.loadSweep = true ∨ ∃ f ∈ x.fences, f.acq = 1) then s.sweepDone g
      else s.modGroup g fun x => { x with sweep := some (m ||| (1#8 <<< n)) })) ∧
  (∀ (g : GroupRef) (x : Group) (s : State), s.group? g = some x → x.fences = [] → (s.sweepDone g).group? g = some { x with sweep := none, loadSweep := false } ∧
    (s.sweepDone g).hbm = s.hbm) ∧
  (∀ s, s.modl.ticketHolder ≠ none → Waits .fenceScTicket s) ∧
  (∀ s, s.modl.ticketHolder = none → s.modl.ticketQueue = [] → Occurs .fenceScTicket s s) ∧
  (∀ s, s.modl.ticketHolder = none → s.modl.ticketQueue ≠ [] → (∀ g ∈ s.modl.ticketQueue, s.wantsTicket g = false) → Waits .fenceScTicket s) ∧
  (∀ g pre rest s, s.modl.ticketHolder = none → s.modl.ticketQueue = pre ++ g :: rest → (∀ q ∈ pre, s.wantsTicket q = false) →
    s.wantsTicket g = true → Occurs .fenceScTicket s (State.stepFences { s.modGroup g fun x => { x with ticket := 2 } with
      modl := { s.modl with ticketHolder := some g, ticketQueue := s.modl.ticketQueue.filter fun q => q ≠ g } } g)) ∧
  (∀ die part line tag need s, s.tagLive part tag = false → Occurs (.homeRequest die part line ⟨tag, need⟩) s s) ∧
  (∀ die part line tag need s, s.tagLive part tag = true → s.canFill die line = false → Waits (.homeRequest die part line ⟨tag, need⟩) s) ∧
  ∀ die part line tag need s, s.tagLive part tag = true → s.canFill die line = true →
    let k := s.effectiveTag part tag
    (∀ s1, s.fill die part k line need = .inr s1 → Occurs (.homeRequest die part line ⟨tag, need⟩) s
      (s1.post (.homeRequest die part line ⟨tag, need⟩))) ∧
    ∀ s1, s.fill die part k line need = .inl s1 → Occurs (.homeRequest die part line ⟨tag, need⟩) s s1 ∧ KeepsHbm s s1 ∧
      let f := (s.die die).frame part k line
      let g := (s1.die die).frame part k line
      g.dmask = f.dmask ∧ need &&& ~~~(g.vmask ||| g.dmask) = 0 ∧ f.vmask &&& ~~~g.vmask = 0 ∧
      (f.vmask ||| f.dmask = BitVec.allOnes 128 → g.data = f.data) ∧
      ∀ e, e < 12 → clockAt (s1.die die).clock e = max (clockAt (s.die die).clock e) (clockAt s.applied e)

/-- 03 R84, R87, R103, 06 R162 to R167, 15 R402, R408 to R411, 01 R26: the lines of a logged word wait for their walk, their fill and their
owner, then make their accesses, the lanes of an atomic one by one; a walk caches its leaf, or ends in a fault that Chihoat resolves or
declines; a fault is delivered as a trap; a late fault goes back to the recorded region or kills the team. -/
def Obligations.LoggedWordEvents : Prop :=
  (∀ g e vl s t n, s.team? g = some t → s.logEntry g e = some n →
    let accs := n.accs.filter fun a => a.addr / 128 = vl
    let die := dieOf g.core
    accs ≠ [] → ∀ i ∈ [Instr.lineDataArrive g e vl, .laneStorePerform g e vl],
      (s.translate die t.bind.part (128 * vl) n.op.kind = .walk →
        Occurs i s ((s.missOn die t.bind.part vl (.lane g e vl)).getD (s.post i))) ∧
      (s.translate die t.bind.part (128 * vl) n.op.kind = .stalled → Waits i s) ∧
      (∀ c, s.translate die t.bind.part (128 * vl) n.op.kind = .refused c → Occurs i s (s.logFault g e 4 c (128 * vl))) ∧
      ∀ pa pte, s.translate die t.bind.part (128 * vl) n.op.kind = .at_ pa pte → placeOf pa = .hbm →
        (∀ a ∈ accs, s.accLive t.bind.part n a = true) →
        (∀ a ∈ accs, s.owned die t.bind.part (s.accTag t.bind.part n a) (pa / 128) = false) →
        let s0 := s.coreCaches g.core t.bind.part (128 * vl)
        let tags := s0.accTags t.bind.part n accs
        let done := fun u : State => u.accsDone g e fun a => accs.contains a
        (n.op.kind = 1 → (∀ a ∈ accs, s.accTag t.bind.part n a = 0) →
          (∀ s1, s0.allocTags die t.bind.part (pa / 128) tags = .inr s1 → Occurs i s (s1.post i)) ∧
          ∀ s1, s0.allocTags die t.bind.part (pa / 128) tags = .inl s1 →
            Occurs i s (done ((s1.hostYields (pa / 128)).writeLine g t.bind.part (pa / 128) n accs))) ∧
        (n.op.kind = 0 → n.plainWide = false →
          (s0.covered die t.bind.part (pa / 128) n accs = false → Occurs i s ((s0.requestFor g t.bind.part (pa / 128) n accs).post i)) ∧
          (s0.covered die t.bind.part (pa / 128) n accs = true → (∀ k ∈ tags, s0.linePoisoned die t.bind.part k (pa / 128) = true →
            Occurs i s (s0.logFault g e 12 0 0)) ∧
            ((∀ k ∈ tags, s0.linePoisoned die t.bind.part k (pa / 128) = false) → Occurs i s (done (tags.foldl
              (fun s k => s.touchFrame g t.bind.part k (pa / 128) n.nc (n.filled.contains (pa / 128)))
              (s0.readLine g t.bind.part (pa / 128) n accs)))))) ∧
        ∀ a as, accs = a :: as → n.op.kind = 2 → n.op.atHome = false → n.plainWide = false → (∀ a ∈ accs, s.accTag t.bind.part n a = 0) →
          s0.covered die t.bind.part (pa / 128) n accs = true → (∀ k ∈ tags, s0.linePoisoned die t.bind.part k (pa / 128) = false) →
          let s1 := ((s0.hostYields (pa / 128)).atomSlice g t.bind.part (pa / 128) n a).accsDone g e fun b => [a].contains b
          Occurs i s (if as = [] then s1 else s1.post i)) ∧
  (∀ die part v s,
    let ws := (((s.die die).walks.find? fun y => y.part = part && y.vpage = v).map (·.waiters)).getD []
    (∀ s1, s.walkOn die part (65536 * v) = .waits s1 → Occurs (walkOf die part v) s (s1.post (walkOf die part v))) ∧
    (∀ s1, s.walkOn die part (65536 * v) = .cached s1 →
      Occurs (walkOf die part v) s (ws.foldl State.wake (s1.endWalk die part v)) ∧ KeepsHbm s s1 ∧
      ∃ pte b tables, s.dieWalk die part (65536 * v) = .leaf pte b tables ∧
        ⟨part, 65536 * v / 2 ^ b, b, pte, tables⟩ ∈ (s1.die die).tcache) ∧
    ∀ s1 c, s.walkOn die part (65536 * v) = .fault s1 c → s.dieWalk die part (65536 * v) = .fault c ∧
      (Config.chihoat s1.choices = none → Occurs (walkOf die part v) s
        (ws.foldl (fun s w => s.tellDeclined c w) { s1.endWalk die part v with choices := s1.choices + 1 })) ∧
      ∀ es, Config.chihoat s1.choices = some es → s1.homesOpen die = true → Occurs (walkOf die part v) s
        (ws.foldl State.wake (State.installEntries { s1.endWalk die part v with choices := s1.choices + 1 } die es))) ∧
  (∀ g e s t n, s.team? g = some t → s.logEntry g e = some n → n.accs ≠ [] → n.done = 0 →
    n.lowest = false → (∀ a ∈ n.accs, s.accLive t.bind.part n a = true) →
    OccursWith (.operandLogReplay g e) s fun u => u.hbm = s.hbm ∧ u.dies = s.dies ∧ ∀ a ∈ n.accs, ∃ i ∈ u.pending,
      i = .laneStorePerform g e (a.addr / 128) ∨ i = .rldFill g e ∨ i = .lineDataArrive g e (a.addr / 128)) ∧
  (∀ g e s t n qd tensor num a as, s.team? g = some t → s.logEntry g e = some n → n.accs = a :: as →
    let size := if tensor then 64 else 32
    (∀ img, n.op = .rld qd tensor true num (some img) → Occurs (.rldFill g e) s (s.rldDone g t n qd tensor img)) ∧
    (n.op = .rld qd tensor true num none → s.scratchPoisoned g.core size (t.bind.spbase + a.addr) = true →
      Occurs (.rldFill g e) s (s.logFault g e 12 0 0)) ∧
    (n.op = .rld qd tensor true num none → s.scratchPoisoned g.core size (t.bind.spbase + a.addr) = false →
      let img := BitVec.ofNat 512 (s.scratchRead g.core size (t.bind.spbase + a.addr))
      Occurs (.rldFill g e) s ((s.installRecord g.core num ⟨true, a.addr, tensor, img⟩).rldDone g t n qd tensor img))) ∧
  (∀ g e s t x n f, s.team? g = some t → s.group? g = some x → s.logEntry g e = some n → n.fault = some f →
    (x.wait ≠ .none → Waits (.trapDeliver g e) s) ∧
    (x.wait = .none → (f.cls ≠ 12 ∨ s.policyB t.bind.part = false) → (x.frontier ≠ [] ∨ x.aside ≠ [] ∨ x.handler ≠ none) →
      (f.cls ≠ 11 ∨ x.trapv.getLsbD 57 = true) → Occurs (.trapDeliver g e) s
        (s.takeTrap g ⟨f.cls, f.cause, some (lowestLane (n.mask &&& ~~~n.done)), f.addr, 0, false, 0⟩
          ⟨x.current.getD noEntry, n.mask, n.done, n.pc.toNat, n.pc.toNat + 4, false, some n.slot⟩))) ∧
  ∀ g line s t x, s.team? g = some t → s.group? g = some x → s.policyB t.bind.part = false → 96 ≤ line → x.log = [] →
    (x.idem.getLsbD 63 = false → Occurs (.lateFault g line) s (s.killTeam g.core g.slot 1)) ∧
    (x.idem.getLsbD 63 = true → x.idem.setWidth 32 ≠ (0 : Lanes) → s.enginesBusy g = false → OccursWith (.lateFault g line) s fun u => ∃ y e, u.group? g = some y ∧
      y.frontier = [e] ∧ e.pc = BitVec.ofNat 56 (t.bind.entry + 12 * (x.idem.extractLsb' 32 24).toNat) ∧ e.mask = x.idem.setWidth 32 ∧
      e.gmask = 0 ∧ e.pri = x.idem.extractLsb' 56 6 ∧ y.handler = none ∧ y.aside = [] ∧ y.lcur = 32 ∧
      ∀ l, e.mask.getLsbD l = true → y.keyOf l = x.idemKey.get 0 l ∧ y.ctrOf l = x.idemCtr.get 0 l)

/-- 12 R323, 08 R219, R220: a dense product word writes every cell of its tile with the start value and the products added, and no other
column of the accumulator. -/
def Obligations.DenseProduct : Prop :=
  ∀ (p : Product) (k : Core), p.a.r.mask = 0 → p.t.col0 + p.t.cols ≤ 512 →
    (∀ i j, i < p.t.nr → j < p.t.nc → (p.run k).1.cell p.t (p.t.row0 + i) j = p.value k i j) ∧
    ∀ r c, c < 512 → (r < p.t.row0 ∨ p.t.row0 + p.t.nr ≤ r ∨ c < p.t.col0 ∨ p.t.col0 + p.t.cols ≤ c) → (p.run k).1.accCol r c = k.accCol r c

/-- 12 R326, R328, R331, R336, R351, 13 R359, 03 R90, 02 R70: units take up their oldest command when nothing holds it, ranges are registered
before a command runs, a lease is granted to the head of its queue and ends, a latch closes into one command, completion takes the
command away, a delivery counts on its object. A command waits while a line of its range is walked, and a unit that cannot take a command up looks
again later. -/
def Obligations.EngineEvents : Prop :=
  (∀ core id c s, (s.core core).cmd? id = some c → c.phase ≤ 1 → c.kind.unit ≠ .matrix → c.kind.unit ≠ .port →
    (s.mayStart c = false → Waits (.engineCommandStart core id) s) ∧
    (s.mayStart c = true →
      let e := s.engOf c
      let lines := lineRange (s.ownedLines c)
      (∀ s1, s.startRange e c.hyp.toNat (s.ownedLines c) = .waits s1 → Occurs (.engineCommandStart core id) s
        (s1.post (.engineCommandStart core id))) ∧
      ∀ s1, s.startRange e c.hyp.toNat (s.ownedLines c) = .starts s1 → OccursWith (.engineCommandStart core id) s fun t =>
        ((t.core core).cmd? id).map (·.phase) = some 2 ∧ .engineCommandComplete core id ∈ t.pending ∧ t.hbm = s.hbm ∧
        ∀ l ∈ lines, ∀ x, (s.engineLine e l).value = some x → placeOf x.pa = .hbm →
          ∃ r ∈ (t.die e.die).owned, r.core = e.core ∧ r.cmd = e.cmd ∧ x.pa / 128 ∈ r.lines)) ∧
  (∀ core id c s, (s.core core).cmd? id = some c → 2 ≤ c.phase →
    (c.kind.unit = .request → Occurs (.engineCommandComplete core id) s (s.runRequest id c)) ∧
    (∀ t, (c.kind.unit = .sort ∨ c.kind.unit = .traverse ∨ c.kind.unit = .solve) → s.team? c.g = some t →
      Occurs (.engineCommandComplete core id) s (s.runPhysics id c t.bind))) ∧
  (∀ core c s, (s.core core).nextOf .request = some c → (s.cmdReady c = false ∨ s.requestBlocked c (s.takeupBytes c) [] = true) →
    Occurs (.copyTakeup core) s (s.postOnce (.copyTakeup core))) ∧
  (∀ core c s, (s.core core).nextOf .request = some c → (s.core core).cmd? c.seq = some c → s.cmdReady c = true →
    s.requestBlocked c (s.takeupBytes c) [] = false → OccursWith (.copyTakeup core) s fun t =>
      (t.core core).cmd? c.seq = some { s.takeupReads c with phase := 1 } ∧ .engineCommandStart core c.seq ∈ t.pending ∧
      ∀ k, k ≠ c.seq → (t.core core).cmd? k = (s.core core).cmd? k) ∧
  (∀ core slot off n ok t s, (s.core core).team? slot = some t → off + 32 ≤ t.bind.spsize →
    let a := t.bind.spbase + off
    ((ok = false ∨ s.stageState core a ≠ 1 ∨ s.stagePend core a = 0) →
      Occurs (.stageDelivery core slot off n ok) s (s.endStage core slot off 3)) ∧
    (ok = true → s.stageState core a = 1 → s.stagePend core a ≠ 0 → Occurs (.stageDelivery core slot off n ok) s
      (((s.scratchWrite core 2 (a + 6) (s.stagePend core a - 1)).scratchWrite core 4 (a + 20)
        (s.scratchRead core 4 (a + 20) + n)).testStage core slot off))) ∧
  (∀ core q rest s, (s.core core).liveLease s.cycle = none → (s.core core).leaseQ.dropWhile (fun q => !(s.core core).wanted q) = q :: rest →
    OccursWith (.leaseGrant core) s fun t =>
      (t.core core).lease = some { slot := q.slot, grp := q.grp, partner := q.partner, token := q.grp, words := q.words, ends := s.cycle + q.cycles } ∧ (t.core core).leaseQ = rest ∧
      .leaseExpire core ∈ t.pending ∧ .matrixTakeup core ∈ t.pending ∧ (t.core core).cmds = (s.core core).cmds) ∧
  (∀ core l s, (s.core core).lease = some l →
    let live := s.cycle < l.ends ∧ ∀ n, l.freed = some n → s.cycle < n
    (live → Waits (.leaseExpire core) s) ∧
    (¬live → OccursWith (.leaseExpire core) s fun t => (t.core core).lease = none ∧
      (∃ more, (t.core core).leaseQ = (s.core core).leaseQ ++ more) ∧ (t.core core).cmds = (s.core core).cmds)) ∧
  (∀ core slot m l ls, ∀ s : State, s.latched core slot m = some (l :: ls) →
    ((∃ k ∈ ls, (k.2.word, k.2.tile) ≠ (l.2.word, l.2.tile)) →
      s.closeLatch core slot m = (l :: ls).foldl (fun s l => s.breakLatchOf l.1 l.2) s) ∧
    ∀ c, (∀ k ∈ ls, (k.2.word, k.2.tile) = (l.2.word, l.2.tile)) →
      gangCmd ((l :: ls).filterMap fun k => (s.core core).cmd? k.2.cmd) = some c →
      let t := s.closeLatch core slot m
      (t.core core).cmd? c.seq = some c ∧ .gangLatchClose core slot m ∈ t.pending ∧
        (∀ k ∈ l :: ls, ∀ x, t.group? k.1 = some x → ∀ y ∈ x.latches, y.cmd ≠ k.2.cmd) ∧
        ∀ k ∈ l :: ls, k.2.cmd ≠ c.seq → (t.core core).cmd? k.2.cmd = none) ∧
  (∀ core slot m s,
    let mine := fun c : Cmd => c.latched && c.g.slot = slot && !c.also.isEmpty && (c.g.grp :: c.also.map fun k => k.1.grp) = gangList m
    ((s.core core).commands.find? mine = none → Occurs (.gangLatchClose core slot m) s s) ∧
    ∀ c, (s.core core).commands.find? mine = some c → (s.core core).cmd? c.seq = some c →
      OccursWith (.gangLatchClose core slot m) s fun t => (t.core core).cmd? c.seq = some { c with latched := false } ∧
        .matrixTakeup core ∈ t.pending ∧ ∀ k, k ≠ c.seq → (t.core core).cmd? k = (s.core core).cmd? k) ∧
  (∀ core l c s,
    let s1 := s.enterRequests core
    (s1.core core).liveLease s1.cycle = some l → (s1.core core).nextMatrix l = some c → s1.matrixBlocked c = false →
    OccursWith (.matrixTakeup core) s fun t => (t.core core).matrix = (s1.core core).matrix ++ [c.seq] ∧
      (t.core core).cmd? c.seq = some { c with phase := 1 } ∧ .matrixComplete core c.seq ∈ t.pending ∧
      (2 ≤ l.words → (t.core core).lease = some { l with words := l.words - 1 }) ∧ (l.words ≤ 1 → (t.core core).lease = none)) ∧
  (∀ core id c s, (s.core core).cmd? id = some c → (s.core core).matrix.head? ≠ some id →
    Occurs (.matrixComplete core id) s ((s.readLines core c).post (.matrixComplete core id))) ∧
  (∀ core id c t s, (s.core core).cmd? id = some c → (s.core core).matrix.head? = some id → s.team? c.g = some t →
    (c.readsOn = true → Occurs (.matrixComplete core id) s ((s.readLines core c).post (.matrixComplete core id))) ∧
    (c.readsOn = false → Occurs (.matrixComplete core id) s (((s.modCore core fun _ => (runMatrix c t.bind (s.core core)).1).modCmd core id fun c =>
      c.fail (runMatrix c t.bind (s.core core)).2).endCmd core id))) ∧
  (∀ core c s, (s.core core).nextOf .port = some c → (s.core core).cmd? c.seq = some c →
    (∀ d ∈ (s.core core).commands, d.kind.unit = .port → d.phase = 0) → s.portBlocked c = false →
    OccursWith (.accTakeup core) s fun t => (t.core core).cmd? c.seq = some { c with phase := 1 } ∧ .accComplete core c.seq ∈ t.pending ∧
      (t.core core).acc = (s.core core).acc) ∧
  (∀ core c s, (s.core core).nextOf .port = some c → s.portBlocked c = true →
    Occurs (.accTakeup core) s (s.postOnce (.accTakeup core))) ∧
  ∀ core id c t s, (s.core core).cmd? id = some c → s.team? c.g = some t →
    Occurs (.accComplete core id) s (s.runAcc c t.bind) ∧
    ∀ x, s.accJob c t.bind = some x → x.t.nr ≤ c.left.headD 0 →
      s.runAcc c t.bind = (if x.err then s.modCmd c.g.core c.seq fun c => c.fail 1 else s).endCmd c.g.core c.seq

/-- 13 R362 to R370: a chain's entry runs as the word of its type, its mask-walk submits its products in order, a loop counts and moves its
records, a conditional and a signal wait for the chain's commands, a stop ends it, and the fret of the `kick` falls with its last
command. -/
def Obligations.ChainEvents : Prop :=
  (∀ core n x e s, ChainReady core n 0 x e s → Occurs (.chainStop core n) s (s.stopChain core n 0)) ∧
  (∀ core n e x s k, k ∈ [(Instr.chainCopy core n, 1, if e.head.getLsbD 9 then 1 else 0), (.chainGatherFill core n, 2, 2),
      (.chainMulticast core n, 3, 3)] → ChainReady core n k.2.1 x e s →
    let y : CopyCtx := ⟨x.h.q, x.h.res, x.t.bind, core⟩
    (copyTrap k.2.2 e.w1 e.w2 y ≠ none → Occurs k.1 s (s.stopChain core n 1)) ∧
    (copyTrap k.2.2 e.w1 e.w2 y = none → placed (y.q.get none (cwQs e.w1)) = true → (cwDk e.w1 = 0 → placed (y.q.get none (cwQd e.w1)) = true) →
      (16 ≤ (s.core core).requests.length → Occurs k.1 s (s.post (chainEvent core n k.2.1))) ∧
      ((s.core core).requests.length < 16 → Occurs k.1 s (chainOn core n k.2.1 (x.h.off + 32)
        ((s.chainSubmit x (copyKind k.2.2 e.rm e.w1 e.w2 y)).modGroup x.h.g fun g =>
          { g with noFlush := g.noFlush || forbidsFlush k.2.2 e.w2 }))))) ∧
  (∀ core n x e s, ChainReady core n 4 x e s →
    let bits := (e.w2.extractLsb' 20 9).toNat + 1
    (∀ st, x.read s ((bits + 7) / 8) (e.w2.extractLsb' 0 20).toNat = .inr st → Occurs (.chainMaskWalk core n) s (s.stopChain core n st)) ∧
    ∀ mask s1 ok, x.read s ((bits + 7) / 8) (e.w2.extractLsb' 0 20).toNat = .inl mask →
      maskProducts x e ((List.range bits).filter fun b => mask / 2 ^ b % 2 = 1) s = (s1, ok) →
      Occurs (.chainMaskWalk core n) s (chainOn core n 4 (x.h.off + 32) (if ok then s1 else s1.stopChain core n 1))) ∧
  (∀ core n x e s, ChainReady core n 5 x e s →
    let id := (e.head.extractLsb' 13 2).toNat
    let count := if x.h.counters.get 0 id = 0 then e.arg else x.h.counters.get 0 id - 1
    OccursWith (.chainLoop core n) s fun t => ∃ h, (t.core core).chains.get none n = some h ∧ h.counters.get 0 id = count ∧
      h.executed = x.h.executed + 1 ∧ h.off = (if count = 0 then x.h.off + 32 else (e.w1.extractLsb' 0 20).toNat) ∧
      (count = 0 → h.q = x.h.q) ∧
      (count ≠ 0 → ∀ k q, x.h.q.get none k = some q → ∃ r, h.q.get none k = some r ∧ r.tensor = q.tensor ∧
        let a : Int := if e.w3.getLsbD 8 = true ∧ k = (e.w3.extractLsb' 0 4).toNat then (e.w2.extractLsb' 32 32).toInt else 0
        let b : Int := if e.w3.getLsbD 9 = true ∧ k = (e.w3.extractLsb' 4 4).toNat then (e.w2.extractLsb' 0 32).toInt else 0
        (field r.img 0 56 : Int) = (field q.img 0 56 + a + b) % 2 ^ 56)) ∧
  (∀ core n x e s, ChainReady core n 6 x e s →
    ((s.core core).chainBusy n = true → Occurs (.chainConditional core n) s (s.post (.chainConditional core n))) ∧
    ∀ y, (s.core core).chainBusy n = false → x.read s 4 (e.w1.extractLsb' 0 20).toNat = .inl y →
      let c := (e.w1.extractLsb' 20 2).toNat
      let holds := (c = 0 ∧ y = e.arg) ∨ (c = 1 ∧ y ≠ e.arg) ∨ (c = 2 ∧ y < e.arg) ∨ (c = 3 ∧ e.arg ≤ y)
      (holds → Occurs (.chainConditional core n) s (chainOn core n 6 (e.w2.extractLsb' 0 20).toNat s)) ∧
      (¬holds → Occurs (.chainConditional core n) s (chainOn core n 6 (x.h.off + 32) s))) ∧
  (∀ core n x e s w, ChainReady core n 7 x e s → (s.core core).chainBusy n = false →
    (if e.w1.getLsbD 27 then
      (e.w1.extractLsb' 20 4).toNat < x.t.shapeR ∧ (e.w1.extractLsb' 24 3).toNat < x.t.shapeC ∧
        s.memberWin x.t x.h.g.slot (e.w1.extractLsb' 20 4).toNat (e.w1.extractLsb' 24 3).toNat = .here w
    else w = ⟨core, x.h.g.slot, x.t.bind⟩) →
    s.windowOk w (e.w1.extractLsb' 0 20).toNat 4 = true →
    let a := w.bind.spbase + (e.w1.extractLsb' 0 20).toNat
    let add := e.w1.getLsbD 28
    (add = true → s.scratchPoisoned w.core 4 a = false) →
    Occurs (.chainSignal core n) s (chainOn core n 7 (x.h.off + 32)
      (s.scratchWrite w.core 4 a (if add then (s.scratchRead w.core 4 a + e.arg) % 2 ^ 32 else e.arg)))) ∧
  ∀ core n h s, (s.core core).chains.get none n = some h → (h.stopped = false ∨ (s.core core).chainBusy n = true → Occurs (.chainDone core n) s s) ∧
    (h.stopped = true → (s.core core).chainBusy n = false → h.status ≠ 2 → Occurs (.chainDone core n) s
      ((s.fretDown h.g h.fret h.status).modCore core fun k => { k with chains := k.chains.set none n none }))

/-- 14 R383 to R388, R391, R398, 05 R153: a doorbell moves PROD or counts as ignored, every packet that the rules accept has its effect on its
queue, its launch or its partition, a launch's clusters are placed in order, and its record is written when it is over. -/
def Obligations.PacketEvents : Prop :=
  (∀ part q prod p s, s.part? part = some p → s.open_ = true → q < 16 →
    let n := (prod - (p.lq q).cons).toNat
    (2 ^ p.lqn < n ∨ n < (p.lq q).count → OccursWith (.doorbellWrite part q prod) s fun t =>
      t.queueRegs part q = some { p.lq q with ignored := if (p.lq q).ignored = 0xFFFF then 0xFFFF else (p.lq q).ignored + 1 } ∧
        t.pending = s.pending) ∧
    ((p.lq q).count ≤ n → n ≤ 2 ^ p.lqn → OccursWith (.doorbellWrite part q prod) s fun t =>
      t.queueRegs part q = some { p.lq q with prod := prod })) ∧
  (∀ part q p s, s.part? part = some p → q < 16 → OccursWith (.doorbellIgnoredClear part q 0) s fun t =>
    t.queueRegs part q = some { p.lq q with ignored := 0 }) ∧
  (∀ part q p x s, PacketAt part q (.pktLaunch part q) p x s → packetType x = 1 →
    let est := (p.lq q).estimate x
    let s0 := (s.modLq part q fun k => { k with batch := est.2 }).modPart part fun p => { p with committed := p.committed + est.1 }
    (launchMalformed x = true → Occurs (.pktLaunch part q) s
      ((((s.modLq part q fun k => { k with batch := est.2 }).taken part q).complete part x 5).serve part)) ∧
    (launchMalformed x = false → est.1 ≠ 0 → p.budget < p.committed + est.1 → p.committed ≠ 0 → OccursWith (.pktLaunch part q) s fun t =>
      t.queueRegs part q = some { p.lq q with held := true }) ∧
    (launchMalformed x = false → (est.1 = 0 ∨ p.committed + est.1 ≤ p.budget ∨ p.committed = 0) →
      ∀ k, s0.findImage part (field x 64 56) = some k →
        (launchRefused p (p.lq q) x k = true → Occurs (.pktLaunch part q) s
          (({ s0.taken part q with choices := s0.choices + 1 }.complete part x 3).serve part)) ∧
        ∀ id, launchRefused p (p.lq q) x k = false →
          (∀ e ∈ k.relocs, s0.badReloc part (field x 64 56) k e = false) →
          s0.freeLaunch = some id → OccursWith (.pktLaunch part q) s fun t =>
            t.launch? id = some (launchOf part q (p.lq q) x k) ∧ .clusterPlace (p.order.headD id) ∈ t.pending ∧
            (t.part? part).map (fun p => (p.order, p.committed)) = some (p.order ++ [id], p.committed + est.1) ∧
            t.queueRegs part q = some { p.lq q with cons := (p.lq q).cons + 1, batch := est.2 })) ∧
  (∀ part q p x s, PacketAt part q (.pktDependenceWait part q) p x s →
    fieldsOnly x [(64, 56), (128, 64), (192, 1)] → field x 64 56 % 8 = 0 → OccursWith (.pktDependenceWait part q) s fun t =>
      t.queueRegs part q = some { p.lq q with
        cons := (p.lq q).cons + 1
        depWait := some (field x 64 56, BitVec.ofNat 64 (field x 128 64), decide (field x 192 1 = 1)) } ∧ .dependenceWaitPoll part q ∈ t.pending) ∧
  (∀ part q p a w ge y s, s.part? part = some p → (p.lq q).depWait = some (a, w, ge) → s.rootRead part 8 a = some y →
    let holds := if ge then w.toNat ≤ y else y = w.toNat
    (holds → OccursWith (.dependenceWaitPoll part q) s fun t => t.queueRegs part q = some { p.lq q with depWait := none }) ∧
    (¬holds → Waits (.dependenceWaitPoll part q) s)) ∧
  (∀ part q p x s, PacketAt part q (.pktSetDeterminism part q) p x s → fieldsOnly x [(8, 1), (64, 2)] → field x 64 2 < 3 →
    (field x 64 2 = 2 → s.feature 4 = true) → field x 8 1 = 0 → OccursWith (.pktSetDeterminism part q) s fun t =>
      t.queueRegs part q = some { p.lq q with cons := (p.lq q).cons + 1, level := BitVec.ofNat 2 (field x 64 2) }) ∧
  (∀ part q p x s, PacketAt part q (.pktSetNbv part q) p x s →
    (fieldsOnly x [(64, 8)] → field x 64 8 = 1 → OccursWith (.pktSetNbv part q) s fun t =>
      t.queueRegs part q = some { p.lq q with cons := (p.lq q).cons + 1, nbv := 1 }) ∧
    (field x 64 8 ≠ 1 → Occurs (.pktSetNbv part q) s ((s.failPacket part q).serve part))) ∧
  (∀ part q p x s, PacketAt part q (.pktEnergyEstimate part q) p x s → fieldsOnly x [(64, 20), (96, 16)] → field x 96 16 ≠ 0 →
    OccursWith (.pktEnergyEstimate part q) s fun t =>
      t.queueRegs part q = some { p.lq q with cons := (p.lq q).cons + 1, batch := some (field x 96 16, field x 64 20) }) ∧
  (∀ part q p x e s, PacketAt part q (.pktSpillGrant part q) p x s → grantExtent s.allExtents p x = some e → field x 127 1 = 1 →
    OccursWith (.pktSpillGrant part q) s fun t => (t.part? part).map (fun p => (p.extents, p.capWaits)) = some (p.extents ++ [e], none) ∧
      t.queueRegs part q = some { p.lq q with cons := (p.lq q).cons + 1 }) ∧
  (∀ id l p o s, s.launch? id = some l → s.part? l.part = some p → p.order.head? = some id → p.resetting = false →
    s.chooseOrigin l (p.canonical l.image.shapeR l.image.shapeC (if l.hinted then some l.dieMask else none)) = some o →
    OccursWith (.clusterPlace id) s fun t => t.launch? id = some { l with
      nextCluster := l.nextCluster + 1
      clusters := l.clusters ++ [⟨l.nextCluster, s.cycle, o.1, o.2.1, o.2.2, []⟩] } ∧
      (l.nextCluster + 1 = l.nclus → ∀ p', t.part? l.part = some p' → id ∉ p'.order)) ∧
  (∀ id l s, s.launch? id = some l → s.launchOver id l = false → Occurs (.launchComplete id) s s) ∧
  ∀ id l s, s.launch? id = some l → s.launchOver id l = true → (∀ d, d < 12 → s.dieQuiet d = true) →
    OccursWith (.launchComplete id) s fun t => t.launch? id = none ∧
      t.hbm = (if l.compl = 0 then s
        else s.rootStore l.part 8 l.compl (l.tag.toNat * 2 ^ 32 + l.status.toNat * 2 ^ 8 + 1)).hbm

/-- 14 R389, R390, 15 R412 to R416, 09 R236: a bind puts a fresh team into a free slot or is refused, a kill and a release answer in SLOTCMD, a
save drains, flushes or saves and then gives the slot up, an exited group gives its slot up when nothing of it is left. -/
def Obligations.SlotEvents : Prop :=
  (∀ core slot s, slot < 128 → (s.core core).team? slot = none → firstWaiting (s.waiting core) = none → (s.core core).slotSrc ≠ 0 →
    (s.core core).preAct.getLsbD 2 = false →
    let x := s.recordAt core
    let b := BindRec.ofImage x
    (s.bindRefused core x = true → Occurs (.slotBind core slot) s (s.slotResult core slot 0 1)) ∧
    (s.bindRefused core x = false → OccursWith (.slotBind core slot) s fun t => ∃ tm, (t.core core).team? slot = some tm ∧ tm.bind = b ∧
      (t.core core).slotCmd = slotAnswer 0 0 slot ∧ t.hbm = s.hbm ∧
      (∀ n, n ≠ slot → (t.core core).team? n = (s.core core).team? n) ∧
      t.scratchRead core 8 (b.spbase + b.spsize - 16) = b.arg0.toNat ∧ t.scratchRead core 8 (b.spbase + b.spsize - 8) = b.arg1.toNat ∧
      (∀ r c, b.abase ≤ r → r < b.abase + b.arows → c < 512 → (t.core core).accCol r c = 0) ∧
      ∀ g, g ≤ b.ngm1 → ∃ y e, tm.group? g = some y ∧ y.frontier = [e] ∧ e.pc = BitVec.ofNat 56 b.entry ∧
        e.mask = lanesBelow (min 32 (b.lanesm1 + 1 - 32 * g)) ∧ e.gmask = 0 ∧ y.exited = ~~~e.mask ∧ y.handler = none ∧ y.lcur = 32 ∧
        (∀ n l, tm.vget g n l = 0) ∧ (∀ n, y.sget n = 0) ∧ (∀ n, n ≠ 0 → y.pget n = 0) ∧ (∀ n, y.fret n = ⟨0, 0⟩) ∧
        ∀ l, y.hypOf l = 0 ∧ y.keyOf l = 0 ∧ y.ctrOf l = 0)) ∧
  (∀ core slot s, (s.core core).team? slot = none → Occurs (.slotKill core slot) s (s.slotResult core slot 2 3) ∧
    Occurs (.slotRelease core slot) s (s.slotResult core slot 3 3) ∧ Occurs (.slotSave core slot) s (s.slotResult core slot 1 3)) ∧
  (∀ core slot t s, (s.core core).team? slot = some t → OccursWith (.slotKill core slot) s fun u =>
    (u.core core).slotCmd = slotAnswer 2 0 slot ∧ .slotRelease core slot ∈ u.pending ∧
    ∀ g y, t.group? g = some y → ∃ z, u.group? ⟨core, slot, g⟩ = some z ∧ z.frontier = [] ∧ z.handler = none ∧ z.released = true ∧
      z.exited = BitVec.allOnes 32) ∧
  (∀ core slot t s, (s.core core).team? slot = some t → (∀ gx ∈ t.groups, ∀ x, gx.2 = some x → x.released = true) →
    ((s.core core).slotBusy slot = true → Waits (.slotRelease core slot) s) ∧
    ((s.core core).slotBusy slot = false → OccursWith (.slotRelease core slot) s fun u =>
      (u.core core).team? slot = none ∧ (u.core core).slotCmd = slotAnswer 3 0 slot ∧ .launchComplete t.bind.launch ∈ u.pending ∧
      ∀ n q, (u.core core).queues.get none n = some q → q.owner ≠ slot)) ∧
  (∀ g t x s, s.team? g = some t → s.group? g = some x → x.released = false → x.exited = BitVec.allOnes 32 →
    (x.spent = false → Waits (.groupSlotRelease g) s) ∧
    (x.spent = true → OccursWith (.groupSlotRelease g) s fun u => (u.group? g).map (·.released) = some true ∧
      ∀ l, s.launch? t.bind.launch = some l → l.status = 0 → (u.launch? t.bind.launch).map (·.status) =
        some (if (x.failedFret (List.range 12)).isSome then 1 else 0))) ∧
  (∀ core slot t s, (s.core core).team? slot = some t → t.save = .none → t.over = false →
    (∀ gx ∈ t.groups, ∀ x, gx.2 = some x → x.midWord = false) →
    (s.drains core t = true → OccursWith (.slotSave core slot) s fun u =>
      ((u.core core).team? slot).map (fun t => (t.save, t.drainEnd)) = some (.draining, s.cycle + (s.die (dieOf core)).dmax) ∧
      (u.core core).preAct.extractLsb' 0 2 = 0 ∧ .preemptDrainTimeout core slot ∈ u.pending) ∧
    (s.drains core t = false → s.flushes core t = true → Occurs (.slotSave core slot) s ((s.killForAgain core slot).setAct core 2)) ∧
    (s.drains core t = false → s.flushes core t = false → OccursWith (.slotSave core slot) s fun u =>
      ((u.core core).team? slot).map (·.save) = some .saving ∧ (u.core core).preAct.extractLsb' 0 2 = 1 ∧
      (u.core core).slotSrc = BitVec.ofNat 64 t.ctx ∧ .contextSaveWrite core slot ∈ u.pending)) ∧
  (∀ core slot t s, (s.core core).team? slot = some t → t.save = .draining → t.over = false →
    (s.cycle < t.drainEnd → Waits (.preemptDrainTimeout core slot) s) ∧
    (t.drainEnd ≤ s.cycle → (∀ gx ∈ t.groups, ∀ x, gx.2 = some x → x.midWord = false) →
      OccursWith (.preemptDrainTimeout core slot) s fun u => ((u.core core).team? slot).map (·.save) = some .saving ∧
        (u.core core).preAct.extractLsb' 0 2 = 1 ∧ .contextSaveWrite core slot ∈ u.pending)) ∧
  ∀ core slot t s, slot < 128 → (s.core core).team? slot = some t → t.save = .saving → t.over = false →
    (s.atRest core slot t = false → Waits (.contextSaveWrite core slot) s) ∧
    (s.atRest core slot t = true → OccursWith (.contextSaveWrite core slot) s fun u =>
      (u.core core).team? slot = none ∧ (u.core core).slotCmd = slotAnswer 1 0 slot)

/-- 16 R430 to R438: a write of PROD starts the next command, a command that breaks a rule ends with STATUS 2, its result is the value of
the slot tree, node values count once, a completion entry is written and CONS advances, a broken communicator completes every
command with STATUS 1, and type 5 packets create and rebuild communicators. -/
def Obligations.CollectiveEvents : Prop :=
  (∀ i c prod hyp s, s.comm? i = some c →
    let n := (s.commProd c - s.commCons c).toNat
    (hyp ≠ 0 → Occurs (.collProdWrite i prod hyp) s (s.rootWrite c.part 8 (c.compl + 8 * ((s.commProd c).toNat % 2 ^ c.lring)) 2)) ∧
    (hyp = 0 → prod ≠ s.commCons c → c.cmd = none → s.commBroken c = false → c.ready = false → Occurs (.collProdWrite i prod hyp) s s) ∧
    (hyp = 0 → prod ≠ s.commCons c → c.cmd = none → s.commBroken c = false → c.ready = true →
      (n = 0 ∨ 2 ^ c.lring < n → Occurs (.collProdWrite i prod hyp) s s) ∧
      ∀ x, n ≠ 0 → n ≤ 2 ^ c.lring → s.commCommand c (s.commCons c).toNat = some x → OccursWith (.collProdWrite i prod hyp) s fun t =>
        t.comm? i = some { c with cmd := some x, phase := 0, work := Work.new, result := none } ∧ commEvent i x ∈ t.pending ∧ t.hbm = s.hbm)) ∧
  (∀ i c x s e, CommAt i c x s → e ∈ [(Instr.collAllReduce i, 0), (.collReduce i, 1), (.collBroadcast i, 2)] → commKind x = e.2 →
    (c.phase = 0 → commMalformed c x = true ∨ (c.dci = false ∧ s.atLevel2 c.part = true) → OccursWith e.1 s fun t =>
      t.comm? i = some { c with result := some 2 } ∧ .collComplete i ∈ t.pending ∧ t.hbm = s.hbm ∧ t.dies = s.dies) ∧
    (c.phase = 1 → ∀ vals outs, (c.sources x).map (fun a => s.engineRead (c.eng i) (.glob a) 4) = vals.map .got → c.destinations x ≠ [] →
      (List.range (commLen x)).map (fun k => c.resultAt x vals k) = outs.map some →
      .failed ∉ (putLines ((c.destinations x).map .glob)).map (s.engineStore (c.eng i)) →
      let items := (List.zip (c.destinations x) (List.zip outs (List.range (commLen x)))).map fun d =>
        (Loc.glob d.1, some (d.2.1.toNat, c.poisonedAt x vals d.2.2))
      (∀ s1, s.engineWrite (c.eng i) 4 items = .more s1 → Occurs e.1 s (s1.post e.1)) ∧
      ∀ s1 w, s.engineWrite (c.eng i) 4 items = .done s1 w →
        Occurs e.1 s ((s1.modComm i fun c => { c with phase := if vals.any (·.2) then 3 else 2 }).post e.1)) ∧
    (c.phase = 2 → (s.leaveApplied (c.eng i)).owesWrites (c.eng i) = false → OccursWith e.1 s fun t =>
      t.comm? i = some { c with result := some 0 } ∧ .collComplete i ∈ t.pending ∧ t.hbm = s.hbm)) ∧
  (∀ (c : Comm) x vals used k, c.nodes = [] → c.mine = (4096, used, 0) → used ≤ 4096 → vals.length = used * commLen x →
    k < commLen x → commKind x ≠ 2 → c.resultAt x vals k = some
      ((slotTree (commOp x) (fun n => if n < used then some (BitVec.ofNat 32 (vals.getD (n * commLen x + k) (0, false)).1) else none) 12 0).getD
        0)) ∧
  (∀ i c lo hi k v s, s.comm? i = some c → s.commBroken c = false → c.cmd = none → Waits (.collNodeReceive i lo hi k v) s) ∧
  (∀ i c x lo hi k v s, CommAt i c x s → c.phase ≤ 1 → c.received k lo hi = none →
    let node := k < commLen x ∧ hi ≤ 4096 ∧ ∃ j n, j ≤ 12 ∧ lo = n * 2 ^ j ∧ hi = lo + 2 ^ j
    (node → OccursWith (.collNodeReceive i lo hi k v) s fun t =>
      t.comm? i = some { c with nodes := c.nodes ++ [(lo, hi, k, v)] } ∧ commEvent i x ∈ t.pending ∧ t.hbm = s.hbm) ∧
    (¬node → OccursWith (.collNodeReceive i lo hi k v) s fun t =>
      t.comm? i = some { c with result := some 2 } ∧ .collComplete i ∈ t.pending ∧ t.hbm = s.hbm)) ∧
  (∀ i c s, s.comm? i = some c →
    (s.commBroken c = false → c.cmd = none → Occurs (.collComplete i) s s) ∧
    (∀ x st, s.commBroken c = false → c.cmd = some x → c.result = some st → Occurs (.collComplete i) s
      ((((s.rootWrite c.part 8 (c.compl + 8 * ((s.commCons c).toNat % 2 ^ c.lring)) (commTag x * 2 ^ 32 + st)).rootWrite c.part 8
        (c.ctl + 8) (s.commCons c + 1).toNat).modComm i Comm.idle).nextCommand i)) ∧
    (s.commBroken c = true → (s.commProd c - s.commCons c).toNat ≤ 2 ^ c.lring → OccursWith (.collComplete i) s fun t =>
      t.comm? i = some { c.idle with broken := true })) ∧
  (∀ part q p x s, PacketAt part q (.pktCommCreate part q) p x s →
    (s.descriptor part x = none → Occurs (.pktCommCreate part q) s ((s.failPacket part q).serve part)) ∧
    ∀ c, s.descriptor part x = some c →
      ((s.commById c.id).isSome = true → Occurs (.pktCommCreate part q) s ((s.failPacket part q).serve part)) ∧
      (s.commById c.id = none → fieldsOnly x [(8, 1), (64, 56)] → Occurs (.pktCommCreate part q) s
        ((State.nextCommand { s.taken part q with comms := s.comms ++ [c] } s.comms.length).serve part))) ∧
  ∀ part q p x s, PacketAt part q (.pktCommRebuild part q) p x s →
    (s.descriptor part x = none → Occurs (.pktCommRebuild part q) s ((s.failPacket part q).serve part)) ∧
    ∀ c, s.descriptor part x = some c →
      (s.commById c.id = none → Occurs (.pktCommRebuild part q) s ((s.failPacket part q).serve part)) ∧
      ∀ i old, s.commById c.id = some i → s.comm? i = some old → fieldsOnly x [(8, 1), (64, 56)] →
        Occurs (.pktCommRebuild part q) s
          (((((s.taken part q).failPending i old).modComm i fun _ => c).nextCommand i).serve part)

/-- 07 R198, R199, 10 R277, 14 R393: a sleeping group wakes, lanes are put in order of key at `regroup`, a window's counts become rates; 14
R396, 21 R461 to R463: a threshold fires once crossed, a clock step takes effect, the energy of an interval sets the clock; 15 R418,
R419: a partition without progress is reset, and accepts launches again once nothing of it is left. -/
def Obligations.PartitionEvents : Prop :=
  (∀ g x w s, s.group? g = some x → x.wait = .sleep w →
    (s.cycle < w → Waits (.sleepExpire g) s) ∧
    (w ≤ s.cycle → Occurs (.sleepExpire g) s (s.modGroup g fun x => { x with wait := .none }))) ∧
  (∀ core slot t s, (s.core core).team? slot = some t → t.regroupKeys ≠ [] →
    (t.allArrived = false → Occurs (.regroupComplete core slot) s s) ∧
    (t.allArrived = true → OccursWith (.regroupComplete core slot) s fun u =>
      ∃ ls : List KeyedLane, ls.Perm (keyedLanes t) ∧ ls.Pairwise keyOrder ∧ ∀ j g x, t.arrived[j]? = some g → t.group? g = some x →
        let ids := ((ls.map (·.id)).drop (32 * j)).take 32
        ∃ y, u.group? ⟨core, slot, g⟩ = some y ∧ y.exited = ~~~(lanesBelow ids.length) ∧
          (ids = [] → y.frontier = [] ∧ .groupSlotRelease ⟨core, slot, g⟩ ∈ u.pending) ∧
          (ids ≠ [] → y.wait = .none ∧ y.handler = none ∧ y.lcur = 32 ∧ (∀ l i, ids[l]? = some i → y.lidOf g l = i) ∧
            ∀ e, x.current = some e → ∃ f, y.frontier = [f] ∧ f.pc = e.pc + 4 ∧ f.mask = lanesBelow ids.length ∧ f.gmask = 0 ∧
              f.pri = e.pri))) ∧
  (∀ core s, OccursWith (.rateWindowEnd core) s fun t =>
    (∀ slot tm, (s.core core).team? slot = some tm → ∃ tn, (t.core core).team? slot = some tn ∧ tn.bind = tm.bind ∧
      ∀ g x, tm.group? g = some x → tn.group? g = some { x with rate := x.retired, retired := 0 }) ∧
    ((s.core core).resident ≠ [] → .rateWindowEnd core ∈ t.pending)) ∧
  (∀ die unit s,
    let th := (s.die die).threshold unit
    let sel := (th.ctl.extractLsb' 0 16).toNat
    let v := (s.sample sel).counter sel
    let beyond := if th.ctl.getLsbD 62 = true then v < th.val.toNat else th.val.toNat < v
    (th.ctl.getLsbD 63 = false → Occurs (.thresholdFire die unit) s s) ∧
    (th.ctl.getLsbD 63 = true → selIndex sel < kindSize (selKind sel) →
      (beyond → th.was = true → OccursWith (.thresholdFire die unit) s fun t =>
        (t.die die).threshold unit = { th with ctl := (th.ctl ||| (1#64 <<< 61)) &&& ~~~(1#64 <<< 63), was := false } ∧
        t.modl.tasks = s.modl.tasks ++ [(die, (th.ctl.extractLsb' 32 16).toNat)]) ∧
      (¬(beyond ∧ th.was = true) → OccursWith (.thresholdFire die unit) s fun t =>
        ((t.die die).threshold unit).ctl = th.ctl ∧ ((t.die die).threshold unit).val = th.val ∧
        (((t.die die).threshold unit).was = true ↔ th.was = true ∨ ¬beyond) ∧ t.modl.tasks = s.modl.tasks ∧
        .thresholdFire die unit ∈ t.pending))) ∧
  (∀ (part q : Nat) (p : Part) (s : State), s.part? part = some p → q < 16 → 16 * part + q < 4096 →
    (s.sample (3 * 4096 + (16 * part + q))).counter (3 * 4096 + (16 * part + q)) = (p.lq q).count) ∧
  (∀ part p n s, s.part? part = some p → p.clockNext = some n → OccursWith (.clockStepTakeEffect part) s fun t =>
    t.part? part = some { p with clock := n, clockNext := none } ∧ OnlyParts s t ∧ ∀ k, k ≠ part → t.part? k = s.part? k) ∧
  (∀ part p s, part < 64 → s.part? part = some p →
    let e := s.modl.meters.get 0 (4 * 4096 + part) + Config.choice s.choices
    let b := p.budget * 10 ^ 8
    let n := if b < e then max 10 (p.clock - 1) else if 10 * e < 9 * b ∧ p.clock < 25 then p.clock + 1 else p.clock
    OccursWith (.energyIntervalEnd part) s fun t => t.modl.meters.get 0 (4 * 4096 + part) = 0 ∧ .energyIntervalEnd part ∈ t.pending ∧
      (n ≠ p.clock → .clockStepTakeEffect part ∈ t.pending) ∧ ∃ p', t.part? part = some p' ∧ p'.committed = 0 ∧ p'.clock = p.clock ∧
      p'.clockNext = (if n = p.clock then p.clockNext else some n) ∧ ∀ q, q < 16 → (p'.lq q).held = false) ∧
  (∀ part p s, s.part? part = some p →
    (p.wdog = 0 → Occurs (.watchdogExpire part) s s) ∧
    (p.wdog ≠ 0 → OccursWith (.watchdogExpire part) s fun t => (t.part? part).map (·.seen) = some (s.progress part) ∧
      .watchdogExpire part ∈ t.pending ∧ (.partitionReset part ∈ t.pending ↔ .partitionReset part ∈ s.pending ∨
        ((∃ r ∈ s.partTeams part, parked r.2 = false) ∧ s.progress part = p.seen)))) ∧
  (∀ part p s, s.part? part = some p → OccursWith (.partitionReset part) s fun t =>
    .partitionResetComplete part ∈ t.pending ∧
    (∃ p', t.part? part = some p' ∧ p'.hyp = [(0, HypEntry.root)] ∧ p'.resetting = true ∧ p'.reqs = [] ∧ p'.order = [] ∧
      (∀ q, q < 16 → (p'.lq q).cons = (p'.lq q).prod) ∧ p'.units = p.units ∧ p'.l2ways = p.l2ways ∧ p'.llcways = p.llcways ∧
      p'.hbmBase = p.hbmBase ∧ p'.hbmSize = p.hbmSize ∧ p'.budget = p.budget) ∧
    (∀ k q, k ≠ part → s.part? k = some q → ∃ r, t.part? k = some r ∧ { r with reqs := q.reqs, capWaits := q.capWaits } = q) ∧
    (∀ c slot tm g y, (s.core c).team? slot = some tm → tm.bind.part = part → tm.group? g = some y →
      ∃ z, t.group? ⟨c, slot, g⟩ = some z ∧ z.frontier = [] ∧ z.handler = none ∧ z.released = true ∧ z.exited = BitVec.allOnes 32) ∧
    (∀ id l, s.launch? id = some l → l.part = part → (t.launch? id).map (·.status) = some 6 ∧ .launchComplete id ∈ t.pending) ∧
    (∀ d, (∀ k ∈ (t.die d).l2, keyPart k.1 ≠ part) ∧ ∀ o ∈ (t.die d).owned, o.part ≠ part) ∧ (∀ k ∈ t.llc, keyPart k.1 ≠ part) ∧
    (∀ k ∈ t.versions, keyPart k.1 ≠ part) ∧ (∀ c b, b ∈ (t.core c).barriers → b.part ≠ part) ∧
    ∀ i c, s.comm? i = some c → c.part = part → t.comm? i = some { c with broken := true }) ∧
  ∀ part p s, s.part? part = some p →
    (p.resetting = false → Occurs (.partitionResetComplete part) s s) ∧
    (p.resetting = true → s.partTeams part ≠ [] → Waits (.partitionResetComplete part) s) ∧
    (p.resetting = true → s.partTeams part = [] → OccursWith (.partitionResetComplete part) s fun t =>
      t.part? part = some { p with resetting := false } ∧ ∀ d, ∀ k ∈ (t.die d).l2, keyPart k.1 ≠ part)

/-- 02 R61, R62, R65, 11 R307: a run that reaches its queue's port is written at the tail if it fits and no earlier push waits, once its group's
release is over, else it is refused, and becomes visible in order; 11 R312, 14 R395: a request for a task is withdrawn in time, a stolen task is pushed at the
thief's core. -/
def Obligations.QueueEvents : Prop :=
  (∀ g s, (s.group? g).bind (·.push) = none → Occurs (.queuePushArrive g) s s) ∧
  (∀ g x p q s, PushAt g x p q s →
    let fits := (q.refused = [] ∨ q.refused.head? = some g) ∧ (q.tail - q.head).toNat + p.elems.length ≤ 2 ^ q.lcap.toNat
    (¬ownerTakes p.core q s → Waits (.queuePushArrive g) s) ∧
    (ownerTakes p.core q s → fits → s.groupQuiet g = false → Waits (.queuePushArrive g) s) ∧
    (ownerTakes p.core q s → fits → s.groupQuiet g = true → OccursWith (.queuePushArrive g) s fun t =>
      t.group? g = some { x with push := some { p with answer := some true } } ∧ .queueRunVisible p.core p.qn ∈ t.pending ∧
      t.hbm = s.hbm ∧ (∃ r, (t.core p.core).queue? p.qn = some { q with
        tail := q.tail + BitVec.ofNat 32 p.elems.length, runs := q.runs ++ [(p.elems.length, false)], refused := r }) ∧
      ∀ k e, p.elems[k]? = some e → t.scratchRead p.core q.elemBytes (s.windowBase p.core q.owner + q.base.toNat +
        (q.tail.toNat + k) % 2 ^ q.lcap.toNat * q.elemBytes) = e.toNat % 2 ^ (8 * q.elemBytes)) ∧
    (ownerTakes p.core q s → ¬fits →
      (p.tries = true → Occurs (.queuePushArrive g) s
        (s.modGroup g fun x => { x with push := some { p with answer := some false } })) ∧
      (p.tries = false → OccursWith (.queuePushArrive g) s fun t => t.group? g = some x ∧ (t.core p.core).scratch = (s.core p.core).scratch ∧
        (t.core p.core).queue? p.qn = some { q with refused := if g ∈ q.refused then q.refused else q.refused ++ [g] }))) ∧
  (∀ core n q pre k rest s, (s.core core).queues.get none n = some q → q.runs = pre ++ (k, false) :: rest → (∀ r ∈ pre, r.2 = true) →
    Occurs (.queueRunVisible core n) s (s.modQueue core n fun q => { q with runs := pre ++ (k, true) :: rest })) ∧
  (∀ g s, (s.group? g).bind (·.steal) = none → Occurs (.stealTimeout g) s s ∧ ∀ task, Occurs (.taskDelivery g task) s s) ∧
  (∀ g t x st s, s.team? g = some t → s.group? g = some x → x.steal = some st →
    let late := st.post + t.bind.stealto < s.cycle ∨ s.victimOver st = true
    (¬late → Waits (.stealTimeout g) s) ∧
    (late → ∀ tv, (s.core st.core).team? st.slot = some tv →
      (s.mailOf st.core tv.bind g = none → Occurs (.stealTimeout g) s (s.postOnce (.stealTimeout g))) ∧
      ∀ k, s.mailOf st.core tv.bind g = some k → OccursWith (.stealTimeout g) s fun u => u.mail st.core tv.bind k = none ∧
        ∃ y, u.group? g = some y ∧ y.steal = none ∧ (st.pd ≠ 0 → y.pget st.pd.toNat = x.pget st.pd.toNat &&& ~~~st.lanes) ∧
        ∀ f, st.fret = some f → y.fret f = ⟨(x.fret f).cnt - 1, (x.fret f).st⟩)) ∧
  ∀ g t x st task s, s.team? g = some t → s.group? g = some x → x.steal = some st → OccursWith (.taskDelivery g task) s fun u =>
    u.scratchRead g.core 64 (dequeAt t.bind t.tcount) = task.toNat ∧ (u.team? g).map (·.tcount) = some (t.tcount + 1) ∧
    ∃ y, u.group? g = some y ∧ y.steal = none ∧ (st.pd ≠ 0 → y.pget st.pd.toNat = x.pget st.pd.toNat ||| st.lanes) ∧
      ∀ f, st.fret = some f → y.fret f = ⟨(x.fret f).cnt - 1, (x.fret f).st⟩

/-- 05 R136, R137, R147 to R151, 11 R315: the controller takes up requests one by one; a confirmation refutes the siblings and gives its
children to the parent, a refutation takes the whole subtree; the answer reaches the word once what the die is owed has been applied; a slice
reports after its writes have been acknowledged, and an id becomes FREE once nothing is left of it. -/
def Obligations.ResolutionEvents : Prop :=
  (∀ (p : Part) h, h ≠ 0 →
    let q := (p.entry h).parent
    let lost := fun k => ∃ c, c < 4096 ∧ c ≠ h ∧ c ≠ 0 ∧ (p.entry c).live = true ∧ (p.entry c).parent = q ∧ c ∈ p.path k
    let p' := p.confirm h
    ((p'.entry h).state = 3 ∧ (p'.entry h).remap = some q) ∧
    (∀ k, k < 4096 → k ≠ 0 → k ≠ h → (p.entry k).live = true →
      (lost k → (p'.entry k).state = 4) ∧
      (¬lost k → (p'.entry k).state = (p.entry k).state ∧
        (p'.entry k).depth = (if h ∈ p.path k then (p.entry k).depth - 1 else (p.entry k).depth) ∧
        (p'.entry k).parent = if (p.entry k).parent.toNat = h then q else (p.entry k).parent)) ∧
    (∀ k, k ≠ h → (p.entry k).remap = some (BitVec.ofNat 12 h) → (p'.entry k).remap = some q) ∧
    ∀ k, k < 4096 → (p'.entry k).state ≠ 0 → (p'.entry k).nchild = BitVec.ofNat 13 ((List.range 4096).filter fun c =>
      c ≠ 0 && (p'.entry c).live && decide ((p'.entry c).parent.toNat = k)).length) ∧
  (∀ (p : Part) h k, k < 4096 → k ≠ 0 → (p.entry k).live = true →
    (h ∈ p.path k → ((p.refuteTree h).entry k).state = 4) ∧
    (h ∉ p.path k → (p.refuteTree h).entry k = { p.entry k with nchild := ((p.refuteTree h).entry k).nchild })) ∧
  (∀ part p s, s.part? part = some p →
    (∀ r, p.resolving = some r → Occurs (.hypRequestTakeup part) s (s.postOnce (.hypRequestTakeup part))) ∧
    (p.resolving = none → p.reqs = [] → Occurs (.hypRequestTakeup part) s s) ∧
    ∀ r rest, p.resolving = none → p.reqs = r :: rest →
      ((p.entry r.id.toNat).state = 1 → OccursWith (.hypRequestTakeup part) s fun t => .hypCommit part ∈ t.pending ∧
        ∃ p', t.part? part = some p' ∧ p'.reqs = rest ∧ p'.resolving = some r ∧
          ∀ k, p'.entry k = if r.confirm = true ∧ k = r.id.toNat then { p.entry k with state := 2 } else p.entry k) ∧
      ((p.entry r.id.toNat).state ≠ 1 → OccursWith (.hypRequestTakeup part) s fun t =>
        ∃ p', t.part? part = some p' ∧ p'.reqs = rest ∧ p'.resolving = none ∧ p'.hyp = p.hyp ∧
          ∀ g, r.g = some g → p'.completing = p.completing ++ [(r, 1)] ∧ .hypResolutionComplete part g ∈ t.pending)) ∧
  (∀ part p s, s.part? part = some p → p.resolving = none → Occurs (.hypCommit part) s s) ∧
  (∀ part p r s, s.part? part = some p → p.resolving = some r →
    let h := r.id.toNat
    let q := (p.entry h).parent.toNat
    (r.confirm = true → s.unsentDies part h q ≠ [] → OccursWith (.hypCommit part) s fun t =>
      (∀ d ∈ s.unsentDies part h q, .rootWriteBatchSend d ∈ t.pending) ∧ .hypCommit part ∈ t.pending ∧ t.parts = s.parts ∧ t.hbm = s.hbm) ∧
    ((r.confirm = true → s.unsentDies part h q = []) → OccursWith (.hypCommit part) s fun t =>
      ∃ p', t.part? part = some p' ∧ p'.resolving = none ∧
        (∀ g, r.g = some g → (r, 0) ∈ p'.completing ∧ .hypResolutionComplete part g ∈ t.pending) ∧
        (∀ k,
          let e := (if r.confirm then p.confirm h else p.refuteTree h).entry k
          (e.live = true → p'.entry k = { e with due := (p'.entry k).due }) ∧
          (p'.entry k = { HypEntry.free with remap := e.remap } ∨ p'.entry k = { e with due := (p'.entry k).due })) ∧
        ∀ k ∈ p.resolved h r.confirm, ¬(r.confirm = true ∧ k = h) → ∀ d, d < 12 → ∀ f ∈ (t.die d).l2,
          ¬(keyPart f.1 = part ∧ keyTag f.1 = k))) ∧
  (∀ part g p rs s, s.part? part = some p → p.completing.find? (fun rs => rs.1.g = some g) = some rs →
    (s.invalidationsDue (dieOf g.core) none = true → Waits (.hypResolutionComplete part g) s) ∧
    ∀ x w, s.invalidationsDue (dieOf g.core) none = false → s.group? g = some x → x.perms = [] →
      x.hypWords.find? (fun w => w.ix = rs.1.wordIx) = some w →
      let st := w.status.set 0 rs.1.lane rs.2
      OccursWith (.hypResolutionComplete part g) s fun t => ∃ y, t.group? g = some y ∧ (t.part? part).map (·.completing) =
          some (p.completing.erase rs) ∧
        (w.left ≤ 1 → (∀ l, l < 32 → w.lanes.getLsbD l = true → t.vreg g w.d l = st.get 0 l) ∧ (∀ z ∈ y.hypWords, z.ix ≠ w.ix) ∧
          ∀ f, w.fret = some f → y.fret f = ⟨(x.fret f).cnt - 1, (x.fret f).st⟩) ∧
        (2 ≤ w.left → { w with status := st, left := w.left - 1 } ∈ y.hypWords ∧ ∀ n l, t.vreg g n l = s.vreg g n l)) ∧
  (∀ part slice id p s, s.part? part = some p → slice < 384 → s.sliceSends part slice id = true → Waits (.hypSliceWorkDone part slice id) s) ∧
  ∀ part slice id p s, s.part? part = some p → (384 ≤ slice ∨ s.sliceSends part slice id = false) →
    OccursWith (.hypSliceWorkDone part slice id) s fun t => ∃ p', t.part? part = some p' ∧
    ∀ k,
      let e := if k = id then { p.entry k with due := (p.entry k).due.filter fun n => n ≠ slice } else p.entry k
      let done := (e.state = 3 ∨ e.state = 4) ∧ e.due = [] ∧ e.refcnt = 0
      (¬done → p'.entry k = e) ∧
      (done → (∀ j, j ≠ k → ¬((p.entry j).state = 3 ∧ (p.entry j).remap = some (BitVec.ofNat 12 k))) →
        p'.entry k = { HypEntry.free with remap := e.remap })

/-- 09 R226 to R228, R239, R242, R243, 07 R186, 06 R162: a step is the meaning of the word at the moving group's entry, of its chain, of the
pending event or the input that moves, or nothing; a word that is none of the table traps as illegal; a fetch is held by its walk or traps
with the walk's cause; and the clock advances. -/
def Obligations.StepRuns : Prop :=
  (∀ (s : State) part pc e b l, s.walk part pc = .leaf e b l → pteBit e 61 = true → placeOf (leafAddr e b pc) = .hbm →
    s.codeWord part pc = some (wordOfBytes (s.hbm.byte (leafAddr e b pc)) (s.hbm.byte (leafAddr e b pc + 1))
      (s.hbm.byte (leafAddr e b pc + 2)) (s.hbm.byte (leafAddr e b pc + 3)))) ∧
  (∀ s g s0 v w i, NextWord s g s0 v w → w.getLsbD 31 = false → decodeWord w = .ok i →
    (∀ t, exec i s0 = .next t → step s = .next { t with cycle := t.cycle + 1 }) ∧
    (∀ f, exec i s0 = .fault f → step s = .fault f) ∧ ∀ r, exec i s0 = .refused r → step s = .refused r) ∧
  (∀ s g s0 v w r, NextWord s g s0 v w → w.getLsbD 31 = false → decodeWord w = .error r →
    step s = .next { s0.takeTrap g (.atIssue 0 (if v.e.due = true ∧ isHeader w = false then 1 else 0))
      ⟨v.e, v.em, 0, v.pc, v.pc + 4, false, none⟩ with note := .performed, cycle := s.cycle + 1 }) ∧
  (∀ s g s0 v w1 w2 i1 i2, NextWord s g s0 v w1 → v.pc % 12 ≤ 7 → w1.getLsbD 31 = true →
    s0.fetchStop (dieOf g.core) v.part (v.pc + 4) = none → s0.codeWord v.part (v.pc + 4) = some w2 →
    w2.getLsbD 31 = false → decodeWord w1 = .ok i1 → decodeWord w2 = .ok i2 → chainOk (s0.useCtx v) [w1, w2] [i1, i2] = true →
    ∀ t1 t2, exec i1 { s0 with snap := s0.team? g, ofs := 0, note := .performed } = .next t1 → t1.note = .performed →
      exec i2 { t1 with ofs := 1, note := .performed } = .next t2 → t2.note = .performed →
      step s = .next { State.dropTail { t2 with snap := none, limit := none, ofs := 0 } g with cycle := t2.cycle + 1 }) ∧
  (∀ s g s0 v, s.mover = some (.group g) → s0 = (s.moving (.group g)).issuing g → s0.env = some v →
    (∀ s1, s0.fetchStop (dieOf g.core) v.part v.pc = some (.held s1) →
      step s = .next { s1 with note := .waits, cycle := s1.cycle + 1 }) ∧
    ∀ cls c va s1, s0.fetchStop (dieOf g.core) v.part v.pc = some (.fault cls c va s1) →
      step s = .next { s1.takeTrap g ⟨cls, c, none, va, 0, false, 0⟩ ⟨v.e, v.em, 0, v.pc, v.pc + 4, false, none⟩ with
        note := .performed, cycle := s1.cycle + 1 }) ∧
  (∀ s k i, s.mover = some (.event k) → s.pending[k]? = some i →
    ∀ t, exec i (s.moving (.event k)) = .next t → step s = .next { t with cycle := t.cycle + 1 }) ∧
  (∀ s k x, s.mover = some (.outside k) → s.outside[k]? = some x →
    (∀ t, (s.moving (.outside k)).arrive x = .inl t → step s = .next { t with note := .performed, cycle := t.cycle + 1 }) ∧
    ∀ t, (s.moving (.outside k)).arrive x = .inr t →
      step s = .next { t with outside := t.outside.eraseIdx k, note := .performed, cycle := t.cycle + 1 }) ∧
  ∀ s, s.mover = none → step s = .next { s with cycle := s.cycle + 1 }

/-- 09 R229, R237, R240, R241: ten words written out from the encodings decode to their instructions, and the words of the majors 30 and 31
to none. -/
def Obligations.DecodeWords : Prop :=
  decodeWord 0x04004103 = .ok (.add 0 1 2 3) ∧ decodeWord 0x080307FF = .ok (.addi 0 3 3 511) ∧
  decodeWord 0x0B020404 = .ok (.srai 0 2 2 4) ∧ decodeWord 0x1802048A = .ok (.fma 0 0 8 9 10) ∧
  decodeWord 0x1E00C118 = .ok (.cvt 0 2 3 2 3 0) ∧ decodeWord 0x20480083 = .ok (.cmpLt 0 2 0 0 1 3) ∧
  decodeWord 0x28010241 = .ok (.sadd 0 4 4 65) ∧ decodeWord 0x2C0C2164 = .ok (.movi 0 6 0x2164) ∧
  decodeWord 0x48A0C100 = .ok (.scanAdd 0 3 2) ∧ decodeWord 0x34000000 = .ok .nop ∧
  (∀ w : Word, w.extractLsb' 26 5 = 30 ∨ w.extractLsb' 26 5 = 31 → ∃ r, decodeWord w = .error r)

/-- 09 R229, R237: decoding the word of a well-formed instruction gives the instruction with every operand, and every word that decodes is
the word of what it decodes to, so that no two instructions share a word. -/
def Obligations.DecodeEncode : Prop :=
  (∀ i w rest, i.wellFormed = true → encode i = some w → decodeBytes (bytesOfWord w ++ rest) = some (.ok i, rest)) ∧
  ∀ i w, decodeWord w = .ok i → encode i = some w

/-- Every step keeps every byte memory in its canonical form (log entry 6). -/
def Obligations.CanonicalMemory : Prop :=
  ∀ s t, s.Canonical → step s = .next t → t.Canonical

/-- 06 R171, R176, 15 R412, 21 R454, R456: at reset the memories are canonical, every register that the specification gives a value has it,
no team is bound and no partition accepted, and a step does nothing but count. -/
def Obligations.ResetState : Prop :=
  State.reset.Canonical ∧
  (∀ d, (State.reset.die d).hintThr = 1024 ∧ (State.reset.die d).preCtl = 0x10000 ∧ (State.reset.die d).tsync = 0 ∧
    (State.reset.die d).hintBase = 0 ∧ (State.reset.die d).hintPtr = 0 ∧ (State.reset.die d).pcSrc = 0 ∧ (State.reset.die d).pcDst = 0 ∧
    (State.reset.die d).pcCtl = 0 ∧ (State.reset.die d).bflip = 0) ∧
  (∀ c, (State.reset.core c).slotCmd = 0 ∧ (State.reset.core c).slotSrc = 0 ∧ (State.reset.core c).preAct = 0 ∧
    ∀ n, (State.reset.core c).team? n = none) ∧
  (∀ n, State.reset.modl.mr.get 0 n = 0) ∧ (∀ f, State.reset.biasBit f = false) ∧ (∀ n, State.reset.part? n = none) ∧
  State.reset.modl.mboxCmd = 0 ∧ State.reset.modl.mboxStat = 0 ∧ State.reset.modl.bringup = 0 ∧
  step State.reset = .next { State.reset with cycle := 1 }
end

