-- ==== Sys2Proof/Laws/Table.lean ====
section
/-! SUPPORT. Laws of the sparse tables and of the byte memories: what is read after a write, and that every operation keeps the
canonical form. -/

namespace Sys2Proof

variable {α : Type}

theorem Tbl.get_erase (d : α) (t : Tbl α) (n : Nat) : (t.erase n).get d n = d := by
  induction t with
  | nil => rfl
  | cons a t ih =>
    obtain ⟨k, x⟩ := a
    by_cases h : k = n <;> simp [Tbl.erase, h, ih, Tbl.get]

theorem Tbl.get_erase_ne (d : α) (t : Tbl α) (n m : Nat) (h : m ≠ n) : (t.erase n).get d m = t.get d m := by
  induction t with
  | nil => rfl
  | cons a t ih =>
    obtain ⟨k, x⟩ := a
    by_cases hk : k = n
    · subst hk; simp [Tbl.erase, ih, Tbl.get, Ne.symm h]
    · simp [Tbl.erase, hk, Tbl.get, ih]

theorem Tbl.get_put_erase (d : α) (t : Tbl α) (n : Nat) (x : α) : ((t.erase n).put n x).get d n = x := by
  induction t with
  | nil => simp [Tbl.erase, Tbl.put, Tbl.get]
  | cons a t ih =>
    obtain ⟨k, y⟩ := a
    by_cases hk : k = n
    · simpa [Tbl.erase, hk] using ih
    · simp only [Tbl.erase, hk, if_false, Tbl.put]
      split
      · simp [Tbl.get]
      · simpa [Tbl.get, hk] using ih

theorem Tbl.get_put_ne (d : α) (t : Tbl α) (n m : Nat) (x : α) (h : m ≠ n) : (t.put n x).get d m = t.get d m := by
  induction t with
  | nil => simp [Tbl.put, Tbl.get, Ne.symm h]
  | cons a t ih =>
    obtain ⟨k, y⟩ := a
    simp only [Tbl.put]
    split
    · simp [Tbl.get, Ne.symm h]
    · simp [Tbl.get, ih]

variable [DecidableEq α]

/-- Reading the key that was written gives what was written. -/
@[simp] theorem Tbl.get_set (d : α) (t : Tbl α) (n : Nat) (x : α) : (t.set d n x).get d n = x := by
  unfold Tbl.set
  split
  · next h => rw [Tbl.get_erase, h]
  · exact Tbl.get_put_erase d t n x

/-- Every other key reads as before. -/
theorem Tbl.get_set_ne (d : α) (t : Tbl α) (n : Nat) (x : α) (m : Nat) (h : m ≠ n) : (t.set d n x).get d m = t.get d m := by
  unfold Tbl.set
  split
  · exact Tbl.get_erase_ne d t n m h
  · rw [Tbl.get_put_ne d _ n m x h, Tbl.get_erase_ne d t n m h]

/-! ### The canonical form -/

theorem Tbl.wfFrom_mono (d : α) (t : Tbl α) (a b : Nat) (h : a ≤ b) (w : t.wfFrom d b = true) : t.wfFrom d a = true := by
  cases t with
  | nil => rfl
  | cons p t =>
    obtain ⟨k, x⟩ := p
    simp only [Tbl.wfFrom, Bool.and_eq_true, decide_eq_true_eq] at w ⊢
    exact ⟨⟨by omega, w.1.2⟩, w.2⟩

theorem Tbl.wfFrom_erase (d : α) (t : Tbl α) (n lo : Nat) (w : t.wfFrom d lo = true) : (t.erase n).wfFrom d lo = true := by
  induction t generalizing lo with
  | nil => rfl
  | cons p t ih =>
    obtain ⟨k, x⟩ := p
    simp only [Tbl.wfFrom, Bool.and_eq_true, decide_eq_true_eq] at w
    simp only [Tbl.erase]
    split
    · exact Tbl.wfFrom_mono d _ lo (k + 1) (by omega) (ih (k + 1) w.2)
    · simp only [Tbl.wfFrom, Bool.and_eq_true, decide_eq_true_eq]
      exact ⟨w.1, ih (k + 1) w.2⟩

theorem Tbl.wfFrom_put (d : α) (t : Tbl α) (n lo : Nat) (x : α) (hx : x ≠ d) (hl : lo ≤ n) (w : (t.erase n).wfFrom d lo = true) :
    ((t.erase n).put n x).wfFrom d lo = true := by
  induction t generalizing lo with
  | nil => simp [Tbl.erase, Tbl.put, Tbl.wfFrom, hx, hl]
  | cons p t ih =>
    obtain ⟨k, y⟩ := p
    by_cases hk : k = n
    · simpa [Tbl.erase, hk] using ih lo hl (by simpa [Tbl.erase, hk] using w)
    · simp only [Tbl.erase, hk, if_false, Tbl.wfFrom, Bool.and_eq_true, decide_eq_true_eq] at w
      simp only [Tbl.erase, hk, if_false, Tbl.put]
      split
      · simp only [Tbl.wfFrom, Bool.and_eq_true, decide_eq_true_eq]
        exact ⟨⟨hl, hx⟩, ⟨by omega, w.1.2⟩, w.2⟩
      · simp only [Tbl.wfFrom, Bool.and_eq_true, decide_eq_true_eq]
        exact ⟨w.1, ih (k + 1) (by omega) w.2⟩

/-- Writing a key keeps the canonical form. -/
theorem Tbl.wf_set (d : α) (t : Tbl α) (n : Nat) (x : α) (w : t.wf d = true) : (t.set d n x).wf d = true := by
  unfold Tbl.wf at *
  unfold Tbl.set
  split
  · exact Tbl.wfFrom_erase d t n 0 w
  · next h => exact Tbl.wfFrom_put d t n 0 x h (by omega) (Tbl.wfFrom_erase d t n 0 w)

/-- Removing entries keeps the canonical form. -/
theorem Tbl.wfFrom_filter (d : α) (p : Nat × α → Bool) (t : Tbl α) (lo : Nat) (w : t.wfFrom d lo = true) :
    Tbl.wfFrom d lo (t.filter p) = true := by
  induction t generalizing lo with
  | nil => rfl
  | cons a t ih =>
    obtain ⟨k, x⟩ := a
    simp only [Tbl.wfFrom, Bool.and_eq_true, decide_eq_true_eq] at w
    rw [List.filter_cons]
    split
    · simp only [Tbl.wfFrom, Bool.and_eq_true, decide_eq_true_eq]
      exact ⟨w.1, ih (k + 1) w.2⟩
    · exact Tbl.wfFrom_mono d _ lo (k + 1) (by omega) (ih (k + 1) w.2)

/-! ### Byte memories -/

@[simp] theorem Mem.byte_setByte (m : Mem) (a : Nat) (x : Byte) : (m.setByte a x).byte a = x := Tbl.get_set 0 m a x

theorem Mem.byte_setByte_ne (m : Mem) (a b : Nat) (x : Byte) (h : b ≠ a) : (m.setByte a x).byte b = m.byte b :=
  Tbl.get_set_ne 0 m a x b h

theorem Mem.wf_setByte (m : Mem) (a : Nat) (x : Byte) (w : m.wf = true) : (m.setByte a x).wf = true := Tbl.wf_set 0 m a x w

/-- Writing bytes keeps the canonical form. -/
theorem Mem.wf_write (m : Mem) (n a x : Nat) (w : m.wf = true) : (m.write n a x).wf = true := by
  induction n generalizing m a x with
  | zero => exact w
  | succ n ih => exact ih _ _ _ (Mem.wf_setByte m a _ w)

/-- Writing some of the bytes of a range keeps the canonical form. -/
theorem Mem.wf_writeMasked (m : Mem) (n a x k : Nat) (w : m.wf = true) : (m.writeMasked n a x k).wf = true := by
  induction n generalizing m a x k with
  | zero => exact w
  | succ n ih =>
    unfold Mem.writeMasked
    split
    · exact ih _ _ _ _ (Mem.wf_setByte m a _ w)
    · exact ih _ _ _ _ w

/-- A byte outside the written range reads as before. -/
theorem Mem.byte_write_out (m : Mem) (n a x b : Nat) (h : b < a ∨ a + n ≤ b) : (m.write n a x).byte b = m.byte b := by
  induction n generalizing m a x with
  | zero => rfl
  | succ n ih =>
    show (Mem.write (m.setByte a _) n (a + 1) _).byte b = _
    rw [ih _ _ _ (by omega), Mem.byte_setByte_ne _ _ _ _ (by omega)]

/-- A byte outside the range of a masked write reads as before. -/
theorem Mem.byte_writeMasked_out (m : Mem) (n a x k b : Nat) (h : b < a ∨ a + n ≤ b) : (m.writeMasked n a x k).byte b = m.byte b := by
  induction n generalizing m a x k with
  | zero => rfl
  | succ n ih =>
    unfold Mem.writeMasked
    split
    · rw [ih _ _ _ _ (by omega), Mem.byte_setByte_ne _ _ _ _ (by omega)]
    · exact ih _ _ _ _ (by omega)

/-- Byte k of a written range. -/
theorem Mem.byte_write_in (m : Mem) (n a x k : Nat) (h : k < n) : (m.write n a x).byte (a + k) = BitVec.ofNat 8 (x / 256 ^ k) := by
  induction n generalizing m a x k with
  | zero => omega
  | succ n ih =>
    show (Mem.write (m.setByte a _) n (a + 1) _).byte (a + k) = _
    cases k with
    | zero => rw [Mem.byte_write_out _ _ _ _ _ (by omega)]; simp
    | succ k =>
      have := ih (m.setByte a (BitVec.ofNat 8 x)) (a + 1) (x / 256) k (by omega)
      rw [show a + (k + 1) = a + 1 + k by omega, this, Nat.div_div_eq_div_mul, Nat.pow_succ, Nat.mul_comm]

/-- Reading what was written gives its low bytes. -/
theorem Mem.read_write (m : Mem) (n a x : Nat) : (m.write n a x).read n a = x % 256 ^ n := by
  induction n generalizing m a x with
  | zero => simp [Mem.read, Nat.mod_one]
  | succ n ih =>
    show ((Mem.write (m.setByte a _) n (a + 1) _).byte a).toNat + 256 * (Mem.write (m.setByte a _) n (a + 1) _).read n (a + 1) = _
    rw [ih, Mem.byte_write_out _ _ _ _ _ (by omega), Mem.byte_setByte]
    simp only [BitVec.toNat_ofNat]
    rw [show (256 : Nat) ^ (n + 1) = 256 * 256 ^ n by rw [Nat.pow_succ, Nat.mul_comm], Nat.mod_mul]

/-- Reading bytes that a write did not touch. -/
theorem Mem.read_write_out (m : Mem) (n a x k b : Nat) (h : b + k ≤ a ∨ a + n ≤ b) : (m.write n a x).read k b = m.read k b := by
  induction k generalizing b with
  | zero => rfl
  | succ k ih =>
    show ((m.write n a x).byte b).toNat + 256 * (m.write n a x).read k (b + 1) = _
    rw [ih (b + 1) (by omega), Mem.byte_write_out _ _ _ _ _ (by omega)]
    rfl

end Sys2Proof
end

