-- ==== Sys2Proof/Laws/State.lean ====
section
/-! SUPPORT. One lemma for each field under each update of the state, and what cores, teams, groups and registers read after the
updates of Machine/Access.lean. -/

namespace Sys2Proof.Machine

/-! ### `modCore` -/

@[simp] theorem State.modCore_dies (s : State) (c : Nat) (f : Core → Core) : (s.modCore c f).dies = s.dies := rfl
@[simp] theorem State.modCore_parts (s : State) (c : Nat) (f : Core → Core) : (s.modCore c f).parts = s.parts := rfl
@[simp] theorem State.modCore_launches (s : State) (c : Nat) (f : Core → Core) : (s.modCore c f).launches = s.launches := rfl
@[simp] theorem State.modCore_comms (s : State) (c : Nat) (f : Core → Core) : (s.modCore c f).comms = s.comms := rfl
@[simp] theorem State.modCore_hbm (s : State) (c : Nat) (f : Core → Core) : (s.modCore c f).hbm = s.hbm := rfl
@[simp] theorem State.modCore_hbmPsn (s : State) (c : Nat) (f : Core → Core) : (s.modCore c f).hbmPsn = s.hbmPsn := rfl
@[simp] theorem State.modCore_hostMem (s : State) (c : Nat) (f : Core → Core) : (s.modCore c f).hostMem = s.hostMem := rfl
@[simp] theorem State.modCore_remote (s : State) (c : Nat) (f : Core → Core) : (s.modCore c f).remote = s.remote := rfl
@[simp] theorem State.modCore_llc (s : State) (c : Nat) (f : Core → Core) : (s.modCore c f).llc = s.llc := rfl
@[simp] theorem State.modCore_versions (s : State) (c : Nat) (f : Core → Core) : (s.modCore c f).versions = s.versions := rfl
@[simp] theorem State.modCore_applied (s : State) (c : Nat) (f : Core → Core) : (s.modCore c f).applied = s.applied := rfl
@[simp] theorem State.modCore_modl (s : State) (c : Nat) (f : Core → Core) : (s.modCore c f).modl = s.modl := rfl
@[simp] theorem State.modCore_health (s : State) (c : Nat) (f : Core → Core) : (s.modCore c f).health = s.health := rfl
@[simp] theorem State.modCore_outside (s : State) (c : Nat) (f : Core → Core) : (s.modCore c f).outside = s.outside := rfl
@[simp] theorem State.modCore_pending (s : State) (c : Nat) (f : Core → Core) : (s.modCore c f).pending = s.pending := rfl
@[simp] theorem State.modCore_turn (s : State) (c : Nat) (f : Core → Core) : (s.modCore c f).turn = s.turn := rfl
@[simp] theorem State.modCore_cur (s : State) (c : Nat) (f : Core → Core) : (s.modCore c f).cur = s.cur := rfl
@[simp] theorem State.modCore_snap (s : State) (c : Nat) (f : Core → Core) : (s.modCore c f).snap = s.snap := rfl
@[simp] theorem State.modCore_limit (s : State) (c : Nat) (f : Core → Core) : (s.modCore c f).limit = s.limit := rfl
@[simp] theorem State.modCore_ofs (s : State) (c : Nat) (f : Core → Core) : (s.modCore c f).ofs = s.ofs := rfl
@[simp] theorem State.modCore_note (s : State) (c : Nat) (f : Core → Core) : (s.modCore c f).note = s.note := rfl
@[simp] theorem State.modCore_cycle (s : State) (c : Nat) (f : Core → Core) : (s.modCore c f).cycle = s.cycle := rfl
@[simp] theorem State.modCore_choices (s : State) (c : Nat) (f : Core → Core) : (s.modCore c f).choices = s.choices := rfl

/-! ### `modDie` -/

@[simp] theorem State.modDie_cores (s : State) (d : Nat) (f : Die → Die) : (s.modDie d f).cores = s.cores := rfl
@[simp] theorem State.modDie_parts (s : State) (d : Nat) (f : Die → Die) : (s.modDie d f).parts = s.parts := rfl
@[simp] theorem State.modDie_launches (s : State) (d : Nat) (f : Die → Die) : (s.modDie d f).launches = s.launches := rfl
@[simp] theorem State.modDie_comms (s : State) (d : Nat) (f : Die → Die) : (s.modDie d f).comms = s.comms := rfl
@[simp] theorem State.modDie_hbm (s : State) (d : Nat) (f : Die → Die) : (s.modDie d f).hbm = s.hbm := rfl
@[simp] theorem State.modDie_hbmPsn (s : State) (d : Nat) (f : Die → Die) : (s.modDie d f).hbmPsn = s.hbmPsn := rfl
@[simp] theorem State.modDie_hostMem (s : State) (d : Nat) (f : Die → Die) : (s.modDie d f).hostMem = s.hostMem := rfl
@[simp] theorem State.modDie_remote (s : State) (d : Nat) (f : Die → Die) : (s.modDie d f).remote = s.remote := rfl
@[simp] theorem State.modDie_llc (s : State) (d : Nat) (f : Die → Die) : (s.modDie d f).llc = s.llc := rfl
@[simp] theorem State.modDie_versions (s : State) (d : Nat) (f : Die → Die) : (s.modDie d f).versions = s.versions := rfl
@[simp] theorem State.modDie_applied (s : State) (d : Nat) (f : Die → Die) : (s.modDie d f).applied = s.applied := rfl
@[simp] theorem State.modDie_modl (s : State) (d : Nat) (f : Die → Die) : (s.modDie d f).modl = s.modl := rfl
@[simp] theorem State.modDie_health (s : State) (d : Nat) (f : Die → Die) : (s.modDie d f).health = s.health := rfl
@[simp] theorem State.modDie_outside (s : State) (d : Nat) (f : Die → Die) : (s.modDie d f).outside = s.outside := rfl
@[simp] theorem State.modDie_pending (s : State) (d : Nat) (f : Die → Die) : (s.modDie d f).pending = s.pending := rfl
@[simp] theorem State.modDie_turn (s : State) (d : Nat) (f : Die → Die) : (s.modDie d f).turn = s.turn := rfl
@[simp] theorem State.modDie_cur (s : State) (d : Nat) (f : Die → Die) : (s.modDie d f).cur = s.cur := rfl
@[simp] theorem State.modDie_snap (s : State) (d : Nat) (f : Die → Die) : (s.modDie d f).snap = s.snap := rfl
@[simp] theorem State.modDie_limit (s : State) (d : Nat) (f : Die → Die) : (s.modDie d f).limit = s.limit := rfl
@[simp] theorem State.modDie_ofs (s : State) (d : Nat) (f : Die → Die) : (s.modDie d f).ofs = s.ofs := rfl
@[simp] theorem State.modDie_note (s : State) (d : Nat) (f : Die → Die) : (s.modDie d f).note = s.note := rfl
@[simp] theorem State.modDie_cycle (s : State) (d : Nat) (f : Die → Die) : (s.modDie d f).cycle = s.cycle := rfl
@[simp] theorem State.modDie_choices (s : State) (d : Nat) (f : Die → Die) : (s.modDie d f).choices = s.choices := rfl

/-! ### `modTeam` -/

@[simp] theorem State.modTeam_dies (s : State) (r : GroupRef) (f : Team → Team) : (s.modTeam r f).dies = s.dies := rfl
@[simp] theorem State.modTeam_parts (s : State) (r : GroupRef) (f : Team → Team) : (s.modTeam r f).parts = s.parts := rfl
@[simp] theorem State.modTeam_launches (s : State) (r : GroupRef) (f : Team → Team) : (s.modTeam r f).launches = s.launches := rfl
@[simp] theorem State.modTeam_comms (s : State) (r : GroupRef) (f : Team → Team) : (s.modTeam r f).comms = s.comms := rfl
@[simp] theorem State.modTeam_hbm (s : State) (r : GroupRef) (f : Team → Team) : (s.modTeam r f).hbm = s.hbm := rfl
@[simp] theorem State.modTeam_hbmPsn (s : State) (r : GroupRef) (f : Team → Team) : (s.modTeam r f).hbmPsn = s.hbmPsn := rfl
@[simp] theorem State.modTeam_hostMem (s : State) (r : GroupRef) (f : Team → Team) : (s.modTeam r f).hostMem = s.hostMem := rfl
@[simp] theorem State.modTeam_remote (s : State) (r : GroupRef) (f : Team → Team) : (s.modTeam r f).remote = s.remote := rfl
@[simp] theorem State.modTeam_llc (s : State) (r : GroupRef) (f : Team → Team) : (s.modTeam r f).llc = s.llc := rfl
@[simp] theorem State.modTeam_versions (s : State) (r : GroupRef) (f : Team → Team) : (s.modTeam r f).versions = s.versions := rfl
@[simp] theorem State.modTeam_applied (s : State) (r : GroupRef) (f : Team → Team) : (s.modTeam r f).applied = s.applied := rfl
@[simp] theorem State.modTeam_modl (s : State) (r : GroupRef) (f : Team → Team) : (s.modTeam r f).modl = s.modl := rfl
@[simp] theorem State.modTeam_health (s : State) (r : GroupRef) (f : Team → Team) : (s.modTeam r f).health = s.health := rfl
@[simp] theorem State.modTeam_outside (s : State) (r : GroupRef) (f : Team → Team) : (s.modTeam r f).outside = s.outside := rfl
@[simp] theorem State.modTeam_pending (s : State) (r : GroupRef) (f : Team → Team) : (s.modTeam r f).pending = s.pending := rfl
@[simp] theorem State.modTeam_turn (s : State) (r : GroupRef) (f : Team → Team) : (s.modTeam r f).turn = s.turn := rfl
@[simp] theorem State.modTeam_cur (s : State) (r : GroupRef) (f : Team → Team) : (s.modTeam r f).cur = s.cur := rfl
@[simp] theorem State.modTeam_snap (s : State) (r : GroupRef) (f : Team → Team) : (s.modTeam r f).snap = s.snap := rfl
@[simp] theorem State.modTeam_limit (s : State) (r : GroupRef) (f : Team → Team) : (s.modTeam r f).limit = s.limit := rfl
@[simp] theorem State.modTeam_ofs (s : State) (r : GroupRef) (f : Team → Team) : (s.modTeam r f).ofs = s.ofs := rfl
@[simp] theorem State.modTeam_note (s : State) (r : GroupRef) (f : Team → Team) : (s.modTeam r f).note = s.note := rfl
@[simp] theorem State.modTeam_cycle (s : State) (r : GroupRef) (f : Team → Team) : (s.modTeam r f).cycle = s.cycle := rfl
@[simp] theorem State.modTeam_choices (s : State) (r : GroupRef) (f : Team → Team) : (s.modTeam r f).choices = s.choices := rfl

/-! ### `modGroup` -/

@[simp] theorem State.modGroup_dies (s : State) (r : GroupRef) (f : Group → Group) : (s.modGroup r f).dies = s.dies := rfl
@[simp] theorem State.modGroup_parts (s : State) (r : GroupRef) (f : Group → Group) : (s.modGroup r f).parts = s.parts := rfl
@[simp] theorem State.modGroup_launches (s : State) (r : GroupRef) (f : Group → Group) : (s.modGroup r f).launches = s.launches := rfl
@[simp] theorem State.modGroup_comms (s : State) (r : GroupRef) (f : Group → Group) : (s.modGroup r f).comms = s.comms := rfl
@[simp] theorem State.modGroup_hbm (s : State) (r : GroupRef) (f : Group → Group) : (s.modGroup r f).hbm = s.hbm := rfl
@[simp] theorem State.modGroup_hbmPsn (s : State) (r : GroupRef) (f : Group → Group) : (s.modGroup r f).hbmPsn = s.hbmPsn := rfl
@[simp] theorem State.modGroup_hostMem (s : State) (r : GroupRef) (f : Group → Group) : (s.modGroup r f).hostMem = s.hostMem := rfl
@[simp] theorem State.modGroup_remote (s : State) (r : GroupRef) (f : Group → Group) : (s.modGroup r f).remote = s.remote := rfl
@[simp] theorem State.modGroup_llc (s : State) (r : GroupRef) (f : Group → Group) : (s.modGroup r f).llc = s.llc := rfl
@[simp] theorem State.modGroup_versions (s : State) (r : GroupRef) (f : Group → Group) : (s.modGroup r f).versions = s.versions := rfl
@[simp] theorem State.modGroup_applied (s : State) (r : GroupRef) (f : Group → Group) : (s.modGroup r f).applied = s.applied := rfl
@[simp] theorem State.modGroup_modl (s : State) (r : GroupRef) (f : Group → Group) : (s.modGroup r f).modl = s.modl := rfl
@[simp] theorem State.modGroup_health (s : State) (r : GroupRef) (f : Group → Group) : (s.modGroup r f).health = s.health := rfl
@[simp] theorem State.modGroup_outside (s : State) (r : GroupRef) (f : Group → Group) : (s.modGroup r f).outside = s.outside := rfl
@[simp] theorem State.modGroup_pending (s : State) (r : GroupRef) (f : Group → Group) : (s.modGroup r f).pending = s.pending := rfl
@[simp] theorem State.modGroup_turn (s : State) (r : GroupRef) (f : Group → Group) : (s.modGroup r f).turn = s.turn := rfl
@[simp] theorem State.modGroup_cur (s : State) (r : GroupRef) (f : Group → Group) : (s.modGroup r f).cur = s.cur := rfl
@[simp] theorem State.modGroup_snap (s : State) (r : GroupRef) (f : Group → Group) : (s.modGroup r f).snap = s.snap := rfl
@[simp] theorem State.modGroup_limit (s : State) (r : GroupRef) (f : Group → Group) : (s.modGroup r f).limit = s.limit := rfl
@[simp] theorem State.modGroup_ofs (s : State) (r : GroupRef) (f : Group → Group) : (s.modGroup r f).ofs = s.ofs := rfl
@[simp] theorem State.modGroup_note (s : State) (r : GroupRef) (f : Group → Group) : (s.modGroup r f).note = s.note := rfl
@[simp] theorem State.modGroup_cycle (s : State) (r : GroupRef) (f : Group → Group) : (s.modGroup r f).cycle = s.cycle := rfl
@[simp] theorem State.modGroup_choices (s : State) (r : GroupRef) (f : Group → Group) : (s.modGroup r f).choices = s.choices := rfl

/-! ### `post` -/

@[simp] theorem State.post_cores (s : State) (i : Instr) : (s.post i).cores = s.cores := rfl
@[simp] theorem State.post_dies (s : State) (i : Instr) : (s.post i).dies = s.dies := rfl
@[simp] theorem State.post_parts (s : State) (i : Instr) : (s.post i).parts = s.parts := rfl
@[simp] theorem State.post_launches (s : State) (i : Instr) : (s.post i).launches = s.launches := rfl
@[simp] theorem State.post_comms (s : State) (i : Instr) : (s.post i).comms = s.comms := rfl
@[simp] theorem State.post_hbm (s : State) (i : Instr) : (s.post i).hbm = s.hbm := rfl
@[simp] theorem State.post_hbmPsn (s : State) (i : Instr) : (s.post i).hbmPsn = s.hbmPsn := rfl
@[simp] theorem State.post_hostMem (s : State) (i : Instr) : (s.post i).hostMem = s.hostMem := rfl
@[simp] theorem State.post_remote (s : State) (i : Instr) : (s.post i).remote = s.remote := rfl
@[simp] theorem State.post_llc (s : State) (i : Instr) : (s.post i).llc = s.llc := rfl
@[simp] theorem State.post_versions (s : State) (i : Instr) : (s.post i).versions = s.versions := rfl
@[simp] theorem State.post_applied (s : State) (i : Instr) : (s.post i).applied = s.applied := rfl
@[simp] theorem State.post_modl (s : State) (i : Instr) : (s.post i).modl = s.modl := rfl
@[simp] theorem State.post_health (s : State) (i : Instr) : (s.post i).health = s.health := rfl
@[simp] theorem State.post_outside (s : State) (i : Instr) : (s.post i).outside = s.outside := rfl
@[simp] theorem State.post_turn (s : State) (i : Instr) : (s.post i).turn = s.turn := rfl
@[simp] theorem State.post_cur (s : State) (i : Instr) : (s.post i).cur = s.cur := rfl
@[simp] theorem State.post_snap (s : State) (i : Instr) : (s.post i).snap = s.snap := rfl
@[simp] theorem State.post_limit (s : State) (i : Instr) : (s.post i).limit = s.limit := rfl
@[simp] theorem State.post_ofs (s : State) (i : Instr) : (s.post i).ofs = s.ofs := rfl
@[simp] theorem State.post_note (s : State) (i : Instr) : (s.post i).note = s.note := rfl
@[simp] theorem State.post_cycle (s : State) (i : Instr) : (s.post i).cycle = s.cycle := rfl
@[simp] theorem State.post_choices (s : State) (i : Instr) : (s.post i).choices = s.choices := rfl

/-! ### `modPart` -/

@[simp] theorem State.modPart_cores (s : State) (p : Nat) (f : Part → Part) : (s.modPart p f).cores = s.cores := by unfold State.modPart; split <;> rfl
@[simp] theorem State.modPart_dies (s : State) (p : Nat) (f : Part → Part) : (s.modPart p f).dies = s.dies := by unfold State.modPart; split <;> rfl
@[simp] theorem State.modPart_launches (s : State) (p : Nat) (f : Part → Part) : (s.modPart p f).launches = s.launches := by unfold State.modPart; split <;> rfl
@[simp] theorem State.modPart_comms (s : State) (p : Nat) (f : Part → Part) : (s.modPart p f).comms = s.comms := by unfold State.modPart; split <;> rfl
@[simp] theorem State.modPart_hbm (s : State) (p : Nat) (f : Part → Part) : (s.modPart p f).hbm = s.hbm := by unfold State.modPart; split <;> rfl
@[simp] theorem State.modPart_hbmPsn (s : State) (p : Nat) (f : Part → Part) : (s.modPart p f).hbmPsn = s.hbmPsn := by unfold State.modPart; split <;> rfl
@[simp] theorem State.modPart_hostMem (s : State) (p : Nat) (f : Part → Part) : (s.modPart p f).hostMem = s.hostMem := by unfold State.modPart; split <;> rfl
@[simp] theorem State.modPart_remote (s : State) (p : Nat) (f : Part → Part) : (s.modPart p f).remote = s.remote := by unfold State.modPart; split <;> rfl
@[simp] theorem State.modPart_llc (s : State) (p : Nat) (f : Part → Part) : (s.modPart p f).llc = s.llc := by unfold State.modPart; split <;> rfl
@[simp] theorem State.modPart_versions (s : State) (p : Nat) (f : Part → Part) : (s.modPart p f).versions = s.versions := by unfold State.modPart; split <;> rfl
@[simp] theorem State.modPart_applied (s : State) (p : Nat) (f : Part → Part) : (s.modPart p f).applied = s.applied := by unfold State.modPart; split <;> rfl
@[simp] theorem State.modPart_modl (s : State) (p : Nat) (f : Part → Part) : (s.modPart p f).modl = s.modl := by unfold State.modPart; split <;> rfl
@[simp] theorem State.modPart_health (s : State) (p : Nat) (f : Part → Part) : (s.modPart p f).health = s.health := by unfold State.modPart; split <;> rfl
@[simp] theorem State.modPart_outside (s : State) (p : Nat) (f : Part → Part) : (s.modPart p f).outside = s.outside := by unfold State.modPart; split <;> rfl
@[simp] theorem State.modPart_pending (s : State) (p : Nat) (f : Part → Part) : (s.modPart p f).pending = s.pending := by unfold State.modPart; split <;> rfl
@[simp] theorem State.modPart_turn (s : State) (p : Nat) (f : Part → Part) : (s.modPart p f).turn = s.turn := by unfold State.modPart; split <;> rfl
@[simp] theorem State.modPart_cur (s : State) (p : Nat) (f : Part → Part) : (s.modPart p f).cur = s.cur := by unfold State.modPart; split <;> rfl
@[simp] theorem State.modPart_snap (s : State) (p : Nat) (f : Part → Part) : (s.modPart p f).snap = s.snap := by unfold State.modPart; split <;> rfl
@[simp] theorem State.modPart_limit (s : State) (p : Nat) (f : Part → Part) : (s.modPart p f).limit = s.limit := by unfold State.modPart; split <;> rfl
@[simp] theorem State.modPart_ofs (s : State) (p : Nat) (f : Part → Part) : (s.modPart p f).ofs = s.ofs := by unfold State.modPart; split <;> rfl
@[simp] theorem State.modPart_note (s : State) (p : Nat) (f : Part → Part) : (s.modPart p f).note = s.note := by unfold State.modPart; split <;> rfl
@[simp] theorem State.modPart_cycle (s : State) (p : Nat) (f : Part → Part) : (s.modPart p f).cycle = s.cycle := by unfold State.modPart; split <;> rfl
@[simp] theorem State.modPart_choices (s : State) (p : Nat) (f : Part → Part) : (s.modPart p f).choices = s.choices := by unfold State.modPart; split <;> rfl

/-! ### `modLaunch` -/

@[simp] theorem State.modLaunch_cores (s : State) (l : Nat) (f : Launch → Launch) : (s.modLaunch l f).cores = s.cores := by unfold State.modLaunch; split <;> rfl
@[simp] theorem State.modLaunch_dies (s : State) (l : Nat) (f : Launch → Launch) : (s.modLaunch l f).dies = s.dies := by unfold State.modLaunch; split <;> rfl
@[simp] theorem State.modLaunch_parts (s : State) (l : Nat) (f : Launch → Launch) : (s.modLaunch l f).parts = s.parts := by unfold State.modLaunch; split <;> rfl
@[simp] theorem State.modLaunch_comms (s : State) (l : Nat) (f : Launch → Launch) : (s.modLaunch l f).comms = s.comms := by unfold State.modLaunch; split <;> rfl
@[simp] theorem State.modLaunch_hbm (s : State) (l : Nat) (f : Launch → Launch) : (s.modLaunch l f).hbm = s.hbm := by unfold State.modLaunch; split <;> rfl
@[simp] theorem State.modLaunch_hbmPsn (s : State) (l : Nat) (f : Launch → Launch) : (s.modLaunch l f).hbmPsn = s.hbmPsn := by unfold State.modLaunch; split <;> rfl
@[simp] theorem State.modLaunch_hostMem (s : State) (l : Nat) (f : Launch → Launch) : (s.modLaunch l f).hostMem = s.hostMem := by unfold State.modLaunch; split <;> rfl
@[simp] theorem State.modLaunch_remote (s : State) (l : Nat) (f : Launch → Launch) : (s.modLaunch l f).remote = s.remote := by unfold State.modLaunch; split <;> rfl
@[simp] theorem State.modLaunch_llc (s : State) (l : Nat) (f : Launch → Launch) : (s.modLaunch l f).llc = s.llc := by unfold State.modLaunch; split <;> rfl
@[simp] theorem State.modLaunch_versions (s : State) (l : Nat) (f : Launch → Launch) : (s.modLaunch l f).versions = s.versions := by unfold State.modLaunch; split <;> rfl
@[simp] theorem State.modLaunch_applied (s : State) (l : Nat) (f : Launch → Launch) : (s.modLaunch l f).applied = s.applied := by unfold State.modLaunch; split <;> rfl
@[simp] theorem State.modLaunch_modl (s : State) (l : Nat) (f : Launch → Launch) : (s.modLaunch l f).modl = s.modl := by unfold State.modLaunch; split <;> rfl
@[simp] theorem State.modLaunch_health (s : State) (l : Nat) (f : Launch → Launch) : (s.modLaunch l f).health = s.health := by unfold State.modLaunch; split <;> rfl
@[simp] theorem State.modLaunch_outside (s : State) (l : Nat) (f : Launch → Launch) : (s.modLaunch l f).outside = s.outside := by unfold State.modLaunch; split <;> rfl
@[simp] theorem State.modLaunch_pending (s : State) (l : Nat) (f : Launch → Launch) : (s.modLaunch l f).pending = s.pending := by unfold State.modLaunch; split <;> rfl
@[simp] theorem State.modLaunch_turn (s : State) (l : Nat) (f : Launch → Launch) : (s.modLaunch l f).turn = s.turn := by unfold State.modLaunch; split <;> rfl
@[simp] theorem State.modLaunch_cur (s : State) (l : Nat) (f : Launch → Launch) : (s.modLaunch l f).cur = s.cur := by unfold State.modLaunch; split <;> rfl
@[simp] theorem State.modLaunch_snap (s : State) (l : Nat) (f : Launch → Launch) : (s.modLaunch l f).snap = s.snap := by unfold State.modLaunch; split <;> rfl
@[simp] theorem State.modLaunch_limit (s : State) (l : Nat) (f : Launch → Launch) : (s.modLaunch l f).limit = s.limit := by unfold State.modLaunch; split <;> rfl
@[simp] theorem State.modLaunch_ofs (s : State) (l : Nat) (f : Launch → Launch) : (s.modLaunch l f).ofs = s.ofs := by unfold State.modLaunch; split <;> rfl
@[simp] theorem State.modLaunch_note (s : State) (l : Nat) (f : Launch → Launch) : (s.modLaunch l f).note = s.note := by unfold State.modLaunch; split <;> rfl
@[simp] theorem State.modLaunch_cycle (s : State) (l : Nat) (f : Launch → Launch) : (s.modLaunch l f).cycle = s.cycle := by unfold State.modLaunch; split <;> rfl
@[simp] theorem State.modLaunch_choices (s : State) (l : Nat) (f : Launch → Launch) : (s.modLaunch l f).choices = s.choices := by unfold State.modLaunch; split <;> rfl

/-! ### `postOnce` -/

@[simp] theorem State.postOnce_cores (s : State) (i : Instr) : (s.postOnce i).cores = s.cores := by unfold State.postOnce; split <;> rfl
@[simp] theorem State.postOnce_dies (s : State) (i : Instr) : (s.postOnce i).dies = s.dies := by unfold State.postOnce; split <;> rfl
@[simp] theorem State.postOnce_parts (s : State) (i : Instr) : (s.postOnce i).parts = s.parts := by unfold State.postOnce; split <;> rfl
@[simp] theorem State.postOnce_launches (s : State) (i : Instr) : (s.postOnce i).launches = s.launches := by unfold State.postOnce; split <;> rfl
@[simp] theorem State.postOnce_comms (s : State) (i : Instr) : (s.postOnce i).comms = s.comms := by unfold State.postOnce; split <;> rfl
@[simp] theorem State.postOnce_hbm (s : State) (i : Instr) : (s.postOnce i).hbm = s.hbm := by unfold State.postOnce; split <;> rfl
@[simp] theorem State.postOnce_hbmPsn (s : State) (i : Instr) : (s.postOnce i).hbmPsn = s.hbmPsn := by unfold State.postOnce; split <;> rfl
@[simp] theorem State.postOnce_hostMem (s : State) (i : Instr) : (s.postOnce i).hostMem = s.hostMem := by unfold State.postOnce; split <;> rfl
@[simp] theorem State.postOnce_remote (s : State) (i : Instr) : (s.postOnce i).remote = s.remote := by unfold State.postOnce; split <;> rfl
@[simp] theorem State.postOnce_llc (s : State) (i : Instr) : (s.postOnce i).llc = s.llc := by unfold State.postOnce; split <;> rfl
@[simp] theorem State.postOnce_versions (s : State) (i : Instr) : (s.postOnce i).versions = s.versions := by unfold State.postOnce; split <;> rfl
@[simp] theorem State.postOnce_applied (s : State) (i : Instr) : (s.postOnce i).applied = s.applied := by unfold State.postOnce; split <;> rfl
@[simp] theorem State.postOnce_modl (s : State) (i : Instr) : (s.postOnce i).modl = s.modl := by unfold State.postOnce; split <;> rfl
@[simp] theorem State.postOnce_health (s : State) (i : Instr) : (s.postOnce i).health = s.health := by unfold State.postOnce; split <;> rfl
@[simp] theorem State.postOnce_outside (s : State) (i : Instr) : (s.postOnce i).outside = s.outside := by unfold State.postOnce; split <;> rfl
@[simp] theorem State.postOnce_turn (s : State) (i : Instr) : (s.postOnce i).turn = s.turn := by unfold State.postOnce; split <;> rfl
@[simp] theorem State.postOnce_cur (s : State) (i : Instr) : (s.postOnce i).cur = s.cur := by unfold State.postOnce; split <;> rfl
@[simp] theorem State.postOnce_snap (s : State) (i : Instr) : (s.postOnce i).snap = s.snap := by unfold State.postOnce; split <;> rfl
@[simp] theorem State.postOnce_limit (s : State) (i : Instr) : (s.postOnce i).limit = s.limit := by unfold State.postOnce; split <;> rfl
@[simp] theorem State.postOnce_ofs (s : State) (i : Instr) : (s.postOnce i).ofs = s.ofs := by unfold State.postOnce; split <;> rfl
@[simp] theorem State.postOnce_note (s : State) (i : Instr) : (s.postOnce i).note = s.note := by unfold State.postOnce; split <;> rfl
@[simp] theorem State.postOnce_cycle (s : State) (i : Instr) : (s.postOnce i).cycle = s.cycle := by unfold State.postOnce; split <;> rfl
@[simp] theorem State.postOnce_choices (s : State) (i : Instr) : (s.postOnce i).choices = s.choices := by unfold State.postOnce; split <;> rfl

/-! ### What is read after an update -/

@[simp] theorem State.core_modCore (s : State) (c : Nat) (f : Core → Core) : (s.modCore c f).core c = f (s.core c) := by
  simp [State.core, State.modCore]

theorem State.core_modCore_ne (s : State) (c k : Nat) (f : Core → Core) (h : k ≠ c) : (s.modCore c f).core k = s.core k := by
  simp [State.core, State.modCore, Tbl.get_set_ne _ _ _ _ _ h]

@[simp] theorem State.die_modDie (s : State) (d : Nat) (f : Die → Die) : (s.modDie d f).die d = f (s.die d) := by
  simp [State.die, State.modDie]

theorem State.die_modDie_ne (s : State) (d k : Nat) (f : Die → Die) (h : k ≠ d) : (s.modDie d f).die k = s.die k := by
  simp [State.die, State.modDie, Tbl.get_set_ne _ _ _ _ _ h]

/-- A team after a change of the team in its slot. -/
@[simp] theorem Core.team?_modTeam (k : Core) (n : Nat) (f : Team → Team) : (k.modTeam n f).team? n = (k.team? n).map f := by
  unfold Core.modTeam
  split <;> simp_all [Core.team?]

theorem Core.team?_modTeam_ne (k : Core) (n m : Nat) (f : Team → Team) (h : m ≠ n) : (k.modTeam n f).team? m = k.team? m := by
  unfold Core.modTeam
  split
  · rfl
  · simp [Core.team?, Tbl.get_set_ne _ _ _ _ _ h]

@[simp] theorem State.team?_modTeam (s : State) (r : GroupRef) (f : Team → Team) : (s.modTeam r f).team? r = (s.team? r).map f := by
  simp [State.team?, State.modTeam]

/-- A group after a change of the group with its number. -/
@[simp] theorem Team.group?_modGroup (t : Team) (g : Nat) (f : Group → Group) : (t.modGroup g f).group? g = (t.group? g).map f := by
  unfold Team.modGroup
  split <;> simp_all [Team.group?]

theorem Team.group?_modGroup_ne (t : Team) (g k : Nat) (f : Group → Group) (h : k ≠ g) : (t.modGroup g f).group? k = t.group? k := by
  unfold Team.modGroup
  split
  · rfl
  · simp [Team.group?, Tbl.get_set_ne _ _ _ _ _ h]

@[simp] theorem State.team?_modGroup (s : State) (r : GroupRef) (f : Group → Group) :
    (s.modGroup r f).team? r = (s.team? r).map fun t => t.modGroup r.grp f := by simp [State.modGroup]

@[simp] theorem State.group?_modGroup (s : State) (r : GroupRef) (f : Group → Group) :
    (s.modGroup r f).group? r = (s.group? r).map f := by
  simp [State.group?, Option.map_bind, Function.comp_def]
  cases s.team? r <;> simp

theorem State.group?_modTeam (s : State) (r : GroupRef) (f : Team → Team) :
    (s.modTeam r f).group? r = (s.team? r).bind fun t => (f t).group? r.grp := by
  simp [State.group?]
  cases s.team? r <;> simp

@[simp] theorem Team.ext_modGroup (t : Team) (g : Nat) (f : Group → Group) : (t.modGroup g f).ext = t.ext := by
  unfold Team.modGroup; split <;> rfl

@[simp] theorem Team.bind_modGroup (t : Team) (g : Nat) (f : Group → Group) : (t.modGroup g f).bind = t.bind := by
  unfold Team.modGroup; split <;> rfl

theorem State.part?_modPart (s : State) (p : Nat) (f : Part → Part) : (s.modPart p f).part? p = (s.part? p).map f := by
  unfold State.modPart
  split <;> simp_all [State.part?]

theorem State.launch?_modLaunch (s : State) (l : Nat) (f : Launch → Launch) : (s.modLaunch l f).launch? l = (s.launch? l).map f := by
  unfold State.modLaunch
  split <;> simp_all [State.launch?]

theorem State.mem_post (s : State) (i : Instr) : i ∈ (s.post i).pending := by simp [State.post]

theorem State.mem_postOnce (s : State) (i : Instr) : i ∈ (s.postOnce i).pending := by
  unfold State.postOnce
  split
  · assumption
  · simp [State.post]

end Sys2Proof.Machine
end

