-- ==== Sys2Proof/Laws/Issue.lean ====
section
/-! SUPPORT. How one word issues and ends: what `perform` and `finish` do when nothing stands in the way. -/

namespace Sys2Proof

variable {α : Type}

theorem Tbl.erase_erase (t : Tbl α) (n : Nat) : (t.erase n).erase n = t.erase n := by
  induction t with
  | nil => rfl
  | cons a t ih =>
    obtain ⟨k, x⟩ := a
    by_cases h : k = n <;> simp [Tbl.erase, h, ih]

theorem Tbl.erase_put (t : Tbl α) (n : Nat) (x : α) : ((t.erase n).put n x).erase n = t.erase n := by
  induction t with
  | nil => simp [Tbl.erase, Tbl.put]
  | cons a t ih =>
    obtain ⟨k, y⟩ := a
    by_cases h : k = n
    · simpa [Tbl.erase, h] using ih
    · simp only [Tbl.erase, h, if_false, Tbl.put]
      split
      · simp [Tbl.erase, h, Tbl.erase_erase]
      · simp [Tbl.erase, h, ih]

/-- The second of two writes to a key stands. -/
@[simp] theorem Tbl.set_set [DecidableEq α] (d : α) (t : Tbl α) (n : Nat) (x y : α) : (t.set d n x).set d n y = t.set d n y := by
  have h : (t.set d n x).erase n = t.erase n := by
    unfold Tbl.set
    split
    · exact Tbl.erase_erase t n
    · exact Tbl.erase_put t n x
  unfold Tbl.set at *
  rw [h]

namespace Machine

/-- Two changes of a core in a row. -/
theorem State.modCore_modCore (s : State) (c : Nat) (f g : Core → Core) : (s.modCore c f).modCore c g = s.modCore c fun k => g (f k) := by
  simp [State.modCore, State.core]

theorem Core.modTeam_modTeam (k : Core) (n : Nat) (f g : Team → Team) :
    (k.modTeam n f).modTeam n g = k.modTeam n fun t => g (f t) := by
  unfold Core.modTeam Core.team?
  cases h : k.teams.get none n <;> simp [h]

theorem Team.modGroup_modGroup (t : Team) (n : Nat) (f g : Group → Group) :
    (t.modGroup n f).modGroup n g = t.modGroup n fun x => g (f x) := by
  unfold Team.modGroup Team.group?
  cases h : t.groups.get none n <;> simp [h]

/-- Two changes of a team in a row. -/
theorem State.modTeam_modTeam (s : State) (r : GroupRef) (f g : Team → Team) :
    (s.modTeam r f).modTeam r g = s.modTeam r fun t => g (f t) := by
  simp [State.modTeam, State.modCore_modCore, Core.modTeam_modTeam]

/-- Two changes of a group in a row. -/
theorem State.modGroup_modGroup (s : State) (r : GroupRef) (f g : Group → Group) :
    (s.modGroup r f).modGroup r g = s.modGroup r fun x => g (f x) := by
  simp [State.modGroup, State.modTeam_modTeam, Team.modGroup_modGroup]

theorem State.modCore_congr (s : State) (c : Nat) (f g : Core → Core) (e : f (s.core c) = g (s.core c)) :
    s.modCore c f = s.modCore c g := by simp [State.modCore, e]

/-- A change of a group that gives what another gives. -/
theorem State.modGroup_congr (s : State) (r : GroupRef) (f g : Group → Group) (y : Group) (h : s.group? r = some y) (e : f y = g y) :
    s.modGroup r f = s.modGroup r g := by
  refine State.modCore_congr s r.core (fun k => k.modTeam r.slot fun t => t.modGroup r.grp f)
    (fun k => k.modTeam r.slot fun t => t.modGroup r.grp g) ?_
  unfold State.group? State.team? Core.team? at h
  unfold Core.modTeam Core.team?
  cases ht : (s.core r.core).teams.get none r.slot with
  | none => rfl
  | some t =>
    rw [ht] at h
    have hg : t.groups.get none r.grp = some y := h
    have : t.modGroup r.grp f = t.modGroup r.grp g := by simp [Team.modGroup, Team.group?, hg, e]
    simp only [this]

/-- A word that issues undisturbed does what its body says. -/
theorem perform_issues {u : Use} {s : State} {v : Env} (body : Env → State → Res) (h : Issues u s v) :
    perform u body s = .next (settle u body v (followed u v s) (body v (followed u v s))) := by
  unfold perform
  simp only [h.env, h.checks, h.active, h.fret, h.ready, h.clean, h.live, Bool.or_self, Bool.false_eq_true, ↓reduceIte]
  rfl

/-- An environment with an active lane is that of an entry with a lane. -/
theorem exec_mask {s : State} {v : Env} (h : s.env = some v) (a : v.em ≠ 0) : v.e.mask ≠ 0 := by
  intro z
  apply a
  unfold State.env at h
  cases ht : s.readTeam with
  | none => simp [ht] at h
  | some t =>
    cases hg : t.group? s.cur.grp with
    | none => simp [ht, hg] at h
    | some x =>
      cases hc : x.current with
      | none => simp [ht, hg, hc] at h
      | some e =>
        have hem : e.mask = 0 → e.execMask = 0 := by
          intro hm
          unfold FEntry.execMask
          cases e.redo <;> simp [hm]
        simp only [ht, hg, hc, Option.some.injEq] at h
        subst h
        have := hem z
        show (match s.limit with
          | none => e.execMask
          | some l => e.execMask &&& l) = 0
        cases s.limit <;> simp [this]

/-- The frontier after an entry moves on by one word, with room for it. -/
theorem addOutcs_next (isHdr : Nat → Bool) (g : Lanes) (n : Nat) (fs : List FEntry) (o : Outc) (hl : o.lanes ≠ 0)
    (hr : fs.length + n < 8) : ∃ fs', addOutcs isHdr g n fs [o] = some fs' ∧ fs' ≠ [] := by
  unfold addOutcs addOutc
  simp only [hl, if_false]
  by_cases hm : (fs.any fun e => e.pc.toNat = o.pc) = true
  · simp only [hm, if_true, addOutcs]
    refine ⟨_, rfl, ?_⟩
    intro he
    simp only [List.map_eq_nil_iff] at he
    simp [he] at hm
  · simp only [hm, hr, if_true, addOutcs]
    exact ⟨_, rfl, by simp⟩

/-- What the end of a word does to a state whose group has kept its entries: the entries move on, the word is counted, and nothing else
changes. -/
theorem finish_next {u : Use} {v : Env} {s0 s : State} {y : Group} (hl : s0.limit = none) (hg : s.group? v.r = some y)
    (hm : v.e.mask ≠ 0) (hr : (dropEntry y.frontier v.e).length + y.aside.length < 8) :
    ∃ (o : Nat) (f : Group → Group), (∀ x : Group, x.sameRegs (f x)) ∧
      finish u v (nextOutc v) s0 s = { s.modGroup v.r f with ofs := o, note := .performed } := by
  unfold finish
  by_cases hc : u.c = 1
  · exact ⟨s0.ofs + 1, Group.retire u v.r.core, fun x => rfl, by simp [hc]⟩
  · simp only [hc, if_false, hl, State.group?_modGroup, hg, Option.map_some]
    have hret : ∀ x : Group, x.sameRegs (Group.retire u v.r.core x) := fun x => rfl
    split
    · exact ⟨0, Group.retire u v.r.core, hret, rfl⟩
    · obtain ⟨z, hz, hs, hne⟩ : ∃ z, advanced (s0.headerAt v.part) v (nextOutc v) (Group.retire u v.r.core y) = some z ∧
          y.sameRegs z ∧ (z.frontier.isEmpty && z.aside.isEmpty && z.handler.isNone) = false := by
        unfold advanced
        cases hh : (Group.retire u v.r.core y).handler with
        | some h =>
          simp only [nextOutc, List.find?_cons, hm, ne_eq, not_false_eq_true, decide_true]
          exact ⟨_, rfl, rfl, by simp⟩
        | none =>
          obtain ⟨fs, h1, h2⟩ := addOutcs_next (s0.headerAt v.part) v.e.gmask y.aside.length (dropEntry y.frontier v.e)
            { pc := v.pc + 4, lanes := v.e.mask, pri := v.e.pri } hm hr
          have h3 : addOutcs (s0.headerAt v.part) v.e.gmask (Group.retire u v.r.core y).aside.length
              (dropEntry (Group.retire u v.r.core y).frontier v.e) (nextOutc v) = some fs := h1
          simp only [h3]
          refine ⟨_, rfl, rfl, ?_⟩
          cases fs with
          | nil => exact absurd rfl h2
          | cons a t => simp
      simp only [hz, hne, Bool.false_eq_true, if_false]
      refine ⟨0, fun x => if x = y then z else x, ?_, ?_⟩
      · intro x
        by_cases hx : x = y
        · simp only [hx, if_true]; exact hs
        · simp only [hx, if_false]; rfl
      · rw [State.modGroup_modGroup, State.modGroup_congr s v.r _ (fun x => if x = y then z else x) y hg (by simp)]

end Machine

end Sys2Proof
end

