-- ==== Sys2Proof/Laws/Registers.lean ====
section
/-! SUPPORT. Registers read after they are written, and words that change nothing but the registers of their own group. -/

namespace Sys2Proof.Machine

/-! ## Lane masks -/

theorem mem_lanesOf (m : Lanes) (l : Nat) : l ∈ lanesOf m ↔ m.getLsbD l = true := by
  unfold lanesOf
  simp only [List.mem_filter, List.mem_range]
  constructor
  · exact fun h => h.2
  · intro h
    exact ⟨by
      have := BitVec.lt_of_getLsbD h
      exact this, h⟩

theorem foldl_mask (p : Nat → Bool) (l : Nat) (hl : l < 32) (ks : List Nat) (m : Lanes) :
    (ks.foldl (fun m k => if p k then m ||| (1#32 <<< k) else m) m).getLsbD l = (m.getLsbD l || (p l && decide (l ∈ ks))) := by
  induction ks generalizing m with
  | nil => simp
  | cons k t ih =>
    simp only [List.foldl_cons, ih, List.mem_cons]
    by_cases hp : p k = true
    · simp only [hp, if_true, BitVec.getLsbD_or, BitVec.getLsbD_shiftLeft, hl, decide_true, Bool.true_and]
      by_cases hk : l = k
      · subst hk; simp [hp]
      · have : (1#32).getLsbD (l - k) = decide (l - k = 0) := by simp [BitVec.getLsbD_one]
        by_cases hlt : l < k
        · simp [hlt, hk]
        · have h2 : ¬ l - k = 0 := by omega
          simp [hlt, h2, hk, this]
    · simp only [hp, Bool.false_eq_true, if_false]
      by_cases hk : l = k
      · subst hk; simp [Bool.not_eq_true] at hp; simp [hp]
      · simp [hk]

/-- A bit of a mask given by a condition. -/
@[simp] theorem getLsbD_maskOf (p : Nat → Bool) (l : Nat) : (maskOf p).getLsbD l = (p l && decide (l < 32)) := by
  by_cases hl : l < 32
  · unfold maskOf
    rw [foldl_mask p l hl]
    simp [hl]
  · simp [hl, BitVec.getLsbD_of_ge _ _ (Nat.le_of_not_lt hl)]

@[simp] theorem getLsbD_oneLane (k l : Nat) : (oneLane k).getLsbD l = (decide (l = k) && decide (l < 32)) := by
  unfold oneLane
  by_cases hl : l < 32
  · by_cases h : l = k
    · subst h; simp [hl]
    · by_cases hk : l < k
      · simp [hl, h, hk]
      · have : ¬ l - k = 0 := by omega
        simp [hl, h, hk, this]
  · simp [hl, BitVec.getLsbD_of_ge _ _ (Nat.le_of_not_lt hl)]

/-! ## Vector registers -/

theorem foldl_putLanes (n : Nat) (f : Nat → Word) (ls : List Nat) (hls : ∀ k ∈ ls, k < 32) (t : Tbl Word) (j l : Nat) (hl : l < 32) :
    (ls.foldl (fun t l => t.set 0 (32 * n + l) (f l)) t).get 0 (32 * j + l)
      = if j = n ∧ l ∈ ls then f l else t.get 0 (32 * j + l) := by
  induction ls generalizing t with
  | nil => simp
  | cons k ls ih =>
    rw [List.foldl_cons, ih (fun a ha => hls a (List.mem_cons_of_mem _ ha))]
    have hk : k < 32 := hls k (by simp)
    by_cases h1 : j = n ∧ l ∈ ls
    · simp [h1]
    · simp only [h1, if_false, List.mem_cons]
      by_cases h2 : j = n ∧ l = k
      · obtain ⟨rfl, rfl⟩ := h2; simp
      · have hne : 32 * j + l ≠ 32 * n + k := by omega
        rw [Tbl.get_set_ne _ _ _ _ _ hne]
        have h3 : ¬ (j = n ∧ (l = k ∨ l ∈ ls)) := by
          rintro ⟨a, b | b⟩
          · exact h2 ⟨a, b⟩
          · exact h1 ⟨a, b⟩
        simp [h3]

/-- What a table of vector registers reads after lanes of register n are written. -/
theorem get_putLanes (t : Tbl Word) (n : Nat) (m : Lanes) (f : Nat → Word) (j l : Nat) (hl : l < 32) :
    (putLanes t n m f).get 0 (32 * j + l) = if j = n ∧ m.getLsbD l = true then f l else t.get 0 (32 * j + l) := by
  unfold putLanes
  rw [foldl_putLanes n f (lanesOf m) (fun k hk => BitVec.lt_of_getLsbD ((mem_lanesOf m k).1 hk)) t j l hl]
  simp only [mem_lanesOf]

/-! ## What stays of a group -/

/-- A change of a group that keeps its entries and everything that `Writes` does not speak of. -/
structure Group.Keeps (x y : Group) : Prop where
  rest : y.rest = x.rest
  frontier : ∃ f : FEntry → FEntry, (∀ e, (f e).pc = e.pc) ∧ y.frontier = x.frontier.map f
  handler : y.handler = x.handler

theorem Group.Keeps.of_eq {x y : Group} (a : y.rest = x.rest) (b : y.frontier = x.frontier) (c : y.handler = x.handler) : x.Keeps y :=
  ⟨a, ⟨id, fun _ => rfl, by simp [b]⟩, c⟩

theorem Group.Keeps.refl (x : Group) : x.Keeps x := .of_eq rfl rfl rfl

theorem Group.Keeps.trans {x y z : Group} (a : x.Keeps y) (b : y.Keeps z) : x.Keeps z := by
  obtain ⟨f, hf, ef⟩ := a.frontier
  obtain ⟨g, hg, eg⟩ := b.frontier
  exact ⟨b.rest.trans a.rest, ⟨fun e => g (f e), fun e => (hg _).trans (hf e), by rw [eg, ef, List.map_map]; rfl⟩,
    b.handler.trans a.handler⟩

/-- The entries that remain beside the current one are as many. -/
theorem Group.Keeps.length {x y : Group} (a : x.Keeps y) (e : FEntry) :
    (dropEntry y.frontier e).length = (dropEntry x.frontier e).length := by
  obtain ⟨f, hf, ef⟩ := a.frontier
  unfold dropEntry
  rw [ef, List.filter_map, List.length_map]
  congr 1
  refine List.filter_congr fun z _ => ?_
  simp [hf]

theorem Group.aside_rest {x y : Group} (h : y.rest = x.rest) : y.aside = x.aside := by
  have : y.rest.aside = x.rest.aside := by rw [h]
  exact this

/-- A team that a word has changed in its own group and that group's block only. -/
structure Team.Local (g : Nat) (t u : Team) : Prop where
  group : ∃ f : Group → Group, u.group? g = (t.group? g).map f ∧ ∀ x, t.group? g = some x → x.Keeps (f x)
  others : ∀ k, k ≠ g → k ≠ partnerOf g → u.group? k = t.group? k
  partner : ∃ f : Group → Group, (∀ x : Group, x.Cleaner (f x)) ∧ u.group? (partnerOf g) = (t.group? (partnerOf g)).map f
  ext : ∀ k, k ≠ g / 2 → u.ext.get ⟨[], none, none⟩ k = t.ext.get ⟨[], none, none⟩ k
  locks : ∀ k, { u.ext.get ⟨[], none, none⟩ k with v := [] } = { t.ext.get ⟨[], none, none⟩ k with v := [] }
  rest : { u with groups := [], ext := [] } = { t with groups := [], ext := [] }

theorem Group.Cleaner.refl (x : Group) : x.Cleaner x := ⟨rfl, fun _ h => h, fun _ h _ => h⟩

theorem Group.Cleaner.trans {x y z : Group} (a : x.Cleaner y) (b : y.Cleaner z) : x.Cleaner z :=
  ⟨by rw [b.same, a.same], fun k h => a.poison k (b.poison k h), fun k h n => b.own k (a.own k h n) n⟩

theorem partnerOf_ne (g : Nat) : partnerOf g ≠ g := by unfold partnerOf; split <;> omega

theorem Team.Local.refl (g : Nat) (t : Team) : t.Local g t :=
  ⟨⟨id, by simp, fun x _ => Group.Keeps.refl x⟩, fun _ _ _ => rfl, ⟨id, fun x => .refl x, by simp⟩, fun _ _ => rfl, fun _ => rfl, rfl⟩

theorem Team.Local.trans {g : Nat} {t u w : Team} (a : t.Local g u) (b : u.Local g w) : t.Local g w := by
  obtain ⟨f, hf, kf⟩ := a.group
  obtain ⟨h, hh, kh⟩ := b.group
  obtain ⟨p, cp, hp⟩ := a.partner
  obtain ⟨q, cq, hq⟩ := b.partner
  refine ⟨⟨fun x => h (f x), ?_, ?_⟩, fun k hk hp => (b.others k hk hp).trans (a.others k hk hp),
    ⟨fun x => q (p x), fun x => (cp x).trans (cq (p x)), by rw [hq, hp]; simp [Function.comp_def]⟩, fun k hk => (b.ext k hk).trans (a.ext k hk),
    fun k => (b.locks k).trans (a.locks k), b.rest.trans a.rest⟩
  · rw [hh, hf]; cases t.group? g <;> rfl
  · intro x hx
    exact (kf x hx).trans (kh (f x) (by rw [hf, hx]; rfl))

theorem Team.modGroup_local (t : Team) (g : Nat) (f : Group → Group) (h : ∀ x, t.group? g = some x → x.Keeps (f x)) :
    t.Local g (t.modGroup g f) := by
  refine ⟨⟨f, by simp, h⟩, fun k hk _ => Team.group?_modGroup_ne t g k f hk,
    ⟨id, fun x => .refl x, by simp [Team.group?_modGroup_ne t g _ f (partnerOf_ne g)]⟩, fun k _ => by simp, fun k => by simp, ?_⟩
  unfold Team.modGroup
  split <;> rfl

@[simp] theorem Group.cure_rest (x : Group) (n : Nat) (m : Lanes) : (x.cure n m).rest = x.rest := by
  unfold Group.cure
  split <;> rfl

theorem Group.cure_v (x : Group) (n : Nat) (m : Lanes) : (x.cure n m).v = x.v := by
  unfold Group.cure
  split <;> rfl

theorem Group.cure_eq (x : Group) (n : Nat) (m : Lanes) : x.cure n m = { x with psnLines := (x.cure n m).psnLines } := by
  unfold Group.cure
  split <;> rfl

theorem Group.cure_with (x : Group) (n : Nat) (m : Lanes) (y : Tbl Word) :
    { x.cure n m with v := y } = { x with v := y, psnLines := (x.cure n m).psnLines } := by
  unfold Group.cure
  split <;> rfl

theorem Group.cure_cleaner (x : Group) (n : Nat) (m : Lanes) (h : 32 ≤ n) : x.Cleaner (x.cure n m) := by
  refine ⟨x.cure_eq n m, ?_, ?_⟩ <;> unfold Group.cure <;> split <;> rename_i e
  · exact fun _ h => h
  · exact fun k hk => (List.mem_filter.1 hk).1
  · exact fun _ h _ => h
  · intro k hk hn
    refine List.mem_filter.2 ⟨hk, ?_⟩
    have : ¬ k / 32 = n := by omega
    simp [this]

theorem Group.cure_keeps (x : Group) (n : Nat) (m : Lanes) : x.Keeps (x.cure n m) :=
  .of_eq (by simp) (by rw [Group.cure_eq]) (by rw [Group.cure_eq])

/-- Writing a vector register changes its own group's registers only. -/
theorem Team.vset_local (t : Team) (g n : Nat) (m : Lanes) (f : Nat → Word) : t.Local g (t.vset g n m f) := by
  unfold Team.vset
  split
  · refine Team.modGroup_local t g _ fun x _ => ?_
    exact .of_eq (by rw [Group.cure_eq]; rfl) (by rw [Group.cure_eq]) (by rw [Group.cure_eq])
  · rename_i hn
    have h := Team.modGroup_local t g (fun x => x.cure n m) fun x _ => x.cure_keeps n m
    have pn := partnerOf_ne g
    refine ⟨⟨fun x => x.cure n m, ?_, fun x _ => x.cure_keeps n m⟩, fun k hk hp => ?_, ⟨fun x => x.cure n m, fun x => x.cure_cleaner n m (by omega), ?_⟩,
      fun k hk => ?_, fun k => ?_, ?_⟩
    · show ((t.modGroup g fun x => x.cure n m).modGroup (partnerOf g) fun x => x.cure n m).group? g = _
      rw [Team.group?_modGroup_ne _ _ _ _ pn.symm, Team.group?_modGroup]
    · show ((t.modGroup g fun x => x.cure n m).modGroup (partnerOf g) fun x => x.cure n m).group? k = _
      rw [Team.group?_modGroup_ne _ _ _ _ hp, Team.group?_modGroup_ne _ _ _ _ hk]
    · show ((t.modGroup g fun x => x.cure n m).modGroup (partnerOf g) fun x => x.cure n m).group? (partnerOf g) = _
      rw [Team.group?_modGroup, Team.group?_modGroup_ne _ _ _ _ pn]
    · show (Tbl.set _ t.ext (g / 2) _).get _ k = _
      rw [Tbl.get_set_ne _ _ _ _ _ hk]
    · show ({ (Tbl.set _ t.ext (g / 2) _).get _ k with v := [] } : ExtBlock) = _
      by_cases hk : k = g / 2
      · subst hk; simp
      · rw [Tbl.get_set_ne _ _ _ _ _ hk]
    · unfold Team.modGroup
      split <;> split <;> rfl

/-! ## Vector registers of a team -/

/-- Register n, lane l of a group's own view after a write. -/
theorem Team.vget_vset (t : Team) (g d : Nat) (m : Lanes) (f : Nat → Word) (n l : Nat) (hl : l < 32) (hg : (t.group? g).isSome) :
    (t.vset g d m f).vget g n l = if n = d ∧ m.getLsbD l = true then f l else t.vget g n l := by
  obtain ⟨x, hx⟩ := Option.isSome_iff_exists.1 hg
  unfold Team.vset Team.vget
  by_cases hd : d < 32
  · by_cases hn : n < 32
    · simp only [hd, hn, if_true, Team.group?_modGroup, hx, Option.map_some]
      rw [get_putLanes _ _ _ _ _ _ hl]
    · have : n ≠ d := by omega
      simp [hd, hn, this]
  · by_cases hn : n < 32
    · have hne : n ≠ d := by omega
      simp only [hd, hn, if_true, if_false]
      show (match ((t.modGroup g fun x => x.cure d m).modGroup (partnerOf g) fun x => x.cure d m).group? g with
        | none => 0
        | some x => x.v.get 0 (32 * n + l)) = _
      rw [Team.group?_modGroup_ne _ _ _ _ (partnerOf_ne g).symm]
      simp [hx, Group.cure_v, hne]
    · simp only [hd, hn, if_false, Tbl.get_set]
      rw [get_putLanes _ _ _ _ _ _ hl]

theorem Team.vget_modGroup (t : Team) (g : Nat) (f : Group → Group) (n l : Nat) (h : ∀ x, t.group? g = some x → (f x).v = x.v) :
    (t.modGroup g f).vget g n l = t.vget g n l := by
  unfold Team.vget
  split
  · simp only [Team.group?_modGroup]
    cases hx : t.group? g with
    | none => rfl
    | some x => simp [h x hx]
  · simp

theorem Group.sget_sset (x : Group) (d n : Nat) (y : DWord) : (x.sset d y).sget n = if n = d ∧ n ≠ 0 then y else x.sget n := by
  unfold Group.sset Group.sget
  by_cases h0 : n = 0
  · simp [h0]
  · by_cases hd : d = 0
    · subst hd; simp [h0]
    · by_cases hn : n = d
      · subst hn; simp [h0]
      · simp [h0, hd, hn, Tbl.get_set_ne _ _ _ _ _ hn]

theorem Group.sset_keeps (x : Group) (d : Nat) (y : DWord) : x.Keeps (x.sset d y) := by
  unfold Group.sset
  split <;> exact .of_eq rfl rfl rfl

theorem Group.pget_pset (x : Group) (d n : Nat) (m y : Lanes) (l : Nat) (hl : l < 32) :
    ((x.pset d m y).pget n).getLsbD l = if n = d ∧ n ≠ 0 ∧ m.getLsbD l = true then y.getLsbD l else (x.pget n).getLsbD l := by
  unfold Group.pset Group.pget
  by_cases h0 : n = 0
  · simp [h0, hl]
  · by_cases hd : d = 0
    · subst hd; simp [h0]
    · by_cases hn : n = d
      · subst hn
        simp only [h0, if_false, Tbl.get_set, BitVec.getLsbD_or, BitVec.getLsbD_and, BitVec.getLsbD_not, hl, decide_true, Bool.true_and,
          true_and, ne_eq, not_false_eq_true]
        cases m.getLsbD l <;> simp
      · simp [h0, hd, hn, Tbl.get_set_ne _ _ _ _ _ hn]

theorem Group.pset_keeps (x : Group) (d : Nat) (m y : Lanes) : x.Keeps (x.pset d m y) := by
  unfold Group.pset
  split <;> exact .of_eq rfl rfl rfl

/-! ## A word that changes its own group's registers -/

/-- What a change of a team does to the registers of group g. -/
structure Team.Writes (g : Nat) (w : Writes) (t u : Team) : Prop where
  vreg : ∀ n l, l < 32 → u.vget g n l = (w.v n l).getD (t.vget g n l)
  sreg : ∀ x y, t.group? g = some x → u.group? g = some y → ∀ n, y.sget n = (w.s n).getD (x.sget n)
  preg : ∀ x y, t.group? g = some x → u.group? g = some y → ∀ n l, l < 32 →
    (y.pget n).getLsbD l = (w.p n l).getD ((x.pget n).getLsbD l)
  status : ∀ x y, t.group? g = some x → u.group? g = some y → y.status = x.status ||| w.status
  key : ∀ x y, t.group? g = some x → u.group? g = some y → ∀ l, l < 32 → y.keyOf l = (w.key l).getD (x.keyOf l)
  ctr : ∀ x y, t.group? g = some x → u.group? g = some y → ∀ l, l < 32 → y.ctrOf l = (w.ctr l).getD (x.ctrOf l)

/-- The end of a word whose effect is a change of its own group's registers, from the state `s1` in which it takes effect. -/
theorem wrote_of_finish {u : Use} {s s1 : State} {v : Env} {w : Writes} {F : Team → Team} {y : Group} (hl : s.limit = none)
    (hm : v.e.mask ≠ 0) (hy : s1.group? v.r = some y) (hroom : (dropEntry y.frontier v.e).length + y.aside.length < 8)
    (loc : ∀ t, s1.team? v.r = some t → t.Local v.r.grp (F t)) (wr : ∀ t, s1.team? v.r = some t → t.Writes v.r.grp w (F t)) :
    Wrote v.r w s1 (finish u v (nextOutc v) s (s1.modTeam v.r F)) := by
  obtain ⟨T, hT, hTy⟩ : ∃ T, s1.team? v.r = some T ∧ T.group? v.r.grp = some y := by
    unfold State.group? at hy
    cases hT : s1.team? v.r with
    | none => simp [hT] at hy
    | some T => exact ⟨T, rfl, by simpa [hT] using hy⟩
  have L := loc T hT
  have W := wr T hT
  obtain ⟨φ, hφ, kφ⟩ := L.group
  have hg : (s1.modTeam v.r F).group? v.r = some (φ y) := by
    rw [State.group?_modTeam, hT]; simp [hφ, hTy]
  have K := kφ y hTy
  have hr : (dropEntry (φ y).frontier v.e).length + (φ y).aside.length < 8 := by
    rw [K.length, Group.aside_rest K.rest]; exact hroom
  obtain ⟨o, f, hf, hfin⟩ := finish_next (u := u) hl hg hm hr
  rw [hfin]
  have ht : ((s1.modTeam v.r F).modGroup v.r f).team? v.r = some ((F T).modGroup v.r.grp f) := by simp [hT]
  have hgr : ((s1.modTeam v.r F).modGroup v.r f).group? v.r = some (f (φ y)) := by simp [hg]
  have hs := hf (φ y)
  unfold Group.sameRegs at hs
  generalize hq : (s1.modTeam v.r F).modGroup v.r f = q at *
  have tt : ({ q with ofs := o, note := Note.performed } : State).team? v.r = some ((F T).modGroup v.r.grp f) := ht
  have tg : ({ q with ofs := o, note := Note.performed } : State).group? v.r = some (f (φ y)) := hgr
  have hFy : (F T).group? v.r.grp = some (φ y) := by rw [hφ, hTy]; rfl
  refine ⟨rfl, ?_, ?_, ?_, ?_, ?_, ?_, ?_, ?_, ?_, ?_⟩
  · intro n l hl
    unfold State.vreg
    rw [tt, hT]
    show ((F T).modGroup v.r.grp f).vget v.r.grp n l = _
    rw [Team.vget_modGroup _ _ _ _ _ (fun x hx => by have := hf x; unfold Group.sameRegs at this; rw [this]), W.vreg n l hl]
  · intro n
    unfold State.sreg
    rw [tg, hy]
    show (f (φ y)).sget n = _
    rw [hs]; exact W.sreg y (φ y) hTy hFy n
  · intro n l hl
    unfold State.preg
    rw [tg, hy]
    show ((f (φ y)).pget n).getLsbD l = _
    rw [hs]; exact W.preg y (φ y) hTy hFy n l hl
  · unfold State.statusReg
    rw [tg, hy]
    show (f (φ y)).status = _
    rw [hs]; exact W.status y (φ y) hTy hFy
  · intro l hl
    unfold State.keyReg
    rw [tg, hy]
    show (f (φ y)).keyOf l = _
    rw [hs]; exact W.key y (φ y) hTy hFy l hl
  · intro l hl
    unfold State.ctrReg
    rw [tg, hy]
    show (f (φ y)).ctrOf l = _
    rw [hs]; exact W.ctr y (φ y) hTy hFy l hl
  · rw [tg, hy]
    show some (f (φ y)).rest = some y.rest
    rw [hs, ← K.rest]; rfl
  · intro k hk
    rw [tt, hT]
    simp [L.ext k hk]
  · intro k
    rw [tt, hT]
    simp [L.locks k]
  · subst hq
    refine ⟨?_, ?_, ?_, ?_, ?_, ?_, ?_⟩
    · constructor <;> rfl
    · intro c hc
      show (((s1.modTeam v.r F).modGroup v.r f)).core c = s1.core c
      unfold State.modGroup State.modTeam
      rw [State.core_modCore_ne _ _ _ _ hc, State.core_modCore_ne _ _ _ _ hc]
    · show { ((s1.modTeam v.r F).modGroup v.r f).core v.r.core with teams := [] } = _
      unfold State.modGroup State.modTeam
      simp only [State.core_modCore]
      unfold Core.modTeam
      split <;> split <;> rfl
    · intro n hn
      show (((s1.modTeam v.r F).modGroup v.r f).core v.r.core).team? n = _
      unfold State.modGroup State.modTeam
      simp only [State.core_modCore]
      rw [Core.team?_modTeam_ne _ _ _ _ hn, Core.team?_modTeam_ne _ _ _ _ hn]
    · rw [tt, hT]
      simp only [Option.map_some, Option.some.injEq]
      rw [← L.rest]
      unfold Team.modGroup
      split <;> rfl
    · intro g hg' hp
      rw [tt, hT]
      simp only [Option.bind_some]
      rw [Team.group?_modGroup_ne _ _ _ _ hg', L.others g hg' hp]
    · obtain ⟨p, cp, ep⟩ := L.partner
      refine ⟨p, cp, ?_⟩
      rw [tt, hT]
      simp only [Option.bind_some]
      rw [Team.group?_modGroup_ne _ _ _ _ (partnerOf_ne _), ep]

/-- A word whose effect is a change of its own group's registers completes. -/
theorem wrote_of_team {u : Use} {s : State} {v : Env} {body : Env → State → Res} {w : Writes} {F : Team → Team}
    (h : Issues u s v) (room : Room s v) (orph : u.orph = .free) (hb : body v s = .done (s.modTeam v.r F))
    (loc : ∀ t, s.team? v.r = some t → t.Local v.r.grp (F t)) (wr : ∀ t, s.team? v.r = some t → t.Writes v.r.grp w (F t)) :
    ∃ t, perform u body s = .next t ∧ Wrote v.r w s t := by
  obtain ⟨y, hy, hroom⟩ := room.group
  have hfo : followed u v s = s := by simp [followed, orph]
  rw [perform_issues body h, hfo, hb]
  exact ⟨_, rfl, wrote_of_finish room.limit (exec_mask h.env h.active) hy hroom loc wr⟩

end Sys2Proof.Machine
end

