-- ==== Sys2Proof/Laws/Words.lean ====
section
/-! SUPPORT. The shapes that lane words and uniform words share, and what each writes. -/

namespace Sys2Proof.Machine

/-- A change of a team that writes nothing in its group. -/
theorem Team.Writes.of_vset (t : Team) (g d : Nat) (m : Lanes) (f : Nat → Word) :
    (t.group? g).isSome → t.Writes g { v := fun n l => if n = d ∧ m.getLsbD l then some (f l) else none } (t.vset g d m f) := by
  intro hs
  have L := Team.vset_local t g d m f
  have same : ∀ x y, t.group? g = some x → (t.vset g d m f).group? g = some y →
      y.s = x.s ∧ y.p = x.p ∧ y.status = x.status ∧ y.key = x.key ∧ y.ctr = x.ctr := by
    intro x y hx hy
    unfold Team.vset at hy
    split at hy
    · simp only [Team.group?_modGroup, hx, Option.map_some, Option.some.injEq] at hy
      rw [← hy, Group.cure_eq]
      exact ⟨rfl, rfl, rfl, rfl, rfl⟩
    · have hy' : ((t.modGroup g fun x => x.cure d m).modGroup (partnerOf g) fun x => x.cure d m).group? g = some y := hy
      rw [Team.group?_modGroup_ne _ _ _ _ (partnerOf_ne g).symm] at hy'
      simp only [Team.group?_modGroup, hx, Option.map_some, Option.some.injEq] at hy'
      rw [← hy', Group.cure_eq]
      exact ⟨rfl, rfl, rfl, rfl, rfl⟩
  refine ⟨?_, ?_, ?_, ?_, ?_, ?_⟩
  · intro n l hl
    rw [Team.vget_vset t g d m f n l hl hs]
    by_cases hc : n = d ∧ m.getLsbD l = true <;> simp [hc]
  · intro x y hx hy n
    simp [Group.sget, (same x y hx hy).1]
  · intro x y hx hy n l _
    simp [Group.pget, (same x y hx hy).2.1]
  · intro x y hx hy
    simp [(same x y hx hy).2.2.1]
  · intro x y hx hy l _
    simp [Group.keyOf, (same x y hx hy).2.2.2.1]
  · intro x y hx hy l _
    simp [Group.ctrOf, (same x y hx hy).2.2.2.2]

/-- A team of a group that issues. -/
theorem Room.teamHas {s : State} {v : Env} (h : Room s v) {t : Team} (ht : s.team? v.r = some t) : (t.group? v.r.grp).isSome := by
  obtain ⟨y, hy, -⟩ := h.group
  unfold State.group? at hy
  rw [ht] at hy
  simp only [Option.bind_some] at hy
  simp [hy]

/-- A lane word that writes one register completes. -/
theorem wrote_lane32 {u : Use} {s : State} {v : Env} (d : BitVec 7) (f : Env → Nat → Word) (orph : u.orph = .free)
    (h : Issues u s v) (room : Room s v) : ∃ t, perform u (lane32 d f) s = .next t ∧ Wrote v.r (.lanes v.em d (f v)) s t :=
  wrote_of_team h room orph (F := fun t => t.vset v.r.grp d.toNat v.em (f v)) rfl
    (fun t _ => Team.vset_local t _ _ _ _) (fun t ht => Team.Writes.of_vset t _ _ _ _ (room.teamHas ht))

/-- Two changes in a row, the second writing what the first does not. -/
theorem Team.vset_isSome (t : Team) (g d : Nat) (m : Lanes) (f : Nat → Word) (h : (t.group? g).isSome) :
    ((t.vset g d m f).group? g).isSome := by
  obtain ⟨φ, hφ, -⟩ := (Team.vset_local t g d m f).group
  rw [hφ]; simpa using h

/-- A lane word that writes a pair completes. -/
theorem wrote_lane64 {u : Use} {s : State} {v : Env} (d : BitVec 7) (f : Env → Nat → DWord) (orph : u.orph = .free)
    (h : Issues u s v) (room : Room s v) : ∃ t, perform u (lane64 d f) s = .next t ∧ Wrote v.r (.pair v.em d (f v)) s t := by
  refine wrote_of_team h room orph (F := fun t =>
    (t.vset v.r.grp d.toNat v.em fun l => (f v l).setWidth 32).vset v.r.grp (d.toNat + 1) v.em fun l => (f v l).extractLsb' 32 32) rfl
    (fun t _ => (Team.vset_local t _ _ _ _).trans (Team.vset_local _ _ _ _ _)) ?_
  intro t ht
  have hs := room.teamHas ht
  have A := Team.Writes.of_vset t v.r.grp d.toNat v.em (fun l => (f v l).setWidth 32) hs
  have hs' := Team.vset_isSome t v.r.grp d.toNat v.em (fun l => (f v l).setWidth 32) hs
  have B := Team.Writes.of_vset (t.vset v.r.grp d.toNat v.em fun l => (f v l).setWidth 32) v.r.grp (d.toNat + 1) v.em
    (fun l => (f v l).extractLsb' 32 32) hs'
  obtain ⟨y, hy⟩ := Option.isSome_iff_exists.1 hs'
  refine ⟨?_, ?_, ?_, ?_, ?_, ?_⟩
  · intro n l hl
    rw [B.vreg n l hl, A.vreg n l hl]
    unfold Writes.pair
    by_cases hm : v.em.getLsbD l = true
    · by_cases h1 : n = d.toNat
      · simp [h1, hm, BitVec.setWidth_eq_extractLsb']
      · by_cases h2 : n = d.toNat + 1 <;> simp [h1, h2, hm]
    · simp [hm]
  · intro x z hx hz n
    rw [B.sreg y z hy hz, A.sreg x y hx hy]; rfl
  · intro x z hx hz n l hl
    rw [B.preg y z hy hz n l hl, A.preg x y hx hy n l hl]; rfl
  · intro x z hx hz
    rw [B.status y z hy hz, A.status x y hx hy]; simp [Writes.pair]
  · intro x z hx hz l hl
    rw [B.key y z hy hz l hl, A.key x y hx hy l hl]; rfl
  · intro x z hx hz l hl
    rw [B.ctr y z hy hz l hl, A.ctr x y hx hy l hl]; rfl

/-- A change of the group alone that leaves its vector registers. -/
theorem Team.Writes.of_modGroup (t : Team) (g : Nat) (f : Group → Group) (w : Machine.Writes) (hv : w.v = fun _ _ => none)
    (h : ∀ x, t.group? g = some x → (f x).v = x.v ∧ (∀ n, (f x).sget n = (w.s n).getD (x.sget n)) ∧
      (∀ n l, l < 32 → ((f x).pget n).getLsbD l = (w.p n l).getD ((x.pget n).getLsbD l)) ∧ (f x).status = x.status ||| w.status ∧
      (∀ l, l < 32 → (f x).keyOf l = (w.key l).getD (x.keyOf l)) ∧ ∀ l, l < 32 → (f x).ctrOf l = (w.ctr l).getD (x.ctrOf l)) :
    t.Writes g w (t.modGroup g f) := by
  have e : ∀ x y, t.group? g = some x → (t.modGroup g f).group? g = some y → y = f x := by
    intro x y hx hy
    simp only [Team.group?_modGroup, hx, Option.map_some, Option.some.injEq] at hy
    exact hy.symm
  refine ⟨?_, ?_, ?_, ?_, ?_, ?_⟩
  · intro n l _
    rw [Team.vget_modGroup t g f n l fun x hx => (h x hx).1, hv]; rfl
  · intro x y hx hy n; rw [e x y hx hy]; exact (h x hx).2.1 n
  · intro x y hx hy n l hl; rw [e x y hx hy]; exact (h x hx).2.2.1 n l hl
  · intro x y hx hy; rw [e x y hx hy]; exact (h x hx).2.2.2.1
  · intro x y hx hy l hl; rw [e x y hx hy]; exact (h x hx).2.2.2.2.1 l hl
  · intro x y hx hy l hl; rw [e x y hx hy]; exact (h x hx).2.2.2.2.2 l hl

/-- A word that writes one predicate completes. -/
theorem wrote_lanePred {u : Use} {s : State} {v : Env} (d : BitVec 3) (f : Env → Lanes) (orph : u.orph = .free)
    (h : Issues u s v) (room : Room s v) :
    ∃ t, perform u (lanePred d.toNat f) s = .next t ∧ Wrote v.r (.pred v.em d fun l => (f v).getLsbD l) s t := by
  refine wrote_of_team h room orph (F := fun t => t.modGroup v.r.grp fun x => x.pset d.toNat v.em (f v)) rfl
    (fun t _ => Team.modGroup_local t _ _ fun x _ => x.pset_keeps _ _ _) fun t _ => ?_
  refine Team.Writes.of_modGroup t _ _ _ rfl fun x _ => ?_
  have hf : (x.pset d.toNat v.em (f v)) = { x with p := (x.pset d.toNat v.em (f v)).p } := by
    unfold Group.pset; split <;> rfl
  refine ⟨by rw [hf], fun n => by rw [hf]; rfl, ?_, by rw [hf]; simp [Writes.pred], fun l _ => by rw [hf]; rfl, fun l _ => by rw [hf]; rfl⟩
  intro n l hl
  rw [Group.pget_pset _ _ _ _ _ _ hl]
  unfold Writes.pred
  by_cases hc : n = d.toNat ∧ n ≠ 0 ∧ v.em.getLsbD l = true
  · simp only [if_pos hc, Option.getD_some]
  · simp only [if_neg hc, Option.getD_none]

/-- A word that writes one uniform register completes. -/
theorem wrote_uniform {u : Use} {s : State} {v : Env} (d : BitVec 7) (f : Env → DWord) (orph : u.orph = .free)
    (h : Issues u s v) (room : Room s v) :
    ∃ t, perform u (uniform d.toNat f) s = .next t ∧ Wrote v.r (.uni d (f v)) s t := by
  refine wrote_of_team h room orph (F := fun t => t.modGroup v.r.grp fun x => x.sset d.toNat (f v)) rfl
    (fun t _ => Team.modGroup_local t _ _ fun x _ => x.sset_keeps _ _) fun t _ => ?_
  refine Team.Writes.of_modGroup t _ _ _ rfl fun x _ => ?_
  have hf : (x.sset d.toNat (f v)) = { x with s := (x.sset d.toNat (f v)).s } := by
    unfold Group.sset; split <;> rfl
  refine ⟨by rw [hf], fun n => ?_, fun n l _ => by rw [hf]; rfl, by rw [hf]; simp [Writes.uni], fun l _ => by rw [hf]; rfl,
    fun l _ => by rw [hf]; rfl⟩
  rw [Group.sget_sset]
  unfold Writes.uni
  by_cases hc : n = d.toNat ∧ n ≠ 0
  · simp only [if_pos hc, Option.getD_some]
  · simp only [if_neg hc, Option.getD_none]

/-! ## Words whose lanes raise flags or draw -/

theorem Team.vget_foldl_regs (g l : Nat) (n k : Nat) (hk : k < 32) (rs : List (Nat × Word)) (t : Team) (hs : (t.group? g).isSome) :
    (rs.foldl (fun t rw => t.vset g rw.1 (oneLane l) fun _ => rw.2) t).vget g n k
      = if k = l then (((rs.reverse.find? fun r => r.1 = n).map (·.2)).getD (t.vget g n k)) else t.vget g n k := by
  induction rs generalizing t with
  | nil => simp
  | cons r rs ih =>
    rw [List.foldl_cons, ih _ (Team.vset_isSome _ _ _ _ _ hs), Team.vget_vset _ _ _ _ _ _ _ hk hs]
    by_cases h : k = l
    · subst h
      simp only [getLsbD_oneLane, hk, decide_true, Bool.and_self, and_true, if_true, List.reverse_cons, List.find?_append,
        List.find?_cons, List.find?_nil]
      cases hf : rs.reverse.find? fun r => r.1 = n with
      | some y => simp
      | none =>
        by_cases hn : n = r.1
        · simp [hn]
        · have : ¬ r.1 = n := fun e => hn e.symm
          simp [hn, this]
    · simp [h]

/-- Registers named once each: the first entry is the last. -/
theorem find?_reverse_of_nodup {α : Type} (rs : List (Nat × α)) (h : (rs.map (·.1)).Nodup) (n : Nat) :
    (rs.reverse.find? fun r => r.1 = n) = rs.find? fun r => r.1 = n := by
  induction rs with
  | nil => rfl
  | cons r rs ih =>
    simp only [List.map_cons, List.nodup_cons] at h
    rw [List.reverse_cons, List.find?_append, ih h.2, List.find?_cons]
    by_cases hr : r.1 = n
    · have : rs.find? (fun r => r.1 = n) = none := by
        rw [List.find?_eq_none]
        intro x hx he
        simp only [decide_eq_true_eq] at he
        exact h.1 (List.mem_map.2 ⟨x, hx, he.trans hr.symm⟩)
      simp [this, hr]
    · simp only [hr, decide_false, List.find?_cons, List.find?_nil]
      cases rs.find? fun r => r.1 = n <;> rfl

/-- Predicates given one by one in one lane. -/
theorem Group.pget_foldl_preds (l n k : Nat) (hk : k < 32) (ps : List (Nat × Bool)) (x : Group) :
    ((ps.foldl (fun x pb => x.pset pb.1 (oneLane l) (if pb.2 then oneLane l else 0)) x).pget n).getLsbD k
      = if k = l ∧ n ≠ 0 then (((ps.reverse.find? fun r => r.1 = n).map (·.2)).getD ((x.pget n).getLsbD k))
        else (x.pget n).getLsbD k := by
  induction ps generalizing x with
  | nil => simp
  | cons r ps ih =>
    rw [List.foldl_cons, ih, Group.pget_pset _ _ _ _ _ _ hk]
    by_cases h : k = l ∧ n ≠ 0
    · obtain ⟨rfl, h0⟩ := h
      simp only [true_and, h0, ne_eq, not_false_eq_true, if_true, getLsbD_oneLane, hk, decide_true, Bool.and_self, and_true,
        List.reverse_cons, List.find?_append, List.find?_cons, List.find?_nil]
      cases hf : ps.reverse.find? fun r => r.1 = n with
      | some y => simp
      | none =>
        by_cases hn : n = r.1
        · subst hn
          cases hb : r.2 <;> simp [hk, hb]
        · have : ¬ r.1 = n := fun e => hn e.symm
          simp [hn, this]
    · have hc : ¬ (n = r.1 ∧ n ≠ 0 ∧ (oneLane l).getLsbD k = true) := by
        rintro ⟨-, h0, hl⟩
        simp only [getLsbD_oneLane, Bool.and_eq_true, decide_eq_true_eq] at hl
        exact h ⟨hl.1, h0⟩
      rw [if_neg h, if_neg h, if_neg hc]

theorem Group.foldl_preds_keeps (l : Nat) (ps : List (Nat × Bool)) (x : Group) :
    (ps.foldl (fun x pb => x.pset pb.1 (oneLane l) (if pb.2 then oneLane l else 0)) x)
      = { x with p := (ps.foldl (fun x pb => x.pset pb.1 (oneLane l) (if pb.2 then oneLane l else 0)) x).p } := by
  induction ps generalizing x with
  | nil => rfl
  | cons r ps ih =>
    rw [List.foldl_cons, ih]
    have : ∀ (d : Nat) (m y : Lanes), x.pset d m y = { x with p := (x.pset d m y).p } := by
      intro d m y; unfold Group.pset; split <;> rfl
    generalize hq : (ps.foldl (fun x pb => x.pset pb.1 (oneLane l) (if pb.2 then oneLane l else 0))
      (x.pset r.1 (oneLane l) (if r.2 then oneLane l else 0))).p = q
    rw [this]

/-- What one lane changes in its group. -/
def laneGroup (lo : Nat × LaneOut) (x : Group) : Group :=
  let x1 := lo.2.preds.foldl (fun x pb => x.pset pb.1 (oneLane lo.1) (if pb.2 then oneLane lo.1 else 0)) x
  let x2 := { x1 with status := x1.status ||| lo.2.flags.bits }
  if lo.2.draws = 0 then x2 else x2.advanceCtr lo.1 lo.2.draws

theorem laneGroup_eq (lo : Nat × LaneOut) (x : Group) :
    laneGroup lo x = { x with p := (laneGroup lo x).p, status := x.status ||| lo.2.flags.bits, ctr := (laneGroup lo x).ctr } := by
  unfold laneGroup
  rw [Group.foldl_preds_keeps]
  simp only
  split <;> rfl

theorem laneGroup_ctr (lo : Nat × LaneOut) (x : Group) (l : Nat) :
    (laneGroup lo x).ctrOf l = if l = lo.1 then x.ctrOf l + BitVec.ofNat 64 lo.2.draws else x.ctrOf l := by
  unfold laneGroup
  rw [Group.foldl_preds_keeps]
  simp only
  split
  · next h => simp [h, Group.ctrOf]
  · unfold Group.advanceCtr Group.ctrOf
    by_cases h : l = lo.1
    · simp [h]
    · simp [h, Tbl.get_set_ne _ _ _ _ _ h]

theorem laneGroup_p (lo : Nat × LaneOut) (x : Group) (n k : Nat) (hk : k < 32) (nd : (lo.2.preds.map (·.1)).Nodup) :
    ((laneGroup lo x).pget n).getLsbD k = if k = lo.1 ∧ n ≠ 0 then
      (((lo.2.preds.find? fun r => r.1 = n).map (·.2)).getD ((x.pget n).getLsbD k)) else (x.pget n).getLsbD k := by
  have := Group.pget_foldl_preds lo.1 n k hk lo.2.preds x
  rw [find?_reverse_of_nodup _ nd] at this
  rw [← this]
  unfold laneGroup
  simp only
  split <;> rfl

theorem applyLane_eq (g : Nat) (t : Team) (lo : Nat × LaneOut) :
    applyLane g t lo = (lo.2.regs.foldl (fun t rw => t.vset g rw.1 (oneLane lo.1) fun _ => rw.2) t).modGroup g (laneGroup lo) := rfl

theorem Team.foldl_regs_local (g l : Nat) (rs : List (Nat × Word)) (t : Team) :
    t.Local g (rs.foldl (fun t rw => t.vset g rw.1 (oneLane l) fun _ => rw.2) t) := by
  induction rs generalizing t with
  | nil => exact Team.Local.refl g t
  | cons r rs ih => exact (Team.vset_local t g _ _ _).trans (ih _)

/-- The registers other than vector registers are not touched by writes to vector registers. -/
theorem Team.foldl_regs_group (g l : Nat) (rs : List (Nat × Word)) (t : Team) (x : Group) (hx : t.group? g = some x) :
    ∃ y, (rs.foldl (fun t rw => t.vset g rw.1 (oneLane l) fun _ => rw.2) t).group? g = some y ∧
      y = { x with v := y.v, psnLines := y.psnLines } := by
  induction rs generalizing t x with
  | nil => exact ⟨x, hx, rfl⟩
  | cons r rs ih =>
    obtain ⟨z, hz, ez⟩ : ∃ z, (t.vset g r.1 (oneLane l) fun _ => r.2).group? g = some z ∧ z = { x with v := z.v, psnLines := z.psnLines } := by
      unfold Team.vset
      split
      · refine ⟨_, by rw [Team.group?_modGroup, hx]; rfl, ?_⟩
        exact Group.cure_with x _ _ _
      · refine ⟨x.cure r.1 (oneLane l), ?_, ?_⟩
        · show ((t.modGroup g fun x => x.cure r.1 (oneLane l)).modGroup (partnerOf g) fun x => x.cure r.1 (oneLane l)).group? g = _
          rw [Team.group?_modGroup_ne _ _ _ _ (partnerOf_ne g).symm, Team.group?_modGroup, hx]; rfl
        · rw [Group.cure_eq]
    obtain ⟨y, hy, ey⟩ := ih _ z hz
    refine ⟨y, hy, ?_⟩
    rw [ey, ez]

theorem applyLane_local (g : Nat) (t : Team) (lo : Nat × LaneOut) : t.Local g (applyLane g t lo) := by
  rw [applyLane_eq]
  refine (Team.foldl_regs_local g lo.1 lo.2.regs t).trans (Team.modGroup_local _ _ _ fun x _ => ?_)
  refine .of_eq ?_ ?_ ?_ <;> rw [laneGroup_eq] <;> rfl

theorem foldl_applyLane_local (g : Nat) (los : List (Nat × LaneOut)) (t : Team) : t.Local g (los.foldl (applyLane g) t) := by
  induction los generalizing t with
  | nil => exact Team.Local.refl g t
  | cons a los ih => exact (applyLane_local g t a).trans (ih _)

theorem applyLane_group (g : Nat) (t : Team) (lo : Nat × LaneOut) (x : Group) (hx : t.group? g = some x) :
    ∃ y, (applyLane g t lo).group? g = some (laneGroup lo y) ∧ y = { x with v := y.v, psnLines := y.psnLines } := by
  obtain ⟨y, hy, ey⟩ := Team.foldl_regs_group g lo.1 lo.2.regs t x hx
  exact ⟨y, by rw [applyLane_eq, Team.group?_modGroup, hy]; rfl, ey⟩

/-- What the lanes of a word write, lane after lane. -/
theorem foldl_applyLane_writes (g : Nat) (out : Nat → LaneOut) (ls : List Nat) (nd : ls.Nodup) (t : Team) (x : Group)
    (hx : t.group? g = some x) (rn : ∀ l ∈ ls, ((out l).regs.map (·.1)).Nodup) (pn : ∀ l ∈ ls, ((out l).preds.map (·.1)).Nodup) :
    ∃ y, ((ls.map fun l => (l, out l)).foldl (applyLane g) t).group? g = some y ∧
      y.s = x.s ∧ y.key = x.key ∧ y.status = ls.foldl (fun st l => st ||| (out l).flags.bits) x.status ∧
      (∀ n k, k < 32 → (y.pget n).getLsbD k = if k ∈ ls ∧ n ≠ 0 then
        ((((out k).preds.find? fun r => r.1 = n).map (·.2)).getD ((x.pget n).getLsbD k)) else (x.pget n).getLsbD k) ∧
      (∀ k, y.ctrOf k = if k ∈ ls then x.ctrOf k + BitVec.ofNat 64 (out k).draws else x.ctrOf k) ∧
      ∀ n k, k < 32 → ((ls.map fun l => (l, out l)).foldl (applyLane g) t).vget g n k = if k ∈ ls then
        ((((out k).regs.find? fun r => r.1 = n).map (·.2)).getD (t.vget g n k)) else t.vget g n k := by
  induction ls generalizing t x with
  | nil => exact ⟨x, hx, rfl, rfl, rfl, by simp, by simp, by simp⟩
  | cons l ls ih =>
    simp only [List.map_cons, List.foldl_cons]
    simp only [List.nodup_cons] at nd
    obtain ⟨z, hz, ez⟩ := applyLane_group g t (l, out l) x hx
    obtain ⟨y, hy, h1, h2, h3, h4, h5, h6⟩ := ih nd.2 (applyLane g t (l, out l)) (laneGroup (l, out l) z) hz
      (fun k hk => rn k (List.mem_cons_of_mem _ hk)) fun k hk => pn k (List.mem_cons_of_mem _ hk)
    have q := laneGroup_eq (l, out l) z
    refine ⟨y, hy, ?_, ?_, ?_, ?_, ?_, ?_⟩
    · rw [h1, q]; show z.s = _; rw [ez]
    · rw [h2, q]; show z.key = _; rw [ez]
    · rw [h3, q]; show List.foldl _ (z.status ||| (out l).flags.bits) ls = _; rw [ez]
    · intro n k hk
      rw [h4 n k hk, laneGroup_p (l, out l) z n k hk (pn l (by simp))]
      have hp : z.pget n = x.pget n := by rw [ez]; rfl
      rw [hp]
      by_cases hkl : k = l
      · subst hkl
        simp [nd.1]
      · simp [hkl]
    · intro k
      rw [h5 k, laneGroup_ctr]
      have hc : z.ctrOf k = x.ctrOf k := by rw [ez]; rfl
      rw [hc]
      by_cases hkl : k = l
      · subst hkl
        simp [nd.1]
      · simp [hkl]
    · intro n k hk
      rw [h6 n k hk]
      have hv : (applyLane g t (l, out l)).vget g n k = if k = l then
          ((((out l).regs.find? fun r => r.1 = n).map (·.2)).getD (t.vget g n k)) else t.vget g n k := by
        rw [applyLane_eq, Team.vget_modGroup _ _ _ _ _ (fun x _ => by rw [laneGroup_eq]),
          Team.vget_foldl_regs g l n k hk _ t (by simp [hx]), find?_reverse_of_nodup _ (rn l (by simp))]
      rw [hv]
      by_cases hkl : k = l
      · subst hkl
        simp [nd.1]
      · simp [hkl]

theorem lanesOf_nodup (m : Lanes) : (lanesOf m).Nodup := List.Pairwise.filter _ List.nodup_range

theorem foldl_or_start (f : Nat → DWord) (ls : List Nat) (a : DWord) :
    ls.foldl (fun st l => st ||| f l) a = a ||| ls.foldl (fun st l => st ||| f l) 0 := by
  induction ls generalizing a with
  | nil => simp
  | cons l ls ih =>
    simp only [List.foldl_cons]
    rw [ih, ih (0 ||| f l)]
    simp [BitVec.or_assoc]

/-- A word whose lanes raise flags or draw completes when no lane's flags trap. -/
theorem wrote_laneBody {u : Use} {s : State} {v : Env} {y : Group} (f : Env → Group → Nat → LaneOut) (orph : u.orph = .free)
    (h : Issues u s v) (room : Room s v) (hy : s.group? v.r = some y)
    (ok : ∀ l, v.em.getLsbD l = true → trapsUnder v.team.bind.mode (f v (drawGroup v s) l).flags = false)
    (rn : ∀ l, ((f v (drawGroup v s) l).regs.map (·.1)).Nodup) (pn : ∀ l, ((f v (drawGroup v s) l).preds.map (·.1)).Nodup) :
    ∃ t, perform u (laneBody f) s = .next t ∧ Wrote v.r (.ofLanes v.em y.ctrOf (f v (drawGroup v s))) s t := by
  have hb : laneBody f v s = .done (s.modTeam v.r fun t => (v.lanes.map fun l => (l, f v (drawGroup v s) l)).foldl (applyLane v.r.grp) t) := by
    unfold laneBody
    have : (v.lanes.map fun l => (l, f v (drawGroup v s) l)).find? (fun lo => trapsUnder v.team.bind.mode lo.2.flags) = none := by
      rw [List.find?_eq_none]
      intro x hx
      obtain ⟨l, hl, rfl⟩ := List.mem_map.1 hx
      have := ok l ((mem_lanesOf v.em l).1 hl)
      simp [this]
    simp only [this]
  refine wrote_of_team h room orph (F := fun t => (v.lanes.map fun l => (l, f v (drawGroup v s) l)).foldl (applyLane v.r.grp) t) hb
    (fun t _ => foldl_applyLane_local _ _ _) fun t ht => ?_
  have hx : t.group? v.r.grp = some y := by
    unfold State.group? at hy; rw [ht] at hy; exact hy
  obtain ⟨z, hz, h1, h2, h3, h4, h5, h6⟩ := foldl_applyLane_writes v.r.grp (f v (drawGroup v s)) v.lanes (lanesOf_nodup v.em) t y hx
    (fun l _ => rn l) fun l _ => pn l
  have uniq : ∀ a b, t.group? v.r.grp = some a →
      ((v.lanes.map fun l => (l, f v (drawGroup v s) l)).foldl (applyLane v.r.grp) t).group? v.r.grp = some b → a = y ∧ b = z := by
    intro a b ha hb'
    rw [hx] at ha; rw [hz] at hb'
    exact ⟨(Option.some.inj ha).symm, (Option.some.inj hb').symm⟩
  have mem : ∀ l, (l ∈ v.lanes ↔ v.em.getLsbD l = true) := mem_lanesOf v.em
  refine ⟨?_, ?_, ?_, ?_, ?_, ?_⟩
  · intro n l hl
    rw [h6 n l hl]
    unfold Writes.ofLanes
    simp only [mem]
    split <;> rfl
  · intro a b ha hb' n
    obtain ⟨rfl, rfl⟩ := uniq a b ha hb'
    simp [Group.sget, h1, Writes.ofLanes]
  · intro a b ha hb' n l hl
    obtain ⟨rfl, rfl⟩ := uniq a b ha hb'
    rw [h4 n l hl]
    unfold Writes.ofLanes
    simp only [mem]
    by_cases hc : v.em.getLsbD l = true ∧ n ≠ 0
    · rw [if_pos hc, if_pos ⟨hc.2, hc.1⟩]
    · rw [if_neg hc, if_neg (fun hd => hc ⟨hd.2, hd.1⟩)]; rfl
  · intro a b ha hb'
    obtain ⟨rfl, rfl⟩ := uniq a b ha hb'
    rw [h3, foldl_or_start]; rfl
  · intro a b ha hb' l _
    obtain ⟨rfl, rfl⟩ := uniq a b ha hb'
    simp [Group.keyOf, h2, Writes.ofLanes]
  · intro a b ha hb' l _
    obtain ⟨rfl, rfl⟩ := uniq a b ha hb'
    rw [h5 l]
    unfold Writes.ofLanes
    simp only [mem]
    split <;> rfl

/-! ## Words by shape -/

theorem followed_free {u : Use} (ho : u.orph = .free) (v : Env) (s : State) : followed u v s = s := if_pos ho

/-- A word of one vector result completes, said of any function that gives the same values. -/
theorem completes_lane32 {i : Instr} {u : Use} {d : BitVec 7} {g f : Env → Nat → Word} (he : ∀ s, exec i s = perform u (lane32 d g) s)
    (hg : ∀ v l, g v l = f v l) (ho : u.orph = .free) : Completes i u always fun v _ => .lanes v.em d (f v) := by
  intro s v h r _
  rw [followed_free ho]
  rw [he, funext fun v => funext fun l => hg v l]; exact wrote_lane32 d f ho h r

/-- A word of one pair as result completes. -/
theorem completes_lane64 {i : Instr} {u : Use} {d : BitVec 7} {g f : Env → Nat → DWord} (he : ∀ s, exec i s = perform u (lane64 d g) s)
    (hg : ∀ v l, g v l = f v l) (ho : u.orph = .free) : Completes i u always fun v _ => .pair v.em d (f v) := by
  intro s v h r _
  rw [followed_free ho]
  rw [he, funext fun v => funext fun l => hg v l]; exact wrote_lane64 d f ho h r

/-- A word of one uniform result completes. -/
theorem completes_uniform {i : Instr} {u : Use} {d : BitVec 7} {g f : Env → DWord} (he : ∀ s, exec i s = perform u (uniform d.toNat g) s)
    (hg : ∀ v, g v = f v) (ho : u.orph = .free) : Completes i u always fun v _ => .uni d (f v) := by
  intro s v h r _
  rw [followed_free ho]
  rw [he, funext hg]; exact wrote_uniform d f ho h r

/-- A word of one predicate completes. -/
theorem completes_pred {i : Instr} {u : Use} {d : BitVec 3} {g : Env → Lanes} {f : Env → Nat → Bool}
    (he : ∀ s, exec i s = perform u (lanePred d.toNat g) s) (hg : ∀ v l, l < 32 → (g v).getLsbD l = f v l) (ho : u.orph = .free) :
    Completes i u always fun v _ => .pred v.em d (f v) := by
  intro s v h r _
  rw [followed_free ho]
  rw [he]
  obtain ⟨t, e, w⟩ := wrote_lanePred d g ho h r
  refine ⟨t, e, { w with preg := fun n l hl => ?_ }⟩
  rw [w.preg n l hl]
  simp only [Writes.pred]
  split
  · rw [hg v l hl]
  · rfl

/-- A word whose lanes raise flags or draw completes. -/
theorem completes_laneBody {i : Instr} {u : Use} (f : Env → Group → Nat → LaneOut) (he : ∀ s, exec i s = perform u (laneBody f) s)
    (ho : u.orph = .free) (rn : ∀ v x l, ((f v x l).regs.map (·.1)).Nodup) (pn : ∀ v x l, ((f v x l).preds.map (·.1)).Nodup) :
    Completes i u (noFlagTrap fun v s => f v (drawGroup v s)) fun v s => .ofLanes v.em (s.ctrReg v.r) (f v (drawGroup v s)) := by
  intro s v h r ok
  rw [followed_free ho] at ok ⊢
  obtain ⟨y, hy, -⟩ := r.group
  rw [he]
  obtain ⟨t, e, w⟩ := wrote_laneBody f ho h r hy ok (rn _ _) (pn _ _)
  have : y.ctrOf = s.ctrReg v.r := by funext l; simp [State.ctrReg, hy]
  rw [this] at w
  exact ⟨t, e, w⟩

end Sys2Proof.Machine
end

