-- ==== Sys2Proof/Tests/Base.lean ====
section
/-! SUPPORT. What the tests and the witnesses of the statements' hypotheses share: a small state in which a group issues, and the way from
a check that computes to the hypotheses of a statement. -/

namespace Sys2Proof.Tests

open Sys2Proof.Machine

/-- A program of a header and a `nop` is loaded, and group 0 of core 0 issues the `nop`. -/
def start : State := ((State.reset.withFetchWord 32 0x34000000).moving (.group ⟨0, 0, 0⟩)).issuing ⟨0, 0, 0⟩

/-- The group that issues. -/
def g0 : GroupRef := ⟨0, 0, 0⟩

/-- That state with the group changed. -/
def startG (f : Group → Group) : State := start.modGroup g0 f

/-- That state with the team changed. -/
def startT (f : Team → Team) : State := start.modTeam g0 f

/-- A word of use `u` issues undisturbed, its group has room, and `ok` holds. -/
def ready (u : Use) (s : State) (ok : Env → State → Bool) : Bool :=
  match s.env with
  | none => false
  | some v =>
    (issueTrap u v s).isNone && decide (v.em ≠ 0) && !fretFull u v s && !u.interlocked v.grp && (u.poisonedLane v).isNone &&
      (orphanLane u v s).isNone && s.limit.isNone &&
      ((s.group? v.r).any fun y => decide ((dropEntry y.frontier v.e).length + y.aside.length < 8)) && ok v (followed u v s)

/-- Some state and operands meet the hypotheses of `Completes`, `Does` and `Holds` with the condition `p`. -/
def Met (u : Use) (p : Env → State → Prop) : Prop := ∃ s v, Issues u s v ∧ Room s v ∧ p v (followed u v s)

/-- The hypotheses are met where they compute. -/
theorem ready_meets {u : Use} {s : State} {ok : Env → State → Bool} {p : Env → State → Prop} (h : ready u s ok = true)
    (k : ∀ v s, ok v s = true → p v s) : Met u p := by
  unfold ready at h
  cases e : s.env with
  | none => simp [e] at h
  | some v =>
    simp only [e, Bool.and_eq_true, Bool.not_eq_true', decide_eq_true_eq, Option.isNone_iff_eq_none] at h
    obtain ⟨⟨⟨⟨⟨⟨⟨⟨h1, h2⟩, h3⟩, h4⟩, h5⟩, h6⟩, h7⟩, h8⟩, h9⟩ := h
    refine ⟨s, v, ⟨e, h1, h2, h3, h4, h5, h6⟩, ⟨h7, ?_⟩, k _ _ h9⟩
    cases hy : s.group? v.r with
    | none => simp [hy] at h8
    | some y => exact ⟨y, rfl, by simpa [hy] using h8⟩

/-- The same for a property that is decided. -/
theorem ready_dec {u : Use} {s : State} {p : Env → State → Prop} [∀ v s, Decidable (p v s)]
    (h : ready u s (fun v s => decide (p v s)) = true) : Met u p :=
  ready_meets h fun _ _ => of_decide_eq_true

/-- The same for the words of a list, of which no more is asked. -/
theorem ready_all {us : List Use} {s : State} (h : us.all (fun u => ready u s fun _ _ => true) = true) :
    ∀ u ∈ us, Met u always := fun u hu =>
  ready_meets (List.all_eq_true.mp h u hu) fun _ _ _ => trivial

/-- A property of the active lanes, checked lane by lane. -/
theorem lanes_all {m : Lanes} {p : Nat → Prop} (h : ∀ l, l < 32 → m.getLsbD l = true → p l) : ∀ l, m.getLsbD l = true → p l :=
  fun l hl => h l (BitVec.lt_of_getLsbD hl) hl

/-- A jump with outcomes `outs` that changes its group by `f` meets the hypotheses of `Jumps`. -/
def jumps (u : Use) (s : State) (outs : Env → List Outc) (f : Env → Group → Group) (ok : Env → State → Bool) : Bool :=
  match s.env with
  | none => false
  | some v =>
    (issueTrap u v s).isNone && decide (v.em ≠ 0) && !fretFull u v s && !u.interlocked v.grp && (u.poisonedLane v).isNone &&
      (orphanLane u v s).isNone && s.limit.isNone && ok v s &&
      match s.group? v.r with
      | none => false
      | some y => (y.handler.isSome || v.grp.handler.isNone) &&
        match advanced (s.headerAt v.part) v (outs v) ((f v y).retire u v.r.core) with
        | none => false
        | some z => !z.frontier.isEmpty

/-- Some state and operands meet the hypotheses of `Jumps`. -/
def JumpMet (u : Use) (p : Env → State → Prop) (outs : Env → List Outc) (f : Env → Group → Group) : Prop :=
  ∃ s v y z, Issues u s v ∧ s.limit = none ∧ s.group? v.r = some y ∧ (y.handler = none → v.grp.handler = none) ∧ p v s ∧
    advanced (s.headerAt v.part) v (outs v) ((f v y).retire u v.r.core) = some z ∧ (z.frontier ≠ [] ∨ z.aside ≠ [] ∨ z.handler ≠ none)

/-- The hypotheses of `Jumps` are met where they compute. -/
theorem jumps_meets {u : Use} {s : State} {outs : Env → List Outc} {f : Env → Group → Group} {ok : Env → State → Bool}
    {p : Env → State → Prop} (h : jumps u s outs f ok = true) (k : ∀ v s, ok v s = true → p v s) : JumpMet u p outs f := by
  unfold jumps at h
  cases e : s.env with
  | none => simp [e] at h
  | some v =>
    simp only [e, Bool.and_eq_true, Bool.not_eq_true', decide_eq_true_eq, Option.isNone_iff_eq_none] at h
    obtain ⟨⟨⟨⟨⟨⟨⟨⟨h1, h2⟩, h3⟩, h4⟩, h5⟩, h6⟩, h7⟩, h8⟩, h9⟩ := h
    cases hy : s.group? v.r with
    | none => simp [hy] at h9
    | some y =>
      cases hz : advanced (s.headerAt v.part) v (outs v) ((f v y).retire u v.r.core) with
      | none => simp [hy, hz] at h9
      | some z =>
        simp only [hy, hz, Bool.and_eq_true, Bool.or_eq_true, Bool.not_eq_true'] at h9
        refine ⟨s, v, y, z, ⟨e, h1, h2, h3, h4, h5, h6⟩, h7, hy, ?_, k _ _ h8, hz, .inl ?_⟩
        · intro hn
          simpa [hn] using h9.1
        · intro hn
          simp [hn] at h9

/-- A lane's property as a check over all lanes. -/
def everyLane (m : Lanes) (p : Nat → Bool) : Bool := (List.range 32).all fun l => !m.getLsbD l || p l

theorem everyLane_all {m : Lanes} {p : Nat → Bool} (h : everyLane m p = true) : ∀ l, m.getLsbD l = true → p l = true :=
  lanes_all fun l hl hm => by
    have := List.all_eq_true.mp h l (List.mem_range.mpr hl)
    simpa [hm] using this

/-- A condition on the group, checked. -/
theorem group_meets {s : State} {r : GroupRef} {q : Group → Prop} {b : Group → Bool} (h : (s.group? r).any b = true)
    (k : ∀ y, b y = true → q y) : ∃ y, s.group? r = some y ∧ q y := by
  cases e : s.group? r with
  | none => simp [e] at h
  | some y => exact ⟨y, rfl, k y (by simpa [e] using h)⟩

/-- The acquire half is over, checked. -/
def acquiredB (v : Env) (s : State) (sc : Nat) : Bool :=
  decide (((liveGroup v s).ownLog = [] ∧ (liveGroup v s).loadSweep = false ∧ s.fencesOver v = true) ∧
    (5 ≤ sc → (liveGroup v s).sweep = some 0xFF))

theorem acquired_of {v : Env} {s : State} {sc : Nat} (h : acquiredB v s sc = true) : acquired v s sc := by
  unfold acquiredB at h
  have k := of_decide_eq_true h
  exact k

/-- That state with the core changed. -/
def startK (f : Core → Core) : State := start.modCore 0 f

/-- That state with the partition changed. -/
def startP (f : Part → Part) : State := start.modPart 0 f

/-- Only some lanes of the entry are active. -/
def someLanes (m : Lanes) (x : Group) : Group := { x with frontier := x.frontier.map fun e => { e with gmask := ~~~m } }

end Sys2Proof.Tests
end

