-- ==== Sys2Proof/Tests/EngineWitnesses.lean ====
section
/-! SUPPORT. States and operands that meet the hypotheses of the statements about engine words. -/

set_option maxRecDepth 20000

namespace Sys2Proof.Tests

open Sys2Proof.Machine

/-- What the word of the start reads. -/
def envOf : Env := (start.env).getD ⟨g0, placeTeam 0, placeGroup 0, noEntry, 0, 0⟩

/-- CommandEntry: fret 1 counts 62, one below its limit. -/
theorem witness_commandEntry : ∃ (s : State) (v : Env) (x : Group), s.group? v.r = some x ∧ (x.fret ((s.fretOf v .b).getD 0)).cnt ≠ 63 ∧
    s.fretOf v .b = some 1 :=
  ⟨startG fun x => { x with frets := [(1, ⟨62, 0⟩)] }, { envOf with r := g0 }, _, rfl, by decide, by decide⟩

theorem hyp_one {v : Env} {s : State} (h : everyLane v.em (fun l => decide ((liveGroup v s).hypOf l = (liveGroup v s).hypOf (lowestLane v.em))) = true) :
    oneHyp v s := fun l hl => of_decide_eq_true (everyLane_all h l hl)

/-- The hypotheses of a statement are met under one hypothesis, where they compute. -/
theorem ready_hyp {u : Use} {s : State} {ok : Env → State → Bool} {p : Env → State → Prop}
    (h : ready u s (fun v s => ok v s &&
      everyLane v.em fun l => decide ((liveGroup v s).hypOf l = (liveGroup v s).hypOf (lowestLane v.em))) = true)
    (k : ∀ v s, ok v s = true → oneHyp v s → p v s) : Met u p :=
  ready_meets h fun v s h => by
    rw [Bool.and_eq_true] at h
    exact k v s h.1 (hyp_one h.2)

/-- An operand buffer of 255 KB, and s2 to s7 at the given values. -/
def matrix (s2 s3 s4 s5 : DWord) : State := startT fun t =>
  { t with bind := { t.bind with obsize := 255 } }.modGroup 0 fun x => (((x.sset 2 s2).sset 3 s3).sset 4 s4).sset 5 s5

/-- A record of 64 rows of 64 BF16 elements in eight KB from the start of the team's buffer. -/
def bf16Record : DWord := 3 + 1 * 2 ^ 28 + 7 * 2 ^ 48

/-- MatrixControl: `mres` of the last handle, `mrel`, `gang` of none and of six groups, `mlease`, `mfree` with and without a lease, the capo words,
`zset` at its largest, `zget`. -/
theorem witness_matrixControl :
    (Met { useEngine 0 [⟨.s, (2 : BitVec 6).toNat, 2, 1, false⟩] (decide ((2 : BitVec 6).toNat < 63)) with orph := .once }
      fun v _ => resvTrap ⟨v.s6 2, v.grp.sget ((2 : BitVec 6).toNat + 1)⟩ v.team.bind = none) ∧
    Met (useEngine 0 []) always ∧
    (∀ x ∈ [(0 : DWord), 3, 63], Met (useEngine 0 [.us6 2]) fun v _ => (v.s6 2).extractLsb' 0 32 = x.extractLsb' 0 32 ∧
      let m : Word := (v.s6 2).extractLsb' 0 32
      m = 0 ∨ (2 ≤ popcount m ∧ popcount m ≤ 6 ∧ m.getLsbD v.r.grp = true ∧ ∀ g, m.getLsbD g = true → g ≤ v.team.bind.ngm1)) ∧
    (∀ x ∈ [(0x3FFFFF : DWord), 0x097FFFFF], Met (useEngine 0 [.us6 2]) fun v s =>
      let u := v.s6 2
      let other : GroupRef := { v.r with grp := (u.extractLsb' 22 5).toNat }
      let k := s.core v.r.core
      u = x ∧ u.extractLsb' 28 36 = 0 ∧ (u.getLsbD 27 = false → other.grp = 0) ∧ k.holds s.cycle v.r = false ∧ k.asked v.r = false ∧
        (u.getLsbD 27 = true → other.grp ≠ v.r.grp ∧ other.grp ≤ v.team.bind.ngm1 ∧ k.holds s.cycle other = false ∧ k.asked other = false ∧
          k.paired s.cycle other = false)) ∧
    (Met (useEngine 0 []) fun v s => (s.core v.r.core).holds s.cycle v.r = true) ∧
    (Met (useEngine 0 []) fun v s => (s.core v.r.core).holds s.cycle v.r = false) ∧
    (Met (useEngine 0 []) fun v s => (s.core v.r.core).hasCapo s.cycle v.r = true) ∧
    (Met (useEngine 0 []) fun v s => (s.core v.r.core).paired s.cycle v.r = false ∧ (liveGroup v s).wait = .capo) ∧
    (Met (useEngine 0 []) fun v s => (s.core v.r.core).hasCapo s.cycle v.r = false ∧ (s.core v.r.core).paired s.cycle v.r = true) ∧
    (Met (useEngine 0 [.us6 2, .zr 7 1 true]) fun v _ => (v.s6 2).extractLsb' 18 46 = 0 ∧ zShape (v.s6 2) = true ∧
      zNb (v.s6 2) * ((2 ^ zLl (v.s6 2) + 511) / 512) ≤ 512) ∧
    Met { useEngine 0 [.ud ((2 : BitVec 6).setWidth 7), .zr 7 1 false] with result := true } always := by
  refine ⟨ready_dec (s := matrix bf16Record 0 0 0) (by decide), ready_meets (s := start) (ok := fun _ _ => true) (by decide) fun _ _ _ => trivial,
    fun x hx => ?_, fun x hx => ?_,
    ready_dec (s := startK fun k => { k with lease := some ⟨0, 0, none, 0, 1, 100, none, none⟩ }) (by decide), ready_dec (s := start) (by decide),
    ready_dec (s := startK fun k => { k with lease := some ⟨0, 1, some 0, 0, 1, 100, none, none⟩ }) (by decide),
    ready_dec (s := startG fun x => { x with wait := .capo }) (by decide),
    ready_dec (s := startK fun k => { k with lease := some ⟨0, 1, some 0, 1, 1, 100, none, none⟩ }) (by decide),
    ready_dec (s := matrix (63 * 256 + 12 * 16 + 11) 0 0 0) (by decide),
    ready_meets (s := start) (ok := fun _ _ => true) (by decide) fun _ _ _ => trivial⟩
  rotate_left
  · refine ready_dec (s := (matrix x 0 0 0).modTeam g0 fun t => { t with bind := { t.bind with ngm1 := 5 } }) ?_
    simp only [List.mem_cons, List.not_mem_nil, or_false] at hx
    rcases hx with rfl | rfl <;> decide
  have k : (ready (useEngine 0 [.us6 2]) ((matrix x 0 0 0).modTeam g0 fun t => { t with bind := { t.bind with ngm1 := 5 } }) fun v _ =>
      decide ((v.s6 2).extractLsb' 0 32 = x.extractLsb' 0 32) &&
      (decide ((v.s6 2).extractLsb' 0 32 = 0) || (decide (2 ≤ popcount ((v.s6 2).extractLsb' 0 32) ∧ popcount ((v.s6 2).extractLsb' 0 32) ≤ 6 ∧
        ((v.s6 2).extractLsb' 0 32).getLsbD v.r.grp = true) &&
        everyLane ((v.s6 2).extractLsb' 0 32) fun g => decide (g ≤ v.team.bind.ngm1)))) = true := by
    simp only [List.mem_cons, List.not_mem_nil, or_false] at hx
    rcases hx with rfl | rfl | rfl <;> decide
  refine ready_meets k fun v s h => ?_
  simp only [Bool.and_eq_true, Bool.or_eq_true, decide_eq_true_eq] at h
  obtain ⟨h1, h2⟩ := h
  refine ⟨h1, ?_⟩
  rcases h2 with h2 | ⟨⟨h3, h4, h5⟩, h6⟩
  · exact .inl h2
  · exact .inr ⟨h3, h4, h5, fun g hg => of_decide_eq_true (everyLane_all h6 g hg)⟩

/-- Handle 1 holds that record, the group its extended block, s2 a tile word of 16 by 16 BF16 cells. -/
def product (gang : DWord) : State := ((matrix 0 0 0 0).modGroup g0 fun x =>
  { x.sset 2 (15 * 2 ^ 18 + 15 * 2 ^ 27 + 3 * 2 ^ 50) with res := [(1, some ⟨bf16Record, 0⟩)], gang := gang }).modTeam g0 fun t =>
    { t with bind := { t.bind with ngm1 := 5 } }.setHolder 0 (some 0)

/-- The same with a record of 2:4 pairs. -/
def sparse (gang : DWord) : State := (product gang).modGroup g0 fun x => { x with res := [(1, some ⟨bf16Record + 1 * 2 ^ 18, 0⟩)] }

/-- The checks of a product word of handle 1, tile s2 and slice v64, computed. -/
def productB (sp : Bool) (v : Env) (s : State) : Bool :=
  decide (productTrap sp (decide ((0 : BitVec 1) = 1)) (v.s6 2) (v.grp.resv 1) 64 (if gangOf v = 0 then 1 else popcount (gangOf v))
    (v.team.holdsExt v.r.grp) v.team.bind = none ∧ (s.core v.r.core).capoBreach s.cycle v.r = false ∧ 1 ∉ (liveGroup v s).resBad)

/-- MatrixWords: a dense and a sparse product, by itself and as the first of its gang. -/
theorem witness_products : ∀ k ∈ [(false, product), (true, sparse)],
    (Met (useProduct 0 2 64) fun v s => productOk k.1 1 2 64 0 v s ∧ gangOf v = 0) ∧
    Met (useProduct 0 2 64) fun v s => productOk k.1 1 2 64 0 v s ∧ gangOf v ≠ 0 := by
  intro k hk
  have good : ∀ v s, productB k.1 v s = true → oneHyp v s → productOk k.1 1 2 64 0 v s := fun v s h hy => by
    obtain ⟨h1, h2, h3⟩ := of_decide_eq_true h
    exact ⟨h1, h2, h3, hy⟩
  simp only [List.mem_cons, List.not_mem_nil, or_false] at hk
  rcases hk with rfl | rfl
  · exact ⟨ready_hyp (s := product 0) (ok := fun v s => productB false v s && decide (gangOf v = 0)) (by decide) fun v s h hy => by
        rw [Bool.and_eq_true] at h
        exact ⟨good v s h.1 hy, of_decide_eq_true h.2⟩,
      ready_hyp (s := product 3) (ok := fun v s => productB false v s && decide (gangOf v ≠ 0)) (by decide) fun v s h hy => by
        rw [Bool.and_eq_true] at h
        exact ⟨good v s h.1 hy, of_decide_eq_true h.2⟩⟩
  · exact ⟨ready_hyp (s := sparse 0) (ok := fun v s => productB true v s && decide (gangOf v = 0)) (by decide) fun v s h hy => by
        rw [Bool.and_eq_true] at h
        exact ⟨good v s h.1 hy, of_decide_eq_true h.2⟩,
      ready_hyp (s := sparse 3) (ok := fun v s => productB true v s && decide (gangOf v ≠ 0)) (by decide) fun v s h hy => by
        rw [Bool.and_eq_true] at h
        exact ⟨good v s h.1 hy, of_decide_eq_true h.2⟩⟩

/-- A latched product word of group n. -/
def latchedCmd (n : Nat) : Cmd :=
  ⟨.mmad false false false 0 ⟨0, 0⟩ 64 [[]], ⟨0, 0, n⟩, 0, 0, none, none, n, 0, 0, true, [], 0, .new, [], [], [], 0⟩

/-- Groups 0 and 1 have both arrived at the latch of the two, with equal words. -/
def latchedPair : State :=
  ((startT fun t => { t with bind := { t.bind with ngm1 := 1 }, groups := t.groups.set none 1 (t.group? 0) }).modCore 0 fun k =>
    { k with cmds := [(0, some (latchedCmd 0)), (1, some (latchedCmd 1))] }).modTeam g0 fun t =>
      ([0, 1].foldl (fun t n => t.modGroup n fun x => { x with latches := [⟨7, 0, 3, n⟩] }) t)

/-- MatrixWords: a latch at which every member has arrived with the same word. -/
theorem witness_latch : ∃ ls c, latchedPair.latched 0 0 3 = some ls ∧ (∀ l ∈ ls, ∀ m ∈ ls, l.2.word = m.2.word ∧ l.2.tile = m.2.tile) ∧
    gangCmd (ls.filterMap fun l => (latchedPair.core 0).cmd? l.2.cmd) = some c ∧ ∃ l ∈ ls, l.2.cmd ≠ c.seq :=
  ⟨_, _, rfl, by decide, rfl, by decide⟩

/-- MatrixWords: the stage words; `bfchn` of two stages with the last z registers. -/
theorem witness_stages : ∀ p ∈ [(0, 1, (0 : DWord)), (1, 2, 2 ^ 56), (2, 1, 0), (3, 1, 0)],
    Met (useEngine 0 [.us6 4, .us6 5, .zr 6 1 false]) fun v s =>
      stageTrap p.1 (stagesOf v 6 p.2.1) (decide ((6 : BitVec 3).toNat + p.2.1 ≤ 8)) (if p.1 = 3 then none else v.grp.resv 1) (v.s6 4) (v.s6 5) v.team.bind = none ∧
      v.s6 4 = p.2.2 ∧ capoFree v s ∧ soundResv v s 1 ∧ oneHyp v s := by
  intro p hp
  refine ready_hyp (s := (product 0).modGroup g0 fun x => { (x.sset 4 p.2.2).sset 5 16 with z := [(6, 0x41), (7, 0x40)] }) (ok := fun v s =>
    decide (stageTrap p.1 (stagesOf v 6 p.2.1) (decide ((6 : BitVec 3).toNat + p.2.1 ≤ 8)) (if p.1 = 3 then none else v.grp.resv 1)
      (v.s6 4) (v.s6 5) v.team.bind = none ∧ v.s6 4 = p.2.2 ∧ (s.core v.r.core).capoBreach s.cycle v.r = false ∧
      1 ∉ (liveGroup v s).resBad)) ?_ fun v s h hy => ?_
  · simp only [List.mem_cons, List.not_mem_nil, or_false] at hp
    rcases hp with rfl | rfl | rfl | rfl <;> decide
  · obtain ⟨h1, h2, h3, h4⟩ := of_decide_eq_true h
    exact ⟨h1, h2, h3, h4, hy⟩

/-- A check of an ACC word, computed. -/
def accB (fn f : Nat) (v : Env) : Bool :=
  decide (accTileTrap (v.s6 2) v.team.bind = none) &&
    (decide (fn = 0) || decide (dscTrap fn (decide (f % 2 = 1)) (tileOf (v.s6 2)) (v.s6 3) v.team.bind.spsize = none)) &&
    (decide (¬(fn = 2 ∧ f % 2 = 1)) ||
      decide (scaleTrap (tileOf (v.s6 2)) (v.s6 4) (v.grp.resv ((v.s6 4).extractLsb' 0 4).toNat) v.team.bind.spsize = none))

/-- MatrixWords: the ACC words of the scratchpad, `epi` without and with its scale word. -/
theorem witness_accWords : ∀ p ∈ [(0, 0), (1, 0), (2, 0), (2, 7), (5, 0), (5, 1)],
    Met (useEngine 0 (if p.1 = 0 then [.us6 2] else if p.1 = 2 then [.us6 2, .us6 3, .us6 4] else [.us6 2, .us6 3])) fun v s =>
      accOk p.1 p.2 2 3 4 v ∧ oneHyp v s ∧ soundResv v s ((v.s6 4).extractLsb' 0 4).toNat := by
  intro p hp
  refine ready_hyp (s := (product 0).modGroup g0 fun x => (x.sset 3 (64 * 2 ^ 20)).sset 4 1)
    (ok := fun v s => accB p.1 p.2 v && decide (((v.s6 4).extractLsb' 0 4).toNat ∉ (liveGroup v s).resBad)) ?_ fun v s h hy => ?_
  · simp only [List.mem_cons, List.not_mem_nil, or_false] at hp
    rcases hp with rfl | rfl | rfl | rfl | rfl | rfl <;> decide
  · simp only [accB, Bool.and_eq_true, Bool.or_eq_true, decide_eq_true_eq] at h
    obtain ⟨⟨⟨h1, h2⟩, h3⟩, h4⟩ := h
    exact ⟨⟨h1, fun h0 => h2.resolve_left h0, fun hf hs => h3.resolve_left fun hn => hn ⟨hf, hs⟩⟩, hy, h4⟩

/-- MatrixWords: `accput` and `accmv` of the last 16 registers of the extended block. -/
theorem witness_accRegs : (Met (useEngine 0 [.us6 2, .us6 3]) (accRegOk 2 3)) ∧
    Met { useEngine 0 [.us6 2, .us6 3] with result := true } (accRegOk 2 3) := by
  have k : ∀ v s, decide (accTileTrap (v.s6 2) v.team.bind = none ∧ regTrap (tileOf (v.s6 2)) (v.s6 3) (v.team.holdsExt v.r.grp) = none ∧
      linePending (liveGroup v s) ((v.s6 3).extractLsb' 0 7).toNat (regLines (tileOf (v.s6 2))) = false) = true → oneHyp v s → accRegOk 2 3 v s :=
    fun v s h hy => by
      obtain ⟨h1, h2, h3⟩ := of_decide_eq_true h
      exact ⟨h1, h2, h3, hy⟩
  exact ⟨ready_hyp (s := (product 0).modGroup g0 fun x => (x.sset 2 (15 * 2 ^ 18 + 31 * 2 ^ 27)).sset 3 80) (by decide) k,
    ready_hyp (s := (product 0).modGroup g0 fun x => (x.sset 2 (15 * 2 ^ 18 + 31 * 2 ^ 27)).sset 3 80) (by decide) k⟩

/-! ## COPY and PHY words -/

/-- A tensor record: place, base, extents, format. -/
def tensor (space base e0 e1 fmt size : Nat) : BitVec 512 :=
  BitVec.ofNat 512 (base + e0 * 2 ^ 64 + e1 * 2 ^ 96 + size * 2 ^ 192 + size * e0 * 2 ^ 256 + fmt * 2 ^ 448 + 1 * 2 ^ 452 + space * 2 ^ 456 + 7 * 2 ^ 465)

/-- q0 a record of memory, q1 one of the window, q2 to q4 records of u32 for the sort and traversal units, s2 and s3 as given. -/
def records (s2 s3 : DWord) : State := startG fun x => { (x.sset 2 s2).sset 3 s3 with
  q := [(0, some ⟨true, tensor 0 0x1000 4 8 0 4⟩), (1, some ⟨true, tensor 1 0x2000 4 8 0 4⟩), (2, some ⟨true, tensor 1 0x3000 4 16 11 4⟩),
        (3, some ⟨true, tensor 1 0x4000 2 16 11 4⟩), (4, some ⟨true, tensor 1 0x5000 8 16 11 4⟩)] }

/-- EngineWords: `copy`, `copy.t`, `gfill` of 8 entries, `mcast` to one place. -/
theorem witness_copies : ∀ p ∈ [(0, (0x10 : DWord), (0 : DWord)), (1, 0x10, 0), (2, 0x1000000710, 0), (3, 0x10, 0x100000)],
    Met (useEngine 0 [.us6 2, .us6 3] (decide ((4 : BitVec 3).toNat < 5))) fun v s =>
      copyTrap p.1 (v.s6 2) (v.s6 3) v.copyCtx = none ∧ oneHyp v s ∧ requestRoom v s ∧ (cwDk (v.s6 2) = 1 → soundResv v s (cwAh (v.s6 2))) := by
  intro p hp
  refine ready_hyp (s := records (if p.1 = 2 then 0x700000010 else p.2.1) p.2.2) (ok := fun v s =>
    decide (copyTrap p.1 (v.s6 2) (v.s6 3) v.copyCtx = none ∧ (s.core v.r.core).requests.length < 16 ∧ (liveGroup v s).resBad = [])) ?_
    fun v s h hy => ?_
  · simp only [List.mem_cons, List.not_mem_nil, or_false] at hp
    rcases hp with rfl | rfl | rfl | rfl <;> decide
  · obtain ⟨h1, h2, h3⟩ := of_decide_eq_true h
    exact ⟨h1, hy, h2, fun _ => by simp [soundResv, h3]⟩

/-- EngineWords: `eprst` of records of 16 bytes up to the end of the window. -/
theorem witness_eprst : Met { c := 0, ops := [.vs 1, .us ((3 : BitVec 5).setWidth 7), .key], cls := .b, orph := .lanes } fun v s =>
    let w : Win := ⟨v.r.core, v.r.slot, v.team.bind⟩
    eprstTrap (v.grp.sget (3 : BitVec 5).toNat) w s = none ∧ oneHyp v s ∧ requestRoom v s ∧
      ∀ l, v.em.getLsbD l = true → eprstLane (v.grp.sget (3 : BitVec 5).toNat) w s l (v.src 1 l).toNat = none := by
  refine ready_hyp (s := (records 0 0xFFFF0).modTeam g0 fun t => t.vset 0 1 0xFFFFFFFF fun l => BitVec.ofNat 32 (0xFFFF0 - 16 * l))
    (ok := fun v s => decide (eprstTrap (v.grp.sget 3) ⟨v.r.core, v.r.slot, v.team.bind⟩ s = none ∧ (s.core v.r.core).requests.length < 16) &&
      everyLane v.em fun l => decide (eprstLane (v.grp.sget 3) ⟨v.r.core, v.r.slot, v.team.bind⟩ s l (v.src 1 l).toNat = none)) (by decide)
    fun v s h hy => ?_
  rw [Bool.and_eq_true] at h
  obtain ⟨h1, h2⟩ := of_decide_eq_true h.1
  exact ⟨h1, hy, h2, fun l hl => of_decide_eq_true (everyLane_all h.2 l hl)⟩

/-- EngineWords: `srt`. -/
theorem witness_srt : ∃ qi qo, Met (useEngine 0 [.us6 2, .us6 3]) fun v s => oneHyp v s ∧
    v.ten ((v.s6 2).extractLsb' 0 4).toNat = some qi ∧ v.ten ((v.s6 2).extractLsb' 4 4).toNat = some qo ∧
    phyTrap (decide ((v.s6 2).extractLsb' 8 56 ≠ 0) || decide ((v.s6 3).extractLsb' 20 44 ≠ 0)) [some qi] [some qo]
      [(4, 1, 65536), (2, 0, 2 ^ 32)] ((v.s6 3).extractLsb' 0 20).toNat v.team.bind = none := by
  refine ⟨⟨true, tensor 1 0x3000 4 16 11 4⟩, ⟨true, tensor 1 0x4000 2 16 11 4⟩, ready_meets (s := records 0x32 0xFFFF8) (ok := fun v s =>
    decide (v.ten ((v.s6 2).extractLsb' 0 4).toNat = some ⟨true, tensor 1 0x3000 4 16 11 4⟩ ∧
      v.ten ((v.s6 2).extractLsb' 4 4).toNat = some ⟨true, tensor 1 0x4000 2 16 11 4⟩ ∧
      phyTrap (decide ((v.s6 2).extractLsb' 8 56 ≠ 0) || decide ((v.s6 3).extractLsb' 20 44 ≠ 0)) [some ⟨true, tensor 1 0x3000 4 16 11 4⟩]
        [some ⟨true, tensor 1 0x4000 2 16 11 4⟩] [(4, 1, 65536), (2, 0, 2 ^ 32)] ((v.s6 3).extractLsb' 0 20).toNat v.team.bind = none) &&
    everyLane v.em fun l => decide ((liveGroup v s).hypOf l = (liveGroup v s).hypOf (lowestLane v.em))) (by decide) fun v s h => ?_⟩
  rw [Bool.and_eq_true] at h
  exact ⟨hyp_one h.2, of_decide_eq_true h.1⟩

/-- EngineWords: `bvht`. -/
theorem witness_bvht : ∃ qn qq qh, Met (useEngine 0 [.us6 2, .us6 3]) fun v s => oneHyp v s ∧
    v.ten ((v.s6 2).extractLsb' 0 4).toNat = some qn ∧ v.ten ((v.s6 2).extractLsb' 4 4).toNat = some qq ∧
    v.ten ((v.s6 2).extractLsb' 8 4).toNat = some qh ∧
    phyTrap (decide ((v.s6 2).extractLsb' 12 52 ≠ 0) || decide ((v.s6 3).extractLsb' 20 44 ≠ 0)) [some qn, some qq] [some qh]
      [(8, 0, 2 ^ 32), (8, 0, 2 ^ 32), (2, 0, 2 ^ 32)] ((v.s6 3).extractLsb' 0 20).toNat v.team.bind = none := by
  refine ⟨⟨true, tensor 1 0x5000 8 16 11 4⟩, ⟨true, tensor 1 0x5000 8 16 11 4⟩, ⟨true, tensor 1 0x4000 2 16 11 4⟩,
    ready_meets (s := records 0x344 0) (ok := fun v s =>
    decide (v.ten ((v.s6 2).extractLsb' 0 4).toNat = some ⟨true, tensor 1 0x5000 8 16 11 4⟩ ∧
      v.ten ((v.s6 2).extractLsb' 4 4).toNat = some ⟨true, tensor 1 0x5000 8 16 11 4⟩ ∧
      v.ten ((v.s6 2).extractLsb' 8 4).toNat = some ⟨true, tensor 1 0x4000 2 16 11 4⟩ ∧
      phyTrap (decide ((v.s6 2).extractLsb' 12 52 ≠ 0) || decide ((v.s6 3).extractLsb' 20 44 ≠ 0)) [some ⟨true, tensor 1 0x5000 8 16 11 4⟩,
        some ⟨true, tensor 1 0x5000 8 16 11 4⟩] [some ⟨true, tensor 1 0x4000 2 16 11 4⟩]
        [(8, 0, 2 ^ 32), (8, 0, 2 ^ 32), (2, 0, 2 ^ 32)] ((v.s6 3).extractLsb' 0 20).toNat v.team.bind = none) &&
    everyLane v.em fun l => decide ((liveGroup v s).hypOf l = (liveGroup v s).hypOf (lowestLane v.em))) (by decide) fun v s h => ?_⟩
  rw [Bool.and_eq_true] at h
  exact ⟨hyp_one h.2, of_decide_eq_true h.1⟩

/-- EngineWords: `bslv` of a 12 by 12 block, `bsadj`; `kick` with the last of the four chains free; `drain`. -/
theorem witness_solve : (∀ k ∈ [false, true], Met (useEngine 0 [.us6 2, .us6 3]) fun v s => oneHyp v s ∧
      (solveOf k (decide ((1 : BitVec 1) = 1)) (v.s6 2) (v.s6 3)).trap (decide ((v.s6 3).extractLsb' 32 32 ≠ 0)) v.team.bind.spsize = none) ∧
    (Met (useEngine 0 [.us6 2]) fun v s => (v.s6 2).extractLsb' 20 44 = 0 ∧ ((v.s6 2).extractLsb' 0 20).toNat % 32 = 0 ∧ oneHyp v s ∧
      (liveGroup v s).resBad = [] ∧ ((List.range 4).find? fun n => ((s.core v.r.core).chains.get none n).isNone) = some 0) ∧
    (Met { c := 0, ops := [], legal := decide ((4 : BitVec 3).toNat < 5), orph := .once, once := true } fun v s =>
      ∀ d ∈ (s.core v.r.core).commands, d.seq < ((liveGroup v s).drainAt).getD (s.core v.r.core).seq → (4 : BitVec 3).toNat ∉ d.paths) ∧
    Met { c := 0, ops := [], legal := decide ((1 : BitVec 3).toNat < 5), orph := .once, once := true } fun v s =>
      ∃ d ∈ (s.core v.r.core).commands, d.seq < ((liveGroup v s).drainAt).getD (s.core v.r.core).seq ∧ (1 : BitVec 3).toNat ∈ d.paths := by
  refine ⟨fun k hk => ?_, ready_meets (s := records 0xFFFE0 0) (ok := fun v s => decide ((v.s6 2).extractLsb' 20 44 = 0 ∧
      ((v.s6 2).extractLsb' 0 20).toNat % 32 = 0 ∧
      (liveGroup v s).resBad = [] ∧ ((List.range 4).find? fun n => ((s.core v.r.core).chains.get none n).isNone) = some 0) &&
      everyLane v.em fun l => decide ((liveGroup v s).hypOf l = (liveGroup v s).hypOf (lowestLane v.em))) (by decide) fun v s h => ?_,
    ready_meets (s := start) (ok := fun v s => (s.core v.r.core).commands.isEmpty) (by decide) fun v s h => ?_,
    ready_dec (s := startK fun k => { k with cmds := [(0, some (latchedCmd 0))], seq := 1 }) (by decide)⟩
  · have j : ready (useEngine 0 [.us6 2, .us6 3]) (records (11 * 2 ^ 60) 0x00B00000) (fun v s =>
        decide ((solveOf k (decide ((1 : BitVec 1) = 1)) (v.s6 2) (v.s6 3)).trap (decide ((v.s6 3).extractLsb' 32 32 ≠ 0)) v.team.bind.spsize = none) &&
        everyLane v.em fun l => decide ((liveGroup v s).hypOf l = (liveGroup v s).hypOf (lowestLane v.em))) = true := by
      simp only [List.mem_cons, List.not_mem_nil, or_false] at hk
      rcases hk with rfl | rfl <;> decide
    refine ready_meets j fun v s h => ?_
    rw [Bool.and_eq_true] at h
    exact ⟨hyp_one h.2, of_decide_eq_true h.1⟩
  · rw [Bool.and_eq_true] at h
    obtain ⟨h1, h2, h3, h4⟩ := of_decide_eq_true h.1
    exact ⟨h1, h2, hyp_one h.2, h3, h4⟩
  · have e : (s.core v.r.core).commands = [] := by simpa using h
    simp [e]

/-- QueueCall: a packet in the last 64 bytes of the window. -/
theorem witness_queueCall : Met { c := 0, ops := [.ud 4, .us 2, .us 3], orph := .free, once := true, pin := true } fun v s =>
    (v.usrc 2).toNat % 64 = 0 ∧ (v.usrc 2).toNat + 64 ≤ v.team.bind.spsize ∧
      s.queueStorage ⟨v.r.core, v.r.slot, v.team.bind⟩ (v.usrc 2).toNat 64 = false ∧ s.released v 6 = true ∧
      s.scratchPoisoned v.r.core 64 (v.team.bind.spbase + (v.usrc 2).toNat) = false :=
  ready_dec (s := records 0xFFFC0 15) (by decide)

end Sys2Proof.Tests
end

