-- ==== Sys2Proof/Tests/MemWitnesses.lean ====
section
/-! SUPPORT. States and operands that meet the hypotheses of the statements about stage barriers, traps, hypotheses, memory, queues and
tasks. -/

set_option maxRecDepth 20000

namespace Sys2Proof.Tests

open Sys2Proof.Machine

/-! ## Stage barriers -/

/-- The start with s2 = x and byte 16 of the window's stage object at 32 holding `flags`. -/
def stage (x : DWord) (flags : Nat) : State := (startG fun g => g.sset 2 x).scratchWrite 0 1 48 flags

/-- StageBarrierWords: `sbar.init` of an object at byte 32, due 1. -/
theorem witness_sbarInit : Met { useBar 0 [.us 2] with pin := true } fun v s =>
    stageIn s v.ownWin (v.usrc 2) ∧ stageRow (v.usrc 2) < v.team.shapeR ∧ stageCol (v.usrc 2) < v.team.shapeC ∧
      (s.memberState v.team v.r.slot (stageRow (v.usrc 2)) (stageCol (v.usrc 2))).1 = 1 ∧ stageGrp (v.usrc 2) ≤ v.team.bind.ngm1 ∧
      s.stageState v.r.core (v.team.bind.spbase + stageOff (v.usrc 2)) ≠ 1 ∧ stageDue (v.usrc 2) ≠ 0 ∧ (v.usrc 2).extractLsb' 48 16 = 0 :=
  ready_dec (s := stage 0x100000020 0) (by decide)

/-- StageBarrierWords: the named producer arrives at an armed object of its own window. -/
theorem witness_sbarArrive : ∃ w, Met { useBar 0 [.us 2] with pin := true } fun v s =>
    stageIn s w (v.usrc 2) ∧ stageRow (v.usrc 2) < v.team.shapeR ∧ stageCol (v.usrc 2) < v.team.shapeC ∧
      s.memberWin v.team v.r.slot (stageRow (v.usrc 2)) (stageCol (v.usrc 2)) = .here w ∧
      s.stageState w.core (w.bind.spbase + stageOff (v.usrc 2)) = 1 ∧
      s.stageProducer w.core (w.bind.spbase + stageOff (v.usrc 2)) = v.r ∧
      s.stageArrived w.core (w.bind.spbase + stageOff (v.usrc 2)) = false ∧ s.released v 3 = true :=
  ⟨⟨0, 0, placeBind⟩, ready_dec (s := stage 0x20 1) (by decide)⟩

/-- StageBarrierWords: `sbar.wait` at a complete object, with and without predicate, at a broken one, woken by an object that has been armed
again since, and at an armed one. -/
theorem witness_sbarWait : (∀ p ∈ [(0 : BitVec 3), 1], Met (useBar 0 (if p = 0 then [.us 2] else [.us 2, .pd p])) fun v s =>
      stageIn s v.ownWin (v.usrc 2) ∧ stageReached v s (v.usrc 2) = 2 ∧ acquired v s 3) ∧
    (Met (useBar 0 [.us 2, .pd 1]) fun v s => stageIn s v.ownWin (v.usrc 2) ∧ stageReached v s (v.usrc 2) = 3) ∧
    (Met (useBar 0 [.us 2]) fun v s => stageIn s v.ownWin (v.usrc 2) ∧ stageReached v s (v.usrc 2) = 2 ∧ acquired v s 3 ∧
      s.stageState v.r.core (v.team.bind.spbase + stageOff (v.usrc 2)) = 1) ∧
    Met (useBar 0 [.us 2]) fun v s => stageIn s v.ownWin (v.usrc 2) ∧ stageReached v s (v.usrc 2) = 1 ∧
      (liveGroup v s).stageWait ≠ some (stageOff (v.usrc 2), 0) := by
  refine ⟨fun p hp => ?_, ready_dec (s := stage 0x20 3) (by decide),
    ready_dec (s := (stage 0x20 1).modGroup g0 fun x => { x with stageWait := some (32, 2) }) (by decide),
    ready_dec (s := stage 0x20 1) (by decide)⟩
  refine ready_dec (s := stage 0x20 2) ?_
  simp only [List.mem_cons, List.not_mem_nil, or_false] at hp
  rcases hp with rfl | rfl <;> decide

/-! ## Traps -/

/-- TrapWords, outside a chain and inside one. -/
theorem witness_trapWords : (∃ s v, Issues { c := 0, ops := [], once := true } s v ∧ s.snap = none) ∧
    ∃ s v, Issues { c := 0, ops := [], once := true } s v ∧ s.snap ≠ none := by
  constructor
  · exact ⟨start, _, ⟨rfl, by decide, by decide, by decide, by decide, by decide, by decide⟩, by decide⟩
  · exact ⟨{ start with snap := start.team? g0 }, _,
      ⟨rfl, by decide, by decide, by decide, by decide, by decide, by decide⟩, by decide⟩

/-- The start with TRAPV enabling every class, the frames at byte 64 and the handler at the entry. -/
def trapping : State := startG fun x => { x with trapv := 0x3FFFF00010000000#64 &&& 0xFFFFC00000000000#64 ||| 0x100000000#64 }

/-- TrapEntry: a trap of a class with a frame, at lane 31. -/
theorem witness_trapEntry : ∃ (s : State) (r : GroupRef) (t : Trap) (tm : Team) (x : Group), s.team? r = some tm ∧ s.group? r = some x ∧
    x.handler = none ∧ x.trapv.getLsbD (46 + t.cls) = true ∧ s.deliverable tm x r.grp = true ∧ t.cls ≠ 12 ∧ t.cls ≠ 15 ∧
    t.fretWait = false :=
  ⟨trapping, g0, ⟨2, 0, some 31, 12, 5, false, 0⟩, _, _, rfl, rfl, rfl, by decide, by decide, by decide, by decide, rfl⟩

/-- TrapKills: a class that is not enabled, a trap in handler mode, a frame base that is not a multiple of 64. -/
theorem witness_trapKills : ∃ (s1 s2 s3 : State) (t : Trap) (x1 x2 x3 : Group) (tm : Team), s1.team? g0 = some tm ∧
    s1.group? g0 = some x1 ∧ x1.handler = none ∧ x1.trapv.getLsbD (46 + t.cls) = false ∧ t.cls ≠ 11 ∧
    s2.group? g0 = some x2 ∧ x2.handler ≠ none ∧
    s3.group? g0 = some x3 ∧ x3.handler = none ∧ x3.trapv.getLsbD (46 + t.cls) = true ∧ s3.deliverable tm x3 g0.grp = false :=
  ⟨start, startG fun x => { x with handler := some ⟨noEntry, noEntry, 0, false, 0⟩ },
    startG fun x => { x with trapv := 0x3FFFC00004000000 }, ⟨2, 0, none, 12, 5, false, 0⟩, _, _, _, _, rfl, rfl, rfl, by decide, by decide,
    rfl, by decide, rfl, rfl, by decide, by decide⟩

/-- The start with its entry as that of a handler; the held entry goes on at the word after. -/
def handling : State := startG fun x => { x with
  handler := x.frontier.head?.map fun e => { entry := e, held := { e with pc := e.pc + 4 }, after := e.pc + 8, once := false, since := 0 }, frontier := [] }

/-- TrapReturn. -/
theorem witness_trapReturn : ∃ (s : State) (v : Env) (y : Group) (h : Handler) (fs : List FEntry), Issues { c := 0, ops := [] } s v ∧
    v.grp.handler ≠ none ∧ s.team? v.r = some v.team ∧ s.group? v.r = some y ∧ y.handler = some h ∧
    (s.scratchRead v.r.core 8 (frameAt v.team y v.r.grp + 8)).testBit 34 = false ∧
    s.scratchRead v.r.core 8 (frameAt v.team y v.r.grp + 8) / 2 ^ 30 % 4 ≠ 3 ∧
    returnEntry (s.headerAt v.part) y.aside.length y.frontier (resumed h (frameRest s v.r.core (frameAt v.team y v.r.grp)
      (s.scratchRead v.r.core 8 (frameAt v.team y v.r.grp + 8) / 2 ^ 30 % 4)
      (s.scratchRead v.r.core 8 (frameAt v.team y v.r.grp + 8) / 2 ^ 24 % 64) h.once)) = some fs ∧ fs ≠ [] :=
  ⟨handling, _, _, _, _, ⟨rfl, by decide, by decide, by decide, by decide, by decide, by decide⟩, by decide, rfl, rfl, rfl, by decide,
    by decide, rfl, by decide⟩

/-! ## Hypotheses -/

/-- HypothesisWords: `hnew` in lanes 0 and 31. -/
theorem witness_hnew : Met { c := 0, ops := [.vd 1], cls := .a, result := true, orph := .lanes, pin := true } mayOpen :=
  ready_meets (s := startG (someLanes 0x80000001))
    (ok := fun v s => match s.part? v.part with
      | none => false
      | some p => everyLane v.em (fun l => decide ((p.entry ((liveGroup v s).hypOf l)).state ≠ 0 ∧
          (p.entry ((liveGroup v s).hypOf l)).depth ≠ 15)) &&
        decide (popcount v.em ≤ ((List.range 4096).filter fun k => (p.entry k).state = 0).length)) (by decide) fun v s h => by
    cases e : s.part? v.part with
    | none => simp [e] at h
    | some p =>
      simp only [e, Bool.and_eq_true] at h
      exact ⟨p, e, fun l hl => of_decide_eq_true (everyLane_all h.1 l hl), of_decide_eq_true h.2⟩

/-- HypothesisWords: `henter` of id 4095, which is LIVE. -/
theorem witness_henter : Met { c := 0, ops := [.vs 1], orph := .lanes } fun v s => ∃ p, s.part? v.part = some p ∧
    ∀ l, v.em.getLsbD l = true → (v.src 1 l).toNat < 4096 ∧ (p.entry (v.src 1 l).toNat).live = true :=
  ready_meets (s := (startT fun t => t.vset 0 1 0xFFFFFFFF fun _ => 4095).modPart 0 fun p => p.modEntry 4095 fun _ => { HypEntry.free with state := 1 })
    (ok := fun v s => match s.part? v.part with
      | none => false
      | some p => everyLane v.em fun l => decide ((v.src 1 l).toNat < 4096 ∧ (p.entry (v.src 1 l).toNat).live = true)) (by decide)
    fun v s h => by
    cases e : s.part? v.part with
    | none => simp [e] at h
    | some p =>
      simp only [e] at h
      exact ⟨p, rfl, fun l hl => of_decide_eq_true (everyLane_all h l hl)⟩

/-- HypothesisWords: `hleave`; a resolution that names no id and one that does; `hqry` of the last id. -/
theorem witness_hypothesisWords : (Met { c := 0, ops := [], orph := .lanes } always) ∧
    (Met (useResolve 0 2 1) fun v _ => namesId v 1 = []) ∧ (Met (useResolve 0 2 1) fun v _ => namesId v 1 ≠ []) ∧
    Met { c := 0, ops := [.vd2 2, .vs 1], cls := .a, result := true, orph := .lanes }
      fun v _ => ∀ l, v.em.getLsbD l = true → (v.src 1 l).toNat < 4096 :=
  ⟨ready_meets (s := start) (ok := fun _ _ => true) (by decide) fun _ _ _ => trivial, ready_dec (s := start) (by decide),
   ready_dec (s := startT fun t => t.vset 0 1 0xFFFFFFFF fun _ => 4095) (by decide),
   ready_meets (s := startT fun t => t.vset 0 1 0xFFFFFFFF fun _ => 4095)
    (ok := fun v _ => everyLane v.em fun l => decide ((v.src 1 l).toNat < 4096)) (by decide)
    fun _ _ h l hl => of_decide_eq_true (everyLane_all h l hl)⟩

/-! ## Memory -/

/-- The image of a buffer record with every right: place, base, elements, stride, element size as a power of two, and whether lanes outside
are suppressed. -/
def image (space base extent stride esize : Nat) (oob : Bool) : BitVec 512 :=
  BitVec.ofNat 512 (base + stride * 2 ^ 64 + extent * 2 ^ 96 + esize * 2 ^ 128 + space * 2 ^ 133 + 7 * 2 ^ 142 + (if oob then 2 ^ 145 else 0))

/-- The start with that record in q3 and v2 holding `f`. -/
def record (img : BitVec 512) (f : Nat → Word) : State :=
  (startG fun x => { x with q := x.q.set none 3 (some ⟨false, img⟩) }).modTeam g0 fun t => t.vset 0 2 0xFFFFFFFF f

/-- A memory word reaches a record, checked. -/
def reachesB (m : MemWord) (v : Env) (s : State) (b : Buf) (win : Option Win) : Bool :=
  ((accessLanes v m.x).all fun l => match m.at_ v s b win l with
    | .trap _ => false
    | _ => true) && !s.orderHeld v (decide (m.need ≠ 0)) && (!m.release || s.released v m.sc)

theorem reaches_of {m : MemWord} {v : Env} {s : State} {b : Buf} {win : Option Win} (hb : checkedBuf v m.q m.need = some b)
    (h : reachesB m v s b win = true) : Reaches m v s b win := by
  simp only [reachesB, Bool.and_eq_true, List.all_eq_true, Bool.or_eq_true, Bool.not_eq_true'] at h
  obtain ⟨⟨h1, h2⟩, h3⟩ := h
  refine ⟨hb, fun l hl t ht => ?_, h2, fun hr => ?_⟩
  · have := h1 l hl
    simp [ht] at this
  · rcases h3 with h3 | h3
    · rw [h3] at hr
      cases hr
    · exact h3

/-- A memory word reaches a window, checked. -/
def inWindowB (m : MemWord) (v : Env) (s : State) : Bool :=
  match checkedBuf v m.q m.need with
  | none => false
  | some b => match winOf v s b.space b.prow b.pcol with
    | .here w => reachesB m v s b (some w) && decide (b.space ≠ 0) &&
        (decide (m.need = 1) || (m.accesses v s b (some w)).all fun a => !s.scratchPoisoned w.core a.width (w.bind.spbase + a.addr)) &&
        (decide (m.need = 0) || !(liveGroup v s).rldOver v.team.bind.spbase v.r.core w.core w.bind.spbase (m.accesses v s b (some w)))
    | _ => false

theorem window_of {m : MemWord} {v : Env} {s : State} (h : inWindowB m v s = true) : ∃ b w, ReachesWindow m v s b w := by
  unfold inWindowB at h
  cases hb : checkedBuf v m.q m.need with
  | none => simp [hb] at h
  | some b =>
    cases hw : winOf v s b.space b.prow b.pcol with
    | here w =>
      simp only [hb, hw, Bool.and_eq_true, Bool.or_eq_true, decide_eq_true_eq] at h
      obtain ⟨⟨⟨h1, h2⟩, h3⟩, h4⟩ := h
      refine ⟨b, w, reaches_of hb h1, h2, hw, fun hn a ha => ?_, fun hn => by simpa using h4.resolve_left hn⟩
      have := List.all_eq_true.mp (h3.resolve_left hn) a ha
      simpa using this
    | stalled => simp [hb, hw] at h
    | gone => simp [hb, hw] at h

/-- A memory word reaches global memory, checked. -/
def inMemoryB (m : MemWord) (v : Env) (s : State) : Bool :=
  match checkedBuf v m.q m.need with
  | none => false
  | some b => reachesB m v s b none && decide (b.space = 0) && !(m.accesses v s b none).isEmpty &&
      decide ((liveGroup v s).log.length < 4) && !(liveGroup v s).lineBusy (m.accesses v s b none) &&
      (hypRemote v s m.need (m.accesses v s b none)).isNone

theorem memory_of {m : MemWord} {v : Env} {s : State} (h : inMemoryB m v s = true) : ∃ b, ReachesMemory m v s b := by
  unfold inMemoryB at h
  cases hb : checkedBuf v m.q m.need with
  | none => simp [hb] at h
  | some b =>
    simp only [hb, Bool.and_eq_true, decide_eq_true_eq, Bool.not_eq_true', Option.isNone_iff_eq_none] at h
    obtain ⟨⟨⟨⟨⟨h1, h2⟩, h3⟩, h4⟩, h5⟩, h6⟩ := h
    exact ⟨b, reaches_of hb h1, h2, by simpa using h3, h4, h5, h6⟩

/-- Loads: of bytes, of pairs, of four registers, of s registers by an index in an s register. -/
def someLoads : List (Use × MemWord) :=
  [(useLd 0 (.vd 1) 3 2, ldWord 1 true 0 0 1 3 2), (useLd 0 (.vd2 4) 3 2, ldWord 8 false 7 0 4 3 2),
   (useLd 0 (.vk 28 4 4 true) 3 2, ldWord 16 false 0 1 28 3 2), (useLd 0 (.vd 1) 3 101, ldWord 4 false 5 1 1 3 101),
   (useSld 0 6 3 5, sldWord 0 0 6 3 5)]

/-- Stores. -/
def someStores : List (Use × MemWord) :=
  [(useSt 0 (.vs 1) 3 2 true, stWord 1 0 0 3 2 fun v l => (v.src 1 l).setWidth 128),
   (useSt 0 (.vk 28 4 4 false) 3 2 (decide ((28 : BitVec 7).toNat < 96)), stWord 16 0 0 3 2 (quad 28)),
   (useSst 0 6 3 5, sstWord 0 0 6 3 5)]

/-- Atomics: a returning add, a `cas` of pairs, an `st`. -/
def someAtomics : List (Use × MemWord) :=
  [(useAtom false true 0 0 0 1 3 2, atomWord false true 0 0 0 1 3 2), (useAtom true true 10 0 0 4 3 2, atomWord true true 10 0 0 4 3 2),
   (useAtom false false 15 0 2 1 3 2, atomWord false false 15 0 2 1 3 2)]

/-- MemoryWords, WindowLoads, WindowStores: the last element of the window in lane 0, and a suppressed lane. -/
theorem witness_window : ∀ p ∈ someLoads ++ someStores ++ someAtomics, ∀ k ∈ [(0xFFFF : Word), 0x10000], ∃ s v b w, Issues p.1 s v ∧ Room s v ∧
    ReachesWindow p.2 v (followed p.1 v s) b w := by
  intro p hp k hk
  have h : ∃ s, ready p.1 s (inWindowB p.2) = true := by
    simp only [List.mem_cons, List.not_mem_nil, or_false] at hk
    rcases hk with rfl | rfl
    · exact ⟨record (image 1 0 0x10000 16 4 true) fun l => if l = 0 then 0xFFFF else 1,
        List.all_eq_true.mp (by decide : ((someLoads ++ someStores ++ someAtomics).all fun p =>
          ready p.1 (record (image 1 0 0x10000 16 4 true) fun l => if l = 0 then 0xFFFF else 1) (inWindowB p.2)) = true) p hp⟩
    · exact ⟨record (image 1 0 0x10000 16 4 true) fun l => if l = 0 then 0x10000 else 1,
        List.all_eq_true.mp (by decide : ((someLoads ++ someStores ++ someAtomics).all fun p =>
          ready p.1 (record (image 1 0 0x10000 16 4 true) fun l => if l = 0 then 0x10000 else 1) (inWindowB p.2)) = true) p hp⟩
  obtain ⟨s, hs⟩ := h
  obtain ⟨s, v, h1, h2, h3⟩ := ready_meets (p := fun v s => ∃ b w, ReachesWindow p.2 v s b w) hs fun _ _ => window_of
  obtain ⟨b, w, h3⟩ := h3
  exact ⟨s, v, b, w, h1, h2, h3⟩

/-- The accesses of a word in a window go to as many locations as there are accesses, or, if not `apart`, to fewer, checked. -/
def apartB (apart : Bool) (m : MemWord) (v : Env) (s : State) : Bool :=
  match checkedBuf v m.q m.need with
  | none => false
  | some b => match winOf v s b.space b.prow b.pcol with
    | .here w =>
      let accs := m.accesses v s b (some w)
      s.snap.isNone && decide ((accs.map (·.addr)).eraseDups.length = accs.length) == apart
    | _ => false

/-- MemoryWords, atomics in a window: each lane at a location of its own, where nothing falls between two lanes; and all lanes at one
location, where the free choice says whether something does. -/
theorem witness_atomicWindow : ∀ p ∈ someAtomics,
    (∃ s v b w, Issues p.1 s v ∧ Room s v ∧ ReachesWindow p.2 v (followed p.1 v s) b w ∧
      (followed p.1 v s).atomicSplit (p.2.accesses v (followed p.1 v s) b (some w)) = none) ∧
    ∃ s v b w, Issues p.1 s v ∧ Room s v ∧ ReachesWindow p.2 v (followed p.1 v s) b w ∧
      (Config.choice (followed p.1 v s).choices % (p.2.accesses v (followed p.1 v s) b (some w)).length ≠ 0 → ∃ now later,
        (followed p.1 v s).atomicSplit (p.2.accesses v (followed p.1 v s) b (some w)) = some (now, later)) := by
  intro p hp
  have h := List.all_eq_true.mp (by decide : (someAtomics.all fun p =>
    ready p.1 (record (image 1 0 0x10000 16 4 true) fun l => BitVec.ofNat 32 l) (fun v s => inWindowB p.2 v s && apartB true p.2 v s) &&
    ready p.1 (record (image 1 0 0x10000 16 4 true) fun _ => 1) (fun v s => inWindowB p.2 v s && apartB false p.2 v s)) = true) p hp
  rw [Bool.and_eq_true] at h
  constructor
  · obtain ⟨s, v, h1, h2, b, w, h3, h4⟩ := ready_meets (p := fun v s => ∃ b w, ReachesWindow p.2 v s b w ∧ apartB true p.2 v s = true) h.1
      fun v s k => by
        rw [Bool.and_eq_true] at k
        obtain ⟨b, w, hw⟩ := window_of k.1
        exact ⟨b, w, hw, k.2⟩
    refine ⟨s, v, b, w, h1, h2, h3, ?_⟩
    simp only [apartB, h3.buf, h3.win, Bool.and_eq_true, beq_iff_eq, decide_eq_true_eq] at h4
    simp [State.atomicSplit, h4.2]
  · obtain ⟨s, v, h1, h2, b, w, h3, h4⟩ := ready_meets (p := fun v s => ∃ b w, ReachesWindow p.2 v s b w ∧ apartB false p.2 v s = true) h.2
      fun v s k => by
        rw [Bool.and_eq_true] at k
        obtain ⟨b, w, hw⟩ := window_of k.1
        exact ⟨b, w, hw, k.2⟩
    refine ⟨s, v, b, w, h1, h2, h3, fun hc => ?_⟩
    simp only [apartB, h3.buf, h3.win, Bool.and_eq_true, beq_iff_eq, decide_eq_false_iff_not, Option.isNone_iff_eq_none] at h4
    simp [State.atomicSplit, h4.1, h4.2, hc]

/-- MemoryWords: into the operand log. -/
theorem witness_memory : ∀ p ∈ someLoads ++ someStores ++ someAtomics, ∃ s v b, Issues p.1 s v ∧ Room s v ∧
    ReachesMemory p.2 v (followed p.1 v s) b := by
  intro p hp
  have h := List.all_eq_true.mp (by decide : ((someLoads ++ someStores ++ someAtomics).all fun p =>
    ready p.1 (record (image 0 0 0x10000 16 4 true) fun l => if l = 0 then 0xFFFF else 1) (inMemoryB p.2)) = true) p hp
  obtain ⟨s, v, h1, h2, b, h3⟩ := ready_meets (p := fun v s => ∃ b, ReachesMemory p.2 v s b) h fun _ _ => memory_of
  exact ⟨s, v, b, h1, h2, h3⟩

/-- AtomicStep: an access of a word by a group that is there, in its lowest lane. -/
theorem witness_atomicStep : (start.group? g0).isSome = true ∧ (⟨0, 64, 4, 1, 0, 0, 0⟩ : Access).width = (if false then 8 else 4) ∧
    (oneLane 0).getLsbD 0 = true := by decide

end Sys2Proof.Tests
end

