-- ==== Sys2Proof/Tests/EventWitnesses.lean ====
section
/-! SUPPORT. States that meet the hypotheses of the statements about events of the mailbox, the module, pages, coherence and logged words. -/

set_option maxRecDepth 20000

namespace Sys2Proof.Tests

open Sys2Proof.Machine

/-- The module with bring-up at an end. -/
def opened : State := { start with modl := { Module.reset with bringup := 8 } }

/-- MailboxCommands. -/
theorem witness_mailbox : mailboxOpen opened := ⟨rfl, rfl, rfl⟩

/-- An image of stage 0 or of another component with its digest and version 5. -/
def firmware (comp : BitVec 16) (svn : BitVec 16) : Firmware :=
  { comp := comp, svn := svn, len := 64, reservedZero := true, digest := sha256 (64 : BitVec 32).toNat 1, payload := 1, signature := 0 }

theorem firmware_ok (comp svn : BitVec 16) (n : Nat) (hc : comp.toNat < 4) (hn : n ≤ svn.toNat)
    (hs : signatureGood Config.fusedKey (firmware comp svn) = true) : imageOk Config.fusedKey n (firmware comp svn) = true := by
  simp only [imageOk, hs, Bool.and_eq_true, decide_eq_true_eq]
  exact ⟨⟨⟨⟨⟨⟨trivial, trivial⟩, rfl⟩, rfl⟩, hc⟩, show (64 : BitVec 32).toNat % 64 = 0 by decide⟩, hn⟩

/-- ModuleEvents: no stage 0; a good stage 0 and an image that is too old; both good. Which key is fused is not a matter of the model, so
the last two are witnessed for each verdict on the signatures. -/
theorem witness_powerGood :
    (∀ f, ([] : List Firmware).find? (fun f => f.comp = 0) = some f → imageOk 0 0 f = false) ∧
    (signatureGood Config.fusedKey (firmware 0 5) = true → ∃ f, [firmware 0 5, firmware 1 4].find? (fun f => f.comp = 0) = some f ∧
      imageOk Config.fusedKey 5 f = true ∧ ∃ g ∈ [firmware 0 5, firmware 1 4], g.comp ≠ 0 ∧ imageOk Config.fusedKey 5 g = false) ∧
    (signatureGood Config.fusedKey (firmware 0 5) = true → signatureGood Config.fusedKey (firmware 1 5) = true →
      ∃ f, [firmware 0 5, firmware 1 5].find? (fun f => f.comp = 0) = some f ∧ imageOk Config.fusedKey 5 f = true ∧
        ∀ g ∈ [firmware 0 5, firmware 1 5], g.comp ≠ 0 → imageOk Config.fusedKey 5 g = true) ∧
    (signatureGood Config.fusedKey (firmware 0 5) = false → ∀ f, [firmware 0 5].find? (fun f => f.comp = 0) = some f →
      imageOk Config.fusedKey 5 f = false) := by
  refine ⟨by simp, fun h => ⟨_, rfl, firmware_ok 0 5 5 (by decide) (by decide) h, firmware 1 4, by simp, by decide, ?_⟩,
    fun h0 h1 => ⟨_, rfl, firmware_ok 0 5 5 (by decide) (by decide) h0, fun g hg hc => ?_⟩, fun h f hf => ?_⟩
  · have : decide (5 ≤ (firmware 1 4).svn.toNat) = false := by decide
    rw [imageOk, this, Bool.and_false]
  · simp only [List.mem_cons, List.not_mem_nil, or_false] at hg
    rcases hg with rfl | rfl
    · exact absurd rfl hc
    · exact firmware_ok 1 5 5 (by decide) (by decide) h1
  · have e : f = firmware 0 5 := (Option.some.inj hf).symm
    rw [e, imageOk, h]
    simp only [Bool.and_false, Bool.false_and]

/-- A clean and a dirty frame. -/
def someFrame (state : BitVec 3) (dmask : LineMask) : Frame := ⟨state, false, false, false, 0, BitVec.allOnes 128, dmask, 0⟩

/-- A die with a frame of partition n's line 5. -/
def framed (n : Nat) (f : Frame) : State := start.modDie 1 fun d => { d with l2 := [(lineKey n 0 5, some f)] }

/-- ModuleEvents: errors of a clean and of a dirty frame, of a line that the LLC does not hold, and of a way that a partition has. -/
theorem witness_errors : ((framed 0 (someFrame 1 0)).die 1).l2.get none (lineKey 0 0 5) = some (someFrame 1 0) ∧
    ((framed 0 (someFrame 2 1)).die 1).l2.get none (lineKey 0 0 5) = some (someFrame 2 1) ∧ (someFrame 2 1).dmask ≠ 0 ∧
    (∀ kt ∈ start.llc, keyLine kt.1 = 5 → keyTag kt.1 = 0 → kt.2 = none) ∧ (0, some placePart) ∈ start.parts ∧
    placePart.l2ways.getLsbD 15 = true ∧ placePart.llcways.getLsbD 15 = true := by decide

/-- ModuleEvents: before the commit, after it, and before bring-up has come so far. -/
theorem witness_featureCommit :
    let s : State := { start with modl := { Module.reset with bringup := 6 } }
    (s.modl.featCommit = false ∧ s.modl.bringup = 6 ∧ s.modl.failed = none ∧ 6 ≤ s.modl.bringup) ∧ start.modl.bringup ≠ 6 ∧
      { start with modl := { Module.reset with featCommit := true } }.modl.featCommit = true ∧
      { start with modl := { Module.reset with failed := some 5 } }.modl.failed ≠ none := by decide

/-- PageEvents: an invalidation that a leaf of the die is waiting for. -/
def invalidation : LineWrite := ⟨0x400, 0, 0, ⟨BitVec.allOnes 128, 0⟩, 1, [0, 1], false⟩

/-- Its die, with that leaf. -/
def leafed : State := { start with pending := [.applyInvalidation 0 invalidation] }.modDie 0 fun d =>
  { d with tcache := [⟨0, 0, 16, 0, [0x400]⟩], tsyncDue := [(0, invalidation)] }

/-- PageEvents: TSYNC, and its end while an invalidation is due and when none is. -/
theorem witness_tsync : .applyInvalidation 0 invalidation ∈ leafed.pending ∧ invalidation.tag = 0 ∧
    (∃ dw ∈ (leafed.die 0).tsyncDue, ∃ w, .applyInvalidation dw.1 w ∈ leafed.pending ∧ w.tag = 0 ∧ w.line = dw.2.line ∧ w.die = dw.2.die ∧
      w.clock = dw.2.clock) ∧
    ¬∃ dw ∈ (start.die 0).tsyncDue, ∃ w, .applyInvalidation dw.1 w ∈ start.pending ∧ w.tag = 0 ∧ w.line = dw.2.line ∧ w.die = dw.2.die ∧
      w.clock = dw.2.clock := by
  refine ⟨by simp [leafed, State.modDie], rfl, ⟨(0, invalidation), by decide, invalidation, by simp [leafed, State.modDie], rfl, rfl, rfl, rfl⟩, ?_⟩
  rintro ⟨dw, h, -⟩
  have e : (start.die 0).tsyncDue = [] := by decide
  rw [e] at h
  cases h

/-- The copier of die 0 busy with a job, at line n. -/
def copying (n src dst : Nat) : State := start.modDie 0 fun d => { d with pcCtl := 1#64 <<< 63, pcJob := (src, 0, dst), pcNext := n }

/-- PageEvents: the copier idle, busy, with a copy that is refused, with the last line of one that is not, at its end with a write still on
its way and with none. -/
theorem witness_pageCopy : (start.die 0).pcCtl.getLsbD 63 = false ∧ (1#64 <<< 63).getLsbD 63 = true ∧
    ((copying 511 0x100000 0x100000).die 0).pcCtl.getLsbD 63 = true ∧ ((copying 511 0x100000 0x100000).die 0).copyRefused = true ∧
    (let s := (copying 511 0x100000 0x110000).leaveCopied 0
     let d := s.die 0
     let src := d.pcJob.1 + 128 * d.pcNext
     let dst := d.pcJob.2.2 + 128 * d.pcNext
     d.pcCtl.getLsbD 63 = true ∧ copySize d.pcCtl = some 512 ∧ d.copyRefused = false ∧ d.pcNext < 512 ∧ d.pcWork.wrote = [] ∧ placeOf src = .hbm ∧
       s.isFlipping src = false ∧ s.isFlipping dst = false ∧ s.dirtyDies (· = src / 128) = []) ∧
    (let s := copying 512 0x100000 0x110000
     let d := s.die 0
     d.pcCtl.getLsbD 63 = true ∧ copySize d.pcCtl = some 512 ∧ d.copyRefused = false ∧ d.pcNext = 512 ∧ s.copyOwes 0 = false) ∧
    ((copying 512 0x100000 0x110000).modDie 0 fun d => { d with out := [⟨lineKey noPart 0 5, ⟨1, 0⟩, false, 0, 0, none⟩] }).copyOwes 0 = true := by
  decide

/-- PageEvents: a source line that another die has written and not sent. -/
theorem witness_pageCopyDirty : let s := ((copying 511 0x100000 0x110000).modDie 1 fun d =>
      { d with l2 := [(lineKey 0 0 ((0x100000 + 128 * 511) / 128), some (someFrame 2 1))]
               out := [⟨lineKey 0 0 ((0x100000 + 128 * 511) / 128), ⟨1, 0⟩, false, 0, 0, none⟩] }).leaveCopied 0
    s.dirtyDies (· = (0x100000 + 128 * 511) / 128) ≠ [] := by decide

/-- PageEvents: a forwarded access is counted below, at and above its threshold, in a table that has room. -/
theorem witness_forward : (((start.die 0).hintThr.extractLsb' 0 16).toNat ≠ 0 ∧ (start.die 0).counters.length < 4096) ∧
    (let s := start.modDie 0 fun d => { d with counters := [(63 * 2 ^ 40 + 7, 1023)] }
     (s.die 0).counters.get 0 (63 * 2 ^ 40 + 7) + 1 = ((s.die 0).hintThr.extractLsb' 0 16).toNat) ∧
    ((start.modDie 0 fun d => { d with hintThr := 0 }).die 0).hintThr.extractLsb' 0 16 = 0 := by decide

/-- The bias flips of PageEvents: one that is asked for, one that is done. -/
theorem witness_bias :
    let s : State := { opened with modl := { opened.modl with featCap := 4, featEn := 4, featCommit := true, featDone := true, flipping := [(0xFFFFFF, true)] } }
    (s.die 0).bflip.getLsbD 63 = false ∧ s.flipIdle (flipFrame 0xC00000FFFFFE0000) (flipToHost 0xC00000FFFFFE0000) = false ∧
      s.modl.flipping.find? (fun f => f.1 = 0xFFFFFF) = some (0xFFFFFF, true) ∧ s.dirtyDies (fun l => l / 512 = 0xFFFFFF) = [] ∧
      ((s.modDie 0 fun d => { d with bflip := 1#64 <<< 63 }).die 0).bflip.getLsbD 63 = true := by decide

/-- PageEvents: a hint with its ring full, and with room. -/
theorem witness_hint : ∃ (s1 s2 : State), (s1.die 0).counters.get 0 (63 * 2 ^ 40 + 7) ≠ 0 ∧
    (s1.die 0).hintPtr.extractLsb' 32 16 - (s1.die 0).hintPtr.extractLsb' 0 16 = 256 ∧ (s2.die 0).counters.get 0 (63 * 2 ^ 40 + 7) ≠ 0 ∧
    (s2.die 0).hintPtr.extractLsb' 32 16 - (s2.die 0).hintPtr.extractLsb' 0 16 ≠ 256 :=
  ⟨start.modDie 0 fun d => { d with counters := [(63 * 2 ^ 40 + 7, 1024)], hintPtr := 0x00000100_00000000#64 },
   start.modDie 0 fun d => { d with counters := [(63 * 2 ^ 40 + 7, 1024)], hintPtr := 0x000000FF_00000000#64 },
   by decide, by decide, by decide, by decide⟩

/-- A window of the host over the first 256 MiB, and frame 1 in host bias. -/
def hosted (flipping : List (Nat × Bool)) : State :=
  { opened with
    hbm := opened.hbm.write 1 Module.reset.biasBase 2
    modl := { opened.modl with featCap := 15, featEn := 15, featCommit := true, featDone := true, hdm := [(0, (1, 1, 0, true))], flipping := flipping } }

/-- PageEvents: accesses of the host outside its window, in a frame that flips, in device bias and in host bias; an access of another
module. -/
theorem witness_host : (hosted []).hostLineOf 0 = none ∧ (hosted [(0, true)]).hostLineOf 0x200000 = some 0 ∧
    (hosted [(0, true)]).isFlipping (128 * 0) = true ∧ (hosted []).hostLineOf 0x3FFFFF = some 0x1FFFFF ∧
    (hosted []).isFlipping (128 * 0x1FFFFF) = false ∧ (hosted []).hostBias (128 * 0x1FFFFF) = false ∧
    (hosted []).isFlipping (128 * 512) = false ∧ (hosted []).hostBias (128 * 512) = true ∧ (hosted []).dirtyDies (· = 512) = [] ∧
    (hosted []).hostLineOf 0x200200 = some 512 ∧ (hosted []).open_ = true ∧ (hosted []).feature 3 = true := by decide

/-- PageEvents: an `add` of 8 bytes at the end of a line. -/
theorem witness_fabric : (0 : BitVec 4) ≠ 14 ∧ (0 : BitVec 4) ≠ 15 ∧ 120 % 8 = 0 ∧ 120 + 8 ≤ 128 ∧ 5 ∉ (hosted []).hbmPsn ∧
    5 ∈ { hosted [] with hbmPsn := [5] }.hbmPsn ∧
    atomNew 0 64 ((hosted []).hbm.read 8 (128 * 5 + 120)) (lineFrom 0 120 8) (lineFrom 0 ((120 + 8) % 128) 8) = some 0 := by decide

/-! ## Coherence -/

/-- A root write of die 1, its first. -/
def write (line tag part : Nat) : LineWrite := ⟨line, tag, part, ⟨1#128 <<< 127, 0⟩, 1, [0, 1], false⟩

/-- Of two ends, which it is. -/
theorem left_of {x : State ⊕ State} (h : x.isLeft = true) : ∃ s, x = .inl s := by
  cases x <;> simp_all

/-- The same for the right. -/
theorem right_of {x : State ⊕ State} (h : x.isRight = true) : ∃ s, x = .inr s := by
  cases x <;> simp_all

/-- Partition 0 may use one way of the caches, and another partition's line is held there. -/
def crowded (l2 llc : Bool) : State :=
  { start.modPart 0 fun p => { p with l2ways := 1, llcways := 1 } with
    llc := if llc then [(lineKey 1 0 5, some ⟨0, 3, 2, false, 0⟩)] else [] }.modDie 1 fun d =>
      { d with l2 := if l2 then [(lineKey 1 0 5, some (someFrame 4 1))] else [] }

/-- CoherenceEvents: a batch; a write that may be applied and one that may not; tags that are live and not; a home that has room for the line
and one that has not. -/
theorem witness_homeWrites :
    ((start.modDie 1 fun d => { d with out := [⟨lineKey 0 0 5, ⟨1, 0⟩, false, 0, 0, none⟩] }).die 1).nextBatch ≠ [] ∧
    (start.die 1).nextBatch = [] ∧ start.canApply (write 5 0 0) = true ∧
    { start with pending := [.homeApplyWrite (write 5 0 0)] }.canApply { write 5 0 0 with die := 2, clock := [0, 2, 1] } = false ∧
    start.tagLive 0 0 = true ∧ start.effectiveTag 0 0 = 0 ∧ start.tagLive 0 1 = false ∧
    (let s := start.modPart 0 fun p => p.modEntry 1 fun _ => { HypEntry.free with state := 1, depth := 1 }
     s.tagLive 0 1 = true ∧ s.effectiveTag 0 1 ≠ 0) ∧
    (∃ s1, start.homeHolds 0 0 5 = .inl s1) ∧ ∃ s1, (crowded false true).homeHolds 0 0 5 = .inr s1 := by
  refine ⟨by decide, by decide, by decide, ?_, by decide, by decide, by decide, ⟨by decide, by decide⟩, left_of (by decide),
    right_of (by decide)⟩
  simp only [State.canApply, List.any_cons, List.any_nil]
  decide

/-- CoherenceEvents: a write that a home has acknowledged, with a newer one of the same line still on its way. -/
theorem witness_ack : let s := start.modDie 1 fun d => { d with
      out := [⟨lineKey 0 0 5, (write 5 0 0).bytes, false, 0, 0, some 1⟩, ⟨lineKey 0 0 5, ⟨1, 0⟩, false, 1, 1, none⟩] }
    (∃ o ∈ (s.die 1).out, o.key = lineKey 0 0 5 ∧ o.sent = some (clockAt (write 5 0 0).clock 1)) ∧
      ∃ o ∈ (s.die 1).out, s.outOf 0 0 5 o = true ∧ o.sent = none := by decide

/-- CoherenceEvents: an invalidation that follows another and one that does not; a sweep that waits and one that is answered; the ticket, for
none and for one that wants it; a fill that waits for an invalidation, one that waits for room in either cache, and one that ends. -/
theorem witness_coherence :
    (let s : State := { start with pending := [.applyInvalidation 0 { write 5 0 0 with clock := [] }] }
     s.mustFollow 0 (write 5 0 0) = true ∧ s.invalidationsDue 0 (some (homeDie 5)) = true ∧ s.canFill 0 5 = false) ∧
    start.mustFollow 0 (write 5 0 0) = false ∧
    (let s := startG fun x => { x with sweep := some 0x7F, loadSweep := true }
     (∃ x, s.group? g0 = some x ∧ x.sweep = some 0x7F ∧ x.loadSweep = true ∧ x.fences = []) ∧ s.invalidationsDue (dieOf g0.core) (some 7) = false) ∧
    start.modl.ticketQueue = [] ∧
    (let s : State := { (startG fun x => { x with fences := [⟨6, 3, 0, 0, some 0, 0⟩] }) with modl := { start.modl with ticketQueue := [g0] } }
     s.modl.ticketQueue = [] ++ g0 :: [] ∧ s.modl.ticketHolder = none ∧ s.wantsTicket g0 = true) ∧
    (let s : State := { start with modl := { start.modl with ticketQueue := [g0] } }
     s.modl.ticketQueue ≠ [] ∧ s.modl.ticketHolder = none ∧ ∀ g ∈ s.modl.ticketQueue, s.wantsTicket g = false) ∧
    (let s : State := { start with modl := { start.modl with ticketQueue := [g0], ticketHolder := some ⟨1, 0, 0⟩ } }
     s.modl.ticketHolder ≠ none) ∧ start.canFill 0 5 = true ∧ (∃ s1, start.fill 1 0 0 5 1 = .inl s1) ∧
    (∃ s1, (crowded true false).fill 1 0 0 5 1 = .inr s1) ∧ ∃ s1, (crowded false true).fill 1 0 0 5 1 = .inr s1 := by
  refine ⟨⟨?_, ?_, ?_⟩, by decide, ⟨⟨_, rfl, rfl, rfl, rfl⟩, by decide⟩, rfl, ⟨rfl, rfl, by decide⟩, ⟨by decide, rfl, by decide⟩, by decide, by decide,
    left_of (by decide), right_of (by decide), right_of (by decide)⟩
  · simp only [State.mustFollow, List.any_cons, List.any_nil]; decide
  · simp only [State.invalidationsDue, List.any_cons, List.any_nil]; decide
  · simp only [State.canFill, State.dropsDue, List.any_cons, List.any_nil]; decide

/-! ## Logged words -/

/-- An entry of the operand log with one access of 4 bytes at address 0x2007C, the end of a line. -/
def entry (op : MemOp) (fault : Option LogFault) : LogEntry :=
  { word := 0, pc := 0x300004, mask := 1#32 <<< 31, done := 0, op := op, accs := [⟨31, 0x2007C, 4, 0x12345678, 0, 15, 0⟩], hyp := [], lowest := false,
    fret := none, acquire := false, sweeps := false, plainWide := false, seq := 9, slot := 3, fault := fault, filled := [] }

/-- The start with that entry in its group's log and, on its die, a leaf of 64 KB with an entry of `pte`. -/
def logged (op : MemOp) (fault : Option LogFault) (pte : Option DWord) : State :=
  (startG fun x => { x with log := [entry op fault] }).modDie 0 fun d => { d with
    tcache := (pte.map fun e => (⟨0, 2, 16, e, []⟩ : Leaf)).toList
    l2 := [(lineKey 0 0 0x400, some (someFrame 1 0))] }

/-- LoggedWordEvents: a line that must be walked, that stalls, that may not be written, that is written, that is read. -/
theorem witness_logLines :
    (∃ t, (logged (.store 4) none none).team? g0 = some t ∧ (logged (.store 4) none none).logEntry g0 9 = some (entry (.store 4) none) ∧
      (logged (.store 4) none none).translate 0 t.bind.part 0x20000 1 = .walk) ∧
    (logged (.store 4) none (some 0xFC00000000020000)).translate 0 0 0x20000 1 = .stalled ∧
    (logged (.store 4) none (some 0xE800000000020000)).translate 0 0 0x20000 1 = .refused 3 ∧
    (logged (.store 4) none (some 0xF800000000020000)).translate 0 0 0x20000 1 = .at_ 0x20000 0xF800000000020000 ∧ placeOf 0x20000 = .hbm ∧
    (∀ a ∈ (entry (.store 4) none).accs, (logged (.store 4) none none).owned 0 0 ((logged (.store 4) none none).accTag 0 (entry (.store 4) none) a)
      (0x20000 / 128) = false ∧ (logged (.store 4) none none).accTag 0 (entry (.store 4) none) a = 0) ∧
    (entry (.load 1 4 false) none).op.kind = 0 ∧ (entry (.load 1 4 false) none).plainWide = false ∧
    (logged (.load 1 4 false) none none).covered 0 0 (0x20000 / 128) (entry (.load 1 4 false) none) (entry (.load 1 4 false) none).accs = true ∧
    (∀ a ∈ (entry (.load 1 4 false) none).accs, (logged (.load 1 4 false) none none).linePoisoned 0 0
      ((logged (.load 1 4 false) none none).accTag 0 (entry (.load 1 4 false) none) a) (0x20000 / 128) = false) :=
  ⟨⟨_, rfl, by decide, by decide⟩, by decide, by decide, by decide, by decide, by decide, by decide, by decide, by decide, by decide⟩

/-- LoggedWordEvents: the L2 has room for the lines of a store, or has not; an atomic in its lowest lane. -/
theorem witness_logRoom :
    (∃ s1, ((logged (.store 4) none (some 0xF800000000020000)).coreCaches 0 0 0x20000).allocTags 0 0 0x400 [0] = .inl s1) ∧
    (∃ s1, (crowded true false).allocTags 1 0 5 [0] = .inr s1) ∧ (MemOp.atomic 0 false none 0 0).kind = 2 ∧
    (MemOp.atomic 0 false none 0 0).atHome = false :=
  ⟨left_of (by decide), right_of (by decide), by decide, by decide⟩

/-- How a walk ends: 0 it waits, 1 it has cached a leaf, 2 it faults. -/
def endOf : WalkEnd → Nat
  | .waits _ => 0
  | .cached _ => 1
  | .fault _ _ => 2

theorem ended_as {x : WalkEnd} : (endOf x = 0 → ∃ s, x = .waits s) ∧ (endOf x = 1 → ∃ s, x = .cached s) ∧
    (endOf x = 2 → ∃ s c, x = .fault s c) := by
  cases x <;> simp [endOf]

/-- LoggedWordEvents: a walk that caches a leaf, one whose table lies in a frame that flips, one that faults in a module that is open. -/
theorem witness_walkEnds : (∃ s1, start.walkOn 0 0 (65536 * 0) = .cached s1) ∧
    (∃ s1, { start with modl := { start.modl with flipping := [(1, false)] } }.walkOn 0 0 (65536 * 0) = .waits s1) ∧
    ∃ s1 c, start.walkOn 0 0 (65536 * 2 ^ 39) = .fault s1 c :=
  ⟨ended_as.2.1 (by decide), ended_as.1 (by decide), ended_as.2.2 (by decide)⟩

/-- LoggedWordEvents: a walk that finds a leaf of 64 GiB, one that faults. -/
theorem witness_walks :
    (∀ l ∈ start.walkLines 0 4 0x10000, start.isFlipping (128 * l) = false ∧ start.hostBias (128 * l) = false) ∧
    start.walk 0 (128 * 0) = .leaf 0xF800000000000000 36 [512, 1024] ∧ start.walk 0 (2 ^ 55) = .fault 2 ∧ start.logEntry g0 9 = none := by
  decide

/-- LoggedWordEvents: a word that is performed again; `rld` of a record that the cache held, of a poisoned record, of a sound one. -/
theorem witness_replay :
    (∃ n, (logged (.store 4) none none).logEntry g0 9 = some n ∧ n.accs ≠ [] ∧ n.done = 0 ∧ n.lowest = false ∧
      ∀ a ∈ n.accs, (logged (.store 4) none none).accLive 0 n a = true) ∧
    (logged (.rld 15 true true 7 (some 1)) none none).logEntry g0 9 = some (entry (.rld 15 true true 7 (some 1)) none) ∧
    (logged (.rld 15 true true 7 none) none none).logEntry g0 9 = some (entry (.rld 15 true true 7 none) none) ∧
    (∃ a as, (entry (.rld 15 true true 7 none) none).accs = a :: as) ∧
    (logged (.rld 15 true true 7 none) none none).scratchPoisoned 0 64 0x2007C = false ∧
    ((logged (.rld 15 true true 7 none) none none).modCore 0 fun k => { k with scratchPsn := touchedGranules 0x2007C 4 }).scratchPoisoned 0 64 0x2007C = true :=
  ⟨⟨entry (.store 4) none, by decide, by decide, by decide, by decide, by decide⟩, by decide, by decide, ⟨_, _, rfl⟩, by decide, by decide⟩

/-- LoggedWordEvents: a fault that waits, and one that is delivered. -/
theorem witness_deliver :
    (∃ t x, (logged (.load 1 4 false) (some ⟨4, 2, 0x2007C⟩) none).team? g0 = some t ∧
      (logged (.load 1 4 false) (some ⟨4, 2, 0x2007C⟩) none).group? g0 = some x ∧
      (logged (.load 1 4 false) (some ⟨4, 2, 0x2007C⟩) none).logEntry g0 9 = some (entry (.load 1 4 false) (some ⟨4, 2, 0x2007C⟩)) ∧
      x.wait = .none ∧ x.frontier ≠ [] ∧ (logged (.load 1 4 false) (some ⟨4, 2, 0x2007C⟩) none).policyB t.bind.part = false) ∧
    ∃ x, ((logged (.load 1 4 false) (some ⟨4, 2, 0x2007C⟩) none).modGroup g0 fun x => { x with wait := .regroup }).group? g0 = some x ∧
      x.wait ≠ .none :=
  ⟨⟨_, _, rfl, rfl, by decide, rfl, by decide, by decide⟩, ⟨_, rfl, by decide⟩⟩

/-- LoggedWordEvents: a late fault of a region that goes back, and of one that does not. -/
theorem witness_lateFault :
    (∃ x, start.group? g0 = some x ∧ x.log = [] ∧ x.idem.getLsbD 63 = false ∧ start.policyB 0 = false) ∧
    ∃ x, (startG fun x => { x with idem := 0xBF000001FFFFFFFF }).group? g0 = some x ∧ x.log = [] ∧ x.idem.getLsbD 63 = true ∧ x.idem.setWidth 32 ≠ (0 : Lanes) ∧
      (startG fun x => { x with idem := 0xBF000001FFFFFFFF }).enginesBusy g0 = false :=
  ⟨⟨_, rfl, rfl, by decide, by decide⟩, ⟨_, rfl, rfl, by decide, by decide, by decide⟩⟩

end Sys2Proof.Tests
end

