-- ==== Sys2Proof/Tests/QueueWitnesses.lean ====
section
/-! SUPPORT. States and operands that meet the hypotheses of the statements about line words, records, queues and tasks. -/

set_option maxRecDepth 20000

namespace Sys2Proof.Tests

open Sys2Proof.Machine

/-! ## Lines -/

/-- The start with a record of bytes in q3 and s5 holding a line count and a first element. -/
def line (space extent : Nat) (oob : Bool) (s5 : DWord) : State :=
  (startG fun x => { x with q := x.q.set none 3 (some ⟨false, image space 0 extent 1 0 oob⟩) }.sset 5 s5)

/-- A line word of q3 and s5 from register d up, checked. -/
def lineB (load : Bool) (sc : BitVec 3) (d : BitVec 7) (n a0 inside : Nat) (v : Env) (s : State) : Bool :=
  match checkedBuf v 3 (if load then 0 else 1) with
  | none => false
  | some b => decide (n = ((v.grp.sget 5).extractLsb' 32 5).toNat + 1 ∧ d.toNat + n ≤ blockEnd d.toNat ∧ b.swz = 0 ∧ b.stride = 2 ^ b.esize ∧
      a0 = b.base + ((v.grp.sget 5).extractLsb' 0 32).toNat * 2 ^ b.esize ∧ a0 % 128 = 0 ∧
      inside = min (128 * n) ((b.extent - ((v.grp.sget 5).extractLsb' 0 32).toNat) * 2 ^ b.esize) ∧
      (b.oob = true ∨ inside = 128 * n) ∧ s.orderHeld v (!load) = false ∧ s.released v sc.toNat = true) &&
    match winOf v s b.space b.prow b.pcol with
    | .here w => decide (lineBytesTrap s b (if b.space = 0 then none else some w) a0 inside = none)
    | _ => false

theorem line_of {load : Bool} {o : BitVec 1} {sc : BitVec 3} {d : BitVec 7} {n a0 inside : Nat} {v : Env} {s : State}
    (h : lineB load sc d n a0 inside v s = true) : ∃ b win, LineOf load o sc d 3 5 v s b win n a0 inside := by
  unfold lineB at h
  cases hb : checkedBuf v 3 (if load then 0 else 1) with
  | none => simp [hb] at h
  | some b =>
    cases hw : winOf v s b.space b.prow b.pcol with
    | here w =>
      simp only [hb, hw, Bool.and_eq_true] at h
      have k := of_decide_eq_true h.1
      have j := of_decide_eq_true h.2
      refine ⟨b, if b.space = 0 then none else some w, k.1, k.2.1, hb, ⟨k.2.2.1, k.2.2.2.1⟩, k.2.2.2.2.1, k.2.2.2.2.2.1, k.2.2.2.2.2.2.1,
        k.2.2.2.2.2.2.2.1, ?_, j, k.2.2.2.2.2.2.2.2.1, fun _ _ => k.2.2.2.2.2.2.2.2.2⟩
      by_cases h0 : b.space = 0
      · exact .inl ⟨h0, by simp [h0]⟩
      · exact .inr ⟨h0, w, by simp [h0], hw⟩
    | stalled => simp [hb, hw] at h
    | gone => simp [hb, hw] at h

/-- WindowLines: two lines up to the end of the block, the second inside to its first byte. -/
theorem witness_lines : ∀ load ∈ [true, false], Met (useLine 0 load 30 3 5 2) fun v s => ∃ b win, lineCount v 5 = 2 ∧
    LineOf load 0 0 30 3 5 v s b win 2 128 129 ∧ win.isSome = true := by
  intro load h
  refine ready_meets (s := line 1 257 true 0x100000080) (ok := fun v s => lineB load 0 30 2 128 129 v s && decide (lineCount v 5 = 2) &&
    (checkedBuf v 3 (if load then 0 else 1)).any fun b => decide (b.space ≠ 0)) ?_ fun v s h => ?_
  · simp only [List.mem_cons, List.not_mem_nil, or_false] at h
    rcases h with rfl | rfl <;> decide
  · simp only [Bool.and_eq_true] at h
    obtain ⟨b, win, hl⟩ := line_of (o := 0) h.1.1
    refine ⟨b, win, of_decide_eq_true h.1.2, hl, ?_⟩
    have hb := h.2
    rw [show checkedBuf v 3 (if load then 0 else 1) = some b from hl.buf] at hb
    have hs : b.space ≠ 0 := of_decide_eq_true hb
    rcases hl.place with ⟨h0, -⟩ | ⟨-, w, hw, -⟩
    · exact absurd h0 hs
    · simp [hw]

/-- WindowLines: no byte of the window is poisoned. -/
theorem witness_linesClean : ∀ k, k < 129 → (line 1 257 true 0x100000080).scratchPoisoned 0 4 (0 + 128 + k / 4 * 4) = false := by
  have clean : ∀ (s : State) n a, (s.core 0).scratchPsn = [] → s.scratchPoisoned 0 n a = false := fun s n a h => by
    simp [State.scratchPoisoned, h]
  exact fun k _ => clean _ _ _ (by decide)

/-- WindowLines: no `rld` has still to read the bytes of a line store. -/
theorem witness_linesAfter : ∃ v, (line 1 257 true 0x100000080).env = some v ∧ (liveGroup v (line 1 257 true 0x100000080)).rldOver
    v.team.bind.spbase v.r.core 0 0 ((lineAccesses false v 30 128 2 129).filter fun a => a.bytes ≠ 0) = false := ⟨_, rfl, by decide⟩

/-- LineAndRecordWords: line words of global memory. -/
theorem witness_globalLines : ∀ load ∈ [true, false], Met (useLine 0 load 30 3 5 2) fun v s => ∃ b, lineCount v 5 = 2 ∧
    LineOf load 0 0 30 3 5 v s b none 2 128 129 ∧
    ((lineAccesses load v 30 128 2 129).filter fun a => a.bytes ≠ 0) ≠ [] ∧ (liveGroup v s).log.length < 4 ∧
    (liveGroup v s).lineBusy ((lineAccesses load v 30 128 2 129).filter fun a => a.bytes ≠ 0) = false ∧
    hypRemote v s (if load then 0 else 1) ((lineAccesses load v 30 128 2 129).filter fun a => a.bytes ≠ 0) = none := by
  intro load h
  refine ready_meets (s := line 0 257 true 0x100000080) (ok := fun v s => lineB load 0 30 2 128 129 v s && decide (lineCount v 5 = 2) &&
    ((checkedBuf v 3 (if load then 0 else 1)).any fun b => decide (b.space = 0)) &&
    decide (((lineAccesses load v 30 128 2 129).filter fun a => a.bytes ≠ 0) ≠ [] ∧ (liveGroup v s).log.length < 4 ∧
      (liveGroup v s).lineBusy ((lineAccesses load v 30 128 2 129).filter fun a => a.bytes ≠ 0) = false ∧
      hypRemote v s (if load then 0 else 1) ((lineAccesses load v 30 128 2 129).filter fun a => a.bytes ≠ 0) = none)) ?_ fun v s h => ?_
  · simp only [List.mem_cons, List.not_mem_nil, or_false] at h
    rcases h with rfl | rfl <;> decide
  · simp only [Bool.and_eq_true] at h
    obtain ⟨b, win, hl⟩ := line_of (o := 0) h.1.1.1
    have hb := h.1.2
    rw [show checkedBuf v 3 (if load then 0 else 1) = some b from hl.buf] at hb
    have hs : b.space = 0 := of_decide_eq_true hb
    rcases hl.place with ⟨-, hw⟩ | ⟨h0, -⟩
    · exact ⟨b, of_decide_eq_true h.1.1.2, hw ▸ hl, of_decide_eq_true h.2⟩
    · exact absurd hs h0

/-- LineAndRecordWords: `rld` of the last tensor record of the window, and of global memory; `rfence`. -/
theorem witness_rld : (∀ b ∈ [(0 : BitVec 1), 1], Met (useRld 0 15 101) fun v s =>
      let addr := (v.usrc (101 - 96)).toNat
      let accs : List Access := [⟨lowestLane v.em, addr, 64, 0, 0, 0, 0⟩]
      addr % 64 = 0 ∧ (b = 0 → addr < 2 ^ 56) ∧ (b = 1 → addr + 64 ≤ v.team.bind.spsize) ∧ (liveGroup v s).acquiring = false ∧
        (liveGroup v s).log.length < 4 ∧ (b = 0 → (liveGroup v s).lineBusy accs = false)) ∧ Met { c := 0, ops := [] } always := by
  refine ⟨fun b hb => ready_meets (s := startG fun x => x.sset 5 0xFFFC0) (ok := fun v s =>
      let addr := (v.usrc (101 - 96)).toNat
      decide (addr % 64 = 0 ∧ addr < 2 ^ 56 ∧ addr + 64 ≤ v.team.bind.spsize ∧ (liveGroup v s).acquiring = false ∧
        (liveGroup v s).log.length < 4 ∧ (liveGroup v s).lineBusy [⟨lowestLane v.em, addr, 64, 0, 0, 0, 0⟩] = false)) (by decide)
      fun v s h => ?_, ready_meets (s := start) (ok := fun _ _ => true) (by decide) fun _ _ _ => trivial⟩
  obtain ⟨h1, h2, h3, h4, h5, h6⟩ := of_decide_eq_true h
  exact ⟨h1, fun _ => h2, fun _ => h3, h4, h5, fun _ => h6⟩

/-! ## Queues -/

/-- A queue of 32-bit elements with 32 visible elements, the owner slot 0. -/
def queue (head tail : BitVec 32) (runs : List (Nat × Bool)) (getters : List GroupRef) : QDesc :=
  { en := true, esz := 0, lcap := 6, base := 0x100, head := head, tail := tail, owner := 0, runs := runs, refused := [], getters := getters }

/-- The start with that queue as number 15. -/
def queued (q : QDesc) : State := startK fun k => { k with queues := k.queues.set none 15 (some q) }

/-- The group with the answer to its push. -/
def answered (tries ok : Bool) : State := startG fun x => { x with push := some ⟨0, 15, [], tries, some ok⟩ }

/-- QueueWords: a push that is sent, accepted or refused, with and without predicate; the occupancy. -/
theorem witness_pushes : ∃ w q, (Met (useQput false 0 0 0 1 []) fun v s => pushes false 15 0 0 1 v s w q ∧ s.released v 3 = true) ∧
    (Met (useQput false 0 0 0 1 [.pd 7]) fun v s => pushes false 15 0 0 1 v s w q) ∧
    (∀ ok ∈ [true, false], (Met (useQput false 0 0 0 1 []) fun v s =>
        s.placeWide v.r (0 : BitVec 4).toNat (0 : BitVec 3).toNat (15 : BitVec 4).toNat = false ∧
          (liveGroup v s).push.bind (·.answer) = some ok) ∧
      Met (useQput false 0 0 0 1 [.pd 7]) fun v s =>
        s.placeWide v.r (0 : BitVec 4).toNat (0 : BitVec 3).toNat (15 : BitVec 4).toNat = false ∧
          (liveGroup v s).push.bind (·.answer) = some ok) ∧
    Met (useQlen 0 0 0 1) fun v s => queueAt 0 0 15 v s = .here w q ∧ (q.bad && ownPort v w) = false := by
  let q := queue 0xFFFFFFF0 0xFFFFFFF0 [] []
  refine ⟨⟨0, 0, placeBind⟩, q, ready_dec (s := queued q) (by decide), ready_dec (s := queued q) (by decide), fun ok h => ?_,
    ready_dec (s := queued q) (by decide)⟩
  simp only [List.mem_cons, List.not_mem_nil, or_false] at h
  rcases h with rfl | rfl
  · exact ⟨ready_dec (s := answered false true) (by decide), ready_dec (s := answered true true) (by decide)⟩
  · exact ⟨ready_dec (s := answered false false) (by decide), ready_dec (s := answered true false) (by decide)⟩

/-- QueueWords: a push of pairs, to a queue of 64-bit elements. -/
theorem witness_widePush : ∃ w q, Met (useQput true 0 0 0 2 []) fun v s => pushes true 15 0 0 2 v s w q ∧ s.released v 3 = true :=
  ⟨⟨0, 0, placeBind⟩, { queue 0 0 [] [] with esz := 1 }, ready_dec (s := queued { queue 0 0 [] [] with esz := 1 }) (by decide)⟩

/-- QueueWords: a pop of exactly what is visible, a pop that joins the line; a pop that tries and finds some, none, or another in line. -/
theorem witness_pops : ∃ q q1 q2 q0, (Met (useQget false 0 1 []) fun v s => ownQueue 15 1 v s = some q ∧ q.bad = false ∧
      (q.getters = [] ∨ q.getters.head? = some v.r) ∧ popcount v.em ≤ q.visible ∧ s.poisonedHead v q (popcount v.em) = none ∧
      acquired v s 3) ∧
    (Met (useQget false 0 1 []) fun v s => ownQueue 15 1 v s = some q2 ∧ q2.bad = false ∧
      ((q2.getters ≠ [] ∧ q2.getters.head? ≠ some v.r) ∨ q2.visible < popcount v.em) ∧ v.r ∉ q2.getters) ∧
    (Met (useQget false 0 1 [.pd 7]) fun v s => ownQueue 15 1 v s = some q1 ∧ q1.bad = false ∧ q1.getters = [] ∧
      min (popcount v.em) q1.visible ≠ 0 ∧ s.poisonedHead v q1 (min (popcount v.em) q1.visible) = none ∧ acquired v s 3) ∧
    (Met (useQget false 0 1 [.pd 7]) fun v s => ownQueue 15 1 v s = some q0 ∧ q0.bad = false ∧ (q0.getters ≠ [] ∨ q0.visible = 0)) ∧
    start.ownWide g0 15 = false :=
  ⟨queue 0xFFFFFFF0 0x10 [(32, true)] [g0], queue 0 1 [(1, true)] [], queue 0 0x20 [(32, true)] [⟨0, 0, 1⟩], queue 0 1 [(1, false)] [],
    ready_dec (s := queued (queue 0xFFFFFFF0 0x10 [(32, true)] [g0])) (by decide),
    ready_dec (s := queued (queue 0 0x20 [(32, true)] [⟨0, 0, 1⟩])) (by decide),
    ready_dec (s := queued (queue 0 1 [(1, true)] [])) (by decide), ready_dec (s := queued (queue 0 1 [(1, false)] [])) (by decide),
    by decide⟩

/-! ## Tasks -/

/-- The start with a task deque of 32 entries at byte 0x1000. -/
def tasked : State := startT fun t => { t with bind := { t.bind with ten := true, tcap := 32, toff := 0x1000 } }

/-- TaskWords: 32 tasks fill the deque; more lanes than there is room, and no room at all; `take` of an empty deque. -/
theorem witness_tasks : (Met (useSpawn 0 0 []) fun v s => v.team.bind.ten = true ∧ s.released v 3 = true ∧
      (spawnLanes 0 v (lanesOf v.em) s).2 = []) ∧
    (Met (useSpawn 0 0 []) fun v s => s.snap = none ∧ v.team.bind.ten = true ∧ s.released v 3 = true ∧
      (spawnLanes 0 v (lanesOf v.em) s).2 ≠ [] ∧ (spawnLanes 0 v (lanesOf v.em) s).2 ≠ lanesOf v.em) ∧
    (Met (useSpawn 0 16 [.pd 1]) fun v s => v.team.bind.ten = true ∧
      (s.released v 3 = true ∨ (spawnLanes 16 v (lanesOf v.em) s).2 = lanesOf v.em)) ∧
    Met (useTake 0 0 1) fun v s => v.team.bind.ten = true ∧ poisonTask v s = none ∧ acquired v s 3 :=
  ⟨ready_dec (s := (tasked.modGroup g0 (someLanes 0x80000001)).modTeam g0 fun t => { t with tcount := 30 }) (by decide),
   ready_dec (s := (tasked.modGroup g0 (someLanes 0x80000001)).modTeam g0 fun t => { t with tcount := 31 }) (by decide),
   ready_dec (s := (tasked.modGroup g0 (someLanes 0x80000001)).modTeam g0 fun t => { t with tcount := 32 }) (by decide),
   ready_dec (s := tasked) (by decide)⟩

/-- Two teams of a cluster of one row and two columns, each with a deque. -/
def neighbours : State :=
  let t := (tasked.modTeam g0 fun t => { t with shapeC := 2 })
  t.modCore 1 fun k => { k with teams := k.teams.set none 0 ((t.team? g0).map fun t => t) }

/-- TaskWords: a request to the core beside, whose mailbox has one free entry, the last. -/
theorem witness_steal : ∃ w, Met (useSteal 0 0 1 1) fun v s =>
    (∃ i j, s.memberAt v.team (coreAt (dieOf v.r.core) 0 1) = some (i, j) ∧ s.memberWin v.team v.r.slot i j = .here w) ∧
      coreAt (dieOf v.r.core) 0 1 ≠ v.r.core ∧ w.bind.ten = true ∧ v.team.bind.ten = true ∧
      (liveGroup v s).steal = none ∧ (s.team? v.r).any Team.dequeRoom = true ∧
      ((List.range 8).find? fun k => (s.mail w.core w.bind k).isNone) = some 7 := by
  let b : BindRec := { placeBind with ten := true, tcap := 32, toff := 0x1000 }
  refine ⟨⟨1, 0, b⟩, ready_meets (s := (List.range 7).foldl (fun s k => s.scratchWrite 1 8 (mailAt b k) (2 ^ 63)) neighbours)
    (ok := fun v s => decide (s.memberAt v.team (coreAt (dieOf v.r.core) 0 1) = some (0, 1) ∧
      s.memberWin v.team v.r.slot 0 1 = .here ⟨1, 0, b⟩ ∧ coreAt (dieOf v.r.core) 0 1 ≠ v.r.core ∧ v.team.bind.ten = true ∧
      (liveGroup v s).steal = none ∧ (s.team? v.r).any Team.dequeRoom = true ∧
      ((List.range 8).find? fun k => (s.mail 1 b k).isNone) = some 7)) (by decide) fun v s h => ?_⟩
  obtain ⟨h1, h2, h3, h4, h5, h6, h7⟩ := of_decide_eq_true h
  exact ⟨⟨0, 1, h1, h2⟩, h3, rfl, h4, h5, h6, h7⟩

end Sys2Proof.Tests
end

