-- ==== Sys2Proof/Tests/UnitWitnesses.lean ====
section
/-! SUPPORT. States that meet the hypotheses of the statements about events of the engines and of command chains. -/

set_option maxRecDepth 20000

namespace Sys2Proof.Tests

open Sys2Proof.Machine

/-- A product word's work that DenseProduct speaks of: FX64 cells in the last two columns. -/
theorem witness_denseProduct : ∃ p : Product, p.a.r.mask = 0 ∧ p.t.col0 + p.t.cols ≤ 512 ∧ p.t.cell = 1 ∧ p.slices.length = 1 :=
  ⟨{ a := ⟨[], [], 0, ⟨6 + 1 * 2 ^ 28, 0⟩⟩, t := tileOf (480 * 2 ^ 9 + 15 * 2 ^ 18 + 15 * 2 ^ 27 + 7 * 2 ^ 50 + 1 * 2 ^ 54), tr := false, new := true, bf := .i8,
     ks := 64, slices := [[]] }, by decide, by decide, by decide, by decide⟩

/-- An engine command of the start's group. -/
def cmdOf (kind : CmdKind) (seq : Nat) (phase : Nat) : Cmd :=
  { kind := kind, g := g0, part := 0, hyp := 0, fret := some 1, chain := none, seq := seq, after := 0, since := 0, latched := false, also := [], phase := phase,
    work := .new, seen := [], vals := [], left := [], st := 0 }

/-- The core with those commands. -/
def commanded (cs : List Cmd) : State := startK fun k => { k with cmds := cs.map fun c => (c.seq, some c), seq := 10 }

/-- A copy from the window to global memory, one inside the window, a sort, a product, an ACC word. -/
def aCopy : CmdKind := .copy 0 0 0x10 0 ⟨true, tensor 1 0x2000 4 8 0 4⟩ (some ⟨true, tensor 0 0x1000 4 8 0 4⟩) none
/-- Inside the window. -/
def aMove : CmdKind := .copy 0 0 0x10 0 ⟨true, tensor 1 0x2000 4 8 0 4⟩ (some ⟨true, tensor 1 0x3000 4 8 0 4⟩) none
/-- A sort inside the window. -/
def aSort : CmdKind := .srt ⟨true, tensor 1 0x3000 4 16 11 4⟩ ⟨true, tensor 1 0x4000 2 16 11 4⟩ 0
/-- A product of the tile of the first rows. -/
def aProduct : CmdKind := .mmad false true false (15 * 2 ^ 18 + 15 * 2 ^ 27 + 3 * 2 ^ 50) ⟨bf16Record, 0⟩ 64 [[]]
/-- `accclr` of that tile. -/
def aClear : CmdKind := .acc 0 0 (15 * 2 ^ 18 + 15 * 2 ^ 27 + 3 * 2 ^ 50) 0 0 none []

/-- EngineEvents: a copy that may start and one that may not; commands that go on; a copy that may be taken up, and one that may not because
of a load before it. -/
theorem witness_commands :
    (let s := commanded [cmdOf aMove 3 1]
     (s.core 0).cmd? 3 = some (cmdOf aMove 3 1) ∧ s.mayStart (cmdOf aMove 3 1) = true ∧ s.ownedLines (cmdOf aMove 3 1) = []) ∧
    (commanded [cmdOf aMove 3 0]).mayStart (cmdOf aMove 3 0) = false ∧
    (cmdOf aMove 3 2).kind.unit = .request ∧ (cmdOf aSort 3 2).kind.unit = .sort ∧ (cmdOf aMove 3 1).phase ≤ 1 ∧
    (∃ t, (commanded [cmdOf aSort 3 2]).team? g0 = some t) ∧
    (let s := commanded [cmdOf aMove 3 0]
     (s.core 0).nextOf .request = some (cmdOf aMove 3 0) ∧ s.cmdReady (cmdOf aMove 3 0) = true ∧
       s.requestBlocked (cmdOf aMove 3 0) (s.takeupBytes (cmdOf aMove 3 0)) [] = false) ∧
    ((commanded [{ cmdOf aMove 3 0 with after := 1 }]).modGroup g0 fun x => { x with fences := [⟨6, 0, 0, 0, none, 0⟩] }).cmdReady
      { cmdOf aMove 3 0 with after := 1 } = false :=
  ⟨⟨by decide, by decide, by decide⟩, by decide, by decide, by decide, by decide, ⟨_, rfl⟩, ⟨by decide, by decide, by decide⟩, by decide⟩

/-- Whether a start ends by starting. -/
def begins : StartEnd → Bool
  | .waits _ => false
  | .starts _ => true

theorem begins_or (x : StartEnd) : (begins x = true → ∃ s, x = .starts s) ∧ (begins x = false → ∃ s, x = .waits s) := by
  cases x <;> simp [begins]

/-- A copy to global memory whose lines lie under the die's leaf. -/
def owning : State := (commanded [cmdOf aCopy 3 1]).modDie 0 fun d => { d with tcache := [⟨0, 0, 36, 0xF800000000000000, []⟩] }

/-- EngineEvents: a copy to global memory, whose line is owned through the die's leaf; the same with an earlier start, and without the leaf. -/
theorem witness_owned : owning.mayStart (cmdOf aCopy 3 1) = true ∧ owning.ownedLines (cmdOf aCopy 3 1) = [32] ∧
    (∃ s, owning.startRange (owning.engOf (cmdOf aCopy 3 1)) 0 [32] = .starts s) ∧
    (∃ x, (owning.engineLine (owning.engOf (cmdOf aCopy 3 1)) 32).value = some x ∧ placeOf x.pa = .hbm) ∧
    ∃ s, (commanded [cmdOf aCopy 3 1]).startRange ((commanded [cmdOf aCopy 3 1]).engOf (cmdOf aCopy 3 1)) 0 [32] = .waits s :=
  ⟨by decide, by decide, (begins_or _).1 (by decide), ⟨_, rfl, by decide⟩, (begins_or _).2 (by decide)⟩

/-- EngineEvents: a delivery to an object that is armed with one due, and one to an object that is not. -/
theorem witness_delivery :
    let s := (start.scratchWrite 0 1 48 1).scratchWrite 0 2 38 1
    (∃ t, (s.core 0).team? 0 = some t ∧ 32 + 32 ≤ t.bind.spsize ∧ s.stageState 0 (t.bind.spbase + 32) = 1 ∧ s.stagePend 0 (t.bind.spbase + 32) ≠ 0) ∧
      start.stageState 0 (0 + 32) ≠ 1 := ⟨⟨_, rfl, by decide, by decide, by decide⟩, by decide⟩

/-- EngineEvents: a lease that is granted, one that runs, one that ends. -/
theorem witness_leases :
    (let s := startK fun k => { k with leaseQ := [⟨0, 0, 256, 16384, none, none⟩] }
     (s.core 0).liveLease s.cycle = none ∧ (s.core 0).leaseQ.dropWhile (fun q => !(s.core 0).wanted q) = ⟨0, 0, 256, 16384, none, none⟩ :: []) ∧
    (let s := startK fun k => { k with lease := some ⟨0, 0, none, 0, 1, 1, none, none⟩ }
     (s.core 0).lease = some ⟨0, 0, none, 0, 1, 1, none, none⟩ ∧ s.cycle < 1) ∧
    (let s := startK fun k => { k with lease := some ⟨0, 0, none, 0, 1, 0, none, none⟩ }
     (s.core 0).lease = some ⟨0, 0, none, 0, 1, 0, none, none⟩ ∧ ¬s.cycle < 0) ∧
    (let s := startK fun k => { k with lease := some ⟨0, 0, none, 0, 1, 9, some 0, none⟩ }
     (s.core 0).lease = some ⟨0, 0, none, 0, 1, 9, some 0, none⟩ ∧ ¬s.cycle < 0) := by
  decide

/-- Two groups at the latch of their gang, with tile words `t0` and `t1`. -/
def gang (t1 : DWord) : State :=
  (((commanded [cmdOf aProduct 3 0, { cmdOf aProduct 4 0 with g := ⟨0, 0, 1⟩ }]).modTeam g0 fun t =>
    { t with groups := t.groups ++ [(1, some (placeGroup 0))] }).modGroup g0 fun x =>
      { x with latches := [⟨0, 7, 3, 3⟩] }).modGroup ⟨0, 0, 1⟩ fun x => { x with latches := [⟨0, t1, 3, 4⟩] }

/-- EngineEvents: a latch that is not complete, one of equal words, one of different words. -/
theorem witness_latches : start.latched 0 0 3 = none ∧
    (gang 7).latched 0 0 3 = some ((g0, ⟨0, 7, 3, 3⟩) :: [(⟨0, 0, 1⟩, ⟨0, 7, 3, 4⟩)]) ∧
    (gang 8).latched 0 0 3 = some ((g0, ⟨0, 7, 3, 3⟩) :: [(⟨0, 0, 1⟩, ⟨0, 8, 3, 4⟩)]) ∧
    (gangCmd ([(g0, (⟨0, 7, 3, 3⟩ : Latched)), (⟨0, 0, 1⟩, ⟨0, 7, 3, 4⟩)].filterMap fun k => ((gang 7).core 0).cmd? k.2.cmd)).isSome = true := by
  decide

/-- A closed gang of groups 0 and 1. -/
def closedGang : Cmd := { cmdOf aProduct 3 0 with latched := true, also := [(⟨0, 0, 1⟩, some 1, 4)] }

/-- EngineEvents: the command of a closed latch, and no such command. -/
theorem witness_latchClosed :
    let mine := fun c : Cmd => c.latched && c.g.slot = 0 && !c.also.isEmpty && (c.g.grp :: c.also.map fun k => k.1.grp) = gangList 3
    (start.core 0).commands.find? mine = none ∧ ((commanded [closedGang]).core 0).commands.find? mine = some closedGang ∧
      ((commanded [closedGang]).core 0).cmd? 3 = some closedGang := by
  decide

/-- EngineEvents: a matrix word that is taken up under its lease, with words left and as the last; one that completes, and one that is not
first. -/
theorem witness_matrixUnit :
    (∀ w ∈ [1, 2], let s := (commanded [cmdOf aProduct 3 0]).modCore 0 fun k => { k with lease := some ⟨0, 0, none, 0, w, 100, none, none⟩ }
     let s1 := s.enterRequests 0
     (s1.core 0).liveLease s1.cycle = some ⟨0, 0, none, 0, w, 100, none, none⟩ ∧ (s1.core 0).nextMatrix ⟨0, 0, none, 0, w, 100, none, none⟩ = some (cmdOf aProduct 3 0) ∧
       s1.matrixBlocked (cmdOf aProduct 3 0) = false) ∧
    (let s := (commanded [cmdOf aProduct 3 1, cmdOf aProduct 4 1]).modCore 0 fun k => { k with matrix := [3, 4] }
     (s.core 0).matrix.head? = some 3 ∧ (s.core 0).matrix.head? ≠ some 4 ∧ (s.core 0).cmd? 4 = some (cmdOf aProduct 4 1) ∧
       (cmdOf aProduct 3 1).readsOn = false) ∧
    { cmdOf aProduct 3 1 with chain := some 3 }.readsOn = true := by
  decide

/-- EngineEvents: an ACC word that is taken up, and one that waits for an earlier product of its rows. -/
theorem witness_accUnit :
    (let s := commanded [cmdOf aClear 3 0]
     (s.core 0).nextOf .port = some (cmdOf aClear 3 0) ∧ (s.core 0).cmd? 3 = some (cmdOf aClear 3 0) ∧
       (∀ d ∈ (s.core 0).commands, d.kind.unit = .port → d.phase = 0) ∧ s.portBlocked (cmdOf aClear 3 0) = false) ∧
    (let s := commanded [cmdOf aProduct 2 0, cmdOf aClear 3 0]
     (s.core 0).nextOf .port = some (cmdOf aClear 3 0) ∧ s.portBlocked (cmdOf aClear 3 0) = true) := by
  decide

/-! ## Chains -/

/-- The entry in the four words of a chain's place. -/
def entryOf (h a b c : DWord) : Entry := ⟨h, a, b, c⟩

/-- The core with chain 3 at byte 64, where that entry lies; the chain has captured two records and a reservation. -/
def chained (e : Entry) (counters : Tbl Nat) : State :=
  ((((startK fun k => { k with chains := [(3, some
      { g := g0, off := 64, q := [(0, some ⟨true, tensor 0 0x1000 4 8 0 4⟩), (1, some ⟨true, tensor 1 0x2000 4 8 0 4⟩)], res := [(1, some ⟨bf16Record, 0⟩)],
        hyp := 0, counters := counters, executed := 65535, status := 0, stopped := false, fret := some 1, after := 0, since := 0 })] }).scratchWrite 0 8 64
    e.head.toNat).scratchWrite 0 8 72 e.w1.toNat).scratchWrite 0 8 80 e.w2.toNat).scratchWrite 0 8 88 e.w3.toNat

/-- A chain that has reached an entry, checked. -/
def chainB (e : Entry) (s : State) : Bool :=
  match (s.core 0).chains.get none 3 with
  | none => false
  | some h => match s.team? h.g with
    | none => false
    | some t => !h.stopped && decide ((⟨0, 3, h, t⟩ : ChainAt).entry s = .inl e) && (!e.head.getLsbD 8 || !(s.core 0).chainBusy 3) &&
      s.issueDone h.g h.after h.since

theorem chain_of {e : Entry} {s : State} (h : chainB e s = true) : ∃ x, ChainReady 0 3 e.type x e s := by
  unfold chainB at h
  cases hc : (s.core 0).chains.get none 3 with
  | none => simp [hc] at h
  | some c =>
    cases ht : s.team? c.g with
    | none => simp [hc, ht] at h
    | some t =>
      simp only [hc, ht, Bool.and_eq_true, Bool.or_eq_true, Bool.not_eq_true', decide_eq_true_eq] at h
      obtain ⟨⟨⟨h1, h2⟩, h3⟩, h4⟩ := h
      refine ⟨⟨0, 3, c, t⟩, ⟨rfl, rfl⟩, hc, ht, h1, h2, rfl, fun ho => ?_, h4⟩
      rcases h3 with h3 | h3
      · rw [ho] at h3; cases h3
      · exact h3

/-- ChainEvents: entries of every type, the last that a chain may execute. -/
theorem witness_chains : ∀ e ∈ [entryOf 0 0 0 0, entryOf 0x301 0x10 0 0, entryOf 0x102 0x700000001 0 0, entryOf 0x3 0x10 0x100000 0,
    entryOf 0x104 (15 * 2 ^ 18 + 15 * 2 ^ 27 + 3 * 2 ^ 50) 0 (1 + 32 * 2 ^ 4), entryOf (0x5 + 7 * 2 ^ 32) 0 (2 ^ 63 + 4) (2 ^ 8 + 2 ^ 9 + 2 ^ 4),
    entryOf 0x6 (3 * 2 ^ 20) 32 0, entryOf (0x7 + 5 * 2 ^ 32) (2 ^ 28 + 0xFFFFC) 0 0],
    ∃ x, ChainReady 0 3 e.type x e (chained e []) := by
  intro e he
  have h := List.all_eq_true.mp (by decide : ([entryOf 0 0 0 0, entryOf 0x301 0x10 0 0, entryOf 0x102 0x700000001 0 0, entryOf 0x3 0x10 0x100000 0,
    entryOf 0x104 (15 * 2 ^ 18 + 15 * 2 ^ 27 + 3 * 2 ^ 50) 0 (1 + 32 * 2 ^ 4), entryOf (0x5 + 7 * 2 ^ 32) 0 (2 ^ 63 + 4) (2 ^ 8 + 2 ^ 9 + 2 ^ 4),
    entryOf 0x6 (3 * 2 ^ 20) 32 0, entryOf (0x7 + 5 * 2 ^ 32) (2 ^ 28 + 0xFFFFC) 0 0].all fun e => chainB e (chained e [])) = true) e he
  exact chain_of h

/-- ChainEvents: the data entry's checks pass, and its records are in place; a full engine; one that fails; the bytes that an entry reads. -/
theorem witness_chainData :
    let s := chained (entryOf 0x301 0x10 0 0) []
    ∀ h t, (s.core 0).chains.get none 3 = some h → s.team? h.g = some t →
      copyTrap 1 0x10 0 ⟨h.q, h.res, t.bind, 0⟩ = none ∧ placed (h.q.get none 0) = true ∧ placed (h.q.get none 1) = true ∧
        (s.core 0).requests.length < 16 ∧ copyTrap 1 0x11 0 ⟨h.q, [], t.bind, 0⟩ = none ∧ copyTrap 1 0x20 0 ⟨h.q, h.res, t.bind, 0⟩ ≠ none ∧
        (⟨0, 3, h, t⟩ : ChainAt).read s 4 0xFFFFC = .inl 0 ∧ (⟨0, 3, h, t⟩ : ChainAt).read s 1 0 = .inl 0 ∧
        s.windowOk ⟨0, 0, t.bind⟩ 0xFFFFC 4 = true ∧ s.scratchPoisoned 0 4 0xFFFFC = false ∧ (s.core 0).chainBusy 3 = false := by
  intro s h t hh ht
  have e1 : (s.core 0).chains.get none 3 = some
      { g := g0, off := 64, q := [(0, some ⟨true, tensor 0 0x1000 4 8 0 4⟩), (1, some ⟨true, tensor 1 0x2000 4 8 0 4⟩)], res := [(1, some ⟨bf16Record, 0⟩)],
        hyp := 0, counters := [], executed := 65535, status := 0, stopped := false, fret := some 1, after := 0, since := 0 } := by decide
  rw [e1] at hh
  cases hh
  have e2 : s.team? g0 = (start.team? g0) := by decide
  have e3 : start.team? g0 = some (placeTeam 0x34000000) := by decide
  rw [e2, e3] at ht
  cases ht
  decide

/-- ChainEvents: a mask-walk of one set bit; the chain is over when it has stopped and no command of it is left. -/
theorem witness_chainEnds :
    (let s := startK fun k => { k with chains := [(3, some
      { g := g0, off := 64, q := [], res := [], hyp := 0, counters := [], executed := 1, status := 1, stopped := true, fret := some 1, after := 0, since := 0 })] }
     (s.core 0).chainBusy 3 = false) ∧
    ((commanded [{ cmdOf aMove 3 0 with chain := some 3 }]).core 0).chainBusy 3 = true ∧
    16 ≤ ((commanded ((List.range 16).map fun n => cmdOf aMove n 0)).core 0).requests.length := by decide

end Sys2Proof.Tests
end

