-- ==== Sys2Proof/Tests/QueueingWitnesses.lean ====
section
/-! SUPPORT. States that meet the hypotheses of the statements about launch queues, slots and communicators. -/

set_option maxRecDepth 20000

namespace Sys2Proof.Tests

open Sys2Proof.Machine

/-! ## Launch queues -/

/-- The module open, partition 0 with rings of 16 packets at 0x100000 and one unit, and packet `x` in the last slot of queue 15. -/
def packeted (x : BitVec 512) (q : LQueue) : State :=
  { (opened.modPart 0 fun p => { p with lqBase := 0x100000, lqn := 4, queues := [(15, q)] }) with
    modl := { opened.modl with featDone := true }
    hbm := opened.hbm.write 64 (0x100000 + 64 * (16 * 15 + 15)) x.toNat }
where
  opened : State := { start with modl := { Module.reset with bringup := 8 } }

/-- A queue whose CONS has come to its last slot and whose PROD is one ahead. -/
def oneAhead : LQueue := { LQueue.empty with prod := 0x10, cons := 0xF }

theorem packet_of {x : BitVec 512} {e : Instr} (h : (packeted x oneAhead).part? 0 ≠ none ∧
    (∀ p, (packeted x oneAhead).part? 0 = some p → p.resetting = false ∧ (p.lq 15).mayTake = true ∧ (packeted x oneAhead).headPacket p 15 = x) ∧
    packetEvent 0 15 x = e) : ∃ p, PacketAt 0 15 e p x (packeted x oneAhead) := by
  obtain ⟨h1, h2, h3⟩ := h
  cases hp : (packeted x oneAhead).part? 0 with
  | none => exact absurd hp h1
  | some p =>
    obtain ⟨a, b, c⟩ := h2 p hp
    exact ⟨p, hp, a, by decide, b, c, h3⟩

/-- The part of `packet_of` that computes. -/
def headB (x : BitVec 512) : Bool :=
  ((packeted x oneAhead).part? 0).any fun p => !p.resetting && (p.lq 15).mayTake && decide ((packeted x oneAhead).headPacket p 15 = x)

theorem head_of {x : BitVec 512} (h : headB x = true) : (packeted x oneAhead).part? 0 ≠ none ∧
    ∀ p, (packeted x oneAhead).part? 0 = some p → p.resetting = false ∧ (p.lq 15).mayTake = true ∧ (packeted x oneAhead).headPacket p 15 = x := by
  unfold headB at h
  cases hp : (packeted x oneAhead).part? 0 with
  | none => simp [hp] at h
  | some p =>
    simp only [hp, Option.any_some, Bool.and_eq_true, Bool.not_eq_true', decide_eq_true_eq] at h
    refine ⟨by simp, fun q hq => ?_⟩
    cases hq
    exact ⟨h.1.1, h.1.2, h.2⟩

/-- PacketEvents and CollectiveEvents: a packet of every type at the head of its queue, as its rules want it. -/
theorem witness_packets :
    (∃ p, PacketAt 0 15 (.pktLaunch 0 15) p (BitVec.ofNat 512 (1 + 1 * 2 ^ 192)) (packeted (BitVec.ofNat 512 (1 + 1 * 2 ^ 192)) oneAhead)) ∧
    (∃ p, PacketAt 0 15 (.pktDependenceWait 0 15) p (BitVec.ofNat 512 (2 + 8 * 2 ^ 64 + 1 * 2 ^ 192)) (packeted (BitVec.ofNat 512 (2 + 8 * 2 ^ 64 + 1 * 2 ^ 192)) oneAhead)) ∧
    (∃ p, PacketAt 0 15 (.pktSetDeterminism 0 15) p (BitVec.ofNat 512 (3 + 1 * 2 ^ 64)) (packeted (BitVec.ofNat 512 (3 + 1 * 2 ^ 64)) oneAhead)) ∧
    (∃ p, PacketAt 0 15 (.pktSetNbv 0 15) p (BitVec.ofNat 512 (4 + 1 * 2 ^ 64)) (packeted (BitVec.ofNat 512 (4 + 1 * 2 ^ 64)) oneAhead)) ∧
    (∃ p, PacketAt 0 15 (.pktCommCreate 0 15) p (BitVec.ofNat 512 (5 + 0x200000 * 2 ^ 64)) (packeted (BitVec.ofNat 512 (5 + 0x200000 * 2 ^ 64)) oneAhead)) ∧
    (∃ p, PacketAt 0 15 (.pktCommRebuild 0 15) p (BitVec.ofNat 512 (0x105 + 0x200000 * 2 ^ 64)) (packeted (BitVec.ofNat 512 (0x105 + 0x200000 * 2 ^ 64)) oneAhead)) ∧
    (∃ p, PacketAt 0 15 (.pktEnergyEstimate 0 15) p (BitVec.ofNat 512 (6 + 1 * 2 ^ 96)) (packeted (BitVec.ofNat 512 (6 + 1 * 2 ^ 96)) oneAhead)) ∧
    ∃ p, PacketAt 0 15 (.pktSpillGrant 0 15) p (BitVec.ofNat 512 (7 + 6 * 2 ^ 64 + 1 * 2 ^ 127)) (packeted (BitVec.ofNat 512 (7 + 6 * 2 ^ 64 + 1 * 2 ^ 127)) oneAhead) :=
  have k : ∀ x e, headB x = true → packetEvent 0 15 x = e → ∃ p, PacketAt 0 15 e p x (packeted x oneAhead) :=
    fun _ _ h he => packet_of ⟨(head_of h).1, (head_of h).2, he⟩
  ⟨k _ _ (by decide) rfl, k _ _ (by decide) rfl, k _ _ (by decide) rfl, k _ _ (by decide) rfl, k _ _ (by decide) rfl, k _ _ (by decide) rfl,
   k _ _ (by decide) rfl, k _ _ (by decide) rfl⟩

/-- PacketEvents: the fields of those packets, and of one that no rule accepts. -/
theorem witness_packetFields : launchMalformed (BitVec.ofNat 512 (1 + 1 * 2 ^ 192)) = false ∧ launchMalformed (BitVec.ofNat 512 1) = true ∧
    fieldsOnly (BitVec.ofNat 512 (2 + 8 * 2 ^ 64 + 1 * 2 ^ 192)) [(64, 56), (128, 64), (192, 1)] ∧
    fieldsOnly (BitVec.ofNat 512 (3 + 1 * 2 ^ 64)) [(8, 1), (64, 2)] ∧ fieldsOnly (BitVec.ofNat 512 (4 + 1 * 2 ^ 64)) [(64, 8)] ∧
    field (BitVec.ofNat 512 (4 + 2 * 2 ^ 64)) 64 8 ≠ 1 ∧ fieldsOnly (BitVec.ofNat 512 (6 + 1 * 2 ^ 96)) [(64, 20), (96, 16)] ∧
    field (BitVec.ofNat 512 (6 + 1 * 2 ^ 96)) 96 16 ≠ 0 ∧ grantExtent (packeted (BitVec.ofNat 512 (7 + 6 * 2 ^ 64 + 1 * 2 ^ 127)) oneAhead).allExtents placePart
      (BitVec.ofNat 512 (7 + 6 * 2 ^ 64 + 1 * 2 ^ 127)) = some ⟨0, 6⟩ ∧
    field (BitVec.ofNat 512 (7 + 6 * 2 ^ 64 + 1 * 2 ^ 127)) 127 1 = 1 ∧ fieldsOnly (BitVec.ofNat 512 (5 + 0x200000 * 2 ^ 64)) [(8, 1), (64, 56)] :=
  ⟨by decide, by decide, by unfold fieldsOnly; decide, by unfold fieldsOnly; decide, by unfold fieldsOnly; decide, by decide, by unfold fieldsOnly; decide,
   by decide, by decide, by decide, by unfold fieldsOnly; decide⟩

/-- PacketEvents: a doorbell that fills the ring to its last slot, one that goes beyond, one that is lower. -/
theorem witness_doorbells : let s := packeted 0 oneAhead
    s.open_ = true ∧ (∀ p, s.part? 0 = some p →
      ((p.lq 15).count ≤ ((0x1F : BitVec 32) - (p.lq 15).cons).toNat ∧ ((0x1F : BitVec 32) - (p.lq 15).cons).toNat ≤ 2 ^ p.lqn) ∧
      2 ^ p.lqn < ((0x20 : BitVec 32) - (p.lq 15).cons).toNat ∧ ((0xF : BitVec 32) - (p.lq 15).cons).toNat < (p.lq 15).count) := by
  refine ⟨by decide, fun p hp => ?_⟩
  have e : (packeted 0 oneAhead).part? 0 = some { placePart with lqBase := 0x100000, lqn := 4, queues := [(15, oneAhead)] } := by decide
  rw [e] at hp
  cases hp
  decide

/-- PacketEvents: a dependence that holds and one that does not. -/
theorem witness_dependences : let s := packeted 0 { oneAhead with depWait := some (0x100, 1, true) }
    (∃ p, s.part? 0 = some p ∧ (p.lq 15).depWait = some (0x100, 1, true)) ∧ s.rootRead 0 8 0x100 = some 0 ∧ ¬((1 : DWord).toNat ≤ 0) ∧
      (0 : DWord).toNat ≤ 0 :=
  ⟨⟨_, rfl, rfl⟩, by decide, by decide, by decide⟩

/-! ## Launches -/

/-- A kernel image of one core. -/
def anImage : KImage :=
  { codeOff := 0, codeLen := 12, lanes := 32, shapeR := 1, shapeC := 1, scratch := 4096, ob := 0, accRows := 64, queues := [], task := none,
    imgOff := 0, imgLen := 12, seed := 0, nbv := 1, det := 0, mode := 0, idem := false, epri := 63, relocs := [] }

/-- PacketEvents: an image that a launch packet may use, one that is refused; the budget that is met and not met; a free launch. -/
theorem witness_launches : launchRefused placePart LQueue.empty (BitVec.ofNat 512 (1 + 1 * 2 ^ 192)) anImage = false ∧
    launchRefused placePart LQueue.empty (BitVec.ofNat 512 (1 + 1 * 2 ^ 192)) { anImage with lanes := 1025 } = true ∧
    (0 : Nat) < 1 + (LQueue.empty.estimate (BitVec.ofNat 512 (1 + 1 * 2 ^ 192))).1 ∧ (∀ e ∈ anImage.relocs, False) ∧
    (packeted 0 oneAhead).freeLaunch = some 0 := by
  refine ⟨by decide, by decide, by decide, by decide, ?_⟩
  unfold State.freeLaunch
  rw [show (65536 : Nat) = 65535 + 1 from rfl, List.range_succ_eq_map, List.find?_cons]
  simp only [show ((packeted 0 oneAhead).launch? 0).isNone = true from by decide]

/-- A launch of one cluster. -/
def aLaunch (clusters : List Cluster) (next : Nat) : Launch :=
  { part := 0, queue := 15, tag := 0xFFFFFFFF, kimg := 0, image := anImage, seed := 0, mode := 0, nclus := 1, arg0 := 0, arg1 := 0, compl := 0x100,
    stealto := 65536, dieMask := 0, hinted := false, level := 1, eest := 0, nextCluster := next, clusters := clusters, copies := [], doneWords := [],
    status := 0 }

/-- A launch in a partition of one free unit. -/
def waiting : State := { (start.modPart 0 fun p => { p with order := [65535], units := [1] }) with launches := [(65535, some (aLaunch [] 0))] }

/-- The first number of the sequence that chooses a launch's places. -/
def firstDraw (l : Launch) : DWord := mix64 l.seed 0x504C4143455F4B45 (BitVec.ofNat 64 (l.nextCluster * 65536 + 0))

/-- At a level above 0 the first place of the sequence is taken where it has room. -/
theorem chooses (s : State) (l : Launch) (list : List (Nat × Nat × Nat)) (hl : l.level ≠ 0)
    (h : (list[(firstDraw l).toNat % list.length]?).any (s.roomAt l.image) = true) : ∃ o, s.chooseOrigin l list = some o := by
  cases e : list[(firstDraw l).toNat % list.length]? with
  | none => rw [e] at h; cases h
  | some o =>
    rw [e] at h
    refine ⟨o, ?_⟩
    unfold State.chooseOrigin
    rw [if_neg hl, show (65536 : Nat) = 65535 + 1 from rfl, List.range_succ_eq_map, List.findSome?_cons]
    unfold firstDraw at e
    have h' : s.roomAt l.image o = true := h
    simp only [e, h', if_true]

/-- PacketEvents: the cluster of a launch that can be placed at level 1; a launch that is over and one that is not. -/
theorem witness_clusters :
    (∃ p, waiting.launch? 65535 = some (aLaunch [] 0) ∧ waiting.part? 0 = some p ∧ p.order.head? = some 65535 ∧ p.resetting = false ∧
       (∃ o, waiting.chooseOrigin (aLaunch [] 0) (p.canonical 1 1 none) = some o) ∧ waiting.launchOver 65535 (aLaunch [] 0) = false) ∧
    (let s : State := { start with launches := [(65535, some (aLaunch [⟨0, 0, 0, 0, 0, [(0, (2, 0, 0))]⟩] 1))] }
     s.launchOver 65535 (aLaunch [⟨0, 0, 0, 0, 0, [(0, (2, 0, 0))]⟩] 1) = true ∧ ∀ d, d < 12 → s.dieQuiet d = true) :=
  ⟨⟨_, by decide, rfl, rfl, rfl, chooses waiting (aLaunch [] 0) _ (by decide) (by decide), by decide⟩, by decide, by decide⟩

/-! ## Slots -/

/-- A bind record: partition 0, 32 lanes, the window's last 4 KB, the last 64 rows, a code image of 12 bytes. -/
def aRecord : Nat := 1 + 1 * 2 ^ 16 + 0x300000 * 2 ^ 64 + 0xFF000 * 2 ^ 128 + 4096 * 2 ^ 148 + 7 * 2 ^ 222 + 1 * 2 ^ 228 + 31 * 2 ^ 615 + 12 * 2 ^ 832

/-- The start with that record, or one that is not valid, where SLOTSRC of core 1 names it. -/
def binding (x : Nat) : State := { (start.modCore 1 fun k => { k with slotSrc := 0x40000 }) with hbm := start.hbm.write 128 0x40000 x }

/-- SlotEvents: binds into the last slot of core 1. -/
theorem witness_binds : ∀ x ∈ [(aRecord, false), (aRecord - 1, true)], let s := binding x.1
    (s.core 1).team? 127 = none ∧ firstWaiting (s.waiting 1) = none ∧ (s.core 1).slotSrc ≠ 0 ∧ (s.core 1).preAct.getLsbD 2 = false ∧
      s.bindRefused 1 (s.recordAt 1) = x.2 := by
  have w : ∀ x, firstWaiting ((binding x).waiting 1) = none := fun x => rfl
  have a : ∀ x ∈ [(aRecord, false), (aRecord - 1, true)], ((binding x.1).core 1).team? 127 = none ∧ ((binding x.1).core 1).slotSrc ≠ 0 ∧
      ((binding x.1).core 1).preAct.getLsbD 2 = false ∧ (binding x.1).bindRefused 1 ((binding x.1).recordAt 1) = x.2 := by decide
  intro x hx
  obtain ⟨h1, h2, h3, h4⟩ := a x hx
  exact ⟨h1, w x.1, h2, h3, h4⟩

/-- SlotEvents: a resident team; slots that are given up, busy and idle; a group that is over with everything clear and without. -/
theorem witness_releases :
    (∃ t, (start.core 0).team? 0 = some t) ∧
    (let s := startG fun x => { x with released := true }
     (∃ t, (s.core 0).team? 0 = some t ∧ ∀ gx ∈ t.groups, ∀ x, gx.2 = some x → x.released = true) ∧ (s.core 0).slotBusy 0 = false) ∧
    ((commanded [cmdOf aMove 3 0]).core 0).slotBusy 0 = true ∧
    (∃ x, (startG fun x => { x with exited := BitVec.allOnes 32, frontier := [] }).group? g0 = some x ∧ x.released = false ∧
      x.exited = BitVec.allOnes 32 ∧ x.spent = true) ∧
    ∃ x, (startG fun x => { x with exited := BitVec.allOnes 32, frontier := [], frets := [(11, ⟨1, 0⟩)] }).group? g0 = some x ∧ x.released = false ∧
      x.exited = BitVec.allOnes 32 ∧ x.spent = false :=
  ⟨⟨_, rfl⟩, ⟨⟨_, rfl, fun gx h x hx => by
      have e : gx = (0, some { placeGroup 0x34000000 with released := true }) := List.mem_singleton.mp h
      rw [e] at hx
      cases hx
      rfl⟩, by decide⟩, by decide, ⟨_, rfl, rfl, rfl, by decide⟩, ⟨_, rfl, rfl, rfl, by decide⟩⟩

/-- SlotEvents: pre-emption that saves, flushes, drains. -/
theorem witness_saves :
    (∃ t, (start.core 0).team? 0 = some t ∧ t.save = .none ∧ t.over = false ∧ (∀ gx ∈ t.groups, ∀ x, gx.2 = some x → x.midWord = false) ∧
      start.drains 0 t = false ∧ start.flushes 0 t = false) ∧
    (let s := (startT fun t => { t with idemKernel := true }).modDie 0 fun d => { d with preCtl := 0xFFFFFFFF }
     ∃ t, (s.core 0).team? 0 = some t ∧ s.drains 0 t = false ∧ s.flushes 0 t = true) ∧
    let s : State := { (start.modDie 0 fun d => { d with preCtl := 0xFFFFFFFFFFFFFFFF }) with launches := [(0, some { aLaunch [] 0 with doneWords := [(0, 0)] })] }
    ∃ t, (s.core 0).team? 0 = some t ∧ s.drains 0 t = true := by
  refine ⟨⟨_, rfl, rfl, by decide, fun gx h x hx => ?_, by decide, by decide⟩, ⟨_, rfl, by decide, by decide⟩, ⟨_, rfl, by decide⟩⟩
  have e : gx = (0, some (placeGroup 0x34000000)) := List.mem_singleton.mp h
  rw [e] at hx
  cases hx
  rfl

/-- SlotEvents: a drain whose time is not over and one whose time is; a save at rest and one that is not. -/
theorem witness_drains :
    (∃ t, ((startT fun t => { t with save := .draining, drainEnd := 1 }).core 0).team? 0 = some t ∧ t.save = .draining ∧ t.over = false ∧
      start.cycle < t.drainEnd) ∧
    (∃ t, ((startT fun t => { t with save := .draining, drainEnd := 0 }).core 0).team? 0 = some t ∧ t.save = .draining ∧ t.over = false ∧
      t.drainEnd ≤ start.cycle) ∧
    (let s := startT fun t => { t with save := .saving }
     ∃ t, (s.core 0).team? 0 = some t ∧ t.save = .saving ∧ t.over = false ∧ s.atRest 0 0 t = true) ∧
    let s := (commanded [cmdOf aMove 3 2]).modTeam g0 fun t => { t with save := .saving }
    ∃ t, (s.core 0).team? 0 = some t ∧ t.save = .saving ∧ t.over = false ∧ s.atRest 0 0 t = false :=
  ⟨⟨_, rfl, rfl, by decide, by decide⟩, ⟨_, rfl, rfl, by decide, by decide⟩, ⟨_, rfl, rfl, by decide, by decide⟩, ⟨_, rfl, rfl, by decide, by decide⟩⟩

end Sys2Proof.Tests
end

