-- ==== Sys2Proof/Tests/RestWitnesses.lean ====
section
/-! SUPPORT. States that meet the hypotheses of the statements about collectives, partitions, queues, resolutions and the step. -/

set_option maxRecDepth 20000

namespace Sys2Proof.Tests

open Sys2Proof.Machine

/-! ## Collectives -/

/-- A communicator of one member, with its control block at 0x40000, its rings at 0x50000 and 0x60000, of 16 entries. -/
def aComm (cmd : Option (BitVec 512)) (phase : Nat) : Comm :=
  { part := 0, id := 5, self := 0, hdie := 0, dci := true, ctl := 0x40000, ring := 0x50000, compl := 0x60000, lring := 4,
    members := [(0, 4096, 1, 0)], broken := false, cmd := cmd, phase := phase, nodes := [], result := none, ready := true,
    work := ⟨[⟨0xE01, 0x70080, 0, false⟩], [], [(0xE00, some (0, 0))], [], []⟩ }

/-- PROD and CONS of its control block. -/
def collective (c : Comm) (prod cons : Nat) : State :=
  { start with comms := [c], hbm := (start.hbm.write 8 0x40000 prod).write 8 0x40008 cons }

/-- A command of a kind from 0x70000 to 0x70080. -/
def aCommand (kind len : Nat) : BitVec 512 := BitVec.ofNat 512 (kind + 0x70000 * 2 ^ 64 + 0x70080 * 2 ^ 128 + len * 2 ^ 192)

/-- What an engine's write ends with. -/
def endOfPut : PutEnd → Nat
  | .more _ => 0
  | .done _ _ => 1

/-- Each end is of its kind. -/
theorem put_ends {x : PutEnd} : (endOfPut x = 0 → ∃ s, x = .more s) ∧ (endOfPut x = 1 → ∃ s w, x = .done s w) := by
  cases x <;> simp [endOfPut]

/-- CollectiveEvents: PROD one ahead, equal, and 17 ahead; a communicator that may not take up a command yet. -/
theorem witness_collProd : (∀ n ∈ [0, 1, 17], let s := collective (aComm none 0) n 0
      s.comm? 0 = some (aComm none 0) ∧ s.commBroken (aComm none 0) = false ∧ (s.commProd (aComm none 0) - s.commCons (aComm none 0)).toNat = n) ∧
    ((7 : DWord) ≠ (collective (aComm none 0) 1 0).commCons (aComm none 0)) ∧
    (collective (aComm none 0) 1 0).commCommand (aComm none 0) 0 = some 0 ∧
    ({ aComm none 0 with ready := false } : Comm).ready = false := by decide

/-- CollectiveEvents: a command that breaks a rule, in phase 0; one that has read its source, in phase 1, before and after it has written its
line; its end, in phase 2. -/
theorem witness_collCommands :
    (CommAt 0 (aComm (some (aCommand 0 0)) 0) (aCommand 0 0) (collective (aComm (some (aCommand 0 0)) 0) 1 0) ∧
      commMalformed (aComm (some (aCommand 0 0)) 0) (aCommand 0 0) = true ∧ commKind (aCommand 0 0) = 0) ∧
    (let c := aComm (some (aCommand 2 1)) 1
     let s := collective c 1 0
     CommAt 0 c (aCommand 2 1) s ∧ (c.sources (aCommand 2 1)).map (fun a => s.engineRead (c.eng 0) (.glob a) 4) = [(0, false)].map .got ∧
       c.destinations (aCommand 2 1) ≠ [] ∧
       (List.range (commLen (aCommand 2 1))).map (fun k => c.resultAt (aCommand 2 1) [(0, false)] k) = [(0 : Word)].map some ∧
       .failed ∉ (putLines ((c.destinations (aCommand 2 1)).map .glob)).map (s.engineStore (c.eng 0))) ∧
    (∀ wrote ∈ [[], [0xE01]], let c := { aComm (some (aCommand 2 1)) 1 with work := { (aComm none 1).work with wrote := wrote } }
      endOfPut ((collective c 1 0).engineWrite (c.eng 0) 4 ((List.zip (c.destinations (aCommand 2 1)) (List.zip [(0 : Word)] (List.range 1))).map
        fun d => (Loc.glob d.1, some (d.2.1.toNat, c.poisonedAt (aCommand 2 1) [(0, false)] d.2.2)))) = wrote.length) ∧
    (let c := aComm (some (aCommand 2 1)) 2
     CommAt 0 c (aCommand 2 1) (collective c 1 0) ∧ ((collective c 1 0).leaveApplied (c.eng 0)).owesWrites (c.eng 0) = false) :=
  ⟨⟨⟨rfl, rfl, rfl, by decide⟩, by decide, by decide⟩, ⟨⟨rfl, rfl, rfl, by decide⟩, by decide, by decide, by decide, by decide⟩,
    by decide, ⟨rfl, rfl, rfl, by decide⟩, by decide⟩

/-- CollectiveEvents: the slot tree of one module with three slots used; nodes that are received, and one that is none; ends of commands. -/
theorem witness_collNodes :
    ((aComm none 0).nodes = [] ∧ (aComm none 0).mine = (4096, 1, 0)) ∧
    (aComm (some (aCommand 0 1)) 1).received 0 0 4096 = none ∧
    (0 < commLen (aCommand 0 1) ∧ 4096 ≤ 4096 ∧ ∃ j n, j ≤ 12 ∧ 0 = n * 2 ^ j ∧ 4096 = 0 + 2 ^ j) ∧
    (¬(1 < commLen (aCommand 0 1))) ∧
    (collective { aComm (some (aCommand 0 1)) 2 with result := some 0 } 1 0).commBroken { aComm (some (aCommand 0 1)) 2 with result := some 0 } = false ∧
    (collective { aComm none 0 with broken := true } 16 0).commBroken { aComm none 0 with broken := true } = true ∧
    ((collective (aComm none 0) 16 0).commProd (aComm none 0) - (collective (aComm none 0) 16 0).commCons (aComm none 0)).toNat ≤ 2 ^ 4 :=
  ⟨⟨rfl, rfl⟩, by decide, ⟨by decide, by decide, 12, 0, by decide, by decide, by decide⟩, by decide, by decide, by decide, by decide⟩

/-- CollectiveEvents: a descriptor that is read and well formed, whose id is new and in use; one that is not. -/
theorem witness_descriptors :
    let x : BitVec 512 := BitVec.ofNat 512 (0x200000 * 2 ^ 64)
    let d : Nat := 1 + 5 * 2 ^ 48 + 1 * 2 ^ 35 + 0x40000 * 2 ^ 64 + 0x50000 * 2 ^ 128 + 0x60000 * 2 ^ 192 + 4 * 2 ^ 256 + 4096 * 2 ^ (512 + 26)
    let s : State := { start with hbm := start.hbm.write 72 0x200000 d }
    (∃ c, s.descriptor 0 x = some c ∧ s.commById c.id = none ∧ (collective (aComm none 0) 0 0).commById c.id = some 0) ∧
      start.descriptor 0 x = none := by
  refine ⟨⟨commOf 0 (1 + 5 * 2 ^ 48 + 1 * 2 ^ 35 + 0x40000 * 2 ^ 64 + 0x50000 * 2 ^ 128 + 0x60000 * 2 ^ 192 + 4 * 2 ^ 256 + 4096 * 2 ^ (512 + 26)), by decide, by decide, by decide⟩,
    by decide⟩

/-! ## Partitions -/

/-- PartitionEvents: sleeps that last and end; `regroup` with and without every group; a clock step; the watchdog; the reset. -/
theorem witness_partitions :
    (∃ x, (startG fun x => { x with wait := .sleep 1 }).group? g0 = some x ∧ x.wait = .sleep 1 ∧ start.cycle < 1) ∧
    (∃ x, (startG fun x => { x with wait := .sleep 0 }).group? g0 = some x ∧ x.wait = .sleep 0 ∧ 0 ≤ start.cycle) ∧
    (∃ t, ((startT fun t => { t with regroupKeys := [(0, 1)] }).core 0).team? 0 = some t ∧ t.regroupKeys ≠ [] ∧ t.allArrived = false) ∧
    (∃ t, (((startT fun t => { t with regroupKeys := [(0, 1)] }).modGroup g0 fun x => { x with wait := .regroup }).core 0).team? 0 = some t ∧
      t.regroupKeys ≠ [] ∧ t.allArrived = true) ∧
    (∃ p, (startP fun p => { p with clockNext := some 26 }).part? 0 = some p ∧ p.clockNext = some 26) ∧
    (∃ p, start.part? 0 = some p ∧ p.wdog = 0 ∧ p.resetting = false) ∧ (∃ p, (startP fun p => { p with wdog := 1 }).part? 0 = some p ∧ p.wdog ≠ 0) ∧
    (∃ p, (startP fun p => { p with resetting := true }).part? 0 = some p ∧ p.resetting = true ∧
      (startP fun p => { p with resetting := true }).partTeams 0 ≠ []) ∧
    ∃ p, ((startP fun p => { p with resetting := true }).modCore 0 fun k => { k with teams := [] }).part? 0 = some p ∧ p.resetting = true ∧
      ((startP fun p => { p with resetting := true }).modCore 0 fun k => { k with teams := [] }).partTeams 0 = [] := by
  refine ⟨⟨_, rfl, rfl, by decide⟩, ⟨_, rfl, rfl, by decide⟩, ⟨_, rfl, by decide, by decide⟩, ⟨_, rfl, by decide, by decide⟩, ⟨_, rfl, rfl⟩, ⟨_, rfl, rfl, rfl⟩,
    ⟨_, rfl, by decide⟩, ⟨_, rfl, rfl, by decide⟩, ⟨_, rfl, rfl, by decide⟩⟩

/-- PartitionEvents: a threshold that is disarmed; one whose counter is beyond it after having been on the other side; one that has not. -/
theorem witness_thresholds :
    ((start.die 0).threshold 7).ctl.getLsbD 63 = false ∧
    (let th : Threshold := ⟨1#64 <<< 63 ||| 1#64 <<< 62 ||| 0x3000, 1, true⟩
     let s := start.modDie 0 fun d => { d with thresholds := [(7, th)] }
     (s.die 0).threshold 7 = th ∧ selIndex 0x3000 < kindSize (selKind 0x3000) ∧ (s.sample 0x3000).counter 0x3000 < th.val.toNat ∧ th.was = true) ∧
    (⟨1#64 <<< 63 ||| 0x3000, 0, false⟩ : Threshold).was = false := by decide

/-! ## Queues of a core -/

/-- The start's group with a push on its way to queue 15. -/
def pushing (q : QDesc) (tries : Bool) : State := (queued q).modGroup g0 fun x => { x with push := some ⟨0, 15, [1, 2], tries, none⟩, wait := .push }

/-- QueueEvents: a push that fills the queue; one that does not fit, one behind another; an owner that is saved. -/
theorem witness_queueArrivals :
    (∃ x, PushAt g0 x ⟨0, 15, [1, 2], false, none⟩ (queue 0xFFFFFFF0 0x2E [] []) (pushing (queue 0xFFFFFFF0 0x2E [] []) false)) ∧
    ((0x2E : BitVec 32) - 0xFFFFFFF0).toNat + 2 ≤ 2 ^ 6 ∧ ¬((0x2F : BitVec 32) - 0xFFFFFFF0).toNat + 2 ≤ 2 ^ 6 ∧
    (∃ x, PushAt g0 x ⟨0, 15, [1, 2], true, none⟩ { queue 0 0 [] [] with refused := [⟨0, 0, 1⟩] } (pushing { queue 0 0 [] [] with refused := [⟨0, 0, 1⟩] } true)) ∧
    ownerTakes 0 (queue 0 0 [] []) (pushing (queue 0 0 [] []) false) ∧
    (pushing (queue 0 0 [] []) false).groupQuiet g0 = true ∧
    ((pushing (queue 0 0 [] []) false).modGroup g0 fun x => { x with log := [⟨0, 0, 0, 0, .store 2, [], [], false, none, false, false, false, 0, 0, none, []⟩] }).groupQuiet g0 = false ∧
    ¬ownerTakes 0 (queue 0 0 [] []) ((pushing (queue 0 0 [] []) false).modTeam g0 fun t => { t with save := .saving }) ∧
    (start.group? g0).bind (·.push) = none ∧
    (∀ r ∈ [((3 : Nat), true)], r.2 = true) ∧ (start.group? g0).bind (·.steal) = none := by
  refine ⟨⟨_, rfl, rfl, rfl, rfl⟩, by decide, by decide, ⟨_, rfl, rfl, rfl, rfl⟩, fun t h => ?_, by decide, by decide, fun h => ?_, by decide, by decide, by decide⟩
  · have e : t.save = .none := by
      have k : ((pushing (queue 0 0 [] []) false).core 0).team? 0 = some t := h
      have j : (((pushing (queue 0 0 [] []) false).core 0).team? 0).map (fun t => t.save) = some .none := by decide
      rw [k] at j
      exact Option.some.inj j
    exact .inl e
  · rcases h _ rfl with k | k <;> exact absurd k (by decide)

/-- QueueEvents: a steal that is in time and one that is late, its request in the last entry of the mailbox. -/
theorem witness_steals :
    let b : BindRec := { placeBind with ten := true, tcap := 32, toff := 0x1000 }
    let s0 := neighbours.modGroup g0 fun x => { x with steal := some ⟨1, 0, 1, 15, 0, some 0⟩ }
    let s : State := { s0.scratchWrite 1 8 (mailAt b 7) (mailWord g0 0) with cycle := 1 }
    (∃ t x, s0.team? g0 = some t ∧ s0.group? g0 = some x ∧ x.steal = some ⟨1, 0, 1, 15, 0, some 0⟩ ∧ ¬(0 + t.bind.stealto < s0.cycle)) ∧
      s0.victimOver ⟨1, 0, 1, 15, 0, some 0⟩ = false ∧
      (∃ t tv, s.team? g0 = some t ∧ 0 + t.bind.stealto < s.cycle ∧ (s.core 1).team? 0 = some tv ∧ s.mailOf 1 tv.bind g0 = some 7) :=
  ⟨⟨_, _, rfl, rfl, rfl, by decide⟩, by decide, ⟨_, _, rfl, by decide, rfl, by decide⟩⟩

/-! ## Resolutions -/

/-- Ids 1 and 2 below the root, 3 below 1. -/
def tree : Part := { placePart with hyp := [(0, HypEntry.root), (1, ⟨1, 1, 0, 1, 0, none, []⟩), (2, ⟨1, 1, 0, 0, 0, none, []⟩), (3, ⟨1, 2, 1, 0, 0, none, []⟩)] }

/-- ResolutionEvents: the tree's entries. -/
theorem witness_tree : (tree.entry 2).live = true ∧ 1 ∉ tree.path 2 ∧ 1 ∈ tree.path 3 ∧ (tree.entry 3).live = true ∧
    (∃ c, c < 4096 ∧ c ≠ 1 ∧ c ≠ 0 ∧ (tree.entry c).live = true ∧ (tree.entry c).parent = (tree.entry 1).parent ∧ c ∈ tree.path 2) :=
  ⟨by decide, by decide, by decide, by decide, 2, by decide, by decide, by decide, by decide, by decide, by decide⟩

/-- A request to confirm id 1. -/
def request : HypReq := ⟨1, true, some g0, 31, 4⟩

/-- ResolutionEvents: requests of a LIVE and of another id, none, one that is being worked on, with and without bytes on their way. -/
theorem witness_requests :
    (∃ p, (startP fun _ => { tree with reqs := [request] }).part? 0 = some p ∧ p.resolving = none ∧ p.reqs = request :: [] ∧
      (p.entry request.id.toNat).state = 1) ∧
    (∃ p, (startP fun _ => { tree with reqs := [{ request with id := 9 }] }).part? 0 = some p ∧ (p.entry 9).state ≠ 1) ∧
    (∃ p, (startP fun _ => { tree with resolving := some request }).part? 0 = some p ∧ p.resolving = some request) ∧
    (startP fun _ => { tree with resolving := some request }).unsentDies 0 1 0 = [] ∧
    ((startP fun _ => { tree with resolving := some request }).modDie 3 fun d => { d with
      out := [⟨lineKey 0 1 5, ⟨1, 0⟩, false, 0, 0, none⟩] }).unsentDies 0 1 0 ≠ [] :=
  ⟨⟨_, rfl, rfl, rfl, by decide⟩, ⟨_, rfl, by decide⟩, ⟨_, rfl, rfl⟩, by decide, by decide⟩

/-- ResolutionEvents: an answer that is the last of its word, and one that is not; an id that becomes FREE. -/
theorem witness_answers : ∀ n ∈ [1, 2],
    let s := (startP fun _ => { tree with completing := [(request, 0)] }).modGroup g0 fun x => { x with hypWords := [⟨4, 7, 1#32 <<< 31, [], n, some 1⟩] }
    (∃ p, s.part? 0 = some p ∧ p.completing.find? (fun rs => rs.1.g = some g0) = some (request, 0)) ∧ s.invalidationsDue (dieOf g0.core) none = false ∧
      ∃ x, s.group? g0 = some x ∧ x.perms = [] ∧ x.hypWords.find? (fun w => w.ix = request.wordIx) = some ⟨4, 7, 1#32 <<< 31, [], n, some 1⟩ := by
  intro n hn
  simp only [List.mem_cons, List.not_mem_nil, or_false] at hn
  rcases hn with rfl | rfl <;> exact ⟨⟨_, rfl, rfl⟩, by decide, ⟨_, rfl, rfl, rfl⟩⟩

/-- ResolutionEvents: an id with nothing left of it but one slice; slices that have sent writes under it, and none. -/
theorem witness_slices : (∃ p, (startP fun _ => { tree with hyp := [(9, ⟨4, 1, 0, 0, 0, none, [392]⟩)] }).part? 0 = some p ∧
      (p.entry 9).state = 4 ∧ ((p.entry 9).due.filter fun n => n ≠ 392) = [] ∧ (p.entry 9).refcnt = 0 ∧
      ∀ j, j ≠ 9 → ¬((p.entry j).state = 3 ∧ (p.entry j).remap = some 9)) ∧
    (start.modDie 0 fun d => { d with out := [⟨lineKey 0 9 5, ⟨1, 0⟩, false, 0, 0, none⟩] }).sliceSends 0 (l2Slice 5) 9 = true ∧
    start.sliceSends 0 (l2Slice 5) 9 = false :=
  ⟨⟨_, rfl, by decide, by decide, by decide, fun j hj h => by
    have e : Tbl.get HypEntry.free [(9, ⟨4, 1, 0, 0, 0, none, [392]⟩)] j = HypEntry.free := by simp [Tbl.get, Ne.symm hj]
    exact absurd h.1 (by rw [Part.entry, e]; decide)⟩, by decide, by decide⟩

/-! ## The step -/

/-- StepRuns: the word that a state loads is the next one: a `nop`, a reserved encoding, the two words of a chain. -/
theorem witness_step : (∃ v, NextWord (State.reset.withFetchWord 32 0x34000000) g0 start v 0x34000000 ∧ (0x34000000 : Word).getLsbD 31 = false) ∧
    (∃ s0 v, NextWord (State.reset.withFetchWord 32 0x78000000) g0 s0 v 0x78000000 ∧ (0x78000000 : Word).getLsbD 31 = false) ∧
    (∃ s0 v, NextWord (State.reset.withFetchWord 32 0xB4000000) g0 s0 v 0xB4000000 ∧ v.pc % 12 ≤ 7 ∧ (0xB4000000 : Word).getLsbD 31 = true ∧
      s0.fetchStop (dieOf g0.core) v.part (v.pc + 4) = none ∧ s0.codeWord v.part (v.pc + 4) = some 0x34000000) ∧
    State.reset.mover = none :=
  ⟨⟨_, ⟨rfl, rfl, rfl, rfl, by decide, rfl⟩, by decide⟩, ⟨_, _, ⟨rfl, rfl, rfl, rfl, by decide, rfl⟩, by decide⟩,
   ⟨_, _, ⟨rfl, rfl, rfl, rfl, by decide, rfl⟩, by decide, by decide, rfl, by decide⟩, by decide⟩

/-- StepRuns: an event that moves, and an input from outside. -/
theorem witness_stepEvent : { State.reset with pending := [.fenceScTicket], turn := some (.event 0) }.mover = some (.event 0) ∧
    { State.reset with outside := [.barrier 0 0], turn := some (.outside 0) }.mover = some (.outside 0) := by decide

/-- How a fetch ends: held, or at a fault of a class and cause. -/
def fetchEnd : Option Fetched → Option (Nat × Nat)
  | some (.held _) => some (0, 0)
  | some (.fault cls c _ _) => some (cls, c)
  | _ => none

/-- Each end of a fetch is of its kind. -/
theorem fetch_ends {x : Option Fetched} : (fetchEnd x = some (0, 0) → (∃ s, x = some (.held s)) ∨ ∃ va s, x = some (.fault 0 0 va s)) ∧
    (∀ cls c, cls ≠ 0 → fetchEnd x = some (cls, c) → ∃ va s, x = some (.fault cls c va s)) := by
  rcases x with _ | x
  · simp [fetchEnd]
  · cases x <;> simp +contextual [fetchEnd, eq_comm]

/-- The state whose next word is a `nop`, with the leaf that maps it. -/
def fetching (leaf : Nat) (flips : List (Nat × Bool)) : State :=
  let s := State.reset.withFetchWord 32 0x34000000
  { s with hbm := s.hbm.write 8 0x20000 leaf, modl := { s.modl with flipping := flips } }

/-- StepRuns: a fetch that is held by a flip of its table's frame, and one that may not read its page. -/
theorem witness_fetchStops :
    (fetching 0xF800000000000000 [(1, false)]).mover = some (.group g0) ∧
    (∃ s0 v, s0 = ((fetching 0xF800000000000000 [(1, false)]).moving (.group g0)).issuing g0 ∧ s0.env = some v ∧
      fetchEnd (s0.fetchStop (dieOf g0.core) v.part v.pc) = some (0, 0)) ∧
    (∃ s0 v, s0 = ((fetching 0xC000000000000000 []).moving (.group g0)).issuing g0 ∧ s0.env = some v ∧
      fetchEnd (s0.fetchStop (dieOf g0.core) v.part v.pc) = some (4, 2)) := by
  refine ⟨by decide, ⟨_, _, rfl, rfl, by decide⟩, ⟨_, _, rfl, rfl, by decide⟩⟩

/-- StepRuns: a page table through which code is fetched. -/
theorem witness_codeWord : start.walk 0 0x300000 = .leaf 0xF800000000000000 36 [512, 1024] ∧ pteBit 0xF800000000000000 61 = true ∧
    placeOf (leafAddr 0xF800000000000000 36 0x300000) = .hbm := by decide

/-- DecodeEncode: an instruction of the family that the encoder gives a word. -/
theorem witness_decodeEncode : (Instr.cvt 0 2 3 2 3 0).wellFormed = true ∧ encode (.cvt 0 2 3 2 3 0) = some 0x1E00C118 ∧
    decodeWord 0x1E00C118 = .ok (.cvt 0 2 3 2 3 0) := ⟨by decide, by decide, rfl⟩

/-- CanonicalMemory: the state that loads a word is in the form, and takes a step. -/
theorem witness_canonical : (State.reset.withFetchWord 32 0x34000000).Canonical := by
  have k : ∀ c, (State.reset.withFetchWord 32 0x34000000).core (c + 1) = Core.reset := fun _ => rfl
  refine ⟨by decide, by decide, by decide, fun c => ?_, fun c => ?_⟩ <;> cases c
  · decide
  · rw [k]; decide
  · decide
  · rw [k]; decide

end Sys2Proof.Tests
end

