-- ==== Sys2Proof/Tests/Slice0.lean ====
section
/-! SUPPORT. Tests: ill-formed instructions are refused, words written out from the encodings of 09 R229, R237, R240 and R241 decode to
their instructions, and one step does what the rules say. Every expected value stands in the specification or is calculated by hand from its rule. -/

set_option maxRecDepth 20000

namespace Sys2Proof.Tests

open Sys2Proof.Machine

/-! ## Well-formedness (09 R242) -/

/-- A pair must begin at an even register; register 96 as a destination, a place row 13, a rounding mode above 5, TY 2 of `fdiv`, `sel` by p0. -/
theorem test_illFormed : (Instr.addD 0 2 4 6).wellFormed = true ∧ (Instr.add 0 96 1 2).wellFormed = false ∧
    (Instr.qput 0 1 13 0 3).wellFormed = false ∧ (Instr.cvt 0 0 1 2 3 6).wellFormed = false ∧ (Instr.fdiv 0 2 1 2 3).wellFormed = false ∧
    (Instr.sel 0 0 1 2 3).wellFormed = false := by decide

/-- A path above 4 of `drain`, register 96 of `spawn`, an s register below 96 as address of `rld`, the pair of s63 of `mres`. -/
theorem test_illFormed_fields : (Instr.drain 0 5 5).wellFormed = false ∧ (Instr.drain 0 5 4).wellFormed = true ∧
    (Instr.spawn 0 96).wellFormed = false ∧ (Instr.rld 0 2 95 0 0).wellFormed = false ∧ (Instr.mres 0 1 63).wellFormed = false := by decide

/-- The code of an instruction that is no load or store: `ld` of an acquire with a scope and a destination beyond the registers. -/
theorem test_illFormed_memory : (Instr.ldW 0 5 1 96 2 3).wellFormed = false ∧ (Instr.atomLd 0 5 2 1 2 3).wellFormed = false ∧
    (Instr.atomSt 0 5 1 1 2 3).wellFormed = false := by decide

/-! ## Decoding (09 R229, R237, R239 to R241), bit by bit -/

/-- HDR: W 0xFFF, SETA 0, SETB 1, guard p2 inverted. -/
theorem test_decode_hdr : decodeWord (0#1 ++ 0#5 ++ 0xFFF#12 ++ 0#4 ++ 1#4 ++ 1#1 ++ 2#3 ++ 1#1 ++ 0#1) = .ok (.hdr 0xFFF 0 1 1 2 1) := rfl
/-- INT: `add v1, v2, v3`, the spec's example. -/
theorem test_decode_int : decodeWord (0#1 ++ 1#5 ++ 0#5 ++ 1#7 ++ 2#7 ++ 3#7) = .ok (.add 0 1 2 3) := rfl
/-- INTI: `srai v2, v2, 4`, chained. -/
theorem test_decode_inti : decodeWord (1#1 ++ 2#5 ++ 6#3 ++ 2#7 ++ 2#7 ++ 4#9) = .ok (.srai 1 2 2 4) := rfl
/-- INTD: `sub.d v2, v4, v6`. -/
theorem test_decode_intd : decodeWord (0#1 ++ 3#5 ++ 1#5 ++ 2#7 ++ 4#7 ++ 6#7) = .ok (.subD 0 2 4 6) := rfl
/-- BITS: `prmt v1, v2, v3`. -/
theorem test_decode_bits : decodeWord (0#1 ++ 4#5 ++ 11#5 ++ 1#7 ++ 2#7 ++ 3#7) = .ok (.prmt 0 1 2 3) := rfl
/-- FLT: `fmin.b2 v1, v2, v3`. -/
theorem test_decode_flt : decodeWord (0#1 ++ 5#5 ++ 3#2 ++ 3#3 ++ 1#7 ++ 2#7 ++ 3#7) = .ok (.fmin 0 3 1 2 3) := rfl
/-- FMA: `fma.f32 v8, v9, v10`, the spec's example. -/
theorem test_decode_fma : decodeWord (0#1 ++ 6#5 ++ 0#2 ++ 0#3 ++ 8#7 ++ 9#7 ++ 10#7) = .ok (.fma 0 0 8 9 10) := rfl
/-- CVT: `rsq.f32.rtz v1, v2`. -/
theorem test_decode_cvt : decodeWord (0#1 ++ 7#5 ++ 0#2 ++ 2#3 ++ 1#7 ++ 2#7 ++ 1#7) = .ok (.rsq 0 0 1 2 1) := rfl
/-- CMP: `cmp.lt p2, v1, v3`, the spec's example. -/
theorem test_decode_cmp : decodeWord (0#1 ++ 8#5 ++ 2#5 ++ 2#3 ++ 0#2 ++ 0#2 ++ 1#7 ++ 3#7) = .ok (.cmpLt 0 2 0 0 1 3) := rfl
/-- MOV: `sel.p5 v1, v2, v3`. -/
theorem test_decode_mov : decodeWord (0#1 ++ 9#5 ++ 5#5 ++ 1#7 ++ 2#7 ++ 3#7) = .ok (.sel 0 5 1 2 3) := rfl
/-- UNI: `sadd s4, s4, 1`, the spec's example. -/
theorem test_decode_uni : decodeWord (0#1 ++ 10#5 ++ 0#5 ++ 4#7 ++ 4#7 ++ 65#7) = .ok (.sadd 0 4 4 65) := rfl
/-- IMM: `smovi s10, 0`, the spec's example. -/
theorem test_decode_imm : decodeWord (0#1 ++ 11#5 ++ 2#2 ++ 10#7 ++ 0#17) = .ok (.smovi 0 10 0) := rfl
/-- BR: `bf p3`, priority 9, back by one packet. -/
theorem test_decode_br : decodeWord (0#1 ++ 12#5 ++ 2#3 ++ 3#3 ++ 9#6 ++ 0x3FFD#14) = .ok (.bf 3 9 0x3FFD) := rfl
/-- CTL: `trap 127`. -/
theorem test_decode_ctl : decodeWord (0#1 ++ 13#5 ++ 5#5 ++ 0#7 ++ 0#7 ++ 127#7) = .ok (.trap 127) := rfl
/-- LD: `ld.d.acq.dev v8, q3, v4`, the spec's example. -/
theorem test_decode_ld : decodeWord (0#1 ++ 14#5 ++ 5#4 ++ 5#3 ++ 1#1 ++ 8#7 ++ 3#4 ++ 4#7) = .ok (.ldD 0 5 1 8 3 4) := rfl
/-- ST: `st.w q2, v5, v4`, the spec's example. -/
theorem test_decode_st : decodeWord (0#1 ++ 15#5 ++ 2#4 ++ 4#3 ++ 0#1 ++ 5#7 ++ 2#4 ++ 4#7) = .ok (.stW 0 4 0 5 2 4) := rfl
/-- ATOM: `atom.add.dev q1, v8, v4`, the spec's example. -/
theorem test_decode_atom : decodeWord (0#1 ++ 16#5 ++ 0#4 ++ 5#3 ++ 0#2 ++ 8#7 ++ 1#3 ++ 4#7) = .ok (.atomAdd 0 5 0 8 1 4) := rfl
/-- ATOMD: `atom.umin.d.dev q1, v6, v4` with the FN 7 of R241 (the examples of R285 and 18 write 8: log entry 7). -/
theorem test_decode_atomd : decodeWord (0#1 ++ 17#5 ++ 7#4 ++ 5#3 ++ 0#2 ++ 6#7 ++ 1#3 ++ 4#7) = .ok (.atomdUmin 0 5 0 6 1 4) := rfl
/-- XL: `cmpx v6, v5, p3`, the spec's example. -/
theorem test_decode_xl : decodeWord (0#1 ++ 18#5 ++ 11#5 ++ 6#7 ++ 5#7 ++ 3#7) = .ok (.cmpx 0 6 5 3) := rfl
/-- SYNC: `bar.sync.tm 3` and `fwait f1`, the spec's examples. -/
theorem test_decode_sync : decodeWord (0#1 ++ 19#5 ++ 5#5 ++ 2#3 ++ 3#8 ++ 0#7 ++ 0#3) = .ok (.barSync 0 2 3) ∧
    decodeWord (0#1 ++ 19#5 ++ 9#5 ++ 5#3 ++ 2#8 ++ 0#7 ++ 0#3) = .ok (.fwait 0 5 2 0) := ⟨rfl, rfl⟩
/-- QUE: `qput v5, #0.0, 2` and `qget.try v7, 2, p3`, the spec's examples. -/
theorem test_decode_que : decodeWord (0#1 ++ 20#5 ++ 0#4 ++ 2#4 ++ 0#4 ++ 0#3 ++ 5#7 ++ 0#3 ++ 0#1) = .ok (.qput 0 2 0 0 5) ∧
    decodeWord (0#1 ++ 20#5 ++ 3#4 ++ 2#4 ++ 0#4 ++ 0#3 ++ 7#7 ++ 3#3 ++ 0#1) = .ok (.qgetTry 0 2 7 3) := ⟨rfl, rfl⟩
/-- COPY: `gfill` of s10 and s11 with rounding mode 3. -/
theorem test_decode_copy : decodeWord (0#1 ++ 21#5 ++ 3#4 ++ 0#4 ++ 0#3 ++ 10#6 ++ 11#6 ++ 3#3) = .ok (.gfill 0 10 11 3) := rfl
/-- MX: `mmad 2, s8, v32` and `mmad.sp.tr 2, s8, v32`, the spec's examples. -/
theorem test_decode_mx : decodeWord (0#1 ++ 22#5 ++ 2#4 ++ 2#4 ++ 8#6 ++ 32#7 ++ 0#5) = .ok (.mmad 0 2 8 32 0) ∧
    decodeWord (0#1 ++ 22#5 ++ 3#4 ++ 2#4 ++ 8#6 ++ 32#7 ++ 1#5) = .ok (.mmadSp 0 2 8 32 0 1) := ⟨rfl, rfl⟩
/-- BF: `bfchn.bf16 z0, 1, s12, s13`, the spec's example. -/
theorem test_decode_bf : decodeWord (0#1 ++ 23#5 ++ 1#4 ++ 0#3 ++ 1#4 ++ 12#6 ++ 13#6 ++ 1#3) = .ok (.bfchn 0 0 1 12 13 1) := rfl
/-- ACC: `epi.scl s4, s5, s6`, the spec's example. -/
theorem test_decode_acc : decodeWord (0#1 ++ 24#5 ++ 2#4 ++ 4#6 ++ 5#6 ++ 6#6 ++ 1#4) = .ok (.epi 0 4 5 6 0 0 1) := rfl
/-- PHY: `bslv` of s4 and s5. -/
theorem test_decode_phy : decodeWord (0#1 ++ 25#5 ++ 2#4 ++ 0#4 ++ 0#3 ++ 4#6 ++ 5#6 ++ 0#3) = .ok (.bslv 0 4 5 0) := rfl
/-- ENV: `eprst v8, s9`, the spec's example. -/
theorem test_decode_env : decodeWord (0#1 ++ 26#5 ++ 3#5 ++ 0#7 ++ 8#7 ++ 105#7) = .ok (.eprst 0 8 9) := rfl
/-- HYP: `hqry v2, v1`. -/
theorem test_decode_hyp : decodeWord (0#1 ++ 27#5 ++ 5#5 ++ 2#7 ++ 1#7 ++ 0#7) = .ok (.hqry 0 2 1) := rfl
/-- REG: `srd s5, status`, the spec's example. -/
theorem test_decode_reg : ∃ k, decodeWord 0x70614180 = .ok (.srd 0 5 k) := ⟨_, rfl⟩
/-- SYS: `tret`, the spec's word. -/
theorem test_decode_sys : decodeWord (0#1 ++ 29#5 ++ 0#5 ++ 0#7 ++ 0#7 ++ 0#7) = .ok (.tret 0) := rfl

/-- Encodings that are no words: a reserved function of every kind, an unused field, bit 0 of a header, a chained branch. -/
theorem test_decode_reserved : decodeWord (0#1 ++ 1#5 ++ 22#5 ++ 0#21) = .error .reservedFunction ∧
    decodeWord (0#1 ++ 30#5 ++ 0#26) = .error .reservedMajor ∧ decodeWord (0#1 ++ 0#25 ++ 0#5 ++ 1#1) = .error .headerBits ∧
    decodeWord (0#1 ++ 13#5 ++ 0#5 ++ 1#7 ++ 0#14) = .error .unusedField ∧ decodeWord (1#1 ++ 12#5 ++ 0#26) = .error .chainedControl :=
  ⟨rfl, rfl, rfl, rfl, rfl⟩

/-! ## One step -/

/-- The state after the step that runs word `w` in the state that `f` makes of the loaded one; the loaded one itself where there is none. -/
noncomputable def ran (w : Word) (f : State → State) : State :=
  let s := f (State.reset.withFetchWord 32 w.toNat)
  match step s with
  | .next t => t
  | _ => s

/-- Registers of the group before the step. -/
def regs (k : List (Nat × Word)) (s : State) : State :=
  s.modTeam g0 fun t => k.foldl (fun t x => t.vset 0 x.1 0xFFFFFFFF fun _ => x.2) t

/-- An s register before the step. -/
def ureg (n : Nat) (x : DWord) (s : State) : State := s.modGroup g0 fun y => y.sset n x

/-- `add` wraps, and the entry goes on at the next word. -/
theorem test_add : (ran 0x04004103 (regs [(2, 0xFFFFFFFF), (3, 2)])).vreg g0 1 31 = 1 ∧
    ((ran 0x04004103 id).group? g0).map (fun x => x.frontier.map fun e => e.pc.toNat) = some [placeEntry + 8] := by decide
/-- `srai` of a negative number. -/
theorem test_srai : (ran 0x0B020404 (regs [(2, 0x80000000)])).vreg g0 2 0 = 0xF8000000 := by decide
/-- `addi` with immediate −1. -/
theorem test_addi : (ran 0x080307FF (regs [(3, 0)])).vreg g0 3 7 = 0xFFFFFFFF := by decide
/-- `mulh` of −1 and 1: the high word of −1. -/
theorem test_mulh : (ran (0x04000000 ||| 3#32 <<< 21 ||| 1#32 <<< 14 ||| 2#32 <<< 7 ||| 3) (regs [(2, 0xFFFFFFFF), (3, 1)])).vreg g0 1 0 = 0xFFFFFFFF := by
  decide
/-- `clz` of 1 (10 R255). -/
theorem test_clz : (ran (0x10000000 ||| 1#32 <<< 14 ||| 2#32 <<< 7) (regs [(2, 1)])).vreg g0 1 0 = 31 := by decide
/-- `fadd.f32` of 1 and 1. -/
theorem test_fadd : (ran (0x14000000 ||| 1#32 <<< 14 ||| 2#32 <<< 7 ||| 3) (regs [(2, 0x3F800000), (3, 0x3F800000)])).vreg g0 1 0 = 0x40000000 := by decide
/-- `fma.f32`: 2 × 3 + 1. -/
theorem test_fma : (ran 0x1802048A (regs [(8, 0x3F800000), (9, 0x40000000), (10, 0x40400000)])).vreg g0 8 0 = 0x40E00000 := by decide
/-- `cvt.bf16.f32.rne` of a tie goes to the even neighbour, and sets NX (08 R214). -/
theorem test_cvt : (ran 0x1E00C118 (regs [(2, 0x3F808000)])).vreg g0 3 0 = 0x3F80 := by decide
/-- `cmp.lt`: −1 < 0 as signed numbers. -/
theorem test_cmp : (ran 0x20480083 (regs [(1, 0xFFFFFFFF), (3, 0)])).preg g0 2 = 0xFFFFFFFF := by decide
/-- `sadd s4, s4, 1`. -/
theorem test_sadd : (ran 0x28010241 (ureg 4 0xFFFFFFFFFFFFFFFF)).sreg g0 4 = 0 := by decide
/-- `movx v6, 0` of 0x2164: the spec's example. -/
theorem test_movx : (ran 0x2D0C0000 (regs [(6, 0x2164)])).vreg g0 6 0 = 0x42C80000 := by decide
/-- s0 discards writes: `smovi s0, 5`. -/
theorem test_s0 : (ran (0x2E000000 ||| 5) id).sreg g0 0 = 0 := by decide
/-- `scan.add v3, v2` of ones: lane 31 gets 32. -/
theorem test_scan : (ran 0x48A0C100 (regs [(2, 1)])).vreg g0 3 31 = 32 := by decide
/-- `jmp` over one packet: to the header of the next but one word. -/
theorem test_jmp : ((ran (0x30000000 ||| 2) id).group? g0).map (fun x => x.frontier.map fun e => e.pc.toNat) = some [placeEntry + 12] := by decide
/-- `exit` of every lane: no entry is left, and every lane has exited. -/
theorem test_exit : ((ran 0x34200000 id).group? g0).map (fun x => (x.frontier, x.exited)) = some ([], 0xFFFFFFFF) := by decide
/-- `trap 1` with nothing enabled kills the team. -/
theorem test_trap : ((ran (0x34000000 ||| 5#32 <<< 21 ||| 1) id).group? g0).map (fun x => (x.frontier, x.exited)) = some ([], 0xFFFFFFFF) := by decide
/-- `st.w q3, v1, v2` to the window: lane 31 stores last at one address. -/
theorem test_st : (ran (0x3C000000 ||| 2#32 <<< 22 ||| 1#32 <<< 11 ||| 3#32 <<< 7 ||| 2) fun s => regs [(1, 0x11223344), (2, 1)] (s.modGroup g0 fun x =>
    { x with q := [(3, some ⟨false, image 1 0 64 4 2 false⟩)] })).scratchByte 0 4 = 0x44 := by decide
/-- `atom.add` of 5 by one lane at a word that holds 0 leaves 5. -/
theorem test_atom : (ran (0x40000000 ||| 1#32 <<< 10 ||| 3#32 <<< 7 ||| 2) fun s => regs [(1, 5), (2, 1)] (s.modGroup g0 fun x =>
    { someLanes 0x80000000 x with q := [(3, some ⟨false, image 1 0 64 4 2 false⟩)] })).scratchRead 0 4 4 = 5 := by decide
/-- `hnew v1` opens id 1 in lane 0 and id 32 in lane 31. -/
theorem test_hnew : (ran (0x6C000000 ||| 1#32 <<< 14) id).vreg g0 1 0 = 1 ∧ (ran (0x6C000000 ||| 1#32 <<< 14) id).vreg g0 1 31 = 32 := by decide
/-- `skey v6`: KEY takes the pair. -/
theorem test_skey : (ran 0x68800300 (regs [(6, 5), (7, 6)])).keyReg g0 3 = 0x600000005 := by decide
/-- `xacq` gives the extended block to the group. -/
theorem test_xacq : ((ran 0x70000000 id).team? g0).map (fun t => t.holdsExt 0) = some true := by decide
/-- `zset` and `mrel`, `accclr`: the command stands in the core's order (12 R345). -/
theorem test_accclr : ((ran 0x60040000 id).core 0).seq = 1 ∧ (((ran 0x60040000 id).core 0).cmd? 0).isSome = true := by decide

end Sys2Proof.Tests
end

