-- ==== Sys2Proof/Tests/WordWitnesses.lean ====
section
/-! SUPPORT. States and operands that meet the hypotheses of the statements about words. -/

set_option maxRecDepth 20000

namespace Sys2Proof.Tests

open Sys2Proof.Machine

/-! ## Words that write registers -/

/-- IntegerWords, PrmtSelectsBytes, BitWords. -/
theorem witness_integerWords : ∀ u ∈ [useAbd 0 1 2 3, useAbd 1 31 31 127, useAd 0 1 2, useAbd2 0 2 4 30], Met u always :=
  ready_all (s := start) (by decide)

/-- The extended block is held: its registers may be named. -/
theorem witness_extendedBlock : ∀ u ∈ [useAbd 0 95 32 31], Met u always :=
  ready_all (s := startT fun t => t.setHolder 0 (some 0)) (by decide)

/-- UniformWords. -/
theorem witness_uniformWords : ∀ u ∈ [useUabd 0 0 1 63, useUad 0 63 2, useVote 0 1 7, useSmovv 0 1 2 3, useUd 0 5], Met u always :=
  ready_all (s := start) (by decide)

/-- CarryWords, IntegerCompares, MoveWords, PredicateWords, the words of CrossLaneWords and RowWords that ask for nothing more. -/
theorem witness_moveWords : ∀ u ∈ [useCarry 0 1 2 3, useCmpInt 0 0 0 1 2 3, useCmpInt 0 7 1 2 4 0, useD 0 31, useGidx 0 1 6, useSel 0 7 1 2 3,
    useP 0 0 [1, 7], useP 0 7 [0], useMovpSet 0 1, { useAd 0 1 2 with legal := decide ((1 : BitVec 2).toNat < 3) }, useCmpx 0 1 2 0,
    useCmpx 0 1 2 7], Met u always := ready_all (s := start) (by decide)

/-- A state that is about to run a chain of two `addc`. -/
def carryState : State :=
  { State.reset.withFetchWord 32 0x86600002 with hbm := (placeMemory [] 0x86600002).write 4 (placeEntry + 8) 0x06600002 }

/-- CarryWords: such a chain. -/
theorem witness_carryChain : ∃ s0 v, carryState.mover = some (.group g0) ∧ s0 = (carryState.moving (.group g0)).issuing g0 ∧
    s0.env = some v ∧ s0.fetchChain (dieOf g0.core) v.part v.pc = .words [0x86600002, 0x06600002] ∧
    decodeAll [0x86600002, 0x06600002] = some [.addc 1 0 0 2, .addc 0 0 0 2] ∧
    ∃ u, (Instr.addc 1 0 0 2).use (s0.useCtx v) = some u ∧ (.p, 7) ∈ u.dests :=
  ⟨_, _, by decide, rfl, rfl, by rfl, rfl, _, rfl, by decide⟩

/-- RandomWords and the words of SystemRegisters. -/
theorem witness_randomWords : ∀ u ∈ [useD 0 1, { c := 0, ops := [.vd2 2] }, { c := 0, ops := [.vs2 2, .key] },
    { c := 0, ops := [.vs2 2, .ctr] }, useSrd 0 1 0, useSrd 0 1 6, useSrd 0 2 7, useSrd 0 2 8, useSwr 0 1 2, useSwr 0 3 2], Met u always :=
  ready_all (s := start) (by decide)

/-- Nothing traps while MODE enables no flag. -/
theorem quiet {m : Word} (h : m = 0) (f : Flags) : trapsUnder m f = false := by simp [trapsUnder, h]

/-- FloatWords and ConversionWords. -/
theorem witness_floatWords (out : Env → State → Nat → LaneOut) : ∀ u ∈ [useCmp 0 1 0 2 3 0, useT 0 0 1 2 3, useT 0 1 2 4 6, useDiv 0 0 1 2 3,
    useCvt 0 0 1 2 3 0, useCvt 0 2 4 2 13 5, useSpecial 0 0 1 2 1], Met u (noFlagTrap out) := fun u hu =>
  ready_meets (s := start) (ok := fun v _ => decide (v.team.bind.mode = 0))
    (List.all_eq_true.mp (by decide : ([useCmp 0 1 0 2 3 0, useT 0 0 1 2 3, useT 0 1 2 4 6, useDiv 0 0 1 2 3, useCvt 0 0 1 2 3 0,
      useCvt 0 2 4 2 13 5, useSpecial 0 0 1 2 1].all fun u => ready u start fun v _ => decide (v.team.bind.mode = 0)) = true) u hu)
    fun _ _ h _ _ => quiet (of_decide_eq_true h) _

/-- CrossLaneWords: `perm`. -/
theorem witness_perm : Met (usePerm 0 1 2 3) fun v s =>
    (∀ n ∈ (liveGroup v s).pendingRegs, n.1 = .v → ¬ blockEnd n.2 = blockEnd (2 : BitVec 7).toNat) ∧ v.grp.psnLines = [] :=
  ready_dec (s := start) (by decide)

/-- A group with one plain load to v4 in its operand log. -/
def loading : State := startG fun x => { x with
  nextLog := 6
  log := [⟨0, placeEntry + 4, 1, 0, .load 4 4 false, [⟨0, 64, 4, 0, 0, 15, 0⟩], [], false, none, false, false, false, 5, 0, none, []⟩] }

/-- CrossLaneWords: `perm` while a load is to write A's block. -/
theorem witness_permWaits : Met (usePerm 0 1 2 3) fun v s =>
    ∃ n ∈ (liveGroup v s).log.flatMap LogEntry.writes, n.1 = .v ∧ blockEnd n.2 = blockEnd (2 : BitVec 7).toNat :=
  ready_meets (s := loading) (ok := fun v s => ((liveGroup v s).log.flatMap LogEntry.writes).any fun n =>
    decide (n.1 = .v ∧ blockEnd n.2 = blockEnd (2 : BitVec 7).toNat)) (by decide) fun v s h => by
    simpa only [List.any_eq_true, decide_eq_true_eq] using h

/-- RowWords: the lengths of all rows fit 32 bits, by one. -/
theorem witness_rbal : Met (useRbal 0 2 1 1) fun v _ => exactSum v 1 (fun _ => true) < 2 ^ 32 :=
  ready_dec (s := startT fun t => t.vset 0 1 3 fun l => if l = 0 then 0xFFFFFFFF else 0) (by decide)

/-- RowWords: the lengths of all rows exceed 32 bits, by one. -/
theorem witness_rbal_over : Met (useRbal 0 2 1 1) fun v _ => 2 ^ 32 ≤ exactSum v 1 fun _ => true :=
  ready_dec (s := startT fun t => t.vset 0 1 3 fun l => if l = 0 then 0xFFFFFFFF else 1) (by decide)

/-- RowWords: the f32 sums. -/
theorem witness_f32Sum : Met (useAd 0 1 2) fun v s =>
    (f32Sum 1 2 v s (v.e.kept.map BitVec.toNat)).stop.isNone = true ∧ (f32Sum 1 2 v s none).stop.isNone = true :=
  ready_dec (s := startG (someLanes 0x80000001)) (by decide)

/-- RowWords: f32 minimum and maximum. -/
theorem witness_f32Least : Met { useAd 0 1 2 with legal := decide ((2 : BitVec 2).toNat < 3) } fun v _ =>
    trapsUnder v.team.bind.mode (f32Least .fmin v 2).2 = false ∧ trapsUnder v.team.bind.mode (f32Least .fmax v 2).2 = false :=
  ready_meets (s := start) (ok := fun v _ => decide (v.team.bind.mode = 0)) (by decide)
    fun _ _ h => ⟨quiet (of_decide_eq_true h) _, quiet (of_decide_eq_true h) _⟩

/-! ## Control flow -/

/-- ControlFlow: a jump of every lane, a branch of no lane, a branch of some. -/
theorem witness_branches : JumpMet (useBranch 2 []) always (fun v => goTo v 2 v.em 63) same ∧
    JumpMet (useBranch 2 [1]) always (fun v => goTo v 2 (v.em &&& v.grp.pget 1) 7) same ∧
    JumpMet (useBranch 2 [1]) always (fun v => goTo v 2 (v.em &&& ~~~v.grp.pget 1) 7) same ∧
    JumpMet (useBranch 2 [1]) always
      (fun v => goTo v 2 (if (lanesOf v.em).any fun l => (v.grp.pget 1).getLsbD l then v.em else 0) 7) same ∧
    JumpMet (useBranch 2 [1]) always
      (fun v => goTo v 2 (if (lanesOf v.em).all fun l => (v.grp.pget 1).getLsbD l then v.em else 0) 7) same :=
  ⟨jumps_meets (s := start) (ok := fun _ _ => true) (by decide) fun _ _ _ => trivial,
   jumps_meets (s := start) (ok := fun _ _ => true) (by decide) fun _ _ _ => trivial,
   jumps_meets (s := startG fun x => x.pset 1 0xFFFFFFFF 5) (ok := fun _ _ => true) (by decide) fun _ _ _ => trivial,
   jumps_meets (s := startG fun x => x.pset 1 0xFFFFFFFF 5) (ok := fun _ _ => true) (by decide) fun _ _ _ => trivial,
   jumps_meets (s := startG fun x => x.pset 1 0xFFFFFFFF 5) (ok := fun _ _ => true) (by decide) fun _ _ _ => trivial⟩

/-- ControlFlow: `call`, `nop`, `yield`. -/
theorem witness_call : JumpMet { useBranch 2 [] with ops := [.ud 63] } always (fun v => goTo v 2 v.em 63) (fun v x =>
      x.sset 63 (BitVec.ofNat 64 (v.e.pri.toNat * 2 ^ 56 + (v.pc / 12 * 12 + 12)))) ∧
    JumpMet { c := 0, ops := [] } always (fun v => [{ pc := v.pc + 4, lanes := v.e.mask, pri := v.e.pri }]) same ∧
    JumpMet { c := 0, ops := [] } always (fun v => [{ pc := v.pc + 4, lanes := v.e.mask, pri := v.e.pri, deferred := true }]) same :=
  ⟨jumps_meets (s := start) (ok := fun _ _ => true) (by decide) fun _ _ _ => trivial,
   jumps_meets (s := start) (ok := fun _ _ => true) (by decide) fun _ _ _ => trivial,
   jumps_meets (s := start) (ok := fun _ _ => true) (by decide) fun _ _ _ => trivial⟩

/-- ControlFlow: `ret` to an address in s63. -/
theorem witness_ret : JumpMet { c := 0, ops := [.us 63] }
    (fun v _ => ((v.grp.sget 63).extractLsb' 0 56).toNat % 12 = 0 ∧ (v.grp.sget 63).extractLsb' 62 2 = 0)
    (fun v => [{ pc := ((v.grp.sget 63).extractLsb' 0 56).toNat, lanes := v.em, pri := (v.grp.sget 63).extractLsb' 56 6, due := true },
               { pc := v.pc + 4, lanes := v.e.mask &&& ~~~v.em, pri := v.e.pri }]) same :=
  jumps_meets (s := startG fun x => (someLanes 0xFFFF x).sset 63 0x3F0000000030000C) (ok := fun v _ => decide
    (((v.grp.sget 63).extractLsb' 0 56).toNat % 12 = 0 ∧ (v.grp.sget 63).extractLsb' 62 2 = 0)) (by decide) fun _ _ => of_decide_eq_true

/-- ControlFlow: `brx` to two targets. -/
theorem witness_brx : JumpMet { c := 0, ops := [.vs 1], legal := decide ((63 : BitVec 7).toNat < 64), once := true }
    (fun v _ => ∀ l, v.em.getLsbD l = true → brxTarget v 1 l % 12 = 0)
    (fun v => (((lanesOf v.em).foldl (fun ts l => insertSorted (brxTarget v 1 l) ts) []).map fun u =>
        { pc := u, lanes := maskOf fun l => v.em.getLsbD l && brxTarget v 1 l = u, pri := (63 : BitVec 7).setWidth 6, due := true }) ++
      [{ pc := v.pc + 4, lanes := v.e.mask &&& ~~~v.em, pri := v.e.pri }]) same :=
  jumps_meets (s := (startG (someLanes 5)).modTeam g0 fun t => t.vset 0 1 7 fun l => if l = 0 then 8 else 20)
    (ok := fun v _ => everyLane v.em fun l => decide (brxTarget v 1 l % 12 = 0)) (by decide)
    fun _ _ h l hl => of_decide_eq_true (everyLane_all h l hl)

/-- ControlFlow: `exit` of some lanes. -/
theorem witness_exit : JumpMet { c := 0, ops := [] }
    (fun v s => v.grp.handler = none ∧ ∀ y, s.group? v.r = some y → y.aside = [] ∧ ∀ l, v.em.getLsbD l = true → y.hypOf l = 0)
    (fun v => [{ pc := v.pc + 4, lanes := v.e.mask &&& ~~~v.em, pri := v.e.pri }])
    (fun v x => { x with exited := x.exited ||| v.em, idem := x.idem &&& ~~~(v.em.setWidth 64) }) :=
  jumps_meets (s := startG (someLanes 0x80000001))
    (ok := fun v s => v.grp.handler.isNone && match s.group? v.r with
      | none => false
      | some y => y.aside.isEmpty && everyLane v.em fun l => decide (y.hypOf l = 0)) (by decide) fun v s h => by
    rw [Bool.and_eq_true] at h
    refine ⟨Option.isNone_iff_eq_none.mp h.1, fun y hy => ?_⟩
    have h2 := h.2
    rw [hy] at h2
    simp only [Bool.and_eq_true, List.isEmpty_iff] at h2
    exact ⟨h2.1, fun l hl => of_decide_eq_true (everyLane_all h2.2 l hl)⟩

/-- FrontierUpdate: seven entries, and an outcome that makes the eighth; a ninth is none. -/
theorem witness_frontier :
    let e : Nat → FEntry := fun k => ⟨BitVec.ofNat 56 (12 * k), 1, 0, 0, false, none, none, false, false, 0, false⟩
    let fs := (List.range 6).map e
    (fs.map (·.pc)).Nodup ∧ fs.length + 1 ≤ 8 ∧
      (∃ fs', addOutcs (fun _ => false) 0 1 fs [⟨120, 2, 5, false, false⟩] = some fs') ∧
      addOutcs (fun _ => false) 0 1 fs [⟨120, 2, 5, false, false⟩, ⟨132, 2, 5, false, false⟩] = none :=
  ⟨by decide, by decide, ⟨_, rfl⟩, by decide⟩

/-- HeaderWord: a header at word 0 with a guard that is false in some lanes, and one without guard. -/
theorem witness_header : ∀ gpn ∈ [((1 : BitVec 1), (7 : BitVec 3), (1 : BitVec 1)), (0, 0, 0)], ∃ (s : State) (v : Env) (y z : Group), s.env = some v ∧ s.limit = none ∧
    s.group? v.r = some y ∧ (y.handler = none → v.grp.handler = none) ∧ v.pc % 12 = 0 ∧ fretsDone v.grp 0xFFF ∧
    (gpn.1 = 1 → (.p, gpn.2.1.toNat) ∉ v.grp.pendingRegs) ∧
    advanced (s.headerAt v.part) { v with e := { v.e with gmask := guardedOff v gpn.1 gpn.2.1 gpn.2.2 }, em := v.e.mask }
      [{ pc := v.pc + 4, lanes := v.e.mask, pri := v.e.pri }]
      (Group.retire { c := 0, ops := [.ps gpn.2.1], once := true } v.r.core
        { y with handler := y.handler.map fun h => { h with entry := { h.entry with gmask := guardedOff v gpn.1 gpn.2.1 gpn.2.2, due := false } } }) =
      some z ∧ z.frontier ≠ [] := by
  intro gpn h
  simp only [List.mem_cons, List.not_mem_nil, or_false] at h
  have f : fretsDone (placeGroup 64) 0xFFF := fun f _ _ => ⟨rfl, rfl⟩
  rcases h with rfl | rfl
  · exact ⟨((State.reset.withFetchWord 32 64).moving (.group g0)).issuing g0, _, _, _, rfl, rfl, rfl, fun _ => rfl, by decide, f,
      by decide, rfl, by decide⟩
  · exact ⟨((State.reset.withFetchWord 32 64).moving (.group g0)).issuing g0, _, _, _, rfl, rfl, rfl, fun _ => rfl, by decide, f,
      by decide, rfl, by decide⟩

/-- BlockLock: free, held by the group, held by another. -/
theorem witness_blockLock : (Met { c := 0, ops := [] } fun v s => liveHolder v s = none) ∧
    (Met { c := 0, ops := [] } fun v s => liveHolder v s = some v.r.grp) ∧
    (Met { c := 0, ops := [.pd 1] } fun v s => liveHolder v s = none ∨ liveHolder v s = some v.r.grp) ∧
    (Met { c := 0, ops := [.pd 1] } fun v s => ∃ h, liveHolder v s = some h ∧ h ≠ v.r.grp) ∧
    (Met { c := 0, ops := [] } fun v s => liveHolder v s ≠ some v.r.grp) ∧
    Met { c := 0, ops := [] } fun v s => liveHolder v s = some v.r.grp ∧ (∀ n ∈ (liveGroup v s).pendingRegs, n.1 = .v → n.2 < 32) ∧
      (∀ r ∈ (liveGroup v s).readRegs, r.2.1 < 32) ∧ ∀ p ∈ (liveGroup v s).perms, p.a < 32 :=
  ⟨ready_dec (s := start) (by decide), ready_dec (s := startT fun t => t.setHolder 0 (some 0)) (by decide),
   ready_dec (s := start) (by decide),
   ready_meets (s := startT fun t => t.setHolder 0 (some 1)) (ok := fun v s => decide (liveHolder v s = some 1 ∧ 1 ≠ v.r.grp)) (by decide)
     fun _ _ h => ⟨1, of_decide_eq_true h⟩,
   ready_dec (s := startT fun t => t.setHolder 0 (some 1)) (by decide),
   ready_dec (s := startT fun t => t.setHolder 0 (some 0)) (by decide)⟩

/-- GroupControl: `ient` with one entry and an empty GMASK, and with a guard. -/
theorem witness_ient : (Met { c := 0, ops := [] } fun v s => ∃ y e, s.group? v.r = some y ∧ y.handler = none ∧ y.frontier = [e] ∧
      y.aside = [] ∧ e.gmask = 0) ∧
    Met { c := 0, ops := [] } fun v s => ∃ y, s.group? v.r = some y ∧
      ¬(y.handler = none ∧ y.aside = [] ∧ y.frontier.length = 1 ∧ ∀ e ∈ y.frontier, e.gmask = 0) :=
  ⟨ready_meets (s := start) (ok := fun v s => (s.group? v.r).any fun y => decide (y.handler = none ∧ y.frontier.length = 1 ∧ y.aside = [] ∧
      ∀ e ∈ y.frontier, e.gmask = 0)) (by decide) fun v s h => by
    obtain ⟨y, hy, h1, h2, h3, h4⟩ := group_meets h fun y hy => of_decide_eq_true hy
    obtain ⟨e, he⟩ := List.length_eq_one_iff.mp h2
    exact ⟨y, e, hy, h1, he, h3, h4 e (by simp [he])⟩,
   ready_meets (s := startG (someLanes 1)) (ok := fun v s => (s.group? v.r).any fun y =>
      decide ¬(y.handler = none ∧ y.aside = [] ∧ y.frontier.length = 1 ∧ ∀ e ∈ y.frontier, e.gmask = 0)) (by decide) fun v s h =>
    group_meets h fun y hy => of_decide_eq_true hy⟩

/-- GroupControl: `sleep` of no cycle and of some, `regroup`. -/
theorem witness_sleep : (Met { c := 0, ops := [.us 2] } fun v _ => v.usrc 2 = 0) ∧
    (Met { c := 0, ops := [.us 2] } fun v _ => v.usrc 2 ≠ 0) ∧
    Met { c := 0, ops := [.vs 2], once := true } fun v s => v.em = ~~~(liveGroup v s).exited ∧ s.released v 2 = true :=
  ⟨ready_dec (s := start) (by decide), ready_dec (s := startG fun x => x.sset 2 0xFFFFFFFFFFFFFFFF) (by decide),
   ready_dec (s := start) (by decide)⟩

/-- FenceWords: nothing more is asked of `fence` and, below scope .dev, of `fence.sc`; from there on no request for the ticket is open, or
one is. -/
theorem witness_fence : Met (useFence 0 0) always ∧ Met { c := 0, ops := [], orph := .once, once := true } always ∧
    (Met { c := 0, ops := [], orph := .once, once := true } fun v s => (liveGroup v s).ticket = 0) ∧
    Met { c := 0, ops := [], orph := .once, once := true } fun v s => (liveGroup v s).ticket ≠ 0 :=
  ⟨ready_meets (s := start) (ok := fun _ _ => true) (by decide) fun _ _ _ => trivial,
   ready_meets (s := start) (ok := fun _ _ => true) (by decide) fun _ _ _ => trivial,
   ready_dec (s := start) (by decide), ready_dec (s := startG fun x => { x with ticket := 2 }) (by decide)⟩

/-- FenceWords: an earlier load is still in the operand log; nothing is outstanding. -/
theorem witness_fenceOrder : (∃ v x, loading.env = some v ∧ loading.group? v.r = some x ∧
      ∃ n ∈ x.ownLog, n.seq < x.nextLog ∧ n.op.returns = true) ∧
    ∃ v x, start.env = some v ∧ start.group? v.r = some x ∧ x.acquiring = false ∧ x.log = [] ∧ x.fences = [] ∧
      start.dieQuiet (dieOf v.r.core) = true :=
  ⟨⟨_, _, rfl, rfl, _, List.mem_singleton_self _, by decide, by decide⟩, ⟨_, _, rfl, rfl, by decide, rfl, rfl, by decide⟩⟩

/-- A barrier of the team. -/
def bar (arr drop : Lanes) : Barrier :=
  { part := 0, launch := 0, team := 0, bid := 3, dropMask := drop, arrMask := arr, phase := 0, exp := 2, nextExp := 2, waiters := 0 }

/-- BarrierWords: `bar.init` of 1 on a new and on an unused barrier. -/
theorem witness_barInit : Met (useBar 0 [.us 2]) fun v s => 1 ≤ (v.usrc 2).toNat ∧ (v.usrc 2).toNat ≤ 32 ∧
    (v.usrc 2).toNat ≤ v.team.bind.ngm1 + 1 ∧ ∀ b, (s.core v.r.core).barrier? v.team.bind 3 = some b → b.arrMask = 0 ∧ b.waiters = 0 :=
  ready_meets (s := (startG fun x => x.sset 2 1).modCore 0 fun k => { k with barriers := [bar 0 0] })
    (ok := fun v s => decide (1 ≤ (v.usrc 2).toNat ∧ (v.usrc 2).toNat ≤ 32 ∧ (v.usrc 2).toNat ≤ v.team.bind.ngm1 + 1) &&
      ((s.core v.r.core).barrier? v.team.bind 3).all fun b => decide (b.arrMask = 0 ∧ b.waiters = 0)) (by decide) fun v s h => by
    rw [Bool.and_eq_true] at h
    obtain ⟨h1, h2, h3⟩ := of_decide_eq_true h.1
    refine ⟨h1, h2, h3, fun b hb => ?_⟩
    have := h.2
    rw [hb] at this
    exact of_decide_eq_true this

/-- BarrierWords: arrival, and the group's phase open, over, and dropped from. -/
theorem witness_barriers :
    (Met (useBar 0 []) fun v s => soundBarrier v s 3 ∧ s.released v (max 0 2) = true ∧ mayArrive v s 3) ∧
    (Met (useBar 0 []) fun v s => soundBarrier v s 3 ∧ ¬mustWait v s 3 ∧ acquired v (s.setBarrier v (s.barrierOf v 3)) (max 4 2)) ∧
    (Met (useBar 0 []) fun v s => soundBarrier v s 3 ∧ mustWait v s 3 ∧ (s.barrierOf v 3).waiters.getLsbD v.r.grp = false) ∧
    (Met (useBar 0 []) fun v s => (liveGroup v s).wait = .none ∧ soundBarrier v s 3 ∧ s.released v (max 0 2) = true ∧ mayArrive v s 3) ∧
    (Met (useBar 0 []) fun v s => (liveGroup v s).wait = .barSync 3 ∧ soundBarrier v s 3 ∧ ¬mustWait v s 3 ∧
      acquired v (s.setBarrier v (s.barrierOf v 3)) (max 0 2)) ∧
    (Met (useBar 0 [.pd 1]) fun v s => soundBarrier v s 3 ∧ phaseOpen v s 3) ∧
    (Met (useBar 0 [.pd 1]) fun v s => soundBarrier v s 3 ∧ ¬phaseOpen v s 3 ∧
      acquired v (s.setBarrier v (s.barrierOf v 3)) (max 4 2)) ∧
    Met (useBar 0 []) fun v s => phaseOpen v s 3 ∧ ¬mustWait v s 3 :=
  ⟨ready_dec (s := startK fun k => { k with barriers := [bar 2 0] }) (by decide),
   ready_dec (s := startK fun k => { k with barriers := [bar 2 0] }) (by decide),
   ready_dec (s := startK fun k => { k with barriers := [bar 1 0] }) (by decide), ready_dec (s := start) (by decide),
   ready_dec (s := startG fun x => { x with wait := .barSync 3 }) (by decide),
   ready_dec (s := startK fun k => { k with barriers := [bar 1 0] }) (by decide),
   ready_dec (s := startK fun k => { k with barriers := [bar 2 0] }) (by decide),
   ready_dec (s := startK fun k => { k with barriers := [bar 1 1] }) (by decide)⟩

/-- LaneSyncWords: an `msync` of lanes 0 to 3 given by those lanes, and by the first two of them; `fwait`. -/
theorem witness_laneSync : (Met { c := 0, ops := [.vs 1], orph := .once } fun v s =>
      v.e.passed = 0 ∧ (∀ l, v.em.getLsbD l = true → v.src 1 l = 15 ∧ (15 : Lanes).getLsbD l = true) ∧
      (∀ w ∈ (liveGroup v s).aside, w.mask = 15) ∧ s.released v 1 = true ∧
      ∀ l, (15 : Lanes).getLsbD l = true → (liveGroup v s).exited.getLsbD l = true ∨ v.em.getLsbD l = true ∨
        ∃ w ∈ (liveGroup v s).aside, w.lanes.getLsbD l = true) ∧
    (Met { c := 0, ops := [.vs 1], orph := .once } fun v s =>
      v.e.passed = 0 ∧ (∀ l, v.em.getLsbD l = true → v.src 1 l = 15 ∧ (15 : Lanes).getLsbD l = true) ∧
      (∀ w ∈ (liveGroup v s).aside, w.mask = 15) ∧ s.released v 1 = true ∧ (liveGroup v s).handler = none ∧
      (15 : Lanes).getLsbD 3 = true ∧ (liveGroup v s).exited.getLsbD 3 = false ∧ v.em.getLsbD 3 = false ∧
        ∀ w ∈ (liveGroup v s).aside, w.lanes.getLsbD 3 = false) ∧
    Met (useBar 0 []) fun v s => fretsDone (liveGroup v s) 0xFFF := by
  have give : ∀ v : Env, everyLane v.em (fun l => decide (v.src 1 l = 15 ∧ (15 : Lanes).getLsbD l = true)) = true →
      ∀ l, v.em.getLsbD l = true → v.src 1 l = 15 ∧ (15 : Lanes).getLsbD l = true := fun v h l hl =>
    of_decide_eq_true (everyLane_all h l hl)
  refine ⟨ready_meets (s := (startG (someLanes 15)).modTeam g0 fun t => t.vset 0 1 15 fun _ => 15)
    (ok := fun v s => everyLane v.em (fun l => decide (v.src 1 l = 15 ∧ (15 : Lanes).getLsbD l = true)) &&
      decide (v.e.passed = 0 ∧ (∀ w ∈ (liveGroup v s).aside, w.mask = 15) ∧ s.released v 1 = true) &&
      everyLane 15 fun l => v.em.getLsbD l) (by decide) fun v s h => ?_,
    ready_meets (s := (startG (someLanes 3)).modTeam g0 fun t => t.vset 0 1 15 fun _ => 15)
    (ok := fun v s => everyLane v.em (fun l => decide (v.src 1 l = 15 ∧ (15 : Lanes).getLsbD l = true)) &&
      decide (v.e.passed = 0 ∧ (∀ w ∈ (liveGroup v s).aside, w.mask = 15) ∧ s.released v 1 = true ∧ (liveGroup v s).handler = none ∧
        (15 : Lanes).getLsbD 3 = true ∧ (liveGroup v s).exited.getLsbD 3 = false ∧ v.em.getLsbD 3 = false ∧
        ∀ w ∈ (liveGroup v s).aside, w.lanes.getLsbD 3 = false)) (by decide) fun v s h => ?_,
    ready_meets (s := start) (ok := fun v s => decide ((liveGroup v s).frets = [])) (by decide) fun v s h => ?_⟩
  · simp only [Bool.and_eq_true] at h
    obtain ⟨⟨h1, h2⟩, h3⟩ := h
    obtain ⟨h4, h5, h6⟩ := of_decide_eq_true h2
    exact ⟨h4, give v h1, h5, h6, fun l hl => .inr (.inl (everyLane_all h3 l hl))⟩
  · simp only [Bool.and_eq_true] at h
    obtain ⟨h4, h5⟩ := of_decide_eq_true h.2
    exact ⟨h4, give v h.1, h5⟩
  · intro f _ _
    have : (liveGroup v s).frets = [] := of_decide_eq_true h
    simp [Group.fret, this, Tbl.get]

end Sys2Proof.Tests
end

section
/-! # Every step keeps the byte memories in their canonical form (O59)

A byte memory changes only by `setByte`, `write`, `writeMasked` and `moveBytes`, each of which keeps the form, and every other
operation of the model leaves the five memories of the state as they are (`State.Canonical.frame`). One lemma per operation of
the model, in the order of its definitions, says that it takes a canonical state to a canonical one; `State.Canonical.exec` is
the case split over the words and events, and `State.Canonical.step` the step. -/

/- The proofs are checked in order: there are several hundred, and each one that waits for the model's own proofs would hold a thread. -/
set_option Elab.async false

section
namespace Sys2Proof

/-- Moving the bytes of a range keeps the canonical form. -/
theorem Machine.wf_moveBytes {m : Mem} {src dest n : Nat} (w : m.wf = true) : Mem.wf (Machine.moveBytes m src dest n) = true := by
  have keeps : ∀ (l : List (Nat × Byte)) (m : Mem), m.wf = true →
      Mem.wf (l.foldl (fun m kx => m.setByte (kx.1 - src + dest) kx.2) m) = true := by
    intro l
    induction l with
    | nil => exact fun _ w => w
    | cons _ _ ih => exact fun m w => ih _ (Mem.wf_setByte m _ _ w)
  unfold Machine.moveBytes
  split
  · exact w
  · exact keeps _ _ (Tbl.wfFrom_filter 0 _ m 0 w)

/-- What holds of every value of a table, and of its default, holds after a change of the values that keeps it. -/
theorem Tbl.get_map_keeps {α : Type} {P : α → Prop} {d : α} {f : Nat × α → Nat × α} (hk : ∀ kx, (f kx).1 = kx.1)
    (hp : ∀ kx, P kx.2 → P (f kx).2) {t : Tbl α} {n : Nat} (h : P (t.get d n)) : P (Tbl.get d (t.map f) n) := by
  induction t with
  | nil => exact h
  | cons a t ih =>
    simp only [List.map_cons, Tbl.get, hk] at h ⊢
    split <;> simp_all

namespace Machine

/-! ### Cores -/

/-- The byte memories of a core are in their canonical form. -/
structure Core.Canonical (k : Core) : Prop where
  scratch : k.scratch.wf = true
  ob : k.ob.wf = true

section
variable {k : Core} {y0 : Tbl (Option Team)} {y3 : Tbl Word} {y4 : Tbl (BitVec 2)} {y5 y6 y15 : List Nat} {y7 : Tbl (Option QDesc)}
   {y8 y9 : List Barrier} {y10 : List (Nat × Nat × GroupRef)} {y11 : List RcEntry} {y12 y13 y28 y29 : Nat} {y14 : Tbl (Option Cmd)}
   {y16 : List LeaseReq} {y17 : Option Lease} {y18 : Tbl (Option Chain)} {y19 y20 y21 : DWord} {y22 y23 : Tbl Nat}
   {y24 : List (Nat × Nat)} {y25 : Bool} {y26 : List (Nat × Nat × Nat)} {y27 : Tbl (Option Tail)}

/-- A core with byte memories in their form. -/
theorem Core.Canonical.of_mems {m o : Mem} (hm : m.wf = true) (ho : o.wf = true) :
    (Core.mk y0 m o y3 y4 y5 y6 y7 y8 y9 y10 y11 y12 y13
       y14 y15 y16 y17 y18 y19 y20 y21 y22 y23 y24 y25 y26 y27 y28 y29).Canonical :=
  ⟨hm, ho⟩

/-- A change of fields of a core that are no byte memories. -/
theorem Core.Canonical.frame (h : k.Canonical) :
    (Core.mk y0 k.scratch k.ob y3 y4 y5 y6 y7 y8 y9 y10 y11 y12 y13
       y14 y15 y16 y17 y18 y19 y20 y21 y22 y23 y24 y25 y26 y27 y28 y29).Canonical :=
  .of_mems h.scratch h.ob

end

theorem Core.Canonical.modTeam {k : Core} {slot : Nat} {f : Team → Team} (h : k.Canonical) : (k.modTeam slot f).Canonical := by
  unfold Core.modTeam
  split
  · exact h
  · exact h.frame

theorem Core.Canonical.ite {k m : Core} {p : Prop} [Decidable p] (hk : k.Canonical) (hm : m.Canonical) : (if p then k else m).Canonical
    := by
  split <;> assumption

theorem Core.Canonical.foldl {α : Type} {f : Core → α → Core} {l : List α} {k : Core} (h : k.Canonical)
    (hf : ∀ k x, k.Canonical → (f k x).Canonical) : (l.foldl f k).Canonical := by
  induction l generalizing k with
  | nil => exact h
  | cons x l ih => exact ih (hf k x h)

theorem State.Canonical.core {s : State} {c : Nat} (h : s.Canonical) : (s.core c).Canonical := ⟨h.scratch c, h.ob c⟩

theorem State.Canonical.reset : State.reset.Canonical := ⟨rfl, rfl, rfl, fun _ => rfl, fun _ => rfl⟩

/-! ### Changes of the state -/

section
variable {s : State} {x1 : Tbl Die} {x2 : Tbl (Option Part)} {x3 : Tbl (Option Launch)} {x4 : List Comm} {x6 : List Nat}
  {x9 : Tbl (Option LlcTag)} {x10 : Tbl (Option Version)} {x11 : List Nat} {x12 : Module} {x13 : Health} {x14 : List Input}
  {x15 : List Instr} {x16 : Option Agent} {x17 : GroupRef} {x18 : Option Team} {x19 : Option Lanes} {x20 : Nat} {x21 : Note}
  {x22 x23 : Nat}

/-- A change of fields that are no byte memories. -/
theorem State.Canonical.frame (h : s.Canonical) :
    (State.mk s.cores x1 x2 x3 x4 s.hbm x6 s.hostMem s.remote x9 x10 x11 x12 x13 x14 x15 x16 x17 x18 x19 x20 x21 x22 x23).Canonical :=
  ⟨h.hbm, h.hostMem, h.remote, h.scratch, h.ob⟩

/-- A change of HBM that keeps its form. -/
theorem State.Canonical.setHbm (h : s.Canonical) {m : Mem} (w : m.wf = true) :
    (State.mk s.cores x1 x2 x3 x4 m x6 s.hostMem s.remote x9 x10 x11 x12 x13 x14 x15 x16 x17 x18 x19 x20 x21 x22 x23).Canonical :=
  ⟨w, h.hostMem, h.remote, h.scratch, h.ob⟩

/-- A change of every core that keeps the form of its memories. -/
theorem State.Canonical.mapCores (h : s.Canonical) {f : Nat × Core → Nat × Core} (hk : ∀ kc, (f kc).1 = kc.1)
    (hf : ∀ kc, kc.2.Canonical → (f kc).2.Canonical) :
    (State.mk
        (s.cores.map f) x1 x2 x3 x4 s.hbm x6 s.hostMem s.remote x9 x10 x11 x12 x13 x14 x15 x16 x17 x18 x19 x20 x21 x22 x23).Canonical :=
  have hc : ∀ c, (Tbl.get Core.reset (s.cores.map f) c).Canonical := fun _ => Tbl.get_map_keeps hk hf h.core
  ⟨h.hbm, h.hostMem, h.remote, fun c => (hc c).scratch, fun c => (hc c).ob⟩

end

/-- A change of one core; most change no byte memory. -/
theorem State.Canonical.modCore {s : State} {c : Nat} {f : Core → Core} (h : s.Canonical)
    (hf : ∀ k, k.Canonical → (f k).Canonical := by exact fun _ hk => hk.frame) : (s.modCore c f).Canonical := by
  have hc : ∀ n, ((s.modCore c f).core n).Canonical := fun n => by
    by_cases hn : n = c
    · subst hn
      rw [State.core_modCore]
      exact hf _ h.core
    · rw [State.core_modCore_ne _ _ _ _ hn]
      exact h.core
  exact ⟨h.hbm, h.hostMem, h.remote, fun n => (hc n).scratch, fun n => (hc n).ob⟩

theorem State.Canonical.ite {s t : State} {p : Prop} [Decidable p] (hs : s.Canonical) (ht : t.Canonical) :
    (if p then s else t).Canonical := by
  split <;> assumption

/-- Changes one after another, each of which keeps the form. -/
theorem State.Canonical.foldl {α : Type} {f : State → α → State} {l : List α} {s : State} (h : s.Canonical)
    (hf : ∀ s x, s.Canonical → (f s x).Canonical) : (l.foldl f s).Canonical := by
  induction l generalizing s with
  | nil => exact h
  | cons x l ih => exact ih (hf s x h)

/-! ### The form of what the model's operations answer -/

/-- The state at which a step ends, if it ends at one, is canonical. -/
def EndsCanonical : Host.Outcome State Fault Refusal → Prop
  | .next s => s.Canonical
  | .fault _ => True
  | .refused _ => True

/-- Either state is canonical. -/
def SumCanonical : State ⊕ State → Prop
  | .inl s => s.Canonical
  | .inr s => s.Canonical

/-- The state, if there is one, is canonical. -/
def OptionCanonical : Option State → Prop
  | none => True
  | some s => s.Canonical

/-- The state that the effect of a word leaves, if it leaves one, is canonical. -/
def Res.Canonical : Res → Prop
  | .busy s => s.Canonical
  | .part s _ => s.Canonical
  | .done s => s.Canonical
  | .jump s _ => s.Canonical
  | .ended s => s.Canonical
  | .wait => True
  | .trap _ => True

/-- The state of a walk's end is canonical. -/
def WalkEnd.Canonical : WalkEnd → Prop
  | .waits s => s.Canonical
  | .cached s => s.Canonical
  | .fault s _ => s.Canonical

/-- The state of a line's end is canonical. -/
def LineEnd.Canonical : LineEnd → Prop
  | .waits s => s.Canonical
  | .faults s => s.Canonical
  | .done s _ => s.Canonical

/-- The state of a write's end is canonical. -/
def PutEnd.Canonical : PutEnd → Prop
  | .more s => s.Canonical
  | .done s _ => s.Canonical

/-- The state of a start's end is canonical. -/
def StartEnd.Canonical : StartEnd → Prop
  | .waits s => s.Canonical
  | .starts s => s.Canonical

/-- The state of a row's end is canonical. -/
def RowEnd.Canonical : RowEnd → Prop
  | .more s => s.Canonical
  | .done s _ => s.Canonical

/-- The state after an entry of a chain, if it ran, is canonical. -/
def Walked.Canonical : Walked → Prop
  | .next s _ => s.Canonical
  | .wait => True
  | .stop _ => True

/-- The state after the lanes of a HYP word, if none traps, is canonical. -/
def HypRun.Canonical : HypRun → Prop
  | .go s => s.Canonical
  | .stop s _ => s.Canonical
  | .trap _ => True

/-- The state with what a fetch set under way is canonical. -/
def Fetched.Canonical : Fetched → Prop
  | .words _ => True
  | .fault _ _ _ s => s.Canonical
  | .held s => s.Canonical

/-- What stops a fetch, if anything does, is canonical. -/
def OptFetchedCanonical : Option Fetched → Prop
  | none => True
  | some f => f.Canonical

theorem OptFetchedCanonical.of_eq {a b : Option Fetched} (h : OptFetchedCanonical a) (e : a = b) : OptFetchedCanonical b := e ▸ h
theorem EndsCanonical.of_eq {a b : Host.Outcome State Fault Refusal} (h : EndsCanonical a) (e : a = b) : EndsCanonical b := e ▸ h
theorem SumCanonical.of_eq {a b : State ⊕ State} (h : SumCanonical a) (e : a = b) : SumCanonical b := e ▸ h
theorem OptionCanonical.of_eq {a b : Option State} (h : OptionCanonical a) (e : a = b) : OptionCanonical b := e ▸ h
theorem Res.Canonical.of_eq {a b : Res} (h : a.Canonical) (e : a = b) : b.Canonical := e ▸ h
theorem WalkEnd.Canonical.of_eq {a b : WalkEnd} (h : a.Canonical) (e : a = b) : b.Canonical := e ▸ h
theorem LineEnd.Canonical.of_eq {a b : LineEnd} (h : a.Canonical) (e : a = b) : b.Canonical := e ▸ h
theorem PutEnd.Canonical.of_eq {a b : PutEnd} (h : a.Canonical) (e : a = b) : b.Canonical := e ▸ h
theorem StartEnd.Canonical.of_eq {a b : StartEnd} (h : a.Canonical) (e : a = b) : b.Canonical := e ▸ h
theorem RowEnd.Canonical.of_eq {a b : RowEnd} (h : a.Canonical) (e : a = b) : b.Canonical := e ▸ h
theorem Walked.Canonical.of_eq {a b : Walked} (h : a.Canonical) (e : a = b) : b.Canonical := e ▸ h
theorem HypRun.Canonical.of_eq {a b : HypRun} (h : a.Canonical) (e : a = b) : b.Canonical := e ▸ h
theorem Fetched.Canonical.of_eq {a b : Fetched} (h : a.Canonical) (e : a = b) : b.Canonical := e ▸ h
/-- The state of a pair. -/
theorem State.Canonical.of_pair {α : Type} {x : State × α} {s : State} {a : α} (h : x.1.Canonical) (e : x = (s, a)) : s.Canonical := by
  subst e
  exact h

theorem OptionCanonical.getD {o : Option State} {s : State} (h : OptionCanonical o) (hs : s.Canonical) : (o.getD s).Canonical := by
  cases o
  · exact hs
  · exact h

end Machine

end Sys2Proof
end

section
/-! Every step keeps the byte memories in their form: the operations of Machine/Access.lean. -/

namespace Sys2Proof.Machine

variable {s : State} {r : GroupRef} {i : Instr}

theorem State.Canonical.modCmd {core id : ℕ} {f : Cmd → Cmd} (h : s.Canonical) : (s.modCmd core id f).Canonical :=
  h.modCore

theorem State.Canonical.modComm {i : ℕ} {f : Comm → Comm} (h : s.Canonical) : (s.modComm i f).Canonical :=
  h.frame

theorem State.Canonical.modDie {d : ℕ} {f : Die → Die} (h : s.Canonical) : (s.modDie d f).Canonical :=
  h.frame

theorem State.Canonical.modTeam {f : Team → Team} (h : s.Canonical) : (s.modTeam r f).Canonical :=
  h.modCore fun _ hk => hk.modTeam

theorem State.Canonical.modGroup {f : Group → Group} (h : s.Canonical) : (s.modGroup r f).Canonical :=
  h.modTeam

theorem State.Canonical.modPart {p : ℕ} {f : Part → Part} (h : s.Canonical) : (s.modPart p f).Canonical := by
  unfold State.modPart
  split
  · exact h
  · exact h.frame

theorem State.Canonical.modLaunch {l : ℕ} {f : Launch → Launch} (h : s.Canonical) : (s.modLaunch l f).Canonical := by
  unfold State.modLaunch
  split
  · exact h
  · exact h.frame

theorem State.Canonical.post (h : s.Canonical) : (s.post i).Canonical :=
  h.frame

theorem State.Canonical.postOnce (h : s.Canonical) : (s.postOnce i).Canonical := by
  unfold State.postOnce
  split
  · exact h
  · exact h.post

end Sys2Proof.Machine
end

section
/-! Every step keeps the byte memories in their form: the operations of Machine/Memory.lean. -/

namespace Sys2Proof.Machine

variable {s : State} {line part tag die : ℕ} {x : LineBytes} {psn : Bool} {m : LineMask}

theorem State.Canonical.homeWrite (h : s.Canonical) : (s.homeWrite line x).Canonical :=
  h.setHbm (Mem.wf_writeMasked _ _ _ _ _ h.hbm)

theorem State.Canonical.versionWrite (h : s.Canonical) : (s.versionWrite part tag line x psn).Canonical :=
  h.frame

theorem State.Canonical.modTag {f : LlcTag → LlcTag} (h : s.Canonical) : (s.modTag part tag line f).Canonical :=
  h.frame

theorem State.Canonical.share (h : s.Canonical) : (s.share part tag line die).Canonical :=
  h.modTag

theorem State.Canonical.invalidate {own : Bool} (h : s.Canonical) : (s.invalidate die part tag line m own).Canonical :=
  h.modDie

theorem State.Canonical.noteRead (h : s.Canonical) : (s.noteRead die line m).Canonical :=
  h.modDie

theorem State.Canonical.closeBatch (h : s.Canonical) : (s.closeBatch die).Canonical :=
  h.modDie

theorem State.Canonical.sliceWrite (h : s.Canonical) : (s.sliceWrite die part tag line x psn).Canonical := by
  unfold State.sliceWrite
  exact h.invalidate.modDie

theorem State.Canonical.fillFrame {need : LineMask} (h : s.Canonical) : (s.fillFrame die part tag line need).Canonical := by
  unfold State.fillFrame
  exact (h.foldl fun _ _ hs => hs.share).modDie

theorem State.Canonical.forwardedWrite {pa owner n x mask : ℕ} (h : s.Canonical) : (s.forwardedWrite pa owner n x mask).Canonical := by
  unfold State.forwardedWrite
  split
  · exact ⟨h.hbm, h.hostMem, Mem.wf_writeMasked _ _ _ _ _ h.remote, h.scratch, h.ob⟩
  · exact ⟨h.hbm, Mem.wf_writeMasked _ _ _ _ _ h.hostMem, h.remote, h.scratch, h.ob⟩

theorem State.Canonical.setFar {far : Bool × ℕ} {mask : LineMask} {bad : Bool} (h : s.Canonical) : (s.setFar far mask bad).Canonical := by
  unfold State.setFar
  split
  · exact h.frame
  · split
    · exact h.frame
    · exact h

theorem State.Canonical.loseStore (h : s.Canonical) : s.loseStore.Canonical :=
  h.frame

end Sys2Proof.Machine
end

section
/-! Every step keeps the byte memories in their form: the operations of Machine/Ops.lean. -/

namespace Sys2Proof.Machine

variable {s s0 : State} {c off part id l st slot core : ℕ} {r p : GroupRef} {m : Lanes} {f : Option ℕ} {kept : Bool} {k : Core} {t : Trap}
   {v : Env} {u : Use} {outs : List Outc} {body : Env → State → Res}

theorem State.Canonical.scratchWrite {n x : ℕ} (h : s.Canonical) : (s.scratchWrite c n off x).Canonical :=
  h.modCore fun _ hk => .of_mems (Mem.wf_write _ _ _ _ hk.scratch) hk.ob

theorem State.Canonical.countRef {up : Bool} (h : s.Canonical) : (s.countRef part id up).Canonical := by
  unfold State.countRef
  split
  · exact h
  · exact h.modPart

theorem State.Canonical.setHyp (h : s.Canonical) : (s.setHyp r part l id).Canonical := by
  unfold State.setHyp
  split
  · exact h
  · exact h.countRef.countRef.modGroup

theorem State.Canonical.followLanes (h : s.Canonical) : (s.followLanes r part m).Canonical :=
  h.foldl fun _ _ hs => show State.Canonical _ by
  split
  · split
    · exact hs
    · exact hs.setHyp
  · exact hs

theorem State.Canonical.fretUp (h : s.Canonical) : (s.fretUp r f).Canonical :=
  h.modGroup

theorem State.Canonical.fretDown {st : BitVec 2} (h : s.Canonical) : (s.fretDown r f st).Canonical :=
  h.modGroup

theorem State.Canonical.setStage {at_ : ℕ} (h : s.Canonical) : (s.setStage c at_ st).Canonical :=
  h.scratchWrite

theorem State.Canonical.endStage (h : s.Canonical) : (s.endStage c slot off st).Canonical :=
  h.setStage.modTeam.modCore

theorem State.Canonical.breakStagesOn (h : s.Canonical) : (s.breakStagesOn c p kept).Canonical :=
  h.foldl fun _ _ hs => State.Canonical.ite hs.endStage hs

theorem State.Canonical.breakStages (h : s.Canonical) : (s.breakStages p kept).Canonical :=
  h.foldl fun _ _ hs => hs.breakStagesOn

theorem State.Canonical.breakLatchOf {m : GroupRef} {l : Latched} (h : s.Canonical) : (s.breakLatchOf m l).Canonical := by
  unfold State.breakLatchOf
  extract_lets
  split
  · exact h.modGroup
  · exact h.modGroup.fretDown.modCore

theorem State.Canonical.breakLatch (h : s.Canonical) : (s.breakLatch r).Canonical := by
  unfold State.breakLatch
  split
  · exact h
  · exact h.foldl fun _ _ hs => show State.Canonical _ by
      split
      · exact hs
      · exact hs.foldl fun _ _ hs => hs.breakLatchOf

theorem Core.Canonical.dropWaiter (h : k.Canonical) : (k.dropWaiter r).Canonical :=
  h.frame

theorem State.Canonical.dropPush (h : s.Canonical) : (s.dropPush r).Canonical := by
  unfold State.dropPush
  split
  · exact h
  · exact h.modCore

theorem State.Canonical.askGrant (h : s.Canonical) : (s.askGrant core).Canonical := by
  unfold State.askGrant
  extract_lets
  split
  · exact h.postOnce
  · exact h

theorem Core.Canonical.enterRequest {now : ℕ} {c : Cmd} (h : k.Canonical) : (Core.enterRequest now k c).Canonical := by
  unfold Core.enterRequest
  split
  · exact h
  · split
    · exact h
    · exact h.frame

theorem State.Canonical.enterRequests (h : s.Canonical) : (s.enterRequests core).Canonical :=
  (h.modCore fun _ hk => hk.foldl fun _ _ hk => hk.enterRequest).askGrant

theorem State.Canonical.endLease (h : s.Canonical) : (s.endLease core).Canonical :=
  h.modCore.enterRequests

theorem Core.Canonical.leaseLeave {g : ℕ} (h : k.Canonical) : (k.leaseLeave slot g).Canonical :=
  h.frame

theorem State.Canonical.exitLanes (h : s.Canonical) : (s.exitLanes r part m).Canonical := by
  unfold State.exitLanes
  split
  · exact h
  · exact (h.foldl fun _ _ hs => hs.countRef).modGroup

theorem State.Canonical.recheckMsync (h : s.Canonical) : (s.recheckMsync r part).Canonical :=
  h.modGroup

theorem State.Canonical.groupGone (h : s.Canonical) : (s.groupGone r kept).Canonical := by
  unfold State.groupGone
  split
  · exact h
  · exact (h.dropPush.modTeam.breakStages.breakLatch.frame.modCore fun _ hk => hk.dropWaiter.leaseLeave.frame).enterRequests

theorem State.Canonical.recheckRegroup (h : s.Canonical) : (s.recheckRegroup r).Canonical := by
  unfold State.recheckRegroup
  split
  · exact h
  · split
    · exact h
    · exact h.postOnce

theorem Core.Canonical.closeQueues (h : k.Canonical) : (k.closeQueues slot).Canonical :=
  h.frame

theorem State.Canonical.setMember {t : Team} (h : s.Canonical) : (s.setMember t st core slot).Canonical :=
  h.modLaunch

theorem State.Canonical.teamOver (h : s.Canonical) : (s.teamOver c slot).Canonical := by
  unfold State.teamOver
  split
  · exact h
  · split
    · exact h.setMember.modCore fun _ hk => hk.closeQueues
    · exact h

theorem State.Canonical.groupExit (h : s.Canonical) : (s.groupExit r).Canonical := by
  unfold State.groupExit
  split
  · exact h
  · exact h.exitLanes.groupGone.teamOver.recheckRegroup.postOnce

theorem State.Canonical.launchStatus {st : BitVec 8} (h : s.Canonical) : (s.launchStatus l st).Canonical :=
  h.modLaunch

theorem Core.Canonical.withdraw (h : k.Canonical) : (k.withdraw slot).Canonical :=
  h.frame

theorem State.Canonical.killTeam {st : BitVec 8} (h : s.Canonical) : (s.killTeam c slot st).Canonical := by
  unfold State.killTeam
  split
  · exact h
  · exact (((h.foldl fun _ _ hs => hs.exitLanes.groupGone).foldl fun _ _ hs => hs.modGroup).setMember.modCore
      fun _ hk => hk.closeQueues.withdraw).modTeam.launchStatus.postOnce

theorem State.Canonical.killForAgain (h : s.Canonical) : (s.killForAgain c slot).Canonical := by
  unfold State.killForAgain
  split
  · exact h
  · exact h.killTeam.setMember.modTeam

theorem State.Canonical.policyKill (h : s.Canonical) : (s.policyKill c slot).Canonical := by
  unfold State.policyKill
  split
  · exact h
  · split
    · exact h.killForAgain
    · exact h.killTeam

theorem State.Canonical.dropTail (h : s.Canonical) : (s.dropTail r).Canonical :=
  h.modCore

theorem State.Canonical.retireOrphans {p : TrapSite} (h : s.Canonical) : (s.retireOrphans r part p).Canonical := by
  unfold State.retireOrphans
  extract_lets
  split
  · exact h.exitLanes.modPart.modGroup.recheckMsync
  · split
    · exact h.exitLanes.modPart.modGroup.recheckMsync.groupExit
    · exact h.exitLanes.modPart.modGroup.recheckMsync

theorem State.Canonical.takeTrap {p : TrapSite} (h : s.Canonical) : (s.takeTrap r t p).Canonical := by
  unfold State.takeTrap
  split
  · extract_lets
    split
    · exact h.killTeam
    · split
      · split
        · exact h.retireOrphans
        · exact h.killTeam
      · split
        · exact h.killTeam
        · split
          · exact (State.Canonical.ite ((h.dropPush.modCore fun _ hk => hk.dropWaiter).scratchWrite.modGroup.breakLatch.modTeam)
              ((h.dropPush.modCore fun _ hk => hk.dropWaiter).scratchWrite.modGroup.breakLatch.modTeam.dropTail)).breakStages
          · exact State.Canonical.ite ((h.dropPush.modCore fun _ hk => hk.dropWaiter).scratchWrite.modGroup.breakLatch.modTeam)
              ((h.dropPush.modCore fun _ hk => hk.dropWaiter).scratchWrite.modGroup.breakLatch.modTeam.dropTail)
  · exact h

theorem State.Canonical.startSweep {load : Bool} (h : s.Canonical) : (s.startSweep r load).Canonical :=
  h.modGroup.foldl fun _ _ hs => hs.post

theorem State.Canonical.stepFences (h : s.Canonical) : (s.stepFences r).Canonical := by
  unfold State.stepFences
  split
  · exact h
  · split
    · exact h
    · extract_lets
      split
      · exact h.modGroup.startSweep
      · exact h.modGroup

theorem State.Canonical.runPerm {p : Perm} (h : s.Canonical) : (s.runPerm r p).Canonical := by
  unfold State.runPerm
  split
  · exact h.modTeam.modGroup.fretDown
  · exact h

theorem State.Canonical.stepPerms (h : s.Canonical) : (s.stepPerms r).Canonical := by
  unfold State.stepPerms
  split
  · exact h
  · exact h.foldl fun _ _ hs => show State.Canonical _ by
      split
      · exact hs
      · split
        · exact hs.runPerm
        · exact hs

theorem State.Canonical.dropLog {n : LogEntry} (h : s.Canonical) : (s.dropLog r n).Canonical :=
  h.modGroup.stepFences.fretDown.stepPerms

theorem State.Canonical.resumeLog {lane resume : ℕ} (h : s.Canonical) : (s.resumeLog r slot lane resume).Canonical := by
  unfold State.resumeLog
  split
  · exact h
  · split
    · exact h
    · extract_lets
      split
      · exact h.dropLog
      · exact h.modGroup.postOnce

theorem State.Canonical.trapReturn {quit : Bool} (h : s.Canonical) : (s.trapReturn r quit).Canonical := by
  unfold State.trapReturn
  split
  · split
    · exact h
    · extract_lets
      split
      · exact h.killTeam
      · split
        · exact (State.Canonical.ite ((State.Canonical.ite h.exitLanes.recheckMsync h).resumeLog)
            (State.Canonical.ite h.exitLanes.recheckMsync h)).killTeam
        · extract_lets
          split
          · exact (State.Canonical.ite ((State.Canonical.ite h.exitLanes.recheckMsync h).resumeLog)
              (State.Canonical.ite h.exitLanes.recheckMsync h)).modGroup.groupExit
          · exact (State.Canonical.ite ((State.Canonical.ite h.exitLanes.recheckMsync h).resumeLog)
              (State.Canonical.ite h.exitLanes.recheckMsync h)).modGroup
  · exact h

theorem State.Canonical.dataError {lane : Option ℕ} (h : s.Canonical) : (Machine.dataError v s lane).Canonical := by
  unfold Machine.dataError
  split
  · exact h.policyKill
  · trivial

theorem State.Canonical.hold (h : s.Canonical) : (Machine.hold s).Canonical :=
  h.frame

theorem State.Canonical.raise {stage : ℕ} (h0 : s0.Canonical) (h : s.Canonical) : (Machine.raise stage t u v s0 s).Canonical := by
  unfold Machine.raise
  split
  · exact h0.frame
  · exact h.takeTrap.frame

theorem State.Canonical.finishBelow {s1 : State} (h0 : s0.Canonical) (h1 : s1.Canonical) :
    (Machine.finishBelow v outs m s0 s1).Canonical := by
  unfold Machine.finishBelow
  split
  · exact h1.frame
  · extract_lets
    split
    · exact h1.frame
    · split
      · exact h0.frame
      · exact h1.modGroup.frame

theorem State.Canonical.finish (h0 : s0.Canonical) (h : s.Canonical) : (Machine.finish u v outs s0 s).Canonical := by
  unfold Machine.finish
  extract_lets
  split
  · exact h.modGroup.frame
  · split
    · exact h0.finishBelow h.modGroup
    · split
      · exact h.modGroup.frame
      · split
        · exact h.modGroup.frame
        · split
          · exact h0.raise h0
          · extract_lets
            split
            · exact h.modGroup.modGroup.frame.groupExit
            · exact h.modGroup.modGroup.frame

theorem State.Canonical.partly {left : Lanes} (h0 : s0.Canonical) (h : s.Canonical) : (Machine.partly v left s0 s).Canonical := by
  unfold Machine.partly
  split
  · exact h0.frame
  · exact h.modGroup.frame

theorem State.Canonical.settle {r : Res} (hbody : ∀ v s, s.Canonical → (body v s).Canonical) (h : s.Canonical) (hr : r.Canonical) :
    (Machine.settle u body v s r).Canonical := by
  cases r with
  | wait => exact h.hold
  | busy s1 => exact State.Canonical.frame hr
  | ended s1 => exact (State.Canonical.modGroup hr).frame
  | part s1 left => exact h.partly hr
  | done s1 => exact h.finish hr
  | jump s1 outs => exact h.finish hr
  | trap t =>
    dsimp only [Machine.settle]
    split
    · exact h.raise h
    · next l _ =>
      have hb := hbody (v.below l) s h
      split
      · exact h.raise h
      · split
        · next e => exact h.raise (hb.of_eq e)
        · next e => exact h.raise (hb.of_eq e)
        · exact h.hold
        · next s1 e =>
          have h1 : s1.Canonical := hb.of_eq e
          exact h1.frame
        · exact h.raise h

theorem State.Canonical.settleOrphan (hbody : ∀ v s, s.Canonical → (body v s).Canonical) (h : s.Canonical) :
    (Machine.settleOrphan u body v s l).Canonical := by
  unfold Machine.settleOrphan
  split
  · exact h.raise h
  · have hb := hbody (v.below l) s h
    split
    · next e => exact h.raise (hb.of_eq e)
    · next e => exact h.raise (hb.of_eq e)
    · next e => exact h.partly (hb.of_eq e)
    · exact h.settle hbody hb

theorem State.Canonical.perform (hbody : ∀ v s, s.Canonical → (body v s).Canonical) (h : s.Canonical) :
    EndsCanonical (Machine.perform u body s) := by
  unfold Machine.perform
  split
  · trivial
  · next v _ =>
    have hf : State.Canonical (if u.orph = .free then s else s.followLanes v.r v.part v.em) := .ite h h.followLanes
    split
    · exact h.raise h
    · split
      · exact h.finish h
      · split
        · exact h.hold
        · split
          · exact h.settle hbody h.dataError
          · split
            · exact hf.settleOrphan hbody
            · exact hf.settle hbody (hbody _ _ hf)

end Sys2Proof.Machine
end

section
/-! Every step keeps the byte memories in their form: the operations of Machine/Flags.lean. -/

namespace Sys2Proof.Machine

variable {v : Env} {s : State} {d : BitVec 7}

theorem State.Canonical.goodResv {h : ℕ} {k : Unit → Res} (hc : s.Canonical) (hk : ∀ x0, (k x0).Canonical) :
    (Machine.goodResv h v s k).Canonical := by
  unfold Machine.goodResv
  split
  · exact hc.dataError
  · exact hk _

theorem State.Canonical.laneBody {f : Env → Group → ℕ → LaneOut} (h : s.Canonical) : (Machine.laneBody f v s).Canonical := by
  unfold Machine.laneBody
  extract_lets
  split
  · trivial
  · exact h.modTeam

theorem State.Canonical.lane32 {f : Env → ℕ → Word} (h : s.Canonical) : (Machine.lane32 d f v s).Canonical :=
  h.modTeam

theorem State.Canonical.lane64 {f : Env → ℕ → DWord} (h : s.Canonical) : (Machine.lane64 d f v s).Canonical :=
  h.modTeam

theorem State.Canonical.uniform {d : ℕ} {f : Env → DWord} (h : s.Canonical) : (Machine.uniform d f v s).Canonical :=
  h.modGroup

theorem State.Canonical.lanePred {d : ℕ} {f : Env → Lanes} (h : s.Canonical) : (Machine.lanePred d f v s).Canonical :=
  h.modGroup

end Sys2Proof.Machine
end

section
/-! Every step keeps the byte memories in their form: the operations of Machine/Order.lean. -/

namespace Sys2Proof.Machine

variable {sc : ℕ} {v : Env} {s : State} {k : State → Res}

theorem State.Canonical.acquireThen (h : s.Canonical) (hk : ∀ s, s.Canonical → (k s).Canonical) :
    (Machine.acquireThen sc v s k).Canonical := by
  unfold Machine.acquireThen
  extract_lets
  split
  · trivial
  · split
    · exact hk _ h.closeBatch
    · split
      · exact h.startSweep
      · split
        · exact hk _ h.modGroup.closeBatch
        · trivial

theorem State.Canonical.releaseThen (h : s.Canonical) (hk : ∀ s, s.Canonical → (k s).Canonical) :
    (Machine.releaseThen sc v s k).Canonical := by
  unfold Machine.releaseThen
  split
  · exact hk _ h
  · trivial

theorem State.Canonical.fenceFrom {f : ℕ} (h : s.Canonical) : (s.fenceFrom v sc f).Canonical :=
  h.modGroup.stepFences

theorem State.Canonical.fenceBody {sc f : BitVec 3} (h : s.Canonical) : (Machine.fenceBody sc f v s).Canonical :=
  h.fenceFrom

theorem State.Canonical.fenceScBody {sc : BitVec 3} (h : s.Canonical) : (Machine.fenceScBody sc v s).Canonical := by
  unfold Machine.fenceScBody
  split
  · exact h.fenceFrom
  · split
    · trivial
    · exact h.modGroup.fenceFrom.post.frame

end Sys2Proof.Machine
end

section
/-! Every step keeps the byte memories in their form: the operations of Machine/Ctl.lean. -/

namespace Sys2Proof.Machine

variable {o : BitVec 14} {pri : BitVec 6} {v : Env} {s : State} {a d : BitVec 7} {w : BitVec 12} {b : BitVec 4} {g n : BitVec 1}
   {p : BitVec 3}

theorem State.Canonical.branchBody {f : Env → Lanes} (h : s.Canonical) : (Machine.branchBody o pri f v s).Canonical :=
  h

theorem State.Canonical.callBody (h : s.Canonical) : (Machine.callBody o pri v s).Canonical :=
  h.modGroup

theorem State.Canonical.retBody (h : s.Canonical) : (Machine.retBody v s).Canonical := by
  unfold Machine.retBody
  extract_lets
  split
  · trivial
  · exact h

theorem State.Canonical.brxBody {p : BitVec 7} (h : s.Canonical) : (Machine.brxBody a p v s).Canonical := by
  unfold Machine.brxBody
  extract_lets
  split
  · trivial
  · exact h

theorem State.Canonical.exitBody (h : s.Canonical) : (Machine.exitBody v s).Canonical := by
  unfold Machine.exitBody
  split
  · exact h.trapReturn
  · exact h.exitLanes.recheckMsync

theorem State.Canonical.ientBody (h : s.Canonical) : (Machine.ientBody v s).Canonical :=
  h.modGroup

theorem State.Canonical.regroupBody (h : s.Canonical) : (Machine.regroupBody a v s).Canonical := by
  unfold Machine.regroupBody
  split
  · trivial
  · exact h.releaseThen fun _ hs => hs.modTeam.modGroup.postOnce

theorem State.Canonical.hdrStep {a : BitVec 4} (h : s.Canonical) : (Machine.hdrStep w a b g p n v s).Canonical := by
  unfold Machine.hdrStep
  extract_lets
  split
  · exact h.raise h
  · split
    · exact h.hold
    · split
      · exact h.raise h
      · exact h.finish h.modGroup

theorem State.Canonical.srdBody (h : s.Canonical) : (Machine.srdBody d a v s).Canonical := by
  unfold Machine.srdBody
  split
  · exact h.followLanes.lane32
  · split
    · exact h.lane64
    · split
      · exact h.lane64
      · exact h.uniform

theorem State.Canonical.swrBody (h : s.Canonical) : (Machine.swrBody d a v s).Canonical :=
  h.modGroup

theorem State.Canonical.xacqBody (h : s.Canonical) : (Machine.xacqBody v s).Canonical := by
  unfold Machine.xacqBody
  split
  · exact h.modTeam
  · split
    · exact h
    · exact h.modTeam

theorem State.Canonical.xtryBody (h : s.Canonical) : (Machine.xtryBody p v s).Canonical :=
  (State.Canonical.ite h.modTeam h).modGroup

theorem State.Canonical.xrelBody (h : s.Canonical) : (Machine.xrelBody v s).Canonical := by
  unfold Machine.xrelBody
  split
  · exact h
  · split
    · trivial
    · exact h.modTeam

theorem State.Canonical.tretBody (h : s.Canonical) : (Machine.tretBody v s).Canonical := by
  unfold Machine.tretBody
  split
  · trivial
  · exact h.trapReturn

theorem State.Canonical.sleepBody (h : s.Canonical) : (Machine.sleepBody a v s).Canonical := by
  unfold Machine.sleepBody
  extract_lets
  split
  · exact h
  · exact h.modGroup.post

theorem State.Canonical.execHdr {a : BitVec 4} (h : s.Canonical) : EndsCanonical (Machine.execHdr w a b g p n s) := by
  unfold Machine.execHdr
  split
  · trivial
  · exact h.hdrStep

end Sys2Proof.Machine
end

section
/-! Every step keeps the byte memories in their form: the operations of Machine/Int.lean. -/

namespace Sys2Proof.Machine

theorem State.Canonical.carryBody {d a b : BitVec 7} {add : Bool} {v : Env} {s : State} (h : s.Canonical) :
    (Machine.carryBody d a b add v s).Canonical :=
  h.modTeam.modGroup

end Sys2Proof.Machine
end

section
/-! Every step keeps the byte memories in their form: the operations of Machine/Mem.lean. -/

namespace Sys2Proof.Machine

variable {s : State} {r : GroupRef} {op : MemOp} {v : Env} {accs : List Access} {lowest acquire wide load : Bool} {cls : FretClass}
   {sc : BitVec 3} {o c : BitVec 1} {d : BitVec 7}

theorem State.Canonical.scratchAccess {c at_ : ℕ} {a : Access} {m : Lanes} (h : s.Canonical) :
    (s.scratchAccess r c at_ op a m).Canonical := by
  unfold State.scratchAccess
  split
  · exact h.modCore fun _ hk => .of_mems (Mem.wf_writeMasked _ _ _ _ _ hk.scratch) hk.ob
  · refine .modTeam ?_
    split
    · exact h
    · exact h.scratchWrite
  · exact h.modTeam

theorem State.Canonical.sendLine {seq vline : ℕ} (h : s.Canonical) : (s.sendLine r op seq vline).Canonical := by
  unfold State.sendLine
  split <;> exact h.postOnce

theorem State.Canonical.logWord {done : Lanes} {sweeps : Bool} (h : s.Canonical) :
    (Machine.logWord v op accs done lowest acquire sweeps wide cls s).Canonical :=
  h.modGroup.foldl fun _ _ hs => hs.sendLine

theorem State.Canonical.acquireSweep {sc : ℕ} (h : s.Canonical) : (Machine.acquireSweep acquire sc v s).Canonical := by
  unfold Machine.acquireSweep
  split
  · exact h.startSweep
  · exact h

theorem State.Canonical.performAccs {need : ℕ} {zero : Lanes} {sc : ℕ} {win : Option Win} (h : s.Canonical) :
    (Machine.performAccs need op accs zero lowest acquire wide sc cls win v s).Canonical := by
  unfold Machine.performAccs
  extract_lets
  split
  · split
    · exact h.dataError
    · extract_lets
      split
      · trivial
      · split
        · exact ((State.Canonical.ite h h.modTeam).foldl fun _ _ hs => hs.scratchAccess).frame
        · exact ((State.Canonical.ite h h.modTeam).foldl fun _ _ hs => hs.scratchAccess).acquireSweep
  · split
    · exact State.Canonical.ite h h.modTeam
    · split
      · trivial
      · split
        · trivial
        · exact (State.Canonical.ite h h.modTeam).logWord

theorem State.Canonical.memBody {m : MemWord} (h : s.Canonical) : (Machine.memBody m v s).Canonical := by
  unfold Machine.memBody
  split
  · trivial
  · dsimp only
    split
    · trivial
    · split
      · trivial
      · split
        · trivial
        · split
          · trivial
          · exact h.performAccs

theorem State.Canonical.lineBody {qn : BitVec 4} {xr : BitVec 5} (h : s.Canonical) :
    (Machine.lineBody load o sc d qn xr v s).Canonical := by
  unfold Machine.lineBody
  extract_lets n i op
  split
  · trivial
  · split
    · trivial
    · extract_lets eb a0 inside win here all accs s1
      have h1 : s1.Canonical := .ite (h.foldl fun _ _ hs => hs.modTeam) h
      clear_value here win
      split
      · trivial
      · split
        · trivial
        · split
          · trivial
          · split
            · trivial
            · split
              · trivial
              · split
                · trivial
                · split
                  · trivial
                  · split
                    · trivial
                    · exact h1.performAccs

theorem State.Canonical.execLine {q : BitVec 4} {x : BitVec 5} {use : ℕ → Use} (h : s.Canonical) :
    EndsCanonical (Machine.execLine load c o sc d q x use s) := by
  unfold Machine.execLine
  split
  · trivial
  · exact h.perform fun _ _ hs => hs.lineBody

theorem State.Canonical.execAtomic {dbl : Bool} {fn : BitVec 4} {o : BitVec 2} {q : BitVec 3} {x : BitVec 7} (h : s.Canonical) :
    EndsCanonical (Machine.execAtomic dbl fn c sc o d q x s) := by
  unfold Machine.execAtomic
  split
  · trivial
  · exact h.perform fun _ _ hs => hs.memBody

theorem State.Canonical.rldBody {a : BitVec 7} {k b : BitVec 1} (h : s.Canonical) : (Machine.rldBody d a k b v s).Canonical := by
  unfold Machine.rldBody
  extract_lets
  split
  · trivial
  · split
    · trivial
    · split
      · trivial
      · split
        · trivial
        · exact h.modCore.logWord

theorem State.Canonical.rfenceBody (h : s.Canonical) : (Machine.rfenceBody v s).Canonical :=
  h.modCore

end Sys2Proof.Machine
end

section
/-! Every step keeps the byte memories in their form: the operations of Machine/Spill.lean. -/

namespace Sys2Proof.Machine

variable {s : State} {part tag line key die : ℕ}

theorem State.Canonical.spillTo {v : Version} {k : ℕ} {e : Extent} {n : ℕ} (h : s.Canonical) :
    (s.spillTo part tag line v k e n).Canonical :=
  h.setHbm (Mem.wf_write _ _ _ _ (Mem.wf_write _ _ _ _ h.hbm))

theorem State.Canonical.postEvent (h : s.Canonical) : s.postEvent.Canonical :=
  h.frame

theorem State.Canonical.hypcap (h : s.Canonical) : (s.hypcap part line tag).Canonical := by
  unfold State.hypcap
  split
  · exact h
  · split
    · split
      · exact h
      · split
        · exact h
        · exact h.modPart.postOnce
    · split
      · exact h
      · exact h.modPart.postEvent

theorem State.Canonical.sendInvalidations {w : LineWrite} {except : ℕ} (h : s.Canonical) : (s.sendInvalidations w except).Canonical :=
  h.foldl fun _ _ hs => State.Canonical.ite hs hs.post

theorem State.Canonical.llcInsert {way : ℕ} (h : s.Canonical) : (s.llcInsert part tag line way).Canonical :=
  h.frame

theorem State.Canonical.evictRoot (h : s.Canonical) : (s.evictRoot key).Canonical :=
  h.sendInvalidations.frame

theorem State.Canonical.evictVersion (h : s.Canonical) : SumCanonical (s.evictVersion key) := by
  unfold State.evictVersion
  extract_lets
  split
  · exact h.frame
  · split
    · exact h.frame
    · split
      · exact h.hypcap
      · exact h.spillTo.frame

theorem State.Canonical.llcAlloc (h : s.Canonical) : SumCanonical (s.llcAlloc part tag line) := by
  unfold State.llcAlloc
  split
  · exact h
  · extract_lets
    split
    · exact h.llcInsert
    · split
      · exact h.frame.evictRoot.llcInsert
      · split
        · exact h
        · split
          · next s1 e1 =>
            exact h.frame.evictVersion.of_eq e1
          · next s1 e1 =>
            have h1 : s1.Canonical := h.frame.evictVersion.of_eq e1
            exact h1.llcInsert

theorem State.Canonical.evictFrame {f : Frame} (h : s.Canonical) : (s.evictFrame die key f).Canonical := by
  unfold State.evictFrame
  exact (State.Canonical.ite (show State.Canonical _ by
  split
  · next s2 e2 =>
    exact h.llcAlloc.of_eq e2
  · next s2 e2 =>
    exact h.llcAlloc.of_eq e2) h).modDie

theorem State.Canonical.l2Alloc (h : s.Canonical) : SumCanonical (s.l2Alloc die part tag line) := by
  unfold State.l2Alloc
  extract_lets
  split
  · exact h
  · split
    · exact h.modDie
    · split
      · exact h
      · split
        · exact h.postOnce
        · exact h.frame.evictFrame.modDie

theorem State.Canonical.unspill (h : s.Canonical) : (s.unspill part tag line).Canonical := by
  unfold State.unspill
  split
  · exact h
  · split
    · exact h
    · split
      · exact h
      · exact h.setHbm (Mem.wf_write _ _ _ _ h.hbm)

theorem State.Canonical.readBack (h : s.Canonical) : SumCanonical (s.readBack part tag line) := by
  unfold State.readBack
  split
  · exact h
  · split
    · exact h
    · split
      · next s1 e1 =>
        exact h.llcAlloc.of_eq e1
      · next s1 e1 =>
        have h1 : s1.Canonical := h.llcAlloc.of_eq e1
        exact h1.unspill

theorem State.Canonical.readBackPath {tags : List ℕ} (h : s.Canonical) : SumCanonical (s.readBackPath part line tags) := by
  induction tags generalizing s with
  | nil => exact h
  | cons t rest ih =>
    unfold State.readBackPath
    split
    · next e => exact h.readBack.of_eq e
    · next e => exact ih (h.readBack.of_eq e)

theorem State.Canonical.dropVersion (h : s.Canonical) : (s.dropVersion part tag line).Canonical :=
  h.unspill.frame

end Sys2Proof.Machine
end

section
/-! Every step keeps the byte memories in their form: the operations of Machine/Lines.lean. -/

namespace Sys2Proof.Machine

variable {s : State} {die line part pa tag seq cause vpage va vline entry : ℕ} {w : LineWrite} {g : GroupRef} {n : LogEntry}
   {accs : List Access} {tags : List ℕ} {a : Access} {ws : List (ℕ × DWord)} {y1 : Waiter}

theorem State.Canonical.happened (h : s.Canonical) : EndsCanonical (Machine.happened s) :=
  h.frame

theorem State.Canonical.dropLeavesOf {p : ℕ → Bool} (h : s.Canonical) : (s.dropLeavesOf die p).Canonical := by
  unfold State.dropLeavesOf
  extract_lets
  split
  · exact h.modDie
  · exact h.modDie.mapCores (fun kc => by split <;> rfl) fun kc hk => by
      split
      · exact hk.frame
      · exact hk

theorem State.Canonical.dropLeaves (h : s.Canonical) : (s.dropLeaves die line).Canonical :=
  h.dropLeavesOf

theorem State.Canonical.wakeRings {m : LineMask} {hyp : BitVec 12} (h : s.Canonical) : (s.wakeRings line m hyp).Canonical :=
  h.foldl fun _ _ hs => show State.Canonical _ by
  split
  · exact hs
  · split
    · exact hs
    · exact hs.post

theorem State.Canonical.holdRoot (h : s.Canonical) : (s.holdRoot part line).Canonical := by
  unfold State.holdRoot
  split
  · next s1 e1 =>
    exact h.llcAlloc.of_eq e1
  · next s1 e1 =>
    exact h.llcAlloc.of_eq e1

theorem State.Canonical.selfInvalidate (h : s.Canonical) : (s.selfInvalidate die w).Canonical := by
  unfold State.selfInvalidate
  split
  · exact h.post
  · exact h

theorem State.Canonical.rootApply {x : LineBytes} {clock : List ℕ} {except : ℕ} {psn : Bool} (h : s.Canonical) :
    (s.rootApply line x clock except part psn).Canonical :=
  h.holdRoot.homeWrite.frame.frame.sendInvalidations.selfInvalidate.wakeRings

theorem State.Canonical.agentWrite {n x : ℕ} (h : s.Canonical) : (s.agentWrite pa n x part).Canonical :=
  h.rootApply

theorem State.Canonical.homeHolds (h : s.Canonical) : SumCanonical (s.homeHolds part tag line) := by
  unfold State.homeHolds
  split
  · next s1 e1 =>
    exact h.readBack.of_eq e1
  · next s1 e1 =>
    have h1 : s1.Canonical := h.readBack.of_eq e1
    exact h1.llcAlloc

theorem State.Canonical.applyAt {t : ℕ} (h : s.Canonical) : (s.applyAt w t).Canonical :=
  (State.Canonical.ite h.rootApply ((State.Canonical.ite h h.versionWrite).sendInvalidations.wakeRings)).share

theorem State.Canonical.execHomeApplyWrite (h : s.Canonical) : EndsCanonical (Machine.execHomeApplyWrite w s) := by
  unfold Machine.execHomeApplyWrite
  split
  · exact h.post.happened
  · extract_lets
    split
    · exact h.frame.post.happened
    · split
      · next s1 e1 =>
        have h1 : s1.Canonical := h.homeHolds.of_eq e1
        exact h1.post.happened
      · next s1 e1 =>
        have h1 : s1.Canonical := h.homeHolds.of_eq e1
        exact h1.applyAt.frame.post.happened

theorem State.Canonical.execWriteAck (h : s.Canonical) : EndsCanonical (Machine.execWriteAck w s) :=
  h.modDie.happened

theorem State.Canonical.execRootWriteBatchSend (h : s.Canonical) : EndsCanonical (Machine.execRootWriteBatchSend die s) := by
  unfold Machine.execRootWriteBatchSend
  extract_lets
  split
  · exact h.happened
  · exact (State.Canonical.ite (h.modDie.foldl fun _ _ hs => hs.post) ((h.modDie.foldl fun _ _ hs => hs.post).postOnce)).happened

theorem State.Canonical.execApplyInvalidation (h : s.Canonical) : EndsCanonical (Machine.execApplyInvalidation die w s) := by
  unfold Machine.execApplyInvalidation
  split
  · exact h.post.happened
  · exact (State.Canonical.ite ((State.Canonical.ite h.invalidate.modDie.dropLeaves h.invalidate.modDie).post)
      (State.Canonical.ite h.invalidate.modDie.dropLeaves h.invalidate.modDie)).happened

theorem State.Canonical.sweepDone (h : s.Canonical) : (s.sweepDone g).Canonical :=
  h.modGroup.frame.closeBatch.stepFences

theorem State.Canonical.execSweepAnswer {cacheDie : ℕ} (h : s.Canonical) : EndsCanonical (Machine.execSweepAnswer g cacheDie s) := by
  unfold Machine.execSweepAnswer
  split
  · exact h.happened
  · split
    · exact h.happened
    · split
      · exact h.post.happened
      · exact (State.Canonical.ite h.sweepDone h.modGroup).happened

theorem State.Canonical.execFenceScTicket (h : s.Canonical) : EndsCanonical (Machine.execFenceScTicket s) := by
  unfold Machine.execFenceScTicket
  split
  · exact h.post.happened
  · split
    · exact (State.Canonical.ite h h.post).happened
    · exact h.modGroup.frame.stepFences.happened

theorem State.Canonical.fill {need : LineMask} (h : s.Canonical) : SumCanonical (s.fill die part tag line need) := by
  unfold State.fill
  split
  · next s1 e1 =>
    exact h.readBackPath.of_eq e1
  · next s1 e1 =>
    have h1 : s1.Canonical := h.readBackPath.of_eq e1
    split
    · next s2 e2 =>
      exact h1.llcAlloc.of_eq e2
    · next s2 e2 =>
      have h2 : s2.Canonical := h1.llcAlloc.of_eq e2
      split
      · next s3 e3 =>
        exact h2.l2Alloc.of_eq e3
      · next s3 e3 =>
        have h3 : s3.Canonical := h2.l2Alloc.of_eq e3
        exact h3.fillFrame.modDie

theorem State.Canonical.execHomeRequest {want : Want} (h : s.Canonical) : EndsCanonical (Machine.execHomeRequest die part line want s) := by
  unfold Machine.execHomeRequest
  extract_lets
  split
  · exact h.happened
  · split
    · exact h.post.happened
    · split
      · next s1 e1 =>
        have h1 : s1.Canonical := h.fill.of_eq e1
        exact h1.post.happened
      · next s1 e1 =>
        have h1 : s1.Canonical := h.fill.of_eq e1
        exact h1.happened

theorem State.Canonical.modLog {f : LogEntry → LogEntry} (h : s.Canonical) : (s.modLog g seq f).Canonical :=
  h.modGroup

theorem State.Canonical.logFault {cls addr : ℕ} (h : s.Canonical) : (s.logFault g seq cls cause addr).Canonical := by
  unfold State.logFault
  split
  · exact h
  · split
    · exact h
    · exact h.modLog.post

theorem State.Canonical.closeLog (h : s.Canonical) : (s.closeLog g n).Canonical := by
  unfold State.closeLog
  extract_lets
  split
  · exact h.dropLog.startSweep
  · split
    · exact h.dropLog.closeBatch
    · exact h.dropLog

theorem State.Canonical.accsDone {gone : Access → Bool} (h : s.Canonical) : (s.accsDone g seq gone).Canonical := by
  unfold State.accsDone
  extract_lets
  split
  · exact h.modLog
  · split
    · exact h.modLog.closeLog
    · exact h.modLog

theorem State.Canonical.writeHint {count src : ℕ} (h : s.Canonical) : (s.writeHint die part vpage count src).Canonical := by
  unfold State.writeHint
  extract_lets
  split
  · exact h.modDie
  · exact (State.Canonical.ite h.agentWrite h).modDie

theorem State.Canonical.countForward {cnt : Bool} (h : s.Canonical) : (s.countForward die part va pa cnt).Canonical := by
  unfold State.countForward
  extract_lets
  split
  · exact h
  · split
    · exact (State.Canonical.ite h.frame h).modDie
    · exact (State.Canonical.ite h.frame h).modDie.post

theorem State.Canonical.touchFrame {nc filled : Bool} (h : s.Canonical) : (s.touchFrame g part tag line nc filled).Canonical := by
  unfold State.touchFrame
  split
  · exact h
  · exact h.modDie

theorem State.Canonical.missOn {w : Waiter} (h : s.Canonical) : OptionCanonical (s.missOn die part vline w) := by
  unfold State.missOn
  extract_lets
  split
  · exact h.modDie
  · split
    · exact h.modDie.post
    · split
      · exact h.modDie
      · trivial

theorem State.Canonical.endWalk (h : s.Canonical) : (s.endWalk die part vpage).Canonical := by
  unfold State.endWalk
  extract_lets
  split
  · exact h.modDie
  · exact h.modDie.post

theorem State.Canonical.hostYields (h : s.Canonical) : (s.hostYields line).Canonical := by
  unfold State.hostYields
  split
  · exact h.frame
  · exact h

theorem State.Canonical.startFlip {toHost : Bool} (h : s.Canonical) : (s.startFlip pa toHost).Canonical :=
  h.post.frame

theorem State.Canonical.readLine (h : s.Canonical) : (s.readLine g part line n accs).Canonical :=
  h.noteRead.foldl fun _ _ hs => hs.modTeam

theorem State.Canonical.allocTags (h : s.Canonical) : SumCanonical (s.allocTags die part line tags) := by
  induction tags generalizing s with
  | nil => exact h
  | cons t rest ih =>
    unfold State.allocTags
    split
    · next e => exact h.l2Alloc.of_eq e
    · next e => exact ih (h.l2Alloc.of_eq e)

theorem State.Canonical.writeLine (h : s.Canonical) : (s.writeLine g part line n accs).Canonical :=
  (h.foldl fun _ _ hs => State.Canonical.ite hs hs.sliceWrite).postOnce

theorem State.Canonical.atomSlice (h : s.Canonical) : (s.atomSlice g part line n a).Canonical :=
  (show State.Canonical _ by
  split
  · exact h.noteRead
  · exact h.noteRead.sliceWrite.postOnce).modTeam

theorem State.Canonical.writeHome {b : LineBytes} (h : s.Canonical) : (s.writeHome die part tag line b).Canonical :=
  h.modDie.frame.applyAt.invalidate

theorem State.Canonical.atomHome (h : s.Canonical) : (s.atomHome g part line n a).Canonical :=
  (show State.Canonical _ by
  split
  · exact h.modDie
  · exact h.writeHome).modTeam

theorem State.Canonical.forwardAccess {owner : ℕ} (h : s.Canonical) : (s.forwardAccess g pa owner n a).Canonical := by
  unfold State.forwardAccess
  split
  · exact h.forwardedWrite
  · exact (show State.Canonical _ by
      split
      · exact h
      · exact h.forwardedWrite).modTeam
  · exact h.modTeam

theorem State.Canonical.forwardLine {pte : DWord} (h : s.Canonical) : (s.forwardLine g seq part vline pa pte n accs).Canonical := by
  unfold State.forwardLine
  extract_lets
  split
  · exact h.logFault
  · split
    · split
      · exact h.logFault
      · exact State.Canonical.ite ((h.countForward.foldl fun _ _ hs => hs.forwardAccess).setFar) (h.countForward.foldl
          fun _ _ hs => hs.forwardAccess)
    · exact h.logFault
    · split
      · exact h.logFault
      · exact h.loseStore

theorem State.Canonical.fillFor (h : s.Canonical) : SumCanonical (s.fillFor die part line n accs tags) := by
  induction tags generalizing s with
  | nil => exact h
  | cons t rest ih =>
    unfold State.fillFor
    split
    · next e => exact h.fill.of_eq e
    · next e => exact ih (h.fill.of_eq e)

theorem State.Canonical.requestFor (h : s.Canonical) : (s.requestFor g part line n accs).Canonical :=
  h.modLog.foldl fun _ _ hs => hs.postOnce

theorem State.Canonical.homeAtomic (h : s.Canonical) : (s.homeAtomic g part line n a).Canonical := by
  unfold State.homeAtomic
  extract_lets
  split
  · exact h.postOnce
  · split
    · next s1 e1 =>
      exact h.readBackPath.of_eq e1
    · next s1 e1 =>
      have h1 : s1.Canonical := h.readBackPath.of_eq e1
      split
      · next s2 e2 =>
        exact h1.homeHolds.of_eq e2
      · next s2 e2 =>
        have h2 : s2.Canonical := h1.homeHolds.of_eq e2
        split
        · exact h2.logFault
        · exact h2.atomHome

theorem State.Canonical.hbmLine (h : s.Canonical) : (s.hbmLine g part pa seq n accs).Canonical := by
  unfold State.hbmLine
  extract_lets
  split
  · exact h
  · split
    · exact h
    · split
      · exact h.startFlip
      · split
        · split
          · next s1 e1 =>
            exact h.allocTags.of_eq e1
          · next s1 e1 =>
            have h1 : s1.Canonical := h.allocTags.of_eq e1
            exact h1.hostYields.writeLine
        · split
          · split
            · exact h
            · exact h.homeAtomic
          · split
            · split
              · exact h
              · split
                · next s1 e1 =>
                  exact h.fillFor.of_eq e1
                · next s1 e1 =>
                  have h1 : s1.Canonical := h.fillFor.of_eq e1
                  split
                  · exact h1.logFault
                  · exact h1.readLine
            · split
              · exact h.requestFor
              · split
                · exact h.logFault
                · split
                  · split
                    · exact h
                    · exact h.hostYields.atomSlice
                  · exact h.readLine.foldl fun _ _ hs => hs.touchFrame

theorem State.Canonical.coreCaches {core : ℕ} (h : s.Canonical) : (s.coreCaches core part va).Canonical := by
  unfold State.coreCaches
  split
  · exact h
  · extract_lets
    split
    · exact h
    · split
      · exact h.modCore
      · exact h.modCore.frame

theorem State.Canonical.lineEvent {again : Instr} (h : s.Canonical) : (Machine.lineEvent g seq vline again s).Canonical := by
  unfold Machine.lineEvent
  split
  · next t n _ _ =>
    extract_lets accs die s0
    split
    · exact h
    · split
      · split
        · exact h.post
        · next e => exact h.missOn.of_eq e
      · exact h.post
      · exact h.logFault
      · next pa pte _ =>
        have hl : LineEnd.Canonical (if placeOf pa = .hbm then s0.hbmLine g t.bind.part pa seq n accs
            else s0.forwardLine g seq t.bind.part vline pa pte n accs) := by
          split
          · exact h.coreCaches.hbmLine
          · exact h.coreCaches.forwardLine
        split
        · next s1 e =>
          have h1 : s1.Canonical := hl.of_eq e
          exact h1.post
        · next e => exact hl.of_eq e
        · next s1 gone e =>
          have h1 : s1.Canonical := hl.of_eq e
          exact .ite h1.accsDone.post h1.accsDone
  · exact h

theorem State.Canonical.execLineDataArrive (h : s.Canonical) : EndsCanonical (Machine.execLineDataArrive g entry vline s) :=
  h.lineEvent.happened

theorem State.Canonical.execLaneStorePerform (h : s.Canonical) : EndsCanonical (Machine.execLaneStorePerform g entry vline s) :=
  h.lineEvent.happened

theorem State.Canonical.installRoot (h : s.Canonical) : (s.installRoot ws).Canonical :=
  h.foldl fun _ _ hs => hs.agentWrite

theorem State.Canonical.installEntries (h : s.Canonical) : (s.installEntries die ws).Canonical :=
  h.foldl fun _ _ hs => hs.writeHome

theorem State.Canonical.shareTables {lines : List ℕ} (h : s.Canonical) : SumCanonical (s.shareTables die part lines) := by
  induction lines generalizing s with
  | nil => exact h
  | cons l rest ih =>
    unfold State.shareTables
    split
    · next e => exact h.llcAlloc.of_eq e
    · next s1 e =>
      have h1 : s1.Canonical := h.llcAlloc.of_eq e
      exact ih h1.share

theorem State.Canonical.insertLeaf {l : Leaf} (h : s.Canonical) : (s.insertLeaf die l).Canonical := by
  unfold State.insertLeaf
  extract_lets
  split
  · exact h.modDie
  · exact h.modDie.mapCores (fun kc => by split <;> rfl) fun kc hk => by
      split
      · exact hk.frame
      · exact hk

theorem State.Canonical.insertPointers {ps : List Pointer} (h : s.Canonical) : (s.insertPointers die ps).Canonical :=
  h.foldl fun _ _ hs => State.Canonical.ite hs (State.Canonical.ite hs.modDie hs.modDie.frame)

theorem State.Canonical.walkOn (h : s.Canonical) : (s.walkOn die part va).Canonical := by
  unfold State.walkOn
  split
  · exact h
  · extract_lets
    split
    · exact h
    · split
      · exact h.startFlip
      · split
        · next s1 e1 =>
          exact h.shareTables.of_eq e1
        · next s1 e1 =>
          have h1 : s1.Canonical := h.shareTables.of_eq e1
          extract_lets
          split
          · exact h1.insertPointers
          · exact h1.insertPointers.insertLeaf

theorem State.Canonical.wake (h : s.Canonical) : (s.wake y1).Canonical := by
  unfold State.wake
  split
  · split
    · exact h
    · exact h.sendLine
  · exact h
  · exact h

theorem State.Canonical.tellDeclined (h : s.Canonical) : (s.tellDeclined cause y1).Canonical := by
  unfold State.tellDeclined
  split
  · exact h.logFault
  · exact h.modCmd
  · exact h.modComm

theorem State.Canonical.execTranslationWalk {space : Space} {i0 i1 i2 i3 : ℕ} (h : s.Canonical) :
    EndsCanonical (Machine.execTranslationWalk space i0 i1 i2 i3 s) := by
  unfold Machine.execTranslationWalk
  extract_lets
  split
  · next s1 e1 =>
    have h1 : s1.Canonical := h.walkOn.of_eq e1
    exact h1.post.happened
  · next s1 e1 =>
    have h1 : s1.Canonical := h.walkOn.of_eq e1
    exact (h1.endWalk.foldl fun _ _ hs => hs.wake).happened
  · next s1 _ e1 =>
    have h1 : s1.Canonical := h.walkOn.of_eq e1
    extract_lets
    split
    · split
      · exact (h1.endWalk.frame.installEntries.foldl fun _ _ hs => hs.wake).happened
      · exact h1.postOnce.post.happened
    · exact (h1.endWalk.frame.foldl fun _ _ hs => hs.tellDeclined).happened

theorem State.Canonical.execOperandLogReplay (h : s.Canonical) : EndsCanonical (Machine.execOperandLogReplay g entry s) := by
  unfold Machine.execOperandLogReplay
  split
  · extract_lets
    split
    · exact h.accsDone.happened
    · split
      · exact h.accsDone.logFault.happened
      · exact (h.accsDone.foldl fun _ _ hs => hs.sendLine).happened
  · exact h.happened

theorem State.Canonical.retireLogged (h : s.Canonical) : (s.retireLogged g part n).Canonical := by
  unfold State.retireLogged
  extract_lets
  split
  · exact h.exitLanes.modPart.modGroup.modLog.accsDone.recheckMsync.postOnce
  · split
    · exact h.exitLanes.modPart.modGroup.modLog.accsDone.recheckMsync.postOnce.groupExit
    · exact h.exitLanes.modPart.modGroup.modLog.accsDone.recheckMsync.postOnce

theorem State.Canonical.execTrapDeliver (h : s.Canonical) : EndsCanonical (Machine.execTrapDeliver g entry s) := by
  unfold Machine.execTrapDeliver
  split
  · split
    · exact h.happened
    · split
      · exact h.post.happened
      · split
        · exact h.policyKill.happened
        · split
          · exact h.killTeam.happened
          · split
            · exact h.retireLogged.happened
            · exact h.takeTrap.happened
  · exact h.happened

theorem State.Canonical.rolledBack {entryAddr : ℕ} (h : s.Canonical) : (s.rolledBack g entryAddr).Canonical :=
  h.modGroup

theorem State.Canonical.rldDone {t : Team} {qd : ℕ} {tensor : Bool} {img : BitVec 512} (h : s.Canonical) :
    (s.rldDone g t n qd tensor img).Canonical := by
  unfold State.rldDone
  split
  · exact h.logFault
  · exact h.modGroup.closeLog

theorem State.Canonical.installRecord {c num : ℕ} {e : RcEntry} (h : s.Canonical) : (s.installRecord c num e).Canonical :=
  h.modCore fun _ hk => Core.Canonical.ite hk hk.frame

theorem State.Canonical.execRldFill (h : s.Canonical) : EndsCanonical (Machine.execRldFill g entry s) := by
  unfold Machine.execRldFill
  split
  · split
    · extract_lets
      split
      · exact h.rldDone.happened
      · split
        · split
          · exact h.logFault.happened
          · exact h.installRecord.rldDone.happened
        · split
          · exact (h.missOn.getD h.post).happened
          · exact h.post.happened
          · exact h.logFault.happened
          · extract_lets
            split
            · exact h.logFault.happened
            · split
              · exact h.logFault.happened
              · split
                · exact h.logFault.happened
                · split
                  · exact h.countForward.installRecord.rldDone.happened
                  · split
                    · exact h.post.happened
                    · split
                      · exact h.logFault.happened
                      · split
                        · exact h.postOnce.post.happened
                        · exact h.noteRead.installRecord.rldDone.happened
    · exact h.happened
  · exact h.happened

end Sys2Proof.Machine
end

section
/-! Every step keeps the byte memories in their form: the operations of Machine/Sync.lean. -/

namespace Sys2Proof.Machine

variable {b : Barrier} {s : State} {v : Env} {bid : BitVec 8} {a : BitVec 7} {sc p : BitVec 3} {off : ℕ}

theorem Core.Canonical.putBarrier {k : Core} (h : k.Canonical) : (k.putBarrier b).Canonical :=
  h.frame

theorem State.Canonical.setBarrier (h : s.Canonical) : (s.setBarrier v b).Canonical :=
  h.modCore fun _ hk => hk.putBarrier

theorem State.Canonical.barInitBody (h : s.Canonical) : (Machine.barInitBody bid a v s).Canonical := by
  unfold Machine.barInitBody
  extract_lets
  split
  · trivial
  · split
    · exact h.setBarrier
    · split
      · trivial
      · exact h.setBarrier

theorem State.Canonical.goodBarrier {k : Barrier → Res} (h : s.Canonical) (hk : ∀ x0, (k x0).Canonical) :
    (Machine.goodBarrier bid v s k).Canonical := by
  unfold Machine.goodBarrier
  split
  · exact h.dataError
  · exact hk _

theorem State.Canonical.arriveThen {drop : Bool} {k : Barrier → State → Res} (h : s.Canonical) (hk : ∀ x0 s, s.Canonical →
    (k x0 s).Canonical) : (Machine.arriveThen sc bid drop v s k).Canonical :=
  h.goodBarrier fun _ => h.releaseThen fun _ hs => by
    split
    · trivial
    · exact hk _ _ hs.setBarrier

theorem State.Canonical.barWaitThen {k : State → Res} (h : s.Canonical) (hk : ∀ s, s.Canonical → (k s).Canonical) :
    (Machine.barWaitThen sc bid v s k).Canonical :=
  h.goodBarrier fun _ => by
    split
    · split
      · trivial
      · exact h.setBarrier
    · exact h.setBarrier.acquireThen fun _ hs => hk _ hs

theorem State.Canonical.barSyncBody (h : s.Canonical) : (Machine.barSyncBody sc bid v s).Canonical := by
  unfold Machine.barSyncBody
  split
  · exact h.barWaitThen fun _ hs => hs.modGroup
  · exact h.arriveThen fun _ _ hs => hs.modGroup

theorem State.Canonical.barTryBody (h : s.Canonical) : (Machine.barTryBody sc bid p v s).Canonical :=
  h.goodBarrier fun _ => by
    split
    · exact h.modGroup
    · exact h.setBarrier.acquireThen fun _ hs => hs.modGroup

theorem State.Canonical.msyncBody {c : BitVec 1} (h : s.Canonical) : (Machine.msyncBody c a v s).Canonical := by
  unfold Machine.msyncBody
  extract_lets
  split
  · exact h
  · split
    · split
      · trivial
      · exact h.modGroup
    · exact h.releaseThen fun _ hs => by
          split
          · exact hs.modGroup
          · split
            · trivial
            · exact hs.modGroup

theorem State.Canonical.fwaitBody {f : BitVec 8} {g : BitVec 4} (h : s.Canonical) : (Machine.fwaitBody f g v s).Canonical := by
  unfold Machine.fwaitBody
  extract_lets
  split
  · trivial
  · split
    · trivial
    · exact h.closeBatch

theorem State.Canonical.testStage {c slot : ℕ} (h : s.Canonical) : (s.testStage c slot off).Canonical := by
  unfold State.testStage
  extract_lets
  split
  · exact h.scratchWrite.endStage
  · exact h

theorem State.Canonical.armStage {r p : GroupRef} {due : ℕ} (h : s.Canonical) : (s.armStage r p off due).Canonical := by
  unfold State.armStage
  exact h.scratchWrite.scratchWrite.scratchWrite.scratchWrite.scratchWrite.modCore

theorem State.Canonical.sbarInitBody (h : s.Canonical) : (Machine.sbarInitBody a v s).Canonical := by
  unfold Machine.sbarInitBody
  extract_lets
  split
  · trivial
  · split
    · trivial
    · split
      · trivial
      · split
        · trivial
        · split
          · trivial
          · split
            · trivial
            · split
              · trivial
              · exact h.armStage

theorem State.Canonical.stageArrive {w : Win} (h : s.Canonical) : (Machine.stageArrive w off v s).Canonical := by
  unfold Machine.stageArrive
  extract_lets
  split
  · split
    · trivial
    · split
      · trivial
      · exact h.releaseThen fun _ hs => hs.scratchWrite.testStage
  · exact h
  · trivial

theorem State.Canonical.sbarArriveBody (h : s.Canonical) : (Machine.sbarArriveBody a v s).Canonical := by
  unfold Machine.sbarArriveBody
  extract_lets
  split
  · trivial
  · split
    · trivial
    · split
      · trivial
      · trivial
      · split
        · trivial
        · exact h.stageArrive

theorem State.Canonical.stageWaited (h : s.Canonical) : (s.stageWaited v).Canonical :=
  h.modGroup

theorem State.Canonical.sbarWaitBody (h : s.Canonical) : (Machine.sbarWaitBody a p v s).Canonical := by
  unfold Machine.sbarWaitBody
  extract_lets
  split
  · trivial
  · split
    · trivial
    · split
      · trivial
      · exact h.modGroup
    · exact h.acquireThen fun _ hs => hs.stageWaited.modGroup
    · split
      · trivial
      · exact h.stageWaited.modGroup

end Sys2Proof.Machine
end

section
/-! Every step keeps the byte memories in their form: the operations of Machine/Queue.lean. -/

namespace Sys2Proof.Machine

variable {s : State} {c n : ℕ} {q : QDesc} {g : GroupRef} {tries : Option (BitVec 3)} {v : Env} {ok : Bool} {row : BitVec 4}
   {col p : BitVec 3} {d : BitVec 7} {task : BitVec 512}

theorem State.Canonical.modQueue {f : QDesc → QDesc} (h : s.Canonical) : (s.modQueue c n f).Canonical :=
  h.modCore fun _ hk => show Core.Canonical _ by
  split
  · exact hk
  · exact hk.frame

theorem State.Canonical.writeRun {spbase : ℕ} {es : List DWord} (h : s.Canonical) : (s.writeRun c spbase q n es).Canonical := by
  induction es generalizing s n with
  | nil => exact h
  | cons e es ih => exact ih h.scratchWrite

theorem State.Canonical.resendPush (h : s.Canonical) : (s.resendPush c n).Canonical := by
  unfold State.resendPush
  split
  · exact h
  · split
    · exact h
    · exact h.postOnce

theorem State.Canonical.acceptRun {p : Push} (h : s.Canonical) : (s.acceptRun g p q).Canonical :=
  h.writeRun.modQueue.modGroup.post.resendPush

theorem State.Canonical.execQueuePushArrive (h : s.Canonical) : EndsCanonical (Machine.execQueuePushArrive g s) := by
  unfold Machine.execQueuePushArrive
  split
  · exact h.frame
  · split
    · exact h.frame
    · split
      · exact h.frame
      · split
        · exact h.post.frame
        · split
          · exact (State.Canonical.ite h.acceptRun h.post).frame
          · split
            · exact h.modGroup.frame
            · exact h.modQueue.frame

theorem State.Canonical.execQueueRunVisible {core qn : ℕ} (h : s.Canonical) : EndsCanonical (Machine.execQueueRunVisible core qn s) :=
  h.modQueue.frame

theorem State.Canonical.queueError : Machine.queueError.Canonical :=
  trivial

theorem State.Canonical.endPush (h : s.Canonical) : (s.endPush tries v ok).Canonical :=
  h.modGroup

theorem State.Canonical.pushBody {n : BitVec 4} (h : s.Canonical) : (Machine.pushBody tries n row col d v s).Canonical := by
  unfold Machine.pushBody
  split
  · exact h.endPush
  · split
    · trivial
    · trivial
    · trivial
    · split
      · trivial
      · split
        · exact h.dataError
        · split
          · trivial
          · extract_lets
            split
            · exact h.modGroup.post
            · exact h.releaseThen fun _ hs => hs.modGroup.post

theorem State.Canonical.popInto {m : ℕ} (h : s.Canonical) : (s.popInto v n q d m).Canonical :=
  h.modTeam.modQueue.resendPush

theorem State.Canonical.qgetBody {n : BitVec 4} (h : s.Canonical) : (Machine.qgetBody n d v s).Canonical := by
  unfold Machine.qgetBody
  split
  · trivial
  · extract_lets
    split
    · exact h.dataError
    · split
      · split
        · exact h.dataError
        · exact h.acquireThen fun _ hs => hs.popInto
      · split
        · trivial
        · exact h.modQueue

theorem State.Canonical.qgetTryBody {n : BitVec 4} (h : s.Canonical) : (Machine.qgetTryBody n d p v s).Canonical := by
  unfold Machine.qgetTryBody
  split
  · trivial
  · extract_lets
    split
    · exact h.dataError
    · split
      · exact h.modGroup
      · split
        · exact h.dataError
        · exact h.acquireThen fun _ hs => hs.popInto.modGroup

theorem State.Canonical.qlenBody {n : BitVec 4} (h : s.Canonical) : (Machine.qlenBody n row col d v s).Canonical := by
  unfold Machine.qlenBody
  split
  · trivial
  · exact h.lane32
  · trivial
  · split
    · exact h.dataError
    · exact h.lane32

theorem State.Canonical.clearMail {t : BindRec} {k : ℕ} (h : s.Canonical) : (s.clearMail c t k).Canonical :=
  h.scratchWrite

theorem State.Canonical.pushTask {r : GroupRef} (h : s.Canonical) : (s.pushTask r task).Canonical := by
  unfold State.pushTask
  split
  · exact h
  · exact h.scratchWrite.modTeam

theorem State.Canonical.endSteal (h : s.Canonical) : (s.endSteal g ok).Canonical := by
  unfold State.endSteal
  split
  · exact h
  · exact h.modGroup.fretDown

theorem State.Canonical.withdrawSteal (h : s.Canonical) : (s.withdrawSteal g).Canonical := by
  unfold State.withdrawSteal
  split
  · exact h
  · split
    · exact h.endSteal
    · split
      · exact h
      · exact h.clearMail.endSteal

theorem State.Canonical.repostSteal (h : s.Canonical) : (s.repostSteal g).Canonical := by
  unfold State.repostSteal
  split
  · exact h.postOnce
  · exact h

theorem State.Canonical.execStealTimeout (h : s.Canonical) : EndsCanonical (Machine.execStealTimeout g s) := by
  unfold Machine.execStealTimeout
  split
  · split
    · exact h.withdrawSteal.repostSteal.frame
    · exact h.post.frame
  · exact h.frame

theorem State.Canonical.execTaskDelivery (h : s.Canonical) : EndsCanonical (Machine.execTaskDelivery g task s) := by
  unfold Machine.execTaskDelivery
  split
  · exact h.frame
  · exact h.pushTask.endSteal.frame

theorem State.Canonical.spawnLane (h : s.Canonical) : OptionCanonical (s.spawnLane v task) := by
  unfold State.spawnLane
  split
  · exact h.clearMail.post
  · split
    · trivial
    · split
      · exact h.pushTask
      · trivial

theorem State.Canonical.spawnLanes {ls : List ℕ} (h : s.Canonical) : (Machine.spawnLanes d v ls s).1.Canonical := by
  induction ls generalizing s with
  | nil => exact h
  | cons l ls ih =>
    unfold Machine.spawnLanes
    split
    · exact h
    · next e => exact ih (h.spawnLane.of_eq e)

theorem State.Canonical.spawnBody {p : Option (BitVec 3)} (h : s.Canonical) : (Machine.spawnBody d p v s).Canonical := by
  unfold Machine.spawnBody
  split
  · trivial
  · extract_lets
    split
    · split
      · exact h.modGroup
      · trivial
    · exact h.releaseThen fun _ hs => by
          split
          · exact h.spawnLanes.modGroup
          · split <;> exact h.spawnLanes

theorem State.Canonical.takeLane {l : ℕ} (h : s.Canonical) : (s.takeLane v d p l).Canonical := by
  unfold State.takeLane
  split
  · exact h
  · split
    · exact h.modGroup
    · exact h.modTeam.modGroup

theorem State.Canonical.takeBody (h : s.Canonical) : (Machine.takeBody d p v s).Canonical := by
  unfold Machine.takeBody
  split
  · trivial
  · split
    · exact h.dataError
    · exact h.acquireThen fun _ hs => hs.foldl fun _ _ hs => hs.takeLane

theorem State.Canonical.stealBody (h : s.Canonical) : (Machine.stealBody row col p v s).Canonical := by
  unfold Machine.stealBody
  extract_lets
  split
  · trivial
  · split
    · trivial
    · split
      · split
        · exact h.modGroup
        · trivial
      · trivial
      · split
        · trivial
        · split
          · trivial
          · split
            · exact h.modGroup
            · split
              · exact h.modGroup
              · exact h.scratchWrite.modGroup.post

end Sys2Proof.Machine
end

section
/-! Every step keeps the byte memories in their form: the operations of Machine/Engine.lean. -/

namespace Sys2Proof.Machine

variable {s : State} {c : Cmd} {v : Env} {kind : CmdKind} {die part tag line core id u vline : ℕ} {e : Eng} {l : Loc} {ps : List Put}

theorem State.Canonical.addCmd (h : s.Canonical) : (s.addCmd c).Canonical :=
  h.modCore

theorem State.Canonical.submit (h : s.Canonical) : (s.submit v kind).Canonical :=
  h.fretUp.addCmd.postOnce

theorem State.Canonical.submitThen {k : State → Res} (h : s.Canonical) (hk : ∀ s, s.Canonical → (k s).Canonical) :
    (s.submitThen v kind k).Canonical := by
  unfold State.submitThen
  split
  · trivial
  · exact hk _ h.submit

theorem State.Canonical.dropX (h : s.Canonical) : (s.dropX die part tag line).Canonical :=
  h.modDie

theorem State.Canonical.leaveLine (h : s.Canonical) : (s.leaveLine die part tag line).Canonical :=
  (State.Canonical.ite h.modTag h).dropX

theorem State.Canonical.endRangesOn (h : s.Canonical) : (s.endRangesOn die core id).Canonical := by
  unfold State.endRangesOn
  exact (h.foldl fun _ _ hs => hs.foldl fun _ _ hs => hs.leaveLine).modDie

theorem State.Canonical.endRanges (h : s.Canonical) : (s.endRanges core id).Canonical :=
  h.endRangesOn

theorem State.Canonical.endCmd (h : s.Canonical) : (s.endCmd core id).Canonical := by
  unfold State.endCmd
  split
  · exact h
  · extract_lets s1 s2 s3
    have h2 : s2.Canonical := (h.endRanges.foldl fun _ _ hs => hs.fretDown).modCore
    have h3 : s3.Canonical := by
      unfold s3
      split
      · exact h2.modGroup.stepPerms
      · exact h2
    split
    · exact h3.postOnce
    · exact .ite h3.policyKill h3

theorem State.Canonical.modWork {f : Work → Work} (h : s.Canonical) : (s.modWork e f).Canonical := by
  unfold State.modWork
  split
  · exact h.modCmd
  · split
    · exact h.modComm
    · exact h.modDie

theorem State.Canonical.keepUnit {x : ℕ} {psn : BitVec 16} (h : s.Canonical) : (s.keepUnit e u x psn).Canonical :=
  h.modWork

theorem State.Canonical.refuseLine (h : s.Canonical) : (s.refuseLine e vline).Canonical :=
  h.modWork

theorem State.Canonical.readGlobal (h : s.Canonical) : (s.readGlobal e vline).Canonical := by
  unfold State.readGlobal
  split
  · exact h.missOn.getD h
  · exact h
  · exact h.refuseLine
  · extract_lets
    split
    · split
      · exact h.keepUnit
      · split
        · exact h
        · split
          · next s1 e1 =>
            exact h.fill.of_eq e1
          · next s1 e1 =>
            have h1 : s1.Canonical := h.fill.of_eq e1
            exact h1.noteRead.keepUnit
    · split
      · exact h.refuseLine
      · exact h.countForward.keepUnit

theorem State.Canonical.readUnit (h : s.Canonical) : (s.readUnit e l).Canonical := by
  unfold State.readUnit
  split
  · exact h.readGlobal
  · exact h.keepUnit
  · exact h.keepUnit

theorem State.Canonical.meet {y1 : Need} (h : s.Canonical) : (s.meet e y1).Canonical := by
  unfold State.meet
  split
  · exact h
  · split
    · exact h
    · exact h.startFlip
  · exact h.readUnit
  · exact h.missOn.getD h

theorem State.Canonical.meetSome {ns : List Need} (h : s.Canonical) : (s.meetSome e ns).Canonical :=
  h.frame.foldl fun _ _ hs => State.Canonical.ite hs.meet hs

theorem State.Canonical.putWord (h : s.Canonical) : (s.putWord e l ps).Canonical := by
  unfold State.putWord
  split
  split
  · exact h
  · exact h.modCore fun _ hk => .of_mems (Mem.wf_writeMasked _ _ _ _ _ hk.scratch) hk.ob
  · exact h.modCore fun _ hk => .of_mems hk.scratch (Mem.wf_writeMasked _ _ _ _ _ hk.ob)

theorem State.Canonical.noteWrote (h : s.Canonical) : (s.noteWrote e u).Canonical :=
  h.modWork

theorem State.Canonical.takeX (h : s.Canonical) : (s.takeX e line).Canonical := by
  unfold State.takeX
  split
  · next s1 e1 =>
    exact h.l2Alloc.of_eq e1
  · next s1 e1 =>
    have h1 : s1.Canonical := h.l2Alloc.of_eq e1
    split
    · next s2 e2 =>
      exact h1.homeHolds.of_eq e2
    · next s2 e2 =>
      have h2 : s2.Canonical := h1.homeHolds.of_eq e2
      extract_lets
      split
      · exact h2.postOnce
      · exact (State.Canonical.ite h2 h2.dropX).modTag.modDie

theorem State.Canonical.putLine {d : Dest} {b : LineBytes} {bad : BitVec 16} (h : s.Canonical) : (s.putLine e d b bad).Canonical := by
  unfold State.putLine
  extract_lets
  split
  · exact h.noteWrote
  · split
    · exact h.loseStore.noteWrote
    · split
      · exact h.countForward.forwardedWrite.setFar.noteWrote
      · split
        · exact h.takeX
        · exact h.hostYields.sliceWrite.postOnce.noteWrote

theorem State.Canonical.putUnit (h : s.Canonical) : (s.putUnit e ps).Canonical := by
  unfold State.putUnit
  split
  · exact h
  · extract_lets
    split
    · split
      · split
        exact h.frame.putLine
      · exact h.frame.meet
      · exact h.frame
    · exact h.frame.putWord.noteWrote

theorem State.Canonical.engineWrite {n : ℕ} {items : List (Loc × Option (ℕ × Bool))} (h : s.Canonical) :
    (s.engineWrite e n items).Canonical := by
  unfold State.engineWrite
  extract_lets
  split
  · exact h
  · split
    · exact h.frame
    · exact h.frame.foldl fun _ _ hs => State.Canonical.ite hs.putUnit hs

theorem State.Canonical.newRound (h : s.Canonical) : (s.newRound e).Canonical :=
  h.modWork

theorem State.Canonical.newRoundOf (h : s.Canonical) : (s.newRoundOf c).Canonical :=
  h.modCmd

theorem State.Canonical.startRange {hyp : ℕ} {vlines : List ℕ} (h : s.Canonical) : (s.startRange e hyp vlines).Canonical := by
  unfold State.startRange
  extract_lets
  split
  · exact h.closeBatch
  · split
    · exact h.meetSome
    · split
      · exact h.modDie
      · exact h.modDie.modDie.modWork.closeBatch

theorem State.Canonical.leaveApplied (h : s.Canonical) : (s.leaveApplied e).Canonical := by
  unfold State.leaveApplied
  exact (h.foldl fun _ _ hs => hs.leaveLine).modDie

theorem State.Canonical.awaitHomes {due : Bool} (h : s.Canonical) : (s.awaitHomes core id due).Canonical := by
  unfold State.awaitHomes
  split
  · exact h
  · extract_lets
    split
    · exact h.leaveApplied.post
    · exact h.leaveApplied.endCmd

theorem State.Canonical.execStageDelivery {slot off bytes : ℕ} {ok : Bool} (h : s.Canonical) :
    EndsCanonical (Machine.execStageDelivery core slot off bytes ok s) := by
  unfold Machine.execStageDelivery
  split
  · exact h.happened
  · split
    · exact h.happened
    · extract_lets
      split
      · exact h.endStage.happened
      · exact h.scratchWrite.scratchWrite.testStage.happened

end Sys2Proof.Machine
end

section
/-! Every step keeps the byte memories in their form: the operations of Machine/Copy.lean. -/

namespace Sys2Proof.Machine

variable {v : Env} {s : State} {c : Cmd} {bytes id k : ℕ} {x : Copy}

theorem State.Canonical.copyBody {op : ℕ} {rm : BitVec 3} {a b : BitVec 6} (h : s.Canonical) :
    (Machine.copyBody op rm a b v s).Canonical := by
  unfold Machine.copyBody
  extract_lets cw sw x go
  have hgo : (go ()).Canonical := by
    unfold go
    split
    · trivial
    · exact h.submitThen fun _ hs => hs.modGroup
  split
  · trivial
  · split
    · exact h.goodResv fun _ => hgo
    · exact hgo

theorem State.Canonical.eprstBody {a : BitVec 7} {b : BitVec 5} (h : s.Canonical) : (Machine.eprstBody a b v s).Canonical := by
  unfold Machine.eprstBody
  extract_lets
  split
  · trivial
  · trivial
  · split
    · trivial
    · exact h.submitThen fun _ hs => hs.modGroup

theorem State.Canonical.execCopyTakeup {core : ℕ} (h : s.Canonical) : EndsCanonical (Machine.execCopyTakeup core s) := by
  unfold Machine.execCopyTakeup
  split
  · exact h.happened
  · split
    · exact h.postOnce.happened
    · exact (State.Canonical.ite h.modCmd.post.postOnce h.modCmd.post).happened

theorem State.Canonical.deliver {w : Win} {off : ℕ} (h : s.Canonical) : (s.deliver c w off bytes).Canonical := by
  unfold State.deliver
  split
  · exact h
  · exact h.post

theorem State.Canonical.copyReads (h : s.Canonical) : (s.copyReads id c x).Canonical := by
  unfold State.copyReads
  extract_lets
  split
  · exact h.post
  · extract_lets
    split
    · exact h.post
    · split
      · exact h.meetSome.post
      · exact h.modCmd.post

theorem State.Canonical.copyWritten {at_ : TenAt} {ok : Bool} (h : s.Canonical) : (s.copyWritten id c x at_ bytes ok).Canonical :=
  (show State.Canonical _ by
  split
  · split
    · exact h.modCmd.deliver
    · exact h.modCmd
  · exact h.modCmd).awaitHomes

theorem State.Canonical.copyWrites (h : s.Canonical) : (s.copyWrites id c x).Canonical := by
  unfold State.copyWrites
  dsimp only
  split
  · exact h.post
  · exact h.modCmd.endCmd
  · split
    · exact h.copyWritten
    · split
      · exact h.post
      · split
        · next s1 e1 =>
          have h1 : s1.Canonical := h.engineWrite.of_eq e1
          exact h1.post
        · next s1 _ e1 =>
          have h1 : s1.Canonical := h.engineWrite.of_eq e1
          exact h1.copyWritten

theorem State.Canonical.fanServed {f : Fan} {w : Option Win} {st : BitVec 2} (h : s.Canonical) :
    (s.fanServed id c k bytes f w st).Canonical := by
  unfold State.fanServed
  extract_lets
  split
  · exact h.newRoundOf.modCmd
  · split
    · exact h.newRoundOf.modCmd.deliver
    · exact h.newRoundOf.modCmd

theorem State.Canonical.fanTarget (h : s.Canonical) : (s.fanTarget id c x k).Canonical := by
  unfold State.fanTarget
  extract_lets
  split
  · exact h
  · exact h.fanServed
  · extract_lets
    split
    · exact h.fanServed
    · split
      · exact h
      · split
        · next s1 e1 =>
          exact h.engineWrite.of_eq e1
        · next s1 _ e1 =>
          have h1 : s1.Canonical := h.engineWrite.of_eq e1
          exact h1.fanServed

theorem State.Canonical.fanWrites (h : s.Canonical) : (s.fanWrites id c x).Canonical := by
  unfold State.fanWrites
  split
  · split
    · exact h.post
    · exact h.endCmd
  · exact h.frame.modCmd.fanTarget.post

theorem State.Canonical.eprstWrites {recs : List ℕ} (h : s.Canonical) : (s.eprstWrites id c recs).Canonical := by
  unfold State.eprstWrites
  split
  · exact h.endCmd
  · extract_lets
    split
    · exact h.post
    · split
      · next s1 e1 =>
        have h1 : s1.Canonical := h.engineWrite.of_eq e1
        exact h1.post
      · next s1 _ e1 =>
        have h1 : s1.Canonical := h.engineWrite.of_eq e1
        exact h1.modCmd.endCmd

theorem State.Canonical.runRequest (h : s.Canonical) : (s.runRequest id c).Canonical := by
  unfold State.runRequest
  split
  · exact h.eprstWrites
  · split
    · exact h
    · split
      · split
        · exact h.modCmd.post
        · exact h.copyReads
      · split
        · exact h.awaitHomes
        · split
          · exact h.fanWrites
          · exact h.copyWrites

theorem State.Canonical.drainBody {f : BitVec 3} (h : s.Canonical) : (Machine.drainBody f v s).Canonical := by
  unfold Machine.drainBody
  extract_lets
  split
  · exact h.modGroup
  · exact h.modGroup.closeBatch

end Sys2Proof.Machine
end

section
/-! Every step keeps the byte memories in their form: the operations of Machine/Matrix.lean. -/

namespace Sys2Proof.Machine

variable {h : BitVec 4} {sa : BitVec 6} {v : Env} {s : State} {k : Core} {r b core id slot : ℕ} {members : Word} {bf : Bool} {l : Lease}
   {c : Cmd} {p : Product} {zs : List DWord} {sin sout : DWord}

theorem State.Canonical.mresBody (hc : s.Canonical) : (Machine.mresBody h sa v s).Canonical := by
  unfold Machine.mresBody
  extract_lets
  split
  · trivial
  · exact hc.modGroup

theorem State.Canonical.mrelBody (hc : s.Canonical) : (Machine.mrelBody h v s).Canonical :=
  hc.modGroup

theorem Core.Canonical.putCol {c : ℕ} {x : Word} (h : k.Canonical) : (k.putCol r c x).Canonical :=
  h.frame

theorem Core.Canonical.putCell {t : Tile} {j x : ℕ} (h : k.Canonical) : (k.putCell t r j x).Canonical := by
  unfold Core.putCell
  extract_lets
  split
  · exact h.putCol
  · exact h.putCol.putCol

theorem Core.Canonical.mark (h : k.Canonical) : (k.mark r b).Canonical :=
  h.frame

theorem Core.Canonical.unmark {m : BitVec 2} (h : k.Canonical) : (k.unmark r m).Canonical :=
  h.frame

theorem State.Canonical.mleaseBody (h : s.Canonical) : (Machine.mleaseBody sa v s).Canonical := by
  unfold Machine.mleaseBody
  extract_lets
  split
  · trivial
  · split
    · trivial
    · exact h.modCore.askGrant

theorem State.Canonical.mfreeBody (h : s.Canonical) : (Machine.mfreeBody v s).Canonical :=
  State.Canonical.ite h.modCore h

theorem State.Canonical.capoTakeBody (h : s.Canonical) : (Machine.capoTakeBody v s).Canonical := by
  unfold Machine.capoTakeBody
  extract_lets
  split
  · exact h.modGroup
  · split
    · exact h.modGroup
    · split
      · exact h.modGroup
      · trivial

theorem State.Canonical.capoPassBody (h : s.Canonical) : (Machine.capoPassBody v s).Canonical := by
  unfold Machine.capoPassBody
  split
  · exact h.modCore
  · trivial

theorem State.Canonical.execLeaseGrant (h : s.Canonical) : EndsCanonical (Machine.execLeaseGrant core s) := by
  unfold Machine.execLeaseGrant
  extract_lets
  split
  · exact h.happened
  · split
    · exact h.modCore.happened
    · exact h.modCore.postOnce.postOnce.happened

theorem State.Canonical.execLeaseExpire (h : s.Canonical) : EndsCanonical (Machine.execLeaseExpire core s) := by
  unfold Machine.execLeaseExpire
  split
  · exact h.askGrant.happened
  · exact (State.Canonical.ite h.post h.endLease).happened

theorem State.Canonical.gangBody (h : s.Canonical) : (Machine.gangBody sa v s).Canonical := by
  unfold Machine.gangBody
  extract_lets
  split
  · trivial
  · exact h.modGroup

theorem State.Canonical.readLater {g : GroupRef} {vb : ℕ} (h : s.Canonical) : (s.readLater g id vb).Canonical :=
  h.modGroup

theorem State.Canonical.submitMatrix {kind : CmdKind} {k : State → State} (h : s.Canonical) (hk : ∀ s, s.Canonical → (k s).Canonical) :
    (Machine.submitMatrix v s kind k).Canonical :=
  h.submitThen fun _ hs => (hk _ hs).enterRequests

theorem State.Canonical.closeLatch (h : s.Canonical) : (s.closeLatch core slot members).Canonical := by
  unfold State.closeLatch
  split
  · exact h
  · extract_lets
    split
    · exact h.foldl fun _ _ hs => hs.breakLatchOf
    · split
      · exact (h.foldl fun _ _ hs => hs.modGroup).modCore
      · exact (h.foldl fun _ _ hs => hs.modGroup).modCore.modCore.post

theorem State.Canonical.arriveLatch {tile : DWord} (h : s.Canonical) : (s.arriveLatch v id tile members).Canonical :=
  h.modCmd.modGroup.closeLatch

theorem State.Canonical.mmadBody {sp : Bool} {sc : BitVec 6} {vb : BitVec 7} {new tr : BitVec 1} (hc : s.Canonical) :
    (Machine.mmadBody sp h sc vb new tr v s).Canonical := by
  unfold Machine.mmadBody
  extract_lets
  split
  · trivial
  · split
    · trivial
    · exact hc.goodResv fun _ => by
        split
        · exact hc.submitMatrix fun _ hs => hs.readLater
        · exact hc.submitThen fun _ hs => hs.readLater.arriveLatch

theorem State.Canonical.execGangLatchClose {members : Lanes} (h : s.Canonical) :
    EndsCanonical (Machine.execGangLatchClose core slot members s) := by
  unfold Machine.execGangLatchClose
  extract_lets
  split
  · exact h.happened
  · exact h.modCmd.enterRequests.postOnce.happened

theorem State.Canonical.zsetBody {z : BitVec 3} (h : s.Canonical) : (Machine.zsetBody z sa v s).Canonical := by
  unfold Machine.zsetBody
  extract_lets
  split
  · trivial
  · exact h.modGroup

theorem State.Canonical.stageBody {op : ℕ} {zc : BitVec 3} {sb : BitVec 6} (hc : s.Canonical) :
    (Machine.stageBody op bf zc h sa sb v s).Canonical := by
  unfold Machine.stageBody
  extract_lets
  split
  · trivial
  · split
    · trivial
    · split
      · exact hc.submitMatrix fun _ hs => hs
      · exact hc.goodResv fun _ => hc.submitMatrix fun _ hs => hs

theorem State.Canonical.useLease (h : s.Canonical) : (s.useLease core l).Canonical := by
  unfold State.useLease
  split
  · exact h.endLease
  · exact h.modCore

theorem State.Canonical.readDone (h : s.Canonical) : (s.readDone c).Canonical :=
  h.foldl fun _ _ hs => hs.modGroup

theorem State.Canonical.takeMatrix (h : s.Canonical) : (s.takeMatrix core l c).Canonical :=
  h.readDone.modCore.useLease.post

theorem State.Canonical.execMatrixTakeup (h : s.Canonical) : EndsCanonical (Machine.execMatrixTakeup core s) :=
  (State.Canonical.ite ((show State.Canonical _ by
  split
  · exact h.enterRequests
  · split
    · exact h.enterRequests
    · split
      · exact h.enterRequests
      · exact h.enterRequests.takeMatrix).postOnce) (show State.Canonical _ by
  split
  · exact h.enterRequests
  · split
    · exact h.enterRequests
    · split
      · exact h.enterRequests
      · exact h.enterRequests.takeMatrix)).happened

theorem Core.Canonical.cell {ij : ℕ × ℕ} (h : k.Canonical) : (p.cell k ij).Canonical := by
  unfold Product.cell
  extract_lets
  split
  · split
    · exact h.putCell.mark
    · exact h.putCell
  · exact h.putCell

theorem Core.Canonical.putVec {row l e : ℕ} {x : Tainted} (h : k.Canonical) : (k.putVec row l b e x).Canonical := by
  unfold Core.putVec
  extract_lets
  split
  · exact h.putCol.mark
  · exact h.putCol

theorem Core.Canonical.runStages {a : Operand} {t : Bool} (h : k.Canonical) : (Machine.runStages a t bf zs sin sout k).Canonical :=
  h.foldl fun _ _ hk => hk.foldl fun _ _ hk => hk.putVec

theorem Core.Canonical.runGradients {z : DWord} (h : k.Canonical) : (Machine.runGradients z sin sout k).Canonical :=
  h.foldl fun _ _ hk => hk.foldl fun _ _ hk => hk.putVec

theorem State.Canonical.readLines (h : s.Canonical) : (s.readLines core c).Canonical := by
  unfold State.readLines
  split
  · exact h.frame.modCmd
  · exact h

theorem Core.Canonical.run (h : k.Canonical) : (p.run k).1.Canonical := by
  unfold Product.run
  extract_lets
  split
  · exact h
  · exact (h.foldl fun _ _ hk => hk.cell).foldl fun _ _ hk => hk.mark

theorem Core.Canonical.runStage {a : Option Operand} {op : BitVec 2} (h : k.Canonical) :
    (Machine.runStage a op bf zs sin sout k).1.Canonical := by
  cases a
  · exact h.runGradients
  · exact h.runStages

theorem Core.Canonical.runMatrix {b : BindRec} (h : k.Canonical) : (Machine.runMatrix c b k).1.Canonical := by
  unfold Machine.runMatrix
  split
  · exact h.run
  · exact h.runStage
  · exact h

theorem State.Canonical.execMatrixComplete {cmd : ℕ} (h : s.Canonical) : EndsCanonical (Machine.execMatrixComplete core cmd s) := by
  unfold Machine.execMatrixComplete
  split
  · exact h.happened
  · extract_lets
    split
    · exact h.readLines.post.happened
    · split
      · exact h.endCmd.happened
      · split
        · exact h.readLines.post.happened
        · exact (h.modCore fun _ _ => h.core.runMatrix).modCmd.endCmd.happened

end Sys2Proof.Machine
end

section
/-! Every step keeps the byte memories in their form: the operations of Machine/Accum.lean. -/

namespace Sys2Proof.Machine

variable {fn r i core : ℕ} {a b : BitVec 6} {v : Env} {s : State} {k : Core} {t : Tile} {x : AccJob} {ovtrap : Bool} {c : Cmd}

theorem State.Canonical.accBody {f : ℕ} {sc : BitVec 6} (h : s.Canonical) : (Machine.accBody fn f a b sc v s).Canonical := by
  unfold Machine.accBody
  extract_lets
  split
  · trivial
  · split
    · exact h.goodResv fun _ => h.submitThen fun _ hs => hs
    · exact h.submitThen fun _ hs => hs

theorem State.Canonical.accRegBody (h : s.Canonical) : (Machine.accRegBody fn a b v s).Canonical := by
  unfold Machine.accRegBody
  extract_lets
  split
  · trivial
  · split
    · trivial
    · exact h.submitThen fun _ hs => hs.modGroup

theorem Core.Canonical.putCols {f : ℕ → Word} (h : k.Canonical) : (k.putCols t r f).Canonical :=
  h.foldl fun _ _ hk => hk.putCol

theorem Core.Canonical.rowWritten {psn : Bool} (h : k.Canonical) : (k.rowWritten t r psn).Canonical := by
  unfold Core.rowWritten
  extract_lets
  split
  · exact (Core.Canonical.ite h.unmark h).mark
  · exact Core.Canonical.ite h.unmark h

theorem State.Canonical.loadRow (h : s.Canonical) : (x.loadRow s i).Canonical := by
  unfold AccJob.loadRow
  extract_lets
  split
  · exact h.meetSome
  · split
    · exact h
    · exact h.modCore fun _ hk => (hk.foldl fun _ _ hk => Core.Canonical.ite hk.putCell
        (Core.Canonical.ite hk.putCell.mark hk.putCell)).rowWritten

theorem State.Canonical.writeRow {n : ℕ} {vals : List (Option (ℕ × Bool))} {k : State → Bool → RowEnd} (h : s.Canonical) (hk
    : ∀ s ok, s.Canonical → (k s ok).Canonical) : (x.writeRow s i n vals k).Canonical := by
  unfold AccJob.writeRow
  split
  · next e => exact h.engineWrite.of_eq e
  · next e => exact hk _ _ (h.engineWrite.of_eq e)

theorem State.Canonical.epiRow {sf : BitVec 4} {sc : DWord} {res : Option Resv} (h : s.Canonical) :
    (x.epiRow sf sc res ovtrap s i).Canonical := by
  unfold AccJob.epiRow
  extract_lets
  split
  · exact h
  · split
    · exact h
    · split
      · exact h.meetSome
      · exact h.writeRow fun _ _ hs => hs.modCore fun _ hk => Core.Canonical.ite ((Core.Canonical.ite hk.mark hk).putCols)
          (Core.Canonical.ite hk.mark hk)

theorem State.Canonical.storeRow {st : Bool} (h : s.Canonical) : (x.storeRow st s i).Canonical := by
  unfold AccJob.storeRow
  extract_lets
  split
  · exact h
  · split
    · exact h
    · exact h.writeRow fun _ _ hs => hs

theorem State.Canonical.clearRow (h : s.Canonical) : (x.clearRow s i).Canonical :=
  h.modCore fun _ hk => hk.putCols.unmark

theorem State.Canonical.moveRow {g : GroupRef} (h : s.Canonical) : (x.moveRow g s i).Canonical := by
  unfold AccJob.moveRow
  extract_lets
  split
  · exact h
  · exact h.modTeam

theorem State.Canonical.putRow {regs : Tbl Word} (h : s.Canonical) : (x.putRow regs s i).Canonical :=
  h.modCore fun _ hk => hk.putCols.rowWritten

theorem State.Canonical.row (h : s.Canonical) : (x.row c ovtrap s i).Canonical := by
  unfold AccJob.row
  split
  · split
    · exact h.clearRow
    · split
      · exact h.loadRow
      · split
        · exact h.epiRow
        · split
          · exact h.moveRow
          · split
            · exact h.putRow
            · exact h.storeRow
  · exact h

theorem State.Canonical.runAcc {b : BindRec} (h : s.Canonical) : (s.runAcc c b).Canonical := by
  unfold State.runAcc
  split
  · exact h.endCmd
  · extract_lets
    split
    · exact (State.Canonical.ite h.modCmd h).endCmd
    · split
      · next s1 e1 =>
        have h1 : s1.Canonical := (State.Canonical.ite h.modCmd h).row.of_eq e1
        exact h1.post
      · next s1 _ e1 =>
        have h1 : s1.Canonical := (State.Canonical.ite h.modCmd h).row.of_eq e1
        exact h1.modCmd.newRound.post

theorem State.Canonical.execAccTakeup (h : s.Canonical) : EndsCanonical (Machine.execAccTakeup core s) := by
  unfold Machine.execAccTakeup
  split
  · exact h.happened
  · extract_lets
    split
    · exact h.postOnce.happened
    · exact (State.Canonical.ite h.readDone.modCmd.post.postOnce h.readDone.modCmd.post).happened

theorem State.Canonical.execAccComplete {cmd : ℕ} (h : s.Canonical) : EndsCanonical (Machine.execAccComplete core cmd s) := by
  unfold Machine.execAccComplete
  split
  · exact h.happened
  · split
    · exact h.endCmd.happened
    · exact h.runAcc.happened

end Sys2Proof.Machine
end

section
/-! Every step keeps the byte memories in their form: the operations of Machine/Physics.lean. -/

namespace Sys2Proof.Machine

variable {a : BitVec 6} {b : BindRec} {v : Env} {s : State} {ray : Bool} {id cnt : ℕ} {c : Cmd}

theorem State.Canonical.srtBody {b : BitVec 6} (h : s.Canonical) : (Machine.srtBody a b v s).Canonical := by
  unfold Machine.srtBody
  extract_lets
  split
  · trivial
  · exact h.submitThen fun _ hs => hs

theorem State.Canonical.bvhtBody {b : BitVec 6} (h : s.Canonical) : (Machine.bvhtBody ray a b v s).Canonical := by
  unfold Machine.bvhtBody
  extract_lets
  split
  · trivial
  · exact h.submitThen fun _ hs => hs

theorem State.Canonical.solveBody {adj f32 : Bool} {b : BitVec 6} (h : s.Canonical) : (Machine.solveBody adj f32 a b v s).Canonical := by
  unfold Machine.solveBody
  extract_lets
  split
  · trivial
  · exact h.submitThen fun _ hs => hs

theorem State.Canonical.srtRun {qin qout : Ten} (h : s.Canonical) : (s.srtRun id c b qin qout cnt).Canonical := by
  unfold State.srtRun
  extract_lets
  split
  · exact h.post
  · exact h.post
  · split
    · extract_lets
      split
      · exact h.meetSome.post
      · split <;> exact h.modCmd.post
    · extract_lets
      split
      · next s1 e1 =>
        have h1 : s1.Canonical := h.engineWrite.of_eq e1
        exact h1.post
      · next s1 _ e1 =>
        have h1 : s1.Canonical := h.engineWrite.of_eq e1
        exact h1.modCmd.post

theorem State.Canonical.bvhtRun {qn qq qh : Ten} (h : s.Canonical) : (s.bvhtRun id c b ray qn qq qh cnt).Canonical := by
  unfold State.bvhtRun
  extract_lets
  split
  · exact h.post
  · exact h.post
  · exact h.post
  · split
    · extract_lets
      split
      · next s1 e1 =>
        have h1 : s1.Canonical := h.engineWrite.of_eq e1
        exact h1.post
      · next s1 _ e1 =>
        have h1 : s1.Canonical := h.engineWrite.of_eq e1
        exact h1.modCmd.post
    · extract_lets
      split
      · split
        · exact h.modCmd.post
        · split
          · exact h.meetSome.post
          · split
            · exact h.frame.modCmd.post
            · exact h.modCmd.post
      · split
        · exact h.modCmd.post
        · extract_lets
          split
          · exact h.meetSome.post
          · split
            · exact h.frame.modCmd.post
            · exact h.modCmd.post

theorem State.Canonical.solveRun {x : Solve} (h : s.Canonical) : (s.solveRun id c b x).Canonical := by
  unfold State.solveRun
  extract_lets
  split
  · exact h.endCmd
  · split
    · exact h.meetSome.post
    · exact h.frame.modCmd.newRound.post
    · split
      · next s1 e1 =>
        have h1 : s1.Canonical := h.frame.engineWrite.of_eq e1
        exact h1.post
      · next s1 _ e1 =>
        have h1 : s1.Canonical := h.frame.engineWrite.of_eq e1
        exact h1.modCmd.newRound.post

theorem State.Canonical.runPhysics (h : s.Canonical) : (s.runPhysics id c b).Canonical := by
  unfold State.runPhysics
  split
  · exact h.awaitHomes
  · split
    · exact h.srtRun
    · exact h.bvhtRun
    · exact h.solveRun
    · exact h.solveRun
    · exact h

end Sys2Proof.Machine
end

section
/-! Every step keeps the byte memories in their form: the operations of Machine/Chain.lean. -/

namespace Sys2Proof.Machine

variable {core cmd n chain : ℕ} {s : State} {v : Env} {x : ChainAt} {e : Entry}

theorem State.Canonical.execEngineCommandStart (h : s.Canonical) : EndsCanonical (Machine.execEngineCommandStart core cmd s) := by
  unfold Machine.execEngineCommandStart
  split
  · exact h.happened
  · extract_lets
    split
    · exact h.happened
    · split
      · exact h.post.happened
      · split
        · next s1 e1 =>
          have h1 : s1.Canonical := h.startRange.of_eq e1
          exact h1.post.happened
        · next s1 e1 =>
          have h1 : s1.Canonical := h.startRange.of_eq e1
          exact h1.modCmd.post.happened

theorem State.Canonical.execEngineCommandComplete (h : s.Canonical) : EndsCanonical (Machine.execEngineCommandComplete core cmd s) := by
  unfold Machine.execEngineCommandComplete
  split
  · exact h.happened
  · split
    · exact h.happened
    · split
      · exact h.runRequest.happened
      · exact h.happened
      · exact h.happened
      · split
        · exact h.endCmd.happened
        · exact h.runPhysics.happened

theorem State.Canonical.modChain {f : Chain → Chain} (h : s.Canonical) : (s.modChain core n f).Canonical :=
  h.modCore

theorem State.Canonical.goodResvs {k : Unit → Res} (h : s.Canonical) (hk : ∀ x0, (k x0).Canonical) :
    (Machine.goodResvs v s k).Canonical := by
  unfold Machine.goodResvs
  split
  · exact hk _
  · exact h.goodResv fun _ => hk _

theorem State.Canonical.kickBody {a : BitVec 6} (h : s.Canonical) : (Machine.kickBody a v s).Canonical := by
  unfold Machine.kickBody
  extract_lets
  split
  · trivial
  · split
    · trivial
    · split
      · trivial
      · split
        · trivial
        · exact h.goodResvs fun _ => h.fretUp.modCore.post

theorem State.Canonical.stopChain {st : BitVec 2} (h : s.Canonical) : (s.stopChain core n st).Canonical :=
  h.modChain.postOnce

theorem State.Canonical.chainSubmit {kind : CmdKind} (h : s.Canonical) : (s.chainSubmit x kind).Canonical :=
  h.addCmd.postOnce

theorem State.Canonical.dataEntry {op : ℕ} (h : s.Canonical) : (Machine.dataEntry op x e s).Canonical := by
  unfold Machine.dataEntry
  extract_lets
  split
  · trivial
  · split
    · trivial
    · split
      · trivial
      · exact h.chainSubmit.modGroup

theorem State.Canonical.maskProducts {bs : List ℕ} (h : s.Canonical) : (Machine.maskProducts x e bs s).1.Canonical := by
  induction bs generalizing s with
  | nil => exact h
  | cons b bs ih =>
    unfold Machine.maskProducts
    extract_lets
    split
    · exact h
    · split
      · exact h
      · split
        · exact h
        · exact ih h.chainSubmit.enterRequests

theorem State.Canonical.maskEntry (h : s.Canonical) : (Machine.maskEntry x e s).Canonical := by
  unfold Machine.maskEntry
  extract_lets
  split
  · trivial
  · exact State.Canonical.ite h.maskProducts h.maskProducts.stopChain

theorem State.Canonical.loopEntry (h : s.Canonical) : (Machine.loopEntry x e s).Canonical := by
  unfold Machine.loopEntry
  extract_lets
  split <;> exact h.modChain

theorem State.Canonical.condEntry (h : s.Canonical) : (Machine.condEntry x e s).Canonical := by
  unfold Machine.condEntry
  split
  · trivial
  · split
    · trivial
    · exact h

theorem State.Canonical.signalEntry (h : s.Canonical) : (Machine.signalEntry x e s).Canonical := by
  unfold Machine.signalEntry
  refine iteInduction (fun _ => ?_) fun _ => ?_
  · trivial
  · split
    · trivial
    · trivial
    · refine iteInduction (fun _ => ?_) fun _ => ?_
      · trivial
      · split
        · trivial
        · exact h.scratchWrite

theorem State.Canonical.walkChain {type : ℕ} {run : ChainAt → Entry → State → Walked} (h : s.Canonical) (hrun : ∀ x0 x1 s, s.Canonical →
    (run x0 x1 s).Canonical) : (s.walkChain core n type run).Canonical := by
  unfold State.walkChain
  split
  · exact h
  · split
    · exact h.stopChain
    · extract_lets
      split
      · exact h.postOnce
      · split
        · exact h.post
        · split
          · exact h.stopChain
          · split
            · exact h.post
            · split
              · exact h.post
              · split
                · exact h.post
                · exact h.stopChain
                · next s1 _ e1 =>
                  have h1 : s1.Canonical := (hrun _ _ _ h).of_eq e1
                  exact h1.modChain.post

theorem State.Canonical.execChainStop (h : s.Canonical) : EndsCanonical (Machine.execChainStop core chain s) :=
  State.Canonical.happened (h.walkChain fun _ _ _ _ => trivial)

theorem State.Canonical.execChainCopy (h : s.Canonical) : EndsCanonical (Machine.execChainCopy core chain s) :=
  (h.walkChain fun _ _ _ hs => hs.dataEntry).happened

theorem State.Canonical.execChainGatherFill (h : s.Canonical) : EndsCanonical (Machine.execChainGatherFill core chain s) :=
  (h.walkChain fun _ _ _ hs => hs.dataEntry).happened

theorem State.Canonical.execChainMulticast (h : s.Canonical) : EndsCanonical (Machine.execChainMulticast core chain s) :=
  (h.walkChain fun _ _ _ hs => hs.dataEntry).happened

theorem State.Canonical.execChainMaskWalk (h : s.Canonical) : EndsCanonical (Machine.execChainMaskWalk core chain s) :=
  (h.walkChain fun _ _ _ hs => hs.maskEntry).happened

theorem State.Canonical.execChainLoop (h : s.Canonical) : EndsCanonical (Machine.execChainLoop core chain s) :=
  (h.walkChain fun _ _ _ hs => hs.loopEntry).happened

theorem State.Canonical.execChainConditional (h : s.Canonical) : EndsCanonical (Machine.execChainConditional core chain s) :=
  (h.walkChain fun _ _ _ hs => hs.condEntry).happened

theorem State.Canonical.execChainSignal (h : s.Canonical) : EndsCanonical (Machine.execChainSignal core chain s) :=
  (h.walkChain fun _ _ _ hs => hs.signalEntry).happened

theorem State.Canonical.execChainDone (h : s.Canonical) : EndsCanonical (Machine.execChainDone core chain s) := by
  unfold Machine.execChainDone
  split
  · exact h.happened
  · split
    · exact h.happened
    · exact (State.Canonical.ite h.fretDown.modCore.policyKill h.fretDown.modCore).happened

end Sys2Proof.Machine
end

section
/-! Every step keeps the byte memories in their form: the operations of Machine/Cmp.lean. -/

namespace Sys2Proof.Machine

theorem State.Canonical.cmpIntBody {cond : Cond} {p : BitVec 3} {k t : BitVec 2} {a b : BitVec 7} {v : Env} {s : State} (h : s.Canonical) :
    (Machine.cmpIntBody cond p k t a b v s).Canonical :=
  h.lanePred

end Sys2Proof.Machine
end

section
/-! Every step keeps the byte memories in their form: the operations of Machine/Packet.lean. -/

namespace Sys2Proof.Machine

variable {s : State} {part n va x q queue : ℕ} {p : Part}

theorem State.Canonical.rootWrite (h : s.Canonical) : (s.rootWrite part n va x).Canonical := by
  unfold State.rootWrite
  split
  · exact h
  · extract_lets
    split
    · exact h.agentWrite
    · split
      · exact h.forwardedWrite
      · exact h
      · exact h.loseStore

theorem State.Canonical.rootStore (h : s.Canonical) : (s.rootStore part n va x).Canonical := by
  unfold State.rootStore
  extract_lets
  split
  · exact h.rootWrite
  · exact h.rootWrite.rootWrite

theorem State.Canonical.modLq {f : LQueue → LQueue} (h : s.Canonical) : (s.modLq part q f).Canonical :=
  h.modPart

theorem State.Canonical.serve (h : s.Canonical) : (s.serve part).Canonical := by
  unfold State.serve
  split
  · exact h
  · split
    · exact h
    · split
      · exact h
      · exact h.post

theorem State.Canonical.taken (h : s.Canonical) : (s.taken part q).Canonical :=
  h.modLq.modPart

theorem State.Canonical.failPacket (h : s.Canonical) : (s.failPacket part q).Canonical :=
  h.taken.postEvent

theorem State.Canonical.takeUp {e : Instr} {k : Part → BitVec 512 → State} (h : s.Canonical) (hk : ∀ x0 x1, (k x0 x1).Canonical) :
    EndsCanonical (Machine.takeUp part q e s k) := by
  unfold Machine.takeUp
  split
  · exact h.happened
  · extract_lets
    split
    · exact h.serve.happened
    · exact (hk _ _).serve.happened

theorem State.Canonical.execDoorbellWrite {prod : BitVec 32} (h : s.Canonical) :
    EndsCanonical (Machine.execDoorbellWrite part queue prod s) := by
  unfold Machine.execDoorbellWrite
  split
  · exact h.happened
  · split
    · exact h.happened
    · extract_lets
      split
      · exact h.modLq.happened
      · exact h.modLq.serve.happened

theorem State.Canonical.execDoorbellIgnoredClear {value : DWord} (h : s.Canonical) :
    EndsCanonical (Machine.execDoorbellIgnoredClear part queue value s) :=
  (State.Canonical.ite h.modLq h).happened

theorem State.Canonical.complete {x : BitVec 512} {status : ℕ} (h : s.Canonical) : (s.complete part x status).Canonical := by
  unfold State.complete
  extract_lets
  split
  · exact h
  · exact h.rootStore

theorem State.Canonical.startLaunch {x : BitVec 512} (h : s.Canonical) : (s.startLaunch p part queue x).Canonical := by
  unfold State.startLaunch
  extract_lets
  split
  · exact h.taken.frame.complete
  · split
    · exact h.taken.frame.complete
    · split
      · exact h.taken.frame.complete
      · split
        · exact h
        · exact h.taken.frame.modPart.frame.postOnce

theorem State.Canonical.admission {x : BitVec 512} (h : s.Canonical) : (s.admission p part queue x).Canonical := by
  unfold State.admission
  extract_lets
  split
  · exact h.failPacket
  · split
    · exact h.modLq.taken.complete
    · split
      · exact h.modLq
      · exact h.modLq.modPart.startLaunch

theorem State.Canonical.execPktLaunch (h : s.Canonical) : EndsCanonical (Machine.execPktLaunch part queue s) :=
  h.takeUp fun _ _ => h.admission

theorem State.Canonical.execPktDependenceWait (h : s.Canonical) : EndsCanonical (Machine.execPktDependenceWait part queue s) :=
  h.takeUp fun _ _ => State.Canonical.ite h.failPacket h.taken.modLq.post

theorem State.Canonical.execDependenceWaitPoll (h : s.Canonical) : EndsCanonical (Machine.execDependenceWaitPoll part queue s) := by
  unfold Machine.execDependenceWaitPoll
  split
  · exact h.happened
  · extract_lets
    split
    · exact h.modLq.postEvent.serve.happened
    · exact (State.Canonical.ite h.modLq.serve h.post).happened

theorem State.Canonical.endDrain (h : s.Canonical) : (s.endDrain part queue).Canonical := by
  unfold State.endDrain
  split
  · exact h
  · split
    · exact h
    · exact h.modLq

theorem State.Canonical.execPktSetDeterminism (h : s.Canonical) : EndsCanonical (Machine.execPktSetDeterminism part queue s) :=
  h.takeUp fun _ _ => State.Canonical.ite h.failPacket (State.Canonical.ite h.taken.modLq.endDrain h.taken.modLq)

theorem State.Canonical.execPktSetNbv (h : s.Canonical) : EndsCanonical (Machine.execPktSetNbv part queue s) :=
  h.takeUp fun _ _ => State.Canonical.ite h.failPacket h.taken.modLq

theorem State.Canonical.execPktEnergyEstimate (h : s.Canonical) : EndsCanonical (Machine.execPktEnergyEstimate part queue s) :=
  h.takeUp fun _ _ => State.Canonical.ite h.failPacket h.taken.modLq

theorem State.Canonical.execPktSpillGrant (h : s.Canonical) : EndsCanonical (Machine.execPktSpillGrant part queue s) :=
  h.takeUp fun _ _ => show State.Canonical _ by
  split
  · exact h.failPacket
  · split
    · exact h.taken
    · exact h.taken.modPart

theorem State.Canonical.execLaunchComplete {launch : ℕ} (h : s.Canonical) : EndsCanonical (Machine.execLaunchComplete launch s) := by
  unfold Machine.execLaunchComplete
  split
  · exact h.happened
  · split
    · exact h.happened
    · extract_lets
      split
      · exact (h.foldl fun _ _ hs => hs.postOnce).post.happened
      · exact (State.Canonical.ite h h.rootStore).frame.endDrain.serve.happened

theorem State.Canonical.putPacket (h : s.Canonical) : (s.putPacket part q x).Canonical := by
  unfold State.putPacket
  split
  · exact h
  · exact h.agentWrite.modLq.serve

theorem State.Canonical.mcallBody {d a b : BitVec 7} {v : Env} (h : s.Canonical) : (Machine.mcallBody d a b v s).Canonical := by
  unfold Machine.mcallBody
  extract_lets
  split
  · trivial
  · split
    · trivial
    · exact h.releaseThen fun _ hs => by
          split
          · exact hs.dataError
          · exact (State.Canonical.ite hs.putPacket hs).modGroup

end Sys2Proof.Machine
end

section
/-! Every step keeps the byte memories in their form: the operations of Machine/Collect.lean. -/

namespace Sys2Proof.Machine

variable {s : State} {c : Comm} {i comm part queue : ℕ} {x : BitVec 512}

theorem State.Canonical.commEntry {k tag status : ℕ} (h : s.Canonical) : (s.commEntry c k tag status).Canonical :=
  h.rootWrite

theorem State.Canonical.setCons {k : DWord} (h : s.Canonical) : (s.setCons c k).Canonical :=
  h.rootWrite

theorem State.Canonical.commResult {st : ℕ} (h : s.Canonical) : (s.commResult i st).Canonical :=
  h.modComm.postOnce

theorem State.Canonical.nextCommand (h : s.Canonical) : (s.nextCommand i).Canonical := by
  unfold State.nextCommand
  split
  · exact h
  · refine iteInduction (fun _ => ?_) fun _ => ?_
    · exact h
    · split
      · exact h
      · split
        · exact h.modComm.postOnce
        · dsimp only
          split
          · exact h.modComm.commResult
          · exact h.modComm.post

theorem State.Canonical.execCollProdWrite {prod : DWord} {hyp : BitVec 12} (h : s.Canonical) :
    EndsCanonical (Machine.execCollProdWrite comm prod hyp s) := by
  unfold Machine.execCollProdWrite
  split
  · exact h.happened
  · split
    · exact h.commEntry.happened
    · split
      · exact h.happened
      · exact h.nextCommand.happened

theorem State.Canonical.commMeet {ns : List Need} (h : s.Canonical) : (s.commMeet i c x ns).Canonical :=
  h.meetSome.post

theorem State.Canonical.commStart (h : s.Canonical) : (s.commStart i c x).Canonical := by
  unfold State.commStart
  extract_lets
  split
  · exact h.frame.commResult
  · split
    · next s1 e1 =>
      have h1 : s1.Canonical := h.frame.startRange.of_eq e1
      exact h1.post
    · next s1 e1 =>
      have h1 : s1.Canonical := h.frame.startRange.of_eq e1
      exact h1.modComm.post

theorem State.Canonical.commFail (h : s.Canonical) : (s.commFail i c).Canonical :=
  h.endRangesOn.commResult

theorem State.Canonical.commRun (h : s.Canonical) : (s.commRun i c x).Canonical := by
  unfold State.commRun
  extract_lets
  split
  · exact h.commFail
  · split
    · exact h.commMeet
    · split
      · split
        · exact h.commResult
        · exact h
      · split
        · exact h
        · split
          · exact h.commFail
          · split
            · next s1 e1 =>
              have h1 : s1.Canonical := h.engineWrite.of_eq e1
              exact h1.post
            · next s1 _ e1 =>
              have h1 : s1.Canonical := h.engineWrite.of_eq e1
              exact h1.modComm.post

theorem State.Canonical.commSettle (h : s.Canonical) : (s.commSettle i c x).Canonical := by
  unfold State.commSettle
  extract_lets
  split
  · exact h.leaveApplied.post
  · exact h.leaveApplied.endRangesOn.commResult

theorem State.Canonical.commStep {kind : ℕ → Bool} (h : s.Canonical) : (s.commStep i kind).Canonical := by
  unfold State.commStep
  split
  · exact h
  · split
    · exact h
    · split
      · exact h
      · split
        · exact h.modComm.postOnce
        · split
          · exact h.commStart
          · split
            · exact h.commRun
            · exact h.commSettle

theorem State.Canonical.execCollAllReduce (h : s.Canonical) : EndsCanonical (Machine.execCollAllReduce comm s) :=
  h.commStep.happened

theorem State.Canonical.execCollReduce (h : s.Canonical) : EndsCanonical (Machine.execCollReduce comm s) :=
  h.commStep.happened

theorem State.Canonical.execCollBroadcast (h : s.Canonical) : EndsCanonical (Machine.execCollBroadcast comm s) :=
  h.commStep.happened

theorem State.Canonical.execCollNodeReceive {lo hi elem : ℕ} {value : Option Word} (h : s.Canonical) :
    EndsCanonical (Machine.execCollNodeReceive comm lo hi elem value s) := by
  unfold Machine.execCollNodeReceive
  split
  · exact h.happened
  · split
    · exact h.happened
    · split
      · exact h.post.happened
      · split
        · exact h.post.happened
        · split
          · exact h.commFail.happened
          · exact h.modComm.postOnce.happened

theorem State.Canonical.failPending (h : s.Canonical) : (s.failPending i c).Canonical := by
  unfold State.failPending
  extract_lets
  split
  · exact h
  · exact (h.endRangesOn.foldl fun _ _ hs => hs.commEntry).setCons.modComm

theorem State.Canonical.execCollComplete (h : s.Canonical) : EndsCanonical (Machine.execCollComplete comm s) := by
  unfold Machine.execCollComplete
  split
  · exact h.happened
  · split
    · exact h.modComm.failPending.happened
    · split
      · exact h.commEntry.setCons.modComm.nextCommand.happened
      · exact h.happened

theorem State.Canonical.commNotice {what : ℕ} (h : s.Canonical) : SumCanonical (s.commNotice i what) := by
  unfold State.commNotice
  split
  · exact h
  · split
    · exact h.modComm.nextCommand
    · exact h.modComm.postOnce
    · split
      · exact h
      · exact h.commFail
    · exact h

theorem State.Canonical.execPktCommCreate (h : s.Canonical) : EndsCanonical (Machine.execPktCommCreate part queue s) :=
  h.takeUp fun _ _ => show State.Canonical _ by
  split
  · exact h.failPacket
  · split
    · exact h.failPacket
    · exact h.taken.frame.nextCommand

theorem State.Canonical.execPktCommRebuild (h : s.Canonical) : EndsCanonical (Machine.execPktCommRebuild part queue s) :=
  h.takeUp fun _ _ => show State.Canonical _ by
  split
  · exact h.failPacket
  · split
    · exact h.failPacket
    · split
      · exact h.failPacket
      · split
        · exact h.failPacket
        · exact h.taken.failPending.modComm.nextCommand

end Sys2Proof.Machine
end

section
/-! Every step keeps the byte memories in their form: the operations of Machine/Slots.lean. -/

namespace Sys2Proof.Machine

variable {s : State} {core old new slot id : ℕ} {k : Core} {b : BindRec} {c : Cmd} {t : Team} {r : GroupRef}

theorem State.Canonical.askPlace {part : ℕ} (h : s.Canonical) : (s.askPlace part).Canonical := by
  unfold State.askPlace
  split
  · exact h
  · exact h.postOnce

theorem State.Canonical.offer (h : s.Canonical) : (s.offer core).Canonical := by
  unfold State.offer
  split
  · split
    · exact h.postOnce
    · exact h
  · exact h

theorem State.Canonical.execClusterPlace {launch : ℕ} (h : s.Canonical) : EndsCanonical (Machine.execClusterPlace launch s) := by
  unfold Machine.execClusterPlace
  split
  · exact h.happened
  · split
    · exact h.happened
    · split
      · exact h.happened
      · extract_lets
        split
        · exact h.happened
        · exact ((State.Canonical.ite h.modLaunch.frame.modPart h.modLaunch.frame).foldl fun _ _ hs => hs.offer).askPlace.happened

theorem Core.Canonical.moveQueues (h : k.Canonical) : (k.moveQueues old new).Canonical :=
  h.frame

theorem Core.Canonical.moveRefs {ks : List ℕ} (h : k.Canonical) : (Core.moveRefs core old new ks k).Canonical :=
  h.frame

theorem State.Canonical.moveTeam (h : s.Canonical) : (s.moveTeam core old new b).Canonical := by
  unfold State.moveTeam
  split
  · exact h
  · refine State.Canonical.setMember (.mapCores (.modCore h fun _ hk => ?_) (fun _ => rfl) fun _ hk => hk.moveRefs)
    exact Core.Canonical.moveQueues (.of_mems (wf_moveBytes hk.scratch) (wf_moveBytes hk.ob))

theorem State.Canonical.purge (h : s.Canonical) : (s.purge core slot).Canonical :=
  h.modDie.frame

theorem State.Canonical.slotResult {op res : ℕ} (h : s.Canonical) : (s.slotResult core slot op res).Canonical :=
  h.modCore

theorem State.Canonical.fillWindow (h : s.Canonical) : (s.fillWindow core b).Canonical :=
  h.modCore.scratchWrite.scratchWrite.scratchWrite

theorem State.Canonical.bindSlot (h : s.Canonical) : (s.bindSlot core slot).Canonical := by
  unfold State.bindSlot
  extract_lets
  split
  · exact h.slotResult
  · split
    · exact h.slotResult
    · exact h.fillWindow.modCore.setMember.slotResult.postOnce

theorem State.Canonical.codeFor {l : Launch} {o : ℕ × ℕ × ℕ} (h : s.Canonical) : (s.codeFor id l o).1.Canonical := by
  unfold State.codeFor
  split
  · exact h
  · extract_lets
    split
    · exact h.frame
    · exact (h.installRoot.frame.foldl fun _ _ hs => hs.rootWrite).modLaunch

theorem State.Canonical.prepare {s1 : State} {w : Waiting} {entry : ℕ} (h : s1.Canonical) : (s1.prepare core slot w entry).Canonical := by
  unfold State.prepare
  extract_lets b s2
  have h2 : s2.Canonical := h.foldl fun _ _ hs => hs.setHbm (Mem.wf_write _ _ _ _ hs.hbm)
  exact h2.modCore.setHbm (Mem.wf_write _ _ _ _ h2.hbm)

theorem State.Canonical.refuseLaunch (h : s.Canonical) : (s.refuseLaunch id).Canonical := by
  unfold State.refuseLaunch
  split
  · exact h
  · exact ((h.launchStatus.modLaunch.foldl fun _ _ hs => hs.killTeam).foldl fun _ _ hs => hs.offer).modPart.askPlace.postOnce

theorem State.Canonical.recount (h : s.Canonical) : (s.recount c).Canonical :=
  h.foldl fun _ _ hs => hs.fretUp

theorem State.Canonical.reissue (h : s.Canonical) : (s.reissue core c).Canonical :=
  h.recount.modCore.enterRequests.postOnce

theorem Core.Canonical.rewait (h : k.Canonical) : (k.rewait t).Canonical :=
  h.frame

theorem State.Canonical.askTicket (h : s.Canonical) : (s.askTicket r).Canonical := by
  unfold State.askTicket
  split
  · exact h
  · split
    · exact h.modGroup.post.frame
    · exact h

theorem State.Canonical.restoreSlot {park : ℕ} (h : s.Canonical) : (s.restoreSlot core slot park).Canonical := by
  unfold State.restoreSlot
  split
  · exact h.slotResult
  · exact ((((h.moveTeam.frame.modTeam.foldl fun _ _ hs => hs.reissue).foldl fun _ _ hs => show State.Canonical _ by
      split
      · exact hs
      · exact (hs.foldl fun _ _ hs => hs.post).postOnce.askTicket).modCore fun _ hk => hk.rewait).modCore.foldl
          fun _ _ hs => hs.resendPush).slotResult.postOnce

theorem State.Canonical.clearSrc (h : s.Canonical) : (s.clearSrc core).Canonical :=
  h.modCore

theorem State.Canonical.execSlotBind (h : s.Canonical) : EndsCanonical (Machine.execSlotBind core slot s) := by
  unfold Machine.execSlotBind
  split
  · exact h.happened
  · split
    · exact h.slotResult.offer.happened
    · split
      · split
        · exact h.happened
        · split
          · exact h.restoreSlot.happened
          · exact h.slotResult.happened
          · exact h.bindSlot.happened
      · split
        · exact h.happened
        · split
          · exact h.modCore.restoreSlot.clearSrc.offer.happened
          · split
            · next s1 e1 =>
              have h1 : s1.Canonical := h.codeFor.of_pair e1
              exact h1.post.happened
            · next s1 _ e1 =>
              have h1 : s1.Canonical := h.codeFor.of_pair e1
              extract_lets
              split
              · exact h1.prepare.bindSlot.clearSrc.offer.happened
              · exact h1.prepare.bindSlot.clearSrc.refuseLaunch.happened

theorem State.Canonical.writeBack (h : s.Canonical) : (s.writeBack core slot t).Canonical := by
  unfold State.writeBack
  refine .foldl (h.setHbm (Mem.wf_write _ _ _ _ h.hbm)) fun s nq hs => ?_
  split
  · exact hs
  · exact .ite (hs.setHbm (Mem.wf_write _ _ _ _ hs.hbm)) hs

theorem Core.Canonical.clearSlot (h : k.Canonical) : (k.clearSlot slot t).Canonical :=
  h.frame

theorem State.Canonical.noteFinished (h : s.Canonical) : (s.noteFinished core slot t).Canonical := by
  unfold State.noteFinished
  split
  · exact h.setMember
  · exact h.setMember.modLaunch

theorem State.Canonical.dropTeam (h : s.Canonical) : (s.dropTeam core slot t).Canonical :=
  (((h.foldl fun _ _ hs => hs.withdrawSteal).foldl fun _ _ hs => hs.withdrawSteal).writeBack.modCore
      fun _ hk => hk.clearSlot).purge.noteFinished.slotResult.offer.askPlace.postOnce

theorem State.Canonical.execSlotRelease (h : s.Canonical) : EndsCanonical (Machine.execSlotRelease core slot s) := by
  unfold Machine.execSlotRelease
  split
  · exact h.slotResult.happened
  · split
    · exact h.happened
    · split
      · exact h.post.happened
      · exact h.dropTeam.happened

theorem State.Canonical.execSlotKill (h : s.Canonical) : EndsCanonical (Machine.execSlotKill core slot s) := by
  unfold Machine.execSlotKill
  split
  · exact h.slotResult.happened
  · exact h.killTeam.slotResult.happened

theorem State.Canonical.execGroupSlotRelease {g : GroupRef} (h : s.Canonical) : EndsCanonical (Machine.execGroupSlotRelease g s) := by
  unfold Machine.execGroupSlotRelease
  split
  · split
    · exact h.happened
    · split
      · exact h.post.happened
      · exact (State.Canonical.ite ((State.Canonical.ite h.launchStatus h).modGroup.post)
          ((State.Canonical.ite h.launchStatus h).modGroup)).happened
  · exact h.happened

theorem State.Canonical.setAct {n : ℕ} (h : s.Canonical) : (s.setAct core n).Canonical :=
  h.modCore

theorem State.Canonical.uncount (h : s.Canonical) : (s.uncount c).Canonical :=
  h.foldl fun _ _ hs => hs.fretDown

theorem State.Canonical.withdrawWords (h : s.Canonical) : (s.withdrawWords core slot).Canonical :=
  (h.foldl fun _ _ hs => hs.uncount).modTeam.modCore.enterRequests

theorem State.Canonical.startSave (h : s.Canonical) : (s.startSave core slot).Canonical :=
  h.modTeam.modCore.post.withdrawWords

theorem State.Canonical.execSlotSave (h : s.Canonical) : EndsCanonical (Machine.execSlotSave core slot s) := by
  unfold Machine.execSlotSave
  split
  · exact h.slotResult.happened
  · split
    · exact h.happened
    · split
      · exact h.post.happened
      · split
        · exact h.modTeam.setAct.post.happened
        · split
          · exact h.killForAgain.setAct.happened
          · exact h.startSave.setAct.happened

theorem State.Canonical.execPreemptDrainTimeout (h : s.Canonical) : EndsCanonical (Machine.execPreemptDrainTimeout core slot s) := by
  unfold Machine.execPreemptDrainTimeout
  split
  · exact h.happened
  · split
    · exact h.happened
    · split
      · exact h.post.happened
      · exact h.startSave.setAct.happened

theorem State.Canonical.restGroup (h : s.Canonical) : (s.restGroup r).Canonical :=
  (h.withdrawSteal.dropPush.modTeam.modCore fun _ hk => hk.dropWaiter).modGroup.frame

theorem State.Canonical.writeContext (h : s.Canonical) : (s.writeContext core slot t).Canonical := by
  have hw : ∀ (ps : List (ℕ × ℕ × ℕ)) (m : Mem), m.wf = true → Mem.wf (ps.foldl (fun m p => m.write p.2.1
      (t.ctx + 128 + p.1) p.2.2) m) = true := by
    intro ps
    induction ps with
    | nil => exact fun _ w => w
    | cons p ps ih => exact fun m w => ih _ (Mem.wf_write m _ _ _ w)
  unfold State.writeContext
  extract_lets _ s1 s2
  have h1 : s1.Canonical := h.writeBack.frame
  have h2 : s2.Canonical := h1.setHbm (Mem.wf_write _ _ _ _ h1.hbm)
  exact h2.setHbm (hw _ _ h2.hbm)

theorem Core.Canonical.unwait (h : k.Canonical) : (k.unwait t).Canonical :=
  h.frame

theorem State.Canonical.parkTeam (h : s.Canonical) : (s.parkTeam core slot t).Canonical := by
  have hc : ∀ s : State, s.Canonical → State.Canonical ((((s.core core).team? slot).map fun t => s.writeContext core slot t).getD s) :=
      fun s hs => by
    cases (s.core core).team? slot
    · exact hs
    · exact hs.writeContext
  unfold State.parkTeam
  extract_lets own s0 s1 s2 s3
  have h2 : s2.Canonical :=
    ((h.foldl fun _ _ hs => hs.withdrawSteal).foldl fun _ _ hs => hs.restGroup.followLanes).modTeam.modCore fun _ hk => hk.unwait
  have h3 : s3.Canonical := hc s2 h2
  exact h3.purge.moveTeam.slotResult.clearSrc.offer.askPlace

theorem State.Canonical.execContextSaveWrite (h : s.Canonical) : EndsCanonical (Machine.execContextSaveWrite core slot s) := by
  unfold Machine.execContextSaveWrite
  split
  · exact h.happened
  · split
    · exact h.happened
    · split
      · exact h.post.happened
      · exact h.parkTeam.happened

end Sys2Proof.Machine
end

section
/-! Every step keeps the byte memories in their form: the operations of Machine/Monitor.lean. -/

namespace Sys2Proof.Machine

variable {s : State} {part core sel die : ℕ}

theorem State.Canonical.execSleepExpire {g : GroupRef} (h : s.Canonical) : EndsCanonical (Machine.execSleepExpire g s) := by
  unfold Machine.execSleepExpire
  split
  · exact (State.Canonical.ite h.post h.modGroup).happened
  · exact h.happened

theorem State.Canonical.regroupOne {r : GroupRef} {ids : List ℕ} (h : s.Canonical) : (s.regroupOne r part ids).Canonical := by
  unfold State.regroupOne
  split
  · exact h
  · extract_lets
    split
    · exact (h.exitLanes.foldl fun _ _ hs => hs.countRef).modGroup.groupExit
    · exact (h.exitLanes.foldl fun _ _ hs => hs.countRef).modGroup

theorem State.Canonical.execRegroupComplete {slot : ℕ} (h : s.Canonical) : EndsCanonical (Machine.execRegroupComplete core slot s) := by
  unfold Machine.execRegroupComplete
  split
  · exact h.happened
  · split
    · exact h.happened
    · exact (h.modTeam.foldl fun _ _ hs => hs.regroupOne).happened

theorem State.Canonical.execRateWindowEnd (h : s.Canonical) : EndsCanonical (Machine.execRateWindowEnd core s) :=
  (State.Canonical.ite h.modCore h.modCore.postOnce).happened

theorem State.Canonical.measure (h : s.Canonical) : (s.measure sel).Canonical :=
  h.frame

theorem State.Canonical.sample (h : s.Canonical) : (s.sample sel).Canonical := by
  unfold State.sample
  split
  · exact h
  · exact h.measure

theorem State.Canonical.modThreshold {u : ℕ} {f : Threshold → Threshold} (h : s.Canonical) : (s.modThreshold die u f).Canonical :=
  h.modDie

theorem State.Canonical.execThresholdFire {unit : ℕ} (h : s.Canonical) : EndsCanonical (Machine.execThresholdFire die unit s) := by
  unfold Machine.execThresholdFire
  extract_lets
  split
  · exact h.happened
  · split
    · exact h.sample.modThreshold.frame.happened
    · exact h.sample.modThreshold.post.happened

theorem State.Canonical.execClockStepTakeEffect (h : s.Canonical) : EndsCanonical (Machine.execClockStepTakeEffect part s) :=
  h.modPart.happened

theorem State.Canonical.execEnergyIntervalEnd (h : s.Canonical) : EndsCanonical (Machine.execEnergyIntervalEnd part s) := by
  unfold Machine.execEnergyIntervalEnd
  split
  · exact h.happened
  · exact (State.Canonical.ite h.measure.modPart.frame h.measure.modPart.frame.postOnce).serve.postOnce.happened

theorem State.Canonical.execWatchdogExpire (h : s.Canonical) : EndsCanonical (Machine.execWatchdogExpire part s) := by
  unfold Machine.execWatchdogExpire
  split
  · exact h.happened
  · split
    · exact h.happened
    · exact (State.Canonical.ite h.modPart.postOnce.postOnce h.modPart.postOnce).happened

theorem State.Canonical.discardPart (h : s.Canonical) : (s.discardPart part).Canonical :=
  (h.foldl fun _ _ hs => hs.dropVersion).frame

theorem State.Canonical.discardQueue {p : Part} {q : ℕ} (h : s.Canonical) : (s.discardQueue part p q).Canonical := by
  unfold State.discardQueue
  exact (h.foldl fun _ _ hs => State.Canonical.ite hs.rootStore hs).modLq

theorem State.Canonical.breakComms (h : s.Canonical) : (s.breakComms part).Canonical :=
  h.frame.foldl fun _ _ hs => State.Canonical.ite hs.postOnce hs

theorem State.Canonical.execPartitionReset (h : s.Canonical) : EndsCanonical (Machine.execPartitionReset part s) := by
  unfold Machine.execPartitionReset
  split
  · exact h.happened
  · next p _ =>
    extract_lets s1 s2 s3 s4
    have h1 : s1.Canonical := h.foldl fun _ _ hs => hs.discardQueue
    have h2 : s2.Canonical := h1.foldl fun _ _ hs => hs.modLaunch.postOnce
    have h3 : s3.Canonical := h2.foldl fun _ _ hs => hs.killTeam
    have h4 : s4.Canonical := h3.mapCores (fun _ => rfl) fun _ hk => hk.frame
    exact h4.discardPart.modPart.breakComms.postOnce.happened

theorem State.Canonical.execPartitionResetComplete (h : s.Canonical) : EndsCanonical (Machine.execPartitionResetComplete part s) := by
  unfold Machine.execPartitionResetComplete
  split
  · exact h.happened
  · split
    · exact h.happened
    · split
      · exact h.post.happened
      · exact h.discardPart.modPart.serve.happened

end Sys2Proof.Machine
end

section
/-! Every step keeps the byte memories in their form: the operations of Machine/Pages.lean. -/

namespace Sys2Proof.Machine

variable {s : State} {p : ℕ → Bool} {die pa frame line hostLine : ℕ} {toHost poison : Bool} {bytes : LineBytes}

theorem State.Canonical.sendDirty {ds : List ℕ} (h : s.Canonical) : (s.sendDirty ds).Canonical :=
  h.foldl fun _ _ hs => hs.postOnce

theorem State.Canonical.dropFrames (h : s.Canonical) : (s.dropFrames p).Canonical :=
  h.frame.foldl fun _ _ hs => hs.dropLeavesOf

theorem State.Canonical.dropLines (h : s.Canonical) : (s.dropLines p).Canonical :=
  h.dropFrames.frame

theorem State.Canonical.execTsync (h : s.Canonical) : EndsCanonical (Machine.execTsync die s) :=
  h.modDie.postOnce.happened

theorem State.Canonical.execTsyncDone (h : s.Canonical) : EndsCanonical (Machine.execTsyncDone die s) := by
  unfold Machine.execTsyncDone
  split
  · exact h.post.happened
  · exact h.modDie.happened

theorem State.Canonical.execPageCopy {ctl : DWord} (h : s.Canonical) : EndsCanonical (Machine.execPageCopy die ctl s) := by
  unfold Machine.execPageCopy
  split
  · exact h.happened
  · extract_lets
    split
    · exact h.modDie.happened
    · exact h.modDie.postOnce.happened

theorem State.Canonical.endCopy {err : Bool} (h : s.Canonical) : (s.endCopy die err).Canonical :=
  h.modDie

theorem State.Canonical.leaveCopied (h : s.Canonical) : (s.leaveCopied die).Canonical :=
  h.foldl fun _ _ hs => hs.leaveLine

theorem State.Canonical.copyLine {x : Line} {bad : Bool} (h : s.Canonical) : (s.copyLine die pa x bad).Canonical :=
  (State.Canonical.ite h.modDie.closeBatch.putLine h.modDie.closeBatch.putLine.modDie).post

theorem State.Canonical.execPageCopyDone {s0 : State} (h : s0.Canonical) : EndsCanonical (Machine.execPageCopyDone die s0) := by
  unfold Machine.execPageCopyDone
  extract_lets
  split
  · exact h.leaveCopied.happened
  · split
    · exact h.leaveCopied.endCopy.happened
    · split
      · exact h.leaveCopied.endCopy.happened
      · split
        · split
          · exact h.leaveCopied.post.happened
          · exact h.leaveCopied.endCopy.happened
        · split
          · exact h.leaveCopied.post.happened
          · split
            · exact h.leaveCopied.copyLine.happened
            · split
              · exact h.leaveCopied.sendDirty.post.happened
              · exact h.leaveCopied.dropLines.hostYields.copyLine.happened

theorem State.Canonical.setBias {host : Bool} (h : s.Canonical) : (s.setBias frame host).Canonical :=
  h.agentWrite

theorem State.Canonical.execBiasFlip {flip : DWord} (h : s.Canonical) : EndsCanonical (Machine.execBiasFlip die flip s) := by
  unfold Machine.execBiasFlip
  extract_lets
  split
  · exact h.happened
  · split
    · exact h.modDie.happened
    · exact h.modDie.startFlip.happened

theorem State.Canonical.mboxDone {code : ℕ} (h : s.Canonical) : (s.mboxDone code).Canonical :=
  h.frame

theorem State.Canonical.flipAnswer (h : s.Canonical) : (s.flipAnswer frame toHost).Canonical := by
  unfold State.flipAnswer
  extract_lets
  split
  · exact h.frame.mboxDone
  · exact h.frame

theorem State.Canonical.execBiasFlipDone (h : s.Canonical) : EndsCanonical (Machine.execBiasFlipDone frame toHost s) := by
  unfold Machine.execBiasFlipDone
  split
  · exact h.happened
  · split
    · exact h.post.happened
    · extract_lets
      split
      · exact h.sendDirty.post.happened
      · exact (State.Canonical.ite h.dropFrames.frame h.frame).setBias.frame.flipAnswer.happened

theorem State.Canonical.execHintPost {part : ℕ} {hint : Hint} (h : s.Canonical) : EndsCanonical (Machine.execHintPost die part hint s) :=
  h.writeHint.happened

theorem State.Canonical.hostAccess (h : s.Canonical) : SumCanonical (s.hostAccess line) := by
  unfold State.hostAccess
  split
  · exact h
  · split
    · exact h
    · extract_lets
      split
      · exact h.dropLines
      · exact h.sendDirty

theorem State.Canonical.hostHolds (h : s.Canonical) : (s.hostHolds line).Canonical := by
  unfold State.hostHolds
  split
  · exact h.frame
  · exact h

theorem State.Canonical.execHostMemRead (h : s.Canonical) : EndsCanonical (Machine.execHostMemRead hostLine s) := by
  unfold Machine.execHostMemRead
  split
  · exact h.happened
  · split
    · next s1 e1 =>
      have h1 : s1.Canonical := h.hostAccess.of_eq e1
      exact h1.post.happened
    · next s1 e1 =>
      have h1 : s1.Canonical := h.hostAccess.of_eq e1
      exact h1.hostHolds.frame.happened

theorem State.Canonical.execHostMemWrite (h : s.Canonical) : EndsCanonical (Machine.execHostMemWrite hostLine bytes poison s) := by
  unfold Machine.execHostMemWrite
  split
  · exact h.happened
  · split
    · next s1 e1 =>
      have h1 : s1.Canonical := h.hostAccess.of_eq e1
      exact h1.post.happened
    · next s1 e1 =>
      have h1 : s1.Canonical := h.hostAccess.of_eq e1
      exact h1.rootApply.happened

theorem State.Canonical.execHostSnoop (h : s.Canonical) : EndsCanonical (Machine.execHostSnoop line s) := by
  unfold Machine.execHostSnoop
  split
  · exact h.post.happened
  · split
    · exact h.happened
    · extract_lets
      split
      · exact h.dropLines.hostHolds.happened
      · exact h.sendDirty.post.happened

theorem State.Canonical.fabAnswer (h : s.Canonical) : (s.fabAnswer line).Canonical :=
  h.frame

theorem State.Canonical.execFabricRequestIn {kind : BitVec 4} (h : s.Canonical) :
    EndsCanonical (Machine.execFabricRequestIn kind line bytes s) := by
  unfold Machine.execFabricRequestIn
  split
  · exact h.happened
  · split
    · exact h.post.happened
    · split
      · exact h.rootApply.happened
      · split
        · exact h.fabAnswer.happened
        · extract_lets
          split
          · exact h.happened
          · split
            · exact h.fabAnswer.happened
            · exact h.fabAnswer.rootApply.happened

theorem State.Canonical.chihoatAtomic {op : BitVec 4} {x y : DWord} (h : s.Canonical) : SumCanonical (s.chihoatAtomic die op pa x y) := by
  unfold State.chihoatAtomic
  extract_lets
  split
  · exact h
  · split
    · exact h
    · split
      · exact h.postOnce
      · split
        · exact h
        · split
          · exact h
          · exact h.writeHome

theorem State.Canonical.farWrite {remote : Bool} {x : LineBytes} (h : s.Canonical) : (s.farWrite remote line x poison).Canonical := by
  unfold State.farWrite
  refine .setFar (.ite ?_ ?_)
  · exact ⟨h.hbm, h.hostMem, Mem.wf_writeMasked _ _ _ _ _ h.remote, h.scratch, h.ob⟩
  · exact ⟨h.hbm, Mem.wf_writeMasked _ _ _ _ _ h.hostMem, h.remote, h.scratch, h.ob⟩

end Sys2Proof.Machine
end

section
/-! Every step keeps the byte memories in their form: the operations of Machine/Errors.lean. -/

namespace Sys2Proof.Machine

variable {unit row core line key i : ℕ} {s : State} {kind : ErrKind} {g : GroupRef}

theorem Core.Canonical.retireRow {k : Core} (h : k.Canonical) : (k.retireRow unit row).Canonical := by
  unfold Core.retireRow
  extract_lets
  split
  · exact .of_mems (Mem.wf_write _ _ _ _ h.scratch) h.ob
  · split
    · exact .of_mems h.scratch (Mem.wf_write _ _ _ _ h.ob)
    · split
      · exact h.frame.frame
      · split
        · exact h.frame
        · exact h.frame.frame

theorem State.Canonical.rowError (h : s.Canonical) : (s.rowError core unit row kind).Canonical := by
  unfold State.rowError
  split
  · exact h
  · exact h.modCore fun _ hk => show Core.Canonical _ by
      split
      · exact hk.frame
      · exact hk.frame
      · exact hk.retireRow

theorem State.Canonical.execLateFault (h : s.Canonical) : EndsCanonical (Machine.execLateFault g line s) := by
  unfold Machine.execLateFault
  split
  · extract_lets
    split
    · exact (State.Canonical.ite (h.modCore fun _ hk => hk.retireRow) h).policyKill.happened
    · split
      · exact (State.Canonical.ite (h.modCore fun _ hk => hk.retireRow) h).killTeam.happened
      · split
        · exact ((State.Canonical.ite h (State.Canonical.ite (h.modCore fun _ hk => hk.retireRow) h)).foldl
            fun _ _ hs => hs.dropLog).dropTail.modGroup.post.happened
        · exact ((State.Canonical.ite h (State.Canonical.ite (h.modCore fun _ hk => hk.retireRow) h)).foldl
            fun _ _ hs => hs.dropLog).dropTail.modGroup.rolledBack.happened
  · exact h.happened

theorem State.Canonical.execPatrolScrub (h : s.Canonical) : EndsCanonical (Machine.execPatrolScrub core unit row s) := by
  unfold Machine.execPatrolScrub
  split
  · exact h.happened
  · extract_lets
    split
    · exact h.frame.happened
    · exact h.frame.rowError.happened
    · exact h.frame.rowError.happened
    · exact h.frame.rowError.happened

theorem State.Canonical.modHealth {f : Health → Health} (h : s.Canonical) : (s.modHealth f).Canonical :=
  h.frame

theorem State.Canonical.l2Error {die : ℕ} (h : s.Canonical) : (s.l2Error die key kind).Canonical := by
  unfold State.l2Error
  split
  · exact h
  · extract_lets
    split
    · exact h.modDie.modHealth
    · split
      · exact h.modDie.modHealth
      · exact h.modHealth

theorem State.Canonical.poisonHbm (h : s.Canonical) : (s.poisonHbm line).Canonical :=
  h.frame

theorem State.Canonical.poisonLlc (h : s.Canonical) : (s.poisonLlc key).Canonical := by
  unfold State.poisonLlc
  split
  · exact h.poisonHbm.frame
  · exact h.frame

theorem State.Canonical.llcError (h : s.Canonical) : (s.llcError key kind).Canonical := by
  unfold State.llcError
  split
  · exact h
  · extract_lets
    split
    · exact h.modHealth
    · split
      · exact h.poisonLlc.modHealth
      · exact h.modHealth

theorem State.Canonical.hbmError (h : s.Canonical) : (s.hbmError line kind).Canonical := by
  unfold State.hbmError
  extract_lets
  split
  · exact h
  · split
    · exact h.poisonHbm.modHealth
    · exact h.modHealth

theorem State.Canonical.tagError {slice way : ℕ} {both : Bool} (h : s.Canonical) : (s.tagError slice way both).Canonical := by
  unfold State.tagError
  split
  · exact h
  · split
    · exact h.modHealth
    · exact h.modHealth.foldl fun _ _ hs => hs.postOnce

theorem State.Canonical.barrierError (h : s.Canonical) : (s.barrierError core i).Canonical := by
  unfold State.barrierError
  split
  · exact h
  · extract_lets
    split
    · exact h.modCore
    · split
      · exact h.modCore.policyKill
      · exact h.modCore

theorem State.Canonical.queueError' {n : ℕ} (h : s.Canonical) : (s.queueError core n).Canonical := by
  unfold State.queueError
  split
  · exact h
  · extract_lets
    split
    · exact h.modCore
    · split
      · exact h.modCore.policyKill
      · exact h.modCore

theorem State.Canonical.resError {h : ℕ} (hc : s.Canonical) : (s.resError g h).Canonical := by
  unfold State.resError
  split
  · split
    · exact hc
    · extract_lets
      split
      · exact hc.modGroup.policyKill
      · exact hc.modGroup
  · exact hc

theorem State.Canonical.arrive {y1 : Input} (h : s.Canonical) : SumCanonical (s.arrive y1) := by
  unfold State.arrive
  split
  · exact h.l2Error
  · exact h.llcError
  · exact h.hbmError
  · exact h.tagError
  · exact h.barrierError
  · exact h.queueError'
  · exact h.resError
  · exact h.rowError
  · exact h.farWrite
  · exact h.commNotice
  · exact h.chihoatAtomic

theorem State.Canonical.arrival (h : s.Canonical) : EndsCanonical (Machine.arrival i s) := by
  unfold Machine.arrival
  split
  · exact h.happened
  · split
    · next s1 e1 =>
      have h1 : s1.Canonical := h.arrive.of_eq e1
      exact h1.happened
    · next s1 e1 =>
      have h1 : s1.Canonical := h.arrive.of_eq e1
      exact h1.frame.happened

end Sys2Proof.Machine
end

section
/-! Every step keeps the byte memories in their form: the operations of Machine/Hyp.lean. -/

namespace Sys2Proof.Machine

variable {s : State} {d a : BitVec 7} {v : Env} {l : ℕ}

theorem State.Canonical.hypLanes {f : ℕ → State → HypRun} {ls : List ℕ} (hf : ∀ l s, s.Canonical → (f l s).Canonical) (h : s.Canonical) :
    (Machine.hypLanes f ls s).Canonical := by
  induction ls generalizing s with
  | nil => exact h
  | cons l ls ih =>
    unfold Machine.hypLanes
    split
    · next e => exact ih ((hf l s h).of_eq e)
    · next s1 left e =>
      have h1 : s1.Canonical := (hf l s h).of_eq e
      exact h1
    · trivial

theorem HypRun.Canonical.res {r : HypRun} {all : Lanes} (h : r.Canonical) : (r.res all).Canonical := by
  cases r with
  | go s => exact h
  | stop s left =>
    dsimp only [HypRun.res]
    split
    · trivial
    · exact h
  | trap t => trivial

theorem State.Canonical.hnewLane (h : s.Canonical) : (Machine.hnewLane d v l s).Canonical := by
  unfold Machine.hnewLane
  split
  · exact h
  · extract_lets
    split
    · trivial
    · split
      · exact h
      · exact h.modPart.modTeam

theorem State.Canonical.henterLane (h : s.Canonical) : (Machine.henterLane a v l s).Canonical := by
  unfold Machine.henterLane
  extract_lets
  split
  · trivial
  · split
    · trivial
    · split
      · exact h.setHyp
      · split
        · exact h.setHyp
        · trivial

theorem State.Canonical.hleaveLane (h : s.Canonical) : (Machine.hleaveLane v l s).Canonical := by
  unfold Machine.hleaveLane
  extract_lets
  split
  · exact h
  · split
    · exact h
    · exact h.setHyp

theorem State.Canonical.hqryBody (h : s.Canonical) : (Machine.hqryBody d a v s).Canonical := by
  unfold Machine.hqryBody
  split
  · trivial
  · exact h.lane64

theorem State.Canonical.resolveBody {confirm : Bool} (h : s.Canonical) : (Machine.resolveBody confirm d a v s).Canonical := by
  unfold Machine.resolveBody
  extract_lets
  split
  · exact h.lane32
  · exact h.modGroup.modPart.postOnce

end Sys2Proof.Machine
end

section
/-! Every step keeps the byte memories in their form: the operations of Machine/HypCtl.lean. -/

namespace Sys2Proof.Machine

variable {s : State} {part h q id : ℕ} {r : HypReq} {status : Word} {g : GroupRef}

theorem State.Canonical.relabel (hc : s.Canonical) : (s.relabel part h q).Canonical :=
  hc.foldl fun _ _ hs => hs.modDie

theorem State.Canonical.relabelTags (hc : s.Canonical) : (s.relabelTags part h q).Canonical :=
  hc.foldl fun _ _ hs => show State.Canonical _ by
  split
  · exact hs
  · split
    · exact hs.frame
    · exact hs

theorem State.Canonical.discard (h : s.Canonical) : (s.discard part id).Canonical :=
  (h.foldl fun _ _ hs => hs.modDie).frame.foldl fun _ _ hs => hs.dropVersion

theorem State.Canonical.mergeVersion {line : ℕ} {v : Version} (hc : s.Canonical) : (s.mergeVersion part h q line v).Canonical := by
  unfold State.mergeVersion
  refine iteInduction (fun _ => ?_) fun _ => ?_
  · exact hc.dropVersion.rootApply
  · exact (show State.Canonical _ by
      split
      · next s2 e2 =>
        exact hc.dropVersion.unspill.llcAlloc.of_eq e2
      · next s2 e2 =>
        exact hc.dropVersion.unspill.llcAlloc.of_eq e2).versionWrite.sendInvalidations

theorem State.Canonical.mergeVersions (hc : s.Canonical) : (s.mergeVersions part h q).Canonical :=
  hc.foldl fun _ _ hs => show State.Canonical _ by
  split
  · exact hs
  · exact hs.mergeVersion

theorem State.Canonical.answer (h : s.Canonical) : (s.answer part r status).Canonical := by
  unfold State.answer
  split
  · exact h
  · exact h.modPart.post

theorem State.Canonical.execHypRequestTakeup (h : s.Canonical) : EndsCanonical (Machine.execHypRequestTakeup part s) := by
  unfold Machine.execHypRequestTakeup
  split
  · exact h.happened
  · split
    · exact h.postOnce.happened
    · exact h.happened
    · extract_lets
      split
      · exact (State.Canonical.ite h.modPart h.modPart.postOnce).modPart.post.happened
      · exact (State.Canonical.ite h.modPart h.modPart.postOnce).answer.happened

theorem State.Canonical.assignWork {work : List (ℕ × List ℕ)} (h : s.Canonical) : (s.assignWork part work).Canonical :=
  h.foldl fun _ _ hs => hs.modPart.foldl fun _ _ hs => hs.post

theorem State.Canonical.settleData {confirm : Bool} {ids : List ℕ} (hc : s.Canonical) : (s.settleData part h q confirm ids).Canonical :=
  (State.Canonical.ite hc.relabel.relabelTags.mergeVersions hc).foldl fun _ _ hs => hs.discard

theorem State.Canonical.execHypCommit (h : s.Canonical) : EndsCanonical (Machine.execHypCommit part s) := by
  unfold Machine.execHypCommit
  split
  · exact h.happened
  · split
    · exact h.happened
    · extract_lets
      split
      · exact (h.foldl fun _ _ hs => hs.postOnce).post.happened
      · exact h.modPart.settleData.assignWork.modPart.answer.happened

theorem State.Canonical.finishRequest (h : s.Canonical) : (s.finishRequest g r status).Canonical := by
  unfold State.finishRequest
  split
  · exact h
  · extract_lets
    split
    · exact h.modTeam.modGroup.fretDown.stepPerms
    · exact h.modGroup

theorem State.Canonical.execHypResolutionComplete (h : s.Canonical) : EndsCanonical (Machine.execHypResolutionComplete part g s) := by
  unfold Machine.execHypResolutionComplete
  split
  · exact h.happened
  · split
    · exact h.post.happened
    · exact h.modPart.finishRequest.happened

theorem State.Canonical.execHypSliceWorkDone {slice : ℕ} (h : s.Canonical) :
    EndsCanonical (Machine.execHypSliceWorkDone part slice id s) := by
  unfold Machine.execHypSliceWorkDone
  split
  · exact h.post.happened
  · exact h.modPart.happened

end Sys2Proof.Machine
end

section
/-! Every step keeps the byte memories in their form: the operations of Machine/Manage.lean. -/

namespace Sys2Proof.Machine

variable {s : State} {n : ℕ} {tag : BitVec 32} {arg : BitVec 8} {disabled : List ℕ} {x : DWord} {reg : MgmtReg}

theorem State.Canonical.extend {i : ℕ} {d : BitVec 256} (h : s.Canonical) : (s.extend i d).Canonical :=
  h.frame

theorem State.Canonical.bringupFails (h : s.Canonical) : (s.bringupFails n).Canonical :=
  h.frame

theorem State.Canonical.mailbox {op : ℕ} {payload : BitVec 512} {k : State → State} (h : s.Canonical) (hk : ∀ s, s.Canonical →
    (k s).Canonical) : EndsCanonical (Machine.mailbox op tag arg payload s k) := by
  unfold Machine.mailbox
  split
  · exact h.happened
  · extract_lets
    split
    · exact h.frame.mboxDone.happened
    · split
      · exact h.happened
      · exact (hk _ h.frame).happened

theorem State.Canonical.mboxAnswer {x : ℕ} (h : s.Canonical) : (s.mboxAnswer x).Canonical :=
  h.frame.mboxDone

theorem State.Canonical.execMboxQuote {nonce : BitVec 256} (h : s.Canonical) : EndsCanonical (Machine.execMboxQuote tag nonce s) :=
  h.mailbox fun _ hs => hs.frame.mboxAnswer

theorem State.Canonical.execMboxReadMr (h : s.Canonical) : EndsCanonical (Machine.execMboxReadMr tag arg s) :=
  h.mailbox fun _ hs => State.Canonical.ite hs.mboxAnswer hs.mboxDone

theorem State.Canonical.execMboxExtendMr {digest : BitVec 256} (h : s.Canonical) :
    EndsCanonical (Machine.execMboxExtendMr tag arg digest s) :=
  h.mailbox fun _ hs => State.Canonical.ite hs.extend.mboxDone hs.mboxDone

theorem State.Canonical.execMboxCreatePartition {record : BitVec 512} (h : s.Canonical) :
    EndsCanonical (Machine.execMboxCreatePartition tag arg record s) :=
  h.mailbox fun _ hs => State.Canonical.ite hs.mboxDone (State.Canonical.ite hs.mboxDone
      ((State.Canonical.ite hs.frame.extend.postOnce hs.frame.extend.postOnce.postOnce).mboxDone))

theorem State.Canonical.removePart (h : s.Canonical) : (s.removePart n).Canonical :=
  (h.foldl fun _ _ hs => hs.dropVersion).frame

theorem State.Canonical.execMboxDestroyPartition (h : s.Canonical) : EndsCanonical (Machine.execMboxDestroyPartition tag arg s) :=
  h.mailbox fun _ hs => State.Canonical.ite hs.mboxDone hs.removePart.mboxDone

theorem State.Canonical.execMboxResetPartition (h : s.Canonical) : EndsCanonical (Machine.execMboxResetPartition tag arg s) :=
  h.mailbox fun _ hs => State.Canonical.ite hs.mboxDone (State.Canonical.ite hs.mboxDone hs.postOnce.mboxDone)

theorem State.Canonical.execMboxBiasFlip {flip : DWord} (h : s.Canonical) : EndsCanonical (Machine.execMboxBiasFlip tag arg flip s) :=
  h.mailbox fun _ hs => State.Canonical.ite hs.mboxDone hs.startFlip

theorem State.Canonical.execMboxRaiseRollback (h : s.Canonical) : EndsCanonical (Machine.execMboxRaiseRollback tag arg s) :=
  h.mailbox fun _ hs => State.Canonical.ite hs.frame.mboxDone hs.mboxDone

theorem State.Canonical.execMboxReadEvent (h : s.Canonical) : EndsCanonical (Machine.execMboxReadEvent tag arg s) :=
  h.mailbox fun _ hs => show State.Canonical _ by
  split
  · exact hs.mboxAnswer
  · exact hs.mboxDone

theorem State.Canonical.powerUp (h : s.Canonical) : s.powerUp.Canonical :=
  ⟨rfl, h.hostMem, h.remote, fun _ => rfl, fun _ => rfl⟩

theorem State.Canonical.bringUp {id : BitVec 12} (h : s.Canonical) : (s.bringUp disabled id).Canonical := by
  unfold State.bringUp
  extract_lets
  split
  · exact h.frame.bringupFails
  · exact h.frame.frame.foldl fun _ _ hs => hs.postEvent

theorem State.Canonical.execPowerGood {images : List Firmware} {key : BitVec 512} {moduleId : BitVec 12} (h : s.Canonical) :
    EndsCanonical (Machine.execPowerGood images key disabled moduleId s) := by
  unfold Machine.execPowerGood
  extract_lets
  split
  · exact h.powerUp.bringupFails.happened
  · split
    · exact h.powerUp.bringupFails.happened
    · extract_lets
      split
      · exact h.powerUp.extend.bringupFails.happened
      · exact (h.powerUp.extend.foldl fun _ _ hs => hs.extend).bringUp.happened

theorem State.Canonical.openModule (h : s.Canonical) : s.openModule.Canonical := by
  unfold State.openModule
  extract_lets
  split
  · exact h.frame.frame
  · split
    · exact h.frame.bringupFails
    · exact h.frame.frame

theorem State.Canonical.execFeatureCommit (h : s.Canonical) : EndsCanonical (Machine.execFeatureCommit s) := by
  unfold Machine.execFeatureCommit
  split
  · exact h.happened
  · exact h.frame.extend.openModule.happened

theorem State.Canonical.writeThCtl {die unit : ℕ} (h : s.Canonical) : (s.writeThCtl die unit x).Canonical := by
  unfold State.writeThCtl
  split
  · exact h
  · extract_lets
    split
    · exact h.modThreshold.postOnce
    · exact h.modThreshold

theorem State.Canonical.setDecoder {x : ℕ × ℕ × ℕ × Bool} (h : s.Canonical) : (s.setDecoder n x).Canonical := by
  unfold State.setDecoder
  split
  · exact h
  · exact h.frame

theorem State.Canonical.commitDecoder {on : Bool} (h : s.Canonical) : (s.commitDecoder n on).Canonical := by
  unfold State.commitDecoder
  split
  split
  · exact h
  · exact h.frame

theorem State.Canonical.writeFeaten {w : ℕ} (h : s.Canonical) : (s.writeFeaten w x).Canonical := by
  unfold State.writeFeaten
  split
  · exact h
  · exact h.frame

theorem State.Canonical.writeClock {part : ℕ} (h : s.Canonical) : (s.writeClock part n).Canonical := by
  unfold State.writeClock
  split
  · exact h
  · exact h.modPart.postOnce

theorem State.Canonical.writeMgmt (h : s.Canonical) : (s.writeMgmt reg x).Canonical := by
  unfold State.writeMgmt
  split
  · exact h.writeFeaten
  · exact h.modDie
  · exact h.modDie
  · exact h.modDie
  · exact h.modDie
  · exact h.modDie
  · exact h.writeThCtl
  · split
    · exact h
    · exact h.modThreshold
  · exact h.modDie
  · exact h.modCore
  · exact h.modCore
  · split
    · exact h
    · exact h.frame
  · exact h.writeClock
  · exact h.setDecoder
  · exact h.setDecoder
  · exact h.setDecoder
  · exact h.commitDecoder

theorem State.Canonical.execMgmtRegisterWrite {value : DWord} (h : s.Canonical) :
    EndsCanonical (Machine.execMgmtRegisterWrite reg value s) :=
  h.writeMgmt.happened

theorem State.Canonical.execRouteEntryWrite {index : ℕ} {value : BitVec 8} (h : s.Canonical) :
    EndsCanonical (Machine.execRouteEntryWrite index value s) := by
  unfold Machine.execRouteEntryWrite
  split
  · exact h.happened
  · exact h.frame.happened

theorem State.Canonical.noteBroken (h : s.Canonical) : s.noteBroken.Canonical :=
  h.foldl fun _ _ hs => show State.Canonical _ by
  split
  · exact hs
  · split
    · exact hs.modComm.postOnce
    · exact hs

theorem State.Canonical.execPortDown {port : ℕ} (h : s.Canonical) : EndsCanonical (Machine.execPortDown port s) := by
  unfold Machine.execPortDown
  split
  · exact h.happened
  · exact h.frame.noteBroken.happened

end Sys2Proof.Machine
end

section
/-! Every step keeps the byte memories in their form: the operations of Machine/Mov.lean. -/

namespace Sys2Proof.Machine

theorem State.Canonical.movpSetBody {a : BitVec 7} {v : Env} {s : State} (h : s.Canonical) : (Machine.movpSetBody a v s).Canonical :=
  h.modGroup

end Sys2Proof.Machine
end

section
/-! Every step keeps the byte memories in their form: the operations of Machine/Rng.lean. -/

namespace Sys2Proof.Machine

variable {v : Env} {s : State}

theorem State.Canonical.laneReg {put : Group → ℕ → Group} (h : s.Canonical) : (Machine.laneReg put v s).Canonical :=
  h.modGroup

theorem State.Canonical.drawBody {regs : DWord → List (ℕ × Word)} (h : s.Canonical) : (Machine.drawBody regs v s).Canonical :=
  h.laneBody

end Sys2Proof.Machine
end

section
/-! Every step keeps the byte memories in their form: the operations of Machine/Xl.lean. -/

namespace Sys2Proof.Machine

variable {d a : BitVec 7} {v : Env} {s : State} {p : BitVec 3}

theorem State.Canonical.permBody {b : BitVec 7} (h : s.Canonical) : (Machine.permBody d a b v s).Canonical := by
  unfold Machine.permBody
  extract_lets
  split
  · exact h.fretUp.modGroup
  · split
    · exact h.dataError
    · exact h.lane32

theorem State.Canonical.keepRunning {r : Option ℕ} (h : s.Canonical) : (s.keepRunning v r).Canonical :=
  h.modGroup

theorem State.Canonical.scanFaddBody (h : s.Canonical) : (Machine.scanFaddBody d a v s).Canonical := by
  unfold Machine.scanFaddBody
  extract_lets
  split
  · trivial
  · exact h.modTeam.keepRunning

theorem State.Canonical.rdcFaddBody (h : s.Canonical) : (Machine.rdcFaddBody d a v s).Canonical := by
  unfold Machine.rdcFaddBody
  extract_lets
  split
  · trivial
  · exact h.modTeam

theorem State.Canonical.rdcFminBody {op : FltOp} (h : s.Canonical) : (Machine.rdcFminBody op d a v s).Canonical := by
  unfold Machine.rdcFminBody
  extract_lets
  split
  · trivial
  · exact h.modTeam.modGroup

theorem State.Canonical.rdcMinBody {mn : Bool} {t : BitVec 2} (h : s.Canonical) : (Machine.rdcMinBody mn t d a v s).Canonical := by
  unfold Machine.rdcMinBody
  generalize t.toNat = k
  obtain _ | _ | k := k
  · exact h.lane32
  · exact h.lane32
  · exact h.rdcFminBody

theorem State.Canonical.rbalBody (h : s.Canonical) : (Machine.rbalBody d a p v s).Canonical := by
  unfold Machine.rbalBody
  extract_lets
  split
  · exact h.modGroup
  · exact h.modTeam.modGroup

theorem State.Canonical.cmpxBody (h : s.Canonical) : (Machine.cmpxBody d a p v s).Canonical :=
  h.modTeam.modGroup

theorem State.Canonical.execRdcAdd {c t : BitVec 1} (h : s.Canonical) : EndsCanonical (Machine.execRdcAdd c d a t s) := by
  unfold Machine.execRdcAdd
  split
  · exact h.perform fun _ _ hs => hs.lane32
  · exact h.perform fun _ _ hs => hs.rdcFaddBody

end Sys2Proof.Machine
end

section
/-! Every step keeps the byte memories in their form: the operations of Machine/Dispatch.lean. -/

namespace Sys2Proof.Machine

/-- Every word and every event keeps the form. -/
theorem State.Canonical.exec {i : Instr} {s : State} (h : s.Canonical) : EndsCanonical (Machine.exec i s) := by
  cases i with
  | powerGood => exact h.execPowerGood
  | featureCommit => exact h.execFeatureCommit
  | doorbellWrite => exact h.execDoorbellWrite
  | doorbellIgnoredClear => exact h.execDoorbellIgnoredClear
  | mboxQuote => exact h.execMboxQuote
  | mboxReadMr => exact h.execMboxReadMr
  | mboxExtendMr => exact h.execMboxExtendMr
  | mboxCreatePartition => exact h.execMboxCreatePartition
  | mboxDestroyPartition => exact h.execMboxDestroyPartition
  | mboxResetPartition => exact h.execMboxResetPartition
  | mboxBiasFlip => exact h.execMboxBiasFlip
  | mboxRaiseRollback => exact h.execMboxRaiseRollback
  | mboxReadEvent => exact h.execMboxReadEvent
  | mgmtRegisterWrite => exact h.execMgmtRegisterWrite
  | hostMemRead => exact h.execHostMemRead
  | hostMemWrite => exact h.execHostMemWrite
  | hostSnoop => exact h.execHostSnoop
  | pktLaunch => exact h.execPktLaunch
  | pktDependenceWait => exact h.execPktDependenceWait
  | dependenceWaitPoll => exact h.execDependenceWaitPoll
  | pktSetDeterminism => exact h.execPktSetDeterminism
  | pktSetNbv => exact h.execPktSetNbv
  | pktCommCreate => exact h.execPktCommCreate
  | pktCommRebuild => exact h.execPktCommRebuild
  | pktEnergyEstimate => exact h.execPktEnergyEstimate
  | pktSpillGrant => exact h.execPktSpillGrant
  | launchComplete => exact h.execLaunchComplete
  | clusterPlace => exact h.execClusterPlace
  | slotBind => exact h.execSlotBind
  | slotSave => exact h.execSlotSave
  | slotKill => exact h.execSlotKill
  | slotRelease => exact h.execSlotRelease
  | contextSaveWrite => exact h.execContextSaveWrite
  | preemptDrainTimeout => exact h.execPreemptDrainTimeout
  | groupSlotRelease => exact h.execGroupSlotRelease
  | tsync => exact h.execTsync
  | tsyncDone => exact h.execTsyncDone
  | pageCopy => exact h.execPageCopy
  | pageCopyDone => exact h.execPageCopyDone
  | biasFlip => exact h.execBiasFlip
  | biasFlipDone => exact h.execBiasFlipDone
  | hintPost => exact h.execHintPost
  | thresholdFire => exact h.execThresholdFire
  | routeEntryWrite => exact h.execRouteEntryWrite
  | clockStepTakeEffect => exact h.execClockStepTakeEffect
  | energyIntervalEnd => exact h.execEnergyIntervalEnd
  | watchdogExpire => exact h.execWatchdogExpire
  | partitionReset => exact h.execPartitionReset
  | portDown => exact h.execPortDown
  | fabricRequestIn => exact h.execFabricRequestIn
  | collProdWrite => exact h.execCollProdWrite
  | collAllReduce => exact h.execCollAllReduce
  | collReduce => exact h.execCollReduce
  | collBroadcast => exact h.execCollBroadcast
  | collNodeReceive => exact h.execCollNodeReceive
  | collComplete => exact h.execCollComplete
  | lineDataArrive => exact h.execLineDataArrive
  | laneStorePerform => exact h.execLaneStorePerform
  | homeRequest => exact h.execHomeRequest
  | homeApplyWrite => exact h.execHomeApplyWrite
  | writeAck => exact h.execWriteAck
  | applyInvalidation => exact h.execApplyInvalidation
  | sweepAnswer => exact h.execSweepAnswer
  | fenceScTicket => exact h.execFenceScTicket
  | patrolScrub => exact h.execPatrolScrub
  | engineCommandStart => exact h.execEngineCommandStart
  | engineCommandComplete => exact h.execEngineCommandComplete
  | copyTakeup => exact h.execCopyTakeup
  | stageDelivery => exact h.execStageDelivery
  | translationWalk => exact h.execTranslationWalk
  | operandLogReplay => exact h.execOperandLogReplay
  | rldFill => exact h.execRldFill
  | trapDeliver => exact h.execTrapDeliver
  | lateFault => exact h.execLateFault
  | queuePushArrive => exact h.execQueuePushArrive
  | queueRunVisible => exact h.execQueueRunVisible
  | stealTimeout => exact h.execStealTimeout
  | taskDelivery => exact h.execTaskDelivery
  | leaseGrant => exact h.execLeaseGrant
  | leaseExpire => exact h.execLeaseExpire
  | gangLatchClose => exact h.execGangLatchClose
  | matrixTakeup => exact h.execMatrixTakeup
  | matrixComplete => exact h.execMatrixComplete
  | accTakeup => exact h.execAccTakeup
  | accComplete => exact h.execAccComplete
  | chainStop => exact h.execChainStop
  | chainCopy => exact h.execChainCopy
  | chainGatherFill => exact h.execChainGatherFill
  | chainMulticast => exact h.execChainMulticast
  | chainMaskWalk => exact h.execChainMaskWalk
  | chainLoop => exact h.execChainLoop
  | chainConditional => exact h.execChainConditional
  | chainSignal => exact h.execChainSignal
  | chainDone => exact h.execChainDone
  | regroupComplete => exact h.execRegroupComplete
  | sleepExpire => exact h.execSleepExpire
  | hypRequestTakeup => exact h.execHypRequestTakeup
  | hypCommit => exact h.execHypCommit
  | hypResolutionComplete => exact h.execHypResolutionComplete
  | hypSliceWorkDone => exact h.execHypSliceWorkDone
  | rateWindowEnd => exact h.execRateWindowEnd
  | partitionResetComplete => exact h.execPartitionResetComplete
  | rootWriteBatchSend => exact h.execRootWriteBatchSend
  | hdr => exact h.execHdr
  | add | sub | mul | mulh | mulhu | min | max | minu | maxu | and | or | xor | andn | orn | shl | shr | sra | rotl | rotr | absd | addi
      | andi | ori | xori | shli | shri | srai | muli | clz | ctz | popc | brev | bext | bins | ilv2 | ilv3 | dlv3 | cpl | bsel | prmt
      | mov | sel | lid | gidx | bcast | movpGet | movi | movx | shfl | shflUp | shflDn | shflXor | scanAdd | scanAddx =>
    exact h.perform fun _ _ hs => hs.lane32
  | addc | subb => exact h.perform fun _ _ hs => hs.carryBody
  | addD | subD | mulD | mulhD | mulhuD | minD | maxD | minuD | maxuD | andD | orD | xorD | shlD | shrD | sraD =>
    exact h.perform fun _ _ hs => hs.lane64
  | fadd | fsub | fmul | fmin | fmax | fminm | fmaxm | fdiv | fma | fms | fnma | fnms | cvt | rcp | rsq | sqrt | exp2 | log2 | sinp
      | rint | cmpFeq | cmpFne | cmpFlt | cmpFle | cmpFgt | cmpFge | cmpFun | cmpFord =>
    exact h.perform fun _ _ hs => hs.laneBody
  | cmpEq | cmpNe | cmpLt | cmpLe | cmpGt | cmpGe | cmpLtu | cmpLeu | cmpGtu | cmpGeu => exact h.perform fun _ _ hs => hs.cmpIntBody
  | pand | por | pxor | pnot => exact h.perform fun _ _ hs => hs.lanePred
  | vote | smovv | sadd | ssub | smul | sand | sor | sxor | sshl | sshr | ssra | smin | smax | sminu | smaxu | smov | scmplt | scmpeq
      | smovi | smovx | zget =>
    exact h.perform fun _ _ hs => hs.uniform
  | movpSet => exact h.perform fun _ _ hs => hs.movpSetBody
  | jmp | bt | bf | bany | ball => exact h.perform fun _ _ hs => hs.branchBody
  | call => exact h.perform fun _ _ hs => hs.callBody
  | nop | yield => exact h.perform fun _ _ hs => hs
  | exit => exact h.perform fun _ _ hs => hs.exitBody
  | ret => exact h.perform fun _ _ hs => hs.retBody
  | brx => exact h.perform fun _ _ hs => hs.brxBody
  | trap | bkpt => exact h.perform fun _ _ hs => trivial
  | ient => exact h.perform fun _ _ hs => hs.ientBody
  | regroup => exact h.perform fun _ _ hs => hs.regroupBody
  | ldB | ldBs | ldH | ldHs | ldW | ldD | ldQ | sld | ldNc | stB | stH | stW | stD | stQ | sst =>
    exact h.perform fun _ _ hs => hs.memBody
  | ldl c => exact h.execLine (c := c)
  | stl c => exact h.execLine (c := c)
  | atomAdd | atomSub | atomAnd | atomOr | atomXor | atomMin | atomMax | atomUmin | atomUmax | atomXchg | atomCas | atomFadd | atomFmin
      | atomFmax | atomLd | atomSt | atomdAdd | atomdSub | atomdAnd | atomdOr | atomdXor | atomdMin | atomdMax | atomdUmin | atomdUmax
      | atomdXchg | atomdCas | atomdFadd | atomdFmin | atomdFmax | atomdLd | atomdSt =>
    exact h.execAtomic
  | perm => exact h.perform fun _ _ hs => hs.permBody
  | rdcAdd => exact h.execRdcAdd
  | rdcMin | rdcMax => exact h.perform fun _ _ hs => hs.rdcMinBody
  | rbal => exact h.perform fun _ _ hs => hs.rbalBody
  | cmpx => exact h.perform fun _ _ hs => hs.cmpxBody
  | scanFadd => exact h.perform fun _ _ hs => hs.scanFaddBody
  | fence => exact h.perform fun _ _ hs => hs.fenceBody
  | fenceSc => exact h.perform fun _ _ hs => hs.fenceScBody
  | barInit => exact h.perform fun _ _ hs => hs.barInitBody
  | barArrive | barDrop => exact h.perform fun _ _ hs => hs.arriveThen fun _ _ hs => hs
  | barWait => exact h.perform fun _ _ hs => hs.barWaitThen fun _ hs => hs
  | barSync => exact h.perform fun _ _ hs => hs.barSyncBody
  | msync => exact h.perform fun _ _ hs => hs.msyncBody
  | drain => exact h.perform fun _ _ hs => hs.drainBody
  | fwait => exact h.perform fun _ _ hs => hs.fwaitBody
  | sbarInit => exact h.perform fun _ _ hs => hs.sbarInitBody
  | sbarWait => exact h.perform fun _ _ hs => hs.sbarWaitBody
  | sbarArrive => exact h.perform fun _ _ hs => hs.sbarArriveBody
  | barTry => exact h.perform fun _ _ hs => hs.barTryBody
  | qput | qputTry => exact h.perform fun _ _ hs => hs.pushBody
  | qget => exact h.perform fun _ _ hs => hs.qgetBody
  | qgetTry => exact h.perform fun _ _ hs => hs.qgetTryBody
  | qlen => exact h.perform fun _ _ hs => hs.qlenBody
  | spawn | spawnTry => exact h.perform fun _ _ hs => hs.spawnBody
  | take => exact h.perform fun _ _ hs => hs.takeBody
  | steal => exact h.perform fun _ _ hs => hs.stealBody
  | kick => exact h.perform fun _ _ hs => hs.kickBody
  | copy | copyT | gfill | mcast => exact h.perform fun _ _ hs => hs.copyBody
  | rfence => exact h.perform fun _ _ hs => hs.rfenceBody
  | mres => exact h.perform fun _ _ hs => hs.mresBody
  | mrel => exact h.perform fun _ _ hs => hs.mrelBody
  | mmad | mmadSp => exact h.perform fun _ _ hs => hs.mmadBody
  | gang => exact h.perform fun _ _ hs => hs.gangBody
  | capoTake => exact h.perform fun _ _ hs => hs.capoTakeBody
  | capoPass => exact h.perform fun _ _ hs => hs.capoPassBody
  | mlease => exact h.perform fun _ _ hs => hs.mleaseBody
  | mfree => exact h.perform fun _ _ hs => hs.mfreeBody
  | bfstg | bfchn | bfstgT | bfwg => exact h.perform fun _ _ hs => hs.stageBody
  | zset => exact h.perform fun _ _ hs => hs.zsetBody
  | accclr | accld | epi | accst => exact h.perform fun _ _ hs => hs.accBody
  | accmv | accput => exact h.perform fun _ _ hs => hs.accRegBody
  | srt => exact h.perform fun _ _ hs => hs.srtBody
  | bvht => exact h.perform fun _ _ hs => hs.bvhtBody
  | bslv | bsadj => exact h.perform fun _ _ hs => hs.solveBody
  | rng | rngD | rngf => exact h.perform fun _ _ hs => hs.drawBody
  | eprst => exact h.perform fun _ _ hs => hs.eprstBody
  | skey | sctr => exact h.perform fun _ _ hs => hs.laneReg
  | hnew => exact h.perform fun _ _ hs => (hs.hypLanes fun _ _ hs => hs.hnewLane).res
  | henter => exact h.perform fun _ _ hs => (hs.hypLanes fun _ _ hs => hs.henterLane).res
  | hleave => exact h.perform fun _ _ hs => (hs.hypLanes fun _ _ hs => hs.hleaveLane).res
  | hcf | hrf => exact h.perform fun _ _ hs => hs.resolveBody
  | hqry => exact h.perform fun _ _ hs => hs.hqryBody
  | xacq => exact h.perform fun _ _ hs => hs.xacqBody
  | xrel => exact h.perform fun _ _ hs => hs.xrelBody
  | rld => exact h.perform fun _ _ hs => hs.rldBody
  | srd => exact h.perform fun _ _ hs => hs.srdBody
  | swr => exact h.perform fun _ _ hs => hs.swrBody
  | xtry => exact h.perform fun _ _ hs => hs.xtryBody
  | tret => exact h.perform fun _ _ hs => hs.tretBody
  | sleep => exact h.perform fun _ _ hs => hs.sleepBody
  | mcall => exact h.perform fun _ _ hs => hs.mcallBody

end Sys2Proof.Machine
end

section
/-! Every step keeps the byte memories in their form: the operations of Machine/Issue.lean. -/

namespace Sys2Proof.Machine

variable {s s0 : State} {die part pc n k : ℕ} {is : List Instr} {v : Env} {ws : List Word} {t : Trap} {g : GroupRef} {a : Agent}

theorem State.Canonical.fetchStop (h : s.Canonical) : OptFetchedCanonical (s.fetchStop die part pc) := by
  unfold State.fetchStop
  extract_lets
  split
  · exact h
  · split
    · exact h.startFlip
    · split
      · split
        · exact State.Canonical.ite h.frame.installEntries h.postOnce
        · exact h.frame
      · extract_lets
        split
        · exact h
        · split
          · exact h
          · split
            · trivial
            · exact h
            · exact h

theorem State.Canonical.fetchWords (h : s.Canonical) : (s.fetchWords die part n pc).Canonical := by
  induction n generalizing pc with
  | zero => trivial
  | succ n ih =>
    unfold State.fetchWords
    split
    · next e => exact h.fetchStop.of_eq e
    · exact h
    · split
      · trivial
      · split
        · trivial
        · exact ih

theorem State.Canonical.fetchChain (h : s.Canonical) : (s.fetchChain die part pc).Canonical :=
  h.fetchWords

/-- The state of a chain's end is canonical, and that of another end of its words. -/
def ChainEnd.Canonical (c : ChainEnd) : Prop := c.s.Canonical ∧ ∀ o, c.other = some o → EndsCanonical o

theorem State.Canonical.start (h : s.Canonical) : (ChainEnd.start s).Canonical := ⟨h, fun _ e => nomatch e⟩

theorem ChainEnd.Canonical.runWords {m : Lanes} {c : ChainEnd} (h : c.Canonical) : (Machine.runWords m is k c).Canonical := by
  induction is generalizing k c with
  | nil => exact h
  | cons i is ih =>
    have hx : EndsCanonical (Machine.exec i { c.s with ofs := k, note := .performed }) := h.1.frame.exec
    unfold Machine.runWords
    split
    · next s1 e =>
      have h1 : s1.Canonical := hx.of_eq e
      split
      · exact ih ⟨h1, h.2⟩
      · exact ih h
      · exact ih h
      · exact ih h
    · next o _ => exact ⟨h.1, fun o' e => by cases e; exact hx⟩

theorem State.Canonical.endChain (h : s.Canonical) : s.endChain.Canonical :=
  h.frame

theorem State.Canonical.stopWords (h : s0.Canonical) : (Machine.stopChain v ws is t s0).Canonical :=
  (State.Canonical.ite (h.frame.start.runWords).1 h).endChain.takeTrap.frame

theorem State.Canonical.partChain {left : Lanes} (h : s0.Canonical) : (Machine.partChain v is left s0).Canonical := by
  unfold Machine.partChain
  extract_lets
  split
  · exact h.endChain.frame
  · exact h.frame.start.runWords.1.endChain.modGroup.frame

theorem State.Canonical.passTo (h : s.Canonical) : (Machine.passTo v k s).Canonical :=
  h.endChain.modGroup.modCore.frame

theorem State.Canonical.waitChain {stop : Option Stop} (h : s0.Canonical) : EndsCanonical (Machine.waitChain v ws is k stop s0) := by
  have hx : EndsCanonical (Machine.exec (is.getD k .nop) { s0 with ofs := k, note := .performed }) := h.frame.exec
  unfold Machine.waitChain
  split
  · next s1 e =>
    have h1 : s1.Canonical := hx.of_eq e
    split
    · exact h1.endChain.frame
    · split
      · exact h.stopWords
      · exact h.start.runWords.1.passTo
  · exact hx

theorem State.Canonical.runChain (h : s0.Canonical) : EndsCanonical (Machine.runChain v ws is s0) := by
  unfold Machine.runChain
  extract_lets c
  have hc : c.Canonical := h.start.runWords
  split
  · next e => exact hc.2 _ e
  · split
    · exact h.partChain
    · exact h.stopWords
  · split
    · exact h.partChain
    · exact hc.1.endChain.dropTail
  · split
    · exact h.stopWords
    · exact h.waitChain
  · exact h.waitChain

theorem State.Canonical.refuseChain (h : s.Canonical) : (Machine.refuseChain v t n s).Canonical :=
  h.takeTrap.frame

theorem State.Canonical.issuing (h : s.Canonical) : (s.issuing g).Canonical :=
  h.frame

theorem State.Canonical.issueChain (h : s.Canonical) : EndsCanonical (Machine.issueChain g s) := by
  unfold Machine.issueChain
  extract_lets
  split
  · trivial
  · split
    · next s1 e1 =>
      have h1 : s1.Canonical := h.issuing.fetchChain.of_eq e1
      exact h1.frame
    · next _ _ _ s1 e1 =>
      have h1 : s1.Canonical := h.issuing.fetchChain.of_eq e1
      exact h1.refuseChain
    · extract_lets
      split
      · exact h.issuing.refuseChain
      · split
        · exact h.issuing.refuseChain
        · split
          · exact h.issuing.exec
          · exact h.issuing.frame.runChain

theorem State.Canonical.serve1 (h : s.Canonical) : (s.serve1 g).Canonical :=
  h.modCore.modGroup

theorem State.Canonical.moving (h : s.Canonical) : (s.moving a).Canonical := by
  unfold State.moving
  extract_lets
  split
  · exact h.frame.serve1
  · exact h.frame.frame
  · exact h.frame.frame

theorem State.Canonical.move (h : s.Canonical) : EndsCanonical (Machine.move a s) := by
  unfold Machine.move
  split
  · exact h.moving.issueChain
  · split
    · exact h.moving
    · exact h.moving.exec
  · exact h.moving.arrival

theorem EndsCanonical.tick {o : Host.Outcome State Fault Refusal} (h : EndsCanonical o) : EndsCanonical (Machine.tick o) := by
  cases o
  · exact State.Canonical.frame h
  · exact h
  · exact h

end Sys2Proof.Machine
end

section
/-! Every step keeps the byte memories in their form: the operations of Machine/Step.lean. -/

namespace Sys2Proof.Machine

theorem State.Canonical.step {s : State} (h : s.Canonical) : EndsCanonical (Machine.step s) := by
  unfold Machine.step
  split
  · exact h.frame
  · exact h.move.tick

end Sys2Proof.Machine
end

end

section
/-! The obligation. -/

open Sys2Proof Sys2Proof.Machine

/-- Settles O59: every word, event and input is made of operations that write a byte memory byte by byte, or not at all. -/
theorem canonicalMemory : Obligations.CanonicalMemory := fun _ _ h e => h.step.of_eq e
end

section
/-! # Memory words make their accesses or are logged (O29)

The effect of a memory word whose lanes reach (`Reaches.memBody`) is `performAccs` of the accesses that the statement names; in a window
it is done or, for an atomic, done in part, and else it is logged. The end of the word finds room because nothing that the effect does
changes the number of its group's entries (`SameRoom`). -/

namespace Sys2Proof.Machine

/-! ### The entries of a group stand -/

/-- The entries that stand in a group beside the entry e, those aside counted (07 R190). -/
def Group.standing (e : FEntry) (x : Group) : Nat := (dropEntry x.frontier e).length + x.aside.length

/-- The entries beside e of group r are as many as they were, and the lanes of its chain are not limited otherwise. -/
structure SameRoom (r : GroupRef) (e : FEntry) (s t : State) : Prop where
  limit : t.limit = s.limit
  standing : (t.group? r).map (Group.standing e) = (s.group? r).map (Group.standing e)

section
variable {r : GroupRef} {e : FEntry} {s t : State}

theorem Group.Keeps.standing {x y : Group} (h : x.Keeps y) : y.standing e = x.standing e := by
  unfold Group.standing
  rw [h.length, Group.aside_rest h.rest]

theorem SameRoom.refl : SameRoom r e s s := ⟨rfl, rfl⟩

theorem SameRoom.trans {u : State} (h : SameRoom r e s t) (k : SameRoom r e t u) : SameRoom r e s u :=
  ⟨k.limit.trans h.limit, k.standing.trans h.standing⟩

/-- Groups stand in cores. -/
theorem SameRoom.of_cores (hl : t.limit = s.limit) (hc : t.cores = s.cores) : SameRoom r e s t := by
  refine ⟨hl, ?_⟩
  unfold State.group? State.team? State.core
  rw [hc]

theorem SameRoom.ite {u : State} {p : Prop} [Decidable p] (h : SameRoom r e s t) (k : SameRoom r e s u) :
    SameRoom r e s (if p then t else u) := by
  split
  · exact h
  · exact k

theorem SameRoom.foldl {α : Type} {f : State → α → State} (l : List α) (h : SameRoom r e s t)
    (hf : ∀ u a, SameRoom r e u (f u a)) : SameRoom r e s (l.foldl f t) := by
  induction l generalizing t with
  | nil => exact h
  | cons a l ih => exact ih (h.trans (hf t a))

/-- A change of a core that leaves its teams. -/
theorem SameRoom.modCore {c : Nat} {f : Core → Core} (hf : ∀ k, (f k).teams = k.teams) : SameRoom r e s (s.modCore c f) := by
  refine ⟨rfl, ?_⟩
  unfold State.group? State.team? Core.team?
  by_cases hc : r.core = c
  · subst hc
    rw [State.core_modCore, hf]
  · rw [State.core_modCore_ne s c r.core f hc]

theorem SameRoom.modTeam {f : Team → Team} (hf : ∀ t : Team, t.Local r.grp (f t)) : SameRoom r e s (s.modTeam r f) := by
  refine ⟨rfl, ?_⟩
  rw [State.group?_modTeam]
  unfold State.group?
  cases ht : s.team? r with
  | none => rfl
  | some t =>
    obtain ⟨g, hg, hk⟩ := (hf t).group
    simp only [Option.bind_some, hg, Option.map_map]
    cases hx : t.group? r.grp with
    | none => rfl
    | some x => simp [(hk x hx).standing]

theorem SameRoom.modGroup {f : Group → Group} (hf : ∀ x, (f x).standing e = x.standing e) : SameRoom r e s (s.modGroup r f) := by
  refine ⟨rfl, ?_⟩
  rw [State.group?_modGroup, Option.map_map]
  congr 1
  exact funext hf

end

/-! ### What the steps of a memory word leave -/

section
variable {r : GroupRef} {e : FEntry} {s : State}

theorem SameRoom.countRef {part id : Nat} {up : Bool} : SameRoom r e s (s.countRef part id up) := by
  unfold State.countRef
  exact .ite .refl (.of_cores (State.modPart_limit ..) (State.modPart_cores ..))

theorem SameRoom.setHyp {part l id : Nat} : SameRoom r e s (s.setHyp r part l id) := by
  unfold State.setHyp
  split
  · exact .refl
  · exact (SameRoom.countRef.trans .countRef).trans (.modGroup fun _ => rfl)

theorem SameRoom.followLanes {part : Nat} {m : Lanes} : SameRoom r e s (s.followLanes r part m) := by
  refine .foldl _ .refl fun u l => ?_
  split
  · exact .ite .refl .setHyp
  · exact .refl

theorem putWords_local (g d n : Nat) (m : Lanes) (val : Nat) (t : Team) : t.Local g (putWords t g d n m val) := by
  unfold putWords
  generalize List.range n = ks
  induction ks generalizing t with
  | nil => exact .refl g t
  | cons k ks ih => exact (Team.vset_local t g _ m _).trans (ih _)

/-- An access writes registers of its own group. -/
theorem MemOp.put_local (op : MemOp) (a : Access) (m : Lanes) (val g : Nat) (t : Team) : t.Local g (op.put a m val g t) := by
  cases op with
  | load d w sg =>
    dsimp only [MemOp.put]
    split
    · exact Team.vset_local _ _ _ _ _
    · exact putWords_local _ _ _ _ _ _
  | lineLoad d n => exact Team.vset_local _ _ _ _ _
  | uniLoad d w => exact Team.modGroup_local _ _ _ fun x _ => x.sset_keeps _ _
  | store w => exact .refl g t
  | atomic fn dbl d sc ord =>
    cases d with
    | none => exact .refl g t
    | some d => exact putWords_local _ _ _ _ _ _
  | rld qd tensor loc num hit => exact .refl g t

theorem SameRoom.scratchWrite {c n at_ x : Nat} : SameRoom r e s (s.scratchWrite c n at_ x) := .modCore fun _ => rfl

theorem SameRoom.scratchAccess {c at_ : Nat} {op : MemOp} {a : Access} {m : Lanes} :
    SameRoom r e s (s.scratchAccess r c at_ op a m) := by
  cases op with
  | store w =>
    dsimp only [State.scratchAccess]
    exact .modCore fun _ => rfl
  | atomic fn dbl d sc ord =>
    unfold State.scratchAccess
    dsimp only
    split
    · exact .modTeam fun t => MemOp.put_local _ _ _ _ _ t
    · exact SameRoom.scratchWrite.trans (.modTeam fun t => MemOp.put_local _ _ _ _ _ t)
  | load d w sg => exact .modTeam fun t => MemOp.put_local _ _ _ _ _ t
  | lineLoad d n => exact .modTeam fun t => MemOp.put_local _ _ _ _ _ t
  | uniLoad d w => exact .modTeam fun t => MemOp.put_local _ _ _ _ _ t
  | rld qd tensor loc num hit => exact .modTeam fun t => MemOp.put_local _ _ _ _ _ t

theorem SameRoom.post {i : Instr} : SameRoom r e s (s.post i) := .of_cores rfl rfl

theorem SameRoom.postOnce {i : Instr} : SameRoom r e s (s.postOnce i) := .of_cores (s.postOnce_limit i) (s.postOnce_cores i)

theorem SameRoom.startSweep {load : Bool} : SameRoom r e s (s.startSweep r load) :=
  .foldl _ (.modGroup fun _ => rfl) fun _ _ => .post

theorem SameRoom.sendLine {op : MemOp} {seq vline : Nat} : SameRoom r e s (s.sendLine r op seq vline) := by
  unfold State.sendLine
  split <;> exact .postOnce

theorem Group.standing_fretUp (x : Group) (f : Option Nat) : (x.fretUp f).standing e = x.standing e := by
  cases f <;> rfl

end

section
variable {v : Env} {s : State} {m : MemWord} {b : Buf} {w : Win}

theorem SameRoom.followed (u : Use) : SameRoom v.r v.e s (followed u v s) := .ite .refl .followLanes

theorem SameRoom.acquireSweep {acquire : Bool} {sc : Nat} : SameRoom v.r v.e s (acquireSweep acquire sc v s) := .ite .startSweep .refl

theorem SameRoom.logWord {op : MemOp} {accs : List Access} {done : Lanes} {lowest acquire sweeps wide : Bool} {cls : FretClass} :
    SameRoom v.r v.e s (logWord v op accs done lowest acquire sweeps wide cls s) :=
  .foldl _ (.modGroup fun x => x.standing_fretUp _) fun _ _ => .sendLine

theorem SameRoom.zeroed {win : Option Win} : SameRoom v.r v.e s (m.zeroed v s b win) :=
  .ite .refl (.modTeam fun t => MemOp.put_local _ _ _ _ _ t)

theorem SameRoom.inWindow : SameRoom v.r v.e s (m.inWindow v s b w) :=
  SameRoom.trans (.foldl _ .zeroed fun _ _ => .scratchAccess) .acquireSweep

theorem SameRoom.inMemory : SameRoom v.r v.e s (m.inMemory v s b) := SameRoom.zeroed.trans .logWord

end

/-! ### The effect of a memory word -/

section
variable {m : MemWord} {v : Env} {s : State} {b : Buf}

/-- A lane is suppressed among the answers of the address unit if its own is. -/
theorem any_suppressed (ls : List Nat) (f : Nat → LaneAddr) (l : Nat) :
    ((ls.map fun k => (k, f k)).any fun lr => lr.1 = l && lr.2 = .suppressed) = (ls.contains l && decide (f l = .suppressed)) := by
  rw [List.any_map, Bool.eq_iff_iff]
  simp only [List.any_eq_true, Function.comp_apply, Bool.and_eq_true, decide_eq_true_eq, List.contains_iff_mem]
  constructor
  · rintro ⟨k, hk, rfl, hs⟩
    exact ⟨hk, hs⟩
  · rintro ⟨hl, hs⟩
    exact ⟨l, hl, rfl, hs⟩

/-- No lane's answer is a trap. -/
theorem Reaches.answer_ne_trap {win : Option Win} (h : Reaches m v s b win) {lr : Nat × LaneAddr} {t : Trap}
    (hl : lr ∈ (accessLanes v m.x).map fun l => (l, m.at_ v s b win l)) : lr.2 ≠ .trap t := by
  obtain ⟨l, hm, rfl⟩ := List.mem_map.1 hl
  exact h.good l hm t

/-- A memory word that may make its accesses makes them in its window or sends them to memory. -/
theorem Reaches.memBody {win : Option Win} (h : Reaches m v s b win)
    (hw : (if b.space = 0 then none else some (winOf v s b.space b.prow b.pcol)) = win.map .here) :
    memBody m v s = performAccs m.need (m.op (m.bytes b)) (m.accesses v s b win) (m.suppressed v s b win) (decide (96 ≤ m.x)) m.acquire
      m.wide m.sc m.cls win v s := by
  have hr : (m.release && !s.released v m.sc) = false := by
    cases hm : m.release
    · rfl
    · simp [h.release hm]
  unfold Machine.memBody
  simp only [h.buf, hw]
  cases win <;>
  · dsimp only [Option.map_none, Option.map_some]
    split
    · next t ts e =>
      obtain ⟨lr, hl, ht⟩ := List.mem_filterMap.1 (e ▸ List.mem_cons_self : t ∈ _)
      split at ht
      · next e => exact absurd e (h.answer_ne_trap hl)
      · cases ht
    · rw [if_neg (by rw [h.order]; decide), if_neg (by rw [hr]; decide)]
      congr 1
      · rw [List.filterMap_map]
        rfl
      · exact congrArg maskOf (funext (any_suppressed _ _))

end

/-! ### In a window -/

section
variable {m : MemWord} {v : Env} {s : State} {b : Buf} {w : Win}

/-- No lane reads poison. -/
theorem ReachesWindow.noPoison (h : ReachesWindow m v s b w) :
    poisonLane s w.core w.bind.spbase m.need (m.accesses v s b (some w)) = none := by
  unfold poisonLane
  split
  · rfl
  · next hn => simpa using h.clean hn

/-- No older `rld` has still to read what the word writes. -/
theorem ReachesWindow.notOver (h : ReachesWindow m v s b w) : (decide (m.need ≠ 0) &&
    (liveGroup v s).rldOver v.team.bind.spbase v.r.core w.core w.bind.spbase (m.accesses v s b (some w))) = false := by
  by_cases hn : m.need = 0
  · simp [hn]
  · simp [h.after hn]

theorem ReachesWindow.memBody_done (h : ReachesWindow m v s b w)
    (hs : m.need = 2 → s.atomicSplit (m.accesses v s b (some w)) = none) : memBody m v s = .done (m.inWindow v s b w) := by
  have hsplit : (if m.need = 2 then s.atomicSplit (m.accesses v s b (some w)) else none) = none := by
    split
    · next hn => exact hs hn
    · rfl
  rw [h.toReaches.memBody (by simp [h.space, h.win])]
  unfold performAccs
  simp only [h.noPoison, h.notOver, hsplit, Bool.false_eq_true, if_false, decide_eq_true_eq]
  rfl

theorem ReachesWindow.memBody_part (h : ReachesWindow m v s b w) {now later : List Access} (hn : m.need = 2)
    (hs : s.atomicSplit (m.accesses v s b (some w)) = some (now, later)) :
    memBody m v s = .part { m.made v s b w now with choices := s.choices + 1 } (maskOf fun l => later.any fun a => a.lane = l) := by
  have hsplit : (if m.need = 2 then s.atomicSplit (m.accesses v s b (some w)) else none) = some (now, later) := by rw [if_pos hn, hs]
  rw [h.toReaches.memBody (by simp [h.space, h.win])]
  unfold performAccs
  simp only [h.noPoison, h.notOver, hsplit, Bool.false_eq_true, if_false, decide_eq_true_eq]
  rfl

end

/-! ### In the operand log -/

theorem ReachesMemory.memBody {m : MemWord} {v : Env} {s : State} {b : Buf} (h : ReachesMemory m v s b) :
    memBody m v s = .done (m.inMemory v s b) := by
  rw [h.toReaches.memBody (by simp [h.space])]
  have hl : (decide (4 ≤ (liveGroup v s).log.length) || (liveGroup v s).lineBusy (m.accesses v s b none)) = false := by
    simp [h.free, h.room]
  unfold performAccs
  simp only [List.isEmpty_iff, h.some_, if_false, hl, h.near, Bool.false_eq_true, decide_eq_true_eq]
  rfl

/-! ### The end of a memory word -/

section
variable {u : Use} {s : State} {v : Env} {body : Env → State → Res}

/-- A word that issues with room is over once its effect is done, if the effect leaves the entries of its group. -/
theorem ended_of_done {s1 : State} (h : Issues u s v) (room : Room s v) (hb : body v (followed u v s) = .done s1)
    (k : SameRoom v.r v.e (followed u v s) s1) : ∃ t, perform u body s = .next t ∧ Ended v.r s1 t := by
  have hf : SameRoom v.r v.e s (followed u v s) := .followed u
  obtain ⟨y, hy, hroom⟩ := room.group
  have hst : (s1.group? v.r).map (Group.standing v.e) = some (y.standing v.e) := by
    rw [(hf.trans k).standing, hy]
    rfl
  obtain ⟨z, hz, hzy⟩ := Option.map_eq_some_iff.1 hst
  have hzroom : (dropEntry z.frontier v.e).length + z.aside.length < 8 := by
    change z.standing v.e < 8
    rw [hzy]
    exact hroom
  obtain ⟨o, f, hs, he⟩ := finish_next (u := u) (s := s1) (hf.limit.trans room.limit) hz (exec_mask h.env h.active) hzroom
  rw [perform_issues body h, hb]
  exact ⟨_, rfl, o, f, hs, he⟩

/-- A word of which lanes are left, in no chain, waits with those. -/
theorem perform_part {s1 : State} {left : Lanes} (h : Issues u s v) (hs : (followed u v s).snap = none)
    (hb : body v (followed u v s) = .part s1 left) : perform u body s = .next
      (let f := fun e : FEntry => if e.pc = v.e.pc then { e with redo := some left } else e
      { s1.modGroup v.r fun x =>
          { x with frontier := x.frontier.map f, handler := x.handler.map fun h => { h with entry := f h.entry } } with note := .waits }) := by
  rw [perform_issues body h, hb]
  simp only [settle, partly, hs, Option.isSome_none, Bool.false_eq_true, if_false]

/-- An atomic is split in no chain. -/
theorem snap_of_atomicSplit {accs : List Access} {p : List Access × List Access} (h : s.atomicSplit accs = some p) : s.snap = none := by
  unfold State.atomicSplit at h
  cases hs : s.snap with
  | none => rfl
  | some _ => simp [hs] at h

/-- A word that is performed as a memory word makes its accesses or is logged. -/
theorem accesses_of_perform {i : Instr} {m : MemWord} (he : Issues u s v → exec i s = perform u (memBody m) s) : Accesses i u m s v := by
  intro h room
  rw [he h]
  refine ⟨fun b w hw hs => ?_, fun b w now later hw hn hs => ?_, fun b hm => ?_⟩
  · exact ended_of_done h room (hw.memBody_done hs) .inWindow
  · exact perform_part h (snap_of_atomicSplit hs) (hw.memBody_part hn hs)
  · exact ended_of_done h room hm.memBody .inMemory

/-- An atomic returns its value or not as its environment says. -/
theorem execAtomic_of_env {dbl : Bool} {fn : BitVec 4} {c : BitVec 1} {sc : BitVec 3} {o : BitVec 2} {d : BitVec 7} {q : BitVec 3}
    {x : BitVec 7} (h : s.env = some v) : execAtomic dbl fn c sc o d q x s =
      perform (useAtom dbl (returning v s fn.toNat) fn.toNat c o d q x) (memBody (atomWord dbl (returning v s fn.toNat) fn sc o d q x)) s := by
  unfold execAtomic
  rw [h]

end

/-! ### The memory words are performed as such -/

section
variable {c : BitVec 1} {sc : BitVec 3} {o : BitVec 1} {d : BitVec 7} {q : BitVec 4} {x : BitVec 7} {s : State}

theorem exec_loadWords : ∀ p ∈ loadWords c sc o d q x,
    exec p.1 s = perform p.2.1 (memBody (ldWord p.2.2.1 p.2.2.2 sc o d q x)) s := by
  simp only [loadWords, List.forall_mem_cons, List.not_mem_nil, IsEmpty.forall_iff, implies_true, and_true]
  and_intros <;> rfl

theorem exec_storeWords : ∀ p ∈ storeWords c sc o d q x,
    exec p.1 s = perform p.2.1 (memBody (stWord p.2.2.1 sc o q x p.2.2.2)) s := by
  simp only [storeWords, List.forall_mem_cons, List.not_mem_nil, IsEmpty.forall_iff, implies_true, and_true]
  and_intros <;> rfl

theorem exec_atomWords {o : BitVec 2} {q : BitVec 3} : ∀ p ∈ atomWords c sc o d q x,
    exec p.1 s = execAtomic p.2.1 p.2.2 c sc o d q x s := by
  simp only [atomWords, List.forall_mem_cons, List.not_mem_nil, IsEmpty.forall_iff, implies_true, and_true]
  and_intros <;> rfl

end

end Sys2Proof.Machine
end

section
/-! The obligation. -/

open Sys2Proof Sys2Proof.Machine

/-- Settles O29: every memory word is performed as `memBody`, which makes its accesses, makes those of its lower lanes, or logs them, and the
end of a word moves the entries only. -/
theorem memoryWords : Obligations.MemoryWords :=
  ⟨fun _ _ _ _ _ _ p hp _ _ => accesses_of_perform fun _ => exec_loadWords p hp,
    fun _ _ _ _ _ _ p hp _ _ => accesses_of_perform fun _ => exec_storeWords p hp,
    fun _ _ _ _ _ _ _ _ => accesses_of_perform fun _ => rfl,
    fun _ _ _ _ _ _ _ _ => accesses_of_perform fun _ => rfl,
    fun _ _ _ _ _ _ p hp _ _ => accesses_of_perform fun h => (exec_atomWords p hp).trans (execAtomic_of_env h.env)⟩
end

section
/-! # Words that are over or wait by their effect alone (O21, O23, O38)

Where its condition holds, the effect of a word is `.done` or `.busy` of the state that the statement names. `does_of_perform` and
`holds_of_perform` carry this through the issue and the end of the word; the effect of a word leaves the entries of its group
(`SameRoom`), so that the word that follows has room. -/

namespace Sys2Proof

/-- A table whose values are all changed. -/
theorem Tbl.get_map_value {α : Type} (f : α → α) (d : α) (t : Tbl α) (n : Nat) (hd : f d = d) :
    Tbl.get d (t.map fun kx => (kx.1, f kx.2)) n = f (t.get d n) := by
  induction t with
  | nil => exact hd.symm
  | cons a t ih =>
    simp only [List.map_cons, Tbl.get]
    split
    · rfl
    · exact ih

namespace Machine

/-! ### From the effect of a word to the word -/

section
variable {i : Instr} {u : Use} {body : Env → State → Res} {ok : Env → State → Prop} {eff : Env → State → State}

/-- A word that is over with an effect that leaves the entries of its group. -/
theorem does_of_perform (he : ∀ s, exec i s = perform u body s) (hb : ∀ v s, ok v s → body v s = .done (eff v s))
    (k : ∀ v s, SameRoom v.r v.e s (eff v s)) : Does i u ok eff := by
  intro s v h room hok
  rw [he]
  exact ended_of_done h room (hb v _ hok) (k v _)

/-- A word that waits with a record of what it waits for. -/
theorem holds_of_perform (he : ∀ s, exec i s = perform u body s) (hb : ∀ v s, ok v s → body v s = .busy (eff v s)) :
    Holds i u ok eff := by
  intro s v h hok
  rw [he, perform_issues body h, hb v _ hok]
  rfl

end

/-! ### The release and acquire halves (04 R121) -/

section
variable {v : Env} {s : State} {sc : Nat}

theorem releaseThen_of_released {k : State → Res} (h : s.released v sc = true) : releaseThen sc v s k = k s := if_pos h

/-- With its sweep answered, where it needs one, the acquire half ends. -/
theorem acquireThen_of_acquired {k : State → Res} (h : acquired v s sc) : acquireThen sc v s k = k (sweepDone v s sc) := by
  obtain ⟨⟨hlog, hload, hfences⟩, hsweep⟩ := h
  unfold acquireThen sweepDone
  simp only [hlog, hload, hfences, List.isEmpty_nil, Bool.not_true, Bool.or_self, Bool.false_eq_true, if_false]
  by_cases hsc : sc < 5
  · simp only [hsc, if_true]
  · simp only [hsc, if_false, hsweep (by omega), if_true]

end

/-! ### Changes that leave the entries of a group -/

section
variable {r : GroupRef} {e : FEntry} {s : State}

theorem SameRoom.modDie {d : Nat} {f : Die → Die} : SameRoom r e s (s.modDie d f) := .of_cores rfl rfl

theorem SameRoom.closeBatch {d : Nat} : SameRoom r e s (s.closeBatch d) := .modDie

theorem SameRoom.sweepDone {v : Env} {sc : Nat} : SameRoom v.r v.e s (sweepDone v s sc) := by
  refine SameRoom.trans ?_ .closeBatch
  exact .ite .refl (.modGroup fun _ => rfl)

theorem SameRoom.setBarrier {v : Env} {b : Barrier} : SameRoom r e s (s.setBarrier v b) := .modCore fun _ => rfl

theorem SameRoom.pset {n : Nat} {m y : Lanes} : SameRoom r e s (s.modGroup r fun x => x.pset n m y) :=
  .modGroup fun x => (x.pset_keeps n m y).standing

/-- A change of some team that leaves the entries of its groups. -/
theorem SameRoom.modTeam_any {q : GroupRef} {f : Team → Team}
    (hf : ∀ (t : Team) g, ((f t).group? g).map (Group.standing e) = (t.group? g).map (Group.standing e)) :
    SameRoom r e s (s.modTeam q f) := by
  refine ⟨rfl, ?_⟩
  unfold State.group? State.team? State.modTeam
  by_cases hc : r.core = q.core
  · rw [hc, State.core_modCore]
    by_cases hs : r.slot = q.slot
    · rw [hs, Core.team?_modTeam]
      cases (s.core q.core).team? q.slot with
      | none => rfl
      | some t => exact hf t r.grp
    · rw [Core.team?_modTeam_ne _ _ _ _ hs]
  · rw [State.core_modCore_ne _ _ _ _ hc]

/-- Groups that wake at a stage object keep their entries. -/
theorem Team.standing_wakeStage (t : Team) (off st g : Nat) :
    ((t.wakeStage off st).group? g).map (Group.standing e) = (t.group? g).map (Group.standing e) := by
  unfold Team.wakeStage Team.group?
  rw [Tbl.get_map_value (Option.map _) none t.groups g rfl, Option.map_map]
  congr 1
  funext x
  dsimp only [Function.comp]
  split <;> rfl

theorem SameRoom.endStage {c slot off st : Nat} : SameRoom r e s (s.endStage c slot off st) :=
  (SameRoom.scratchWrite.trans (.modTeam_any fun t g => t.standing_wakeStage off st g)).trans (.modCore fun _ => rfl)

theorem SameRoom.testStage {c slot off : Nat} : SameRoom r e s (s.testStage c slot off) :=
  .ite (SameRoom.scratchWrite.trans .endStage) .refl

theorem SameRoom.armStage {g p : GroupRef} {off due : Nat} : SameRoom r e s (s.armStage g p off due) := by
  unfold State.armStage
  dsimp only
  exact ((((SameRoom.scratchWrite.trans .scratchWrite).trans .scratchWrite).trans .scratchWrite).trans .scratchWrite).trans
    (.modCore fun _ => rfl)

theorem SameRoom.askGrant {c : Nat} : SameRoom r e s (s.askGrant c) := .ite .postOnce .refl

end

end Machine

end Sys2Proof
end

section
/-! # The barrier words (O21)

`Barrier.arrive` is the arrival of the statement where the group may arrive; a word passes the parity check of its entry, then its
half that orders memory, then its effect. -/

namespace Sys2Proof.Machine

section
variable {v : Env} {s : State} {bid : BitVec 8} {sc : BitVec 3}

/-- A group that has neither arrived nor dropped arrives (02 R67). -/
theorem Barrier.arrive_eq {b : Barrier} {g : Nat} {drop : Bool} (ha : b.arrMask.getLsbD g = false) (hd : b.dropMask.getLsbD g = false) :
    b.arrive g drop = some (b.afterArrival g drop) := by
  unfold Barrier.arrive Barrier.afterArrival
  cases drop <;> simp [ha, hd]

theorem goodBarrier_of_sound {k : Barrier → Res} (h : soundBarrier v s bid) : goodBarrier bid v s k = k (s.barrierOf v bid) := by
  unfold goodBarrier
  rw [h]
  rfl

/-- A group that may arrive, its release half over, writes its arrival. -/
theorem arriveThen_of_mayArrive {drop : Bool} {k : Barrier → State → Res} (hb : soundBarrier v s bid)
    (hr : s.released v (max sc.toNat 2) = true) (hm : mayArrive v s bid) :
    arriveThen sc bid drop v s k =
      k ((s.barrierOf v bid).afterArrival v.r.grp drop) (s.setBarrier v ((s.barrierOf v bid).afterArrival v.r.grp drop)) := by
  unfold arriveThen barScope
  rw [goodBarrier_of_sound hb]
  refine (releaseThen_of_released hr).trans ?_
  rw [Barrier.arrive_eq hm.1 hm.2]

/-- A group that need not wait passes once its acquire half is over. -/
theorem barWaitThen_of_passes {k : State → Res} (hb : soundBarrier v s bid) (hw : ¬mustWait v s bid)
    (ha : acquired v (s.setBarrier v (s.barrierOf v bid)) (max sc.toNat 2)) :
    barWaitThen sc bid v s k = k (sweepDone v (s.setBarrier v (s.barrierOf v bid)) (max sc.toNat 2)) := by
  unfold barWaitThen
  rw [goodBarrier_of_sound hb, if_neg (by simpa [Barrier.arrived] using hw)]
  exact acquireThen_of_acquired ha

/-- A group that must wait and is not listed yet is listed as waiting. -/
theorem barWaitThen_of_mustWait {k : State → Res} (hb : soundBarrier v s bid) (hw : mustWait v s bid)
    (hn : (s.barrierOf v bid).waiters.getLsbD v.r.grp = false) :
    barWaitThen sc bid v s k =
      .busy (s.setBarrier v { s.barrierOf v bid with waiters := (s.barrierOf v bid).waiters ||| oneLane v.r.grp }) := by
  unfold barWaitThen
  rw [goodBarrier_of_sound hb]
  simp [Barrier.arrived, hw.1, hw.2, hn]

theorem barInitBody_eq {a : BitVec 7} (h1 : 1 ≤ (v.usrc a).toNat) (h2 : (v.usrc a).toNat ≤ 32)
    (h3 : (v.usrc a).toNat ≤ v.team.bind.ngm1 + 1)
    (hb : ∀ b, (s.core v.r.core).barrier? v.team.bind bid = some b → b.arrMask = 0 ∧ b.waiters = 0) :
    barInitBody bid a v s = .done (s.setBarrier v (Barrier.fresh v.team.bind bid (v.usrc a).toNat)) := by
  unfold barInitBody
  rw [if_neg (by omega)]
  split
  · rfl
  · next b e =>
    obtain ⟨harr, hwait⟩ := hb b e
    rw [if_neg (by simp [harr, hwait])]

theorem barTryBody_of_phaseOpen {p : BitVec 3} (hb : soundBarrier v s bid) (h : phaseOpen v s bid) :
    barTryBody sc bid p v s = .done (s.modGroup v.r fun x => x.pset p.toNat v.em 0) := by
  unfold barTryBody
  rw [goodBarrier_of_sound hb]
  exact if_pos h

theorem barTryBody_of_phaseOver {p : BitVec 3} (hb : soundBarrier v s bid) (h : ¬phaseOpen v s bid)
    (ha : acquired v (s.setBarrier v (s.barrierOf v bid)) (max sc.toNat 2)) :
    barTryBody sc bid p v s = .done ((sweepDone v (s.setBarrier v (s.barrierOf v bid)) (max sc.toNat 2)).modGroup v.r fun x =>
      x.pset p.toNat v.em (BitVec.allOnes 32)) := by
  unfold barTryBody
  rw [goodBarrier_of_sound hb]
  exact (if_neg h).trans (acquireThen_of_acquired ha)

end

end Sys2Proof.Machine
end

section
/-! The obligation. -/

open Sys2Proof Sys2Proof.Machine

/-- Settles O21: where a word's condition holds its body is over, or waits, with the state that the statement names. -/
theorem barrierWords : Obligations.BarrierWords := by
  refine ⟨fun c sc bid a => ?_, fun c sc bid => ?_, fun c sc bid => ?_, fun c sc bid => ?_, fun c sc bid => ?_, fun c sc bid => ?_,
    fun c sc bid => ?_, fun c sc bid p => ?_, fun c sc bid p => ?_⟩
  · refine does_of_perform (fun _ => rfl) (fun v s ⟨h1, h2, h3, hb⟩ => ?_) fun v s => .setBarrier
    rw [barInitBody_eq h1 h2 h3 hb, Barrier.fresh, BitVec.ofNat_toNat]
  · exact does_of_perform (fun _ => rfl) (fun v s ⟨hb, hr, hm⟩ => arriveThen_of_mayArrive hb hr hm) fun v s => .setBarrier
  · exact does_of_perform (fun _ => rfl) (fun v s ⟨hb, hr, hm⟩ => arriveThen_of_mayArrive hb hr hm) fun v s => .setBarrier
  · exact does_of_perform (fun _ => rfl) (fun v s ⟨hb, hw, ha⟩ => barWaitThen_of_passes hb hw ha) fun v s =>
      SameRoom.setBarrier.trans .sweepDone
  · exact holds_of_perform (fun _ => rfl) fun v s ⟨hb, hw, hn⟩ => barWaitThen_of_mustWait hb hw hn
  · refine holds_of_perform (fun _ => rfl) fun v s ⟨hi, hb, hr, hm⟩ => ?_
    rw [barSyncBody, if_neg (by rw [hi]; nofun), arriveThen_of_mayArrive hb hr hm]
  · refine does_of_perform (fun _ => rfl) (fun v s ⟨hi, hb, hw, ha⟩ => ?_) fun v s =>
      (SameRoom.setBarrier.trans .sweepDone).trans (.modGroup fun _ => rfl)
    rw [barSyncBody, if_pos hi, barWaitThen_of_passes hb hw ha]
  · exact does_of_perform (fun _ => rfl) (fun v s ⟨hb, h⟩ => barTryBody_of_phaseOpen hb h) fun v s => .pset
  · exact does_of_perform (fun _ => rfl) (fun v s ⟨hb, h, ha⟩ => barTryBody_of_phaseOver hb h ha) fun v s =>
      (SameRoom.setBarrier.trans .sweepDone).trans .pset
end

section
/-! # The stage barrier words (O23)

An object that lies in its window passes the checks of its place (`stageTrap_of_stageIn`); what the words do then goes by its state,
for `sbar.wait` by the state that `stageReached` names. -/

namespace Sys2Proof.Machine

section
variable {v : Env} {s : State} {a : BitVec 7}

theorem stageTrap_of_stageIn {w : Win} {u : DWord} (h : stageIn s w u) : s.stageTrap w (stageOff u) = none := by
  obtain ⟨halign, hin, hclear⟩ := h
  unfold State.stageTrap stagePlace
  rw [if_neg (by omega), if_neg (by omega), hclear]
  rfl

/-- `sbar.init` of a sound operand arms the object (11 R301). -/
theorem sbarInitBody_arms (hin : stageIn s v.ownWin (v.usrc a)) (hrow : stageRow (v.usrc a) < v.team.shapeR)
    (hcol : stageCol (v.usrc a) < v.team.shapeC)
    (hmember : (s.memberState v.team v.r.slot (stageRow (v.usrc a)) (stageCol (v.usrc a))).1 = 1)
    (hgrp : stageGrp (v.usrc a) ≤ v.team.bind.ngm1)
    (hfree : s.stageState v.r.core (v.team.bind.spbase + stageOff (v.usrc a)) ≠ 1) (hdue : stageDue (v.usrc a) ≠ 0)
    (hzero : (v.usrc a).extractLsb' 48 16 = 0) :
    sbarInitBody a v s = .done (s.armStage v.r ⟨s.memberCore v.team (stageRow (v.usrc a)) (stageCol (v.usrc a)),
      (s.memberState v.team v.r.slot (stageRow (v.usrc a)) (stageCol (v.usrc a))).2, stageGrp (v.usrc a)⟩
      (stageOff (v.usrc a)) (stageDue (v.usrc a))) := by
  unfold sbarInitBody
  simp only [stageTrap_of_stageIn hin, hmember, hfree, hdue, hzero, Nat.not_le.2 hrow, Nat.not_le.2 hcol, Nat.not_lt.2 hgrp, ne_eq,
    not_true_eq_false, or_self, if_false, OfNat.one_ne_ofNat, one_ne_zero]

/-- An arrival of the producer at an armed object, its release half over (11 R302). -/
theorem stageArrive_of_armed {w : Win} {off : Nat} (hstate : s.stageState w.core (w.bind.spbase + off) = 1)
    (hproducer : s.stageProducer w.core (w.bind.spbase + off) = v.r) (hfirst : s.stageArrived w.core (w.bind.spbase + off) = false)
    (hreleased : s.released v 3 = true) :
    stageArrive w off v s = .done ((s.scratchWrite w.core 1 (w.bind.spbase + off + 16)
      (s.scratchRead w.core 1 (w.bind.spbase + off + 16) + 4)).testStage w.core w.slot off) := by
  unfold stageArrive
  simp only [hstate, hproducer, hfirst, ne_eq, not_true_eq_false, Bool.false_eq_true, if_false, releaseThen_of_released hreleased]

/-- `sbar.arrive` reaches the object in the window of a member that stands. -/
theorem sbarArriveBody_here {w : Win} (hin : stageIn s w (v.usrc a)) (hrow : stageRow (v.usrc a) < v.team.shapeR)
    (hcol : stageCol (v.usrc a) < v.team.shapeC)
    (hwin : s.memberWin v.team v.r.slot (stageRow (v.usrc a)) (stageCol (v.usrc a)) = .here w) :
    sbarArriveBody a v s = stageArrive w (stageOff (v.usrc a)) v s := by
  unfold sbarArriveBody
  simp only [hin.1, Nat.not_le.2 hrow, Nat.not_le.2 hcol, hwin, stageTrap_of_stageIn hin, ne_eq, not_true_eq_false, or_self, if_false]

/-- What `sbar.wait` does at an object in state n, at offset `off` of its window (11 R303). -/
def stageAnswer (off : Nat) (p : BitVec 3) (v : Env) (s : State) (n : Nat) : Res :=
  if n = 0 then .trap (.atIssue 4 14)
  else if n = 1 then
    if (liveGroup v s).stageWait = some (off, 0) then .wait else .busy (s.modGroup v.r fun x => { x with stageWait := some (off, 0) })
  else if n = 2 then
    acquireThen 3 v s fun s => .done ((s.stageWaited v).modGroup v.r fun x => x.pset p.toNat v.em (BitVec.allOnes 32))
  else if p = 0 then .trap (.atIssue 13 0)
  else .done ((s.stageWaited v).modGroup v.r fun x => x.pset p.toNat v.em 0)

/-- `sbar.wait` acts on the state that its object has reached. -/
theorem sbarWaitBody_eq {p : BitVec 3} (hin : stageIn s v.ownWin (v.usrc a)) :
    sbarWaitBody a p v s = stageAnswer (stageOff (v.usrc a)) p v s (stageReached v s (v.usrc a)) := by
  have hstate : ∀ n : Nat, (match n with
      | 0 => Res.trap (.atIssue 4 14)
      | 1 => if (liveGroup v s).stageWait = some (stageOff (v.usrc a), 0) then .wait
        else .busy (s.modGroup v.r fun x => { x with stageWait := some (stageOff (v.usrc a), 0) })
      | 2 => acquireThen 3 v s fun s => .done ((s.stageWaited v).modGroup v.r fun x => x.pset p.toNat v.em (BitVec.allOnes 32))
      | _ => if p = 0 then .trap (.atIssue 13 0) else .done ((s.stageWaited v).modGroup v.r fun x => x.pset p.toNat v.em 0)) =
      stageAnswer (stageOff (v.usrc a)) p v s n
    | 0 | 1 | 2 | _ + 3 => rfl
  unfold sbarWaitBody
  simp only [stageTrap_of_stageIn hin]
  refine (hstate _).trans (congrArg _ ?_)
  unfold stageReached
  cases (liveGroup v s).stageWait with
  | none => rfl
  | some w =>
    obtain ⟨o, st⟩ := w
    exact apply_ite (fun x : Option Nat => x.getD _) _ _ _

/-- The wait for a complete object ends with the acquire half. -/
theorem stageAnswer_complete {off : Nat} {p : BitVec 3} (ha : acquired v s 3) : stageAnswer off p v s 2 =
    .done (((sweepDone v s 3).stageWaited v).modGroup v.r fun x => x.pset p.toNat v.em (BitVec.allOnes 32)) := by
  rw [← acquireThen_of_acquired (k := fun s => .done ((s.stageWaited v).modGroup v.r fun x => x.pset p.toNat v.em (BitVec.allOnes 32))) ha]
  rfl

theorem SameRoom.stageWaited : SameRoom v.r v.e s (s.stageWaited v) := .modGroup fun _ => rfl

end

end Sys2Proof.Machine
end

section
/-! The obligation. -/

open Sys2Proof Sys2Proof.Machine

/-- Settles O23: the words pass the checks of their object's place and then go by its state. -/
theorem stageBarrierWords : Obligations.StageBarrierWords := by
  refine ⟨fun c sc a => ?_, fun c sc a w => ?_, fun c sc a p => ?_, fun c sc a p hp => ?_, fun c sc a p => ?_⟩
  · exact does_of_perform (fun _ => rfl) (fun v s ⟨hin, hrow, hcol, hm, hg, hs, hd, hz⟩ => sbarInitBody_arms hin hrow hcol hm hg hs hd hz)
      fun v s => .armStage
  · refine does_of_perform (fun _ => rfl) (fun v s ⟨hin, hrow, hcol, hw, hs, hp, hf, hr⟩ => ?_) fun v s =>
      SameRoom.scratchWrite.trans .testStage
    rw [sbarArriveBody_here hin hrow hcol hw, stageArrive_of_armed hs hp hf hr]
  · refine does_of_perform (fun _ => rfl) (fun v s ⟨hin, hst, ha⟩ => ?_) fun v s =>
      (SameRoom.sweepDone.trans .stageWaited).trans .pset
    rw [sbarWaitBody_eq hin, hst]
    exact stageAnswer_complete ha
  · refine does_of_perform (fun _ => rfl) (fun v s ⟨hin, hst⟩ => ?_) fun v s =>
      SameRoom.stageWaited.trans .pset
    rw [sbarWaitBody_eq hin, hst]
    exact if_neg hp
  · refine holds_of_perform (fun _ => rfl) fun v s ⟨hin, hst, hn⟩ => ?_
    rw [sbarWaitBody_eq hin, hst]
    exact if_neg hn
end

section
/-! # Reservations, gangs, leases, the capo and the stride registers (O38)

One lemma per word says what its body answers where its operands pass the word's checks; `zget` alone writes a register, in a state in
which its lanes have first followed a confirmed hypothesis (`wrote_of_followed`). -/

namespace Sys2Proof.Machine

section
variable {v : Env} {s : State}

/-! ### Reservations and gangs (12 R319, R327) -/

theorem mresBody_fills {h : BitVec 4} {sc : BitVec 6} (hr : resvTrap ⟨v.s6 sc, v.grp.sget (sc.toNat + 1)⟩ v.team.bind = none) :
    mresBody h sc v s = .done (s.modGroup v.r fun x => { x with
      res := x.res.set none h.toNat (some ⟨v.s6 sc, v.grp.sget (sc.toNat + 1)⟩)
      resBad := x.resBad.filter (· ≠ h.toNat) }) := by
  unfold Env.s6 at *
  unfold mresBody
  simp only [hr]

/-- A gang of zero, or of two to six groups of the team with the issuing one among them, is written (12 R327). -/
theorem gangBody_writes {sc : BitVec 6} {m : Word} (hm : (v.grp.sget sc.toNat).setWidth 32 = m)
    (hok : m = 0 ∨ (2 ≤ popcount m ∧ popcount m ≤ 6 ∧ m.getLsbD v.r.grp = true ∧ ∀ g, m.getLsbD g = true → g ≤ v.team.bind.ngm1)) :
    gangBody sc v s = .done (s.modGroup v.r fun x => { x with gang := m.setWidth 64 }) := by
  unfold gangBody
  dsimp only
  rw [hm, if_neg]
  rintro ⟨hne, hbad⟩
  obtain h0 | ⟨h2, h6, hself, hteam⟩ := hok
  · exact hne h0
  obtain h | h | h | h := hbad
  · omega
  · omega
  · simp [hself] at h
  · obtain ⟨g, hg, hout⟩ := List.any_eq_true.1 h
    have := hteam g ((mem_lanesOf m g).1 hg)
    have := of_decide_eq_true hout
    omega

/-! ### Leases and the capo (12 R330 to R333) -/

/-- A request that its group may make enters the queue (12 R330, R333). -/
theorem mleaseBody_asks {sc : BitVec 6} {other : GroupRef} (ho : other = { v.r with grp := ((v.s6 sc).extractLsb' 22 5).toNat })
    (hzero : (v.s6 sc).extractLsb' 28 36 = 0) (hsingle : (v.s6 sc).getLsbD 27 = false → other.grp = 0)
    (hholds : (s.core v.r.core).holds s.cycle v.r = false) (hasked : (s.core v.r.core).asked v.r = false)
    (hpair : (v.s6 sc).getLsbD 27 = true → other.grp ≠ v.r.grp ∧ other.grp ≤ v.team.bind.ngm1 ∧
      (s.core v.r.core).holds s.cycle other = false ∧ (s.core v.r.core).asked other = false ∧
      (s.core v.r.core).paired s.cycle other = false) :
    mleaseBody sc v s = .done ((s.modCore v.r.core fun k =>
      { k with leaseQ := k.leaseQ ++ [⟨v.r.slot, v.r.grp, ((v.s6 sc).extractLsb' 0 8).toNat + 1, ((v.s6 sc).extractLsb' 8 14).toNat + 1,
                                       if (v.s6 sc).getLsbD 27 then some ((v.s6 sc).extractLsb' 22 5).toNat else none, none⟩] }).askGrant
        v.r.core) := by
  subst ho
  unfold Env.s6 at *
  unfold mleaseBody
  dsimp only at *
  rw [if_neg, if_neg]
  · cases hcp : (v.grp.sget sc.toNat).getLsbD 27 with
    | false => simp only [hholds, hasked, Bool.false_and, Bool.or_self, Bool.false_eq_true, not_false_eq_true]
    | true =>
      obtain ⟨-, -, h1, h2, h3⟩ := hpair hcp
      simp only [hholds, hasked, h1, h2, h3, Bool.and_false, Bool.or_self, Bool.false_eq_true, not_false_eq_true]
  · rintro (h | ⟨hcp, h⟩ | ⟨hcp, h⟩)
    · exact h hzero
    · exact h (hsingle hcp)
    · obtain ⟨hne, hle, -⟩ := hpair hcp
      omega

theorem mfreeBody_holds (h : (s.core v.r.core).holds s.cycle v.r = true) : mfreeBody v s =
    .done (s.modCore v.r.core fun k => { k with lease := k.lease.map fun l => { l with freed := some (l.freed.getD (s.cycle + 2)) } }) := by
  unfold mfreeBody
  rw [if_pos h]

theorem mfreeBody_idle (h : (s.core v.r.core).holds s.cycle v.r = false) : mfreeBody v s = .done s := by
  unfold mfreeBody
  rw [if_neg (by simp [h])]

/-- The group waits for the capo no longer (12 R332). -/
theorem modGroup_capoWait : (s.modGroup v.r fun x => { x with wait := if x.wait = .capo then .none else x.wait }) =
    s.modGroup v.r fun x => if x.wait = .capo then { x with wait := .none } else x := by
  congr 1
  funext x
  split <;> rfl

theorem capoTakeBody_goes (h : (s.core v.r.core).hasCapo s.cycle v.r = true ∨
      ((s.core v.r.core).paired s.cycle v.r = false ∧ (liveGroup v s).wait = .capo)) :
    capoTakeBody v s = .done (s.modGroup v.r fun x => { x with wait := if x.wait = .capo then .none else x.wait }) := by
  unfold capoTakeBody
  rw [modGroup_capoWait]
  obtain h | ⟨hp, hw⟩ := h
  · exact if_pos h
  · simp [hp, hw]

theorem capoTakeBody_waits (hc : (s.core v.r.core).hasCapo s.cycle v.r = false) (hp : (s.core v.r.core).paired s.cycle v.r = true) :
    capoTakeBody v s = .busy (s.modGroup v.r fun x => { x with wait := .capo }) := by
  unfold capoTakeBody
  simp [hc, hp]

theorem capoPassBody_passes (h : (s.core v.r.core).hasCapo s.cycle v.r = true) : capoPassBody v s =
    .done (s.modCore v.r.core fun k => { k with lease := k.lease.map fun l => l.pass v.r.grp s.cycle }) := if_pos h

/-! ### Stride registers (12 R337) -/

theorem zsetBody_writes {z : BitVec 3} {imm : BitVec 6} (hzero : (v.s6 imm).extractLsb' 18 46 = 0) (hshape : zShape (v.s6 imm) = true)
    (hsize : zNb (v.s6 imm) * ((2 ^ zLl (v.s6 imm) + 511) / 512) ≤ 512) :
    zsetBody z imm v s = .done (s.modGroup v.r fun x => { x with z := x.z.set 0 z.toNat (v.s6 imm) }) := by
  unfold Env.s6 at *
  unfold zsetBody
  rw [if_neg (by simp [hzero, hshape, hsize])]

end

/-- A word whose effect is a change of its own group's registers completes, also where its lanes have first followed a confirmed
hypothesis (05 R139). -/
theorem wrote_of_followed {u : Use} {s : State} {v : Env} {body : Env → State → Res} {w : Writes} {F : Team → Team} (h : Issues u s v)
    (room : Room s v) (hb : body v (followed u v s) = .done ((followed u v s).modTeam v.r F)) (loc : ∀ t : Team, t.Local v.r.grp (F t))
    (wr : ∀ t : Team, (t.group? v.r.grp).isSome → t.Writes v.r.grp w (F t)) :
    ∃ t, perform u body s = .next t ∧ Wrote v.r w (followed u v s) t := by
  have hf : SameRoom v.r v.e s (followed u v s) := .followed u
  obtain ⟨y, hy, hroom⟩ := room.group
  have hst : ((followed u v s).group? v.r).map (Group.standing v.e) = some (y.standing v.e) := by
    rw [hf.standing, hy]
    rfl
  obtain ⟨z, hz, hzy⟩ := Option.map_eq_some_iff.1 hst
  have hzroom : (dropEntry z.frontier v.e).length + z.aside.length < 8 := by
    change z.standing v.e < 8
    rw [hzy]
    exact hroom
  rw [perform_issues body h, hb]
  refine ⟨_, rfl, wrote_of_finish (hf.limit.trans room.limit) (exec_mask h.env h.active) hz hzroom (fun t _ => loc t) fun t ht => wr t ?_⟩
  unfold State.group? at hz
  rw [ht] at hz
  exact Option.isSome_of_eq_some hz

/-- A uniform result in a team. -/
theorem Team.Writes.of_sset (t : Team) (g : Nat) (d : BitVec 7) (y : DWord) :
    t.Writes g (.uni d y) (t.modGroup g fun x => x.sset d.toNat y) := by
  refine .of_modGroup t _ _ _ rfl fun x _ => ?_
  have hf : x.sset d.toNat y = { x with s := (x.sset d.toNat y).s } := by
    unfold Group.sset; split <;> rfl
  refine ⟨by rw [hf], fun n => ?_, fun n l _ => by rw [hf]; rfl, by rw [hf]; simp [Machine.Writes.uni], fun l _ => by rw [hf]; rfl,
    fun l _ => by rw [hf]; rfl⟩
  rw [Group.sget_sset]
  unfold Machine.Writes.uni
  dsimp only
  split <;> rfl

end Sys2Proof.Machine
end

section
/-! The obligation. -/

open Sys2Proof Sys2Proof.Machine

/-- Settles O38: every word whose operands pass its checks does what its rule says; `zget` writes its uniform register. -/
theorem matrixControl : Obligations.MatrixControl := by
  refine ⟨fun c h sc => ?_, fun c h => ?_, fun c sc => ?_, fun c sc => ?_, fun c => ?_, fun c => ?_, fun c => ?_, fun c => ?_, fun c => ?_,
    fun c z imm => ?_, fun c z o => ?_⟩
  · exact does_of_perform (fun _ => rfl) (fun v s hr => mresBody_fills hr) fun v s => .modGroup fun _ => rfl
  · exact does_of_perform (fun _ => rfl) (fun v s _ => rfl) fun v s => .modGroup fun _ => rfl
  · exact does_of_perform (fun _ => rfl) (fun v s hm => gangBody_writes (BitVec.setWidth_eq_extractLsb' (by decide)) hm) fun v s =>
      .modGroup fun _ => rfl
  · refine does_of_perform (fun _ => rfl) (fun v s ⟨hz, hs, hh, ha, hp⟩ => mleaseBody_asks rfl hz hs hh ha hp) fun v s =>
      SameRoom.trans ?_ .askGrant
    exact .modCore fun _ => rfl
  · exact does_of_perform (fun _ => rfl) (fun v s h => mfreeBody_holds h) fun v s => .modCore fun _ => rfl
  · exact does_of_perform (fun _ => rfl) (fun v s h => mfreeBody_idle h) fun v s => .refl
  · exact does_of_perform (fun _ => rfl) (fun v s h => capoTakeBody_goes h) fun v s => .modGroup fun _ => rfl
  · exact holds_of_perform (fun _ => rfl) fun v s ⟨hc, hp⟩ => capoTakeBody_waits hc hp
  · refine does_of_perform (fun _ => rfl) (fun v s h => ?_) fun v s => .modCore fun _ => rfl
    exact capoPassBody_passes h
  · exact does_of_perform (fun _ => rfl) (fun v s ⟨hz, hs, hn⟩ => zsetBody_writes hz hs hn) fun v s => .modGroup fun _ => rfl
  · intro s v h room _
    have hd : (o.setWidth 7).toNat = o.toNat := BitVec.toNat_setWidth_of_le (by decide)
    refine wrote_of_followed (F := fun t => t.modGroup v.r.grp fun x => x.sset (o.setWidth 7).toNat (v.grp.zget z.toNat)) h room ?_
      (fun t => Team.modGroup_local t _ _ fun x _ => x.sset_keeps _ _) fun t _ => .of_sset t _ _ _
    rw [hd]
    rfl
end

section
/-! # Pushes at their port, visibility of runs, steals and stolen tasks (O54)

The elements of a run that fits lie in different places of the ring, so that each is read as it was written (`read_writeRun`). The port's
answer to a push is one state for each case of the statement (`PushAt.exec`); a steal ends in its group alone (`Group.afterSteal`). -/

namespace Sys2Proof

/-- The low bytes of what was written. -/
theorem Mem.read_write_prefix (m : Mem) (n k a x : Nat) (h : k ≤ n) : (m.write n a x).read k a = x % 256 ^ k := by
  induction k generalizing m n a x with
  | zero => simp [Mem.read, Nat.mod_one]
  | succ k ih =>
    obtain ⟨n, rfl⟩ : ∃ j, n = j + 1 := ⟨n - 1, by omega⟩
    show ((Mem.write (m.setByte a _) n (a + 1) _).byte a).toNat + 256 * (Mem.write (m.setByte a _) n (a + 1) _).read k (a + 1) = _
    rw [ih _ _ _ _ (by omega), Mem.byte_write_out _ _ _ _ _ (by omega), Mem.byte_setByte, BitVec.toNat_ofNat,
      show (256 : Nat) ^ (k + 1) = 256 * 256 ^ k by rw [Nat.pow_succ, Nat.mul_comm], Nat.mod_mul]

namespace Machine

/-! ### What a change of one part of a core leaves of the others -/

section
variable {s t : State} {r g : GroupRef} {c d n : Nat}

/-- What a change of a core leaves alone reads as before in every core. -/
theorem State.core_modCore_keeps {α : Type} (π : Core → α) {f : Core → Core} (h : ∀ k, π (f k) = π k) :
    π ((s.modCore c f).core d) = π (s.core d) := by
  by_cases hd : d = c
  · rw [hd, State.core_modCore, h]
  · rw [State.core_modCore_ne _ _ _ _ hd]

theorem Core.modTeam_scratch (k : Core) (n : Nat) (f : Team → Team) : (k.modTeam n f).scratch = k.scratch := by
  unfold Core.modTeam; split <;> rfl

theorem Core.modTeam_queues (k : Core) (n : Nat) (f : Team → Team) : (k.modTeam n f).queues = k.queues := by
  unfold Core.modTeam; split <;> rfl

@[simp] theorem State.scratch_modTeam (f : Team → Team) : ((s.modTeam r f).core c).scratch = (s.core c).scratch :=
  State.core_modCore_keeps (·.scratch) fun k => k.modTeam_scratch _ _

@[simp] theorem State.scratch_modGroup (f : Group → Group) : ((s.modGroup r f).core c).scratch = (s.core c).scratch :=
  State.scratch_modTeam _

theorem Core.queue?_of_queues {k k' : Core} (h : k'.queues = k.queues) : k'.queue? n = k.queue? n := by
  unfold Core.queue?
  rw [h]

@[simp] theorem State.queue?_modGroup (f : Group → Group) : ((s.modGroup r f).core c).queue? n = (s.core c).queue? n :=
  Core.queue?_of_queues (State.core_modCore_keeps (·.queues) fun k => k.modTeam_queues _ _)

@[simp] theorem State.queue?_scratchWrite {m at_ x : Nat} :
    ((s.scratchWrite d m at_ x).core c).queue? n = (s.core c).queue? n :=
  Core.queue?_of_queues (State.core_modCore_keeps (·.queues) fun _ => rfl)

@[simp] theorem State.scratch_modQueue (f : QDesc → QDesc) : ((s.modQueue d n f).core c).scratch = (s.core c).scratch := by
  refine State.core_modCore_keeps (·.scratch) fun k => ?_
  split <;> rfl

theorem State.team?_of_cores (h : t.cores = s.cores) : t.team? r = s.team? r := by
  unfold State.team? State.core
  rw [h]

theorem State.group?_of_cores (h : t.cores = s.cores) : t.group? r = s.group? r := by
  unfold State.group?
  rw [State.team?_of_cores h]

/-- A change of a core that leaves its teams leaves every team. -/
theorem State.team?_modCore {f : Core → Core} (h : ∀ k, (f k).teams = k.teams) : (s.modCore c f).team? r = s.team? r := by
  unfold State.team? Core.team?
  rw [State.core_modCore_keeps (·.teams) h]

theorem State.group?_modCore {f : Core → Core} (h : ∀ k, (f k).teams = k.teams) : (s.modCore c f).group? r = s.group? r := by
  unfold State.group?
  rw [State.team?_modCore h]

@[simp] theorem State.group?_modQueue (f : QDesc → QDesc) : (s.modQueue c n f).group? r = s.group? r := by
  refine State.group?_modCore fun k => ?_
  split <;> rfl

@[simp] theorem State.team?_scratchWrite {at_ x : Nat} : (s.scratchWrite c n at_ x).team? r = s.team? r := State.team?_modCore fun _ => rfl

@[simp] theorem State.group?_scratchWrite {at_ x : Nat} : (s.scratchWrite c n at_ x).group? r = s.group? r := State.group?_modCore fun _ => rfl

@[simp] theorem State.scratch_scratchWrite {at_ x : Nat} :
    ((s.scratchWrite c n at_ x).core c).scratch = (s.core c).scratch.write n at_ x := by
  unfold State.scratchWrite
  rw [State.core_modCore]

/-! ### Queues -/

theorem Core.queue?_eq_some {k : Core} {q : QDesc} : k.queue? n = some q ↔ k.queues.get none n = some q ∧ q.en = true := by
  unfold Core.queue?
  cases k.queues.get none n with
  | none => simp
  | some q' => by_cases he : q'.en = true <;> simp [he] <;> rintro rfl <;> simp_all

/-- A queue that stays enabled, after a change of its descriptor. -/
theorem State.queue?_modQueue {q : QDesc} {f : QDesc → QDesc} (h : (s.core c).queue? n = some q) (he : (f q).en = q.en) :
    ((s.modQueue c n f).core c).queue? n = some (f q) := by
  obtain ⟨hq, hen⟩ := Core.queue?_eq_some.1 h
  unfold State.modQueue
  rw [State.core_modCore]
  simp only [hq]
  exact Core.queue?_eq_some.2 ⟨by simp, he.trans hen⟩

/-- A change of a queue that gives what another gives. -/
theorem State.modQueue_congr {q : QDesc} {f f' : QDesc → QDesc} (h : (s.core c).queues.get none n = some q) (he : f q = f' q) :
    s.modQueue c n f = s.modQueue c n f' := by
  refine State.modCore_congr s c (fun k => _) (fun k => _) ?_
  simp only [h, he]

end

/-! ### The elements of a run in the ring (02 R61) -/

section
variable {s : State} {c b n m k : Nat} {q : QDesc} {es : List DWord} {e : DWord}

/-- Writing a run leaves what writing one element leaves. -/
theorem State.writeRun_keeps {α : Type} (π : State → α) (h : ∀ s n at_ x, π (State.scratchWrite s c n at_ x) = π s) :
    π (s.writeRun c b q n es) = π s := by
  induction es generalizing s n with
  | nil => rfl
  | cons e es ih => exact ih.trans (h ..)

/-- An element ends before one of a later place begins. -/
theorem QDesc.elemAt_add_le (h : m % q.cap < n % q.cap) : q.elemAt b m + q.elemBytes ≤ q.elemAt b n := by
  have := Nat.mul_le_mul_right q.elemBytes (Nat.succ_le_of_lt h)
  rw [Nat.succ_mul] at this
  unfold QDesc.elemAt
  omega

/-- Elements whose numbers differ modulo the capacity lie in different places. -/
theorem QDesc.elemAt_disjoint (h : m % q.cap ≠ n % q.cap) :
    q.elemAt b m + q.elemBytes ≤ q.elemAt b n ∨ q.elemAt b n + q.elemBytes ≤ q.elemAt b m :=
  (Nat.lt_or_gt_of_ne h).imp QDesc.elemAt_add_le QDesc.elemAt_add_le

theorem add_mod_ne {cap : Nat} (h0 : 0 < k) (hk : k < cap) : n % cap ≠ (n + k) % cap :=
  fun h => Nat.not_dvd_of_pos_of_lt h0 hk (Nat.left_modEq_add_iff.1 h)

/-- A run leaves an element that has none of its places. -/
theorem read_writeRun_out (h : ∀ k < es.length, m % q.cap ≠ (n + k) % q.cap) :
    (s.writeRun c b q n es).scratchRead c q.elemBytes (q.elemAt b m) = s.scratchRead c q.elemBytes (q.elemAt b m) := by
  induction es generalizing s n with
  | nil => rfl
  | cons e es ih =>
    have hfirst := h 0 (by simp)
    refine (ih fun k hk => ?_).trans ?_
    · have := h (k + 1) (by simpa using hk)
      rwa [show n + (k + 1) = n + 1 + k by omega] at this
    · unfold State.scratchRead
      rw [State.scratch_scratchWrite, Mem.read_write_out _ _ _ _ _ _ (QDesc.elemAt_disjoint (by simpa using hfirst))]

/-- Every element of a run that fits is read as it was written. -/
theorem read_writeRun (hcap : es.length ≤ q.cap) (he : es[k]? = some e) :
    (s.writeRun c b q n es).scratchRead c q.elemBytes (q.elemAt b (n + k)) = e.toNat % 256 ^ q.elemBytes := by
  induction es generalizing s n k with
  | nil => simp at he
  | cons e' es ih =>
    simp only [List.length_cons] at hcap
    cases k with
    | zero =>
      obtain rfl : e' = e := by simpa using he
      refine (read_writeRun_out (s := s.scratchWrite c q.elemBytes (q.elemAt b n) e'.toNat) (n := n + 1) fun k hk => ?_).trans ?_
      · have := add_mod_ne (n := n) (k := k + 1) (cap := q.cap) (by omega) (by omega)
        rwa [show n + (k + 1) = n + 1 + k by omega] at this
      · unfold State.scratchRead
        rw [State.scratch_scratchWrite, Nat.add_zero, Mem.read_write]
    | succ k =>
      rw [show n + (k + 1) = n + 1 + k by omega]
      exact ih (by omega) (by simpa using he)

end

/-! ### A push at its port (02 R62, R65, 11 R307) -/

section
variable {g : GroupRef} {x : Group} {p : Push} {q : QDesc} {s : State}

theorem QDesc.accepts_iff {n : Nat} : q.accepts g n = true ↔
    (q.refused = [] ∨ q.refused.head? = some g) ∧ (q.tail - q.head).toNat + n ≤ 2 ^ q.lcap.toNat := by
  unfold QDesc.accepts QDesc.occupancy QDesc.cap
  simp only [Bool.and_eq_true, Bool.or_eq_true, List.isEmpty_iff, decide_eq_true_eq]

/-- The owner of a queue is saved or on its way there. -/
def ownerAway (c : Nat) (q : QDesc) (s : State) : Bool :=
  ((s.core c).team? q.owner).any fun t => !(t.save = .none || t.save = .draining)

theorem ownerAway_iff {c : Nat} : ownerAway c q s = true ↔ ¬ownerTakes c q s := by
  unfold ownerAway ownerTakes
  cases (s.core c).team? q.owner <;> simp

/-- The state after a push has reached its port. -/
def State.pushArrived (s : State) (g : GroupRef) (p : Push) (q : QDesc) : State :=
  if ownerAway p.core q s then s.post (.queuePushArrive g)
  else if q.accepts g p.elems.length then if s.groupQuiet g then s.acceptRun g p q else s.post (.queuePushArrive g)
  else if p.tries then s.modGroup g fun x => { x with push := some { p with answer := some false } }
  else s.modQueue p.core p.qn fun q => { q with refused := if q.refused.contains g then q.refused else q.refused ++ [g] }

theorem PushAt.exec (h : PushAt g x p q s) : Occurs (.queuePushArrive g) s (s.pushArrived g p q) := by
  have hp : (s.group? g).bind (·.push) = some p := by rw [h.group]; exact h.push
  show execQueuePushArrive g s = _
  unfold execQueuePushArrive State.pushArrived ownerAway
  simp only [hp, h.open_, h.queue, Option.isSome_none, Bool.false_eq_true, if_false]
  split
  · rfl
  · split
    · rfl
    · split <;> rfl

theorem State.resendPush_eq (s : State) (c n : Nat) : s.resendPush c n = s ∨ ∃ i, s.resendPush c n = s.postOnce i := by
  unfold State.resendPush
  split
  · exact .inl rfl
  · split
    · exact .inl rfl
    · exact .inr ⟨_, rfl⟩

theorem State.mem_postOnce_of_mem {i j : Instr} (h : j ∈ s.pending) : j ∈ (s.postOnce i).pending := by
  unfold State.postOnce
  split
  · exact h
  · exact List.mem_append_left _ h

theorem State.resendPush_cores (s : State) (c n : Nat) : (s.resendPush c n).cores = s.cores := by
  obtain h | ⟨i, h⟩ := s.resendPush_eq c n <;> rw [h]
  exact s.postOnce_cores i

/-- The state of an accepted run before the next refused push is sent again. -/
def State.runWritten (s : State) (g : GroupRef) (p : Push) (q : QDesc) : State :=
  (((s.writeRun p.core (s.windowBase p.core q.owner) q q.tail.toNat p.elems).modQueue p.core p.qn fun q =>
    { q with tail := q.tail + BitVec.ofNat 32 p.elems.length, runs := q.runs ++ [(p.elems.length, false)],
             refused := q.refused.filter fun h => h ≠ g }).modGroup g fun x => { x with push := some { p with answer := some true } }).post
    (.queueRunVisible p.core p.qn)

theorem State.acceptRun_eq : s.acceptRun g p q = (s.runWritten g p q).resendPush p.core p.qn := rfl

theorem State.acceptRun_core {c : Nat} : (s.acceptRun g p q).core c = (s.runWritten g p q).core c := by
  unfold State.core
  rw [State.acceptRun_eq, State.resendPush_cores]

theorem State.acceptRun_group? (h : s.group? g = some x) :
    (s.acceptRun g p q).group? g = some { x with push := some { p with answer := some true } } := by
  rw [State.acceptRun_eq, State.group?_of_cores (State.resendPush_cores ..)]
  show (State.modGroup _ g _).group? g = _
  rw [State.group?_modGroup, State.group?_modQueue, State.writeRun_keeps (·.group? g) fun _ _ _ _ => State.group?_scratchWrite, h]
  rfl

theorem State.acceptRun_pending : .queueRunVisible p.core p.qn ∈ (s.acceptRun g p q).pending := by
  have h : .queueRunVisible p.core p.qn ∈ (s.runWritten g p q).pending := State.mem_post _ _
  rw [State.acceptRun_eq]
  obtain e | ⟨i, e⟩ := (s.runWritten g p q).resendPush_eq p.core p.qn <;> rw [e]
  · exact h
  · exact State.mem_postOnce_of_mem h

theorem State.acceptRun_hbm : (s.acceptRun g p q).hbm = s.hbm := by
  have h : (s.runWritten g p q).hbm = s.hbm := State.writeRun_keeps (·.hbm) fun _ _ _ _ => rfl
  rw [State.acceptRun_eq]
  obtain e | ⟨i, e⟩ := (s.runWritten g p q).resendPush_eq p.core p.qn <;> rw [e]
  · exact h
  · exact (State.postOnce_hbm _ i).trans h

theorem State.acceptRun_queue? (h : (s.core p.core).queue? p.qn = some q) : ((s.acceptRun g p q).core p.core).queue? p.qn = some { q with
    tail := q.tail + BitVec.ofNat 32 p.elems.length, runs := q.runs ++ [(p.elems.length, false)],
    refused := q.refused.filter fun h => h ≠ g } := by
  have hw : ((s.writeRun p.core (s.windowBase p.core q.owner) q q.tail.toNat p.elems).core p.core).queue? p.qn = some q := by
    rw [← h]
    exact State.writeRun_keeps (fun s => (s.core p.core).queue? p.qn) fun _ _ _ _ => State.queue?_scratchWrite
  rw [State.acceptRun_core]
  show ((State.modGroup _ g _).core p.core).queue? p.qn = _
  rw [State.queue?_modGroup, State.queue?_modQueue hw rfl]

/-- The elements of an accepted run lie in the ring from its tail on. -/
theorem State.acceptRun_read {k : Nat} {e : DWord} (hcap : p.elems.length ≤ q.cap) (he : p.elems[k]? = some e) :
    (s.acceptRun g p q).scratchRead p.core q.elemBytes (q.elemAt (s.windowBase p.core q.owner) (q.tail.toNat + k)) =
      e.toNat % 2 ^ (8 * q.elemBytes) := by
  rw [Nat.pow_mul, ← read_writeRun hcap he]
  unfold State.scratchRead
  rw [State.acceptRun_core]
  show ((State.modGroup _ g _).core p.core).scratch.read _ _ = _
  rw [State.scratch_modGroup, State.scratch_modQueue]

/-- The oldest run that is not visible becomes so (02 R62). -/
theorem showRun_append {pre rest : List (Nat × Bool)} {k : Nat} (h : ∀ r ∈ pre, r.2 = true) :
    showRun (pre ++ (k, false) :: rest) = pre ++ (k, true) :: rest := by
  induction pre with
  | nil => rfl
  | cons r pre ih =>
    obtain ⟨n, b⟩ := r
    obtain rfl : b = true := h (n, b) (by simp)
    exact congrArg _ (ih fun r hr => h r (by simp [hr]))

end

section
variable {g : GroupRef} {x : Group} {p : Push} {q : QDesc} {s : State}

/-- A run whose owner is away is sent again (02 R65). -/
theorem PushAt.waits_of_away (h : PushAt g x p q s) (ha : ¬ownerTakes p.core q s) : Waits (.queuePushArrive g) s := by
  have he := h.exec
  rwa [State.pushArrived, if_pos (ownerAway_iff.2 ha)] at he

/-- At an owner that takes elements the answer goes by whether the run is accepted. -/
theorem PushAt.exec_taken (h : PushAt g x p q s) (ht : ownerTakes p.core q s) : Occurs (.queuePushArrive g) s
    (if q.accepts g p.elems.length then if s.groupQuiet g then s.acceptRun g p q else s.post (.queuePushArrive g)
      else if p.tries then s.modGroup g fun x => { x with push := some { p with answer := some false } }
      else s.modQueue p.core p.qn fun q => { q with refused := if q.refused.contains g then q.refused else q.refused ++ [g] }) := by
  have he := h.exec
  rwa [State.pushArrived, if_neg fun ha => ownerAway_iff.1 ha ht] at he

/-- A refused push waits in the order of the queue and changes nothing else (11 R307). -/
theorem PushAt.refused (h : PushAt g x p q s) (ht : ownerTakes p.core q s) (hf : ¬q.accepts g p.elems.length = true)
    (htr : p.tries = false) : OccursWith (.queuePushArrive g) s fun t =>
      t.group? g = some x ∧ (t.core p.core).scratch = (s.core p.core).scratch ∧
        (t.core p.core).queue? p.qn = some { q with refused := if g ∈ q.refused then q.refused else q.refused ++ [g] } := by
  have he := h.exec_taken ht
  rw [if_neg hf, if_neg (by simp [htr])] at he
  refine ⟨_, he, rfl, State.group?_modQueue _ |>.trans h.group, State.scratch_modQueue _, ?_⟩
  refine (State.queue?_modQueue h.queue rfl).trans ?_
  simp only [List.contains_iff_mem]

/-- An accepted run is written at the tail of its queue and will become visible (02 R62, 11 R307). -/
theorem PushAt.accepted (h : PushAt g x p q s) (ht : ownerTakes p.core q s) (hf : q.accepts g p.elems.length = true)
    (hq : s.groupQuiet g = true) : OccursWith (.queuePushArrive g) s fun t =>
      t.group? g = some { x with push := some { p with answer := some true } } ∧ .queueRunVisible p.core p.qn ∈ t.pending ∧
      t.hbm = s.hbm ∧ (∃ r, (t.core p.core).queue? p.qn = some { q with
        tail := q.tail + BitVec.ofNat 32 p.elems.length, runs := q.runs ++ [(p.elems.length, false)], refused := r }) ∧
      ∀ k e, p.elems[k]? = some e → t.scratchRead p.core q.elemBytes (s.windowBase p.core q.owner + q.base.toNat +
        (q.tail.toNat + k) % 2 ^ q.lcap.toNat * q.elemBytes) = e.toNat % 2 ^ (8 * q.elemBytes) := by
  have he := h.exec_taken ht
  rw [if_pos hf, if_pos hq] at he
  have hcap : p.elems.length ≤ q.cap := by
    have := (QDesc.accepts_iff.1 hf).2
    unfold QDesc.cap
    omega
  have hgroup := State.acceptRun_group? (p := p) (q := q) h.group
  have hpending := State.acceptRun_pending (g := g) (p := p) (q := q) (s := s)
  have hhbm := State.acceptRun_hbm (g := g) (p := p) (q := q) (s := s)
  have hqueue := State.acceptRun_queue? (g := g) h.queue
  have hread := fun k e => State.acceptRun_read (g := g) (s := s) (k := k) (e := e) hcap
  generalize s.acceptRun g p q = t at *
  exact ⟨_, he, rfl, hgroup, hpending, hhbm, ⟨_, hqueue⟩, hread⟩

end

/-! ### Steals (11 R312, 14 R395) -/

section
variable {g : GroupRef} {x : Group} {st : Steal} {s : State} {ok : Bool}

/-- A group whose steal has ended. -/
def Group.afterSteal (x : Group) (st : Steal) (ok : Bool) : Group :=
  { x.pset st.pd.toNat st.lanes (if ok then BitVec.allOnes 32 else 0) with steal := none }.fretDown st.fret 0

theorem Group.afterSteal_steal : (x.afterSteal st ok).steal = none := by
  unfold Group.afterSteal
  cases st.fret <;> rfl

theorem Group.afterSteal_p : (x.afterSteal st ok).p = (x.pset st.pd.toNat st.lanes (if ok then BitVec.allOnes 32 else 0)).p := by
  unfold Group.afterSteal
  cases st.fret <;> rfl

theorem Group.afterSteal_pget (hpd : st.pd ≠ 0) : (x.afterSteal st ok).pget st.pd.toNat =
    if ok then x.pget st.pd.toNat ||| st.lanes else x.pget st.pd.toNat &&& ~~~st.lanes := by
  have h0 : st.pd.toNat ≠ 0 := fun h => hpd (BitVec.eq_of_toNat_eq h)
  unfold Group.pget
  rw [Group.afterSteal_p]
  simp only [Group.pset, h0, if_false, Tbl.get_set]
  cases ok
  · simp
  · simp only [if_true, BitVec.allOnes_and]
    ext l hl
    simp only [BitVec.getElem_or, BitVec.getElem_and, BitVec.getElem_not]
    cases st.lanes[l] <;> simp

theorem Group.afterSteal_fret {f : Nat} (hf : st.fret = some f) : (x.afterSteal st ok).fret f = ⟨(x.fret f).cnt - 1, (x.fret f).st⟩ := by
  have hx : ∀ n m y, (x.pset n m y).frets = x.frets := fun n m y => by
    unfold Group.pset
    split <;> rfl
  unfold Group.afterSteal
  rw [hf]
  simp only [Group.fretDown, Group.setFret, Group.fret, Tbl.get_set, hx]
  congr 1
  split
  · next h => exact h.symm
  · rfl

/-- The end of a steal changes its group alone. -/
theorem State.endSteal_eq (h : (s.group? g).bind (·.steal) = some st) : s.endSteal g ok = s.modGroup g fun x => x.afterSteal st ok := by
  unfold State.endSteal State.fretDown
  rw [h]
  exact s.modGroup_modGroup g _ _

/-- A group whose steal ends: its predicate in the steal's lanes, its fret counted down, no steal. -/
theorem State.group?_endSteal (hx : s.group? g = some x) (hs : x.steal = some st) :
    ∃ y, (s.endSteal g ok).group? g = some y ∧ y.steal = none ∧
      (st.pd ≠ 0 → y.pget st.pd.toNat = if ok then x.pget st.pd.toNat ||| st.lanes else x.pget st.pd.toNat &&& ~~~st.lanes) ∧
      ∀ f, st.fret = some f → y.fret f = ⟨(x.fret f).cnt - 1, (x.fret f).st⟩ := by
  refine ⟨x.afterSteal st ok, ?_, Group.afterSteal_steal, Group.afterSteal_pget, fun f => Group.afterSteal_fret⟩
  rw [State.endSteal_eq (by rw [hx]; exact hs), State.group?_modGroup, hx]
  rfl

theorem Team.tcount_modGroup (t : Team) (n : Nat) (f : Group → Group) : (t.modGroup n f).tcount = t.tcount := by
  unfold Team.modGroup
  split <;> rfl

/-- A mailbox entry that is cleared holds no request. -/
theorem State.mail_clearMail {c k : Nat} {t : BindRec} : (s.clearMail c t k).mail c t k = none := by
  unfold State.mail State.clearMail State.scratchRead
  rw [State.scratch_scratchWrite, Mem.read_write_prefix _ _ _ _ _ (by decide), Nat.zero_mod]
  rfl

theorem State.mail_modGroup {c k : Nat} {t : BindRec} {f : Group → Group} : (s.modGroup g f).mail c t k = s.mail c t k := by
  unfold State.mail State.scratchRead
  rw [State.scratch_modGroup]

/-- A steal that is late, or whose victim has exited, is withdrawn (11 R312). -/
theorem stealTimeout_late {t : Team} (ht : s.team? g = some t) (hx : s.group? g = some x) (hs : x.steal = some st)
    (hl : st.post + t.bind.stealto < s.cycle ∨ s.victimOver st = true) :
    Occurs (.stealTimeout g) s ((s.withdrawSteal g).repostSteal g) := by
  have h : (s.group? g).bind (·.steal) = some st := by rw [hx]; exact hs
  show execStealTimeout g s = _
  unfold execStealTimeout
  simp only [ht, h, hl, if_true]

/-- A steal in time waits. -/
theorem stealTimeout_early {t : Team} (ht : s.team? g = some t) (hx : s.group? g = some x) (hs : x.steal = some st)
    (hl : ¬(st.post + t.bind.stealto < s.cycle ∨ s.victimOver st = true)) : Waits (.stealTimeout g) s := by
  have h : (s.group? g).bind (·.steal) = some st := by rw [hx]; exact hs
  show execStealTimeout g s = _
  unfold execStealTimeout
  simp only [ht, h, hl, if_false]

/-- No request is found: a task is on its way, and the steal stays. -/
theorem State.withdrawSteal_none {tv : Team} (hx : s.group? g = some x) (hs : x.steal = some st)
    (hv : (s.core st.core).team? st.slot = some tv) (hm : s.mailOf st.core tv.bind g = none) :
    (s.withdrawSteal g).repostSteal g = s.postOnce (.stealTimeout g) := by
  have h : (s.group? g).bind (·.steal) = some st := by rw [hx]; exact hs
  have hw : s.withdrawSteal g = s := by
    unfold State.withdrawSteal
    simp only [h, hv, hm]
  unfold State.repostSteal
  rw [hw, h]
  rfl

/-- A request is found: it is cleared, and the steal ends without a task. -/
theorem State.withdrawSteal_some {tv : Team} {k : Nat} (hx : s.group? g = some x) (hs : x.steal = some st)
    (hv : (s.core st.core).team? st.slot = some tv) (hm : s.mailOf st.core tv.bind g = some k) :
    (s.withdrawSteal g).repostSteal g = (s.clearMail st.core tv.bind k).endSteal g false := by
  have h : (s.group? g).bind (·.steal) = some st := by rw [hx]; exact hs
  have hw : s.withdrawSteal g = (s.clearMail st.core tv.bind k).endSteal g false := by
    unfold State.withdrawSteal
    simp only [h, hv, hm]
  have hc : (s.clearMail st.core tv.bind k).group? g = some x := State.group?_scratchWrite.trans hx
  obtain ⟨y, hy, hnone, -⟩ := State.group?_endSteal (ok := false) hc hs
  unfold State.repostSteal
  rw [hw, hy, Option.bind_some, hnone]
  rfl

/-- A late steal whose request is still in the mailbox: the entry is cleared, and the steal ends without a task. -/
theorem stealTimeout_withdraws {t tv : Team} {k : Nat} (ht : s.team? g = some t) (hx : s.group? g = some x) (hs : x.steal = some st)
    (hl : st.post + t.bind.stealto < s.cycle ∨ s.victimOver st = true) (hv : (s.core st.core).team? st.slot = some tv)
    (hm : s.mailOf st.core tv.bind g = some k) :
    OccursWith (.stealTimeout g) s fun u => u.mail st.core tv.bind k = none ∧ ∃ y, u.group? g = some y ∧ y.steal = none ∧
      (st.pd ≠ 0 → y.pget st.pd.toNat = x.pget st.pd.toNat &&& ~~~st.lanes) ∧
      ∀ f, st.fret = some f → y.fret f = ⟨(x.fret f).cnt - 1, (x.fret f).st⟩ := by
  have hc : (s.clearMail st.core tv.bind k).group? g = some x := State.group?_scratchWrite.trans hx
  have hmail : ((s.clearMail st.core tv.bind k).endSteal g false).mail st.core tv.bind k = none := by
    rw [State.endSteal_eq (by rw [hc]; exact hs), State.mail_modGroup, State.mail_clearMail]
  have hgroup := State.group?_endSteal (ok := false) hc hs
  have he := stealTimeout_late ht hx hs hl
  rw [State.withdrawSteal_some hx hs hv hm] at he
  generalize (s.clearMail st.core tv.bind k).endSteal g false = u at *
  exact ⟨_, he, rfl, hmail, hgroup⟩

/-- A task written at the top of a deque. -/
theorem State.pushTask_eq {t : Team} {task : BitVec 512} (ht : s.team? g = some t) : s.pushTask g task =
    (s.scratchWrite g.core 64 (dequeAt t.bind t.tcount) task.toNat).modTeam g fun t => { t with tcount := t.tcount + 1 } := by
  unfold State.pushTask
  rw [ht]

theorem State.group?_pushTask {task : BitVec 512} : (s.pushTask g task).group? g = s.group? g := by
  cases ht : s.team? g with
  | none => rw [State.pushTask, ht]
  | some t =>
    rw [State.pushTask_eq ht, State.group?_modTeam, State.team?_scratchWrite]
    rfl

/-- A stolen task is written at the top of the thief's deque, and the steal ends with it (14 R395). -/
theorem taskDelivery_pushes {t : Team} {task : BitVec 512} (ht : s.team? g = some t) (hx : s.group? g = some x) (hs : x.steal = some st) :
    OccursWith (.taskDelivery g task) s fun u =>
      u.scratchRead g.core 64 (dequeAt t.bind t.tcount) = task.toNat ∧ (u.team? g).map (·.tcount) = some (t.tcount + 1) ∧
      ∃ y, u.group? g = some y ∧ y.steal = none ∧ (st.pd ≠ 0 → y.pget st.pd.toNat = x.pget st.pd.toNat ||| st.lanes) ∧
        ∀ f, st.fret = some f → y.fret f = ⟨(x.fret f).cnt - 1, (x.fret f).st⟩ := by
  have hp : (s.pushTask g task).group? g = some x := State.group?_pushTask.trans hx
  have he : Occurs (.taskDelivery g task) s ((s.pushTask g task).endSteal g true) := by
    show execTaskDelivery g task s = _
    rw [execTaskDelivery, hx, Option.bind_some, hs]
  have hend := State.endSteal_eq (ok := true) (s := s.pushTask g task) (by rw [hp]; exact hs)
  have htask : ((s.pushTask g task).endSteal g true).scratchRead g.core 64 (dequeAt t.bind t.tcount) = task.toNat := by
    rw [hend, State.scratchRead, State.scratch_modGroup, State.pushTask_eq ht, State.scratch_modTeam, State.scratch_scratchWrite,
      Mem.read_write, show (256 : Nat) = 2 ^ 8 from rfl, ← Nat.pow_mul, show 8 * 64 = 512 from rfl, task.toNat_mod_cancel]
  have hcount : (((s.pushTask g task).endSteal g true).team? g).map (·.tcount) = some (t.tcount + 1) := by
    rw [hend, State.pushTask_eq ht]
    simp [ht, Team.tcount_modGroup]
  have hgroup := State.group?_endSteal (ok := true) hp hs
  generalize (s.pushTask g task).endSteal g true = u at *
  exact ⟨_, he, rfl, htask, hcount, hgroup⟩

end

end Machine

end Sys2Proof
end

section
/-! The obligation. -/

open Sys2Proof Sys2Proof.Machine

/-- Settles O54: the port's answer by its cases, the first run that is not visible, and the end of a steal with or without a task. -/
theorem queueEvents : Obligations.QueueEvents := by
  refine ⟨fun g s h => ?_, fun g x p q s h => ?_, fun core n q pre k rest s hq hr hpre => ?_, fun g s h => ⟨?_, fun task => ?_⟩,
    fun g t x st s ht hx hs => ⟨fun hl => ?_, fun hl tv hv => ⟨fun hm => ?_, fun k hm => ?_⟩⟩, fun g t x st task s ht hx hs => ?_⟩
  · show execQueuePushArrive g s = _
    rw [execQueuePushArrive, h]
  · intro fits
    have hfits : q.accepts g p.elems.length = true ↔ fits := QDesc.accepts_iff
    refine ⟨h.waits_of_away, fun ht hf hq => ?_, fun ht hf => h.accepted ht (hfits.2 hf), fun ht hf => ⟨fun htr => ?_, fun htr => ?_⟩⟩
    · have he := h.exec_taken ht
      rwa [if_pos (hfits.2 hf), if_neg (by simp [hq])] at he
    · have he := h.exec_taken ht
      rwa [if_neg fun ha => hf (hfits.1 ha), if_pos htr] at he
    · exact h.refused ht (fun ha => hf (hfits.1 ha)) htr
  · show execQueueRunVisible core n s = _
    rw [execQueueRunVisible, State.modQueue_congr hq]
    rw [hr, showRun_append hpre]
  · show execStealTimeout g s = _
    unfold execStealTimeout
    rw [h]
    cases s.team? g <;> rfl
  · show execTaskDelivery g task s = _
    rw [execTaskDelivery, h]
  · exact stealTimeout_early ht hx hs hl
  · rw [← State.withdrawSteal_none hx hs hv hm]
    exact stealTimeout_late ht hx hs hl
  · exact stealTimeout_withdraws ht hx hs hl hv hm
  · exact taskDelivery_pushes ht hx hs
end

section
/-! # Logged words, walks, replays and late faults (O46)

A logged word's line that is translated ends as `State.hbmLine` says (`LocalLine`); a walk changes root memory only inside the extents of the
spill area (`Spilled`); what a late fault leaves of a group is read off `State.rolledBack`. -/

namespace Sys2Proof.Machine

/-! ### Accesses of a logged word in its slice (03 R84, R87, R103, 15 R408) -/

section
variable {s t : State} {part die line pa tag : Nat} {n : LogEntry} {a : Access} {accs : List Access}

theorem State.part?_of_parts (h : t.parts = s.parts) (p : Nat) : t.part? p = s.part? p := by
  unfold State.part?
  rw [h]

theorem State.effectiveTag_of_parts (h : t.parts = s.parts) : t.effectiveTag part tag = s.effectiveTag part tag := by
  unfold State.effectiveTag
  rw [State.part?_of_parts h]

theorem State.accTag_of_parts (h : t.parts = s.parts) : t.accTag part n a = s.accTag part n a := State.effectiveTag_of_parts h

theorem State.accLive_of_parts (h : t.parts = s.parts) : t.accLive part n a = s.accLive part n a := by
  unfold State.accLive State.tagLive
  rw [State.part?_of_parts h]

theorem State.owned_of_eq (hp : t.parts = s.parts) (hd : t.dies = s.dies) : t.owned die part tag line = s.owned die part tag line := by
  unfold State.owned State.die
  simp only [hd, State.effectiveTag_of_parts hp]

theorem State.coreCaches_parts (s : State) (core part va : Nat) : (s.coreCaches core part va).parts = s.parts := by
  unfold State.coreCaches
  split
  · rfl
  · dsimp only
    split
    · rfl
    · split <;> rfl

theorem State.coreCaches_dies (s : State) (core part va : Nat) : (s.coreCaches core part va).dies = s.dies := by
  unfold State.coreCaches
  split
  · rfl
  · dsimp only
    split
    · rfl
    · split <;> rfl

/-- What is true of the tag of every access is true of every tag. -/
theorem State.forall_accTags {p : Nat → Prop} : (∀ k ∈ s.accTags part n accs, p k) ↔ ∀ a ∈ accs, p (s.accTag part n a) := by
  unfold State.accTags
  simp only [List.mem_eraseDups, List.forall_mem_map]

/-- The accesses of a line of local HBM may be made: no lane of theirs is an orphan, no engine owns the line under a tag of theirs, and a
write is one of the root (03 R92, 05 R142, R149). -/
structure LineFree (s : State) (die part line : Nat) (n : LogEntry) (accs : List Access) : Prop where
  live : ∀ a ∈ accs, s.accLive part n a = true
  free : ∀ a ∈ accs, s.owned die part (s.accTag part n a) line = false
  root : n.op.kind ≠ 0 → ∀ a ∈ accs, s.accTag part n a = 0

theorem LineFree.of_eq (h : LineFree s die part line n accs) (hp : t.parts = s.parts) (hd : t.dies = s.dies) :
    LineFree t die part line n accs where
  live a ha := (State.accLive_of_parts hp).trans (h.live a ha)
  free a ha := by rw [State.owned_of_eq hp hd, State.accTag_of_parts hp, h.free a ha]
  root hk a ha := (State.accTag_of_parts hp).trans (h.root hk a ha)

end

section
variable {s s1 : State} {g : GroupRef} {part pa seq : Nat} {n : LogEntry} {a : Access} {as accs : List Access}

theorem LineFree.dead {die line : Nat} (h : LineFree s die part line n accs) : (accs.filter fun a => !s.accLive part n a) = [] := by
  rw [List.filter_eq_nil_iff]
  intro a ha
  simp [h.live a ha]

theorem LineFree.owned {die line : Nat} (h : LineFree s die part line n accs) :
    ((s.accTags part n accs).any fun t => s.owned die part t line) = false := by
  rw [List.any_eq_false]
  intro k hk
  simpa using (State.forall_accTags (p := fun k => s.owned die part k line = false)).2 h.free k hk

theorem LineFree.flip {die line : Nat} (h : LineFree s die part line n accs) :
    (n.op.kind ≠ 0 && (s.accTags part n accs).any (· ≠ 0) && s.needsFlip pa) = false := by
  by_cases hk : n.op.kind = 0
  · simp [hk]
  · have hroot : ((s.accTags part n accs).any (· ≠ 0)) = false := by
      rw [List.any_eq_false]
      intro k hm
      simpa using (State.forall_accTags (p := fun k => k = 0)).2 (h.root hk) k hm
    rw [hroot, Bool.and_false, Bool.false_and]

theorem MemOp.atHome_of_kind {op : MemOp} (h : op.kind ≠ 2) : op.atHome = false := by
  cases op <;> simp_all [MemOp.kind, MemOp.atHome]

theorem State.any_linePoisoned {die line : Nat} {ks : List Nat} (h : ∀ k ∈ ks, s.linePoisoned die part k line = false) :
    (ks.any fun k => s.linePoisoned die part k line) = false :=
  List.any_eq_false.2 fun k hk => by simp [h k hk]

/-- A store waits for room in its slice, or is performed. -/
theorem LineFree.store_waits (h : LineFree s (dieOf g.core) part (pa / 128) n accs) (hk : n.op.kind = 1)
    (ha : s.allocTags (dieOf g.core) part (pa / 128) (s.accTags part n accs) = .inr s1) : s.hbmLine g part pa seq n accs = .waits s1 := by
  simp only [State.hbmLine, h.dead, h.owned, h.flip, if_pos hk, ha, List.isEmpty_nil, Bool.not_true, Bool.false_eq_true, if_false]

theorem LineFree.store_done (h : LineFree s (dieOf g.core) part (pa / 128) n accs) (hk : n.op.kind = 1)
    (ha : s.allocTags (dieOf g.core) part (pa / 128) (s.accTags part n accs) = .inl s1) :
    s.hbmLine g part pa seq n accs = .done ((s1.hostYields (pa / 128)).writeLine g part (pa / 128) n accs) accs := by
  simp only [State.hbmLine, h.dead, h.owned, h.flip, if_pos hk, ha, List.isEmpty_nil, Bool.not_true, Bool.false_eq_true, if_false]

/-- An access that reads in the slice waits for its fill. -/
theorem LineFree.fetch_waits (h : LineFree s (dieOf g.core) part (pa / 128) n accs) (hk : n.op.kind ≠ 1) (hh : n.op.atHome = false)
    (hw : n.plainWide = false) (hc : s.covered (dieOf g.core) part (pa / 128) n accs = false) :
    s.hbmLine g part pa seq n accs = .waits (s.requestFor g part (pa / 128) n accs) := by
  simp only [State.hbmLine, h.dead, h.owned, h.flip, if_neg hk, hh, hw, hc, List.isEmpty_nil, Bool.not_true, Bool.not_false,
    Bool.false_eq_true, if_false, if_true]

/-- An access that reads a poisoned frame faults. -/
theorem LineFree.poisoned (h : LineFree s (dieOf g.core) part (pa / 128) n accs) (hk : n.op.kind ≠ 1) (hh : n.op.atHome = false)
    (hw : n.plainWide = false) (hc : s.covered (dieOf g.core) part (pa / 128) n accs = true)
    (hp : ((s.accTags part n accs).any fun t => s.linePoisoned (dieOf g.core) part t (pa / 128)) = true) :
    s.hbmLine g part pa seq n accs = .faults (s.logFault g seq 12 0 0) := by
  simp only [State.hbmLine, h.dead, h.owned, h.flip, if_neg hk, hh, hw, hc, hp, List.isEmpty_nil, Bool.not_true,
    Bool.false_eq_true, if_false, if_true]

/-- A load is performed on covered, sound frames. -/
theorem LineFree.load_done (h : LineFree s (dieOf g.core) part (pa / 128) n accs) (hk : n.op.kind = 0)
    (hw : n.plainWide = false) (hc : s.covered (dieOf g.core) part (pa / 128) n accs = true)
    (hp : ((s.accTags part n accs).any fun t => s.linePoisoned (dieOf g.core) part t (pa / 128)) = false) :
    s.hbmLine g part pa seq n accs = .done ((s.accTags part n accs).foldl
      (fun s t => s.touchFrame g part t (pa / 128) n.nc (n.filled.contains (pa / 128))) (s.readLine g part (pa / 128) n accs)) accs := by
  have hh : n.op.atHome = false := MemOp.atHome_of_kind (by omega)
  simp only [State.hbmLine, h.dead, h.owned, h.flip, if_neg (show ¬n.op.kind = 1 by omega), if_neg (show ¬n.op.kind = 2 by omega), hh, hw,
    hc, hp, List.isEmpty_nil, Bool.not_true, Bool.false_eq_true, if_false]

/-- An atomic is performed on covered, sound frames for its first lane. -/
theorem LineFree.atomic_done (h : LineFree s (dieOf g.core) part (pa / 128) n (a :: as)) (hk : n.op.kind = 2) (hh : n.op.atHome = false)
    (hw : n.plainWide = false) (hc : s.covered (dieOf g.core) part (pa / 128) n (a :: as) = true)
    (hp : ((s.accTags part n (a :: as)).any fun t => s.linePoisoned (dieOf g.core) part t (pa / 128)) = false) :
    s.hbmLine g part pa seq n (a :: as) = .done ((s.hostYields (pa / 128)).atomSlice g part (pa / 128) n a) [a] := by
  simp only [State.hbmLine, h.dead, h.owned, h.flip, if_neg (show ¬n.op.kind = 1 by omega), if_pos hk, hh, hw, hc, hp, List.isEmpty_nil,
    Bool.not_true, Bool.false_eq_true, if_false]

end

/-! ### One line of a logged word -/

section
variable {s s1 : State} {g : GroupRef} {e vl pa : Nat} {pte : DWord} {i : Instr} {t : Team} {n : LogEntry} {gone : List Access}

/-- The accesses of a logged word in a virtual line. -/
def LogEntry.inLine (n : LogEntry) (vl : Nat) : List Access := n.accs.filter fun a => a.addr / 128 = vl

/-- A logged word that has accesses left in a line, with its team. -/
structure LoggedLine (g : GroupRef) (e vl : Nat) (s : State) (t : Team) (n : LogEntry) : Prop where
  team : s.team? g = some t
  entry : s.logEntry g e = some n
  some_ : n.inLine vl ≠ []

theorem LoggedLine.isEmpty (h : LoggedLine g e vl s t n) : (n.accs.filter fun a => a.addr / 128 = vl).isEmpty = false :=
  List.isEmpty_eq_false_iff.2 h.some_

theorem LoggedLine.walk (h : LoggedLine g e vl s t n) (ht : s.translate (dieOf g.core) t.bind.part (128 * vl) n.op.kind = .walk) :
    lineEvent g e vl i s = (s.missOn (dieOf g.core) t.bind.part vl (.lane g e vl)).getD (s.post i) := by
  simp only [lineEvent, h.team, h.entry, h.isEmpty, ht, Bool.false_eq_true, if_false]
  cases s.missOn (dieOf g.core) t.bind.part vl (.lane g e vl) <;> rfl

theorem LoggedLine.stalled (h : LoggedLine g e vl s t n) (ht : s.translate (dieOf g.core) t.bind.part (128 * vl) n.op.kind = .stalled) :
    lineEvent g e vl i s = s.post i := by
  simp only [lineEvent, h.team, h.entry, h.isEmpty, ht, Bool.false_eq_true, if_false]

theorem LoggedLine.refused {c : Nat} (h : LoggedLine g e vl s t n)
    (ht : s.translate (dieOf g.core) t.bind.part (128 * vl) n.op.kind = .refused c) :
    lineEvent g e vl i s = s.logFault g e 4 c (128 * vl) := by
  simp only [lineEvent, h.team, h.entry, h.isEmpty, ht, Bool.false_eq_true, if_false]

/-- The state in which a line's accesses are made: its leaf is in the core's cache. -/
def State.atLine (s : State) (g : GroupRef) (t : Team) (vl : Nat) : State := s.coreCaches g.core t.bind.part (128 * vl)

/-- The line lies in local HBM, at a physical address. -/
structure LocalLine (g : GroupRef) (e vl pa : Nat) (pte : DWord) (s : State) (t : Team) (n : LogEntry) : Prop extends LoggedLine g e vl s t n where
  at_ : s.translate (dieOf g.core) t.bind.part (128 * vl) n.op.kind = .at_ pa pte
  hbm : placeOf pa = .hbm

theorem LocalLine.waits (h : LocalLine g e vl pa pte s t n)
    (hl : (s.atLine g t vl).hbmLine g t.bind.part pa e n (n.inLine vl) = .waits s1) :
    lineEvent g e vl i s = s1.post i := by
  unfold LogEntry.inLine State.atLine at hl
  simp only [lineEvent, h.team, h.entry, h.isEmpty, h.at_, h.hbm, hl, Bool.false_eq_true, if_false, if_true]

theorem LocalLine.faults (h : LocalLine g e vl pa pte s t n)
    (hl : (s.atLine g t vl).hbmLine g t.bind.part pa e n (n.inLine vl) = .faults s1) :
    lineEvent g e vl i s = s1 := by
  unfold LogEntry.inLine State.atLine at hl
  simp only [lineEvent, h.team, h.entry, h.isEmpty, h.at_, h.hbm, hl, Bool.false_eq_true, if_false, if_true]

/-- The line's event is delivered again while accesses are left. -/
theorem LocalLine.done (h : LocalLine g e vl pa pte s t n)
    (hl : (s.atLine g t vl).hbmLine g t.bind.part pa e n (n.inLine vl) = .done s1 gone) :
    lineEvent g e vl i s = if gone.length < (n.inLine vl).length then (s1.accsDone g e fun a => gone.contains a).post i
      else s1.accsDone g e fun a => gone.contains a := by
  unfold LogEntry.inLine State.atLine at *
  simp only [lineEvent, h.team, h.entry, h.isEmpty, h.at_, h.hbm, hl, Bool.false_eq_true, if_false, if_true]

theorem LocalLine.done_all (h : LocalLine g e vl pa pte s t n)
    (hl : (s.atLine g t vl).hbmLine g t.bind.part pa e n (n.inLine vl) = .done s1 (n.inLine vl)) :
    lineEvent g e vl i s = s1.accsDone g e fun a => (n.inLine vl).contains a :=
  (h.done hl).trans (if_neg (Nat.lt_irrefl _))

/-- The two events that bring a line of a logged word happen as `lineEvent` says. -/
theorem occurs_lineEvent (hi : i ∈ [Instr.lineDataArrive g e vl, .laneStorePerform g e vl]) : Occurs i s (lineEvent g e vl i s) := by
  simp only [List.mem_cons, List.not_mem_nil, or_false] at hi
  rcases hi with rfl | rfl <;> rfl

theorem State.group?_performed (u : State) : State.group? { u with note := .performed } g = u.group? g := State.group?_of_cores rfl

theorem occursWith_of_happened {p : State → Prop} {u : State} (h : exec i s = happened u) (hp : p { u with note := .performed }) :
    OccursWith i s p := ⟨_, h, rfl, hp⟩

theorem occurs_of_lineEvent {u : State} (hi : i ∈ [Instr.lineDataArrive g e vl, .laneStorePerform g e vl])
    (h : lineEvent g e vl i s = u) : Occurs i s u := h ▸ occurs_lineEvent hi

end

/-! ### What leaves the LLC for the spill area (05 R153) -/

section
variable {s t u : State} {key part tag line n k p : Nat} {e : Extent} {v : Version}

/-- A byte of a spill extent of some partition. -/
def State.extentByte (s : State) (p : Nat) : Prop := ∃ n q, s.part? n = some q ∧ ∃ e ∈ q.extents, e.base ≤ p ∧ p < e.base + e.size

/-- Versions may have left the LLC: of root memory only bytes of extents have changed, and no partition. -/
structure Spilled (s t : State) : Prop where
  parts : t.parts = s.parts
  hbm : ∀ p, ¬s.extentByte p → t.hbm.byte p = s.hbm.byte p

theorem Spilled.of_eq (hp : t.parts = s.parts) (hm : t.hbm = s.hbm) : Spilled s t := ⟨hp, fun _ _ => by rw [hm]⟩

theorem Spilled.trans (h : Spilled s t) (k : Spilled t u) : Spilled s u where
  parts := k.parts.trans h.parts
  hbm p hp := by
    refine (k.hbm p ?_).trans (h.hbm p hp)
    rintro ⟨n, q, hq, he⟩
    exact hp ⟨n, q, (State.part?_of_parts h.parts n).symm.trans hq, he⟩

theorem Spilled.keepsHbm (h : Spilled s t) : KeepsHbm s t := by
  refine fun p hp => h.hbm p ?_
  rintro ⟨n, q, hq, e, he, hin⟩
  exact hp ⟨n, q, hq, e, he, .inl hin⟩

theorem Extent.bucket_lt (e : Extent) (line tag : Nat) : e.bucket line tag < e.buckets := Nat.mod_lt _ (Nat.two_pow_pos _)

theorem State.freeSpillIn_lt (h : s.freeSpillIn e line tag = some n) : n < 8 * e.buckets := by
  obtain ⟨j, hj, rfl⟩ := List.mem_map.1 (List.mem_of_find?_eq_some h)
  have := e.bucket_lt line tag
  have := List.mem_range.1 hj
  omega

theorem State.freeSpill_mem {es : List Extent} {m : Nat} (h : s.freeSpill line tag es m = some (k, e, n)) :
    e ∈ es ∧ n < 8 * e.buckets := by
  induction es generalizing m with
  | nil => cases h
  | cons d ds ih =>
    unfold State.freeSpill at h
    split at h
    · next hn =>
      cases h
      exact ⟨List.mem_cons_self, State.freeSpillIn_lt hn⟩
    · exact ⟨List.mem_cons_of_mem _ (ih h).1, (ih h).2⟩

/-- A version moves into the index and the data region of its extent. -/
theorem Spilled.spillTo {q : Part} (hq : s.part? part = some q) (he : e ∈ q.extents) (hn : n < 8 * e.buckets) :
    Spilled s (s.spillTo part tag line v k e n) where
  parts := rfl
  hbm p hp := by
    have hout : ¬(e.base ≤ p ∧ p < e.base + e.size) := fun h => hp ⟨part, q, hq, e, he, h⟩
    unfold Extent.size at hout
    show Mem.byte ((s.hbm.write 32 (e.entryAt n) _).write 128 (e.slotAt n) _) p = _
    rw [Mem.byte_write_out _ _ _ _ _ (by unfold Extent.slotAt; omega), Mem.byte_write_out _ _ _ _ _ (by unfold Extent.entryAt; omega)]

theorem State.sendInvalidations_eq (w : LineWrite) (x : Nat) :
    ∃ ps, s.sendInvalidations w x = { s with pending := s.pending ++ ps } := by
  unfold State.sendInvalidations
  induction s.sharers w.line generalizing s with
  | nil => exact ⟨[], by simp⟩
  | cons d ds ih =>
    rw [List.foldl_cons]
    split
    · exact ih
    · obtain ⟨ps, hps⟩ := ih (s := s.post (.applyInvalidation d w))
      exact ⟨.applyInvalidation d w :: ps, by rw [hps]; simp [State.post]⟩

theorem Spilled.evictRoot : Spilled s (s.evictRoot key) := by
  obtain ⟨ps, hps⟩ := s.sendInvalidations_eq ⟨keyLine key, 0, 0, ⟨BitVec.allOnes 128, 0⟩, 12, s.applied, false⟩ 12
  unfold State.evictRoot
  rw [hps]
  exact .of_eq rfl rfl

theorem Spilled.evictVersion (h : s.evictVersion key = .inl t) : Spilled s t := by
  unfold State.evictVersion at h
  dsimp only at h
  split at h
  · cases h
    exact .of_eq rfl rfl
  · next v _ =>
    split at h
    · cases h
      exact .of_eq rfl rfl
    · split at h
      · cases h
      · next k e n hfree =>
        cases h
        obtain ⟨q, hq, hf⟩ := Option.bind_eq_some_iff.1 hfree
        obtain ⟨he, hn⟩ := State.freeSpill_mem hf
        have hmoved := Spilled.spillTo (tag := keyTag key) (line := keyLine key) (v := v) (k := k) hq he hn
        exact hmoved.trans (.of_eq rfl rfl)

theorem Spilled.llcInsert {way : Nat} : Spilled s (s.llcInsert part tag line way) := .of_eq rfl rfl

theorem Spilled.llcAlloc (h : s.llcAlloc part tag line = .inl t) : Spilled s t := by
  unfold State.llcAlloc at h
  dsimp only at h
  split at h
  · cases h
    exact .of_eq rfl rfl
  · split at h
    · cases h
      exact .llcInsert
    · split at h
      · cases h
        exact .trans (.of_eq (t := { s with choices := s.choices + 1 }) rfl rfl) (Spilled.evictRoot.trans .llcInsert)
      · split at h
        · cases h
        · split at h
          · cases h
          · next hev =>
            cases h
            exact .trans (.of_eq (t := { s with choices := s.choices + 1 }) rfl rfl) ((Spilled.evictVersion hev).trans .llcInsert)

end

/-! ### Page walks (06 R162 to R167) -/

section
variable {s s1 : State} {die part va v c : Nat}

theorem Spilled.shareTables {ls : List Nat} (h : s.shareTables die part ls = .inl s1) : Spilled s s1 := by
  induction ls generalizing s with
  | nil => cases h; exact .of_eq rfl rfl
  | cons l ls ih =>
    unfold State.shareTables at h
    split at h
    · cases h
    · next s2 ha =>
      have hshared : Spilled s2 (s2.share part 0 l die) := .of_eq rfl rfl
      exact (Spilled.llcAlloc ha).trans (hshared.trans (ih h))

theorem Spilled.insertPointers {ps : List Pointer} : Spilled s (s.insertPointers die ps) := by
  unfold State.insertPointers
  refine List.foldlRecOn ps _ (motive := Spilled s) (.of_eq rfl rfl) fun u hu p _ => hu.trans ?_
  dsimp only
  split
  · exact .of_eq rfl rfl
  · split <;> exact .of_eq rfl rfl

theorem Spilled.insertLeaf {l : Leaf} : Spilled s (s.insertLeaf die l) := by
  unfold State.insertLeaf
  dsimp only
  split <;> exact .of_eq rfl rfl

theorem State.insertLeaf_dies (l : Leaf) : ∃ kept : List Leaf → List Leaf,
    (s.insertLeaf die l).dies = (s.modDie die fun d => { d with tcache := kept d.tcache ++ [l] }).dies := by
  unfold State.insertLeaf
  dsimp only
  split
  · exact ⟨id, rfl⟩
  · exact ⟨fun ls => ls.eraseIdx (Config.choice s.choices % 32768), rfl⟩

theorem State.mem_insertLeaf {l : Leaf} : l ∈ ((s.insertLeaf die l).die die).tcache := by
  obtain ⟨kept, h⟩ := s.insertLeaf_dies (die := die) l
  have hdie : (s.insertLeaf die l).die die = (s.modDie die fun d => { d with tcache := kept d.tcache ++ [l] }).die die := by
    unfold State.die
    rw [h]
  rw [hdie, State.die_modDie]
  exact List.mem_append_right _ (List.mem_singleton.2 rfl)

/-- A walk that has cached a leaf: its table lines are held by their homes, and the walk on the die found the leaf. -/
theorem State.walkOn_cached (h : s.walkOn die part va = .cached s1) : Spilled s s1 ∧
    ∃ pte b tables, s.dieWalk die part va = .leaf pte b tables ∧ ⟨part, va / 2 ^ b, b, pte, tables⟩ ∈ (s1.die die).tcache := by
  unfold State.walkOn at h
  split at h
  · cases h
  · next m table behind hstart =>
    dsimp only at h
    split at h
    · cases h
    · split at h
      · cases h
      · split at h
        · cases h
        · next hshare =>
          split at h
          · cases h
          · next pte b tables hleaf =>
            cases h
            refine ⟨(Spilled.shareTables hshare).trans (.trans .insertPointers .insertLeaf), pte, b, tables, ?_, State.mem_insertLeaf⟩
            unfold State.dieWalk
            rw [hstart]
            exact hleaf

theorem State.walkOn_fault (h : s.walkOn die part va = .fault s1 c) : s.dieWalk die part va = .fault c := by
  unfold State.walkOn at h
  split at h
  · next hstart =>
    cases h
    unfold State.dieWalk
    rw [hstart]
  · next m table behind hstart =>
    dsimp only at h
    split at h
    · cases h
    · split at h
      · cases h
      · split at h
        · cases h
        · split at h
          · next hfault =>
            cases h
            unfold State.dieWalk
            rw [hstart]
            exact hfault
          · cases h

/-- The accesses that have joined the walk of a page. -/
def State.walkers (s : State) (die part v : Nat) : List Waiter :=
  (((s.die die).walks.find? fun y => y.part = part && y.vpage = v).map (·.waiters)).getD []

theorem occurs_walk_waits (h : s.walkOn die part (65536 * v) = .waits s1) : Occurs (walkOf die part v) s (s1.post (walkOf die part v)) := by
  show execTranslationWalk _ _ _ _ _ s = _
  simp only [execTranslationWalk, pageAt_indices, h]
  rfl

theorem occurs_walk_cached (h : s.walkOn die part (65536 * v) = .cached s1) :
    Occurs (walkOf die part v) s ((s.walkers die part v).foldl State.wake (s1.endWalk die part v)) := by
  show execTranslationWalk _ _ _ _ _ s = _
  simp only [execTranslationWalk, pageAt_indices, h]
  rfl

theorem occurs_walk_declined (h : s.walkOn die part (65536 * v) = .fault s1 c) (hc : Config.chihoat s1.choices = none) :
    Occurs (walkOf die part v) s
      ((s.walkers die part v).foldl (fun s w => s.tellDeclined c w) { s1.endWalk die part v with choices := s1.choices + 1 }) := by
  show execTranslationWalk _ _ _ _ _ s = _
  simp only [execTranslationWalk, pageAt_indices, h, hc]
  rfl

theorem occurs_walk_installed {es : List (Nat × DWord)} (h : s.walkOn die part (65536 * v) = .fault s1 c)
    (hc : Config.chihoat s1.choices = some es) (ho : s1.homesOpen die = true) : Occurs (walkOf die part v) s
      ((s.walkers die part v).foldl State.wake
        (State.installEntries { s1.endWalk die part v with choices := s1.choices + 1 } die es)) := by
  show execTranslationWalk _ _ _ _ _ s = _
  simp only [execTranslationWalk, pageAt_indices, h, hc, ho, if_true]
  rfl

end

/-! ### Operand-log replay and `rld` (15 R408, 01 R26) -/

section
variable {s t : State} {g : GroupRef} {e l : Nat} {n : LogEntry} {gone : Access → Bool} {op : MemOp} {accs : List Access} {a : Access}

/-- An entry after accesses are complete (15 R408). -/
def LogEntry.without (gone : Access → Bool) (n : LogEntry) : LogEntry :=
  let rest := n.accs.filter fun a => !gone a
  { n with accs := rest
           done := if n.lowest then (if rest.isEmpty then n.mask else n.done)
             else n.done ||| (n.mask &&& ~~~(maskOf fun l => rest.any fun a => a.lane = l)) }

theorem State.logEntry_modLog {f : LogEntry → LogEntry} (hf : ∀ m, (f m).seq = m.seq) :
    (s.modLog g e f).logEntry g e = (s.logEntry g e).map f := by
  have hfind : ∀ log : List LogEntry, (log.map fun m => if m.seq = e then f m else m).find? (fun m => m.seq = e) =
      (log.find? fun m => m.seq = e).map f := by
    intro log
    induction log with
    | nil => rfl
    | cons m ms ih => by_cases hm : m.seq = e <;> simp [hm, hf, ih]
  unfold State.logEntry State.modLog
  rw [State.group?_modGroup]
  cases s.group? g with
  | none => rfl
  | some x => exact hfind x.log

/-- While accesses are left, the entry stays. -/
theorem State.accsDone_of_left (hn : s.logEntry g e = some n) (hleft : (n.without gone).accs ≠ []) :
    s.accsDone g e gone = s.modLog g e (LogEntry.without gone) := by
  have he : (s.modLog g e (LogEntry.without gone)).logEntry g e = some (n.without gone) := by
    rw [State.logEntry_modLog (f := LogEntry.without gone) fun _ => rfl, hn]
    rfl
  show (match (s.modLog g e (LogEntry.without gone)).logEntry g e with
    | none => s.modLog g e (LogEntry.without gone)
    | some m => if m.accs.isEmpty then (s.modLog g e (LogEntry.without gone)).closeLog g m else s.modLog g e (LogEntry.without gone)) = _
  rw [he]
  exact if_neg (by simpa using hleft)

/-- Where no access is complete, the entry's accesses stay as they are. -/
theorem State.accsDone_none (hn : s.logEntry g e = some n) (hne : n.accs ≠ []) (hg : ∀ a ∈ n.accs, gone a = false) :
    ∃ m, (s.accsDone g e gone).logEntry g e = some m ∧ m.accs = n.accs ∧ m.hyp = n.hyp ∧ (s.accsDone g e gone).parts = s.parts ∧
      (s.accsDone g e gone).hbm = s.hbm ∧ (s.accsDone g e gone).dies = s.dies := by
  have haccs : (n.without gone).accs = n.accs := List.filter_eq_self.2 fun a ha => by simp [hg a ha]
  rw [State.accsDone_of_left hn (by rwa [haccs]), State.logEntry_modLog (f := LogEntry.without gone) fun _ => rfl, hn]
  exact ⟨_, rfl, haccs, rfl, rfl, rfl, rfl⟩

/-- The event by which a line of a logged word is sent. -/
def lineSent (g : GroupRef) (op : MemOp) (e l : Nat) : Instr :=
  match op with
  | .store _ => .laneStorePerform g e l
  | .rld _ _ _ _ _ => .rldFill g e
  | _ => .lineDataArrive g e l

theorem lineSent_cases (g : GroupRef) (op : MemOp) (e l : Nat) :
    lineSent g op e l = .laneStorePerform g e l ∨ lineSent g op e l = .rldFill g e ∨ lineSent g op e l = .lineDataArrive g e l := by
  cases op <;> simp [lineSent]

theorem State.sendLine_eq : s.sendLine g op e l = s.postOnce (lineSent g op e l) := by
  cases op <;> rfl

/-- Sending lines posts their events, and changes neither HBM nor a die. -/
theorem State.foldl_sendLine (ls : List Nat) (s : State) :
    let u := ls.foldl (fun s l => s.sendLine g op e l) s
    u.hbm = s.hbm ∧ u.dies = s.dies ∧ (∀ i ∈ s.pending, i ∈ u.pending) ∧ ∀ l ∈ ls, lineSent g op e l ∈ u.pending := by
  induction ls generalizing s with
  | nil => simp
  | cons l ls ih =>
    obtain ⟨hhbm, hdies, hold, hnew⟩ := ih (s.sendLine g op e l)
    rw [State.sendLine_eq] at hhbm hdies hold hnew
    simp only [List.foldl_cons, State.sendLine_eq (s := s)]
    refine ⟨hhbm.trans (by simp), hdies.trans (by simp), fun i hi => hold i (State.mem_postOnce_of_mem hi), fun k hk => ?_⟩
    rcases List.mem_cons.1 hk with rfl | hk
    · exact hold _ (State.mem_postOnce _ _)
    · exact hnew k hk

theorem mem_linesOf (ha : a ∈ accs) : a.addr / 128 ∈ linesOf accs := by
  have keeps : ∀ (accs : List Access) (ls : List Nat), (∀ l ∈ ls, l ∈ accs.foldl (fun ls a => if ls.contains (a.addr / 128) then ls
      else ls ++ [a.addr / 128]) ls) ∧ ∀ a ∈ accs, a.addr / 128 ∈ accs.foldl (fun ls a => if ls.contains (a.addr / 128) then ls
      else ls ++ [a.addr / 128]) ls := by
    intro accs
    induction accs with
    | nil => simp
    | cons b bs ih =>
      intro ls
      obtain ⟨hold, hnew⟩ := ih (if ls.contains (b.addr / 128) then ls else ls ++ [b.addr / 128])
      refine ⟨fun l hl => hold l (by split <;> simp [hl]), fun a ha => ?_⟩
      rcases List.mem_cons.1 ha with rfl | ha
      · exact hold _ (by split <;> simp_all)
      · exact hnew a ha
  exact (keeps accs []).2 a ha

/-- A replay of a word with no lane done and no orphan among its lanes sends every line again. -/
theorem occursWith_replay {tm : Team} (ht : s.team? g = some tm) (hn : s.logEntry g e = some n) (hne : n.accs ≠ []) (hd : n.done = 0)
    (hlive : ∀ a ∈ n.accs, s.accLive tm.bind.part n a = true) :
    OccursWith (.operandLogReplay g e) s fun u => u.hbm = s.hbm ∧ u.dies = s.dies ∧ ∀ a ∈ n.accs, ∃ i ∈ u.pending,
      i = .laneStorePerform g e (a.addr / 128) ∨ i = .rldFill g e ∨ i = .lineDataArrive g e (a.addr / 128) := by
  obtain ⟨m, hm, haccs, hhyp, hparts, hhbm, hdies⟩ :=
    State.accsDone_none (gone := fun a => n.done.getLsbD a.lane) hn hne fun a _ => by simp [hd]
  have horphan : (m.accs.any fun a => !(s.accsDone g e fun a => n.done.getLsbD a.lane).accLive tm.bind.part m a) = false := by
    rw [haccs, List.any_eq_false]
    intro a ha
    have hl : s.accLive tm.bind.part m a = true := by
      unfold State.accLive
      rw [hhyp]
      exact hlive a ha
    rw [State.accLive_of_parts hparts, hl]
    decide
  obtain ⟨hhbm', hdies', -, hsent⟩ := State.foldl_sendLine (g := g) (op := m.op) (e := e) (linesOf m.accs)
    (s.accsDone g e fun a => n.done.getLsbD a.lane)
  refine occursWith_of_happened (u := (linesOf m.accs).foldl (fun s l => s.sendLine g m.op e l)
    (s.accsDone g e fun a => n.done.getLsbD a.lane)) ?_ ⟨hhbm'.trans hhbm, hdies'.trans hdies, fun a ha => ?_⟩
  · show execOperandLogReplay g e s = _
    simp only [execOperandLogReplay, ht, hn, hm, horphan, Bool.false_eq_true, if_false]
  · exact ⟨_, hsent _ (mem_linesOf (haccs ▸ ha)), lineSent_cases g m.op e _⟩

end

/-! ### What is delivered for a logged word (01 R26, 15 R402, R408) -/

section
variable {s : State} {g : GroupRef} {e num qd : Nat} {t : Team} {x : Group} {n : LogEntry} {f : LogFault} {a : Access} {as : List Access}
  {tensor : Bool} {img : BitVec 512}

/-- `rld` with an image that the record cache held, or that the scratchpad holds. -/
theorem occurs_rldFill_hit {loc : Bool} (ht : s.team? g = some t) (hn : s.logEntry g e = some n) (ha : n.accs = a :: as)
    (ho : n.op = .rld qd tensor loc num (some img)) : Occurs (.rldFill g e) s (s.rldDone g t n qd tensor img) := by
  show execRldFill g e s = _
  simp only [execRldFill, ht, hn, ho, ha]
  rfl

theorem occurs_rldFill_poisoned (ht : s.team? g = some t) (hn : s.logEntry g e = some n) (ha : n.accs = a :: as)
    (ho : n.op = .rld qd tensor true num none) (hp : s.scratchPoisoned g.core (if tensor then 64 else 32) (t.bind.spbase + a.addr) = true) :
    Occurs (.rldFill g e) s (s.logFault g e 12 0 0) := by
  show execRldFill g e s = _
  simp only [execRldFill, ht, hn, ho, ha, hp, if_true]
  rfl

theorem occurs_rldFill_local (ht : s.team? g = some t) (hn : s.logEntry g e = some n) (ha : n.accs = a :: as)
    (ho : n.op = .rld qd tensor true num none) (hp : s.scratchPoisoned g.core (if tensor then 64 else 32) (t.bind.spbase + a.addr) = false)
    (hi : img = BitVec.ofNat 512 (s.scratchRead g.core (if tensor then 64 else 32) (t.bind.spbase + a.addr))) :
    Occurs (.rldFill g e) s ((s.installRecord g.core num ⟨true, a.addr, tensor, img⟩).rldDone g t n qd tensor img) := by
  subst hi
  show execRldFill g e s = _
  simp only [execRldFill, ht, hn, ho, ha, hp, if_true, Bool.false_eq_true, if_false]
  rfl

/-- A fault of a group that waits is delivered again. -/
theorem waits_trapDeliver (ht : s.team? g = some t) (hx : s.group? g = some x) (hn : s.logEntry g e = some n) (hf : n.fault = some f)
    (hw : x.wait ≠ .none) : Waits (.trapDeliver g e) s := by
  show execTrapDeliver g e s = _
  simp only [execTrapDeliver, ht, hx, hn, hf, if_pos hw]
  rfl

/-- A fault that neither kills the team nor retires orphans is a trap of the lowest lane not done. -/
theorem occurs_trapDeliver (ht : s.team? g = some t) (hx : s.group? g = some x) (hn : s.logEntry g e = some n) (hf : n.fault = some f)
    (hw : x.wait = .none) (hp : f.cls ≠ 12 ∨ s.policyB t.bind.part = false) (hl : x.frontier ≠ [] ∨ x.aside ≠ [] ∨ x.handler ≠ none)
    (ho : f.cls ≠ 11 ∨ x.trapv.getLsbD 57 = true) : Occurs (.trapDeliver g e) s
      (s.takeTrap g ⟨f.cls, f.cause, some (lowestLane (n.mask &&& ~~~n.done)), f.addr, 0, false, 0⟩
        ⟨x.current.getD noEntry, n.mask, n.done, n.pc.toNat, n.pc.toNat + 4, false, some n.slot⟩) := by
  have hkill : ¬(f.cls = 12 ∧ s.policyB t.bind.part = true) := by
    rintro ⟨hc, hb⟩
    rcases hp with h | h <;> simp_all
  have hgone : ¬(x.frontier.isEmpty && x.aside.isEmpty && x.handler.isNone) = true := by
    simp only [Bool.and_eq_true, List.isEmpty_iff, Option.isNone_iff_eq_none]
    tauto
  have horphan : ¬(f.cls = 11 ∧ (!x.trapv.getLsbD 57) = true) := by
    rintro ⟨hc, hb⟩
    rcases ho with h | h <;> simp_all
  show execTrapDeliver g e s = _
  simp only [execTrapDeliver, ht, hx, hn, hf, if_neg (show ¬x.wait ≠ .none from not_not.2 hw), if_neg hkill, if_neg hgone, if_neg horphan]
  rfl

end

/-! ### Late faults (15 R409 to R411) -/

section
variable {s : State} {g : GroupRef} {line : Nat} {t : Team} {x : Group}

theorem Group.fretDown_idem (x : Group) (f : Option Nat) (st : BitVec 2) :
    (x.fretDown f st).idem = x.idem ∧ (x.fretDown f st).idemKey = x.idemKey ∧ (x.fretDown f st).idemCtr = x.idemCtr := by
  cases f <;> exact ⟨rfl, rfl, rfl⟩

/-- Words that are given up leave the recorded region (15 R411). -/
theorem Group.forget_idem (x : Group) : x.forget.idem = x.idem ∧ x.forget.idemKey = x.idemKey ∧ x.forget.idemCtr = x.idemCtr := by
  have keeps : ∀ (fs : List (Option Nat)) (x : Group), let y := fs.foldl (fun x f => x.fretDown f 0) x
      y.idem = x.idem ∧ y.idemKey = x.idemKey ∧ y.idemCtr = x.idemCtr := by
    intro fs
    induction fs with
    | nil => exact fun _ => ⟨rfl, rfl, rfl⟩
    | cons f fs ih =>
      intro x
      obtain ⟨h1, h2, h3⟩ := ih (x.fretDown f 0)
      obtain ⟨k1, k2, k3⟩ := x.fretDown_idem f 0
      exact ⟨h1.trans k1, h2.trans k2, h3.trans k3⟩
  exact keeps _ x

/-- A group with its engines idle and its words given up, about to go back. -/
def Group.givenUp (x : Group) : Group := { x.forget with wait := .rollback }

/-- A group that has gone back to its recorded region (15 R411). -/
structure WentBack (entry : Nat) (x y : Group) : Prop where
  frontier : ∃ e, y.frontier = [e] ∧ e.pc = BitVec.ofNat 56 (entry + 12 * (x.idem.extractLsb' 32 24).toNat) ∧ e.mask = x.idem.setWidth 32 ∧
    e.gmask = 0 ∧ e.pri = x.idem.extractLsb' 56 6
  rest : y.handler = none ∧ y.aside = [] ∧ y.lcur = 32
  streams : ∀ l, (x.idem.setWidth 32 : Lanes).getLsbD l = true → y.keyOf l = x.idemKey.get 0 l ∧ y.ctrOf l = x.idemCtr.get 0 l

/-- Keys that are written one after the other read as they were written. -/
theorem Tbl.get_foldl_set {α : Type} [DecidableEq α] (d : α) (f : Nat → α) (ls : List Nat) (t : Tbl α) (l : Nat) (hl : l ∈ ls) :
    Tbl.get d (ls.foldl (fun t l => t.set d l (f l)) t) l = f l := by
  have hlast : ∀ (ls : List Nat) (t : Tbl α), Tbl.get d (ls.foldl (fun t l => t.set d l (f l)) t) l = if l ∈ ls then f l else t.get d l := by
    intro ls
    induction ls with
    | nil => simp
    | cons k ks ih =>
      intro t
      rw [List.foldl_cons, ih]
      by_cases hk : l ∈ ks
      · simp [hk]
      · by_cases he : l = k
        · simp [he]
        · simp [hk, he, Tbl.get_set_ne _ _ _ _ _ he]
  rw [hlast, if_pos hl]

theorem State.rolledBack_wentBack {entry : Nat} {y : Group} (hy : s.group? g = some y) (hm : y.idem.setWidth 32 ≠ (0 : Lanes)) :
    ∃ z, (s.rolledBack g entry).group? g = some z ∧ WentBack entry y z := by
  unfold State.rolledBack
  rw [State.group?_modGroup, hy]
  refine ⟨_, rfl, ⟨_, if_neg hm, rfl, rfl, rfl, rfl⟩, ⟨rfl, rfl, rfl⟩, fun l hl => ⟨?_, ?_⟩⟩
  · exact Tbl.get_foldl_set 0 (fun l => y.idemKey.get 0 l) _ _ l ((mem_lanesOf _ l).2 hl)
  · exact Tbl.get_foldl_set 0 (fun l => y.idemCtr.get 0 l) _ _ l ((mem_lanesOf _ l).2 hl)

theorem State.enginesBusy_of_core {s t : State} (hcmds : (t.core g.core).cmds = (s.core g.core).cmds)
    (hchains : (t.core g.core).chains = (s.core g.core).chains) : t.enginesBusy g = s.enginesBusy g := by
  unfold State.enginesBusy
  rw [hcmds, hchains]

theorem State.enginesBusy_modGroup {f : Group → Group} : (s.modGroup g f).enginesBusy g = s.enginesBusy g := by
  have hcore : ∀ (k : Core) (n : Nat) (f : Team → Team), (k.modTeam n f).cmds = k.cmds ∧ (k.modTeam n f).chains = k.chains := by
    intro k n f
    unfold Core.modTeam
    split <;> exact ⟨rfl, rfl⟩
  exact State.enginesBusy_of_core (State.core_modCore_keeps (·.cmds) fun k => (hcore k _ _).1)
    (State.core_modCore_keeps (·.chains) fun k => (hcore k _ _).2)

/-- A late fault of a team under policy A without a recorded region kills it. -/
theorem occurs_lateFault_kill (ht : s.team? g = some t) (hx : s.group? g = some x) (hb : s.policyB t.bind.part = false) (hl : 96 ≤ line)
    (hi : x.idem.getLsbD 63 = false) : Occurs (.lateFault g line) s (s.killTeam g.core g.slot 1) := by
  show execLateFault g line s = _
  simp only [execLateFault, ht, hx, hb, hi, if_neg (show ¬line < 96 by omega), if_true, Bool.false_eq_true, if_false]
  rfl

/-- With a recorded region the group goes back, once its engines are idle. -/
theorem occurs_lateFault_back (ht : s.team? g = some t) (hx : s.group? g = some x) (hb : s.policyB t.bind.part = false) (hl : 96 ≤ line)
    (hlog : x.log = []) (hi : x.idem.getLsbD 63 = true) (he : s.enginesBusy g = false) :
    Occurs (.lateFault g line) s (((s.dropTail g).modGroup g Group.givenUp).rolledBack g t.bind.entry) := by
  have hbusy : ((s.dropTail g).modGroup g fun x => { x.forget with wait := .rollback }).enginesBusy g = false := by
    rw [State.enginesBusy_modGroup, ← he]
    exact State.enginesBusy_of_core (State.core_modCore_keeps (·.cmds) fun _ => rfl) (State.core_modCore_keeps (·.chains) fun _ => rfl)
  show execLateFault g line s = _
  simp only [execLateFault, ht, hx, hb, hi, hlog, if_neg (show ¬line < 96 by omega), ite_self, List.foldl_nil, hbusy, Bool.false_eq_true,
    Bool.true_eq_false, if_false]
  rfl

end

/-! ### The obligation -/

section
variable {g : GroupRef} {e vl pa : Nat} {pte : DWord} {i : Instr} {s s1 : State} {t : Team} {n : LogEntry} {a : Access} {as : List Access}

/-- A line of a logged word that stands in local HBM and whose accesses may be made, for one of its two events. -/
structure LineReady (g : GroupRef) (e vl pa : Nat) (pte : DWord) (i : Instr) (s : State) (t : Team) (n : LogEntry) : Prop
    extends LocalLine g e vl pa pte s t n where
  event : i ∈ [Instr.lineDataArrive g e vl, .laneStorePerform g e vl]
  live : ∀ a ∈ n.inLine vl, s.accLive t.bind.part n a = true
  free : ∀ a ∈ n.inLine vl, s.owned (dieOf g.core) t.bind.part (s.accTag t.bind.part n a) (pa / 128) = false

/-- The accesses may still be made when the core has cached the leaf. -/
theorem LineReady.lineFree (h : LineReady g e vl pa pte i s t n) (hroot : n.op.kind ≠ 0 → ∀ a ∈ n.inLine vl, s.accTag t.bind.part n a = 0) :
    LineFree (s.atLine g t vl) (dieOf g.core) t.bind.part (pa / 128) n (n.inLine vl) :=
  LineFree.of_eq ⟨h.live, h.free, hroot⟩ (s.coreCaches_parts ..) (s.coreCaches_dies ..)

/-- A store waits for room in its slice, or is performed. -/
theorem LineReady.store (h : LineReady g e vl pa pte i s t n) (hk : n.op.kind = 1) (hroot : ∀ a ∈ n.inLine vl, s.accTag t.bind.part n a = 0) :
    (∀ s1, (s.atLine g t vl).allocTags (dieOf g.core) t.bind.part (pa / 128) ((s.atLine g t vl).accTags t.bind.part n (n.inLine vl)) = .inr s1 →
      Occurs i s (s1.post i)) ∧
    ∀ s1, (s.atLine g t vl).allocTags (dieOf g.core) t.bind.part (pa / 128) ((s.atLine g t vl).accTags t.bind.part n (n.inLine vl)) = .inl s1 →
      Occurs i s (((s1.hostYields (pa / 128)).writeLine g t.bind.part (pa / 128) n (n.inLine vl)).accsDone g e fun a => (n.inLine vl).contains a) :=
  have hf := h.lineFree fun _ => hroot
  ⟨fun _ ha => occurs_of_lineEvent h.event (h.waits (hf.store_waits hk ha)),
    fun _ ha => occurs_of_lineEvent h.event (h.done_all (hf.store_done hk ha))⟩

/-- A load waits for its fill, faults on poison, or is performed. -/
theorem LineReady.load (h : LineReady g e vl pa pte i s t n) (hk : n.op.kind = 0) (hw : n.plainWide = false) :
    let s0 := s.atLine g t vl
    let tags := s0.accTags t.bind.part n (n.inLine vl)
    (s0.covered (dieOf g.core) t.bind.part (pa / 128) n (n.inLine vl) = false →
      Occurs i s ((s0.requestFor g t.bind.part (pa / 128) n (n.inLine vl)).post i)) ∧
    (s0.covered (dieOf g.core) t.bind.part (pa / 128) n (n.inLine vl) = true →
      (∀ k ∈ tags, s0.linePoisoned (dieOf g.core) t.bind.part k (pa / 128) = true → Occurs i s (s0.logFault g e 12 0 0)) ∧
      ((∀ k ∈ tags, s0.linePoisoned (dieOf g.core) t.bind.part k (pa / 128) = false) → Occurs i s
        ((tags.foldl (fun s k => s.touchFrame g t.bind.part k (pa / 128) n.nc (n.filled.contains (pa / 128)))
          (s0.readLine g t.bind.part (pa / 128) n (n.inLine vl))).accsDone g e fun a => (n.inLine vl).contains a))) := by
  have hf := h.lineFree fun h0 => absurd hk h0
  have h1 : n.op.kind ≠ 1 := by omega
  have hh : n.op.atHome = false := MemOp.atHome_of_kind (by omega)
  refine ⟨fun hc => ?_, fun hc => ⟨fun k hm hp => ?_, fun hp => ?_⟩⟩
  · exact occurs_of_lineEvent h.event (h.waits (hf.fetch_waits h1 hh hw hc))
  · exact occurs_of_lineEvent h.event (h.faults (hf.poisoned h1 hh hw hc (List.any_eq_true.2 ⟨k, hm, hp⟩)))
  · exact occurs_of_lineEvent h.event (h.done_all (hf.load_done hk hw hc (State.any_linePoisoned hp)))

/-- An atomic in the slice is performed for its first lane, and its event delivered again for the others. -/
theorem LineReady.atomic (h : LineReady g e vl pa pte i s t n) (hl : n.inLine vl = a :: as) (hk : n.op.kind = 2) (hh : n.op.atHome = false)
    (hw : n.plainWide = false) (hroot : ∀ a ∈ n.inLine vl, s.accTag t.bind.part n a = 0)
    (hc : (s.atLine g t vl).covered (dieOf g.core) t.bind.part (pa / 128) n (n.inLine vl) = true)
    (hp : ∀ k ∈ (s.atLine g t vl).accTags t.bind.part n (n.inLine vl),
      (s.atLine g t vl).linePoisoned (dieOf g.core) t.bind.part k (pa / 128) = false) :
    let s1 := (((s.atLine g t vl).hostYields (pa / 128)).atomSlice g t.bind.part (pa / 128) n a).accsDone g e fun b => [a].contains b
    Occurs i s (if as = [] then s1 else s1.post i) := by
  have hf := h.lineFree fun _ => hroot
  have hend := h.done (i := i) (s1 := ((s.atLine g t vl).hostYields (pa / 128)).atomSlice g t.bind.part (pa / 128) n a) (gone := [a])
  rw [hl] at hf hc hp hend
  refine occurs_of_lineEvent h.event ((hend (hf.atomic_done hk hh hw hc (State.any_linePoisoned hp))).trans ?_)
  cases as <;> simp

end

/-- Settles O46: the line of a logged word case by case, the walk's end, the replay, `rld`, the fault's delivery and the late fault. -/
theorem loggedWordEvents : Obligations.LoggedWordEvents := by
  refine ⟨fun g e vl s t n ht hn => ?_, fun die part v s => ?_, fun g e s t n ht hn hne hd _ hlive => occursWith_replay ht hn hne hd hlive,
    fun g e s t n qd tensor num a as ht hn ha => ⟨fun img ho => occurs_rldFill_hit ht hn ha ho,
      fun ho hp => occurs_rldFill_poisoned ht hn ha ho hp, fun ho hp => occurs_rldFill_local ht hn ha ho hp rfl⟩,
    fun g e s t x n f ht hx hn hf => ⟨waits_trapDeliver ht hx hn hf, occurs_trapDeliver ht hx hn hf⟩,
    fun g line s t x ht hx hb hl hlog => ⟨occurs_lateFault_kill ht hx hb hl, fun hi hm he => ?_⟩⟩
  · intro accs die hne i hi
    have hline : LoggedLine g e vl s t n := ⟨ht, hn, hne⟩
    refine ⟨fun h => occurs_of_lineEvent hi (hline.walk h), fun h => occurs_of_lineEvent hi (hline.stalled h),
      fun c h => occurs_of_lineEvent hi (hline.refused h), fun pa pte hat hpl hlive hfree => ?_⟩
    have hr : LineReady g e vl pa pte i s t n := ⟨⟨hline, hat, hpl⟩, hi, hlive, hfree⟩
    exact ⟨hr.store, hr.load, fun a as hl hk hh hw hroot hc hp => hr.atomic hl hk hh hw hroot hc hp⟩
  · refine ⟨fun s1 h => occurs_walk_waits h, fun s1 h => ?_, fun s1 c h =>
      ⟨State.walkOn_fault h, occurs_walk_declined h, fun es hc ho => occurs_walk_installed h hc ho⟩⟩
    obtain ⟨hspilled, hleaf⟩ := State.walkOn_cached h
    exact ⟨occurs_walk_cached h, hspilled.keepsHbm, hleaf⟩
  · obtain ⟨k1, k2, k3⟩ := x.forget_idem
    have hgroup : ((s.dropTail g).modGroup g Group.givenUp).group? g = some x.givenUp := by
      have hkeep : (s.dropTail g).group? g = s.group? g := State.group?_modCore fun _ => rfl
      rw [State.group?_modGroup, hkeep, hx]
      rfl
    obtain ⟨y, hy, ⟨e, hfront, hpc, hmask, hgmask, hpri⟩, ⟨hhandler, haside, hlcur⟩, hstreams⟩ :=
      State.rolledBack_wentBack (entry := t.bind.entry) hgroup (by rwa [Group.givenUp, k1])
    simp only [Group.givenUp, k1, k2, k3] at hpc hmask hpri hstreams
    exact occursWith_of_happened (occurs_lateFault_back ht hx hb hl hlog hi he)
      ⟨y, e, (State.group?_performed _).trans hy, hfront, hpc, hmask, hgmask, hpri, hhandler, haside, hlcur, fun l h => hstreams l (hmask ▸ h)⟩

end Sys2Proof.Machine
end

section
/-! # A fill that changes root memory outside the spill area (O45)

The last clause of the statement bounds neither the line nor the tag of a fill, and says that root memory is kept but for bytes of the spill
area. A key holds 45 bits of line and 12 of tag, so a larger line number names lines of another partition: the LLC evicts a version to the
extents of the partition in its key, and reads it back through the extents of the partition that asked. -/

namespace Sys2Proof.Machine

theorem State.pick_singleton {α : Type} (s : State) (x : α) : s.pick [x] = some x := by
  unfold State.pick
  rw [List.length_singleton, Nat.mod_one]
  rfl

/-- A full set whose one candidate is a version gives up that version (03 R83). -/
theorem State.llcAlloc_evictVersion {s t : State} {part tag line key : Nat} {x : LlcTag}
    (habsent : (s.llc.get none (lineKey part tag line)).isSome = false)
    (hfull : ((s.openWays (((s.part? part).map (·.llcways)).getD 0xFFFF) (384 + homeDie line) (llcSet line)).find? fun w =>
      (s.llcSetTags line).all fun kt => kt.2.way ≠ w) = none)
    (hone : ((s.llcSetTags line).filter fun kt => (s.openWays (((s.part? part).map (·.llcways)).getD 0xFFFF) (384 + homeDie line)
      (llcSet line)).contains kt.2.way && kt.2.xdie = 15) = [(key, x)])
    (hstate : x.state = 3) (hev : { s with choices := s.choices + 1 }.evictVersion key = .inl t) :
    s.llcAlloc part tag line = .inl (t.llcInsert part tag line x.way) := by
  have hnone : s.pick ([(key, x)].filter fun kt => kt.2.state ≠ 3) = none := by
    rw [List.filter_cons_of_neg (by simpa using hstate)]
    rfl
  simp only [State.llcAlloc, habsent, hfull, hone, hnone, State.pick_singleton, hev, Bool.false_eq_true, if_false]

theorem State.readBack_spilled {s t : State} {part tag line : Nat} {v : Version} (hv : s.versions.get none (lineKey part tag line) = some v)
    (hs : v.spill.isNone = false) (ha : s.llcAlloc part tag line = .inl t) : s.readBack part tag line = .inl (t.unspill part tag line) := by
  simp only [State.readBack, hv, hs, ha, Bool.false_eq_true, if_false]

/-- A line number beyond physical memory: with partition 0 its keys are those of line 5 of partition 1. -/
def strayLine : Nat := 2 ^ 57 + 5

/-- Partition 0: one way of the LLC, one extent of one bucket, and the path 2, 1, 0. -/
def narrowPart : Part :=
  { placePart with
    llcways := 1, extents := [⟨0x100000, 0⟩]
    hyp := [(0, HypEntry.root), (1, { HypEntry.free with state := 1, depth := 1 }),
      (2, { HypEntry.free with state := 1, depth := 2, parent := 1 })] }

/-- Partition 1: one extent of eight buckets. -/
def widePart : Part := { placePart with extents := [⟨0x200000, 3⟩] }

/-- The home's tag of a version in the way that partition 0 uses. -/
def versionTag : LlcTag := ⟨0, 15, 3, false, 0⟩

/-- Root memory `m`, the root line in a way that partition 0 does not use, the versions under tags `held` in the way that it uses, and where
the versions under tags 1 and 2 are spilled. -/
def crossing (m : Mem) (held : List Nat) (one two : Option (Nat × Nat)) (choices : Nat) : State :=
  { State.reset with
    parts := [(0, some narrowPart), (1, some widePart)]
    hbm := m
    llc := (lineKey 0 0 strayLine, some ⟨0, 15, 1, false, 1⟩) :: held.map fun t => (lineKey 0 t strayLine, some versionTag)
    versions := [(lineKey 0 1 strayLine, some ⟨⟨1, 0⟩, false, one⟩), (lineKey 0 2 strayLine, some ⟨⟨1, 0⟩, false, two⟩)]
    choices := choices }

/-- A byte of root memory behind partition 0's extent, where an entry 40 of the extent would end. -/
def strayByte : Nat := 0x100507

/-- Root memory before the fill. -/
def memBefore : Mem := [(strayByte, 0x80)]

/-- The index entry of version 1 in partition 1's extent, entry 40. -/
def entryOne : Mem := [(0x200500, 5), (0x200505, 0x20), (0x200507, 0x80), (0x200510, 1)]

/-- The index entry of version 2 there, entry 41. -/
def entryTwo : Mem := [(0x200520, 5), (0x200525, 0x40), (0x200527, 0x80), (0x200530, 1)]

/-- Version 2 is spilled, version 1 is held. -/
def crossing0 : State := crossing memBefore [1] none (some (0, 0)) 0

/-- Version 2 has come back in the place of version 1, which the home spilled to partition 1's extent. -/
def crossing1 : State := crossing (memBefore ++ entryOne) [2] (some (0, 40)) none 1

/-- Version 1 has come back in its turn, by way of partition 0's extent. -/
def crossing2 : State := crossing (entryOne ++ entryTwo) [1] none (some (0, 41)) 2

set_option maxRecDepth 4000 in
theorem readBack_crossing0 : crossing0.readBack 0 2 strayLine = .inl crossing1 := by
  have hev : { crossing0 with choices := 1 }.evictVersion (lineKey 0 1 strayLine) =
      .inl (crossing (memBefore ++ entryOne) [] (some (0, 40)) (some (0, 0)) 1) := rfl
  refine (State.readBack_spilled rfl rfl
    (State.llcAlloc_evictVersion (x := versionTag) (by decide) (by decide) (by decide) rfl hev)).trans ?_
  rfl

set_option maxRecDepth 4000 in
theorem readBack_crossing1 : crossing1.readBack 0 1 strayLine = .inl crossing2 := by
  have hev : { crossing1 with choices := 2 }.evictVersion (lineKey 0 2 strayLine) =
      .inl (crossing (memBefore ++ entryOne ++ entryTwo) [] (some (0, 40)) (some (0, 41)) 2) := rfl
  refine (State.readBack_spilled rfl rfl
    (State.llcAlloc_evictVersion (x := versionTag) (by decide) (by decide) (by decide) rfl hev)).trans ?_
  rfl

theorem State.fillFrame_hbm (s : State) (die part tag line : Nat) (need : LineMask) : (s.fillFrame die part tag line need).hbm = s.hbm := by
  unfold State.fillFrame
  rw [State.modDie_hbm]
  exact List.foldlRecOn _ _ (motive := fun u : State => u.hbm = s.hbm) rfl fun u hu t _ => hu

/-- The fill of the path 2, 1, 0 clears the byte behind the extent. -/
theorem fill_crossing0 : ∃ t, crossing0.fill 0 0 2 strayLine 1 = .inl t ∧ t.hbm.byte strayByte = 0 := by
  have hpath : crossing0.readBackPath 0 strayLine (crossing0.pathOf 0 2) = .inl crossing2 := by
    have hlast : crossing2.readBack 0 0 strayLine = .inl crossing2 := rfl
    rw [show crossing0.pathOf 0 2 = [2, 1, 0] by decide]
    simp only [State.readBackPath, readBack_crossing0, readBack_crossing1, hlast]
  have hroot : crossing2.llcAlloc 0 0 strayLine = .inl crossing2 := if_pos (by decide)
  obtain ⟨t, hl2, hm⟩ : ∃ t, crossing2.l2Alloc 0 0 2 strayLine = .inl t ∧ t.hbm = crossing2.hbm := ⟨_, rfl, rfl⟩
  have hfill : crossing0.fill 0 0 2 strayLine 1 =
      .inl ((t.fillFrame 0 0 2 strayLine 1).modDie 0 fun d => { d with clock := clockMax d.clock crossing0.applied }) := by
    simp only [State.fill, hpath, hroot, hl2]
  refine ⟨_, hfill, ?_⟩
  rw [State.modDie_hbm, State.fillFrame_hbm, hm]
  decide

/-- No extent holds the byte, and no version's index entry does. -/
theorem not_spillByte_strayByte : ¬spillByte crossing0 strayByte := by
  have hparts : ∀ n q, crossing0.part? n = some q → ∀ e ∈ q.extents, e = ⟨0x100000, 0⟩ ∨ e = ⟨0x200000, 3⟩ := by
    intro n q hq e he
    have hn : crossing0.part? n = if 0 = n then some narrowPart else if 1 = n then some widePart else none := rfl
    rw [hn] at hq
    split at hq
    · cases hq
      exact .inl (List.mem_singleton.1 he)
    · split at hq
      · cases hq
        exact .inr (List.mem_singleton.1 he)
      · cases hq
  have hspills : ∀ kv ∈ crossing0.versions, ∀ v k m, kv.2 = some v → v.spill = some (k, m) → m = 0 := by
    intro kv hkv v k m hv hs
    simp only [crossing0, crossing, List.mem_cons, List.not_mem_nil, or_false] at hkv
    rcases hkv with rfl | rfl <;> cases hv <;> cases hs
    rfl
  rintro ⟨n, q, hq, e, he, hin | ⟨kv, hkv, v, k, m, hv, hs, hin⟩⟩
  · rcases hparts n q hq e he with rfl | rfl <;> exact absurd hin (by decide)
  · obtain rfl := hspills kv hkv v k m hv hs
    rcases hparts n q hq e he with rfl | rfl <;> exact absurd hin (by decide)

/-- Refutes O45: with the line number 2^57 + 5 the versions that partition 0 reads have keys of partition 1's line 5. A fill of the path
2, 1, 0 makes room for version 2 by spilling version 1 to entry 40 of partition 1's extent, and then reads version 1 back through partition
0's extent, which ends before an entry 40: a byte of root memory behind it changes. -/
theorem not_coherenceEvents : ¬Obligations.CoherenceEvents := by
  rintro ⟨-, -, -, -, -, -, -, -, -, -, -, -, -, -, -, -, hfills⟩
  obtain ⟨t, hfill, hbyte⟩ := fill_crossing0
  obtain ⟨-, hkeeps, -⟩ := (hfills 0 0 strayLine 2 1 crossing0 (by decide) (by decide)).2 t hfill
  have hsame := hkeeps strayByte not_spillByte_strayByte
  rw [hbyte] at hsame
  exact absurd hsame (by decide)

end Sys2Proof.Machine
end

section
/-! # The fence words (O20)

A `fence` ends at issue with `State.fenceFrom`, which changes its group alone (`State.fenceFrom_eq`): the group has one fence more, and its
fences go on (`Group.fencesGone`). A fence that is not over stands in the group after that, with the halves that it still has to come
(`Group.mem_fencesGone`), and every fence that stands was there before (`Group.of_mem_fencesGone`); what is held follows. -/

namespace Sys2Proof.Machine

/-! ### A word that waits at issue -/

/-- A word that waits and leaves no record. -/
theorem holds_of_wait {i : Instr} {u : Use} {body : Env → State → Res} {ok : Env → State → Prop} (he : ∀ s, exec i s = perform u body s)
    (hb : ∀ v s, ok v s → body v s = .wait) : Holds i u ok unchanged := by
  intro s v h hok
  rw [he, perform_issues body h, hb v _ hok]
  rfl

/-! ### Changes of a group -/

section
variable {s : State} {r : GroupRef} {f g : Group → Group}

/-- A change of a group that is not there changes nothing of the team. -/
theorem Team.modGroup_of_none {t : Team} {n : Nat} (h : t.group? n = none) : t.modGroup n f = t := by
  unfold Team.modGroup
  rw [h]

/-- Two changes of a group that is not there are one. -/
theorem State.modGroup_of_none (h : s.group? r = none) : s.modGroup r f = s.modGroup r g := by
  refine State.modCore_congr s r.core (fun k => k.modTeam r.slot fun t => t.modGroup r.grp f)
    (fun k => k.modTeam r.slot fun t => t.modGroup r.grp g) ?_
  unfold State.group? State.team? at h
  unfold Core.modTeam
  cases ht : (s.core r.core).team? r.slot with
  | none => rfl
  | some t =>
    rw [ht] at h
    simp only [Team.modGroup_of_none (t := t) (n := r.grp) h]

/-- A change of a group that leaves its vector registers. -/
theorem State.vreg_modGroup (hf : ∀ x, (f x).v = x.v) (n l : Nat) : (s.modGroup r f).vreg r n l = s.vreg r n l := by
  unfold State.vreg
  rw [State.team?_modGroup]
  cases s.team? r with
  | none => rfl
  | some t => exact Team.vget_modGroup t r.grp f n l fun x _ => hf x

end

/-! ### The fences of a group go on (04 R121) -/

/-- A fence of scope `sc` and code `f` as a group issues it. -/
def Group.newFence (x : Group) (sc f : Nat) : Fence := ⟨sc, f, x.nextLog, x.since, none, 0⟩

/-- A fence joins those of its group. -/
def Group.issueFence (sc f : Nat) (x : Group) : Group := { x with fences := x.fences ++ [x.newFence sc f] }

/-- The fences have settled, and those that are over have left. -/
def Group.fencesSettled (d : Die) (x : Group) : Group :=
  { x with fences := (x.fences.map (x.settle d.nextOut)).filter fun f => !d.fenceOver f }

/-- Whether a fence asks for a sweep and none is under way. -/
def Group.asksSweep (x : Group) : Bool := x.sweep.isNone && x.fences.any fun f => decide (5 ≤ f.sc) && x.mayAcquire f

/-- A fence once a sweep of its group has started. -/
def Group.sweepFence (x : Group) (f : Fence) : Fence := if 5 ≤ f.sc && x.mayAcquire f then { f with acq := 1 } else f

/-- A sweep of the group has started. -/
def Group.sweepStarted (load : Bool) (x : Group) : Group :=
  { x with sweep := some 0, loadSweep := load, fences := x.fences.map x.sweepFence }

/-- The fences have gone on: they have settled, and a sweep has started where one asks for it. -/
def Group.fencesGone (d : Die) (x : Group) : Group :=
  if (x.fencesSettled d).asksSweep then (x.fencesSettled d).sweepStarted false else x.fencesSettled d

/-- Events are posted in a row. -/
def State.postAll (s : State) (is : List Instr) : State := { s with pending := s.pending ++ is }

section
variable {s : State} {r : GroupRef} {x : Group}

theorem State.foldl_post {α : Type} (f : α → Instr) (l : List α) : l.foldl (fun u a => u.post (f a)) s = s.postAll (l.map f) := by
  induction l generalizing s with
  | nil => simp [State.postAll]
  | cons a l ih => rw [List.foldl_cons, ih]; simp [State.post, State.postAll]

theorem State.startSweep_eq (load : Bool) :
    s.startSweep r load = (s.modGroup r (Group.sweepStarted load)).postAll ((List.range 8).map (Instr.sweepAnswer r)) :=
  State.foldl_post _ _

@[simp] theorem State.postAll_cores (s : State) (is : List Instr) : (s.postAll is).cores = s.cores := rfl

@[simp] theorem State.postAll_dies (s : State) (is : List Instr) : (s.postAll is).dies = s.dies := rfl

@[simp] theorem State.postAll_hbm (s : State) (is : List Instr) : (s.postAll is).hbm = s.hbm := rfl

@[simp] theorem State.postAll_modl (s : State) (is : List Instr) : (s.postAll is).modl = s.modl := rfl

@[simp] theorem State.postAll_limit (s : State) (is : List Instr) : (s.postAll is).limit = s.limit := rfl

@[simp] theorem State.postAll_nil (s : State) : s.postAll [] = s := by
  unfold State.postAll
  rw [List.append_nil]

theorem State.stepFences_of_none (hx : s.group? r = none) : s.stepFences r = s := by
  unfold State.stepFences
  rw [hx]

/-- The fences of a group that has some go on in the group alone; the markers of a sweep may be posted. -/
theorem State.stepFences_eq (hx : s.group? r = some x) (hf : x.fences ≠ []) :
    ∃ is, s.stepFences r = (s.modGroup r (Group.fencesGone (s.die (dieOf r.core)))).postAll is := by
  have hstep : s.stepFences r = if (x.fencesSettled (s.die (dieOf r.core))).asksSweep then
      (s.modGroup r fun _ => x.fencesSettled (s.die (dieOf r.core))).startSweep r false
      else s.modGroup r fun _ => x.fencesSettled (s.die (dieOf r.core)) := by
    unfold State.stepFences
    simp only [hx, List.isEmpty_iff, hf, if_false]
    rfl
  by_cases h : (x.fencesSettled (s.die (dieOf r.core))).asksSweep
  · rw [hstep, if_pos h, State.startSweep_eq, State.modGroup_modGroup,
      State.modGroup_congr s r _ (Group.fencesGone (s.die (dieOf r.core))) x hx (if_pos h).symm]
    exact ⟨_, rfl⟩
  · rw [hstep, if_neg h, State.modGroup_congr s r (fun _ => x.fencesSettled _) (Group.fencesGone (s.die (dieOf r.core))) x hx
      (if_neg h).symm]
    exact ⟨[], (State.postAll_nil _).symm⟩

/-- Issued, a fence changes its group alone; the markers of a sweep may be posted. -/
theorem State.fenceFrom_eq (s : State) (v : Env) (sc f : Nat) : ∃ is, s.fenceFrom v sc f =
    (s.modGroup v.r fun x => (x.issueFence sc f).fencesGone (s.die (dieOf v.r.core))).postAll is := by
  show ∃ is, (s.modGroup v.r (Group.issueFence sc f)).stepFences v.r = _
  cases hx : s.group? v.r with
  | none =>
    rw [State.stepFences_of_none (by rw [State.group?_modGroup, hx]; rfl), State.modGroup_of_none hx]
    exact ⟨[], (State.postAll_nil _).symm⟩
  | some x =>
    obtain ⟨is, h⟩ := State.stepFences_eq (s := s.modGroup v.r (Group.issueFence sc f)) (x := x.issueFence sc f)
      (by rw [State.group?_modGroup, hx]; rfl) (by simp [Group.issueFence])
    rw [h, State.modGroup_modGroup]
    exact ⟨is, rfl⟩

end

/-! ### What the fences leave of their group -/

section
variable {d : Die} {x : Group} {e : FEntry}

theorem Group.fencesGone_v : (x.fencesGone d).v = x.v := by
  unfold Group.fencesGone; split <;> rfl

theorem Group.fencesGone_log : (x.fencesGone d).log = x.log := by
  unfold Group.fencesGone; split <;> rfl

theorem Group.fencesGone_since : (x.fencesGone d).since = x.since := by
  unfold Group.fencesGone; split <;> rfl

theorem Group.fencesGone_standing : (x.fencesGone d).standing e = x.standing e := by
  unfold Group.fencesGone; split <;> rfl

theorem Group.fencesGone_ownLog : (x.fencesGone d).ownLog = x.ownLog := by
  unfold Group.ownLog
  rw [Group.fencesGone_log, Group.fencesGone_since]

/-- A sweep for fences holds no load by itself. -/
theorem Group.fencesGone_loadSweep (h : x.loadSweep = false) : (x.fencesGone d).loadSweep = false := by
  unfold Group.fencesGone
  split
  · rfl
  · exact h

end

/-! ### What an issued fence leaves of the module -/

section
variable {s : State} {v : Env} {x : Group} {sc f : Nat}

theorem State.group?_fenceFrom (hx : s.group? v.r = some x) :
    (s.fenceFrom v sc f).group? v.r = some ((x.issueFence sc f).fencesGone (s.die (dieOf v.r.core))) := by
  obtain ⟨is, h⟩ := s.fenceFrom_eq v sc f
  rw [h, State.group?_of_cores (State.postAll_cores _ is), State.group?_modGroup, hx]
  rfl

theorem State.modl_fenceFrom : (s.fenceFrom v sc f).modl = s.modl := by
  obtain ⟨is, h⟩ := s.fenceFrom_eq v sc f
  rw [h, State.postAll_modl, State.modGroup_modl]

theorem State.hbm_fenceFrom : (s.fenceFrom v sc f).hbm = s.hbm := by
  obtain ⟨is, h⟩ := s.fenceFrom_eq v sc f
  rw [h, State.postAll_hbm, State.modGroup_hbm]

theorem State.die_fenceFrom (n : Nat) : (s.fenceFrom v sc f).die n = s.die n := by
  obtain ⟨is, h⟩ := s.fenceFrom_eq v sc f
  unfold State.die
  rw [h, State.postAll_dies, State.modGroup_dies]

theorem State.scratch_fenceFrom (c : Nat) : ((s.fenceFrom v sc f).core c).scratch = (s.core c).scratch := by
  obtain ⟨is, h⟩ := s.fenceFrom_eq v sc f
  rw [h]
  unfold State.core
  rw [State.postAll_cores]
  exact State.scratch_modGroup _

theorem State.vreg_fenceFrom (n l : Nat) : (s.fenceFrom v sc f).vreg v.r n l = s.vreg v.r n l := by
  obtain ⟨is, h⟩ := s.fenceFrom_eq v sc f
  have hgroup := State.vreg_modGroup (s := s) (r := v.r)
    (fun x => Group.fencesGone_v (x := x.issueFence sc f) (d := s.die (dieOf v.r.core))) n l
  unfold State.vreg at *
  rw [h, State.team?_of_cores (State.postAll_cores _ is), hgroup]

theorem SameRoom.fenceFrom : SameRoom v.r v.e s (s.fenceFrom v sc f) := by
  obtain ⟨is, h⟩ := s.fenceFrom_eq v sc f
  have hgroup : ∀ x : Group, ((x.issueFence sc f).fencesGone (s.die (dieOf v.r.core))).standing v.e = x.standing v.e :=
    fun x => Group.fencesGone_standing
  rw [h]
  exact (SameRoom.modGroup hgroup).trans (.of_cores (State.postAll_limit _ is) (State.postAll_cores _ is))

/-- The module's sequencer is no part of a group. -/
theorem SameRoom.modl {r : GroupRef} {e : FEntry} (s : State) (m : Module) : SameRoom r e s { s with modl := m } := .of_cores rfl rfl

end

/-! ### The fences of a group after they have gone on -/

/-- A fence f is g once a sweep may have started for it. -/
def Fence.Swept (f g : Fence) : Prop := g = f ∨ (f.f ≠ 2 ∧ f.acq = 0 ∧ g = { f with acq := 1 })

section
variable {f g : Fence} {d : Die} {x : Group}

theorem Fence.Swept.f_eq (h : f.Swept g) : g.f = f.f := by
  obtain rfl | ⟨-, -, rfl⟩ := h <;> rfl

theorem Fence.Swept.since_eq (h : f.Swept g) : g.since = f.since := by
  obtain rfl | ⟨-, -, rfl⟩ := h <;> rfl

/-- A sweep for a fence does nothing for its release half. -/
theorem Fence.Swept.relDone (h : f.Swept g) : d.relDone g = d.relDone f := by
  obtain rfl | ⟨-, -, rfl⟩ := h <;> rfl

/-- A sweep that starts completes no acquire half and takes none back. -/
theorem Fence.Swept.acq_iff (h : f.Swept g) : g.acq = 2 ↔ f.acq = 2 := by
  obtain rfl | ⟨-, h0, rfl⟩ := h
  · rfl
  · simp [h0]

theorem Group.sweepFence_swept : f.Swept (x.sweepFence f) := by
  unfold Group.sweepFence
  split
  · next h =>
    simp only [Group.mayAcquire, Bool.and_eq_true, decide_eq_true_eq] at h
    exact .inr ⟨h.2.1.1.1, h.2.1.1.2, rfl⟩
  · exact .inl rfl

/-- The fences that stand after they have gone on are those that settled without being over. -/
theorem Group.fences_fencesGone (d : Die) (x : Group) :
    ∃ h : Fence → Fence, (∀ f : Fence, f.Swept (h f)) ∧ (x.fencesGone d).fences = (x.fencesSettled d).fences.map h := by
  unfold Group.fencesGone
  split
  · exact ⟨_, fun f => Group.sweepFence_swept, rfl⟩
  · exact ⟨id, fun f => .inl rfl, (List.map_id _).symm⟩

/-- A fence that is not over stays. -/
theorem Group.mem_fencesGone (hf : f ∈ x.fences) (ho : d.fenceOver (x.settle d.nextOut f) = false) :
    ∃ g ∈ (x.fencesGone d).fences, (x.settle d.nextOut f).Swept g := by
  obtain ⟨h, hs, he⟩ := x.fences_fencesGone d
  refine ⟨_, ?_, hs _⟩
  rw [he]
  exact List.mem_map_of_mem (List.mem_filter.2 ⟨List.mem_map_of_mem hf, by rw [ho]; rfl⟩)

/-- Every fence that stands was there before. -/
theorem Group.of_mem_fencesGone (hg : g ∈ (x.fencesGone d).fences) : ∃ f ∈ x.fences, (x.settle d.nextOut f).Swept g := by
  obtain ⟨h, hs, he⟩ := x.fences_fencesGone d
  rw [he] at hg
  obtain ⟨k, hk, rfl⟩ := List.mem_map.1 hg
  obtain ⟨f, hf, rfl⟩ := List.mem_map.1 (List.mem_filter.1 hk).1
  exact ⟨f, hf, hs _⟩

/-- An acquire half that was complete is complete. -/
theorem Group.settle_acq (n : Nat) (h : f.acq = 2) : (x.settle n f).acq = 2 := by
  unfold Group.settle
  dsimp only
  split
  · rfl
  · exact h

end

/-! ### What a fence holds -/

/-- A new fence of group x as its issue leaves it: settled, n being next in the die's slice order. -/
def Group.issuedFence (x : Group) (n sc f : Nat) : Fence := (x.issueFence sc f).settle n (x.newFence sc f)

section
variable {v : Env} {s : State} {x : Group} {d : Die} {g : Fence} {sc f : Nat}

theorem State.orderHeld_eq (hx : s.group? v.r = some x) (writes : Bool) :
    s.orderHeld v writes = (x.acquiring || writes && !x.ownFences.all (s.die (dieOf v.r.core)).fenceOver) := by
  unfold State.orderHeld State.fencesOver liveGroup
  rw [hx]
  rfl

/-- An acquire half that is not complete holds every access. -/
theorem Group.acquiring_of_fence (hg : g ∈ x.fences) (hs : x.since ≤ g.since) (hf : g.f ≠ 2) (ha : g.acq ≠ 2) : x.acquiring = true := by
  have hown : g ∈ x.ownFences := List.mem_filter.2 ⟨hg, decide_eq_true hs⟩
  have hany : x.ownFences.any (fun f => f.f ≠ 2 && f.acq ≠ 2) = true :=
    List.any_eq_true.2 ⟨g, hown, by rw [decide_eq_true hf, decide_eq_true ha]; rfl⟩
  unfold Group.acquiring
  rw [hany, Bool.or_true]

/-- Nothing acquires where no acquire access is open and every acquire half is complete. -/
theorem Group.acquiring_eq_false_iff : x.acquiring = false ↔ x.loadSweep = false ∧ (∀ n ∈ x.ownLog, n.acquire = false) ∧
    ∀ g ∈ x.fences, x.since ≤ g.since → g.f ≠ 2 → g.acq = 2 := by
  simp [Group.acquiring, Group.ownFences, and_assoc]

/-- A release half that is not complete leaves the fence standing. -/
theorem Group.ownFences_all_eq_false (hg : g ∈ x.fences) (hs : x.since ≤ g.since) (hr : d.relDone g = false) :
    x.ownFences.all d.fenceOver = false := by
  refine List.all_eq_false.2 ⟨g, List.mem_filter.2 ⟨hg, decide_eq_true hs⟩, ?_⟩
  simp [Die.fenceOver, hr]

theorem Group.issuedFence_f (n : Nat) : (x.issuedFence n sc f).f = f := rfl

theorem Group.newFence_mem : x.newFence sc f ∈ (x.issueFence sc f).fences :=
  List.mem_append_right _ (List.mem_singleton_self _)

/-- An access that the group has issued comes before its new fence. -/
theorem Group.newFence_follows {n : LogEntry} (hn : n ∈ x.ownLog) (hlt : n.seq < x.nextLog) : (x.newFence sc f).follows n = true := by
  have hcounts : n.counts x.since = true := (List.mem_filter.1 hn).2
  simp [Fence.follows, Group.newFence, hlt, hcounts]

theorem Group.mem_log_of_mem_ownLog {n : LogEntry} (hn : n ∈ x.ownLog) : n ∈ x.log := (List.mem_filter.1 hn).1

/-- With an earlier access outstanding the release half of a new fence has still to come. -/
theorem Group.relDone_issuedFence (hf : f ≠ 1) (hn : ∃ n ∈ x.ownLog, n.seq < x.nextLog) :
    d.relDone (x.issuedFence d.nextOut sc f) = false := by
  obtain ⟨n, hown, hlt⟩ := hn
  have hall : x.log.all (fun n => !(x.newFence sc f).follows n) = false :=
    List.all_eq_false.2 ⟨n, Group.mem_log_of_mem_ownLog hown, by simp [Group.newFence_follows hown hlt]⟩
  have hmark : (x.issuedFence d.nextOut sc f).mark = none :=
    (if_neg (by simp [Group.issueFence, hall])).trans rfl
  unfold Die.relDone
  rw [hmark]
  simpa [Group.issuedFence, Group.settle, Group.newFence] using hf

/-- From scope .dev, and with an earlier load outstanding, the acquire half of a new fence has still to begin. -/
theorem Group.acq_issuedFence (n : Nat) (h : 5 ≤ sc ∨ ∃ n ∈ x.ownLog, n.seq < x.nextLog ∧ n.op.returns = true) :
    (x.issuedFence n sc f).acq = 0 := by
  refine if_neg ?_
  obtain hsc | ⟨n, hown, hlt, hret⟩ := h
  · rw [decide_eq_false (show ¬(x.newFence sc f).sc < 5 from Nat.not_lt.2 hsc), Bool.false_and]
    decide
  · have hall : x.log.all (fun n => !(x.newFence sc f).follows n || !n.op.returns) = false :=
      List.all_eq_false.2 ⟨n, Group.mem_log_of_mem_ownLog hown, by simp [Group.newFence_follows hown hlt, hret]⟩
    simp [Group.mayAcquire, Group.issueFence, hall]

/-- The new fence stands after its issue where a half of it has still to come. -/
theorem Group.exists_issuedFence (ho : d.fenceOver (x.issuedFence d.nextOut sc f) = false) :
    ∃ g ∈ ((x.issueFence sc f).fencesGone d).fences, ((x.issueFence sc f).fencesGone d).since ≤ g.since ∧
      (x.issuedFence d.nextOut sc f).Swept g := by
  obtain ⟨g, hg, hs⟩ := Group.mem_fencesGone Group.newFence_mem ho
  refine ⟨g, hg, ?_, hs⟩
  rw [Group.fencesGone_since, hs.since_eq]
  exact le_refl x.since

/-- A new fence that has nothing to hold leaves its group as it was. -/
theorem Group.fencesGone_issueFence (hfe : x.fences = [])
    (ho : d.fenceOver (x.issuedFence d.nextOut sc f) = true) : (x.issueFence sc f).fencesGone d = x := by
  have hone : (x.issueFence sc f).fences.map ((x.issueFence sc f).settle d.nextOut) = [x.issuedFence d.nextOut sc f] := by
    rw [Group.issueFence, hfe]
    rfl
  have hset : (x.issueFence sc f).fencesSettled d = x := by
    unfold Group.fencesSettled
    rw [hone, List.filter_singleton, ho, ← hfe]
    rfl
  unfold Group.fencesGone
  rw [hset, if_neg (by simp [Group.asksSweep, hfe])]

/-- With nothing outstanding a new fence below .dev, and a release where the die's root writes are acknowledged too, is over. -/
theorem Group.fenceOver_issuedFence (hlog : x.log = []) (h : sc < 5 ∨ f = 2 ∧ d.out = []) :
    d.fenceOver (x.issuedFence d.nextOut sc f) = true := by
  have hmark : (x.issuedFence d.nextOut sc f).mark = some d.nextOut :=
    if_pos (by simp [Group.issueFence, Group.newFence, hlog])
  have hsc : (x.issuedFence d.nextOut sc f).sc = sc := rfl
  have hrel : d.relDone (x.issuedFence d.nextOut sc f) = true := by
    unfold Die.relDone
    rw [hmark]
    obtain h | ⟨-, h⟩ := h <;> simp [hsc, h]
  unfold Die.fenceOver
  rw [hrel, Group.issuedFence_f, Bool.true_and]
  by_cases hf : f = 2
  · simp [hf]
  · have hacq : (x.issuedFence d.nextOut sc f).acq = 2 :=
      if_pos (by simp [Group.mayAcquire, Group.issueFence, Group.newFence, hlog, h.resolve_right fun h => hf h.1, hf])
    simp [hacq]

end

/-! ### An issued fence holds the later accesses that its halves name (04 R121) -/

section
variable {v : Env} {s : State} {x : Group} {sc f : Nat}

/-- With a release half still to come no store or atomic goes on. -/
theorem State.orderHeld_fenceFrom_store (hx : s.group? v.r = some x) (hf : f ≠ 1) (hn : ∃ n ∈ x.ownLog, n.seq < x.nextLog) :
    (s.fenceFrom v sc f).orderHeld v true = true := by
  have hrel := Group.relDone_issuedFence (sc := sc) (d := s.die (dieOf v.r.core)) hf hn
  have hover : (s.die (dieOf v.r.core)).fenceOver (x.issuedFence (s.die (dieOf v.r.core)).nextOut sc f) = false := by
    rw [Die.fenceOver, hrel, Bool.false_and]
  obtain ⟨g, hg, hsince, hs⟩ := Group.exists_issuedFence hover
  rw [State.orderHeld_eq (State.group?_fenceFrom hx), State.die_fenceFrom,
    Group.ownFences_all_eq_false hg hsince (hs.relDone.trans hrel)]
  exact Bool.or_true _

/-- With an acquire half still to come no access goes on. -/
theorem State.orderHeld_fenceFrom_load (hx : s.group? v.r = some x) (hf : f ≠ 2)
    (h : 5 ≤ sc ∨ ∃ n ∈ x.ownLog, n.seq < x.nextLog ∧ n.op.returns = true) (writes : Bool) :
    (s.fenceFrom v sc f).orderHeld v writes = true := by
  have hacq := Group.acq_issuedFence (f := f) (s.die (dieOf v.r.core)).nextOut h
  have hover : (s.die (dieOf v.r.core)).fenceOver (x.issuedFence (s.die (dieOf v.r.core)).nextOut sc f) = false := by
    simp [Die.fenceOver, hacq, Group.issuedFence_f, hf]
  obtain ⟨g, hg, hsince, hs⟩ := Group.exists_issuedFence hover
  have hg2 : g.acq ≠ 2 := fun e => absurd (hacq.symm.trans (hs.acq_iff.1 e)) (by decide)
  rw [State.orderHeld_eq (State.group?_fenceFrom hx), Group.acquiring_of_fence hg hsince (by rwa [hs.f_eq]) hg2]
  exact Bool.true_or _

/-- A release alone holds no load. -/
theorem State.orderHeld_fenceFrom_release (hx : s.group? v.r = some x) (ha : x.acquiring = false) :
    (s.fenceFrom v sc 2).orderHeld v false = false := by
  obtain ⟨hload, hlog, hfences⟩ := Group.acquiring_eq_false_iff.1 ha
  rw [State.orderHeld_eq (State.group?_fenceFrom hx), Bool.false_and, Bool.or_false, Group.acquiring_eq_false_iff]
  refine ⟨Group.fencesGone_loadSweep hload, by rw [Group.fencesGone_ownLog]; exact hlog, fun g hg hsince hg2 => ?_⟩
  obtain ⟨k, hk, hs⟩ := Group.of_mem_fencesGone hg
  rw [Group.fencesGone_since, hs.since_eq] at hsince
  rw [hs.f_eq] at hg2
  refine hs.acq_iff.2 (Group.settle_acq _ ?_)
  obtain hold | hnew := List.mem_append.1 hk
  · exact hfences k hold hsince hg2
  · rw [List.mem_singleton.1 hnew] at hg2
    exact absurd rfl hg2

/-- With nothing outstanding a fence holds nothing: below .dev, or a release where the die's root writes are acknowledged too. -/
theorem State.group?_fenceFrom_idle (hx : s.group? v.r = some x) (hlog : x.log = []) (hfe : x.fences = [])
    (h : sc < 5 ∨ f = 2 ∧ s.dieQuiet (dieOf v.r.core) = true) : (s.fenceFrom v sc f).group? v.r = some x := by
  rw [State.group?_fenceFrom hx, Group.fencesGone_issueFence hfe]
  exact Group.fenceOver_issuedFence hlog (h.imp_right (.imp_right List.isEmpty_iff.1))

end

/-! ### The words -/

section
variable {v : Env} {s : State} {sc : BitVec 3}

theorem fenceScBody_below_dev (h : sc.toNat < 5) : fenceScBody sc v s = .done (s.fenceFrom v sc.toNat 3) := if_pos h

/-- With no request open `fence.sc` asks for the ticket (04 R122). -/
theorem fenceScBody_asks (h : 5 ≤ sc.toNat) (ht : (liveGroup v s).ticket = 0) : fenceScBody sc v s =
    .done { ((s.modGroup v.r fun x => { x with ticket := 1 }).fenceFrom v sc.toNat 3).post .fenceScTicket with
      modl := { s.modl with ticketQueue := s.modl.ticketQueue ++ [v.r] } } := by
  unfold fenceScBody
  rw [if_neg (by omega), if_neg (not_not.2 ht)]
  dsimp only
  rw [State.modl_fenceFrom]
  rfl

/-- A request for the ticket leaves the entries of its group. -/
theorem SameRoom.askTicket {f : Nat} {m : Module} : SameRoom v.r v.e s
    { ((s.modGroup v.r fun x => { x with ticket := 1 }).fenceFrom v f 3).post .fenceScTicket with modl := m } := by
  have hticket : SameRoom v.r v.e s (s.modGroup v.r fun x => { x with ticket := 1 }) := .modGroup fun _ => rfl
  exact ((hticket.trans .fenceFrom).trans .post).trans (.modl (State.post _ _) m)

/-- A request that is open holds the next `fence.sc` of its group. -/
theorem fenceScBody_waits (h : 5 ≤ sc.toNat) (ht : (liveGroup v s).ticket ≠ 0) : fenceScBody sc v s = .wait := by
  unfold fenceScBody
  rw [if_neg (by omega), if_pos ht]

end

end Sys2Proof.Machine
end

section
/-! The obligation. -/

open Sys2Proof Sys2Proof.Machine

/-- Settles O20: an issued fence stands in its group while a half of it has still to come, and what stands there holds later accesses. -/
theorem fenceWords : Obligations.FenceWords := by
  refine ⟨fun c sc f _ => ?_, fun s v x sc f hx _ => ?_, fun c sc hsc => ?_, fun c sc hsc => ?_, fun c sc hsc => ?_⟩
  · exact does_of_perform (fun _ => rfl) (fun _ _ _ => rfl) fun _ _ => .fenceFrom
  · refine ⟨fun hf hn => State.orderHeld_fenceFrom_store hx hf hn, fun hf hn => State.orderHeld_fenceFrom_load hx hf (.inr hn) false,
      fun hf hsc => State.orderHeld_fenceFrom_load hx hf (.inl hsc) false, ?_,
      fun hsc hlog hfe => State.group?_fenceFrom_idle hx hlog hfe (.inl hsc),
      fun hf hlog hfe hq => State.group?_fenceFrom_idle hx hlog hfe (.inr ⟨hf, hq⟩), State.hbm_fenceFrom,
      State.scratch_fenceFrom _, State.vreg_fenceFrom, State.die_fenceFrom⟩
    rintro rfl ha
    exact State.orderHeld_fenceFrom_release hx ha
  · exact does_of_perform (fun _ => rfl) (fun _ _ _ => fenceScBody_below_dev hsc) fun _ _ => .fenceFrom
  · exact does_of_perform (fun _ => rfl) (fun _ _ ht => fenceScBody_asks hsc ht) fun _ _ => .askTicket
  · exact holds_of_wait (fun _ => rfl) fun _ _ ht => fenceScBody_waits hsc ht
end

section
/-! # Product, stage and ACC words issue one command (O39)

A word whose checks pass and whose active lanes hold one hypothesis submits its command (`submitThen_of_oneHyp`); what its body answers then
is the state that the statement names, and neither the submission nor the latch of a gang moves an entry of the group. -/

namespace Sys2Proof.Machine

/-! ### Changes that leave the entries of a group -/

section
variable {r : GroupRef} {e : FEntry} {s : State}

/-- A change of some group that leaves its entries. -/
theorem SameRoom.modGroup_any {q : GroupRef} {f : Group → Group} (hf : ∀ x, (f x).standing e = x.standing e) :
    SameRoom r e s (s.modGroup q f) := by
  refine .modTeam_any fun t g => ?_
  by_cases hg : g = q.grp
  · rw [hg, Team.group?_modGroup, Option.map_map]
    exact congrArg (Option.map · _) (funext hf)
  · rw [Team.group?_modGroup_ne _ _ _ _ hg]

theorem Group.standing_fretDown (x : Group) (f : Option Nat) (st : BitVec 2) : (x.fretDown f st).standing e = x.standing e := by
  cases f <;> rfl

theorem SameRoom.fretDown {q : GroupRef} {f : Option Nat} {st : BitVec 2} : SameRoom r e s (s.fretDown q f st) :=
  .modGroup_any fun x => x.standing_fretDown _ _

theorem SameRoom.modCmd {c id : Nat} {f : Cmd → Cmd} : SameRoom r e s (s.modCmd c id f) := .modCore fun _ => rfl

theorem SameRoom.submit {v : Env} {kind : CmdKind} : SameRoom v.r e s (s.submit v kind) := by
  have hcount : SameRoom v.r e s (s.fretUp v.r (s.fretOf v .b)) := .modGroup fun x => x.standing_fretUp _
  refine SameRoom.trans (hcount.trans ?_) .postOnce
  exact .modCore fun _ => rfl

/-- A command is submitted, and its group notes what it is to read or write. -/
theorem SameRoom.submit_modGroup {v : Env} {kind : CmdKind} {f : Group → Group} (hf : ∀ x, (f x).standing e = x.standing e) :
    SameRoom v.r e s ((s.submit v kind).modGroup v.r f) := SameRoom.submit.trans (.modGroup hf)

theorem Core.enterRequest_teams (now : Nat) (k : Core) (c : Cmd) : (k.enterRequest now c).teams = k.teams := by
  unfold Core.enterRequest
  split
  · rfl
  · split <;> rfl

theorem SameRoom.enterRequests {c : Nat} : SameRoom r e s (s.enterRequests c) := by
  refine SameRoom.trans (.modCore fun k => ?_) .askGrant
  exact List.foldlRecOn (motive := fun x : Core => x.teams = k.teams) _ _ rfl fun x hx d _ => (Core.enterRequest_teams _ x d).trans hx

/-! ### Latches (12 R328, R329) -/

theorem SameRoom.breakLatchOf {m : GroupRef} {l : Latched} : SameRoom r e s (s.breakLatchOf m l) := by
  unfold State.breakLatchOf
  dsimp only
  split
  · exact .modGroup_any fun _ => rfl
  · refine SameRoom.trans (t := State.fretDown _ m _ 1) (SameRoom.trans ?_ .fretDown) (.modCore fun _ => rfl)
    exact .modGroup_any fun _ => rfl

/-- The words at a latch leave their groups' open latches. -/
def State.leftLatch (s : State) (ls : List (GroupRef × Latched)) : State :=
  ls.foldl (fun s l => s.modGroup l.1 fun x => { x with latches := x.latches.filter fun y => y.cmd ≠ l.2.cmd }) s

theorem SameRoom.leftLatch {ls : List (GroupRef × Latched)} : SameRoom r e s (s.leftLatch ls) :=
  .foldl _ .refl fun _ _ => .modGroup_any fun _ => rfl

theorem SameRoom.closeLatch {c slot : Nat} {members : Word} : SameRoom r e s (s.closeLatch c slot members) := by
  unfold State.closeLatch
  split
  · exact .refl
  · next ls _ =>
    have hleft : SameRoom r e s (s.leftLatch ls) := .leftLatch
    dsimp only
    refine .ite (.foldl _ .refl fun _ _ => .breakLatchOf) ?_
    split
    · exact hleft.trans (.modCore fun _ => rfl)
    · refine SameRoom.trans (hleft.trans ?_) .post
      rw [State.modCore_modCore]
      exact .modCore fun _ => rfl

theorem SameRoom.arriveLatch {v : Env} {id : Nat} {tile : DWord} {members : Word} : SameRoom r e s (s.arriveLatch v id tile members) := by
  unfold State.arriveLatch
  refine SameRoom.trans (SameRoom.trans .modCmd (.modGroup_any fun _ => ?_)) .closeLatch
  rfl

end

/-- The words at a latch are one word if every two are equal. -/
theorem latched_all_same {ls : List (GroupRef × Latched)} (h : ∀ l ∈ ls, ∀ m ∈ ls, l.2.word = m.2.word ∧ l.2.tile = m.2.tile) :
    (ls.all fun l => decide ((ls.head?.map fun m => (m.2.word, m.2.tile)) = some (l.2.word, l.2.tile))) = true := by
  refine List.all_eq_true.2 fun l hl => decide_eq_true ?_
  cases ls with
  | nil => cases hl
  | cons m ms =>
    obtain ⟨hw, ht⟩ := h m List.mem_cons_self l hl
    simp only [List.head?_cons, Option.map_some, hw, ht]

theorem State.core_of_cores {s t : State} (h : t.cores = s.cores) (c : Nat) : t.core c = s.core c := congrArg (Tbl.get Core.reset · c) h

section
variable {s : State} {core slot : Nat} {members : Word} {ls : List (GroupRef × Latched)} {c : Cmd}

/-- A latch of equal words leaves their one command in place of theirs, and its close is under way (12 R328). -/
theorem State.closeLatch_equal (hl : s.latched core slot members = some ls)
    (heq : ∀ l ∈ ls, ∀ m ∈ ls, l.2.word = m.2.word ∧ l.2.tile = m.2.tile)
    (hc : gangCmd (ls.filterMap fun l => (s.core core).cmd? l.2.cmd) = some c) : s.closeLatch core slot members =
      ((s.leftLatch ls).modCore core fun k => { k with cmds :=
        (ls.foldl (fun t l => t.set none l.2.cmd none) k.cmds).set none c.seq (some c) }).post (.gangLatchClose core slot members) := by
  unfold State.closeLatch
  simp only [hl, latched_all_same heq, hc, Bool.not_true, Bool.false_eq_true, if_false, State.modCore_modCore]
  rfl

/-- The commands of the core once such a latch has closed. -/
theorem State.cmd?_closeLatch_equal (hl : s.latched core slot members = some ls)
    (heq : ∀ l ∈ ls, ∀ m ∈ ls, l.2.word = m.2.word ∧ l.2.tile = m.2.tile)
    (hc : gangCmd (ls.filterMap fun l => (s.core core).cmd? l.2.cmd) = some c) (n : Nat) :
    ((s.closeLatch core slot members).core core).cmd? n =
      (((ls.map (·.2.cmd)).foldl (fun t n => t.set none n none) ((s.leftLatch ls).core core).cmds).set none c.seq (some c)).get none n := by
  rw [State.closeLatch_equal hl heq hc, List.foldl_map]
  unfold Core.cmd?
  rw [State.core_of_cores (State.post_cores ..), State.core_modCore]

end

/-! ### One hypothesis (05 R141) -/

section
variable {v : Env} {s : State}

theorem oneHyp.engineHyp (h : oneHyp v s) : (engineHyp v s).2 = false := by
  refine List.any_eq_false.2 fun l hl => ?_
  have : (liveGroup v s).hyp.get 0 l = (liveGroup v s).hyp.get 0 (lowestLane v.em) := BitVec.eq_of_toNat_eq (h l ((mem_lanesOf v.em l).1 hl))
  exact fun hne => of_decide_eq_true hne this

/-- Under one hypothesis an engine word is submitted. -/
theorem submitThen_of_oneHyp (h : oneHyp v s) (kind : CmdKind) (k : State → Res) : s.submitThen v kind k = k (s.submit v kind) :=
  if_neg (by simp [h.engineHyp])

theorem goodResv_of_sound {h : Nat} (hs : soundResv v s h) (k : Unit → Res) : goodResv h v s k = k () :=
  if_neg fun hc => hs (List.contains_iff_mem.1 hc)

/-! ### Product words (12 R320 to R328) -/

section
variable {sp : Bool} {h : BitVec 4} {sc : BitVec 6} {vb : BitVec 7} {n tr : BitVec 1}

theorem exec_productWords {c : BitVec 1} {h : BitVec 4} {sc : BitVec 6} {vb : BitVec 7} {n t : BitVec 1} :
    ∀ k ∈ [(Instr.mmad c h sc vb n, false, (0 : BitVec 1)), (.mmadSp c h sc vb n t, true, t)], ∀ s,
      exec k.1 s = perform (useProduct c sc vb) (mmadBody k.2.1 h sc vb n k.2.2) s := by
  simp only [List.forall_mem_cons, List.not_mem_nil, IsEmpty.forall_iff, implies_true, and_true]
  and_intros <;> exact fun _ => rfl

/-- What a product word that passes its checks does: without a gang its command asks for a lease, else it arrives at the latch. -/
theorem mmadBody_issues (hok : productOk sp h sc vb tr v s) : mmadBody sp h sc vb n tr v s =
    .done (if gangOf v = 0 then (issueProduct (productKind sp h sc vb n tr v) vb v s).enterRequests v.r.core
      else (issueProduct (productKind sp h sc vb n tr v) vb v s).arriveLatch v (s.core v.r.core).seq (v.s6 sc) (gangOf v)) := by
  obtain ⟨htrap, hcapo, hresv, hhyp⟩ := hok
  have hgang : v.grp.gang.setWidth 32 = gangOf v := BitVec.setWidth_eq_extractLsb' (by decide)
  unfold Env.s6 at *
  unfold mmadBody
  simp only [hgang, htrap, show _ = false from hcapo, Bool.false_eq_true, if_false, goodResv_of_sound hresv]
  split
  · exact submitThen_of_oneHyp hhyp _ _
  · exact submitThen_of_oneHyp hhyp _ _

theorem SameRoom.issueProduct {kind : CmdKind} {e : FEntry} : SameRoom v.r e s (issueProduct kind vb v s) :=
  .submit_modGroup fun _ => rfl

end

/-! ### Stage words (12 R338 to R344) -/

/-- The body of a stage word, whose reservation is that of the entry `k`; `bfwg` names none. -/
theorem exec_stageWords {c : BitVec 1} {z : BitVec 3} {h : BitVec 4} {a b : BitVec 6} {f : BitVec 1} : ∀ p ∈ stageWords c z h a b f v,
    ∃ k, (p.2.1 ≠ 3 → k = h) ∧ p.2.2.2.1 = (if p.2.1 = 1 then sinStages (v.s6 a) else 1) ∧
      p.2.2.2.2 = (if p.2.1 = 3 then none else v.grp.resv k.toNat) ∧
      ∀ s, exec p.1 s = perform (useEngine c [.us6 a, .us6 b, .zr z 1 false]) (stageBody p.2.1 p.2.2.1 z k a b) s :=
  List.forall_mem_cons.2 ⟨⟨h, fun _ => rfl, rfl, rfl, fun _ => rfl⟩,
    List.forall_mem_cons.2 ⟨⟨h, fun _ => rfl, rfl, rfl, fun _ => rfl⟩,
      List.forall_mem_cons.2 ⟨⟨h, fun _ => rfl, rfl, rfl, fun _ => rfl⟩,
        List.forall_mem_singleton.2 ⟨0, fun hne => absurd rfl hne, rfl, rfl, fun _ => rfl⟩⟩⟩⟩

/-- A stage word that passes its checks is submitted and asks for a lease. -/
theorem stageBody_submits {op n : Nat} {bf : Bool} {z : BitVec 3} {h : BitVec 4} {a b : BitVec 6} {r : Option Resv}
    (hn : n = if op = 1 then sinStages (v.s6 a) else 1) (hr : r = if op = 3 then none else v.grp.resv h.toNat)
    (htrap : stageTrap op (stagesOf v z n) (decide (z.toNat + n ≤ 8)) r (v.s6 a) (v.s6 b) v.team.bind = none)
    (hcapo : capoFree v s) (hresv : op ≠ 3 → soundResv v s h.toNat) (hhyp : oneHyp v s) : stageBody op bf z h a b v s =
      .done ((s.submit v (.stage (BitVec.ofNat 2 op) bf (stagesOf v z n) r (v.s6 a) (v.s6 b))).enterRequests v.r.core) := by
  subst hn hr
  unfold stagesOf Env.s6 at *
  unfold stageBody
  simp only [htrap, show _ = false from hcapo, Bool.false_eq_true, if_false]
  split
  · exact submitThen_of_oneHyp hhyp _ _
  · next hop =>
    rw [goodResv_of_sound (hresv hop)]
    exact submitThen_of_oneHyp hhyp _ _

/-! ### ACC words (12 R345 to R350) -/

/-- An ACC word of the scratchpad that passes its checks is submitted. -/
theorem accBody_submits {fn f : Nat} {a b sc : BitVec 6} (hok : accOk fn f a b sc v) (hhyp : oneHyp v s)
    (hresv : fn = 2 ∧ f % 2 = 1 → soundResv v s ((v.s6 sc).extractLsb' 0 4).toNat) :
    accBody fn f a b sc v s = .done (s.submit v (accKind fn f a b sc v)) := by
  obtain ⟨htile, hdsc, hscale⟩ := hok
  unfold accKind
  unfold Env.s6 at *
  have hd : (if fn = 0 then none else dscTrap fn (decide (f % 2 = 1)) (tileOf (v.grp.sget a.toNat)) (v.grp.sget b.toNat) v.team.bind.spsize) =
      none := by
    split
    · rfl
    · next h => exact hdsc h
  unfold accBody
  by_cases hs : fn = 2 ∧ f % 2 = 1
  · simp only [hs.1, hs.2, and_self, if_true] at hd hresv ⊢
    simp only [htile, hd, hscale hs.1 hs.2, Option.or_none, goodResv_of_sound (hresv trivial), submitThen_of_oneHyp hhyp]
  · simp only [htile, hd, hs, if_false, Option.or_none, submitThen_of_oneHyp hhyp]

/-- An ACC word of registers that passes its checks, none of them awaited, is submitted, and its registers are to be written or read. -/
theorem accRegBody_submits {fn : Nat} {a b : BitVec 6} (hok : accRegOk a b v s) : accRegBody fn a b v s =
    .done ((s.submit v (.acc (BitVec.ofNat 4 fn) 0 (v.s6 a) (v.s6 b) 0 none
        (if fn = 4 then captureRegs v.team v.r.grp ((v.s6 b).extractLsb' 0 7).toNat (regLines (tileOf (v.s6 a))) else []))).modGroup v.r fun x =>
      if fn = 3 then
        { x with lineRegs := x.lineRegs.set (0, 0) (s.core v.r.core).seq (((v.s6 b).extractLsb' 0 7).toNat, regLines (tileOf (v.s6 a))) }
      else { x with readRegs := x.readRegs.set (0, 0) (s.core v.r.core).seq (((v.s6 b).extractLsb' 0 7).toNat, regLines (tileOf (v.s6 a))) }) := by
  obtain ⟨htile, hreg, hfree, hhyp⟩ := hok
  unfold Env.s6 at *
  unfold accRegBody
  simp only [htile, hreg, hfree, Option.or_none, Bool.false_eq_true, if_false, submitThen_of_oneHyp hhyp]

end

end Sys2Proof.Machine
end

section
/-! The obligation. -/

open Sys2Proof Sys2Proof.Machine

/-- Settles O39: the body of every word that passes its checks answers the submission that the statement names. -/
theorem matrixWords : Obligations.MatrixWords := by
  refine ⟨fun c h sc vb n t k hk => ⟨?_, ?_⟩, fun s core slot members ls c hl heq hc => ?_, fun c z h a b f s v p hp => ?_,
    fun c a => ?_, fun c a b => ?_, fun c a b sc k j g => ?_, fun c a b t => ?_, fun c a b => ?_, fun c a b => ?_⟩
  · refine does_of_perform (exec_productWords k hk) (fun v s ⟨hok, hg⟩ => ?_) fun v s => SameRoom.issueProduct.trans .enterRequests
    rw [mmadBody_issues hok, if_pos hg]
  · refine does_of_perform (exec_productWords k hk) (fun v s ⟨hok, hg⟩ => ?_) fun v s => SameRoom.issueProduct.trans .arriveLatch
    rw [mmadBody_issues hok, if_neg hg]
  · refine ⟨(State.cmd?_closeLatch_equal hl heq hc _).trans (Tbl.get_set ..), ?_, fun l hm hne => ?_⟩
    · rw [State.closeLatch_equal hl heq hc]
      exact State.mem_post _ _
    · rw [State.cmd?_closeLatch_equal hl heq hc, Tbl.get_set_ne _ _ _ _ _ hne]
      exact Tbl.get_foldl_set none (fun _ => none) _ _ _ (List.mem_map_of_mem hm)
  · obtain ⟨k, hk, hn, hr, he⟩ := exec_stageWords p hp
    intro u zs hi room htrap hcapo hresv hhyp
    rw [he]
    exact ended_of_done hi room (stageBody_submits hn hr htrap hcapo (fun hop => hk hop ▸ hresv hop) hhyp)
      (SameRoom.submit.trans .enterRequests)
  · exact does_of_perform (fun _ => rfl) (fun v s ⟨hok, hhyp⟩ => accBody_submits hok hhyp nofun) fun _ _ => .submit
  · exact does_of_perform (fun _ => rfl) (fun v s ⟨hok, hhyp⟩ => accBody_submits hok hhyp nofun) fun _ _ => .submit
  · refine does_of_perform (fun _ => rfl) (fun v s ⟨hok, hhyp, hresv⟩ => accBody_submits hok hhyp fun hf => hresv ?_) fun _ _ => .submit
    have hg : g.toNat = 1 := by omega
    exact BitVec.eq_of_toNat_eq hg
  · exact does_of_perform (fun _ => rfl) (fun v s ⟨hok, hhyp⟩ => accBody_submits hok hhyp nofun) fun _ _ => .submit
  · exact does_of_perform (fun _ => rfl) (fun v s hok => accRegBody_submits (fn := 4) hok) fun _ _ => .submit_modGroup fun _ => rfl
  · exact does_of_perform (fun _ => rfl) (fun v s hok => accRegBody_submits (fn := 3) hok) fun _ _ => .submit_modGroup fun _ => rfl
end

section
/-! # The hypothesis tree's entries (05 R136, R137)

What an entry reads after a change of another, after a list of changes, and after the ids of which nothing is left have become FREE. -/

namespace Sys2Proof

/-- A key that reads other than unlisted is listed. -/
theorem Tbl.mem_of_get_ne {α : Type} {d : α} {t : Tbl α} {n : Nat} (h : t.get d n ≠ d) : n ∈ t.map (·.1) := by
  induction t with
  | nil => exact absurd rfl h
  | cons a t ih =>
    by_cases hn : a.1 = n
    · simp [hn]
    · exact List.mem_cons_of_mem _ (ih (by simpa [Tbl.get, hn] using h))

namespace Machine

section
variable {p : Part} {k n : Nat} {f : HypEntry → HypEntry}

@[simp] theorem Part.entry_modEntry : (p.modEntry k f).entry k = f (p.entry k) := Tbl.get_set ..

theorem Part.entry_modEntry_ne (h : n ≠ k) : (p.modEntry k f).entry n = p.entry n := Tbl.get_set_ne _ _ _ _ _ h

/-- An entry after changes one after the other. -/
theorem Part.entry_foldl_modEntry (f : Nat → HypEntry → HypEntry) (ls : List Nat) (p : Part) (n : Nat) :
    (ls.foldl (fun q k => q.modEntry k (f k)) p).entry n = (f n)^[ls.count n] (p.entry n) := by
  induction ls generalizing p with
  | nil => rfl
  | cons k ks ih =>
    rw [List.foldl_cons, ih]
    by_cases h : k = n
    · subst h
      rw [List.count_cons_self, Part.entry_modEntry, Function.iterate_succ_apply]
    · rw [List.count_cons_of_ne h, Part.entry_modEntry_ne (Ne.symm h)]

/-- Changes of different entries. -/
theorem Part.entry_foldl_of_nodup (f : Nat → HypEntry → HypEntry) {ls : List Nat} (h : ls.Nodup) (p : Part) (n : Nat) :
    (ls.foldl (fun q k => q.modEntry k (f k)) p).entry n = if n ∈ ls then f n (p.entry n) else p.entry n := by
  rw [Part.entry_foldl_modEntry, h.count]
  split <;> rfl

/-- Changes that change nothing further when they are made again. -/
theorem Part.entry_foldl_of_idem (f : HypEntry → HypEntry) (h : ∀ e, f (f e) = f e) (ls : List Nat) (p : Part) (n : Nat) :
    (ls.foldl (fun q k => q.modEntry k f) p).entry n = if n ∈ ls then f (p.entry n) else p.entry n := by
  rw [Part.entry_foldl_modEntry fun _ => f]
  split
  · next hm =>
    obtain ⟨m, hc⟩ := Nat.exists_eq_succ_of_ne_zero (List.count_pos_iff.2 hm).ne'
    rw [hc, Function.iterate_succ_apply, Function.iterate_fixed (h _)]
  · next hm => rw [List.count_eq_zero_of_not_mem hm]; rfl

/-! ### Ids become FREE (05 R137) -/

/-- A resolved entry of which every slice has reported and that no lane names. -/
def HypEntry.Spent (e : HypEntry) : Prop := (e.state = 3 ∨ e.state = 4) ∧ e.due = [] ∧ e.refcnt = 0

/-- The entry once it has become FREE. -/
def HypEntry.freed (e : HypEntry) : HypEntry := { HypEntry.free with remap := e.remap }

theorem HypEntry.not_spent_freed (e : HypEntry) : ¬e.freed.Spent := fun h => by simpa [HypEntry.freed, HypEntry.free] using h.1

theorem HypEntry.not_spent_of_live {e : HypEntry} (h : e.live = true) : ¬e.Spent := fun hs => by
  obtain h3 | h4 := hs.1 <;> simp_all [HypEntry.live]

theorem Part.canFree_iff : p.canFree (k, p.entry k) = true ↔ (p.entry k).Spent ∧
    ∀ j ∈ p.hyp.map (·.1), j ≠ k → ¬((p.entry j).state = 3 ∧ (p.entry j).remap = some (BitVec.ofNat 12 k)) := by
  simp only [Part.canFree, HypEntry.Spent, Bool.and_eq_true, Bool.or_eq_true, decide_eq_true_eq, List.isEmpty_iff, Bool.not_eq_true',
    List.any_eq_false, List.forall_mem_map, and_assoc, not_and]

/-- One round of `Part.freeIds`. -/
def Part.freeRound (p : Part) : Part :=
  (p.hyp.filter fun ke => p.canFree (ke.1, p.entry ke.1)).foldl (fun q ke => q.modEntry ke.1 HypEntry.freed) p

theorem Part.entry_freeRound (p : Part) (k : Nat) : p.freeRound.entry k =
    if k ∈ (p.hyp.map (·.1)).filter (fun j => p.canFree (j, p.entry j)) then (p.entry k).freed else p.entry k := by
  unfold Part.freeRound
  rw [← Part.entry_foldl_of_idem HypEntry.freed fun _ => rfl, List.filter_map, List.foldl_map]
  rfl

/-- After some rounds an entry is as it was, or nothing was left of it and it is FREE. -/
theorem Part.entry_freeRounds {α : Type} (ls : List α) (p : Part) (k : Nat) :
    (ls.foldl (fun p _ => p.freeRound) p).entry k = p.entry k ∨
      (p.entry k).Spent ∧ (ls.foldl (fun p _ => p.freeRound) p).entry k = (p.entry k).freed := by
  induction ls generalizing p with
  | nil => exact .inl rfl
  | cons _ ls ih =>
    rw [List.foldl_cons]
    have h := ih p.freeRound
    rw [Part.entry_freeRound] at h
    split at h
    · next hk =>
      have hs := (Part.canFree_iff.1 (List.mem_filter.1 hk).2).1
      exact .inr ⟨hs, h.resolve_right fun hf => (p.entry k).not_spent_freed hf.1⟩
    · exact h

theorem Part.entry_freeIds (p : Part) (k : Nat) :
    p.freeIds.entry k = p.entry k ∨ (p.entry k).Spent ∧ p.freeIds.entry k = (p.entry k).freed :=
  p.entry_freeRounds (List.range p.hyp.length) k

theorem Part.entry_freeIds_of_not_spent (h : ¬(p.entry k).Spent) : p.freeIds.entry k = p.entry k :=
  (p.entry_freeIds k).resolve_right fun hs => h hs.1

/-- An id of which nothing is left becomes FREE where no CONFIRMED id remaps to it. -/
theorem Part.entry_freeIds_of_spent (hs : (p.entry k).Spent)
    (hr : ∀ j, j ≠ k → ¬((p.entry j).state = 3 ∧ (p.entry j).remap = some (BitVec.ofNat 12 k))) : p.freeIds.entry k = (p.entry k).freed := by
  have hmem : k ∈ p.hyp.map (·.1) := Tbl.mem_of_get_ne (d := HypEntry.free) fun h => by
    have hfree : p.entry k = HypEntry.free := h
    obtain h3 | h4 := hs.1 <;> simp_all [HypEntry.free]
  have hround : p.freeRound.entry k = (p.entry k).freed := by
    rw [Part.entry_freeRound, if_pos (List.mem_filter.2 ⟨hmem, Part.canFree_iff.2 ⟨hs, fun j _ => hr j⟩⟩)]
  obtain ⟨m, hm⟩ := Nat.exists_eq_succ_of_ne_zero (List.length_pos_of_mem hmem).ne'
  rw [List.length_map] at hm
  show ((List.range p.hyp.length).foldl (fun p _ => p.freeRound) p).entry k = _
  rw [hm, List.range_succ_eq_map, List.foldl_cons, (p.freeRound.entry_freeRounds _ k).resolve_right, hround]
  rw [hround]
  exact fun hf => (p.entry k).not_spent_freed hf.1

end

/-! ### Changes of a partition -/

theorem State.modPart_congr {s : State} {part : Nat} {p : Part} {f g : Part → Part} (h : s.part? part = some p) (e : f p = g p) :
    s.modPart part f = s.modPart part g := by
  unfold State.modPart
  simp only [h, e]

theorem State.part?_modPart_some {s : State} {part : Nat} {p : Part} {f : Part → Part} (h : s.part? part = some p) :
    (s.modPart part f).part? part = some (f p) := by
  rw [State.part?_modPart, h, Option.map_some]

end Machine

end Sys2Proof
end

section
/-! # The hypothesis words (O28)

The lanes of a word go one after the other (`hypLanes_go`): what has to hold for the next lane is kept by those before it. A lane that opens an
id leaves every other entry's state and depth; one that enters an id leaves what is live. -/

namespace Sys2Proof.Machine

/-! ### The lanes of a word -/

/-- Lanes that go on one after the other, each leaving what the next ones need. -/
theorem hypLanes_go {f : Nat → State → HypRun} {g : State → Nat → State} {P : List Nat → State → Prop}
    (h : ∀ l ls s, P (l :: ls) s → f l s = .go (g s l) ∧ P ls (g s l)) {ls : List Nat} {s : State} (hs : P ls s) :
    hypLanes f ls s = .go (ls.foldl g s) := by
  induction ls generalizing s with
  | nil => rfl
  | cons l ls ih =>
    obtain ⟨hgo, hnext⟩ := h l ls s hs
    rw [hypLanes, hgo]
    exact ih hnext

section
variable {r : GroupRef} {e : FEntry} {s : State}

theorem SameRoom.modPart {n : Nat} {f : Part → Part} : SameRoom r e s (s.modPart n f) :=
  .of_cores (State.modPart_limit ..) (State.modPart_cores ..)

end

/-! ### `hnew` (05 R138) -/

/-- Id k is opened below id h. -/
def Part.opened (p : Part) (h k : Nat) : Part :=
  (p.modEntry k fun _ => { HypEntry.free with state := 1, depth := (p.entry h).depth + 1, parent := BitVec.ofNat 12 h }).modEntry h
    fun e => { e with nchild := e.nchild + 1 }

/-- The entries that are FREE. -/
def Part.freeList (p : Part) : List Nat := (List.range 4096).filter fun k => (p.entry k).state = 0

section
variable {p : Part} {h k n : Nat}

theorem Part.entry_opened (hk : n ≠ k) : (p.opened h k).entry n =
    if n = h then { p.entry n with nchild := (p.entry n).nchild + 1 } else p.entry n := by
  unfold Part.opened
  split
  · next hn => rw [← hn, Part.entry_modEntry, Part.entry_modEntry_ne hk]
  · next hn => rw [Part.entry_modEntry_ne hn, Part.entry_modEntry_ne hk]

theorem Part.state_opened (hk : n ≠ k) : ((p.opened h k).entry n).state = (p.entry n).state := by
  rw [Part.entry_opened hk]
  split <;> rfl

theorem Part.depth_opened (hk : n ≠ k) : ((p.opened h k).entry n).depth = (p.entry n).depth := by
  rw [Part.entry_opened hk]
  split <;> rfl

theorem Part.state_opened_self (hk : k ≠ h) : ((p.opened h k).entry k).state = 1 := by
  unfold Part.opened
  rw [Part.entry_modEntry_ne hk, Part.entry_modEntry]

/-- The id that is opened is FREE no longer, and every other one as it was. -/
theorem Part.freeList_opened (hk : k ≠ h) : (p.opened h k).freeList = p.freeList.erase k := by
  have hnodup : p.freeList.Nodup := List.nodup_range.filter _
  rw [hnodup.erase_eq_filter, Part.freeList, Part.freeList, List.filter_filter]
  refine List.filter_congr fun n _ => ?_
  by_cases hn : n = k
  · subst hn
    simp [Part.state_opened_self hk]
  · simp [Part.state_opened hn, hn]

end

section
variable {d : BitVec 7} {v : Env} {s : State} {l : Nat} {ls : List Nat}

/-- Lanes that can each open an id: `mayOpen`, of a list of lanes. -/
def CanOpen (v : Env) (ls : List Nat) (s : State) : Prop :=
  ∃ p, s.part? v.part = some p ∧ (∀ l ∈ ls, (p.entry ((liveGroup v s).hypOf l)).state ≠ 0 ∧ (p.entry ((liveGroup v s).hypOf l)).depth ≠ 15) ∧
    ls.length ≤ p.freeList.length

theorem canOpen_of_mayOpen (h : mayOpen v s) : CanOpen v (lanesOf v.em) s := by
  obtain ⟨p, hp, hl, hn⟩ := h
  exact ⟨p, hp, fun l hm => hl l ((mem_lanesOf _ _).1 hm), hn⟩

theorem liveGroup_of_cores {t : State} (h : t.cores = s.cores) : liveGroup v t = liveGroup v s :=
  congrArg (Option.getD · v.grp) (State.group?_of_cores h)

/-- Writing a vector register leaves the HYPs. -/
theorem hypOf_liveGroup_vset {n : Nat} {m : Lanes} {f : Nat → Word} :
    (liveGroup v (s.modTeam v.r fun t => t.vset v.r.grp n m f)).hypOf = (liveGroup v s).hypOf := by
  unfold liveGroup
  rw [State.group?_modTeam]
  unfold State.group?
  cases s.team? v.r with
  | none => rfl
  | some t =>
    obtain ⟨g, hg, hk⟩ := (Team.vset_local t v.r.grp n m f).group
    simp only [Option.bind_some, hg]
    cases hx : t.group? v.r.grp with
    | none => rfl
    | some x =>
      have : (g x).rest.hyp = x.rest.hyp := by rw [(hk x hx).rest]
      funext l
      exact congrArg (fun t : Tbl (BitVec 12) => (t.get 0 l).toNat) this

theorem Part.freeId_eq_head? (p : Part) : p.freeId = p.freeList.head? := List.head?_filter.symm

/-- A lane that can open an id opens the lowest FREE one, and the lanes after it can still open theirs. -/
theorem hnewLane_opens (h : CanOpen v (l :: ls) s) : hnewLane d v l s = .go (openLane d v s l) ∧ CanOpen v ls (openLane d v s l) := by
  obtain ⟨p, hp, hl, hn⟩ := h
  obtain ⟨hstate, hdepth⟩ := hl l List.mem_cons_self
  obtain ⟨k, ks, hk⟩ := List.exists_cons_of_length_pos (Nat.lt_of_lt_of_le (Nat.succ_pos _) hn)
  have hfree : p.freeId = some k := by rw [p.freeId_eq_head?, hk]; rfl
  have hkfree : (p.entry k).state = 0 := of_decide_eq_true (List.mem_filter.1 (hk ▸ List.mem_cons_self : k ∈ p.freeList)).2
  have hkh : ∀ j ∈ l :: ls, (liveGroup v s).hypOf j ≠ k := fun j hm he => (hl j hm).1 (he ▸ hkfree)
  have hopen : openLane d v s l = (s.modPart v.part fun q => q.opened ((liveGroup v s).hypOf l) k).modTeam v.r fun t =>
      t.vset v.r.grp d.toNat (oneLane l) fun _ => BitVec.ofNat 32 k := by
    unfold Part.freeId at hfree
    unfold openLane
    simp only [hp, hfree, Option.getD_some]
    rfl
  constructor
  · rw [hopen]
    unfold hnewLane
    simp only [hp, hdepth, if_false, hfree]
    rw [State.modPart_congr hp (g := fun q => q.opened ((liveGroup v s).hypOf l) k) rfl]
  · have hhyp : (liveGroup v (openLane d v s l)).hypOf = (liveGroup v s).hypOf := by
      rw [hopen, hypOf_liveGroup_vset, liveGroup_of_cores (State.modPart_cores ..)]
    refine ⟨p.opened ((liveGroup v s).hypOf l) k, ?_, fun j hj => ?_, ?_⟩
    · rw [hopen]
      exact State.part?_modPart_some hp
    · have hne := hkh j (List.mem_cons_of_mem _ hj)
      rw [hhyp, Part.state_opened hne, Part.depth_opened hne]
      exact hl j (List.mem_cons_of_mem _ hj)
    · rw [Part.freeList_opened (hkh l List.mem_cons_self).symm, hk, List.erase_cons_head]
      rw [hk] at hn
      exact Nat.le_of_succ_le_succ hn

theorem SameRoom.openLane : SameRoom v.r v.e s (openLane d v s l) := by
  unfold Machine.openLane
  split
  · exact .refl
  · exact SameRoom.modPart.trans (.modTeam fun t => Team.vset_local ..)

end

/-! ### `henter` and `hleave` (05 R138) -/

section
variable {v : Env} {s : State} {r : GroupRef} {part k : Nat}

/-- An id that is LIVE or CONFIRMING in a partition. -/
def State.LiveIn (s : State) (part k : Nat) : Prop := ∃ p, s.part? part = some p ∧ (p.entry k).live = true

theorem State.LiveIn.countRef {id : Nat} {up : Bool} (h : s.LiveIn part k) : (s.countRef part id up).LiveIn part k := by
  obtain ⟨p, hp, hl⟩ := h
  have hcount : ∀ f : HypEntry → HypEntry, (∀ e, (f e).live = e.live) → ((p.modEntry id f).entry k).live = true := fun f hf => by
    by_cases hk : k = id
    · rw [← hk, Part.entry_modEntry, hf, hl]
    · rw [Part.entry_modEntry_ne hk, hl]
  unfold State.countRef
  split
  · exact ⟨p, hp, hl⟩
  · refine ⟨_, State.part?_modPart_some hp, ?_⟩
    split
    · exact hcount _ fun _ => rfl
    · have hlive := hcount (fun e => { e with refcnt := e.refcnt - 1 }) fun _ => rfl
      rw [Part.entry_freeIds_of_not_spent (HypEntry.not_spent_of_live hlive), hlive]

theorem State.LiveIn.setHyp {l id : Nat} (h : s.LiveIn part k) : (s.setHyp r part l id).LiveIn part k := by
  unfold State.setHyp
  split
  · exact h
  · exact h.countRef.countRef

/-- Lanes whose sources name live ids. -/
def MayEnter (a : BitVec 7) (v : Env) (ls : List Nat) (s : State) : Prop :=
  ∀ l ∈ ls, (v.src a l).toNat < 4096 ∧ s.LiveIn v.part (v.src a l).toNat

/-- A lane whose source names a live id enters it, and the lanes after it may still enter theirs. -/
theorem henterLane_enters {a : BitVec 7} {l : Nat} {ls : List Nat} (h : MayEnter a v (l :: ls) s) :
    henterLane a v l s = .go (s.setHyp v.r v.part l (v.src a l).toNat) ∧ MayEnter a v ls (s.setHyp v.r v.part l (v.src a l).toNat) := by
  obtain ⟨hlt, p, hp, hlive⟩ := h l List.mem_cons_self
  refine ⟨?_, fun j hj => (h j (List.mem_cons_of_mem _ hj)).imp_right .setHyp⟩
  unfold henterLane
  simp only [hp, Nat.not_le.2 hlt, if_false, hlive, if_true]

theorem hleaveLane_leaves (l : Nat) (s : State) : hleaveLane v l s = .go (leaveLane v s l) := by
  unfold hleaveLane leaveLane
  dsimp only
  split
  · split <;> rfl
  · split <;> rfl

theorem SameRoom.leaveLane {e : FEntry} {l : Nat} : SameRoom v.r e s (leaveLane v s l) := by
  unfold Machine.leaveLane
  split
  · exact .refl
  · exact .ite .refl .setHyp

end

/-! ### `hcf` and `hrf` (11 R315) -/

section
variable {v : Env} {s : State} {confirm : Bool} {d a : BitVec 7}

theorem exec_resolveWords {c : BitVec 1} : ∀ k ∈ [(Instr.hcf c d a, true), (.hrf c d a, false)], ∀ s,
    exec k.1 s = perform (useResolve c d a) (resolveBody k.2 d a) s :=
  List.forall_mem_cons.2 ⟨fun _ => rfl, List.forall_mem_singleton.2 fun _ => rfl⟩

theorem resolveBody_none (h : namesId v a = []) : resolveBody confirm d a v s =
    .done (s.modTeam v.r fun t => t.vset v.r.grp d.toNat v.em fun _ => 2) := if_pos (List.isEmpty_iff.2 h)

theorem resolveBody_files (h : namesId v a ≠ []) : resolveBody confirm d a v s = .done (filed confirm d a v s) :=
  if_neg (mt List.isEmpty_iff.1 h)

theorem SameRoom.filed : SameRoom v.r v.e s (filed confirm d a v s) := by
  unfold Machine.filed
  dsimp only
  refine SameRoom.trans (SameRoom.trans (.modGroup fun x => ?_) .modPart) .postOnce
  exact x.standing_fretUp _

/-! ### `hqry` (11 R316) -/

theorem hqryBody_reads (h : ∀ l, v.em.getLsbD l = true → (v.src a l).toNat < 4096) : hqryBody d a v s =
    lane64 d (fun v l => (((s.part? v.part).map fun p => p.entry (v.src a l).toNat).getD HypEntry.free).image) v s := by
  have hnone : (v.lanes.find? fun l => 4096 ≤ (v.src a l).toNat) = none :=
    List.find?_eq_none.2 fun l hl => by simpa using h l ((mem_lanesOf v.em l).1 hl)
  unfold hqryBody
  simp only [hnone]

end

/-- What two writes of registers leave, the second after the first. -/
def Writes.andThen (w x : Writes) : Writes :=
  { v := fun n l => (x.v n l).or (w.v n l), s := fun n => (x.s n).or (w.s n), p := fun n l => (x.p n l).or (w.p n l)
    status := w.status ||| x.status, key := fun l => (x.key l).or (w.key l), ctr := fun l => (x.ctr l).or (w.ctr l) }

theorem Team.Writes.andThen {g : Nat} {w x : Machine.Writes} {t t1 t2 : Team} (hg : (t1.group? g).isSome) (a : t.Writes g w t1)
    (b : t1.Writes g x t2) : t.Writes g (w.andThen x) t2 := by
  obtain ⟨z, hz⟩ := Option.isSome_iff_exists.1 hg
  refine ⟨fun n l hl => ?_, fun y u hy hu n => ?_, fun y u hy hu n l hl => ?_, fun y u hy hu => ?_, fun y u hy hu l hl => ?_,
    fun y u hy hu l hl => ?_⟩
  · rw [b.vreg n l hl, a.vreg n l hl, ← Option.getD_or]; rfl
  · rw [b.sreg z u hz hu, a.sreg y z hy hz, ← Option.getD_or]; rfl
  · rw [b.preg z u hz hu n l hl, a.preg y z hy hz n l hl, ← Option.getD_or]; rfl
  · rw [b.status z u hz hu, a.status y z hy hz, BitVec.or_assoc]; rfl
  · rw [b.key z u hz hu l hl, a.key y z hy hz l hl, ← Option.getD_or]; rfl
  · rw [b.ctr z u hz hu l hl, a.ctr y z hy hz l hl, ← Option.getD_or]; rfl

/-- A pair is written by its low word and then its high word. -/
theorem Writes.pair_eq_andThen (m : Lanes) (d : BitVec 7) (f : Nat → DWord) : Writes.pair m d f =
    Writes.andThen { v := fun n l => if n = d.toNat ∧ m.getLsbD l then some ((f l).setWidth 32) else none }
      { v := fun n l => if n = d.toNat + 1 ∧ m.getLsbD l then some ((f l).extractLsb' 32 32) else none } := by
  unfold Writes.pair Writes.andThen
  congr 1
  · funext n l
    by_cases hm : m.getLsbD l = true
    · by_cases h1 : n = d.toNat
      · simp [hm, h1, BitVec.setWidth_eq_extractLsb']
      · by_cases h2 : n = d.toNat + 1 <;> simp [hm, h1, h2]
    · simp [hm]
  · exact BitVec.or_zero.symm

theorem Team.Writes.of_vset_pair (t : Team) (g : Nat) (d : BitVec 7) (m : Lanes) (f : Nat → DWord) (h : (t.group? g).isSome) :
    t.Writes g (.pair m d f)
      ((t.vset g d.toNat m fun l => (f l).setWidth 32).vset g (d.toNat + 1) m fun l => (f l).extractLsb' 32 32) := by
  have hs := Team.vset_isSome t g d.toNat m (fun l => (f l).setWidth 32) h
  rw [Writes.pair_eq_andThen]
  exact (Team.Writes.of_vset t g d.toNat m _ h).andThen hs (Team.Writes.of_vset _ g (d.toNat + 1) m _ hs)

end Sys2Proof.Machine
end

section
/-! The obligation. -/

open Sys2Proof Sys2Proof.Machine

/-- Settles O28: the lanes of `hnew`, `henter` and `hleave` go one after the other, each leaving what the next need; the other words answer
at once, write a pair or file their requests. -/
theorem hypothesisWords : Obligations.HypothesisWords := by
  refine ⟨fun c d => ?_, fun c a => ?_, fun c => ?_, fun c d a k hk => ⟨?_, ?_⟩, fun c d a => ?_⟩
  · refine does_of_perform (fun _ => rfl) (fun v s h => ?_) fun v s => .foldl _ .refl fun _ _ => .openLane
    rw [Env.lanes, hypLanes_go (fun _ _ _ => hnewLane_opens) (canOpen_of_mayOpen h)]
    rfl
  · refine does_of_perform (fun _ => rfl) (fun v s ⟨p, hp, h⟩ => ?_) fun v s => .foldl _ .refl fun _ _ => .setHyp
    have hmay : MayEnter a v (lanesOf v.em) s := fun l hl => (h l ((mem_lanesOf _ _).1 hl)).imp_right fun hlive => ⟨p, hp, hlive⟩
    rw [Env.lanes, hypLanes_go (fun _ _ _ => henterLane_enters) hmay]
    rfl
  · refine does_of_perform (fun _ => rfl) (fun v s _ => ?_) fun v s => .foldl _ .refl fun _ _ => .leaveLane
    rw [Env.lanes, hypLanes_go (P := fun _ _ => True) (fun l _ s _ => ⟨hleaveLane_leaves l s, trivial⟩) trivial]
    rfl
  · intro s v h room hnone
    rw [exec_resolveWords k hk]
    exact wrote_of_followed h room (resolveBody_none hnone) (fun t => Team.vset_local ..) fun t ht => .of_vset _ _ _ _ _ ht
  · exact does_of_perform (exec_resolveWords k hk) (fun v s h => resolveBody_files h) fun v s => .filed
  · intro s v h room hlt
    exact wrote_of_followed h room (hqryBody_reads hlt) (fun t => (Team.vset_local ..).trans (Team.vset_local ..))
      fun t ht => .of_vset_pair _ _ _ _ _ ht
end

section
/-! # The tree after a resolution (O55)

`Part.confirm` and `Part.refuteTree` change the entries one list of ids after the other; `entry_merged_ne` and `entry_refute` say what each
entry reads after all of them, and counting the children anew (`Part.recount`) changes NCHILD alone. -/

namespace Sys2Proof.Machine

section
variable {p : Part} {h k n : Nat} {ids : List Nat}

theorem HypEntry.state_ne_zero_of_live {e : HypEntry} (hl : e.live = true) : e.state ≠ 0 := fun h0 => by simp [HypEntry.live, h0] at hl

theorem Part.mem_ids : k ∈ p.ids ↔ k < 4096 ∧ (p.entry k).state ≠ 0 := by simp [Part.ids]

theorem Part.nodup_ids (p : Part) : p.ids.Nodup := List.nodup_range.filter _

theorem Part.mem_ids_of_live (hk : k < 4096) (hl : (p.entry k).live = true) : k ∈ p.ids :=
  Part.mem_ids.2 ⟨hk, HypEntry.state_ne_zero_of_live hl⟩

theorem Part.mem_below {hs : List Nat} : k ∈ p.below hs ↔ k ∈ p.ids ∧ ∃ j ∈ p.path k, j ∈ hs := by simp [Part.below]

theorem Part.mem_children : k ∈ p.children h ↔ k ∈ p.ids ∧ k ≠ 0 ∧ (p.entry k).live = true ∧ (p.entry k).parent.toNat = h := by
  simp [Part.children, and_assoc]

/-! ### Counting the children -/

theorem Part.entry_recount (p : Part) (n : Nat) : p.recount.entry n =
    { p.entry n with nchild := if n ∈ p.ids then BitVec.ofNat 13 (p.children n).length else (p.entry n).nchild } := by
  unfold Part.recount
  rw [Part.entry_foldl_of_nodup (fun h e => { e with nchild := BitVec.ofNat 13 (p.children h).length }) p.nodup_ids]
  split <;> rfl

theorem Part.state_recount (p : Part) (n : Nat) : (p.recount.entry n).state = (p.entry n).state := by
  simp only [p.entry_recount]

theorem Part.depth_recount (p : Part) (n : Nat) : (p.recount.entry n).depth = (p.entry n).depth := by
  simp only [p.entry_recount]

theorem Part.parent_recount (p : Part) (n : Nat) : (p.recount.entry n).parent = (p.entry n).parent := by
  simp only [p.entry_recount]

theorem Part.remap_recount (p : Part) (n : Nat) : (p.recount.entry n).remap = (p.entry n).remap := by
  simp only [p.entry_recount]

theorem Part.live_recount (p : Part) (n : Nat) : (p.recount.entry n).live = (p.entry n).live := by
  unfold HypEntry.live
  rw [p.state_recount]

/-- NCHILD of an id that is not FREE counts its live children as they stand after the count. -/
theorem Part.nchild_recount (hk : k < 4096) (hs : (p.recount.entry k).state ≠ 0) : (p.recount.entry k).nchild =
    BitVec.ofNat 13 ((List.range 4096).filter fun c =>
      c ≠ 0 && (p.recount.entry c).live && decide ((p.recount.entry c).parent.toNat = k)).length := by
  have hmem : k ∈ p.ids := Part.mem_ids.2 ⟨hk, by rwa [p.state_recount] at hs⟩
  have hcount : (p.recount.entry k).nchild = BitVec.ofNat 13 (p.children k).length := by simp only [p.entry_recount, hmem, if_true]
  rw [hcount]
  unfold Part.children Part.ids
  rw [List.filter_filter]
  refine congrArg (fun l : List Nat => BitVec.ofNat 13 l.length) (List.filter_congr fun c _ => ?_)
  rw [p.live_recount, p.parent_recount]
  cases hl : (p.entry c).live
  · simp
  · simpa using fun _ _ => HypEntry.state_ne_zero_of_live hl

/-! ### Refutation (05 R150) -/

/-- An entry of which the id is refuted, if it can be. -/
def HypEntry.refuted (k : Nat) (e : HypEntry) : HypEntry := { e with state := if k ≠ 0 ∧ e.live = true then 4 else e.state }

theorem HypEntry.refuted_refuted (k : Nat) (e : HypEntry) : (e.refuted k).refuted k = e.refuted k := by
  by_cases h : k ≠ 0 ∧ e.live = true
  · have hstate : e.refuted k = { e with state := 4 } := by simp only [HypEntry.refuted, if_pos h]
    rw [hstate]
    simp only [HypEntry.refuted, ite_self]
  · simp only [HypEntry.refuted, if_neg h]

theorem Part.entry_refute_cons (k : Nat) (ids : List Nat) (p : Part) :
    ∃ q : Part, p.refute (k :: ids) = q.refute ids ∧ ∀ n, q.entry n = if n = k then (p.entry n).refuted n else p.entry n := by
  refine ⟨if k ≠ 0 ∧ (p.entry k).live then p.modEntry k fun e => { e with state := 4 } else p, rfl, fun n => ?_⟩
  by_cases hc : k ≠ 0 ∧ (p.entry k).live = true
  · rw [if_pos hc]
    by_cases hn : n = k
    · subst hn
      rw [if_pos rfl, Part.entry_modEntry, HypEntry.refuted, if_pos hc]
    · rw [if_neg hn, Part.entry_modEntry_ne hn]
  · rw [if_neg hc]
    by_cases hn : n = k
    · subst hn
      rw [if_pos rfl, HypEntry.refuted, if_neg hc]
    · rw [if_neg hn]

theorem Part.entry_refute_eq_ite (ids : List Nat) (p : Part) (n : Nat) :
    (p.refute ids).entry n = if n ∈ ids then (p.entry n).refuted n else p.entry n := by
  induction ids generalizing p with
  | nil => rfl
  | cons k ids ih =>
    obtain ⟨q, hq, hentry⟩ := p.entry_refute_cons k ids
    rw [hq, ih, hentry]
    by_cases hn : n = k
    · subst hn
      simp only [List.mem_cons_self, if_true, HypEntry.refuted_refuted, ite_self]
    · simp only [List.mem_cons, hn, false_or, if_false]

theorem Part.entry_refute (ids : List Nat) (p : Part) (n : Nat) : (p.refute ids).entry n =
    { p.entry n with state := if n ∈ ids ∧ n ≠ 0 ∧ (p.entry n).live = true then 4 else (p.entry n).state } := by
  rw [Part.entry_refute_eq_ite]
  by_cases hn : n ∈ ids
  · simp only [hn, if_true, true_and, HypEntry.refuted]
  · simp only [hn, if_false, false_and]

theorem Part.entry_refuteTree (hk : k < 4096) (h0 : k ≠ 0) (hl : (p.entry k).live = true) : (p.refuteTree h).entry k =
    { p.entry k with
      state := if h ∈ p.path k then 4 else (p.entry k).state
      nchild := ((p.refuteTree h).entry k).nchild } := by
  have hmem : k ∈ p.below [h] ↔ h ∈ p.path k := by simp [Part.mem_below, Part.mem_ids_of_live hk hl]
  unfold Part.refuteTree
  rw [Part.entry_recount, Part.entry_refute]
  simp [hmem, h0, hl]

/-! ### Confirmation (05 R148) -/

/-- The ids that a confirmation of h refutes: its siblings with all below them. -/
def Part.lostTo (p : Part) (h : Nat) : List Nat := p.below ((p.children (p.entry h).parent.toNat).filter fun k => k ≠ h)

/-- The ids whose level a confirmation of h changes. -/
def Part.risenWith (p : Part) (h : Nat) : List Nat := (p.below [h]).filter fun k => k ≠ h && (p.entry k).live

theorem Part.nodup_risenWith (p : Part) : (p.risenWith h).Nodup := by
  unfold Part.risenWith Part.below
  exact (p.nodup_ids.filter _).filter _

/-- Remaps that pointed at h point at q. -/
def HypEntry.redirect (h : Nat) (q : BitVec 12) (e : HypEntry) : HypEntry :=
  { e with remap := if e.remap = some (BitVec.ofNat 12 h) then some q else e.remap }

/-- All remaps that pointed at h point at q. -/
def Part.redirect (p : Part) (h : Nat) (q : BitVec 12) : Part := { p with hyp := p.hyp.map fun ke => (ke.1, ke.2.redirect h q) }

theorem Part.entry_redirect (p : Part) (h : Nat) (q : BitVec 12) (n : Nat) : (p.redirect h q).entry n = (p.entry n).redirect h q :=
  Tbl.get_map_value (HypEntry.redirect h q) HypEntry.free p.hyp n rfl

/-- The tree after a confirmation of h, but for the children's count. -/
def Part.merged (p : Part) (h : Nat) : Part :=
  let q := (p.entry h).parent
  let p2 := (p.risenWith h).foldl (fun p k => p.modEntry k fun e => { e with depth := e.depth - 1 }) (p.refute (p.lostTo h))
  let p3 := (p.children h).foldl (fun p k => p.modEntry k fun e => { e with parent := q }) p2
  (p3.modEntry h fun e => { e with state := 3, remap := some q }).redirect h q

theorem Part.confirm_eq (p : Part) (h : Nat) : p.confirm h = (p.merged h).recount := by
  have hmap : ∀ (q : BitVec 12) (ke : Nat × HypEntry),
      (if ke.2.remap = some (BitVec.ofNat 12 h) then (ke.1, { ke.2 with remap := some q }) else ke) = (ke.1, ke.2.redirect h q) :=
    fun q ke => by unfold HypEntry.redirect; split <;> rfl
  unfold Part.confirm Part.merged Part.redirect
  simp only [hmap]
  rfl

/-- Every other entry after a confirmation of h, but for the children's count. -/
theorem Part.entry_merged_ne (hn : n ≠ h) : (p.merged h).entry n = HypEntry.redirect h (p.entry h).parent
    { p.entry n with
      state := if n ∈ p.lostTo h ∧ n ≠ 0 ∧ (p.entry n).live = true then 4 else (p.entry n).state
      depth := if n ∈ p.risenWith h then (p.entry n).depth - 1 else (p.entry n).depth
      parent := if n ∈ p.children h then (p.entry h).parent else (p.entry n).parent } := by
  unfold Part.merged
  rw [Part.entry_redirect, Part.entry_modEntry_ne hn,
    Part.entry_foldl_of_idem (fun e => { e with parent := (p.entry h).parent }) fun _ => rfl,
    Part.entry_foldl_of_nodup (fun _ e => { e with depth := e.depth - 1 }) p.nodup_risenWith, Part.entry_refute]
  by_cases hr : n ∈ p.risenWith h <;> by_cases hc : n ∈ p.children h <;> simp only [hr, hc, if_true, if_false]

theorem Part.entry_merged_self : ((p.merged h).entry h).state = 3 ∧ ((p.merged h).entry h).remap = some (p.entry h).parent := by
  unfold Part.merged
  rw [Part.entry_redirect, Part.entry_modEntry]
  simp only [HypEntry.redirect, ite_self, and_self]

/-! ### What a confirmation makes of each entry -/

/-- An id that a confirmation of h refutes: it is a sibling of h or below one (05 R148). -/
def Part.Lost (p : Part) (h k : Nat) : Prop :=
  ∃ c, c < 4096 ∧ c ≠ h ∧ c ≠ 0 ∧ (p.entry c).live = true ∧ (p.entry c).parent = (p.entry h).parent ∧ c ∈ p.path k

theorem Part.mem_lostTo (hk : k < 4096) (hl : (p.entry k).live = true) : k ∈ p.lostTo h ↔ p.Lost h k := by
  simp only [Part.lostTo, Part.mem_below, Part.mem_ids_of_live hk hl, true_and, List.mem_filter, Part.mem_children, BitVec.toNat_inj,
    decide_eq_true_eq]
  constructor
  · rintro ⟨c, hc, ⟨hids, h0, hcl, hq⟩, hne⟩
    exact ⟨c, (Part.mem_ids.1 hids).1, hne, h0, hcl, hq, hc⟩
  · rintro ⟨c, hlt, hne, h0, hcl, hq, hc⟩
    exact ⟨c, hc, ⟨Part.mem_ids_of_live hlt hcl, h0, hcl, hq⟩, hne⟩

theorem Part.mem_risenWith (hk : k < 4096) (hne : k ≠ h) (hl : (p.entry k).live = true) : k ∈ p.risenWith h ↔ h ∈ p.path k := by
  simp [Part.risenWith, Part.mem_below, Part.mem_ids_of_live hk hl, hne, hl]

/-- The confirmed id itself. -/
theorem Part.confirm_self : ((p.confirm h).entry h).state = 3 ∧ ((p.confirm h).entry h).remap = some (p.entry h).parent := by
  rw [p.confirm_eq, Part.state_recount, Part.remap_recount]
  exact Part.entry_merged_self

theorem Part.confirm_lost (hk : k < 4096) (h0 : k ≠ 0) (hne : k ≠ h) (hl : (p.entry k).live = true) (hlost : p.Lost h k) :
    ((p.confirm h).entry k).state = 4 := by
  rw [p.confirm_eq, Part.state_recount, Part.entry_merged_ne hne]
  simp only [HypEntry.redirect, (Part.mem_lostTo hk hl).2 hlost, h0, hl, ne_eq, not_false_eq_true, and_self, if_true]

/-- What stays live: its level, where the confirmed id is on its path, and its parent, where that is the confirmed id. -/
theorem Part.confirm_kept (hk : k < 4096) (h0 : k ≠ 0) (hne : k ≠ h) (hl : (p.entry k).live = true) (hlost : ¬p.Lost h k) :
    ((p.confirm h).entry k).state = (p.entry k).state ∧
      ((p.confirm h).entry k).depth = (if h ∈ p.path k then (p.entry k).depth - 1 else (p.entry k).depth) ∧
      ((p.confirm h).entry k).parent = if (p.entry k).parent.toNat = h then (p.entry h).parent else (p.entry k).parent := by
  have hchild : k ∈ p.children h ↔ (p.entry k).parent.toNat = h := by simp [Part.mem_children, Part.mem_ids_of_live hk hl, h0, hl]
  rw [p.confirm_eq, Part.state_recount, Part.depth_recount, Part.parent_recount, Part.entry_merged_ne hne]
  simp only [HypEntry.redirect, mt (Part.mem_lostTo hk hl).1 hlost, false_and, if_false, Part.mem_risenWith hk hne hl, hchild, and_self]

theorem Part.confirm_remap (hne : k ≠ h) (hr : (p.entry k).remap = some (BitVec.ofNat 12 h)) :
    ((p.confirm h).entry k).remap = some (p.entry h).parent := by
  rw [p.confirm_eq, Part.remap_recount, Part.entry_merged_ne hne]
  simp only [HypEntry.redirect, hr, if_true]

theorem Part.confirm_nchild (hk : k < 4096) (hs : ((p.confirm h).entry k).state ≠ 0) : ((p.confirm h).entry k).nchild =
    BitVec.ofNat 13 ((List.range 4096).filter fun c =>
      c ≠ 0 && ((p.confirm h).entry c).live && decide (((p.confirm h).entry c).parent.toNat = k)).length := by
  rw [p.confirm_eq] at hs ⊢
  exact Part.nchild_recount hk hs

end

end Sys2Proof.Machine
end

section
/-! # The hypothesis controller's events (O55)

What the data of the resolved ids go through leaves every tree (`SameTrees`): a version that finds no room in the spill area may add a request or
note a wait, and nothing else of a partition changes. -/

namespace Sys2Proof.Machine

section
variable {s t u : State} {part n : Nat} {p : Part}

/-! ### Answers on their way -/

/-- A partition once the answer of a request is on its way to its word. -/
def Part.answered (p : Part) (r : HypReq) (status : Word) : Part :=
  { p with completing := p.completing ++ if r.g.isSome then [(r, status)] else [] }

theorem Part.answered_completing {r : HypReq} {g : GroupRef} (h : r.g = some g) (status : Word) :
    (p.answered r status).completing = p.completing ++ [(r, status)] := by
  simp only [Part.answered, h, Option.isSome_some, if_true]

theorem State.part?_answer (hp : s.part? part = some p) (r : HypReq) (status : Word) :
    (s.answer part r status).part? part = some (p.answered r status) := by
  unfold State.answer Part.answered
  split
  · next h => simp [h, hp]
  · next g h =>
    rw [h, Option.isSome_some, if_pos rfl, State.part?_of_parts (State.post_parts ..)]
    exact State.part?_modPart_some hp

theorem State.mem_answer {r : HypReq} {g : GroupRef} (h : r.g = some g) (status : Word) :
    .hypResolutionComplete part g ∈ (s.answer part r status).pending := by
  unfold State.answer
  rw [h]
  exact State.mem_post _ _

theorem State.answer_dies (r : HypReq) (status : Word) : (s.answer part r status).dies = s.dies := by
  unfold State.answer
  split
  · rfl
  · exact State.modPart_dies ..

theorem State.die_of_dies (h : t.dies = s.dies) (d : Nat) : t.die d = s.die d := congrArg (Tbl.get Die.reset · d) h

/-! ### What leaves the trees -/

/-- A partition's tree, with the request under way. -/
def Part.tree (p : Part) : Tbl HypEntry × Option HypReq := (p.hyp, p.resolving)

/-- Every partition has the tree that it had. -/
def SameTrees (s t : State) : Prop := ∀ n, (t.part? n).map Part.tree = (s.part? n).map Part.tree

theorem SameTrees.refl : SameTrees s s := fun _ => rfl

theorem SameTrees.trans (h : SameTrees s t) (k : SameTrees t u) : SameTrees s u := fun n => (k n).trans (h n)

theorem SameTrees.of_parts (h : t.parts = s.parts) : SameTrees s t := fun n => by rw [State.part?_of_parts h]

theorem SameTrees.post {i : Instr} : SameTrees s (s.post i) := .of_parts rfl

theorem SameTrees.postOnce {i : Instr} : SameTrees s (s.postOnce i) := .of_parts (s.postOnce_parts i)

theorem SameTrees.postEvent : SameTrees s s.postEvent := .of_parts rfl

theorem SameTrees.foldl {α : Type} {f : State → α → State} (l : List α) (hf : ∀ u a, SameTrees u (f u a)) : SameTrees s (l.foldl f s) :=
  List.foldlRecOn (motive := fun t => SameTrees s t) _ _ .refl fun t h a _ => h.trans (hf t a)

theorem State.part?_modPart_ne {f : Part → Part} (h : n ≠ part) : (s.modPart part f).part? n = s.part? n := by
  unfold State.modPart
  split
  · rfl
  · unfold State.part?
    rw [Tbl.get_set_ne _ _ _ _ _ h]

theorem SameTrees.modPart {f : Part → Part} (hf : ∀ p, (f p).tree = p.tree) : SameTrees s (s.modPart part f) := fun n => by
  by_cases h : n = part
  · subst h
    rw [State.part?_modPart, Option.map_map]
    exact congrArg (Option.map · _) (funext hf)
  · rw [State.part?_modPart_ne h]

theorem SameTrees.part? (h : SameTrees s t) (hp : s.part? part = some p) :
    ∃ q, t.part? part = some q ∧ q.hyp = p.hyp ∧ q.resolving = p.resolving := by
  have hq := h part
  rw [hp] at hq
  obtain ⟨q, hq, he⟩ := Option.map_eq_some_iff.1 hq
  obtain ⟨hhyp, hres⟩ : q.hyp = p.hyp ∧ q.resolving = p.resolving := by
    simpa [Part.tree] using he
  exact ⟨q, hq, hhyp, hres⟩

/-! ### Places in the LLC and writes at the homes -/

theorem SameTrees.hypcap {line tag : Nat} : SameTrees s (s.hypcap part line tag) := by
  unfold State.hypcap
  split
  · exact .refl
  · split
    · split
      · exact .refl
      · split
        · exact .refl
        · refine SameTrees.trans (.modPart fun _ => ?_) .postOnce
          rfl
    · split
      · exact .refl
      · refine SameTrees.trans (.modPart fun _ => ?_) .postEvent
        rfl

theorem SameTrees.evictVersion {key : Nat} (h : s.evictVersion key = .inr t) : SameTrees s t := by
  unfold State.evictVersion at h
  dsimp only at h
  split at h
  · cases h
  · split at h
    · cases h
    · split at h
      · cases h
        exact .hypcap
      · cases h

theorem SameTrees.llcAlloc {tag line : Nat} (h : s.llcAlloc part tag line = .inl t) : SameTrees s t := .of_parts (Spilled.llcAlloc h).parts

/-- Where the LLC finds no room. -/
theorem SameTrees.llcAlloc_waits {tag line : Nat} (h : s.llcAlloc part tag line = .inr t) : SameTrees s t := by
  unfold State.llcAlloc at h
  dsimp only at h
  split at h
  · cases h
  · split at h
    · cases h
    · split at h
      · cases h
      · split at h
        · cases h
          exact .refl
        · split at h
          · next hev =>
            cases h
            exact SameTrees.trans (.of_parts (t := { s with choices := s.choices + 1 }) rfl) (.evictVersion hev)
          · cases h

theorem SameTrees.holdRoot {line : Nat} : SameTrees s (s.holdRoot part line) := by
  unfold State.holdRoot
  split
  · next h => exact .llcAlloc h
  · next h => exact .llcAlloc_waits h

theorem SameTrees.sendInvalidations {w : LineWrite} {x : Nat} : SameTrees s (s.sendInvalidations w x) := by
  obtain ⟨ps, h⟩ := s.sendInvalidations_eq w x
  rw [h]
  exact .of_parts rfl

theorem SameTrees.selfInvalidate {die : Nat} {w : LineWrite} : SameTrees s (s.selfInvalidate die w) := by
  unfold State.selfInvalidate
  split
  · exact .post
  · exact .refl

theorem SameTrees.wakeRings {line : Nat} {m : LineMask} {hyp : BitVec 12} : SameTrees s (s.wakeRings line m hyp) := by
  refine .foldl _ fun u i => ?_
  split
  · exact .refl
  · split
    · exact .refl
    · exact .post

theorem SameTrees.rootApply {line : Nat} {x : LineBytes} {clock : List Nat} {except : Nat} {psn : Bool} :
    SameTrees s (s.rootApply line x clock except part psn) := by
  unfold State.rootApply
  dsimp only
  refine SameTrees.trans (SameTrees.trans (SameTrees.trans ?_ .sendInvalidations) .selfInvalidate) .wakeRings
  exact SameTrees.holdRoot.trans (.of_parts rfl)

/-! ### The data of the resolved ids (05 R144, R151) -/

theorem State.unspill_parts_dies (tag line : Nat) :
    (s.unspill part tag line).parts = s.parts ∧ (s.unspill part tag line).dies = s.dies := by
  unfold State.unspill
  split
  · exact ⟨rfl, rfl⟩
  · split
    · exact ⟨rfl, rfl⟩
    · split <;> exact ⟨rfl, rfl⟩

theorem SameTrees.dropVersion {tag line : Nat} : SameTrees s (s.dropVersion part tag line) := .of_parts (s.unspill_parts_dies tag line).1

theorem State.versionWrite_parts (tag line : Nat) (x : LineBytes) (psn : Bool) : (s.versionWrite part tag line x psn).parts = s.parts := rfl

theorem SameTrees.mergeVersion {h q line : Nat} {v : Version} : SameTrees s (s.mergeVersion part h q line v) := by
  unfold State.mergeVersion
  dsimp only
  split
  · exact SameTrees.dropVersion.trans .rootApply
  · refine SameTrees.trans ?_ .sendInvalidations
    refine SameTrees.trans ?_ (.of_parts (State.versionWrite_parts ..))
    refine SameTrees.trans (.dropVersion (part := part) (tag := h) (line := line)) ?_
    have hspill : ∀ u : State, SameTrees u (u.unspill part q line) := fun u => .of_parts (u.unspill_parts_dies q line).1
    split
    · next halloc => exact (hspill _).trans (.llcAlloc halloc)
    · next halloc => exact (hspill _).trans (.llcAlloc_waits halloc)

theorem SameTrees.mergeVersions {h q : Nat} : SameTrees s (s.mergeVersions part h q) := by
  refine .foldl _ fun u kv => ?_
  split
  · exact .refl
  · exact .mergeVersion

theorem SameTrees.modDie {d : Nat} {f : Die → Die} : SameTrees s (s.modDie d f) := .of_parts rfl

theorem SameTrees.relabel {h q : Nat} : SameTrees s (s.relabel part h q) := .foldl _ fun _ _ => .modDie

theorem SameTrees.relabelTags {h q : Nat} : SameTrees s (s.relabelTags part h q) := by
  refine .foldl _ fun u kt => ?_
  split
  · exact .refl
  · split <;> exact .of_parts rfl

theorem SameTrees.discard {id : Nat} : SameTrees s (s.discard part id) := by
  unfold State.discard
  extract_lets mine s1 s2
  have hframes : SameTrees s s1 := .foldl _ fun _ _ => .modDie
  clear_value s1
  have htags : SameTrees s s2 := hframes.trans (.of_parts rfl)
  exact htags.trans (.foldl _ fun _ _ => .dropVersion)

theorem SameTrees.settleData {h q : Nat} {confirm : Bool} {ids : List Nat} : SameTrees s (s.settleData part h q confirm ids) := by
  unfold State.settleData
  dsimp only
  refine SameTrees.trans ?_ (.foldl _ fun _ _ => .discard)
  split
  · exact (SameTrees.relabel.trans .relabelTags).trans .mergeVersions
  · exact .refl

/-! ### Frames of refuted ids (05 R151) -/

/-- A change of some dies. -/
theorem State.die_foldl_modDie (f : Die → Die) {ds : List Nat} (hn : ds.Nodup) (s : State) (d : Nat) :
    (ds.foldl (fun s d => s.modDie d f) s).die d = if d ∈ ds then f (s.die d) else s.die d := by
  induction ds generalizing s with
  | nil => rfl
  | cons c ds ih =>
    obtain ⟨hc, hn⟩ := List.nodup_cons.1 hn
    rw [List.foldl_cons, ih hn]
    by_cases h : d = c
    · subst h
      simp [hc]
    · simp [h, State.die_modDie_ne _ _ _ _ h]

/-- A frame that is left on a die was there, and is none of the discarded id's. -/
theorem State.l2_discard {id d : Nat} {f : Nat × Option Frame} (hf : f ∈ ((s.discard part id).die d).l2) :
    f ∈ (s.die d).l2 ∧ (d < 12 → ¬(keyPart f.1 = part ∧ keyTag f.1 = id)) := by
  unfold State.discard at hf
  extract_lets mine s1 s2 at hf
  have hframes : s1.die d = if d ∈ List.range 12 then { s.die d with
      l2 := (s.die d).l2.filter fun kf => !mine kf.1, out := (s.die d).out.filter fun o => !(mine o.key && o.sent.isNone) } else s.die d :=
    State.die_foldl_modDie _ List.nodup_range s d
  clear_value s1
  have hdies : ((s2.versions.filter fun kv => mine kv.1).foldl (fun s kv => s.dropVersion part id (keyLine kv.1)) s2).dies = s1.dies :=
    List.foldlRecOn (motive := fun t : State => t.dies = s1.dies) _ _ rfl
      fun t ht kv _ => (t.unspill_parts_dies id (keyLine kv.1)).2.trans ht
  rw [State.die_of_dies hdies, hframes] at hf
  split at hf
  · obtain ⟨hin, hnot⟩ := List.mem_filter.1 hf
    exact ⟨hin, fun _ ⟨hpart, htag⟩ => by simp [mine, hpart, htag] at hnot⟩
  · next hd => exact ⟨hf, fun hlt => absurd (List.mem_range.2 hlt) hd⟩

/-- After the data of ids is discarded no die has a frame of them. -/
theorem State.l2_foldl_discard {ids : List Nat} {d : Nat} {f : Nat × Option Frame}
    (hf : f ∈ ((ids.foldl (fun s k => s.discard part k) s).die d).l2) :
    f ∈ (s.die d).l2 ∧ ∀ k ∈ ids, d < 12 → ¬(keyPart f.1 = part ∧ keyTag f.1 = k) := by
  induction ids generalizing s with
  | nil => exact ⟨hf, fun k hk => absurd hk List.not_mem_nil⟩
  | cons id ids ih =>
    obtain ⟨hin, hrest⟩ := ih hf
    obtain ⟨hin, hnot⟩ := State.l2_discard hin
    exact ⟨hin, List.forall_mem_cons.2 ⟨hnot, hrest⟩⟩

/-! ### The work left to the slices (05 R151) -/

/-- Two trees of which the entries differ in the slices that have still to report. -/
structure Part.SameButDue (p q : Part) : Prop where
  entry : ∀ k, q.entry k = { p.entry k with due := (q.entry k).due }
  resolving : q.resolving = p.resolving

theorem Part.SameButDue.refl (p : Part) : p.SameButDue p := ⟨fun _ => rfl, rfl⟩

theorem Part.SameButDue.modDue {q : Part} (h : p.SameButDue q) (id : Nat) (due : List Nat) :
    p.SameButDue (q.modEntry id fun e => { e with due := due }) := by
  refine ⟨fun k => ?_, h.resolving⟩
  by_cases hk : k = id
  · subst hk
    rw [Part.entry_modEntry, h.entry k]
  · rw [Part.entry_modEntry_ne hk]
    exact h.entry k

/-- Once its work is assigned a tree is the same but for the slices that have to report, and no die has changed. -/
theorem State.part?_assignWork (hp : s.part? part = some p) (work : List (Nat × List Nat)) :
    (∃ q, (s.assignWork part work).part? part = some q ∧ p.SameButDue q) ∧ (s.assignWork part work).dies = s.dies := by
  refine List.foldlRecOn (motive := fun t : State => (∃ q, t.part? part = some q ∧ p.SameButDue q) ∧ t.dies = s.dies) _ _
    ⟨⟨p, hp, .refl p⟩, rfl⟩ fun t ht iw _ => ?_
  obtain ⟨⟨q, hq, hsame⟩, hdies⟩ := ht
  have hmod := State.part?_modPart_some (f := fun p => p.modEntry iw.1 fun e => { e with due := iw.2 }) hq
  rw [State.foldl_post]
  exact ⟨⟨_, hmod, hsame.modDue iw.1 iw.2⟩, (State.modPart_dies ..).trans hdies⟩

end

end Sys2Proof.Machine
end

section
/-! # The events of a resolution (O55) -/

namespace Sys2Proof.Machine

section
variable {s t : State} {part : Nat} {p : Part} {r : HypReq} {rest : List HypReq}

/-! ### A request is taken up (05 R147) -/

theorem occurs_hypRequestTakeup_busy (hp : s.part? part = some p) (hr : p.resolving = some r) :
    Occurs (.hypRequestTakeup part) s (s.postOnce (.hypRequestTakeup part)) := by
  show execHypRequestTakeup part s = happened _
  unfold execHypRequestTakeup
  simp only [hp, hr]

theorem occurs_hypRequestTakeup_idle (hp : s.part? part = some p) (hr : p.resolving = none) (hq : p.reqs = []) :
    Occurs (.hypRequestTakeup part) s s := by
  show execHypRequestTakeup part s = happened _
  unfold execHypRequestTakeup
  simp only [hp, hr, hq]

/-- The state once the controller has taken the first request from its queue. -/
def State.dequeued (s : State) (part : Nat) (rest : List HypReq) : State :=
  let s1 := s.modPart part fun p => { p with reqs := rest }
  if rest.isEmpty then s1 else s1.postOnce (.hypRequestTakeup part)

theorem State.part?_dequeued (hp : s.part? part = some p) : (s.dequeued part rest).part? part = some { p with reqs := rest } := by
  have hmod : (s.modPart part fun p => { p with reqs := rest }).part? part = some { p with reqs := rest } := State.part?_modPart_some hp
  unfold State.dequeued
  split
  · exact hmod
  · rwa [State.part?_of_parts (State.postOnce_parts ..)]

/-- A partition that has begun a request: an id that is to be confirmed is COMMITTING. -/
def Part.begun (p : Part) (r : HypReq) : Part :=
  let p1 := { p with resolving := some r }
  if r.confirm then p1.modEntry r.id.toNat fun e => { e with state := 2 } else p1

theorem Part.begun_resolving : (p.begun r).resolving = some r := by
  unfold Part.begun
  split <;> rfl

theorem Part.begun_reqs : (p.begun r).reqs = p.reqs := by
  unfold Part.begun
  split <;> rfl

theorem Part.entry_begun (k : Nat) :
    (p.begun r).entry k = if r.confirm = true ∧ k = r.id.toNat then { p.entry k with state := 2 } else p.entry k := by
  unfold Part.begun
  by_cases hc : r.confirm = true
  · by_cases hk : k = r.id.toNat
    · subst hk
      simp only [hc, and_self, if_true, Part.entry_modEntry]
      rfl
    · simp only [hc, hk, and_false, if_true, if_false, Part.entry_modEntry_ne hk]
      rfl
  · simp only [hc, Bool.false_eq_true, false_and, if_false]
    rfl

theorem exec_hypRequestTakeup (hp : s.part? part = some p) (hr : p.resolving = none) (hq : p.reqs = r :: rest) :
    exec (.hypRequestTakeup part) s =
      if (p.entry r.id.toNat).state = 1 then
        happened (((s.dequeued part rest).modPart part fun p => p.begun r).post (.hypCommit part))
      else happened ((s.dequeued part rest).answer part r 1) := by
  show execHypRequestTakeup part s = _
  unfold execHypRequestTakeup
  simp only [hp, hr, hq]
  rfl

theorem occursWith_hypRequestTakeup_live (hp : s.part? part = some p) (hr : p.resolving = none) (hq : p.reqs = r :: rest)
    (hl : (p.entry r.id.toNat).state = 1) :
    OccursWith (.hypRequestTakeup part) s fun t => .hypCommit part ∈ t.pending ∧
      ∃ p', t.part? part = some p' ∧ p'.reqs = rest ∧ p'.resolving = some r ∧
        ∀ k, p'.entry k = if r.confirm = true ∧ k = r.id.toNat then { p.entry k with state := 2 } else p.entry k := by
  refine occursWith_of_happened ((exec_hypRequestTakeup hp hr hq).trans (if_pos hl)) ⟨State.mem_post _ _, ?_⟩
  exact ⟨_, State.part?_modPart_some (State.part?_dequeued hp), Part.begun_reqs, Part.begun_resolving, Part.entry_begun⟩

theorem occursWith_hypRequestTakeup_resolved (hp : s.part? part = some p) (hr : p.resolving = none) (hq : p.reqs = r :: rest)
    (hl : (p.entry r.id.toNat).state ≠ 1) :
    OccursWith (.hypRequestTakeup part) s fun t =>
      ∃ p', t.part? part = some p' ∧ p'.reqs = rest ∧ p'.resolving = none ∧ p'.hyp = p.hyp ∧
        ∀ g, r.g = some g → p'.completing = p.completing ++ [(r, 1)] ∧ .hypResolutionComplete part g ∈ t.pending := by
  refine occursWith_of_happened ((exec_hypRequestTakeup hp hr hq).trans (if_neg hl)) ?_
  exact ⟨_, State.part?_answer (State.part?_dequeued hp) r 1, rfl, hr, rfl,
    fun g hg => ⟨Part.answered_completing hg 1, State.mem_answer hg 1⟩⟩

/-! ### The commit (05 R148, R150) -/

theorem occurs_hypCommit_idle (hp : s.part? part = some p) (hr : p.resolving = none) : Occurs (.hypCommit part) s s := by
  show execHypCommit part s = happened _
  unfold execHypCommit
  simp only [hp, hr]

theorem State.mem_foldl_postOnce {α : Type} (f : α → Instr) (l : List α) {i : Instr} (h : i ∈ s.pending ∨ i ∈ l.map f) :
    i ∈ (l.foldl (fun s a => s.postOnce (f a)) s).pending := by
  induction l generalizing s with
  | nil => simpa using h
  | cons a l ih =>
    refine ih ?_
    rw [List.map_cons, List.mem_cons] at h
    rcases h with h | rfl | h
    · exact .inl (State.mem_postOnce_of_mem h)
    · exact .inl (State.mem_postOnce ..)
    · exact .inr h

theorem State.foldl_postOnce_parts_hbm {α : Type} (f : α → Instr) (l : List α) :
    (l.foldl (fun s a => s.postOnce (f a)) s).parts = s.parts ∧ (l.foldl (fun s a => s.postOnce (f a)) s).hbm = s.hbm :=
  List.foldlRecOn (motive := fun t : State => t.parts = s.parts ∧ t.hbm = s.hbm) _ _ ⟨rfl, rfl⟩ fun t ⟨hparts, hhbm⟩ a _ =>
    ⟨(t.postOnce_parts (f a)).trans hparts, (t.postOnce_hbm (f a)).trans hhbm⟩

/-- A confirmation waits until the writes of its id have left the dies. -/
theorem occursWith_hypCommit_waits (hp : s.part? part = some p) (hr : p.resolving = some r) (hc : r.confirm = true)
    (hd : s.unsentDies part r.id.toNat (p.entry r.id.toNat).parent.toNat ≠ []) :
    OccursWith (.hypCommit part) s fun t =>
      (∀ d ∈ s.unsentDies part r.id.toNat (p.entry r.id.toNat).parent.toNat, .rootWriteBatchSend d ∈ t.pending) ∧
        .hypCommit part ∈ t.pending ∧ t.parts = s.parts ∧ t.hbm = s.hbm := by
  have hexec : exec (.hypCommit part) s = happened (((s.unsentDies part r.id.toNat (p.entry r.id.toNat).parent.toNat).foldl
      (fun s d => s.postOnce (.rootWriteBatchSend d)) s).post (.hypCommit part)) := by
    show execHypCommit part s = _
    unfold execHypCommit
    simp only [hp, hr, hc, if_true, List.isEmpty_eq_false_iff.2 hd, Bool.not_false]
  refine occursWith_of_happened hexec ⟨fun d h => ?_, State.mem_post _ _, State.foldl_postOnce_parts_hbm _ _⟩
  exact List.mem_append_left _ (State.mem_foldl_postOnce _ _ (.inr (List.mem_map_of_mem h)))

/-- The tree after the commit of a request. -/
def Part.afterCommit (p : Part) (r : HypReq) : Part := if r.confirm then p.confirm r.id.toNat else p.refuteTree r.id.toNat

/-- The state after the commit of a request, but for the ids that become FREE and the answer. -/
def State.afterCommit (s : State) (part : Nat) (p : Part) (r : HypReq) : State :=
  let ids := p.resolved r.id.toNat r.confirm
  ((s.modPart part fun p => { p.afterCommit r with resolving := none }).settleData part r.id.toNat (p.entry r.id.toNat).parent.toNat r.confirm
    ids).assignWork part (ids.map fun k => (k, s.slicesOf part k))

theorem exec_hypCommit (hp : s.part? part = some p) (hr : p.resolving = some r)
    (hd : r.confirm = true → s.unsentDies part r.id.toNat (p.entry r.id.toNat).parent.toNat = []) :
    exec (.hypCommit part) s = happened (((s.afterCommit part p r).modPart part fun p => p.freeIds).answer part r 0) := by
  have hdirty : (if r.confirm then s.unsentDies part r.id.toNat (p.entry r.id.toNat).parent.toNat else []) = [] := by
    split
    · next hc => exact hd hc
    · rfl
  show execHypCommit part s = _
  unfold execHypCommit
  simp only [hp, hr, hdirty, List.isEmpty_nil, Bool.not_true, Bool.false_eq_true, if_false]
  rfl

/-- The slices have their work, and the tree is as the commit has left it. -/
theorem State.part?_afterCommit (hp : s.part? part = some p) :
    ∃ q, (s.afterCommit part p r).part? part = some q ∧ q.resolving = none ∧
      ∀ k, q.entry k = { (p.afterCommit r).entry k with due := (q.entry k).due } := by
  have hmod : (s.modPart part fun p => { p.afterCommit r with resolving := none }).part? part =
      some { p.afterCommit r with resolving := none } := State.part?_modPart_some hp
  obtain ⟨q, hq, hhyp, hres⟩ := SameTrees.settleData.part? hmod
  obtain ⟨⟨q', hq', hsame⟩, -⟩ := State.part?_assignWork hq _
  refine ⟨q', hq', hsame.resolving.trans hres, fun k => ?_⟩
  have hentry : q.entry k = (p.afterCommit r).entry k := congrArg (Tbl.get HypEntry.free · k) hhyp
  rw [← hentry]
  exact hsame.entry k

/-- No die has a frame of an id whose data were discarded. -/
theorem State.l2_afterCommit (hp : s.part? part = some p) {k d : Nat} (hk : k ∈ p.resolved r.id.toNat r.confirm)
    (hne : ¬(r.confirm = true ∧ k = r.id.toNat)) (hd : d < 12) {f : Nat × Option Frame} (hf : f ∈ ((s.afterCommit part p r).die d).l2) :
    ¬(keyPart f.1 = part ∧ keyTag f.1 = k) := by
  have hmod : (s.modPart part fun p => { p.afterCommit r with resolving := none }).part? part =
      some { p.afterCommit r with resolving := none } := State.part?_modPart_some hp
  obtain ⟨q, hq, -⟩ := SameTrees.settleData.part? hmod
  unfold State.afterCommit at hf
  rw [State.die_of_dies (State.part?_assignWork hq _).2] at hf
  refine (State.l2_foldl_discard hf).2 k (List.mem_filter.2 ⟨hk, ?_⟩) hd
  cases hc : r.confirm
  · rfl
  · simpa [hc] using hne

theorem Part.freeIds_resolving (p : Part) : p.freeIds.resolving = p.resolving :=
  List.foldlRecOn (motive := fun q : Part => q.resolving = p.resolving) _ _ rfl fun _ hq _ _ =>
    List.foldlRecOn (motive := fun u : Part => u.resolving = p.resolving) _ _ hq fun _ hu _ _ => hu

/-- An entry that differs from another in the slices that have to report, once ids have become FREE. -/
theorem Part.entry_freeIds_of_due {e : HypEntry} {k : Nat} (h : p.entry k = { e with due := (p.entry k).due }) :
    (e.live = true → p.freeIds.entry k = { e with due := (p.freeIds.entry k).due }) ∧
      (p.freeIds.entry k = { HypEntry.free with remap := e.remap } ∨ p.freeIds.entry k = { e with due := (p.freeIds.entry k).due }) := by
  have hremap : (p.entry k).remap = e.remap := by rw [h]
  have hlive : (p.entry k).live = e.live := by rw [h]; rfl
  obtain hsame | ⟨hspent, hfree⟩ := p.entry_freeIds k
  · rw [hsame]
    exact ⟨fun _ => h, .inr h⟩
  · refine ⟨fun hl => absurd hspent (HypEntry.not_spent_of_live (hlive.trans hl)), .inl ?_⟩
    rw [hfree, HypEntry.freed, hremap]

theorem occursWith_hypCommit (hp : s.part? part = some p) (hr : p.resolving = some r)
    (hd : r.confirm = true → s.unsentDies part r.id.toNat (p.entry r.id.toNat).parent.toNat = []) :
    OccursWith (.hypCommit part) s fun t => ∃ p', t.part? part = some p' ∧ p'.resolving = none ∧
      (∀ g, r.g = some g → (r, 0) ∈ p'.completing ∧ .hypResolutionComplete part g ∈ t.pending) ∧
      (∀ k, (((p.afterCommit r).entry k).live = true → p'.entry k = { (p.afterCommit r).entry k with due := (p'.entry k).due }) ∧
        (p'.entry k = { HypEntry.free with remap := ((p.afterCommit r).entry k).remap } ∨
          p'.entry k = { (p.afterCommit r).entry k with due := (p'.entry k).due })) ∧
      ∀ k ∈ p.resolved r.id.toNat r.confirm, ¬(r.confirm = true ∧ k = r.id.toNat) → ∀ d, d < 12 → ∀ f ∈ (t.die d).l2,
        ¬(keyPart f.1 = part ∧ keyTag f.1 = k) := by
  obtain ⟨q, hq, hres, hentry⟩ := State.part?_afterCommit (r := r) hp
  refine occursWith_of_happened (exec_hypCommit hp hr hd)
    ⟨_, State.part?_answer (State.part?_modPart_some hq) r 0, q.freeIds_resolving.trans hres, fun g hg => ⟨?_, State.mem_answer hg 0⟩, fun k =>
      Part.entry_freeIds_of_due (hentry k), fun k hk hne d hlt f hf => State.l2_afterCommit hp hk hne hlt ?_⟩
  · rw [Part.answered_completing hg]
    exact List.mem_append_right _ (List.mem_singleton_self _)
  · have hdies := (State.answer_dies (part := part) r 0).trans (State.modPart_dies (s.afterCommit part p r) part fun p => p.freeIds)
    exact (congrArg (f ∈ Die.l2 ·) (State.die_of_dies hdies d)).mp hf

/-! ### The answer reaches the word (05 R148, 11 R315) -/

section
variable {g : GroupRef} {x : Group} {w : HypWord} {status : Word}

/-- The statuses of a word once a request of it is answered. -/
def HypWord.answered (w : HypWord) (r : HypReq) (status : Word) : HypWord :=
  { w with status := w.status.set 0 r.lane status, left := w.left - 1 }

/-- What the word's group, `x` before and `y` after, and its registers read once a request of the word is answered: with the last one the
word completes, and otherwise it waits on with one request less. -/
def HypWord.AnsweredIn (w : HypWord) (g : GroupRef) (r : HypReq) (status : Word) (s t : State) (x y : Group) : Prop :=
  (w.left ≤ 1 → (∀ l, l < 32 → w.lanes.getLsbD l = true → t.vreg g w.d l = (w.answered r status).status.get 0 l) ∧
    (∀ z ∈ y.hypWords, z.ix ≠ w.ix) ∧ ∀ f, w.fret = some f → y.fret f = ⟨(x.fret f).cnt - 1, (x.fret f).st⟩) ∧
  (2 ≤ w.left → w.answered r status ∈ y.hypWords ∧ ∀ n l, t.vreg g n l = s.vreg g n l)

/-- A team in which the word's lanes hold their statuses. -/
def Team.withStatuses (g : Nat) (w : HypWord) (st : Tbl Word) (t : Team) : Team := t.vset g w.d w.lanes fun l => st.get 0 l

/-- A group that a word has left, completed on its fret. -/
def Group.wordDone (w : HypWord) (x : Group) : Group := { x with hypWords := x.hypWords.filter fun y => y.ix ≠ w.ix }.fretDown w.fret 0

theorem State.stepPerms_of_nil (hx : s.group? g = some x) (h : x.perms = []) : s.stepPerms g = s := by
  unfold State.stepPerms
  simp only [hx, h, List.foldl_nil]

theorem Group.perms_rest {x y : Group} (h : y.rest = x.rest) : y.perms = x.perms := by
  have hrest : y.rest.perms = x.rest.perms := by rw [h]
  exact hrest

theorem Group.frets_rest {x y : Group} (h : y.rest = x.rest) : y.frets = x.frets := by
  have hrest : y.rest.frets = x.rest.frets := by rw [h]
  exact hrest

/-- The group keeps all but its registers when a word writes its statuses. -/
theorem State.group?_withStatuses (hx : s.group? g = some x) (st : Tbl Word) :
    ∃ y, (s.modTeam g (Team.withStatuses g.grp w st)).group? g = some y ∧ y.rest = x.rest := by
  obtain ⟨t, ht, hg⟩ := Option.bind_eq_some_iff.1 hx
  obtain ⟨f, hf, hkeeps⟩ := (Team.vset_local t g.grp w.d w.lanes fun l => st.get 0 l).group
  refine ⟨f x, ?_, (hkeeps x hg).rest⟩
  rw [State.group?_modTeam, ht]
  exact hf.trans (by rw [hg]; rfl)

theorem Group.wordDone_perms : (x.wordDone w).perms = x.perms := by
  unfold Group.wordDone
  cases w.fret <;> rfl

theorem Group.wordDone_hypWords : (x.wordDone w).hypWords = x.hypWords.filter fun y => y.ix ≠ w.ix := by
  unfold Group.wordDone
  cases w.fret <;> rfl

theorem Group.wordDone_v : (x.wordDone w).v = x.v := by
  unfold Group.wordDone
  cases w.fret <;> rfl

theorem Group.fret_fretDown_ok (f : Nat) : (x.fretDown (some f) 0).fret f = ⟨(x.fret f).cnt - 1, (x.fret f).st⟩ := by
  have hset : (x.fretDown (some f) 0).fret f = ⟨(x.fret f).cnt - 1, if (x.fret f).st = 0 then 0 else (x.fret f).st⟩ := Tbl.get_set ..
  rw [hset, ite_eq_right_iff.2 Eq.symm]

theorem Group.wordDone_fret {f : Nat} (hf : w.fret = some f) : (x.wordDone w).fret f = ⟨(x.fret f).cnt - 1, (x.fret f).st⟩ := by
  unfold Group.wordDone
  rw [hf]
  exact Group.fret_fretDown_ok f

/-- The last request of a word: the word completes. -/
theorem State.finishRequest_last (hx : s.group? g = some x) (hperms : x.perms = [])
    (hw : x.hypWords.find? (fun w => w.ix = r.wordIx) = some w) (hl : w.left ≤ 1) :
    s.finishRequest g r status =
      (s.modTeam g (Team.withStatuses g.grp w (w.answered r status).status)).modGroup g (Group.wordDone w) := by
  obtain ⟨y, hy, hrest⟩ := State.group?_withStatuses (w := w) hx (w.answered r status).status
  have hgroup : ((s.modTeam g (Team.withStatuses g.grp w (w.answered r status).status)).modGroup g (Group.wordDone w)).group? g =
      some (y.wordDone w) := by rw [State.group?_modGroup, hy]; rfl
  have hstep := State.stepPerms_of_nil hgroup (Group.wordDone_perms.trans ((Group.perms_rest hrest).trans hperms))
  unfold State.finishRequest State.fretDown
  simp only [hx, Option.bind_some, hw, hl, if_true, State.modGroup_modGroup]
  exact hstep

/-- A word that still has requests under way. -/
theorem State.finishRequest_more (hx : s.group? g = some x) (hw : x.hypWords.find? (fun w => w.ix = r.wordIx) = some w) (hl : 2 ≤ w.left) :
    s.finishRequest g r status = s.modGroup g fun x => { x with
      hypWords := x.hypWords.map fun y =>
        if y.ix = w.ix then { y with status := (w.answered r status).status, left := y.left - 1 } else y } := by
  unfold State.finishRequest
  simp only [hx, Option.bind_some, hw, Nat.not_le.2 hl, if_false]
  rfl

theorem State.vreg_withStatuses (hx : s.group? g = some x) (st : Tbl Word) {l : Nat} (hl : l < 32) (hlane : w.lanes.getLsbD l = true) :
    (s.modTeam g (Team.withStatuses g.grp w st)).vreg g w.d l = st.get 0 l := by
  obtain ⟨t, ht, hg⟩ := Option.bind_eq_some_iff.1 hx
  unfold State.vreg
  rw [State.team?_modTeam, ht]
  exact (Team.vget_vset t g.grp w.d w.lanes _ w.d l hl (by rw [hg]; rfl)).trans (if_pos ⟨rfl, hlane⟩)

/-- What a word and its group read after one of the word's requests is answered. -/
theorem State.finishRequest_spec (hx : s.group? g = some x) (hperms : x.perms = [])
    (hw : x.hypWords.find? (fun w => w.ix = r.wordIx) = some w) :
    (s.finishRequest g r status).parts = s.parts ∧ ∃ y, (s.finishRequest g r status).group? g = some y ∧
      w.AnsweredIn g r status s (s.finishRequest g r status) x y := by
  by_cases hl : w.left ≤ 1
  · obtain ⟨y, hy, hrest⟩ := State.group?_withStatuses (w := w) hx (w.answered r status).status
    rw [State.finishRequest_last hx hperms hw hl]
    refine ⟨rfl, y.wordDone w, by rw [State.group?_modGroup, hy]; rfl, fun _ => ⟨fun l hlt hlane => ?_, fun z hz => ?_, fun f hf => ?_⟩,
      fun h => absurd hl (Nat.not_le.2 h)⟩
    · rw [State.vreg_modGroup fun _ => Group.wordDone_v]
      exact State.vreg_withStatuses hx _ hlt hlane
    · rw [Group.wordDone_hypWords] at hz
      simpa using (List.mem_filter.1 hz).2
    · rw [Group.wordDone_fret hf, Group.fret, Group.frets_rest hrest]
      rfl
  · rw [State.finishRequest_more hx hw (Nat.lt_of_not_le hl)]
    refine ⟨rfl, _, by rw [State.group?_modGroup, hx]; rfl, fun h => absurd h hl, fun _ => ⟨?_, State.vreg_modGroup fun _ => rfl⟩⟩
    exact List.mem_map.2 ⟨w, List.mem_of_find?_eq_some hw, if_pos rfl⟩

end

theorem waits_hypResolutionComplete {g : GroupRef} {rs : HypReq × Word} (hp : s.part? part = some p)
    (hrs : p.completing.find? (fun rs => rs.1.g = some g) = some rs) (hd : s.invalidationsDue (dieOf g.core) none = true) :
    Waits (.hypResolutionComplete part g) s := by
  show execHypResolutionComplete part g s = happened _
  unfold execHypResolutionComplete
  simp only [hp, Option.bind_some, hrs, hd, if_true]

theorem exec_hypResolutionComplete {g : GroupRef} {rs : HypReq × Word} (hp : s.part? part = some p)
    (hrs : p.completing.find? (fun rs => rs.1.g = some g) = some rs) (hd : s.invalidationsDue (dieOf g.core) none = false) :
    exec (.hypResolutionComplete part g) s =
      happened ((s.modPart part fun p => { p with completing := p.completing.erase rs }).finishRequest g rs.1 rs.2) := by
  show execHypResolutionComplete part g s = _
  unfold execHypResolutionComplete
  simp only [hp, Option.bind_some, hrs, hd, Bool.false_eq_true, if_false]

theorem occursWith_hypResolutionComplete {g : GroupRef} {rs : HypReq × Word} {x : Group} {w : HypWord} (hp : s.part? part = some p)
    (hrs : p.completing.find? (fun rs => rs.1.g = some g) = some rs) (hd : s.invalidationsDue (dieOf g.core) none = false)
    (hx : s.group? g = some x) (hperms : x.perms = []) (hw : x.hypWords.find? (fun w => w.ix = rs.1.wordIx) = some w) :
    OccursWith (.hypResolutionComplete part g) s fun t => ∃ y, t.group? g = some y ∧
      (t.part? part).map (·.completing) = some (p.completing.erase rs) ∧
      w.AnsweredIn g rs.1 rs.2 s t x y := by
  have hcores := State.modPart_cores s part fun p => { p with completing := p.completing.erase rs }
  have hpart : (s.modPart part fun p => { p with completing := p.completing.erase rs }).part? part =
      some { p with completing := p.completing.erase rs } := State.part?_modPart_some hp
  obtain ⟨hparts, y, hy, hlast, hmore⟩ := State.finishRequest_spec (status := rs.2) ((State.group?_of_cores hcores).trans hx) hperms hw
  have hvreg : ∀ n l, (s.modPart part fun p => { p with completing := p.completing.erase rs }).vreg g n l = s.vreg g n l := fun n l => by
    unfold State.vreg
    rw [State.team?_of_cores hcores]
  refine occursWith_of_happened (exec_hypResolutionComplete hp hrs hd) ⟨y, hy, ?_, hlast, fun h => ?_⟩
  · exact congrArg (Option.map _) ((State.part?_of_parts hparts part).trans hpart)
  · obtain ⟨hmem, hkeep⟩ := hmore h
    exact ⟨hmem, fun n l => (hkeep n l).trans (hvreg n l)⟩

/-! ### A slice reports (05 R137, R151) -/

section
variable {slice id : Nat}

/-- A partition to whose controller a slice has reported its work on an id done. -/
def Part.reported (p : Part) (slice id : Nat) : Part := p.modEntry id fun e => { e with due := e.due.filter fun n => n ≠ slice }

theorem Part.entry_reported (k : Nat) : (p.reported slice id).entry k =
    if k = id then { p.entry k with due := (p.entry k).due.filter fun n => n ≠ slice } else p.entry k := by
  unfold Part.reported
  split
  · next h => rw [h, Part.entry_modEntry]
  · next h => exact Part.entry_modEntry_ne h

theorem Part.state_remap_reported (k : Nat) :
    ((p.reported slice id).entry k).state = (p.entry k).state ∧ ((p.reported slice id).entry k).remap = (p.entry k).remap := by
  rw [Part.entry_reported]
  split <;> exact ⟨rfl, rfl⟩

theorem waits_hypSliceWorkDone (hslice : slice < 384) (hs : s.sliceSends part slice id = true) :
    Waits (.hypSliceWorkDone part slice id) s := by
  show execHypSliceWorkDone part slice id s = happened _
  unfold execHypSliceWorkDone
  simp only [hslice, hs, decide_true, Bool.and_self, if_true]

theorem exec_hypSliceWorkDone (h : 384 ≤ slice ∨ s.sliceSends part slice id = false) :
    exec (.hypSliceWorkDone part slice id) s = happened (s.modPart part fun p => (p.reported slice id).freeIds) := by
  have hready : (decide (slice < 384) && s.sliceSends part slice id) = false := by
    rcases h with h | h
    · simp [h]
    · simp [h]
  show execHypSliceWorkDone part slice id s = _
  unfold execHypSliceWorkDone
  simp only [hready, Bool.false_eq_true, if_false]
  rfl

theorem occursWith_hypSliceWorkDone (hp : s.part? part = some p) (h : 384 ≤ slice ∨ s.sliceSends part slice id = false) :
    OccursWith (.hypSliceWorkDone part slice id) s fun t => ∃ p', t.part? part = some p' ∧
      ∀ k, let e := (p.reported slice id).entry k
        (¬e.Spent → p'.entry k = e) ∧
        (e.Spent → (∀ j, j ≠ k → ¬((p.entry j).state = 3 ∧ (p.entry j).remap = some (BitVec.ofNat 12 k))) → p'.entry k = e.freed) := by
  refine occursWith_of_happened (exec_hypSliceWorkDone h) ⟨_, State.part?_modPart_some hp, fun k =>
    ⟨Part.entry_freeIds_of_not_spent, fun hs hr => Part.entry_freeIds_of_spent hs fun j hj => ?_⟩⟩
  obtain ⟨hstate, hremap⟩ := p.state_remap_reported (slice := slice) (id := id) j
  rw [hstate, hremap]
  exact hr j hj

end

end

end Sys2Proof.Machine
end

section
/-! The obligation. -/

open Sys2Proof Sys2Proof.Machine

/-- Settles O55: what the commits make of the tree is said entry by entry, and every event of a resolution by its own lemma. -/
theorem resolutionEvents : Obligations.ResolutionEvents := by
  unfold Obligations.ResolutionEvents
  refine ⟨fun p h h0 => ⟨Part.confirm_self, fun k hk hk0 hne hl => ⟨Part.confirm_lost hk hk0 hne hl, Part.confirm_kept hk hk0 hne hl⟩,
      fun k => Part.confirm_remap, fun k => Part.confirm_nchild⟩,
    fun p h k hk h0 hl => ?tree, fun part p s hp => ⟨fun r => occurs_hypRequestTakeup_busy hp, occurs_hypRequestTakeup_idle hp,
      fun r rest hr hq => ⟨occursWith_hypRequestTakeup_live hp hr hq, occursWith_hypRequestTakeup_resolved hp hr hq⟩⟩,
    fun part p s => occurs_hypCommit_idle,
    fun part p r s hp hr => ⟨occursWith_hypCommit_waits hp hr, occursWith_hypCommit hp hr⟩,
    fun part g p rs s hp hrs => ⟨waits_hypResolutionComplete hp hrs, fun x w hd hx hperms hw =>
      occursWith_hypResolutionComplete hp hrs hd hx hperms hw⟩,
    fun part slice id p s _ => waits_hypSliceWorkDone, fun part slice id p s hp h => ?slice⟩
  case tree =>
    have hentry := Part.entry_refuteTree (h := h) hk h0 hl
    refine ⟨fun hin => ?_, fun hout => ?_⟩
    · rw [hentry, if_pos hin]
    · rw [if_neg hout] at hentry
      exact hentry
  case slice =>
    have hevent := occursWith_hypSliceWorkDone hp h
    simp only [Part.entry_reported] at hevent
    exact hevent
end

section
/-! # The state at reset (O60) -/

namespace Sys2Proof.Machine

theorem State.canonical_reset : State.reset.Canonical := ⟨rfl, rfl, rfl, fun _ => rfl, fun _ => rfl⟩

theorem State.die_reset (d : Nat) : State.reset.die d = Die.reset := rfl

theorem State.core_reset (c : Nat) : State.reset.core c = Core.reset := rfl

theorem State.biasBit_reset (f : Nat) : State.reset.biasBit f = false := BitVec.getLsbD_zero

/-- At reset nothing is there to move, so that only the clock advances. -/
theorem step_reset : step State.reset = .next { State.reset with cycle := 1 } := by
  have hmover : State.reset.mover = none := rfl
  unfold step
  rw [hmover]
  rfl

end Sys2Proof.Machine
end

section
/-! The obligation. -/

open Sys2Proof Sys2Proof.Machine

/-- Settles O60: every table is empty at reset and reads as its default, and no agent can move. -/
theorem resetState : Obligations.ResetState := by
  unfold Obligations.ResetState
  refine ⟨State.canonical_reset, fun d => ?dies, fun c => ?cores, fun _ => rfl, State.biasBit_reset, fun _ => rfl, rfl, rfl, rfl, step_reset⟩
  case dies =>
    rw [State.die_reset]
    exact ⟨rfl, rfl, rfl, rfl, rfl, rfl, rfl, rfl, rfl⟩
  case cores =>
    rw [State.core_reset]
    exact ⟨rfl, rfl, rfl, fun _ => rfl⟩
end

section
/-! # Bytes of a line at its home (O44)

What a write at a home makes of each byte of root memory (`mergedByte`), and what is read of the bytes written. -/

namespace Sys2Proof

/-- Byte j of a masked write. -/
theorem Mem.byte_writeMasked_in (m : Mem) (n a x k j : Nat) (h : j < n) :
    (m.writeMasked n a x k).byte (a + j) = if k.testBit j then BitVec.ofNat 8 (x / 256 ^ j) else m.byte (a + j) := by
  induction n generalizing m a x k j with
  | zero => omega
  | succ n ih =>
    show (Mem.writeMasked (if k % 2 = 1 then m.setByte a (BitVec.ofNat 8 x) else m) n (a + 1) (x / 256) (k / 2)).byte (a + j) = _
    cases j with
    | zero =>
      rw [Mem.byte_writeMasked_out _ _ _ _ _ _ (by omega), Nat.testBit_zero, Nat.add_zero]
      by_cases hk : k % 2 = 1 <;> simp [hk]
    | succ j =>
      rw [show a + (j + 1) = a + 1 + j by omega, ih _ _ _ _ _ (by omega), Nat.testBit_succ, Nat.div_div_eq_div_mul,
        ← Nat.pow_succ']
      have hrest : Mem.byte (if k % 2 = 1 then m.setByte a (BitVec.ofNat 8 x) else m) (a + 1 + j) = m.byte (a + 1 + j) := by
        split
        · exact Mem.byte_setByte_ne _ _ _ _ (by omega)
        · rfl
      rw [hrest]

/-- What is read of bytes that are the digits of a number. -/
theorem Mem.read_of_bytes {m : Mem} {n a x : Nat} (h : ∀ j, j < n → m.byte (a + j) = BitVec.ofNat 8 (x / 256 ^ j)) :
    m.read n a = x % 256 ^ n := by
  induction n generalizing a x with
  | zero => simp [Mem.read, Nat.mod_one]
  | succ n ih =>
    have hfirst := h 0 (by omega)
    rw [Nat.add_zero, Nat.pow_zero, Nat.div_one] at hfirst
    have hrest : m.read n (a + 1) = x / 256 % 256 ^ n := ih fun j hj => by
      rw [Nat.div_div_eq_div_mul, ← Nat.pow_succ', show a + 1 + j = a + (j + 1) by omega]
      exact h (j + 1) (by omega)
    show (m.byte a).toNat + 256 * m.read n (a + 1) = _
    rw [hfirst, hrest, BitVec.toNat_ofNat, show (256 : Nat) ^ (n + 1) = 256 * 256 ^ n from Nat.pow_succ', Nat.mod_mul]

theorem Mem.read_lt (m : Mem) (n a : Nat) : m.read n a < 256 ^ n := by
  induction n generalizing a with
  | zero => simp [Mem.read]
  | succ n ih =>
    have := ih (a + 1)
    have := (m.byte a).isLt
    show (m.byte a).toNat + 256 * m.read n (a + 1) < _
    rw [Nat.pow_succ']
    omega

theorem Mem.read_add (m : Mem) (i j a : Nat) : m.read (i + j) a = m.read i a + 256 ^ i * m.read j (a + i) := by
  induction i generalizing a with
  | zero => simp [Mem.read]
  | succ i ih =>
    rw [show i + 1 + j = i + j + 1 by omega]
    show (m.byte a).toNat + 256 * m.read (i + j) (a + 1) = (m.byte a).toNat + 256 * m.read i (a + 1) + _
    rw [ih, Nat.pow_succ', show a + 1 + i = a + (i + 1) by omega]
    ring

/-- Some of the bytes that are read. -/
theorem Mem.read_part (m : Mem) {o n k : Nat} (a : Nat) (h : o + n ≤ k) : m.read k a / 256 ^ o % 256 ^ n = m.read n (a + o) := by
  obtain ⟨r, rfl⟩ : ∃ r, k = o + (n + r) := ⟨k - (o + n), by omega⟩
  rw [Mem.read_add, Nat.add_mul_div_left _ _ (by positivity), Nat.div_eq_of_lt (m.read_lt o a), Nat.zero_add, Mem.read_add,
    Nat.add_mul_mod_self_left, Nat.mod_eq_of_lt (m.read_lt n (a + o))]

namespace Machine

section
variable {s : State} {line pa n x p o : Nat}

theorem two_pow_eight_mul (n : Nat) : 2 ^ (8 * n) = 256 ^ n := by
  rw [Nat.pow_mul]

/-- The bytes of a line's root value are those of root memory. -/
theorem State.lineBytes_homeLine (h : o + n ≤ 128) : lineBytes (s.homeLine line) o n = s.hbm.read n (128 * line + o) := by
  have hline : (s.homeLine line).toNat = s.hbm.read 128 (128 * line) := by
    rw [State.homeLine, BitVec.toNat_ofNat]
    exact Nat.mod_eq_of_lt (lt_of_lt_of_eq (s.hbm.read_lt _ _) (two_pow_eight_mul 128).symm)
  rw [lineBytes, hline, two_pow_eight_mul, two_pow_eight_mul, Mem.read_part _ _ h]

theorem State.byte_homeWrite (b : LineBytes) : (s.homeWrite line b).hbm.byte p = mergedByte line b s.hbm.byte p := by
  show (s.hbm.writeMasked 128 (128 * line) b.data.toNat b.mask.toNat).byte p = _
  unfold mergedByte
  by_cases hp : p / 128 = line
  · rw [show p = 128 * line + p % 128 by omega, Mem.byte_writeMasked_in _ _ _ _ _ _ (by omega)]
    have hdata : BitVec.ofNat 8 (b.data.toNat / 256 ^ (p % 128)) = b.data.extractLsb' (8 * (p % 128)) 8 := by
      rw [BitVec.extractLsb', Nat.shiftRight_eq_div_pow, two_pow_eight_mul]
    rw [hdata]
    simp [Nat.mul_add_div, ← BitVec.testBit_toNat]
  · rw [Mem.byte_writeMasked_out _ _ _ _ _ _ (by omega)]
    simp [hp]

theorem getLsbD_byteMask (h : o + n ≤ 128) (j : Nat) : (byteMask o n).getLsbD j = decide (o ≤ j ∧ j < o + n) := by
  rw [byteMask, BitVec.getLsbD_ofNat, Nat.testBit_mul_two_pow, Nat.testBit_two_pow_sub_one, Bool.eq_iff_iff]
  simp only [Bool.and_eq_true, decide_eq_true_eq]
  omega

/-- Bytes of a line that lie together, as they stand in root memory after they are written. -/
theorem mergedByte_bytesAt (h : pa % 128 + n ≤ 128) (old : Nat → Byte) :
    mergedByte (pa / 128) (bytesAt pa n x) old p = if pa ≤ p ∧ p < pa + n then BitVec.ofNat 8 (x / 256 ^ (p - pa)) else old p := by
  unfold mergedByte
  have hin : (p / 128 = pa / 128 ∧ (bytesAt pa n x).mask.getLsbD (p % 128) = true) ↔ pa ≤ p ∧ p < pa + n := by
    rw [show (bytesAt pa n x).mask = byteMask (pa % 128) n from rfl, getLsbD_byteMask h, decide_eq_true_eq]
    omega
  rw [if_congr hin rfl rfl]
  refine if_ctx_congr Iff.rfl (fun hp => ?_) fun _ => rfl
  obtain ⟨i, rfl⟩ : ∃ i, p = pa + i := ⟨p - pa, by omega⟩
  have hi : i < n := by omega
  rw [show (pa + i) % 128 = pa % 128 + i by omega, Nat.add_sub_cancel_left, ← two_pow_eight_mul]
  refine BitVec.eq_of_getLsbD_eq fun j hj => ?_
  simp only [bytesAt, BitVec.getLsbD_extractLsb', BitVec.getLsbD_ofNat, Nat.testBit_mul_two_pow, Nat.testBit_mod_two_pow,
    Nat.testBit_div_two_pow]
  rw [show 8 * (pa % 128 + i) + j - 8 * (pa % 128) = j + 8 * i by omega]
  have hlow : 8 * (pa % 128 + i) + j < 1024 ∧ 8 * (pa % 128) ≤ 8 * (pa % 128 + i) + j ∧ j + 8 * i < 8 * n := by omega
  simp [hlow]

/-- Bytes of one line as they are read after they were written. -/
theorem Mem.read_mergedByte {m m' : Mem} (h : pa % 128 + n ≤ 128)
    (hm : ∀ p, pa ≤ p → p < pa + n → m'.byte p = mergedByte (pa / 128) (bytesAt pa n x) m.byte p) : m'.read n pa = x % 256 ^ n :=
  Mem.read_of_bytes fun j hj => by
    rw [hm _ (by omega) (by omega), mergedByte_bytesAt h, if_pos (by omega), Nat.add_sub_cancel_left]

/-- The masked bytes of a line are where they are said to be (06 R169). -/
theorem filter_getLsbD_byteMask (h : o + n ≤ 128) : (List.range 128).filter (fun k => (byteMask o n).getLsbD k) = List.range' o n := by
  have hsplit : List.range 128 = List.range' 0 o ++ (List.range' o n ++ List.range' (o + n) (128 - (o + n))) := by
    rw [List.range_eq_range', show List.range' (o + n) _ = List.range' (o + 1 * n) (128 - (o + n)) by rw [Nat.one_mul], List.range'_append,
      show List.range' o _ = List.range' (0 + 1 * o) (n + (128 - (o + n))) by rw [Nat.one_mul, Nat.zero_add], List.range'_append]
    congr 1
    omega
  rw [hsplit, List.filter_append, List.filter_append, List.filter_eq_nil_iff.2, List.filter_eq_self.2, List.filter_eq_nil_iff.2,
    List.append_nil, List.nil_append]
  all_goals
    intro k hk
    rw [List.mem_range'_1] at hk
    rw [getLsbD_byteMask h, decide_eq_true_eq]
    omega

theorem find?_getLsbD_byteMask (h : o + n ≤ 128) (hn : 0 < n) : (List.range 128).find? (fun k => (byteMask o n).getLsbD k) = some o := by
  rw [← List.head?_filter, filter_getLsbD_byteMask h, List.head?_range', if_neg (by omega)]

end

end Machine

end Sys2Proof
end

section
/-! # What a home does to hold a line (O44)

To find room for a line the LLC may send versions to the spill area and ask Chihoat for help (`Housed`); an agent that takes a line exclusive
may have versions read back too (`Kept`), each from the entry where it was spilled before or has been spilled on the way. -/

namespace Sys2Proof

theorem Tbl.mem_of_get {α : Type} {d x : α} {t : Tbl α} {n : Nat} (h : t.get d n = x) (hx : x ≠ d) : (n, x) ∈ t := by
  induction t with
  | nil => exact absurd h.symm hx
  | cons a t ih =>
    obtain ⟨k, y⟩ := a
    by_cases hk : k = n
    · simp only [Tbl.get, hk, if_true] at h
      simp [hk, h]
    · simp only [Tbl.get, hk, if_false] at h
      exact List.mem_cons_of_mem _ (ih h)

namespace Machine

section
variable {s t u : State} {part tag line key die n k p : Nat} {e : Extent} {es : List Extent} {v : Version} {i : Instr}

/-- Whether an operation has come to its end or waits, it leaves a state. -/
theorem elim_of_inl {x : State ⊕ State} (h : x = .inl u) : x.elim id id = u := by rw [h]; rfl

theorem elim_of_inr {x : State ⊕ State} (h : x = .inr u) : x.elim id id = u := by rw [h]; rfl

/-- The spill extents of a partition (05 R153). -/
def State.extents (s : State) (n : Nat) : Option (List Extent) := (s.part? n).map (·.extents)

theorem State.part?_of_extents (h : s.extents n = some es) : ∃ q, s.part? n = some q ∧ q.extents = es := Option.map_eq_some_iff.1 h

/-- An entry of an extent of the partition that a key names. -/
def State.SpillPlace (s : State) (key k m : Nat) : Prop := ∃ es e, s.extents (keyPart key) = some es ∧ es[k]? = some e ∧ m < 8 * e.buckets

/-- Every spilled version was spilled there before, or lies at an entry of its partition's extents. -/
def SpillsKept (s t : State) : Prop :=
  ∀ key v k m, t.versions.get none key = some v → v.spill = some (k, m) → s.versions.get none key = some v ∨ s.SpillPlace key k m

theorem SpillsKept.of_eq (h : t.versions = s.versions) : SpillsKept s t := fun _ _ _ _ hv _ => .inl (h ▸ hv)

theorem SpillsKept.trans (he : ∀ n, t.extents n = s.extents n) (h : SpillsKept s t) (h' : SpillsKept t u) : SpillsKept s u := by
  intro key v k m hv hs
  rcases h' key v k m hv hs with hv | ⟨es, e, hes, hplace⟩
  · exact h key v k m hv hs
  · exact .inr ⟨es, e, (he _).symm.trans hes, hplace⟩

/-- A home may have made room in its LLC slice, or has asked for it (05 R153, R155). -/
structure Housed (s t : State) : Prop where
  hbm : ∀ p, ¬s.extentByte p → t.hbm.byte p = s.hbm.byte p
  dies : t.dies = s.dies
  modl : t.modl = { s.modl with events := t.modl.events }
  extents : ∀ n, t.extents n = s.extents n
  spills : SpillsKept s t

theorem State.extentByte_of_extents (h : ∀ n, t.extents n = s.extents n) (hp : t.extentByte p) : s.extentByte p := by
  obtain ⟨n, q, hq, e, he, hin⟩ := hp
  obtain ⟨r, hr, hre⟩ := State.part?_of_extents (s := s) (n := n) (es := q.extents) ((h n).symm.trans (by rw [State.extents, hq]; rfl))
  exact ⟨n, r, hr, e, hre ▸ he, hin⟩

theorem Housed.refl : Housed s s := ⟨fun _ _ => rfl, rfl, rfl, fun _ => rfl, .of_eq rfl⟩

theorem Housed.trans (h : Housed s t) (h' : Housed t u) : Housed s u where
  hbm p hp := (h'.hbm p fun ht => hp (State.extentByte_of_extents h.extents ht)).trans (h.hbm p hp)
  dies := h'.dies.trans h.dies
  modl := by
    rw [h'.modl, h.modl]
  extents n := (h'.extents n).trans (h.extents n)
  spills := h.spills.trans h.extents h'.spills

/-- Tags, events on their way and free choices are none of it. -/
theorem Housed.frame {llc : Tbl (Option LlcTag)} {is : List Instr} : Housed s { s with llc := llc, pending := is, choices := n } :=
  ⟨fun _ _ => rfl, rfl, rfl, fun _ => rfl, .of_eq rfl⟩

theorem Housed.postOnce : Housed s (s.postOnce i) := by
  unfold State.postOnce
  split
  · exact .refl
  · exact .frame

theorem Housed.postEvent : Housed s s.postEvent := ⟨fun _ _ => rfl, rfl, rfl, fun _ => rfl, .of_eq rfl⟩

theorem Housed.modPart {f : Part → Part} (hf : ∀ q, (f q).extents = q.extents) : Housed s (s.modPart part f) where
  hbm _ _ := by rw [State.modPart_hbm]
  dies := State.modPart_dies ..
  modl := by rw [State.modPart_modl]
  extents n := by
    by_cases h : n = part
    · subst h
      rw [State.extents, State.part?_modPart, Option.map_map]
      exact congrArg (Option.map · _) (funext hf)
    · rw [State.extents, State.part?_modPart_ne h]
      rfl
  spills := .of_eq (State.modPart_versions ..)

theorem Housed.hypcap : Housed s (s.hypcap part line tag) := by
  unfold State.hypcap
  split
  · exact .refl
  · split
    · split
      · exact .refl
      · split
        · exact .refl
        · refine Housed.trans (.modPart fun _ => ?_) .postOnce
          rfl
    · split
      · exact .refl
      · refine Housed.trans (.modPart fun _ => ?_) .postEvent
        rfl

theorem lineKey_of_key (key : Nat) : lineKey (keyPart key) (keyTag key) (keyLine key) = key := by
  unfold lineKey keyPart keyTag keyLine
  omega

theorem State.freeSpill_place {m j : Nat} (h : s.freeSpill line tag es j = some (k, e, m)) :
    j ≤ k ∧ es[k - j]? = some e ∧ m < 8 * e.buckets := by
  induction es generalizing j with
  | nil => cases h
  | cons d ds ih =>
    unfold State.freeSpill at h
    split at h
    · next hn =>
      cases h
      exact ⟨le_rfl, by rw [Nat.sub_self]; rfl, State.freeSpillIn_lt hn⟩
    · obtain ⟨hle, hget, hm⟩ := ih h
      exact ⟨by omega, by rw [show k - j = k - (j + 1) + 1 by omega]; exact hget, hm⟩

/-- A version moves to a place of its partition's extents. -/
theorem Housed.spillTo (hes : s.extents (keyPart key) = some es) (he : es[k]? = some e) (hn : n < 8 * e.buckets) :
    Housed s (s.spillTo (keyPart key) (keyTag key) (keyLine key) v k e n) := by
  obtain ⟨q, hq, hqe⟩ := State.part?_of_extents hes
  refine ⟨(Spilled.spillTo hq (hqe ▸ List.mem_of_getElem? he) hn).hbm, rfl, rfl, fun _ => rfl, ?_⟩
  intro key' v' k' m hv hs
  have hset : (s.versions.set none (lineKey (keyPart key) (keyTag key) (keyLine key)) (some { v with spill := some (k, n) })).get none key' =
      some v' := hv
  rw [lineKey_of_key] at hset
  by_cases hkey : key' = key
  · subst hkey
    rw [Tbl.get_set] at hset
    cases hset
    cases hs
    exact .inr ⟨es, e, hes, he, hn⟩
  · rw [Tbl.get_set_ne _ _ _ _ _ hkey] at hset
    exact .inl hset

theorem Housed.evictVersion : Housed s ((s.evictVersion key).elim id id) := by
  unfold State.evictVersion
  dsimp only
  split
  · exact .frame
  · next v _ =>
    split
    · exact .frame
    · split
      · exact .hypcap
      · next k e n hfree =>
        obtain ⟨q, hq, hf⟩ := Option.bind_eq_some_iff.1 hfree
        obtain ⟨-, he, hn⟩ := State.freeSpill_place hf
        have hmoved := Housed.spillTo (v := v) (by rw [State.extents, hq]; rfl) he hn
        exact hmoved.trans .frame

theorem Housed.evictRoot : Housed s (s.evictRoot key) := by
  obtain ⟨ps, hps⟩ := s.sendInvalidations_eq ⟨keyLine key, 0, 0, ⟨BitVec.allOnes 128, 0⟩, 12, s.applied, false⟩ 12
  unfold State.evictRoot
  rw [hps]
  exact .frame

theorem Housed.llcInsert {way : Nat} : Housed s (s.llcInsert part tag line way) := .frame

/-- The LLC finds room for a line, or waits for it. -/
theorem Housed.llcAlloc : Housed s ((s.llcAlloc part tag line).elim id id) := by
  unfold State.llcAlloc
  dsimp only
  split
  · exact .refl
  · split
    · exact .llcInsert
    · have hchoice : Housed s { s with choices := s.choices + 1 } := .frame
      split
      · exact hchoice.trans (Housed.evictRoot.trans .llcInsert)
      · split
        · exact .refl
        · next key x _ =>
          have hev := hchoice.trans (Housed.evictVersion (key := key))
          split
          · next h => exact elim_of_inr h ▸ hev
          · next h =>
            rw [elim_of_inl h] at hev
            exact hev.trans .llcInsert

theorem Housed.holdRoot : Housed s (s.holdRoot part line) := by
  have h := Housed.llcAlloc (s := s) (part := part) (tag := 0) (line := line)
  unfold State.holdRoot
  split
  · next halloc => exact elim_of_inl halloc ▸ h
  · next halloc => exact elim_of_inr halloc ▸ h

end

/-! ### A line is taken exclusive (03 R91) -/

section
variable {s t u : State} {part tag line key die p : Nat}

/-- A die without its caches: its frames and what it has translated. -/
def Die.bare (d : Die) : Die := { d with l2 := [], tcache := [], pointers := [] }

/-- Root memory is kept but for the spill area, and so are the places that versions are spilled to, and of the dies all but their caches. -/
structure Kept (s t : State) : Prop where
  hbm : KeepsHbm s t
  extents : ∀ n, t.extents n = s.extents n
  spills : SpillsKept s t
  dies : ∀ d, (t.die d).bare = (s.die d).bare

theorem Kept.refl : Kept s s := ⟨fun _ _ => rfl, fun _ => rfl, .of_eq rfl, fun _ => rfl⟩

theorem spillByte_of_extentByte (h : s.extentByte p) : spillByte s p := by
  obtain ⟨n, q, hq, e, he, hin⟩ := h
  exact ⟨n, q, hq, e, he, .inl hin⟩

theorem Kept.housed (h : Kept s t) (h' : Housed t u) : Kept s u where
  hbm p hp := (h'.hbm p fun ht => hp (spillByte_of_extentByte (State.extentByte_of_extents h.extents ht))).trans (h.hbm p hp)
  extents n := (h'.extents n).trans (h.extents n)
  spills := h.spills.trans h.extents h'.spills
  dies d := by rw [State.die_of_dies h'.dies, h.dies]

theorem State.bare_modDie {f : Die → Die} (hf : ∀ d, (f d).bare = d.bare) (d : Nat) :
    ((s.modDie die f).die d).bare = (s.die d).bare := by
  by_cases h : d = die
  · rw [h, State.die_modDie, hf]
  · rw [State.die_modDie_ne _ _ _ _ h]

theorem Kept.modDie {f : Die → Die} (h : Kept s t) (hf : ∀ d, (f d).bare = d.bare) : Kept s (t.modDie die f) :=
  ⟨h.hbm, h.extents, h.spills, fun d => (State.bare_modDie hf d).trans (h.dies d)⟩

/-- A version is read back from where it was spilled. -/
theorem Kept.unspill (hkey : keyPart (lineKey part tag line) = part) (h : Kept s t) : Kept s (t.unspill part tag line) := by
  unfold State.unspill
  split
  · exact h
  · next v hv =>
    split
    · exact h
    · next k n hs =>
      split
      · exact h
      · next e he =>
        obtain ⟨q, hq, he⟩ := Option.bind_eq_some_iff.1 he
        have hext : s.extents part = some q.extents := (h.extents part).symm.trans (by rw [State.extents, hq]; rfl)
        obtain ⟨r, hr, hre⟩ := State.part?_of_extents hext
        have hmem : e ∈ r.extents := hre ▸ List.mem_of_getElem? he
        refine ⟨fun p hp => ?_, h.extents, fun key v' k' m hv' hs' => ?_, h.dies⟩
        · refine (Mem.byte_write_out _ _ _ _ _ ?_).trans (h.hbm p hp)
          by_contra hin
          refine hp ⟨part, r, hr, e, hmem, ?_⟩
          rcases h.spills _ v k n hv hs with hold | ⟨es, e', hes, he', hn⟩
          · exact .inr ⟨_, Tbl.mem_of_get hold (by simp), v, k, n, rfl, hs, by omega, by omega⟩
          · rw [hkey, hext] at hes
            cases hes
            obtain rfl : e = e' := Option.some_inj.1 (he.symm.trans he')
            unfold Extent.entryAt at hin
            unfold Extent.size
            exact .inl (by omega)
        · have hset : (t.versions.set none (lineKey part tag line) (some { v with spill := none })).get none key = some v' := hv'
          by_cases hk : key = lineKey part tag line
          · rw [hk, Tbl.get_set] at hset
            cases hset
            cases hs'
          · rw [Tbl.get_set_ne _ _ _ _ _ hk] at hset
            exact h.spills key v' k' m hset hs'

theorem Kept.readBack (hkey : keyPart (lineKey part tag line) = part) (h : Kept s t) :
    Kept s ((t.readBack part tag line).elim id id) := by
  unfold State.readBack
  split
  · exact h
  · split
    · exact h
    · have halloc := h.housed (Housed.llcAlloc (part := part) (tag := tag) (line := line))
      split
      · next he => exact elim_of_inr he ▸ halloc
      · next he =>
        rw [elim_of_inl he] at halloc
        exact halloc.unspill hkey

theorem Kept.homeHolds (hkey : keyPart (lineKey part tag line) = part) (h : Kept s t) :
    Kept s ((t.homeHolds part tag line).elim id id) := by
  have hback := h.readBack hkey
  unfold State.homeHolds
  split
  · next he => exact elim_of_inr he ▸ hback
  · next he =>
    rw [elim_of_inl he] at hback
    exact hback.housed .llcAlloc

theorem Kept.evictFrame {f : Frame} (h : Kept s t) : Kept s (t.evictFrame die key f) := by
  unfold State.evictFrame
  refine Kept.modDie ?_ fun _ => rfl
  split
  · have halloc := h.housed (Housed.llcAlloc (part := keyPart key) (tag := keyTag key) (line := keyLine key))
    split
    · next he => exact elim_of_inl he ▸ halloc
    · next he => exact elim_of_inr he ▸ halloc
  · exact h

theorem Kept.l2Alloc (h : Kept s t) : Kept s ((t.l2Alloc die part tag line).elim id id) := by
  unfold State.l2Alloc
  dsimp only
  split
  · exact h
  · split
    · rw [elim_of_inl rfl]
      exact h.modDie fun _ => by rfl
    · split
      · exact h
      · split
        · exact h.housed .postOnce
        · rw [elim_of_inl rfl]
          exact (h.housed .frame).evictFrame.modDie fun _ => by rfl

theorem Kept.dropX (h : Kept s t) : Kept s (t.dropX die part tag line) := by
  refine h.modDie fun d => ?_
  dsimp only
  split <;> rfl

theorem Kept.takeX {e : Eng} (hkey : keyPart (lineKey e.part e.tag line) = e.part) (h : Kept s t) : Kept s (t.takeX e line) := by
  have hl2 := h.l2Alloc (die := e.die) (part := e.part) (tag := e.tag) (line := line)
  unfold State.takeX
  split
  · next he => exact elim_of_inr he ▸ hl2
  · next he =>
    rw [elim_of_inl he] at hl2
    have hhome := hl2.homeHolds hkey
    split
    · next he => exact elim_of_inr he ▸ hhome
    · next he =>
      rw [elim_of_inl he] at hhome
      dsimp only
      split
      · exact hhome.housed .postOnce
      · refine Kept.modDie (Kept.housed ?_ .frame) fun _ => rfl
        split
        · exact hhome
        · exact hhome.dropX

end

end Machine

end Sys2Proof
end

section
/-! # Root writes, and lines taken back from the dies (O44)

What a root write at its home leaves (`RootWritten`): the bytes, their poison, no other byte outside the spill area. What is dropped on the dies
is caches only (`OnlyCaches`). -/

namespace Sys2Proof.Machine

section
variable {s t u : State} {part line except frame n p pa x : Nat} {b : LineBytes} {clock : List Nat} {psn host : Bool}

theorem spillByte_congr (hp : t.parts = s.parts) (hv : t.versions = s.versions) : spillByte t p ↔ spillByte s p := by
  unfold spillByte
  simp only [State.part?_of_parts hp, hv]

theorem KeepsHbm.of_same (hp : t.parts = s.parts) (hv : t.versions = s.versions) (hm : t.hbm = s.hbm) (h : KeepsHbm t u) : KeepsHbm s u :=
  fun p hs => (h p fun ht => hs ((spillByte_congr hp hv).1 ht)).trans (by rw [hm])

/-! ### A root write at its home (03 R85, R99) -/

/-- Bytes of a line have been written at its home. -/
structure RootWritten (line : Nat) (b : LineBytes) (psn : Bool) (s t : State) : Prop where
  hbm : ∀ p, ¬spillByte s p → t.hbm.byte p = mergedByte line b s.hbm.byte p
  poison : psn = true → line ∈ t.hbmPsn
  dies : t.dies = s.dies
  modl : t.modl = { s.modl with events := t.modl.events, hostCopies := s.modl.hostCopies.filter fun l => l ≠ line }

theorem State.wakeRings_eq (m : LineMask) (hyp : BitVec 12) : ∃ ps, s.wakeRings line m hyp = { s with pending := ps } := by
  refine List.foldlRecOn (motive := fun t : State => ∃ ps, t = { s with pending := ps }) _ _ ⟨s.pending, rfl⟩ fun t ⟨ps, ht⟩ i _ => ?_
  split
  · exact ⟨ps, ht⟩
  · split
    · exact ⟨ps, ht⟩
    · subst ht
      exact ⟨_, rfl⟩

theorem State.selfInvalidate_eq (die : Nat) (w : LineWrite) : ∃ ps, s.selfInvalidate die w = { s with pending := ps } := by
  unfold State.selfInvalidate
  split
  · exact ⟨_, rfl⟩
  · exact ⟨s.pending, rfl⟩

theorem mergedByte_congr {old old' : Nat → Byte} (h : old p = old' p) : mergedByte line b old p = mergedByte line b old' p := by
  unfold mergedByte
  rw [h]

theorem State.rootWritten_rootApply : RootWritten line b psn s (s.rootApply line b clock except part psn) := by
  have hroom := Housed.holdRoot (s := s) (part := part) (line := line)
  unfold State.rootApply
  extract_lets s1 s2 m s3 w
  obtain ⟨ps1, h1⟩ := s3.sendInvalidations_eq w except
  obtain ⟨ps2, h2⟩ := (s3.sendInvalidations w except).selfInvalidate_eq except w
  obtain ⟨ps3, h3⟩ := ((s3.sendInvalidations w except).selfInvalidate except w).wakeRings_eq (line := line) b.mask 0
  rw [h3, h2, h1]
  refine ⟨fun p hp => ?_, fun hpsn => ?_, hroom.dies, ?_⟩
  · show s1.hbm.byte p = _
    rw [State.byte_homeWrite]
    exact mergedByte_congr (hroom.hbm p fun h => hp (spillByte_of_extentByte h))
  · show line ∈ if (psn && !s1.hbmPsn.contains line) = true then s1.hbmPsn ++ [line] else s1.hbmPsn
    split
    · simp
    · next h => simpa [hpsn] using h
  · exact congrArg (fun m : Module => { m with hostCopies := m.hostCopies.filter fun l => l ≠ line }) hroom.modl

/-- A byte after bytes of one line have been written. -/
theorem RootWritten.byte (h : RootWritten (pa / 128) (bytesAt pa n x) psn s t) (hn : pa % 128 + n ≤ 128) (hp : ¬spillByte s p) :
    t.hbm.byte p = if pa ≤ p ∧ p < pa + n then BitVec.ofNat 8 (x / 256 ^ (p - pa)) else s.hbm.byte p :=
  (h.hbm p hp).trans (mergedByte_bytesAt hn _)

theorem RootWritten.byte_out (h : RootWritten (pa / 128) (bytesAt pa n x) psn s t) (hn : pa % 128 + n ≤ 128) (hp : ¬spillByte s p)
    (hout : p < pa ∨ pa + n ≤ p) : t.hbm.byte p = s.hbm.byte p := by
  rw [h.byte hn hp, if_neg (by omega)]

theorem RootWritten.read (h : RootWritten (pa / 128) (bytesAt pa n x) psn s t) (hn : pa % 128 + n ≤ 128)
    (hp : ∀ p, pa ≤ p → p < pa + n → ¬spillByte s p) : t.hbm.read n pa = x % 256 ^ n :=
  Mem.read_mergedByte hn fun p hlo hhi => h.hbm p (hp p hlo hhi)

/-! ### A bit of the bias table (06 R176, R177) -/

/-- A byte of the bias table with one bit changed, as `State.setBias` computes it. -/
def biasByte (old k : Nat) (host : Bool) : Nat := old - (if old.testBit k then 2 ^ k else 0) + if host then 2 ^ k else 0

theorem testBit_digit {k m d r : Nat} (hd : d < 2) (hr : r < 2 ^ k) (j : Nat) :
    (2 ^ k * (2 * m + d) + r).testBit j = if j < k then r.testBit j else if j = k then decide (d = 1) else m.testBit (j - k - 1) := by
  rw [Nat.testBit_two_pow_mul_add _ hr]
  refine if_ctx_congr Iff.rfl (fun _ => rfl) fun hge => ?_
  split
  · next h =>
    subst h
    rw [Nat.sub_self, Nat.testBit_zero]
    congr 1
    simp only [eq_iff_iff]
    omega
  · obtain ⟨i, rfl⟩ : ∃ i, j = k + 1 + i := ⟨j - (k + 1), by omega⟩
    rw [show k + 1 + i - k = i + 1 by omega, Nat.testBit_succ, Nat.add_sub_cancel]
    congr 1
    omega

/-- Only the bit asked for has changed. -/
theorem testBit_biasByte (old k j : Nat) : (biasByte old k host).testBit j = if j = k then host else old.testBit j := by
  obtain ⟨m, d, r, hd, hr, hold⟩ : ∃ m d r, d < 2 ∧ r < 2 ^ k ∧ old = 2 ^ k * (2 * m + d) + r :=
    ⟨old / 2 ^ k / 2, old / 2 ^ k % 2, old % 2 ^ k, Nat.mod_lt _ (by omega), Nat.mod_lt _ (by positivity), by
      rw [Nat.div_add_mod, Nat.div_add_mod]⟩
  have hbit : old.testBit k = decide (d = 1) := by
    rw [hold, testBit_digit hd hr, if_neg (lt_irrefl k), if_pos rfl]
  have hnew : biasByte old k host = 2 ^ k * (2 * m + host.toNat) + r := by
    have hstep : ∀ b, 2 ^ k * (2 * m + b) = 2 ^ k * (2 * m) + 2 ^ k * b := fun b => Nat.mul_add ..
    unfold biasByte
    rw [hbit, hold, hstep, hstep]
    obtain rfl | rfl : d = 0 ∨ d = 1 := by omega
    all_goals cases host <;> simp <;> omega
  rw [hnew, hold, testBit_digit (by cases host <;> decide) hr, testBit_digit hd hr]
  by_cases hj : j = k
  · cases host <;> simp [hj]
  · simp [hj]

/-- The byte that is written for a flip of a frame. -/
theorem State.rootWritten_setBias : RootWritten ((s.modl.biasBase + frame / 8) / 128)
    (bytesAt (s.modl.biasBase + frame / 8) 1 (biasByte (s.hbm.byte (s.modl.biasBase + frame / 8)).toNat (frame % 8) host)) false s
    (s.setBias frame host) := State.rootWritten_rootApply

/-! ### Caches of the dies (03 R85, 06 R167, R174) -/

/-- Nothing but what the dies and the LLC hold of memory, and what cores hold of translations, has changed. -/
def OnlyCaches (s t : State) : Prop := t = { s with cores := t.cores, dies := t.dies, llc := t.llc }

theorem OnlyCaches.refl : OnlyCaches s s := rfl

theorem OnlyCaches.of_caches {cores : Tbl Core} {dies : Tbl Die} {llc : Tbl (Option LlcTag)} :
    OnlyCaches s { s with cores := cores, dies := dies, llc := llc } := rfl

theorem OnlyCaches.trans (h : OnlyCaches s t) (h' : OnlyCaches t u) : OnlyCaches s u := by
  unfold OnlyCaches at h h' ⊢
  rw [h', h]

theorem OnlyCaches.hbm (h : OnlyCaches s t) : t.hbm = s.hbm := (congrArg State.hbm h :)

theorem OnlyCaches.modl (h : OnlyCaches s t) : t.modl = s.modl := (congrArg State.modl h :)

theorem OnlyCaches.parts (h : OnlyCaches s t) : t.parts = s.parts := (congrArg State.parts h :)

theorem OnlyCaches.versions (h : OnlyCaches s t) : t.versions = s.versions := (congrArg State.versions h :)

theorem OnlyCaches.hbmPsn (h : OnlyCaches s t) : t.hbmPsn = s.hbmPsn := (congrArg State.hbmPsn h :)

theorem OnlyCaches.homeLine (h : OnlyCaches s t) (line : Nat) : t.homeLine line = s.homeLine line := by
  unfold State.homeLine
  rw [h.hbm]

theorem OnlyCaches.hostBias (h : OnlyCaches s t) (pa : Nat) : t.hostBias pa = s.hostBias pa := by
  unfold State.hostBias State.inWindow
  rw [h.hbm, h.modl]

theorem OnlyCaches.foldl {α : Type} {f : State → α → State} (l : List α) (hf : ∀ u a, OnlyCaches u (f u a)) : OnlyCaches s (l.foldl f s) :=
  List.foldlRecOn (motive := fun t => OnlyCaches s t) _ _ .refl fun t h a _ => h.trans (hf t a)

/-- A die without what it has translated. -/
def Die.untranslated (d : Die) : Die := { d with tcache := [], pointers := [] }

/-- A die without its root frames of some lines. -/
def Die.without (d : Die) (p : Nat → Bool) : Die := { d with l2 := d.l2.filter fun kf => !(keyTag kf.1 = 0 && p (keyLine kf.1)) }

theorem State.dropLeavesOf_only (die : Nat) (p : Nat → Bool) : OnlyCaches s (s.dropLeavesOf die p) := by
  unfold State.dropLeavesOf
  dsimp only
  split <;> rfl

theorem State.untranslated_dropLeavesOf (die : Nat) (p : Nat → Bool) (d : Nat) :
    ((s.dropLeavesOf die p).die d).untranslated = (s.die d).untranslated := by
  have hdies : (s.dropLeavesOf die p).dies = (s.modDie die fun d =>
      { d with tcache := d.tcache.filter fun l => !l.tables.any p, pointers := d.pointers.filter fun y => !y.lines.any p }).dies := by
    unfold State.dropLeavesOf
    dsimp only
    split <;> rfl
  rw [State.die_of_dies hdies]
  by_cases h : d = die
  · rw [h, State.die_modDie]
    rfl
  · rw [State.die_modDie_ne _ _ _ _ h]

theorem State.dropFrames_only (p : Nat → Bool) : OnlyCaches s (s.dropFrames p) := by
  refine OnlyCaches.trans .of_caches (.foldl _ fun u d => u.dropLeavesOf_only d p)

theorem State.untranslated_dropFrames (p : Nat → Bool) (d : Nat) :
    ((s.dropFrames p).die d).untranslated = ((s.die d).without p).untranslated := by
  have hframes : State.die { s with dies := s.dies.map fun d => (d.1, d.2.without p) } d = (s.die d).without p :=
    Tbl.get_map_value (fun d : Die => d.without p) Die.reset s.dies d rfl
  rw [← hframes]
  exact List.foldlRecOn (motive := fun t : State => (t.die d).untranslated =
    (State.die { s with dies := s.dies.map fun d => (d.1, d.2.without p) } d).untranslated) _ _ rfl
    fun t ht k _ => (t.untranslated_dropLeavesOf k p d).trans ht

theorem State.dropLines_only (p : Nat → Bool) : OnlyCaches s (s.dropLines p) := (s.dropFrames_only p).trans .of_caches

theorem State.untranslated_dropLines (p : Nat → Bool) (d : Nat) :
    ((s.dropLines p).die d).untranslated = ((s.die d).without p).untranslated := by
  have hdies : (s.dropLines p).dies = (s.dropFrames p).dies := by rw [State.dropLines]
  rw [State.die_of_dies hdies]
  exact s.untranslated_dropFrames p d

/-- No die keeps a root frame of the lines. -/
theorem Die.not_mem_l2_of_without {d d' : Die} {q : Nat → Bool} (h : d'.untranslated = (d.without q).untranslated) :
    ∀ kf ∈ d'.l2, keyTag kf.1 = 0 → q (keyLine kf.1) = false := by
  intro kf hkf htag
  have hl2 : d'.l2 = (d.without q).l2 := (congrArg Die.l2 h :)
  rw [hl2] at hkf
  have hkept := (List.mem_filter.1 hkf).2
  rw [htag, decide_eq_true rfl, Bool.true_and, Bool.not_eq_true'] at hkept
  exact hkept


end

end Sys2Proof.Machine
end

section
/-! # Translation syncs and the page copier (O44)

The copier of a die takes its next line exclusive or writes it (`LineCopied`); what it does before, and what its frames leave afterwards, is in
the caches of the dies alone. -/

namespace Sys2Proof.Machine

section
variable {s u : State} {die n : Nat} {ctl : DWord} {i : Instr}

theorem occurs_of_happened (h : exec i s = happened u) : Occurs i s u := h

theorem State.die_performed (u : State) (d : Nat) : State.die { u with note := .performed } d = u.die d := rfl

@[simp] theorem State.die_post (s : State) (i : Instr) (d : Nat) : (s.post i).die d = s.die d := rfl

@[simp] theorem State.die_postOnce (s : State) (i : Instr) (d : Nat) : (s.postOnce i).die d = s.die d :=
  State.die_of_dies (s.postOnce_dies i) d

/-! ### Translation invalidations (06 R171, R173) -/

theorem State.mem_tableInvalidations {d : Nat} {w : LineWrite} :
    (d, w) ∈ s.tableInvalidations ↔ .applyInvalidation d w ∈ s.pending ∧ w.tag = 0 := by
  unfold State.tableInvalidations
  rw [List.mem_filterMap]
  constructor
  · rintro ⟨i, hi, h⟩
    split at h
    · next e v =>
      split at h
      · next htag =>
        cases h
        exact ⟨hi, htag⟩
      · cases h
    · cases h
  · rintro ⟨hi, htag⟩
    exact ⟨_, hi, by simp [htag]⟩

theorem State.any_stillDue {due : List (Nat × LineWrite)} : due.any s.stillDue = true ↔ ∃ dw ∈ due, ∃ w,
    .applyInvalidation dw.1 w ∈ s.pending ∧ w.tag = 0 ∧ w.line = dw.2.line ∧ w.die = dw.2.die ∧ w.clock = dw.2.clock := by
  rw [List.any_eq_true]
  refine exists_congr fun dw => and_congr_right fun _ => ?_
  unfold State.stillDue
  rw [List.any_eq_true]
  constructor
  · rintro ⟨⟨d, w⟩, hmem, h⟩
    obtain ⟨⟨⟨hd, hline⟩, hdie⟩, hclock⟩ := by simpa using h
    obtain ⟨hpend, htag⟩ := State.mem_tableInvalidations.1 hmem
    exact ⟨w, hd ▸ hpend, htag, hline, hdie, hclock⟩
  · rintro ⟨w, hpend, htag, hline, hdie, hclock⟩
    exact ⟨(dw.1, w), State.mem_tableInvalidations.2 ⟨hpend, htag⟩, by simp [hline, hdie, hclock]⟩

theorem occursWith_tsync (die : Nat) (s : State) : OccursWith (.tsync die) s fun t =>
    (t.die die).tsync = 1 ∧ .tsyncDone die ∈ t.pending ∧ t.hbm = s.hbm ∧
      ∀ e w, .applyInvalidation e w ∈ s.pending → w.tag = 0 → (e, w) ∈ (t.die die).tsyncDue := by
  have hdie : ((s.modDie die fun d => { d with tsync := 1, tsyncDue := d.tsyncDue ++ s.tableInvalidations }).postOnce (.tsyncDone die)).die die =
      { s.die die with tsync := 1, tsyncDue := (s.die die).tsyncDue ++ s.tableInvalidations } := by
    rw [State.die_postOnce, State.die_modDie]
  refine occursWith_of_happened (u := (s.modDie die _).postOnce _) rfl ⟨congrArg Die.tsync hdie, State.mem_postOnce _ _, State.postOnce_hbm ..,
    fun e w hpend htag => ?_⟩
  have hdue := (congrArg Die.tsyncDue hdie :)
  exact hdue ▸ List.mem_append_right _ (State.mem_tableInvalidations.2 ⟨hpend, htag⟩)

theorem waits_tsyncDone (h : (s.die die).tsyncDue.any s.stillDue = true) : Waits (.tsyncDone die) s :=
  occurs_of_happened (if_pos h)

theorem occursWith_tsyncDone (h : ¬(s.die die).tsyncDue.any s.stillDue = true) : OccursWith (.tsyncDone die) s fun t =>
    (t.die die).tsync = 0 ∧ (t.die die).tsyncDue = [] ∧ ∀ k, k ≠ die → t.die k = s.die k := by
  have hdie := s.die_modDie die fun d => { d with tsync := 0, tsyncDue := [] }
  exact occursWith_of_happened (if_neg h) ⟨congrArg Die.tsync hdie, congrArg Die.tsyncDue hdie, fun k hk => by
    rw [State.die_performed, State.die_modDie_ne _ _ _ _ hk]⟩

/-! ### The copier starts and ends (06 R171) -/

theorem occurs_pageCopy_busy (h : (s.die die).pcCtl.getLsbD 63 = true) : Occurs (.pageCopy die ctl) s s :=
  occurs_of_happened (if_pos h)

theorem exec_pageCopy_idle (h : (s.die die).pcCtl.getLsbD 63 = false) : exec (.pageCopy die ctl) s =
    if !ctl.getLsbD 63 then happened (s.modDie die fun d => { d with pcCtl := (d.pcCtl &&& (1#64 <<< 62)) ||| (ctl &&& 3) })
    else happened ((s.modDie die fun d => { d with
      pcCtl := (1#64 <<< 63) ||| (ctl &&& 3), pcJob := (d.copySrc, d.copyOwner, d.copyDst), pcNext := 0
      pcWork := Work.new, pcErr := false }).postOnce (.pageCopyDone die)) :=
  if_neg (by rw [h]; exact Bool.false_ne_true)

theorem occurs_pageCopy_idle (h : (s.die die).pcCtl.getLsbD 63 = false) (hctl : ctl.getLsbD 63 = false) : Occurs (.pageCopy die ctl) s
    (s.modDie die fun d => { d with pcCtl := (d.pcCtl &&& (1#64 <<< 62)) ||| (ctl &&& 3) }) :=
  occurs_of_happened ((exec_pageCopy_idle h).trans (if_pos (by rw [hctl]; rfl)))

theorem occursWith_pageCopy (h : (s.die die).pcCtl.getLsbD 63 = false) (hctl : ctl.getLsbD 63 = true) :
    OccursWith (.pageCopy die ctl) s fun t =>
      (t.die die).pcCtl = (1#64 <<< 63) ||| (ctl &&& 3) ∧ (t.die die).pcNext = 0 ∧ .pageCopyDone die ∈ t.pending ∧ t.hbm = s.hbm ∧
      (t.die die).pcErr = false ∧ (t.die die).pcJob = ((s.die die).copySrc, (s.die die).copyOwner, (s.die die).copyDst) := by
  refine occursWith_of_happened ((exec_pageCopy_idle h).trans (if_neg (by rw [hctl]; exact Bool.false_ne_true))) ?_
  have hdie := ((State.die_postOnce _ (.pageCopyDone die) die).trans (s.die_modDie die fun d => { d with
      pcCtl := (1#64 <<< 63) ||| (ctl &&& 3), pcJob := (d.copySrc, d.copyOwner, d.copyDst), pcNext := 0
      pcWork := Work.new, pcErr := false }) :)
  exact ⟨congrArg Die.pcCtl hdie, congrArg Die.pcNext hdie, State.mem_postOnce _ _, State.postOnce_hbm .., congrArg Die.pcErr hdie,
    congrArg Die.pcJob hdie⟩

theorem State.die_endCopy (err : Bool) : (s.endCopy die err).die die = { s.die die with
    pcCtl := ((s.die die).pcCtl &&& ~~~(1#64 <<< 63)) ||| (if err then 1#64 <<< 62 else 0), pcNext := 0, pcWork := Work.new, pcErr := false } :=
  State.die_modDie ..

theorem State.endCopy_idle (err : Bool) : ((s.endCopy die err).die die).pcCtl.getLsbD 63 = false := by
  rw [State.die_endCopy]
  cases err <;> simp

theorem State.endCopy_err (err : Bool) :
    ((s.endCopy die err).die die).pcCtl.getLsbD 62 = ((s.die die).pcCtl.getLsbD 62 || err) := by
  rw [State.die_endCopy]
  cases err <;> simp

/-! ### Lines that the copier has written leave its ownership (03 R90, R91) -/

theorem State.leaveLine_only (part tag line : Nat) : OnlyCaches s (s.leaveLine die part tag line) := by
  unfold State.leaveLine State.dropX
  split <;> rfl

theorem State.bare_leaveLine (part tag line d : Nat) : ((s.leaveLine die part tag line).die d).bare = (s.die d).bare := by
  unfold State.leaveLine State.dropX
  refine (State.bare_modDie (fun d => ?_) d).trans ?_
  · dsimp only
    split <;> rfl
  · split <;> rfl

theorem State.leaveCopied_only (die : Nat) : OnlyCaches s (s.leaveCopied die) := .foldl _ fun u l => u.leaveLine_only noPart 0 l

theorem State.bare_leaveCopied (die d : Nat) : ((s.leaveCopied die).die d).bare = (s.die d).bare :=
  List.foldlRecOn (motive := fun t : State => (t.die d).bare = (s.die d).bare) _ _ rfl
    fun t ht l _ => (t.bare_leaveLine noPart 0 l d).trans ht

theorem Die.copyRefused_of_bare {d d' : Die} (h : d'.bare = d.bare) : d'.copyRefused = d.copyRefused := by
  have hctl : d'.pcCtl = d.pcCtl := (congrArg Die.pcCtl h :)
  have hjob : d'.pcJob = d.pcJob := (congrArg Die.pcJob h :)
  unfold Die.copyRefused
  rw [hctl, hjob]

theorem State.copyOwes_leaveCopied : (s.leaveCopied die).copyOwes die = s.copyOwes die := by
  have hout : ((s.leaveCopied die).die die).out = (s.die die).out := (congrArg Die.out (s.bare_leaveCopied die die) :)
  unfold State.copyOwes
  rw [hout]

/-- A copy that is refused ends with ERR. -/
theorem exec_pageCopyDone_refused (hbusy : ((s.leaveCopied die).die die).pcCtl.getLsbD 63 = true)
    (hr : ((s.leaveCopied die).die die).copyRefused = true) :
    exec (.pageCopyDone die) s = happened ((s.leaveCopied die).endCopy die true) := by
  show execPageCopyDone die s = _
  unfold execPageCopyDone
  simp only [hbusy, hr, Bool.not_true, Bool.false_eq_true, if_false, if_true]
  split <;> rfl

/-- Once every line has been written the copier waits for its writes, or ends. -/
theorem exec_pageCopyDone_last (hbusy : ((s.leaveCopied die).die die).pcCtl.getLsbD 63 = true)
    (hn : copySize ((s.leaveCopied die).die die).pcCtl = some n) (hr : ((s.leaveCopied die).die die).copyRefused = false)
    (hnext : ((s.leaveCopied die).die die).pcNext = n) :
    exec (.pageCopyDone die) s = if s.copyOwes die then happened ((s.leaveCopied die).post (.pageCopyDone die))
      else happened ((s.leaveCopied die).endCopy die ((s.leaveCopied die).die die).pcErr) := by
  show execPageCopyDone die s = _
  unfold execPageCopyDone
  simp only [hbusy, hn, hr, hnext, State.copyOwes_leaveCopied, Bool.not_true, Bool.false_eq_true, if_false, if_true]

/-- The next source line lies in local HBM: its home takes it back from the dies, and the copier writes what it then holds. -/
theorem exec_pageCopyDone_next {src dst : Nat} (hbusy : ((s.leaveCopied die).die die).pcCtl.getLsbD 63 = true)
    (hn : copySize ((s.leaveCopied die).die die).pcCtl = some n) (hr : ((s.leaveCopied die).die die).copyRefused = false)
    (hnext : ((s.leaveCopied die).die die).pcNext ≠ n)
    (hsrc : ((s.leaveCopied die).die die).pcJob.1 + 128 * ((s.leaveCopied die).die die).pcNext = src)
    (hdst : ((s.leaveCopied die).die die).pcJob.2.2 + 128 * ((s.leaveCopied die).die die).pcNext = dst) (hhbm : placeOf src = .hbm)
    (hfs : (s.leaveCopied die).isFlipping src = false) (hfd : (s.leaveCopied die).isFlipping dst = false) :
    exec (.pageCopyDone die) s =
      if !((s.leaveCopied die).dirtyDies (· = src / 128)).isEmpty then
        happened (((s.leaveCopied die).sendDirty ((s.leaveCopied die).dirtyDies (· = src / 128))).post (.pageCopyDone die))
      else
        let s1 := ((s.leaveCopied die).dropLines (· = src / 128)).hostYields (src / 128)
        happened (s1.copyLine die dst (s1.homeLine (src / 128)) (s1.rootPoisoned (src / 128))) := by
  show execPageCopyDone die s = _
  unfold execPageCopyDone
  simp only [hbusy, hn, hr, hnext, hsrc, hdst, hhbm, hfs, hfd, Bool.not_true, Bool.false_eq_true, if_false, or_self, ne_eq, not_true]

end

end Sys2Proof.Machine
end

section
/-! # One line of a page copy (O44)

The copier takes the exclusivity of its next destination line, or, once it has it, writes the line (`LineCopied`). -/

namespace Sys2Proof.Machine

section
variable {s : State} {die pa line : Nat}

/-! ### A whole line in the slice order of a die (03 R84) -/

/-- A byte's bit stands for its eight bits. -/
theorem getLsbD_expandMask (m : LineMask) {i : Nat} (hi : i < 1024) : (expandMask m).getLsbD i = m.getLsbD (i / 8) := by
  have hbytes : ∀ n, (((List.range n).foldl (fun x k => if m.getLsbD k then x ||| (0xFF#1024 <<< (8 * k)) else x) (0 : Line)).getLsbD i) =
      (decide (i / 8 < n) && m.getLsbD (i / 8)) := by
    intro n
    induction n with
    | zero => simp
    | succ n ih =>
      have hbyte : (0xFF#1024 <<< (8 * n)).getLsbD i = decide (i / 8 = n) := by
        rw [BitVec.getLsbD_shiftLeft, BitVec.getLsbD_ofNat, show (0xFF : Nat) = 2 ^ 8 - 1 from rfl, Nat.testBit_two_pow_sub_one,
          Bool.eq_iff_iff]
        simp only [Bool.and_eq_true, Bool.not_eq_true', decide_eq_true_eq, decide_eq_false_iff_not]
        omega
      rw [List.range_succ, List.foldl_append, List.foldl_cons, List.foldl_nil]
      by_cases hn : i / 8 = n
      · subst hn
        split
        · next h => rw [BitVec.getLsbD_or, hbyte, h]; simp
        · next h => rw [ih, Bool.eq_false_of_not_eq_true h]; simp
      · have hlt : decide (i / 8 < n + 1) = decide (i / 8 < n) := by
          rw [decide_eq_decide]
          omega
        split
        · rw [BitVec.getLsbD_or, hbyte, ih, hlt]; simp [hn]
        · rw [ih, hlt]
  rw [expandMask, hbytes, decide_eq_true (by omega), Bool.true_and]

theorem mergeLine_allOnes (x y : Line) : mergeLine x y (BitVec.allOnes 128) = y := by
  have hall : expandMask (BitVec.allOnes 128) = BitVec.allOnes 1024 :=
    BitVec.eq_of_getLsbD_eq fun i hi => by
      rw [getLsbD_expandMask _ hi, BitVec.getLsbD_allOnes, BitVec.getLsbD_allOnes, decide_eq_true hi, decide_eq_true (by omega)]
  simp only [mergeLine, hall, BitVec.not_allOnes, BitVec.and_zero, BitVec.zero_or, BitVec.and_allOnes]

/-- An unsent write of a whole line. -/
structure OutWrite.Whole (o : OutWrite) (key : Nat) (x : Line) (psn : Bool) : Prop where
  key : o.key = key
  bytes : o.bytes = ⟨BitVec.allOnes 128, x⟩
  sent : o.sent = none
  psn : psn = true → o.psn = true

/-- A die with other writes to be sent. -/
def Die.withOut (d : Die) (out : List OutWrite) (next : Nat) : Die := { d with out := out, nextOut := next }

/-- The line is among the writes to be sent; besides these nothing of the die has changed. -/
theorem Die.emit_whole (d : Die) (key : Nat) (x : Line) (psn : Bool) :
    ∃ out next, d.emit key ⟨BitVec.allOnes 128, x⟩ psn = d.withOut out next ∧ ∃ o ∈ out, o.Whole key x psn := by
  unfold Die.emit
  extract_lets mine join
  split
  · next h =>
    obtain ⟨o, ho, hmine⟩ := List.any_eq_true.1 h
    obtain ⟨⟨hkey, hsent⟩, -⟩ := by simpa [mine] using hmine
    refine ⟨_, _, rfl, join o, List.mem_map_of_mem ho, ?_⟩
    have hjoin : join o = { o with bytes := ⟨BitVec.allOnes 128, x⟩, psn := o.psn || psn } := by
      simp only [join, hmine, if_true, mergeLine_allOnes, BitVec.or_allOnes]
    rw [hjoin]
    exact ⟨hkey, rfl, hsent, fun hp => by simp [hp]⟩
  · exact ⟨_, _, rfl, _, List.mem_append_right _ (List.mem_singleton.2 rfl), rfl, rfl, rfl, id⟩

theorem State.bare_invalidate (s : State) (die part tag line : Nat) (m : LineMask) (own : Bool) (d : Nat) :
    ((s.invalidate die part tag line m own).die d).bare = (s.die d).bare := by
  unfold State.invalidate
  exact State.bare_modDie (fun _ => by rfl) d

/-- A store of a whole line is performed in a slice: the line is among what the die has to send. -/
theorem State.sliceWrite_whole (s : State) (die part tag line : Nat) (x : Line) (psn : Bool) :
    ∃ out next, ((s.sliceWrite die part tag line ⟨BitVec.allOnes 128, x⟩ psn).die die).bare =
      (s.die die).bare.withOut out next ∧ ∃ o ∈ out, o.Whole (lineKey part tag line) x psn := by
  unfold State.sliceWrite
  extract_lets s1
  have hbare : (s1.die die).bare = (s.die die).bare := s.bare_invalidate ..
  clear_value s1
  rw [State.die_modDie]
  extract_lets f bad g
  have hbad : bad = psn := by simp [bad]
  clear_value f bad g
  subst hbad
  obtain ⟨out, next, hemit, hout⟩ := ((s1.die die).setFrame part tag line { g with state := frameState tag g }).emit_whole
    (lineKey part tag line) x bad
  refine ⟨out, next, ?_, hout⟩
  rw [hemit, ← hbare]
  rfl

/-! ### The copier's write (06 R174, 03 R91) -/

theorem State.noteWrote_copier (s t : State) (die u : Nat) : t.noteWrote (s.copier die) u =
    t.modDie die fun d => { d with pcWork := { d.pcWork with wrote := u :: d.pcWork.wrote } } := by
  unfold State.noteWrote State.modWork
  rw [if_neg (show ¬(s.copier die).core < 2 ^ 20 by unfold State.copier; dsimp only; omega),
    if_neg (show ¬(s.copier die).core < 2 ^ 21 by unfold State.copier; dsimp only; omega)]
  rfl

theorem placeOf_hbm (h : pa < 2 ^ 40) : placeOf pa = .hbm := by
  unfold placeOf
  rw [if_pos (Nat.div_eq_of_lt h)]

/-- A line of local HBM that the copier writes: what it does while it has the line exclusive, and before. -/
theorem State.putLine_copier (s t : State) (die : Nat) (h : pa < 2 ^ 40) (b : LineBytes) (bad : BitVec 16) :
    t.putLine (s.copier die) ⟨0, pa, 0, false⟩ b bad =
      if t.hasX (s.copier die) (pa / 128) then
        (((t.hostYields (pa / 128)).sliceWrite die noPart 0 (pa / 128) b (bad ≠ 0)).postOnce (.rootWriteBatchSend die)).modDie die fun d =>
          { d with pcWork := { d.pcWork with wrote := 0 :: d.pcWork.wrote } }
      else t.takeX (s.copier die) (pa / 128) := by
  have hplace := placeOf_hbm h
  have hopen : t.forwarding pa 0 = .open_ := by
    unfold State.forwarding
    rw [hplace]
  unfold State.putLine
  simp only [hplace, hopen, State.noteWrote_copier]
  cases t.hasX (s.copier die) (pa / 128) <;> simp [State.copier]

/-- The copier has gone on with a line: it is exclusive, or has been written and is to be sent. -/
structure LineCopied (die pa : Nat) (x : Line) (bad : Bool) (s t : State) : Prop where
  hbm : KeepsHbm s t
  ctl : (t.die die).pcCtl = (s.die die).pcCtl
  again : .pageCopyDone die ∈ t.pending
  err : (s.die die).pcErr = true → (t.die die).pcErr = true
  next : (t.die die).pcNext = (s.die die).pcNext ∨ (t.die die).pcNext = (s.die die).pcNext + 1
  written : (t.die die).pcNext = (s.die die).pcNext + 1 → (bad = true → (t.die die).pcErr = true) ∧
    ∃ o ∈ (t.die die).out, o.Whole (lineKey noPart 0 (pa / 128)) x bad

theorem keyPart_noPart (h : line < 2 ^ 57) : keyPart (lineKey noPart 0 line) = noPart := by
  unfold keyPart lineKey noPart
  omega

theorem State.hbm_sliceWrite (s : State) (die part tag line : Nat) (b : LineBytes) (psn : Bool) :
    (s.sliceWrite die part tag line b psn).hbm = s.hbm := rfl

theorem State.hostYields_hbm_dies (s : State) (line : Nat) : (s.hostYields line).hbm = s.hbm ∧ (s.hostYields line).dies = s.dies := by
  unfold State.hostYields
  split <;> exact ⟨rfl, rfl⟩

/-- The copier's batch is closed after what the homes have applied (04 R117). -/
def State.copyReady (s : State) (die : Nat) : State := (s.modDie die fun d => { d with clock := clockMax d.clock s.applied }).closeBatch die

theorem State.die_copyReady (s : State) (die : Nat) :
    ∃ clock epoch, (s.copyReady die).die die = { s.die die with clock := clock, epoch := epoch } := by
  unfold State.copyReady State.closeBatch
  rw [State.die_modDie, State.die_modDie]
  unfold Die.closeBatch
  split
  · exact ⟨_, _, rfl⟩
  · exact ⟨_, (s.die die).epoch, rfl⟩

theorem State.copyReady_same (s : State) (die : Nat) :
    (s.copyReady die).hbm = s.hbm ∧ (s.copyReady die).parts = s.parts ∧ (s.copyReady die).versions = s.versions := by
  unfold State.copyReady State.closeBatch
  exact ⟨rfl, rfl, rfl⟩

/-- The copier waits for exclusivity. -/
theorem State.copyLine_takeX (hpa : pa < 2 ^ 40) (hw : (s.die die).pcWork.wrote = [])
    (hx : (s.copyReady die).hasX (s.copier die) (pa / 128) = false) (x : Line) (bad : Bool) :
    LineCopied die pa x bad s (s.copyLine die pa x bad) := by
  obtain ⟨clock, epoch, hready⟩ := s.die_copyReady die
  have hkept : Kept (s.copyReady die) ((s.copyReady die).takeX (s.copier die) (pa / 128)) :=
    Kept.takeX (keyPart_noPart (by omega)) .refl
  have htake := (State.putLine_copier s (s.copyReady die) die hpa ⟨BitVec.allOnes 128, x⟩ (if bad then BitVec.allOnes 16 else 0)).trans
    (if_neg (by rw [hx]; exact Bool.false_ne_true))
  generalize (s.copyReady die).takeX (s.copier die) (pa / 128) = w at hkept htake
  have hdie := (hkept.dies die).trans (congrArg Die.bare hready)
  have hctl : (w.die die).pcCtl = (s.die die).pcCtl := (congrArg Die.pcCtl hdie :)
  have hnext : (w.die die).pcNext = (s.die die).pcNext := (congrArg Die.pcNext hdie :)
  have herr : (w.die die).pcErr = (s.die die).pcErr := (congrArg Die.pcErr hdie :)
  have hwork : (w.die die).pcWork = (s.die die).pcWork := (congrArg Die.pcWork hdie :)
  have hcopy : s.copyLine die pa x bad = w.post (.pageCopyDone die) := by
    unfold State.copyLine
    extract_lets e s1 s2
    have hs1 : s1 = w := htake
    have hs2 : s2 = s1 := if_pos (by rw [hs1, hwork, hw]; rfl)
    rw [hs2, hs1]
  obtain ⟨hhbm, hparts, hversions⟩ := s.copyReady_same die
  rw [hcopy]
  refine ⟨hkept.hbm.of_same hparts hversions hhbm, ?_, State.mem_post _ _, ?_, .inl ?_, ?_⟩
  all_goals rw [State.die_post]
  · exact hctl
  · exact fun h => herr.trans h
  · exact hnext
  · rw [hnext]
    exact fun h => absurd h (by omega)

/-- The copier writes the line. -/
theorem State.copyLine_written (hpa : pa < 2 ^ 40) (hx : (s.copyReady die).hasX (s.copier die) (pa / 128) = true) (x : Line) (bad : Bool) :
    LineCopied die pa x bad s (s.copyLine die pa x bad) := by
  obtain ⟨clock, epoch, hready⟩ := s.die_copyReady die
  obtain ⟨hyhbm, hydies⟩ := (s.copyReady die).hostYields_hbm_dies (pa / 128)
  obtain ⟨out, next, hslice, o, ho, hwhole⟩ := ((s.copyReady die).hostYields (pa / 128)).sliceWrite_whole die noPart 0 (pa / 128) x bad
  rw [State.die_of_dies hydies, hready] at hslice
  generalize hw : ((s.copyReady die).hostYields (pa / 128)).sliceWrite die noPart 0 (pa / 128) ⟨BitVec.allOnes 128, x⟩ bad = w at hslice
  have hcopy : s.copyLine die pa x bad = (((w.postOnce (.rootWriteBatchSend die)).modDie die fun d =>
      { d with pcWork := { d.pcWork with wrote := 0 :: d.pcWork.wrote } }).modDie die fun d =>
      { d with pcNext := d.pcNext + 1, pcWork := Work.new, pcErr := d.pcErr || bad }).post (.pageCopyDone die) := by
    unfold State.copyLine
    extract_lets e s1 s2
    have hbad : decide ((if bad = true then BitVec.allOnes 16 else 0) ≠ 0) = bad := by cases bad <;> rfl
    have hs1 : s1 = (w.postOnce (.rootWriteBatchSend die)).modDie die fun d =>
        { d with pcWork := { d.pcWork with wrote := 0 :: d.pcWork.wrote } } := by
      refine (State.putLine_copier s (s.copyReady die) die hpa _ _).trans ((if_pos hx).trans ?_)
      rw [hbad, hw]
    have hs2 : s2 = s1.modDie die fun d => { d with pcNext := d.pcNext + 1, pcWork := Work.new, pcErr := d.pcErr || bad } := by
      refine if_neg ?_
      rw [hs1, State.die_modDie]
      exact Bool.false_ne_true
    rw [hs2, hs1]
  have hdie : (s.copyLine die pa x bad).die die = { w.die die with
      pcNext := (w.die die).pcNext + 1, pcWork := Work.new, pcErr := (w.die die).pcErr || bad } := by
    rw [hcopy, State.die_post, State.die_modDie, State.die_modDie, State.die_postOnce]
  have hctl : (w.die die).pcCtl = (s.die die).pcCtl := (congrArg Die.pcCtl hslice :)
  have hnext : (w.die die).pcNext = (s.die die).pcNext := (congrArg Die.pcNext hslice :)
  have herr : (w.die die).pcErr = (s.die die).pcErr := (congrArg Die.pcErr hslice :)
  have hout : (w.die die).out = out := (congrArg Die.out hslice :)
  refine ⟨fun p _ => ?_, ?_, ?_, fun h => ?_, .inr ?_, fun _ => ⟨fun hb => ?_, o, ?_, hwhole⟩⟩
  · rw [hcopy]
    show (w.postOnce (.rootWriteBatchSend die)).hbm.byte p = _
    rw [State.postOnce_hbm, ← hw, State.hbm_sliceWrite, hyhbm, (s.copyReady_same die).1]
  · rw [hdie]
    exact hctl
  · rw [hcopy]
    exact State.mem_post _ _
  · rw [hdie]
    show ((w.die die).pcErr || bad) = true
    rw [herr, h, Bool.true_or]
  · rw [hdie]
    exact congrArg (· + 1) hnext
  · rw [hdie]
    show ((w.die die).pcErr || bad) = true
    rw [hb, Bool.or_true]
  · rw [hdie]
    show o ∈ (w.die die).out
    rwa [hout]

theorem State.copyLine_copied (hpa : pa < 2 ^ 40) (hw : (s.die die).pcWork.wrote = []) (x : Line) (bad : Bool) :
    LineCopied die pa x bad s (s.copyLine die pa x bad) := by
  cases hx : (s.copyReady die).hasX (s.copier die) (pa / 128)
  · exact State.copyLine_takeX hpa hw hx x bad
  · exact State.copyLine_written hpa hx x bad

end

end Sys2Proof.Machine
end

section
/-! # The copier goes on (O44) -/

namespace Sys2Proof.Machine

section
variable {s t u : State} {die n src dst pa : Nat} {x : Line} {bad : Bool} {d : Die}

theorem State.pcCtl_leaveCopied (s : State) (die : Nat) : ((s.leaveCopied die).die die).pcCtl = (s.die die).pcCtl :=
  (congrArg Die.pcCtl (s.bare_leaveCopied die die) :)

theorem occursWith_pageCopyDone_refused (hbusy : (s.die die).pcCtl.getLsbD 63 = true) (hr : (s.die die).copyRefused = true) :
    OccursWith (.pageCopyDone die) s fun t =>
      (t.die die).pcCtl.getLsbD 63 = false ∧ (t.die die).pcCtl.getLsbD 62 = true ∧ t.hbm = s.hbm := by
  refine occursWith_of_happened (exec_pageCopyDone_refused (by rwa [s.pcCtl_leaveCopied]) ?_)
    ⟨State.endCopy_idle true, (State.endCopy_err true).trans (Bool.or_true _), (s.leaveCopied_only die).hbm⟩
  rwa [Die.copyRefused_of_bare (s.bare_leaveCopied die die)]

theorem exec_pageCopyDone_end (hbusy : (s.die die).pcCtl.getLsbD 63 = true) (hn : copySize (s.die die).pcCtl = some n)
    (hr : (s.die die).copyRefused = false) (hnext : (s.die die).pcNext = n) :
    exec (.pageCopyDone die) s = if s.copyOwes die then happened ((s.leaveCopied die).post (.pageCopyDone die))
      else happened ((s.leaveCopied die).endCopy die (s.die die).pcErr) := by
  have hbare := s.bare_leaveCopied die die
  have herr : ((s.leaveCopied die).die die).pcErr = (s.die die).pcErr := (congrArg Die.pcErr hbare :)
  rw [← herr]
  refine exec_pageCopyDone_last (n := n) ?_ ?_ ?_ ((congrArg Die.pcNext hbare :).trans hnext)
  · rwa [s.pcCtl_leaveCopied]
  · rwa [s.pcCtl_leaveCopied]
  · rwa [Die.copyRefused_of_bare hbare]

theorem occursWith_pageCopyDone_end (hbusy : (s.die die).pcCtl.getLsbD 63 = true) (hn : copySize (s.die die).pcCtl = some n)
    (hr : (s.die die).copyRefused = false) (hnext : (s.die die).pcNext = n) (ho : s.copyOwes die = false) :
    OccursWith (.pageCopyDone die) s fun t => (t.die die).pcCtl.getLsbD 63 = false ∧
      ((t.die die).pcCtl.getLsbD 62 = true ↔ (s.die die).pcCtl.getLsbD 62 = true ∨ (s.die die).pcErr = true) ∧ t.hbm = s.hbm := by
  refine occursWith_of_happened ((exec_pageCopyDone_end hbusy hn hr hnext).trans (if_neg (by rw [ho]; exact Bool.false_ne_true)))
    ⟨State.endCopy_idle _, ?_, (s.leaveCopied_only die).hbm⟩
  rw [State.die_performed, State.endCopy_err, s.pcCtl_leaveCopied, Bool.or_eq_true]

theorem occursWith_pageCopyDone_owes (hbusy : (s.die die).pcCtl.getLsbD 63 = true) (hn : copySize (s.die die).pcCtl = some n)
    (hr : (s.die die).copyRefused = false) (hnext : (s.die die).pcNext = n) (ho : s.copyOwes die = true) :
    OccursWith (.pageCopyDone die) s fun t =>
      (t.die die).pcCtl = (s.die die).pcCtl ∧ .pageCopyDone die ∈ t.pending ∧ t.hbm = s.hbm :=
  occursWith_of_happened ((exec_pageCopyDone_end hbusy hn hr hnext).trans (if_pos ho))
    ⟨s.pcCtl_leaveCopied die, State.mem_post _ _, (s.leaveCopied_only die).hbm⟩

/-- The destination of a copy that is not refused lies in local HBM (06 R171). -/
theorem Die.copyDst_lt (hn : copySize d.pcCtl = some n) (hr : d.copyRefused = false) (hnext : d.pcNext < n) :
    d.pcJob.2.2 + 128 * d.pcNext < 2 ^ 40 := by
  have hsize : n = 512 ∨ n = 2 ^ 19 := by
    unfold copySize at hn
    split at hn
    · exact .inl (Option.some_inj.1 hn).symm
    · exact .inr (Option.some_inj.1 hn).symm
    · cases hn
  have hplace : d.pcJob.2.2 % (128 * n) = 0 ∧ placeOf d.pcJob.2.2 = .hbm := by
    unfold Die.copyRefused at hr
    simp only [hn, Bool.or_eq_false_iff, decide_eq_false_iff_not, ne_eq, not_not] at hr
    obtain ⟨⟨⟨-, hmod⟩, hp⟩, -⟩ := hr
    exact ⟨hmod, hp⟩
  obtain ⟨hmod, hp⟩ := hplace
  have hlow : d.pcJob.2.2 / 2 ^ 40 = 0 := by
    by_contra hne
    unfold placeOf at hp
    rw [if_neg hne] at hp
    split at hp <;> cases hp
  rcases hsize with rfl | rfl <;> omega

theorem Die.bare_of_untranslated {d d' : Die} {q : Nat → Bool} (h : d'.untranslated = (d.without q).untranslated) : d'.bare = d.bare :=
  (congrArg (fun d : Die => { d with l2 := [] }) h :)

theorem LineCopied.of_same (hm : t.hbm = s.hbm) (hp : t.parts = s.parts) (hv : t.versions = s.versions)
    (hd : (t.die die).bare = (s.die die).bare) (h : LineCopied die pa x bad t u) : LineCopied die pa x bad s u := by
  have hctl : (t.die die).pcCtl = (s.die die).pcCtl := (congrArg Die.pcCtl hd :)
  have hnext : (t.die die).pcNext = (s.die die).pcNext := (congrArg Die.pcNext hd :)
  have herr : (t.die die).pcErr = (s.die die).pcErr := (congrArg Die.pcErr hd :)
  exact ⟨h.hbm.of_same hp hv hm, hctl ▸ h.ctl, h.again, herr ▸ h.err, hnext ▸ h.next, hnext ▸ h.written⟩

/-- The home's value of the source line is written, once no die has written it and not sent. -/
theorem occursWith_pageCopyDone_next (hbusy : ((s.leaveCopied die).die die).pcCtl.getLsbD 63 = true)
    (hn : copySize ((s.leaveCopied die).die die).pcCtl = some n) (hr : ((s.leaveCopied die).die die).copyRefused = false)
    (hnext : ((s.leaveCopied die).die die).pcNext < n) (hw : ((s.leaveCopied die).die die).pcWork.wrote = [])
    (hsrc : ((s.leaveCopied die).die die).pcJob.1 + 128 * ((s.leaveCopied die).die die).pcNext = src)
    (hdst : ((s.leaveCopied die).die die).pcJob.2.2 + 128 * ((s.leaveCopied die).die die).pcNext = dst) (hhbm : placeOf src = .hbm)
    (hfs : (s.leaveCopied die).isFlipping src = false) (hfd : (s.leaveCopied die).isFlipping dst = false)
    (hclean : (s.leaveCopied die).dirtyDies (· = src / 128) = []) :
    OccursWith (.pageCopyDone die) s
      (LineCopied die dst ((s.leaveCopied die).homeLine (src / 128)) ((s.leaveCopied die).rootPoisoned (src / 128)) (s.leaveCopied die)) := by
  have hexec := exec_pageCopyDone_next hbusy hn hr hnext.ne hsrc hdst hhbm hfs hfd
  have hlt := hdst ▸ Die.copyDst_lt hn hr hnext
  generalize s.leaveCopied die = s1 at *
  rw [hclean] at hexec
  have hdrop := s1.dropLines_only (· = src / 128)
  have hbare := Die.bare_of_untranslated (s1.untranslated_dropLines (· = src / 128) die)
  generalize s1.dropLines (· = src / 128) = s2 at *
  have hyield : ∃ m, s2.hostYields (src / 128) = { s2 with modl := m } := by
    unfold State.hostYields
    split
    · exact ⟨_, rfl⟩
    · exact ⟨s2.modl, rfl⟩
  obtain ⟨m, hm⟩ := hyield
  have hline : (s2.hostYields (src / 128)).homeLine (src / 128) = s1.homeLine (src / 128) := by
    rw [hm]
    exact hdrop.homeLine _
  have hpsn : (s2.hostYields (src / 128)).rootPoisoned (src / 128) = s1.rootPoisoned (src / 128) := by
    rw [hm]
    unfold State.rootPoisoned
    rw [← hdrop.hbmPsn]
  have hwrote : ((s2.hostYields (src / 128)).die die).pcWork.wrote = [] := by
    rw [hm]
    exact (congrArg (fun d : Die => d.pcWork.wrote) hbare :).trans hw
  have hcopied := State.copyLine_copied hlt hwrote (s1.homeLine (src / 128)) (s1.rootPoisoned (src / 128))
  refine occursWith_of_happened (hexec.trans (if_neg (by simp))) ?_
  rw [hline, hpsn]
  have hall := LineCopied.of_same (t := s2.hostYields (src / 128)) (s := s1) (by rw [hm]; exact hdrop.hbm) (by rw [hm]; exact hdrop.parts)
    (by rw [hm]; exact hdrop.versions) (by rw [hm]; exact hbare) hcopied
  exact ⟨hall.hbm, hall.ctl, hall.again, hall.err, hall.next, hall.written⟩

end

end Sys2Proof.Machine
end

section
/-! # Bias flips (O44) -/

namespace Sys2Proof.Machine

section
variable {s : State} {die frame : Nat} {x : DWord} {host : Bool}

/-! ### Bias flips (06 R176, R177) -/

theorem occurs_biasFlip_busy (h : (s.die die).bflip.getLsbD 63 = true) : Occurs (.biasFlip die x) s s :=
  occurs_of_happened (if_pos h)

/-- A flip is asked for that changes something. -/
def FlipAsked (x : DWord) (s : State) : Prop := x.getLsbD 63 = true ∧ s.flipIdle (flipFrame x) (flipToHost x) = false

theorem occursWith_biasFlip_idle (h : (s.die die).bflip.getLsbD 63 = false) (hx : ¬FlipAsked x s) :
    OccursWith (.biasFlip die x) s fun t => (t.die die).bflip.getLsbD 63 = false ∧ t.hbm = s.hbm := by
  have hcond : (!x.getLsbD 63) = true ∨ s.flipIdle (flipFrame x) (flipToHost x) = true := by
    unfold FlipAsked at hx
    cases hb : x.getLsbD 63
    · exact .inl rfl
    · exact .inr (by simpa [hb] using hx)
  refine occursWith_of_happened ((if_neg (by rw [h]; exact Bool.false_ne_true)).trans (if_pos hcond)) ⟨?_, rfl⟩
  rw [State.die_performed, State.die_modDie]
  simp

theorem occursWith_biasFlip_asked (h : (s.die die).bflip.getLsbD 63 = false) (hx : FlipAsked x s) :
    OccursWith (.biasFlip die x) s fun t => (t.die die).bflip.getLsbD 63 = true ∧ t.hbm = s.hbm ∧
      .biasFlipDone (flipFrame x / 65536) (flipToHost x) ∈ t.pending ∧ s.modl.flipping.length < t.modl.flipping.length := by
  obtain ⟨hb, hidle⟩ := hx
  have hcond : ¬((!x.getLsbD 63) = true ∨ s.flipIdle (flipFrame x) (flipToHost x) = true) := by simp [hb, hidle]
  refine occursWith_of_happened ((if_neg (by rw [h]; exact Bool.false_ne_true)).trans (if_neg hcond)) ⟨?_, rfl, State.mem_post _ _, ?_⟩
  · have hdie := s.die_modDie die fun d => { d with bflip := x &&& 0xC00FFFFFFFFF0000 }
    have hbit : (x &&& 0xC00FFFFFFFFF0000).getLsbD 63 = true := by simp [hb]
    exact (congrArg (fun d : Die => d.bflip.getLsbD 63) hdie :).trans hbit
  · show _ < (s.modl.flipping ++ [_]).length
    simp

/-- The losing side of a flip holds nothing of the frame. -/
structure FlipDrained (frame : Nat) (host : Bool) (s t : State) : Prop where
  hbm : t.hbm = s.hbm
  parts : t.parts = s.parts
  versions : t.versions = s.versions
  modl : t.modl = { s.modl with hostCopies := t.modl.hostCopies }
  copies : host = false → ∀ l ∈ t.modl.hostCopies, l / 512 ≠ frame
  frames : host = true → ∀ die, ∀ kf ∈ (t.die die).l2, keyTag kf.1 = 0 → keyLine kf.1 / 512 ≠ frame
  bflip : ∀ d, (t.die d).bflip = (s.die d).bflip

/-- The losing side of a flip drops the frame. -/
def State.flipDrained (s : State) (frame : Nat) (host : Bool) : State :=
  if host then
    let s1 := s.dropFrames fun line => line / 512 = frame
    { s1 with llc := s1.llc.filter fun kt => !(keyTag kt.1 = 0 && decide (keyLine kt.1 / 512 = frame)) }
  else { s with modl := { s.modl with hostCopies := s.modl.hostCopies.filter fun line => !decide (line / 512 = frame) } }

theorem State.flipDrained_spec (s : State) (frame : Nat) (host : Bool) : FlipDrained frame host s (s.flipDrained frame host) := by
  unfold State.flipDrained
  cases host with
  | false =>
    rw [if_neg Bool.false_ne_true]
    exact ⟨rfl, rfl, rfl, rfl, fun _ l hl => by simpa using (List.mem_filter.1 hl).2, nofun, fun _ => rfl⟩
  | true =>
    rw [if_pos rfl]
    have hdrop := s.dropFrames_only fun line => line / 512 = frame
    have hdie := s.untranslated_dropFrames fun line => line / 512 = frame
    generalize s.dropFrames (fun line => line / 512 = frame) = t at *
    refine ⟨hdrop.hbm, hdrop.parts, hdrop.versions, ?_, nofun, fun _ die kf hkf htag => ?_, fun d => (congrArg Die.bflip (hdie d) :)⟩
    · show t.modl = { s.modl with hostCopies := t.modl.hostCopies }
      rw [hdrop.modl]
    · simpa using Die.not_mem_l2_of_without (hdie die) kf hkf htag

/-- The bias bit is written, and the flip is no longer under way. -/
def State.flipEnded (s : State) (frame : Nat) (host : Bool) : State :=
  let s1 := s.setBias frame host
  { s1 with modl := { s1.modl with flipping := dropFlip frame s1.modl.flipping } }

/-- The answer to those who asked for a flip. -/
def Die.flipAnswered (frame : Nat) (host : Bool) (d : Die) : Die :=
  if d.bflip.getLsbD 63 && flipFrame d.bflip / 65536 = frame && flipToHost d.bflip = host then
    { d with bflip := d.bflip &&& ~~~(1#64 <<< 63) }
  else d

theorem Die.l2_flipAnswered (frame : Nat) (host : Bool) (d : Die) : (d.flipAnswered frame host).l2 = d.l2 := by
  unfold Die.flipAnswered
  split <;> rfl

theorem Die.bflip_flipAnswered {d : Die} (hb : d.bflip.getLsbD 63 = true) (hf : flipFrame d.bflip / 65536 = frame)
    (hh : flipToHost d.bflip = host) : (d.flipAnswered frame host).bflip.getLsbD 63 = false := by
  unfold Die.flipAnswered
  rw [if_pos (by simp [hb, hf, hh])]
  simp

theorem State.flipAnswer_eq (s : State) (frame : Nat) (host : Bool) : ∃ m, s.flipAnswer frame host =
    { s with dies := s.dies.map fun d => (d.1, d.2.flipAnswered frame host), modl := m } ∧
      m.flipping = s.modl.flipping ∧ m.hostCopies = s.modl.hostCopies := by
  unfold State.flipAnswer
  extract_lets s1
  split
  · exact ⟨_, rfl, rfl, rfl⟩
  · exact ⟨_, rfl, rfl, rfl⟩

theorem State.die_map_flipAnswered (s : State) (m : Module) (d : Nat) :
    State.die { s with dies := s.dies.map fun d => (d.1, d.2.flipAnswered frame host), modl := m } d =
      (s.die d).flipAnswered frame host := by
  have hreset : Die.flipAnswered frame host Die.reset = Die.reset := if_neg (by simp [Die.reset])
  exact Tbl.get_map_value (fun d : Die => d.flipAnswered frame host) Die.reset s.dies d hreset

/-- A flip is done once no die has unwritten bytes of a frame that goes to the host. -/
theorem exec_biasFlipDone (hf : s.modl.flipping.find? (fun f => f.1 = frame) = some (frame, host))
    (hclean : host = true → s.dirtyDies (fun l => l / 512 = frame) = []) :
    exec (.biasFlipDone frame host) s = happened (((s.flipDrained frame host).flipEnded frame host).flipAnswer frame host) := by
  have hdirty : (if host = true then s.dirtyDies (fun l => decide (l / 512 = frame)) else []).isEmpty = true := by
    split
    · next h => rw [hclean h]; rfl
    · rfl
  show execBiasFlipDone frame host s = _
  unfold execBiasFlipDone State.flipEnded State.flipDrained
  simp only [hf, hdirty, ne_eq, not_true, Bool.not_true, Bool.false_eq_true, if_false]

/-- The byte of the bias table after a flip. -/
theorem State.getLsbD_setBias (h : ¬spillByte s (s.modl.biasBase + frame / 8)) {k : Nat} (hk : k < 8) :
    ((s.setBias frame host).hbm.byte (s.modl.biasBase + frame / 8)).getLsbD k =
      if k = frame % 8 then host else (s.hbm.byte (s.modl.biasBase + frame / 8)).getLsbD k := by
  rw [State.rootWritten_setBias.byte (by omega) h, if_pos (by omega), Nat.sub_self, Nat.pow_zero, Nat.div_one, BitVec.getLsbD_ofNat,
    decide_eq_true hk, Bool.true_and, testBit_biasByte, BitVec.testBit_toNat]

theorem occursWith_biasFlipDone (hf : s.modl.flipping.find? (fun f => f.1 = frame) = some (frame, host))
    (hclean : host = true → s.dirtyDies (fun l => l / 512 = frame) = []) : OccursWith (.biasFlipDone frame host) s fun t =>
      (let a := s.modl.biasBase + frame / 8;
        (¬spillByte s a → ∀ k, k < 8 → (t.hbm.byte a).getLsbD k = if k = frame % 8 then host else (s.hbm.byte a).getLsbD k) ∧
        ∀ p, p ≠ a → ¬spillByte s p → t.hbm.byte p = s.hbm.byte p) ∧
      t.modl.flipping = dropFlip frame s.modl.flipping ∧
      (host = false → ∀ l ∈ t.modl.hostCopies, l / 512 ≠ frame) ∧
      (host = true → ∀ die, ∀ kf ∈ (t.die die).l2, keyTag kf.1 = 0 → keyLine kf.1 / 512 ≠ frame) ∧
      ∀ die, (s.die die).bflip.getLsbD 63 = true → flipFrame (s.die die).bflip / 65536 = frame → flipToHost (s.die die).bflip = host →
        (t.die die).bflip.getLsbD 63 = false := by
  have hdrain := s.flipDrained_spec frame host
  have hexec := exec_biasFlipDone hf hclean
  unfold State.flipEnded at hexec
  generalize s.flipDrained frame host = s1 at *
  have hwritten := State.rootWritten_setBias (s := s1) (frame := frame) (host := host)
  have hbase : s1.modl.biasBase = s.modl.biasBase := by rw [hdrain.modl]
  have hbit := fun h {k} (hk : k < 8) => State.getLsbD_setBias (s := s1) (frame := frame) (host := host) h hk
  have hflip : (s1.setBias frame host).modl.flipping = s.modl.flipping := by
    rw [hwritten.modl, hdrain.modl]
  have hcopies : ∀ l ∈ (s1.setBias frame host).modl.hostCopies, l ∈ s1.modl.hostCopies := fun l hl => by
    rw [hwritten.modl] at hl
    exact (List.mem_filter.1 hl).1
  have hspill := fun p => spillByte_congr (p := p) hdrain.parts hdrain.versions
  rw [hbase, hdrain.hbm] at hbit
  rw [hbase] at hwritten
  generalize s1.setBias frame host = s2 at *
  obtain ⟨m, hm, hmflip, hmcopies⟩ := State.flipAnswer_eq
    { s2 with modl := { s2.modl with flipping := dropFlip frame s2.modl.flipping } } frame host
  have hdie := fun d => State.die_map_flipAnswered (frame := frame) (host := host)
    { s2 with modl := { s2.modl with flipping := dropFlip frame s2.modl.flipping } } m d
  rw [hm] at hexec
  refine occursWith_of_happened hexec ⟨⟨fun hp k hk => ?_, fun p hne hp => ?_⟩, ?_, fun hh l hl => ?_, fun hh die kf hkf htag => ?_,
    fun die hb hframe hto => ?_⟩
  · exact hbit ((hspill _).not.2 hp) hk
  · exact (hwritten.byte_out (by omega) ((hspill _).not.2 hp) (by omega)).trans (by rw [hdrain.hbm])
  · exact hmflip.trans (congrArg (dropFlip frame) hflip)
  · refine hdrain.copies hh l (hcopies l ?_)
    have hl : l ∈ m.hostCopies := hl
    rwa [hmcopies] at hl
  · rw [State.die_performed, hdie, Die.l2_flipAnswered] at hkf
    refine hdrain.frames hh die kf ?_ htag
    rwa [← State.die_of_dies hwritten.dies die]
  · rw [State.die_performed, hdie]
    have hsame : (State.die { s2 with modl := { s2.modl with flipping := dropFlip frame s2.modl.flipping } } die).bflip = (s.die die).bflip :=
      (congrArg Die.bflip (State.die_of_dies hwritten.dies die) :).trans (hdrain.bflip die)
    exact Die.bflip_flipAnswered (by rwa [hsame]) (by rwa [hsame]) (by rwa [hsame])

end

end Sys2Proof.Machine
end

section
/-! # Counts of forwarded accesses and hints (O44) -/

namespace Sys2Proof.Machine

section
variable {s : State} {die part n src page va pa : Nat}

/-! ### Counts of forwarded accesses (06 R170) -/

theorem State.countForward_off (hthr : ((s.die die).hintThr.extractLsb' 0 16).toNat = 0) : s.countForward die part va pa true = s := by
  unfold State.countForward
  simp [hthr]

/-- A die with one count changed. -/
def Die.counted (d : Die) (k n : Nat) : Die := { d with counters := d.counters.set 0 k n }

/-- An access whose entry is in the table, or finds room there, is counted; a count that reaches its threshold restarts. -/
theorem State.countForward_room (hthr : ((s.die die).hintThr.extractLsb' 0 16).toNat ≠ 0)
    (hn : (s.die die).counters.get 0 (part * 2 ^ 40 + va / 65536) + 1 = n) (hroom : n ≠ 1 ∨ (s.die die).counters.length < 4096) :
    s.countForward die part va pa true =
      if n < ((s.die die).hintThr.extractLsb' 0 16).toNat then s.modDie die fun d => d.counted (part * 2 ^ 40 + va / 65536) n
      else (s.modDie die fun d => d.counted (part * 2 ^ 40 + va / 65536) 0).post (.hintPost die part ⟨va / 65536, n, hintSource pa⟩) := by
  have hfull : ¬(4096 ≤ (s.die die).counters.length ∧ (s.die die).counters.get 0 (part * 2 ^ 40 + va / 65536) = 0) := by omega
  unfold State.countForward
  rw [if_neg (by rwa [Bool.not_true, Bool.false_or, decide_eq_true_eq])]
  simp only [hfull, if_false, hn]
  rfl

theorem State.countForward_counts (hthr : ((s.die die).hintThr.extractLsb' 0 16).toNat ≠ 0)
    (hn : (s.die die).counters.get 0 (part * 2 ^ 40 + va / 65536) + 1 = n) (hroom : n ≠ 1 ∨ (s.die die).counters.length < 4096) :
    ((s.countForward die part va pa true).die die).counters.get 0 (part * 2 ^ 40 + va / 65536) =
        (if n < ((s.die die).hintThr.extractLsb' 0 16).toNat then n else 0) ∧
      (.hintPost die part ⟨va / 65536, n, hintSource pa⟩ ∈ (s.countForward die part va pa true).pending ↔
        ((s.die die).hintThr.extractLsb' 0 16).toNat ≤ n ∨ .hintPost die part ⟨va / 65536, n, hintSource pa⟩ ∈ s.pending) := by
  rw [State.countForward_room hthr hn hroom]
  split
  · next hlt =>
    refine ⟨?_, ?_⟩
    · rw [State.die_modDie]
      exact Tbl.get_set 0 _ _ _
    · rw [State.modDie_pending]
      exact ⟨.inr, fun h => h.resolve_left (by omega)⟩
  · next hge =>
    refine ⟨?_, fun _ => .inl (by omega), fun _ => State.mem_post _ _⟩
    rw [State.die_post, State.die_modDie]
    exact Tbl.get_set 0 (s.die die).counters _ 0

/-! ### Hints (06 R170, R171) -/

/-- HINTPTR with its fields. -/
theorem extractLsb'_hintPtr (drop tail : BitVec 16) (low : BitVec 32) : ((drop ++ tail) ++ low).extractLsb' 0 32 = low ∧
    ((drop ++ tail) ++ low).extractLsb' 32 16 = tail ∧ ((drop ++ tail) ++ low).extractLsb' 48 16 = drop := by
  refine ⟨?_, ?_, ?_⟩
  all_goals
    refine BitVec.eq_of_getLsbD_eq fun i hi => ?_
    simp only [BitVec.getLsbD_extractLsb', BitVec.getLsbD_append, hi, decide_true, Bool.true_and]
  · rw [if_pos (by omega), Nat.zero_add]
  · rw [if_neg (by omega), if_pos (by omega), Nat.add_sub_cancel_left]
  · rw [if_neg (by omega), if_neg (by omega)]
    congr 1
    omega

theorem extractLsb'_hintPtr_drop (drop : BitVec 16) (p : DWord) :
    ((drop ++ p.extractLsb' 0 48 : DWord)).extractLsb' 0 32 = p.extractLsb' 0 32 ∧
    ((drop ++ p.extractLsb' 0 48 : DWord)).extractLsb' 32 16 = p.extractLsb' 32 16 ∧
    ((drop ++ p.extractLsb' 0 48 : DWord)).extractLsb' 48 16 = drop := by
  refine ⟨?_, ?_, ?_⟩
  all_goals
    refine BitVec.eq_of_getLsbD_eq fun i hi => ?_
    simp only [BitVec.getLsbD_extractLsb', BitVec.getLsbD_append, hi, decide_true, Bool.true_and]
  · rw [if_pos (by omega), decide_eq_true (by omega), Bool.true_and, Nat.zero_add]
  · rw [if_pos (by omega), decide_eq_true (by omega), Bool.true_and, Nat.zero_add]
  · rw [if_neg (by omega), Nat.add_sub_cancel_left]

/-- A ring that is full drops the hint and counts it. -/
theorem occursWith_hintPost_full
    (hfull : (s.die die).hintPtr.extractLsb' 32 16 - (s.die die).hintPtr.extractLsb' 0 16 = 256) :
    OccursWith (.hintPost die part ⟨page, n, src⟩) s fun t =>
      (t.die die).hintPtr.extractLsb' 0 32 = (s.die die).hintPtr.extractLsb' 0 32 ∧ t.hbm = s.hbm ∧
      (t.die die).hintPtr.extractLsb' 32 16 = (s.die die).hintPtr.extractLsb' 32 16 ∧
      ((t.die die).hintPtr.extractLsb' 48 16).toNat = min 0xFFFF (((s.die die).hintPtr.extractLsb' 48 16).toNat + 1) := by
  generalize hdrop : (s.die die).hintPtr.extractLsb' 48 16 = drop
  have hexec : s.writeHint die part page n src = s.modDie die fun d =>
      { d with hintPtr := (if drop = 0xFFFF then drop else drop + 1) ++ d.hintPtr.extractLsb' 0 48 } := by
    unfold State.writeHint
    rw [← hdrop]
    exact if_pos hfull
  have hdie : ((s.writeHint die part page n src).die die).hintPtr =
      (if drop = 0xFFFF then drop else drop + 1) ++ (s.die die).hintPtr.extractLsb' 0 48 := by
    rw [hexec, State.die_modDie]
  obtain ⟨hlow, htail, hhigh⟩ := extractLsb'_hintPtr_drop (if drop = 0xFFFF then drop else drop + 1) (s.die die).hintPtr
  refine occursWith_of_happened (u := s.writeHint die part page n src) rfl ⟨?_, ?_, ?_, ?_⟩
  · rw [State.die_performed, hdie, hlow]
  · show (s.writeHint die part page n src).hbm = _
    rw [hexec, State.modDie_hbm]
  · rw [State.die_performed, hdie, htail]
  · rw [State.die_performed, hdie, hhigh]
    split
    · next h => rw [h]; rfl
    · next h =>
      have hne : drop.toNat ≠ 0xFFFF := fun he => h (BitVec.eq_of_toNat_eq he)
      have := drop.isLt
      rw [BitVec.toNat_add]
      show (drop.toNat + 1) % 65536 = _
      omega

/-- A hint as it is written (06 R170). -/
def hintWord (die part page n src : Nat) : Nat :=
  page % 2 ^ 40 * 2 ^ 16 + part % 64 * 2 ^ 10 + die % 16 * 2 ^ 6 + src * 2 ^ 4 + n % 2 ^ 32 * 2 ^ 64

/-- The place of the next hint in the die's ring (06 R171). -/
def Die.hintAt (d : Die) : Nat := (d.hintBase.extractLsb' 12 40).toNat * 4096 + 16 * ((d.hintPtr.extractLsb' 32 16).toNat % 256)

theorem Die.hintAt_room (d : Die) : d.hintAt % 128 + 16 ≤ 128 := by
  unfold Die.hintAt
  omega

theorem Die.hintAt_lt (d : Die) : (d.hintBase.extractLsb' 12 40).toNat * 4096 < 2 ^ 40 ↔ d.hintAt < 2 ^ 40 := by
  unfold Die.hintAt
  omega

/-- The state in which a hint is in its ring, where that lies in local HBM. -/
def State.hintWritten (s : State) (die hint : Nat) : State :=
  if (s.die die).hintAt < 2 ^ 40 then s.agentWrite (s.die die).hintAt 16 hint else s

theorem State.rootWritten_hintWritten (hint : Nat) (h : (s.die die).hintAt < 2 ^ 40) :
    RootWritten ((s.die die).hintAt / 128) (bytesAt (s.die die).hintAt 16 hint) false s (s.hintWritten die hint) := by
  unfold State.hintWritten
  rw [if_pos h]
  exact State.rootWritten_rootApply

theorem State.hintWritten_dies (hint : Nat) : (s.hintWritten die hint).dies = s.dies := by
  by_cases h : (s.die die).hintAt < 2 ^ 40
  · exact (State.rootWritten_hintWritten hint h).dies
  · rw [State.hintWritten, if_neg h]

theorem State.writeHint_room
    (hroom : (s.die die).hintPtr.extractLsb' 32 16 - (s.die die).hintPtr.extractLsb' 0 16 ≠ 256) :
    s.writeHint die part page n src = (s.hintWritten die (hintWord die part page n src)).modDie die fun d => { d with
      hintPtr := ((s.die die).hintPtr.extractLsb' 48 16 ++ ((s.die die).hintPtr.extractLsb' 32 16 + 1)) ++ d.hintPtr.extractLsb' 0 32 } := by
  have hplace : s.hintWritten die (hintWord die part page n src) = if ((s.die die).hintBase.extractLsb' 12 40).toNat * 4096 < 2 ^ 40 then
      s.agentWrite (s.die die).hintAt 16 (hintWord die part page n src) else s := if_congr (Die.hintAt_lt _).symm rfl rfl
  rw [hplace]
  exact if_neg hroom

theorem occursWith_hintPost_room
    (hroom : (s.die die).hintPtr.extractLsb' 32 16 - (s.die die).hintPtr.extractLsb' 0 16 ≠ 256) :
    OccursWith (.hintPost die part ⟨page, n, src⟩) s fun t =>
      (t.die die).hintPtr.extractLsb' 0 32 = (s.die die).hintPtr.extractLsb' 0 32 ∧
      (t.die die).hintPtr.extractLsb' 32 16 = (s.die die).hintPtr.extractLsb' 32 16 + 1 ∧
      t.hbm = (s.hintWritten die (hintWord die part page n src)).hbm := by
  have hexec := State.writeHint_room (part := part) (page := page) (n := n) (src := src) hroom
  have hdie : ((s.writeHint die part page n src).die die).hintPtr = ((s.die die).hintPtr.extractLsb' 48 16 ++
      ((s.die die).hintPtr.extractLsb' 32 16 + 1)) ++ (s.die die).hintPtr.extractLsb' 0 32 := by
    rw [hexec, State.die_modDie, State.die_of_dies (State.hintWritten_dies _)]
  obtain ⟨hlow, htail, -⟩ := extractLsb'_hintPtr ((s.die die).hintPtr.extractLsb' 48 16) ((s.die die).hintPtr.extractLsb' 32 16 + 1)
    ((s.die die).hintPtr.extractLsb' 0 32)
  refine occursWith_of_happened (u := s.writeHint die part page n src) rfl ⟨?_, ?_, ?_⟩
  · rw [State.die_performed, hdie]
    exact hlow
  · rw [State.die_performed, hdie]
    exact htail
  · show (s.writeHint die part page n src).hbm = _
    rw [hexec, State.modDie_hbm]

/-- The fields of a hint that is read back. -/
theorem hintWord_fields (_ : src < 4) : let x := hintWord die part page n src % 256 ^ 16
    x / 2 ^ 16 % 2 ^ 40 = page % 2 ^ 40 ∧ x / 2 ^ 10 % 2 ^ 6 = part % 2 ^ 6 ∧ x / 2 ^ 6 % 2 ^ 4 = die % 2 ^ 4 ∧
      x / 2 ^ 4 % 4 = src ∧ x / 2 ^ 64 = n % 2 ^ 32 := by
  unfold hintWord
  dsimp only
  omega

theorem State.read_hintWritten (hlt : (s.die die).hintAt < 2 ^ 40)
    (hp : ∀ p, (s.die die).hintAt ≤ p → p < (s.die die).hintAt + 16 → ¬spillByte s p) :
    (s.hintWritten die (hintWord die part page n src)).hbm.read 16 (s.die die).hintAt = hintWord die part page n src % 256 ^ 16 :=
  (State.rootWritten_hintWritten _ hlt).read (Die.hintAt_room _) hp

theorem State.byte_hintWritten_out (hint : Nat) {p : Nat} (hout : p < (s.die die).hintAt ∨ (s.die die).hintAt + 16 ≤ p)
    (hp : ¬spillByte s p) : (s.hintWritten die hint).hbm.byte p = s.hbm.byte p := by
  by_cases h : (s.die die).hintAt < 2 ^ 40
  · exact (State.rootWritten_hintWritten hint h).byte_out (Die.hintAt_room _) hp hout
  · rw [State.hintWritten, if_neg h]

end

end Sys2Proof.Machine
end

section
/-! # Accesses of the host and of other modules (O44) -/

namespace Sys2Proof.Machine

section
variable {s t : State} {line h n off y : Nat} {x : LineBytes} {psn : Bool} {kind : BitVec 4}

/-! ### The host (06 R176, R177, 16 R423, R424) -/

theorem occurs_hostMemRead_outside (h0 : s.hostLineOf h = none) : Occurs (.hostMemRead h) s s := by
  refine occurs_of_happened ?_
  show execHostMemRead h s = _
  unfold execHostMemRead
  rw [h0]

theorem occurs_hostMemWrite_outside (h0 : s.hostLineOf h = none) : Occurs (.hostMemWrite h x psn) s s := by
  refine occurs_of_happened ?_
  show execHostMemWrite h x psn s = _
  unfold execHostMemWrite
  rw [h0]

theorem State.hostAccess_flipping (hf : s.isFlipping (128 * line) = true) : s.hostAccess line = .inl s := if_pos hf

theorem State.hostAccess_device (hf : s.isFlipping (128 * line) = false) (hb : s.hostBias (128 * line) = false) :
    s.hostAccess line = .inr s := by
  unfold State.hostAccess
  rw [hf, hb]
  rfl

theorem State.hostAccess_host (hf : s.isFlipping (128 * line) = false) (hb : s.hostBias (128 * line) = true)
    (hd : s.dirtyDies (· = line) = []) : s.hostAccess line = .inr (s.dropLines (· = line)) := by
  unfold State.hostAccess
  rw [hf, hb, hd]
  rfl

theorem waits_hostMemRead (hl : s.hostLineOf h = some line) (hf : s.isFlipping (128 * line) = true) : Waits (.hostMemRead h) s := by
  refine occurs_of_happened ?_
  show execHostMemRead h s = _
  unfold execHostMemRead
  simp only [hl, State.hostAccess_flipping hf]

/-- The host is answered with a line and its poison. -/
def State.hostAnswer (s : State) (line : Nat) : State :=
  { s with modl := { s.modl with hostData := s.homeLine line, hostPoison := s.rootPoisoned line } }

theorem State.hostAnswer_fields (s : State) (line : Nat) : (s.hostAnswer line).modl.hostData = s.homeLine line ∧
    (s.hostAnswer line).modl.hostPoison = s.rootPoisoned line ∧ (s.hostAnswer line).modl.hostCopies = s.modl.hostCopies ∧
    (s.hostAnswer line).hbm = s.hbm ∧ (s.hostAnswer line).dies = s.dies := by
  simp only [State.hostAnswer, and_self]

theorem exec_hostMemRead (hl : s.hostLineOf h = some line) (ha : s.hostAccess line = .inr t) :
    exec (.hostMemRead h) s = happened ((t.hostHolds line).hostAnswer line) := by
  show execHostMemRead h s = _
  unfold execHostMemRead State.hostAnswer
  simp only [hl, ha]

theorem exec_hostMemWrite (hl : s.hostLineOf h = some line) (ha : s.hostAccess line = .inr t) :
    exec (.hostMemWrite h x psn) s = happened (t.rootApply line x t.applied 12 0 psn) := by
  show execHostMemWrite h x psn s = _
  unfold execHostMemWrite
  simp only [hl, ha]

theorem State.rootPoisoned_iff : s.rootPoisoned line = true ↔ line ∈ s.hbmPsn := List.contains_iff_mem

theorem occursWith_hostMemRead_device (hl : s.hostLineOf h = some line) (hf : s.isFlipping (128 * line) = false)
    (hb : s.hostBias (128 * line) = false) : OccursWith (.hostMemRead h) s fun t =>
      t.modl.hostData = s.homeLine line ∧ (t.modl.hostPoison = true ↔ line ∈ s.hbmPsn) ∧ t.hbm = s.hbm ∧ t.dies = s.dies := by
  have hholds : s.hostHolds line = s := if_neg (by simp [hb])
  obtain ⟨hdata, hpoison, -, hhbm, hdies⟩ := s.hostAnswer_fields line
  have hexec := exec_hostMemRead hl (State.hostAccess_device hf hb)
  rw [hholds] at hexec
  generalize s.hostAnswer line = u at *
  exact occursWith_of_happened hexec ⟨hdata, (congrArg (· = true) hpoison).to_iff.trans State.rootPoisoned_iff, hhbm, hdies⟩

theorem occursWith_hostMemWrite_device (hl : s.hostLineOf h = some line) (hf : s.isFlipping (128 * line) = false)
    (hb : s.hostBias (128 * line) = false) (x : LineBytes) (psn : Bool) : OccursWith (.hostMemWrite h x psn) s fun t =>
      (∀ p, ¬spillByte s p → t.hbm.byte p = mergedByte line x s.hbm.byte p) ∧ (psn = true → line ∈ t.hbmPsn) := by
  have hwritten := State.rootWritten_rootApply (s := s) (line := line) (b := x) (clock := s.applied) (except := 12) (part := 0) (psn := psn)
  exact occursWith_of_happened (exec_hostMemWrite hl (State.hostAccess_device hf hb)) ⟨hwritten.hbm, hwritten.poison⟩

/-- The host has a copy of a line, which no die holds any more. -/
structure HostTook (line : Nat) (s t : State) : Prop where
  hbm : t.hbm = s.hbm
  copy : line ∈ t.modl.hostCopies
  frames : ∀ die, ∀ kf ∈ (t.die die).l2, keyTag kf.1 = 0 → keyLine kf.1 ≠ line

theorem hostTook_dropLines (hb : s.hostBias (128 * line) = true) : HostTook line s ((s.dropLines (· = line)).hostHolds line) := by
  have hdrop := s.dropLines_only (· = line)
  have hdie := s.untranslated_dropLines (· = line)
  generalize s.dropLines (· = line) = t at *
  have hframes : ∀ die, ∀ kf ∈ (t.die die).l2, keyTag kf.1 = 0 → keyLine kf.1 ≠ line := fun die kf hkf htag => by
    simpa using Die.not_mem_l2_of_without (hdie die) kf hkf htag
  have hbias : t.hostBias (128 * line) = true := (hdrop.hostBias _).trans hb
  unfold State.hostHolds
  split
  · exact ⟨hdrop.hbm, List.mem_append_right _ (List.mem_singleton.2 rfl), hframes⟩
  · next hn => exact ⟨hdrop.hbm, by simpa [hbias] using hn, hframes⟩

theorem occursWith_hostMemRead_host (hl : s.hostLineOf h = some line) (hf : s.isFlipping (128 * line) = false)
    (hb : s.hostBias (128 * line) = true) (hd : s.dirtyDies (· = line) = []) : OccursWith (.hostMemRead h) s fun t =>
      t.modl.hostData = s.homeLine line ∧ line ∈ t.modl.hostCopies ∧ t.hbm = s.hbm ∧
        ∀ die, ∀ kf ∈ (t.die die).l2, keyTag kf.1 = 0 → keyLine kf.1 ≠ line := by
  have htook := hostTook_dropLines hb
  have hexec := exec_hostMemRead hl (State.hostAccess_host hf hb hd)
  generalize (s.dropLines (· = line)).hostHolds line = t at *
  obtain ⟨hdata, -, hcopies, hhbm, hdies⟩ := t.hostAnswer_fields line
  generalize t.hostAnswer line = u at *
  have hline : t.homeLine line = s.homeLine line := by
    unfold State.homeLine
    rw [htook.hbm]
  refine occursWith_of_happened hexec ⟨hdata.trans hline, ?_, hhbm.trans htook.hbm, fun die => ?_⟩
  · exact hcopies ▸ htook.copy
  · rw [State.die_performed, State.die_of_dies hdies]
    exact htook.frames die

theorem occursWith_hostSnoop (hf : s.isFlipping (128 * line) = false) (hb : s.hostBias (128 * line) = true)
    (hd : s.dirtyDies (· = line) = []) : OccursWith (.hostSnoop line) s fun t =>
      t.hbm = s.hbm ∧ line ∈ t.modl.hostCopies ∧ ∀ die, ∀ kf ∈ (t.die die).l2, keyTag kf.1 = 0 → keyLine kf.1 ≠ line := by
  have htook := hostTook_dropLines hb
  refine occursWith_of_happened (u := (s.dropLines (· = line)).hostHolds line) ?_ ⟨htook.hbm, htook.copy, htook.frames⟩
  show execHostSnoop line s = _
  unfold execHostSnoop
  rw [hf, hb, hd]
  rfl

/-! ### Other modules (06 R169, 04 R130, 03 R99) -/

/-- An access of another module reaches a line of an open module. -/
structure FabricReaches (line : Nat) (s : State) : Prop where
  open_ : s.open_ = true
  feature : s.feature 3 = true
  inHbm : line < 2 ^ 33
  still : s.isFlipping (128 * line) = false

theorem FabricReaches.answer (hr : FabricReaches line s) : exec (.fabricRequestIn kind line x) s =
    if kind = 15 then happened (s.rootApply line x s.applied 12)
    else if kind = 14 ∨ s.rootPoisoned line = true then happened (s.fabAnswer line)
    else
      let n := ((List.range 128).filter fun k => x.mask.getLsbD k).length
      let off := ((List.range 128).find? fun k => x.mask.getLsbD k).getD 0
      if x.mask ≠ byteMask off n ∨ (n ≠ 4 ∧ n ≠ 8) ∨ off % n ≠ 0 then happened s
      else
        match atomNew kind (8 * n) (lineBytes (s.homeLine line) off n) (lineFrom x.data off n) (lineFrom x.data ((off + n) % 128) n) with
        | none => happened (s.fabAnswer line)
        | some y => happened ((s.fabAnswer line).rootApply line (bytesAt (128 * line + off) n y) (s.fabAnswer line).applied 12) := by
  obtain ⟨hopen, hfeature, hline, hstill⟩ := hr
  have hin : (!s.open_ || !s.feature 3 || decide (2 ^ 33 ≤ line)) = false := by
    rw [hopen, hfeature]
    exact decide_eq_false (Nat.not_le.2 hline)
  show execFabricRequestIn kind line x s = _
  exact (if_neg (hin ▸ Bool.false_ne_true)).trans ((if_neg (hstill ▸ Bool.false_ne_true)).trans rfl)

theorem State.fabAnswer_fields (s : State) (line : Nat) : (s.fabAnswer line).modl.fabData = s.homeLine line ∧
    (s.fabAnswer line).modl.fabPoison = s.rootPoisoned line ∧ (s.fabAnswer line).hbm = s.hbm ∧ (s.fabAnswer line).parts = s.parts ∧
    (s.fabAnswer line).versions = s.versions := by
  simp only [State.fabAnswer, and_self]

theorem FabricReaches.store (hr : FabricReaches line s) (x : LineBytes) : OccursWith (.fabricRequestIn 15 line x) s fun t =>
    ∀ p, ¬spillByte s p → t.hbm.byte p = mergedByte line x s.hbm.byte p :=
  occursWith_of_happened (hr.answer.trans (if_pos rfl)) State.rootWritten_rootApply.hbm

theorem FabricReaches.load (hr : FabricReaches line s) (x : LineBytes) : OccursWith (.fabricRequestIn 14 line x) s fun t =>
    t.modl.fabData = s.homeLine line ∧ (t.modl.fabPoison = true ↔ line ∈ s.hbmPsn) ∧ t.hbm = s.hbm := by
  have hexec := (hr.answer (x := x)).trans ((if_neg (by decide)).trans (if_pos (.inl rfl)))
  obtain ⟨hdata, hpoison, hhbm, -, -⟩ := s.fabAnswer_fields line
  generalize s.fabAnswer line = u at *
  exact occursWith_of_happened hexec ⟨hdata, (congrArg (· = true) hpoison).to_iff.trans State.rootPoisoned_iff, hhbm⟩

theorem FabricReaches.atomic_poisoned (hr : FabricReaches line s) (h15 : kind ≠ 15) (x : LineBytes) (hp : line ∈ s.hbmPsn) :
    OccursWith (.fabricRequestIn kind line x) s fun t => t.modl.fabPoison = true ∧ t.hbm = s.hbm := by
  have hexec := (hr.answer (x := x)).trans ((if_neg h15).trans (if_pos (.inr (State.rootPoisoned_iff.2 hp))))
  obtain ⟨-, hpoison, hhbm, -, -⟩ := s.fabAnswer_fields line
  generalize s.fabAnswer line = u at *
  exact occursWith_of_happened hexec ⟨hpoison.trans (State.rootPoisoned_iff.2 hp), hhbm⟩

/-- An atomic on 4 or 8 aligned bytes of a line writes them with its result. -/
theorem FabricReaches.answer_atomic (hr : FabricReaches line s) (h14 : kind ≠ 14) (h15 : kind ≠ 15) (hn : n = 4 ∨ n = 8) (ho : off % n = 0)
    (hroom : off + n ≤ 128) (hm : x.mask = byteMask off n) (hp : line ∉ s.hbmPsn)
    (hy : atomNew kind (8 * n) (s.hbm.read n (128 * line + off)) (lineFrom x.data off n) (lineFrom x.data ((off + n) % 128) n) = some y) :
    exec (.fabricRequestIn kind line x) s =
      happened ((s.fabAnswer line).rootApply line (bytesAt (128 * line + off) n y) (s.fabAnswer line).applied 12) := by
  have hfit : ¬(byteMask off n ≠ byteMask off n ∨ (n ≠ 4 ∧ n ≠ 8) ∨ off % n ≠ 0) := by
    simp only [ne_eq, not_true, false_or]
    omega
  refine hr.answer.trans ((if_neg h15).trans ((if_neg (not_or.2 ⟨h14, State.rootPoisoned_iff.not.2 hp⟩)).trans ?_))
  rw [hm, filter_getLsbD_byteMask hroom, find?_getLsbD_byteMask hroom (by omega), List.length_range', Option.getD_some]
  refine (if_neg hfit).trans ?_
  rw [State.lineBytes_homeLine hroom, hy]

theorem FabricReaches.atomic (hr : FabricReaches line s) (h14 : kind ≠ 14) (h15 : kind ≠ 15) (hn : n = 4 ∨ n = 8) (ho : off % n = 0)
    (hroom : off + n ≤ 128) (hm : x.mask = byteMask off n) (hp : line ∉ s.hbmPsn)
    (hy : atomNew kind (8 * n) (s.hbm.read n (128 * line + off)) (lineFrom x.data off n) (lineFrom x.data ((off + n) % 128) n) = some y) :
    OccursWith (.fabricRequestIn kind line x) s fun t => t.modl.fabData = s.homeLine line ∧
      ((∀ p, 128 * line + off ≤ p → p < 128 * line + off + n → ¬spillByte s p) → t.hbm.read n (128 * line + off) = y % 2 ^ (8 * n)) ∧
      ∀ p, p < 128 * line + off ∨ 128 * line + off + n ≤ p → ¬spillByte s p → t.hbm.byte p = s.hbm.byte p := by
  have hline : (128 * line + off) / 128 = line := by omega
  have hfits : (128 * line + off) % 128 + n ≤ 128 := by omega
  have hexec := hr.answer_atomic h14 h15 hn ho hroom hm hp hy
  have hwritten : RootWritten line _ false (s.fabAnswer line) _ := State.rootWritten_rootApply (b := bytesAt (128 * line + off) n y)
    (clock := (s.fabAnswer line).applied) (except := 12) (part := 0)
  obtain ⟨hdata, -, hhbm, hparts, hversions⟩ := s.fabAnswer_fields line
  have hspill := fun p => spillByte_congr (p := p) hparts hversions
  generalize s.fabAnswer line = s1 at *
  generalize s1.rootApply line (bytesAt (128 * line + off) n y) s1.applied 12 = u at *
  have hat : RootWritten ((128 * line + off) / 128) (bytesAt (128 * line + off) n y) false s1 u := by
    rwa [hline]
  refine occursWith_of_happened hexec ⟨?_, fun hkeep => ?_, fun p hout hkeep => ?_⟩
  · exact (congrArg Module.fabData hwritten.modl :).trans hdata
  · rw [two_pow_eight_mul]
    exact hat.read hfits fun p hlo hhi => (hspill p).not.2 (hkeep p hlo hhi)
  · exact (hat.byte_out hfits ((hspill p).not.2 hkeep) (by omega)).trans (by rw [hhbm])

end

end Sys2Proof.Machine
end

section
/-! The obligation. -/

open Sys2Proof Sys2Proof.Machine

/-- Settles O44: every event by its own lemma; a root write names the bytes that it writes, and what makes room for it is spill area. -/
theorem pageEvents : Obligations.PageEvents := by
  unfold Obligations.PageEvents
  refine ⟨occursWith_tsync, fun die s => ?tsyncDone, fun die ctl s => occurs_pageCopy_busy, fun die ctl s => occurs_pageCopy_idle,
    fun die ctl s => occursWith_pageCopy, fun die s => occursWith_pageCopyDone_refused, fun die n s hbusy hn hr hnext =>
      ⟨occursWith_pageCopyDone_end hbusy hn hr hnext, occursWith_pageCopyDone_owes hbusy hn hr hnext⟩, fun die n s0 => ?copy,
    fun die x s => occurs_biasFlip_busy, fun die x s => ?biasFlip, fun frame host s => occursWith_biasFlipDone,
    fun die part va pa s => ⟨State.countForward_off, fun hthr => State.countForward_counts hthr rfl⟩, fun die part page n src s => ?hint,
    fun h s h0 => ⟨occurs_hostMemRead_outside h0, fun x psn => occurs_hostMemWrite_outside h0⟩, fun h line s => waits_hostMemRead,
    fun h line s hl hf hb => ⟨occursWith_hostMemRead_device hl hf hb, occursWith_hostMemWrite_device hl hf hb⟩,
    fun h line s => occursWith_hostMemRead_host, fun line s => occursWith_hostSnoop, fun line x s hopen hfeature hline hf => ?fabric⟩
  case tsyncDone =>
    refine ⟨fun howed => waits_tsyncDone (State.any_stillDue.2 howed), fun hdone => occursWith_tsyncDone fun h => hdone (State.any_stillDue.1 h)⟩
  case copy =>
    intro s d src dst hbusy hn hr hnext hw hhbm hfs hfd
    refine ⟨fun hdirty => ?_, fun hclean => ?_⟩
    · exact occurs_of_happened ((exec_pageCopyDone_next hbusy hn hr hnext.ne rfl rfl hhbm hfs hfd).trans (if_pos (by simpa using hdirty)))
    · obtain ⟨t, hexec, hnote, hcopied⟩ := occursWith_pageCopyDone_next hbusy hn hr hnext hw rfl rfl hhbm hfs hfd hclean
      have hleft := s0.leaveCopied_only die
      refine ⟨t, hexec, hnote, hcopied.hbm.of_same hleft.parts hleft.versions hleft.hbm, hcopied.ctl, hcopied.again, hcopied.err, hcopied.next,
        fun hplus => ?_⟩
      obtain ⟨herr, o, ho, hwhole⟩ := hcopied.written hplus
      exact ⟨herr, o, ho, hwhole.key, hwhole.bytes, hwhole.sent, hwhole.psn⟩
  case biasFlip =>
    intro h
    by_cases hx : FlipAsked x s
    · obtain ⟨t, hexec, hnote, hbusy, hhbm, hposted, hlonger⟩ := occursWith_biasFlip_asked h hx
      exact ⟨t, hexec, hnote, iff_of_true hbusy hx, hhbm, fun _ => ⟨hposted, hlonger⟩⟩
    · obtain ⟨t, hexec, hnote, hidle, hhbm⟩ := occursWith_biasFlip_idle h hx
      exact ⟨t, hexec, hnote, iff_of_false (by rw [hidle]; exact Bool.false_ne_true) hx, hhbm, fun hasked => absurd hasked hx⟩
  case hint =>
    intro d tail
    by_cases hfull : tail - d.hintPtr.extractLsb' 0 16 = 256
    · obtain ⟨t, hexec, hnote, hlow, hhbm, htail, hdrop⟩ := occursWith_hintPost_full (part := part) (page := page) (n := n) (src := src) hfull
      exact ⟨t, hexec, hnote, hlow, fun _ => ⟨hhbm, htail, hdrop⟩, fun hroom => absurd hfull hroom⟩
    · obtain ⟨t, hexec, hnote, hlow, htail, hhbm⟩ := occursWith_hintPost_room (part := part) (page := page) (n := n) (src := src) hfull
      refine ⟨t, hexec, hnote, hlow, fun h => absurd h hfull, fun _ => ⟨htail, fun hlt hsrc hspill => ?_, fun p hout hp => ?_⟩⟩
      · have hread := State.read_hintWritten (part := part) (page := page) (n := n) (src := src) hlt hspill
        rw [← hhbm] at hread
        have hfields := hintWord_fields (die := die) (part := part) (page := page) (n := n) hsrc
        rw [← hread] at hfields
        exact hfields
      · rw [hhbm]
        exact State.byte_hintWritten_out _ hout hp
  case fabric =>
    have hr : FabricReaches line s := ⟨hopen, hfeature, hline, hf⟩
    exact ⟨hr.store x, hr.load x, fun kind n off y h14 h15 hn ho hroom hm =>
      ⟨hr.atomic_poisoned h15 x, fun hp hy => hr.atomic h14 h15 hn ho hroom hm hp hy⟩⟩
end

section
/-! # The frontier after outcomes (O15)

One outcome joins the entry at its address, or makes a new one where there is none and room is left (`addOutc_cases`). Either way the addresses
stay different, and every address has its own lanes and those that the outcome sends there (`lanesAt_of_addOutc`). -/

namespace Sys2Proof.Machine

section
variable {hdr : Nat → Bool} {g m : Lanes} {n pc : Nat} {fs fs' : List FEntry} {o : Outc} {outs : List Outc}

/-- The entries after an outcome that finds an entry at its address. -/
def joinedAt (g : Lanes) (o : Outc) (fs : List FEntry) : List FEntry :=
  fs.map fun e => if e.pc.toNat = o.pc then e.join o.lanes g o.pri o.deferred none else e

/-- What one outcome does to the frontier: nothing, a join at its address, or a new entry there. -/
theorem addOutc_cases (h : addOutc hdr g n fs o = some fs') :
    (o.lanes = 0 ∧ fs' = fs) ∨ ((∃ e ∈ fs, e.pc.toNat = o.pc) ∧ fs' = joinedAt g o fs) ∨
      ((∀ e ∈ fs, e.pc.toNat ≠ o.pc) ∧ fs.length + n < 8 ∧
        ∃ e : FEntry, e.pc = BitVec.ofNat 56 o.pc ∧ e.mask = o.lanes ∧ fs' = fs ++ [e]) := by
  unfold addOutc at h
  split at h
  · next h0 => exact .inl ⟨h0, (Option.some_inj.1 h).symm⟩
  · split at h
    · next hany => exact .inr (.inl ⟨by simpa using hany, (Option.some_inj.1 h).symm⟩)
    · next hnone =>
      split at h
      · next hroom => exact .inr (.inr ⟨by simpa using hnone, hroom, _, rfl, rfl, (Option.some_inj.1 h).symm⟩)
      · cases h

/-! ### Joining an entry -/

theorem joinedAt_pcs : (joinedAt g o fs).map (·.pc) = fs.map (·.pc) := by
  unfold joinedAt
  rw [List.map_map]
  refine List.map_congr_left fun e _ => ?_
  dsimp only [Function.comp]
  split <;> rfl

theorem lanesAt_of_absent (h : ∀ e ∈ fs, e.pc.toNat ≠ pc) : lanesAt fs pc = 0 := by
  unfold lanesAt
  rw [List.find?_eq_none.2 fun e he => by simpa using h e he]
  rfl

theorem lanesAt_joinedAt (h : ∃ e ∈ fs, e.pc.toNat = o.pc) :
    lanesAt (joinedAt g o fs) pc = lanesAt fs pc ||| if o.pc = pc then o.lanes else 0 := by
  have hpc : ((fun e : FEntry => decide (e.pc.toNat = pc)) ∘ fun e => if e.pc.toNat = o.pc then e.join o.lanes g o.pri o.deferred none else e) =
      fun e => decide (e.pc.toNat = pc) := by
    funext e
    dsimp only [Function.comp]
    split <;> rfl
  unfold lanesAt joinedAt
  rw [List.find?_map, hpc]
  cases hf : fs.find? fun e => decide (e.pc.toNat = pc) with
  | none =>
    have hne : o.pc ≠ pc := by
      rintro rfl
      obtain ⟨e, he, hpc⟩ := h
      exact absurd hpc (by simpa using List.find?_eq_none.1 hf e he)
    simp [hne]
  | some e =>
    obtain rfl : e.pc.toNat = pc := by simpa using List.find?_some hf
    simp only [Option.map_some, Option.getD_some, eq_comm (a := o.pc)]
    split
    · rfl
    · simp

/-! ### A new entry -/

theorem lanesAt_append (e : FEntry) (h : ∀ f ∈ fs, f.pc.toNat ≠ e.pc.toNat) :
    lanesAt (fs ++ [e]) pc = lanesAt fs pc ||| if e.pc.toNat = pc then e.mask else 0 := by
  by_cases hpc : e.pc.toNat = pc
  · subst hpc
    rw [lanesAt_of_absent h]
    unfold lanesAt
    rw [List.find?_append, List.find?_eq_none.2 fun f hf => by simpa using h f hf]
    simp
  · unfold lanesAt
    rw [List.find?_append]
    simp [hpc]

/-! ### One outcome, and all of them -/

theorem lanesAt_of_addOutc (ho : o.pc < 2 ^ 56) (h : addOutc hdr g n fs o = some fs') :
    lanesAt fs' pc = lanesAt fs pc ||| if o.pc = pc then o.lanes else 0 := by
  obtain ⟨h0, rfl⟩ | ⟨hex, rfl⟩ | ⟨hnew, -, e, hpc, hmask, rfl⟩ := addOutc_cases h
  · simp [h0]
  · exact lanesAt_joinedAt hex
  · have hat : e.pc.toNat = o.pc := by
      rw [hpc, BitVec.toNat_ofNat, Nat.mod_eq_of_lt ho]
    rw [lanesAt_append e fun f hf => hat ▸ hnew f hf, hat, hmask]

theorem nodup_of_addOutc (ho : o.pc < 2 ^ 56) (hfs : (fs.map (·.pc)).Nodup) (h : addOutc hdr g n fs o = some fs') :
    (fs'.map (·.pc)).Nodup := by
  obtain ⟨-, rfl⟩ | ⟨-, rfl⟩ | ⟨hnew, -, e, hpc, -, rfl⟩ := addOutc_cases h
  · exact hfs
  · rwa [joinedAt_pcs]
  · have hat : e.pc.toNat = o.pc := by
      rw [hpc, BitVec.toNat_ofNat, Nat.mod_eq_of_lt ho]
    rw [List.map_append, List.map_singleton, ← List.concat_eq_append, List.nodup_concat]
    refine ⟨?_, hfs⟩
    intro hin
    obtain ⟨f, hf, he⟩ := List.mem_map.1 hin
    exact hnew f hf (by rw [he, hat])

theorem length_of_addOutc (hfs : fs.length + n ≤ 8) (h : addOutc hdr g n fs o = some fs') : fs'.length + n ≤ 8 := by
  obtain ⟨-, rfl⟩ | ⟨-, rfl⟩ | ⟨-, hroom, e, -, -, rfl⟩ := addOutc_cases h
  · exact hfs
  · unfold joinedAt
    rwa [List.length_map]
  · rw [List.length_append, List.length_singleton]
    omega

theorem foldl_sentTo (outs : List Outc) (m : Lanes) :
    outs.foldl (fun m o => if o.pc = pc then m ||| o.lanes else m) m = m ||| sentTo outs pc := by
  unfold sentTo
  induction outs generalizing m with
  | nil => simp
  | cons o outs ih =>
    rw [List.foldl_cons, List.foldl_cons, ih, ih (if o.pc = pc then 0 ||| o.lanes else 0)]
    split <;> simp [BitVec.or_assoc]

theorem sentTo_cons : sentTo (o :: outs) pc = (if o.pc = pc then o.lanes else 0) ||| sentTo outs pc := by
  rw [← foldl_sentTo]
  simp only [sentTo, List.foldl_cons, BitVec.ofNat_eq_ofNat, BitVec.zero_or]

end

end Sys2Proof.Machine
end

section
/-! The obligation. -/

open Sys2Proof Sys2Proof.Machine

/-- Settles O15, by induction on the outcomes. -/
theorem frontierUpdate : Obligations.FrontierUpdate := by
  intro hdr g n fs outs fs' hnodup hpcs hroom h
  induction outs generalizing fs with
  | nil =>
    obtain rfl := Option.some_inj.1 h
    exact ⟨hnodup, hroom, fun pc => (BitVec.or_zero ..).symm⟩
  | cons o outs ih =>
    unfold addOutcs at h
    split at h
    · cases h
    · next fs1 h1 =>
      have ho := hpcs o List.mem_cons_self
      obtain ⟨hn, hr, hl⟩ := ih fs1 (nodup_of_addOutc ho hnodup h1) (fun p hp => hpcs p (List.mem_cons_of_mem _ hp))
        (length_of_addOutc hroom h1) h
      exact ⟨hn, hr, fun pc => by rw [hl, lanesAt_of_addOutc ho h1, sentTo_cons, BitVec.or_assoc]⟩
end

section
/-! # The lock of the extended block (O17)

Each lock word is over, or waits, by a change of its pair's block; such a change leaves the entries of every group. -/

namespace Sys2Proof.Machine

section
variable {r : GroupRef} {e : FEntry} {s : State} {v : Env}

/-- A change of the team of a group that leaves its groups. -/
theorem SameRoom.modTeam_groups {q : GroupRef} {f : Team → Team} (hf : ∀ t, (f t).groups = t.groups) : SameRoom r e s (s.modTeam q f) :=
  .modTeam_any fun t g => by rw [Team.group?, hf]; rfl

theorem SameRoom.takeLock {g : Nat} {h : Option Nat} : SameRoom r e s (s.modTeam r fun t => t.setHolder g h) := .modTeam_groups fun _ => rfl

/-- A change of a team that gives what another gives. -/
theorem State.modTeam_congr {f k : Team → Team} (h : ∀ t, s.team? r = some t → f t = k t) : s.modTeam r f = s.modTeam r k := by
  refine State.modCore_congr s r.core _ _ ?_
  unfold Core.modTeam
  cases ht : (s.core r.core).team? r.slot with
  | none => rfl
  | some t => simp only [h t ht]

/-! ### What the bodies answer -/

theorem xacqBody_free (h : liveHolder v s = none) : xacqBody v s = .done (s.modTeam v.r fun t => t.setHolder v.r.grp (some v.r.grp)) := by
  rw [xacqBody, h]

theorem xacqBody_held (h : liveHolder v s = some v.r.grp) : xacqBody v s = .done s := by
  rw [xacqBody, h]
  exact if_pos rfl

theorem xacqBody_waits {g : Nat} (h : liveHolder v s = some g) (hg : g ≠ v.r.grp) :
    xacqBody v s = .busy (s.modTeam v.r fun t => t.setWaiter v.r.grp) := by
  rw [xacqBody, h]
  exact if_neg hg

theorem xtryBody_has {p : BitVec 3} (h : liveHolder v s = none ∨ liveHolder v s = some v.r.grp) : xtryBody p v s =
    .done ((s.modTeam v.r fun t => t.setHolder v.r.grp (some v.r.grp)).modGroup v.r fun x => x.pset p.toNat v.em (BitVec.allOnes 32)) := by
  have hok : (liveHolder v s).getD v.r.grp = v.r.grp := by
    obtain h | h := h <;> rw [h] <;> rfl
  unfold xtryBody
  simp only [hok, if_true]

theorem xtryBody_fails {p : BitVec 3} {g : Nat} (h : liveHolder v s = some g) (hg : g ≠ v.r.grp) :
    xtryBody p v s = .done (s.modGroup v.r fun x => x.pset p.toNat v.em 0) := by
  unfold xtryBody
  simp only [h, Option.getD_some, hg, if_false]

/-- No earlier word of a group names a register of its extended block that it has still to read or to write. -/
theorem Group.extBusy_false {x : Group} (hw : ∀ n ∈ x.pendingRegs, n.1 = .v → n.2 < 32) (hr : ∀ r ∈ x.readRegs, r.2.1 < 32)
    (hp : ∀ p ∈ x.perms, p.a < 32) : x.extBusy = false := by
  simp only [Group.extBusy, Bool.or_eq_false_iff, List.any_eq_false, Bool.and_eq_true, decide_eq_true_eq, not_and, not_le]
  exact ⟨⟨hw, hr⟩, hp⟩

theorem xrelBody_idle (h : liveHolder v s ≠ some v.r.grp) : xrelBody v s = .done s := if_pos h

/-- A lock that its group holds goes to the group that waits for it. -/
theorem xrelBody_releases (h : liveHolder v s = some v.r.grp) (hb : (liveGroup v s).extBusy = false) : xrelBody v s =
    .done (s.modTeam v.r fun t =>
      let x := t.ext.get ⟨[], none, none⟩ (v.r.grp / 2)
      { t with ext := t.ext.set ⟨[], none, none⟩ (v.r.grp / 2) { x with holder := x.waiter, waiter := none } }) := by
  unfold xrelBody
  rw [if_neg (not_not.2 h), if_neg (by simp [hb])]
  refine congrArg Res.done (State.modTeam_congr fun t ht => if_pos ?_)
  rw [liveHolder, ht] at h
  exact h

end

end Sys2Proof.Machine
end

section
/-! The obligation. -/

open Sys2Proof Sys2Proof.Machine

/-- Settles O17: the body of each word answers the state that the statement names. -/
theorem blockLock : Obligations.BlockLock := by
  refine ⟨fun c => ?_, fun c => ?_, fun c => ?_, fun c p => ?_, fun c p => ?_, fun c => ?_, fun c => ?_⟩
  · exact does_of_perform (fun _ => rfl) (fun _ _ => xacqBody_free) fun _ _ => .takeLock
  · exact does_of_perform (fun _ => rfl) (fun _ _ => xacqBody_held) fun _ _ => .refl
  · exact holds_of_perform (fun _ => rfl) fun _ _ ⟨_, h, hg⟩ => xacqBody_waits h hg
  · exact does_of_perform (fun _ => rfl) (fun _ _ => xtryBody_has) fun _ _ => SameRoom.takeLock.trans .pset
  · exact does_of_perform (fun _ => rfl) (fun _ _ ⟨_, h, hg⟩ => xtryBody_fails h hg) fun _ _ => .pset
  · exact does_of_perform (fun _ => rfl) (fun _ _ => xrelBody_idle) fun _ _ => .refl
  · exact does_of_perform (fun _ => rfl) (fun _ _ ⟨h, hw, hr, hp⟩ => xrelBody_releases h (Group.extBusy_false hw hr hp)) fun _ _ =>
      .modTeam_groups fun _ => rfl
end

section
/-! # Sleep, rates, thresholds, energy, clock and watchdog (O53)

Each event by the case that it finds. -/

namespace Sys2Proof.Machine

section
variable {s : State} {g : GroupRef} {x : Group} {w core die unit sel part : Nat} {p : Part} {i : Instr}

/-! ### Events on their way -/

/-- Nothing has changed but that events have been added to those on their way. -/
def OnlyPosts (s t : State) : Prop := ∃ ps, t = { s with pending := s.pending ++ ps }

theorem OnlyPosts.refl : OnlyPosts s s := ⟨[], by rw [List.append_nil]⟩

theorem OnlyPosts.trans {t u : State} (h : OnlyPosts s t) (k : OnlyPosts t u) : OnlyPosts s u := by
  obtain ⟨ps, rfl⟩ := h
  obtain ⟨qs, rfl⟩ := k
  exact ⟨ps ++ qs, by simp only [List.append_assoc]⟩

theorem OnlyPosts.post : OnlyPosts s (s.post i) := ⟨[i], rfl⟩

theorem OnlyPosts.postOnce : OnlyPosts s (s.postOnce i) := by
  unfold State.postOnce
  split
  · exact .refl
  · exact .post

theorem OnlyPosts.serve : OnlyPosts s (s.serve part) := by
  unfold State.serve
  split
  · exact .refl
  · split
    · exact .refl
    · split
      · exact .refl
      · exact .post

theorem OnlyPosts.mem {t : State} (h : OnlyPosts s t) (hi : i ∈ s.pending) : i ∈ t.pending := by
  obtain ⟨ps, rfl⟩ := h
  exact List.mem_append_left _ hi

theorem State.mem_postOnce_iff {j : Instr} : j ∈ (s.postOnce i).pending ↔ j ∈ s.pending ∨ j = i := by
  unfold State.postOnce
  split
  · next h =>
    refine ⟨.inl, ?_⟩
    rintro (hj | rfl)
    · exact hj
    · exact h
  · simp [State.post]

/-! ### Sleep (10 R277) -/

/-- What a sleeping group's event does. -/
theorem exec_sleepExpire (hg : s.group? g = some x) (hw : x.wait = .sleep w) : exec (.sleepExpire g) s =
    happened (if s.cycle < w then s.post (.sleepExpire g) else s.modGroup g fun x => { x with wait := .none }) := by
  show execSleepExpire g s = _
  unfold execSleepExpire
  rw [hg, Option.map_some, hw]

theorem waits_sleepExpire (hg : s.group? g = some x) (hw : x.wait = .sleep w) (h : s.cycle < w) : Waits (.sleepExpire g) s :=
  (exec_sleepExpire hg hw).trans (by rw [if_pos h]; rfl)

theorem occurs_sleepExpire (hg : s.group? g = some x) (hw : x.wait = .sleep w) (h : w ≤ s.cycle) :
    Occurs (.sleepExpire g) s (s.modGroup g fun x => { x with wait := .none }) :=
  (exec_sleepExpire hg hw).trans (by rw [if_neg (by omega)]; rfl)

/-! ### Rates (14 R393) -/

/-- A group whose window ends: its count of retired words becomes its rate. -/
def Group.rated (x : Group) : Group := { x with rate := x.retired, retired := 0 }

/-- A team whose window ends. -/
def Team.rated (t : Team) : Team := { t with groups := t.groups.map fun gx => (gx.1, gx.2.map Group.rated) }

theorem Team.group?_rated (t : Team) (n : Nat) : t.rated.group? n = (t.group? n).map Group.rated :=
  Tbl.get_map_value (Option.map Group.rated) none t.groups n rfl

theorem occursWith_rateWindowEnd : OccursWith (.rateWindowEnd core) s fun t =>
    (∀ slot tm, (s.core core).team? slot = some tm → ∃ tn, (t.core core).team? slot = some tn ∧ tn.bind = tm.bind ∧
      ∀ g x, tm.group? g = some x → tn.group? g = some { x with rate := x.retired, retired := 0 }) ∧
    ((s.core core).resident ≠ [] → .rateWindowEnd core ∈ t.pending) := by
  let s1 := s.modCore core fun k => { k with teams := k.teams.map fun st => (st.1, st.2.map Team.rated) }
  refine ⟨_, rfl, rfl, fun slot tm ht => ⟨tm.rated, ?_, rfl, fun n x hx => ?_⟩, fun hr => ?_⟩
  · have hcores : (if (s.core core).resident.isEmpty = true then s1 else s1.postOnce (.rateWindowEnd core)).cores = s1.cores := by
      split
      · rfl
      · exact State.postOnce_cores ..
    show Core.team? (State.core (if (s.core core).resident.isEmpty = true then s1 else s1.postOnce (.rateWindowEnd core)) core) slot = _
    rw [State.core_of_cores hcores, State.core_modCore]
    exact (Tbl.get_map_value (Option.map Team.rated) none _ slot rfl).trans (congrArg (Option.map Team.rated) ht)
  · rw [Team.group?_rated, hx]
    rfl
  · show _ ∈ (if (s.core core).resident.isEmpty = true then s1 else s1.postOnce (.rateWindowEnd core)).pending
    rw [if_neg (by simpa using hr)]
    exact State.mem_postOnce _ _

/-! ### Counters and thresholds (14 R396, 21 R461) -/

/-- A sample changes what has been measured and the count of choices. -/
theorem State.sample_eq (s : State) (sel : Nat) :
    ∃ n m, s.sample sel = { s with choices := n, modl := { s.modl with meters := m } } := by
  unfold State.sample
  split
  · exact ⟨_, _, rfl⟩
  · exact ⟨_, _, rfl⟩

theorem State.die_sample : (s.sample sel).die die = s.die die := by
  obtain ⟨n, m, h⟩ := s.sample_eq sel
  rw [h]
  rfl

theorem State.tasks_sample : (s.sample sel).modl.tasks = s.modl.tasks := by
  obtain ⟨n, m, h⟩ := s.sample_eq sel
  rw [h]

theorem State.threshold_modThreshold (f : Threshold → Threshold) :
    ((s.modThreshold die unit f).die die).threshold unit = f ((s.die die).threshold unit) := by
  unfold State.modThreshold
  rw [State.die_modDie]
  exact Tbl.get_set ..

/-- Whether a value is beyond a threshold's VAL, on the side that its CTL names (14 R396). -/
def Threshold.beyond (th : Threshold) (v : Nat) : Bool :=
  if th.ctl.getLsbD 62 then decide (v < th.val.toNat) else decide (th.val.toNat < v)

theorem Threshold.beyond_iff {th : Threshold} {v : Nat} :
    th.beyond v = true ↔ if th.ctl.getLsbD 62 = true then v < th.val.toNat else th.val.toNat < v := by
  unfold Threshold.beyond
  split <;> exact decide_eq_true_iff

/-- A unit whose counter has crossed: FIRED is set and EN cleared. -/
def Threshold.fired (th : Threshold) : Threshold := { th with ctl := (th.ctl ||| (1#64 <<< 61)) &&& ~~~(1#64 <<< 63), was := false }

theorem occurs_thresholdFire_off (h : ((s.die die).threshold unit).ctl.getLsbD 63 = false) : Occurs (.thresholdFire die unit) s s := by
  show execThresholdFire die unit s = _
  unfold execThresholdFire
  simp only [h, Bool.not_false, Bool.true_or, if_true]
  rfl

/-- An armed unit looks at its counter: it fires, or looks again. -/
theorem exec_thresholdFire {th : Threshold} (hth : (s.die die).threshold unit = th) (hsel : (th.ctl.extractLsb' 0 16).toNat = sel)
    (hon : th.ctl.getLsbD 63 = true) (hidx : selIndex sel < kindSize (selKind sel)) : exec (.thresholdFire die unit) s =
      happened (if th.beyond ((s.sample sel).counter sel) && th.was then
        { (s.sample sel).modThreshold die unit Threshold.fired with
          modl := { (s.sample sel).modl with tasks := (s.sample sel).modl.tasks ++ [(die, (th.ctl.extractLsb' 32 16).toNat)] } }
      else ((s.sample sel).modThreshold die unit fun h => { h with was := h.was || !th.beyond ((s.sample sel).counter sel) }).post
        (.thresholdFire die unit)) := by
  show execThresholdFire die unit s = _
  unfold execThresholdFire
  simp only [hth, hsel, hon, Bool.not_true, Bool.false_or, decide_eq_true_eq, Nat.not_le.2 hidx, if_false]
  exact (apply_ite happened _ _ _).symm

theorem occursWith_thresholdFire_fires {th : Threshold} (hth : (s.die die).threshold unit = th)
    (hsel : (th.ctl.extractLsb' 0 16).toNat = sel) (hon : th.ctl.getLsbD 63 = true) (hidx : selIndex sel < kindSize (selKind sel))
    (hb : th.beyond ((s.sample sel).counter sel) = true) (hwas : th.was = true) : OccursWith (.thresholdFire die unit) s fun t =>
      (t.die die).threshold unit = th.fired ∧ t.modl.tasks = s.modl.tasks ++ [(die, (th.ctl.extractLsb' 32 16).toNat)] := by
  refine occursWith_of_happened (exec_thresholdFire hth hsel hon hidx) ?_
  rw [if_pos (by simp [hb, hwas])]
  refine ⟨(State.threshold_modThreshold Threshold.fired).trans ?_, congrArg (· ++ _) State.tasks_sample⟩
  rw [State.die_sample, hth]

theorem occursWith_thresholdFire_looks {th : Threshold} (hth : (s.die die).threshold unit = th)
    (hsel : (th.ctl.extractLsb' 0 16).toNat = sel) (hon : th.ctl.getLsbD 63 = true) (hidx : selIndex sel < kindSize (selKind sel))
    (hb : ¬(th.beyond ((s.sample sel).counter sel) = true ∧ th.was = true)) : OccursWith (.thresholdFire die unit) s fun t =>
      (t.die die).threshold unit = { th with was := th.was || !th.beyond ((s.sample sel).counter sel) } ∧ t.modl.tasks = s.modl.tasks ∧
        .thresholdFire die unit ∈ t.pending := by
  refine occursWith_of_happened (exec_thresholdFire hth hsel hon hidx) ?_
  rw [if_neg (by simpa using hb)]
  have hlooked := State.threshold_modThreshold (s := s.sample sel) (die := die) (unit := unit) fun h =>
    { h with was := h.was || !th.beyond ((s.sample sel).counter sel) }
  rw [State.die_sample, hth] at hlooked
  exact ⟨hlooked, State.tasks_sample, State.mem_post _ _⟩

/-- The counter of a launch queue is the number of packets that it holds. -/
theorem State.counter_queue {q : Nat} (hp : s.part? part = some p) (hq : q < 16) (hn : 16 * part + q < 4096) :
    (s.sample (3 * 4096 + (16 * part + q))).counter (3 * 4096 + (16 * part + q)) = (p.lq q).count := by
  have hkind : selKind (3 * 4096 + (16 * part + q)) = 3 := by
    unfold selKind
    omega
  have hindex : selIndex (3 * 4096 + (16 * part + q)) = 16 * part + q := by
    unfold selIndex
    omega
  unfold State.sample State.counter
  simp only [hkind, hindex, true_or, if_true, show (16 * part + q) / 16 = part by omega, show (16 * part + q) % 16 = q by omega, hp,
    Option.map_some, Option.getD_some]

/-! ### The clock (21 R462) -/

theorem State.modPart_onlyParts (f : Part → Part) : { s.modPart part f with parts := s.parts } = s := by
  unfold State.modPart
  split <;> rfl

theorem occursWith_clockStep {n : Nat} (hp : s.part? part = some p) (hn : p.clockNext = some n) :
    OccursWith (.clockStepTakeEffect part) s fun t =>
      t.part? part = some { p with clock := n, clockNext := none } ∧ OnlyParts s t ∧ ∀ k, k ≠ part → t.part? k = s.part? k := by
  refine ⟨_, rfl, rfl, ?_, ?_, fun k hk => State.part?_modPart_ne hk⟩
  · refine (State.part?_modPart_some hp).trans ?_
    rw [hn]
  · exact congrArg (fun u : State => { u with note := s.note }) (State.modPart_onlyParts _)

/-! ### Energy (21 R463, 14 R388) -/

/-- A partition at the end of an energy interval, with the clock's next step. -/
def Part.afterInterval (n : Nat) (p : Part) : Part :=
  { p with committed := 0, clockNext := if n = p.clock then p.clockNext else some n
           queues := (List.range 16).foldl (fun t q => t.set LQueue.empty q { p.lq q with held := false }) p.queues }

theorem Part.lq_afterInterval {n q : Nat} (hq : q < 16) : (p.afterInterval n).lq q = { p.lq q with held := false } :=
  Tbl.get_foldl_set LQueue.empty (fun q => { p.lq q with held := false }) _ _ _ (List.mem_range.2 hq)

/-- The energy of a partition's interval: what was measured before and what is measured now (21 R461). -/
theorem State.counter_energy (hpart : part < 64) : (s.measure (4 * 4096 + part)).counter (4 * 4096 + part) =
    s.modl.meters.get 0 (4 * 4096 + part) + Config.choice s.choices := by
  have hkind : selKind (4 * 4096 + part) = 4 := by
    unfold selKind
    omega
  unfold State.measure State.counter
  simp only [hkind, show (4 : Nat) ≠ 3 by decide, show (4 : Nat) ≠ 5 by decide, show (4 : Nat) ≠ 2 by decide, if_false, Tbl.get_set]

/-- The state at the end of a partition's energy interval, before its queues are served. -/
def State.intervalEnded (s : State) (part n : Nat) : State :=
  { (s.measure (4 * 4096 + part)).modPart part (Part.afterInterval n) with
    modl := { (s.measure (4 * 4096 + part)).modl with meters := (s.measure (4 * 4096 + part)).modl.meters.set 0 (4 * 4096 + part) 0 } }

theorem occursWith_energyIntervalEnd {n : Nat} (hpart : part < 64) (hp : s.part? part = some p)
    (hn : nextClock p.clock (p.budget * 10 ^ 8) (s.modl.meters.get 0 (4 * 4096 + part) + Config.choice s.choices) = n) :
    OccursWith (.energyIntervalEnd part) s fun t => t.modl.meters.get 0 (4 * 4096 + part) = 0 ∧ .energyIntervalEnd part ∈ t.pending ∧
      (n ≠ p.clock → .clockStepTakeEffect part ∈ t.pending) ∧ t.part? part = some (p.afterInterval n) := by
  have hexec : exec (.energyIntervalEnd part) s = happened (((if n = p.clock then s.intervalEnded part n
      else (s.intervalEnded part n).postOnce (.clockStepTakeEffect part)).serve part).postOnce (.energyIntervalEnd part)) := by
    show execEnergyIntervalEnd part s = _
    unfold execEnergyIntervalEnd
    simp only [hp, State.counter_energy hpart, Part.budgetNj, hn]
    rfl
  have hstep : OnlyPosts (s.intervalEnded part n) (if n = p.clock then s.intervalEnded part n
      else (s.intervalEnded part n).postOnce (.clockStepTakeEffect part)) := by
    split
    · exact .refl
    · exact .postOnce
  obtain ⟨ps, hps⟩ := (hstep.trans .serve).trans .postOnce
  have hmeter : (s.intervalEnded part n).modl.meters.get 0 (4 * 4096 + part) = 0 := by
    simp only [State.intervalEnded, Tbl.get_set]
  refine occursWith_of_happened hexec ⟨?_, State.mem_postOnce _ _, fun hne => ?_, ?_⟩
  · rw [hps]
    exact hmeter
  · rw [if_neg hne]
    exact OnlyPosts.postOnce.mem (OnlyPosts.serve.mem (State.mem_postOnce _ _))
  · rw [hps]
    exact State.part?_modPart_some (s := s.measure (4 * 4096 + part)) hp

/-! ### The watchdog (15 R418) -/

theorem occurs_watchdogExpire_off (hp : s.part? part = some p) (h : p.wdog = 0) : Occurs (.watchdogExpire part) s s := by
  show execWatchdogExpire part s = _
  unfold execWatchdogExpire
  simp only [hp, h, if_true]
  rfl

/-- The watchdog looks at its partition's progress, and has it reset if there is none. -/
theorem occursWith_watchdogExpire (hp : s.part? part = some p) (h : p.wdog ≠ 0) : OccursWith (.watchdogExpire part) s fun t =>
    (t.part? part).map (·.seen) = some (s.progress part) ∧ .watchdogExpire part ∈ t.pending ∧
    (.partitionReset part ∈ t.pending ↔ .partitionReset part ∈ s.pending ∨
      ((∃ r ∈ s.partTeams part, parked r.2 = false) ∧ s.progress part = p.seen)) := by
  let s1 := (s.modPart part fun p => { p with seen := s.progress part }).postOnce (.watchdogExpire part)
  have hparts : s1.part? part = some { p with seen := s.progress part } :=
    (State.part?_of_parts (State.postOnce_parts ..) part).trans (State.part?_modPart_some hp)
  have hpending : ∀ j, j ∈ s1.pending ↔ j ∈ s.pending ∨ j = .watchdogExpire part := fun j => by
    rw [State.mem_postOnce_iff, State.modPart_pending]
  have hstuck : ((s.partTeams part).any fun r => !parked r.2) = true ↔ ∃ r ∈ s.partTeams part, parked r.2 = false := by simp
  by_cases hreset : ((s.partTeams part).any fun r => !parked r.2) = true ∧ s.progress part = p.seen
  · have hexec : exec (.watchdogExpire part) s = happened (s1.postOnce (.partitionReset part)) := by
      show execWatchdogExpire part s = _
      unfold execWatchdogExpire
      simp only [hp, h, if_false, hreset, and_self, if_true]
      rw [← hreset.2]
    refine occursWith_of_happened hexec ⟨?_, OnlyPosts.postOnce.mem (State.mem_postOnce _ _), ?_⟩
    · exact congrArg (Option.map (·.seen)) ((State.part?_of_parts (State.postOnce_parts ..) part).trans hparts)
    · exact iff_of_true (State.mem_postOnce _ _) (.inr ⟨hstuck.1 hreset.1, hreset.2⟩)
  · have hexec : exec (.watchdogExpire part) s = happened s1 := by
      show execWatchdogExpire part s = _
      unfold execWatchdogExpire
      simp only [hp, h, if_false, hreset]
      rfl
    refine occursWith_of_happened hexec ⟨congrArg (Option.map (·.seen)) hparts, State.mem_postOnce _ _, ?_⟩
    refine (hpending _).trans ⟨?_, ?_⟩
    · rintro (hin | heq)
      · exact .inl hin
      · cases heq
    · rintro (hin | ⟨hteam, hseen⟩)
      · exact .inl hin
      · exact absurd ⟨hstuck.2 hteam, hseen⟩ hreset

end

end Sys2Proof.Machine
end

section
/-! # Where groups stand (O53)

What the end of a group does to its core leaves every group where it stands: its entries, its wait, its live lanes (`SameStances`). -/

namespace Sys2Proof.Machine

section
variable {s t u : State} {r q : GroupRef} {c core slot : Nat}

/-- Where a group stands: its entries, its handler, the cursor, what it waits for, the lanes that have exited, the identities of its lane
slots, and whether its slot has been given up. -/
def Group.stance (x : Group) : List FEntry × Option Handler × DWord × Wait × Lanes × Tbl Nat × Bool :=
  (x.frontier, x.handler, x.lcur, x.wait, x.exited, x.lid, x.released)

/-- Every group stands where it stood, every slot has its team; of the rest only cores, registers of the module and events have changed, and
no event is lost. -/
structure SameStances (s t : State) : Prop where
  stances : ∀ r, (t.group? r).map Group.stance = (s.group? r).map Group.stance
  binds : ∀ r, (t.team? r).map (·.bind) = (s.team? r).map (·.bind)
  rest : t = { s with cores := t.cores, modl := t.modl, pending := t.pending }
  pending : ∀ i ∈ s.pending, i ∈ t.pending

theorem SameStances.refl : SameStances s s := ⟨fun _ => rfl, fun _ => rfl, rfl, fun _ h => h⟩

theorem SameStances.trans (h : SameStances s t) (k : SameStances t u) : SameStances s u where
  stances r := (k.stances r).trans (h.stances r)
  binds r := (k.binds r).trans (h.binds r)
  rest := k.rest.trans (congrArg (fun x : State => { x with cores := u.cores, modl := u.modl, pending := u.pending }) h.rest)
  pending i hi := k.pending i (h.pending i hi)

theorem SameStances.foldl {α : Type} {f : State → α → State} (l : List α) (hf : ∀ u a, SameStances u (f u a)) : SameStances s (l.foldl f s) :=
  List.foldlRecOn (motive := fun t => SameStances s t) _ _ .refl fun t h a _ => h.trans (hf t a)

theorem SameStances.ite {p : Prop} [Decidable p] (h : SameStances s t) (k : SameStances s u) : SameStances s (if p then t else u) := by
  split
  · exact h
  · exact k

theorem SameStances.of_posts (h : OnlyPosts s t) : SameStances s t := by
  obtain ⟨ps, rfl⟩ := h
  exact ⟨fun _ => rfl, fun _ => rfl, rfl, fun i hi => List.mem_append_left _ hi⟩

/-- A change of a core that leaves its teams. -/
theorem SameStances.modCore {f : Core → Core} (hf : ∀ k, (f k).teams = k.teams) : SameStances s (s.modCore c f) :=
  ⟨fun r => by rw [State.group?_modCore hf], fun r => by rw [State.team?_modCore hf], rfl, fun _ h => h⟩

theorem State.team?_modTeam_or {f : Team → Team} (q r : GroupRef) :
    (s.modTeam q f).team? r = s.team? r ∨ (s.modTeam q f).team? r = (s.team? r).map f := by
  unfold State.team? State.modTeam
  by_cases hc : r.core = q.core
  · rw [hc, State.core_modCore]
    by_cases hs : r.slot = q.slot
    · rw [hs, Core.team?_modTeam]
      exact .inr rfl
    · rw [Core.team?_modTeam_ne _ _ _ _ hs]
      exact .inl rfl
  · rw [State.core_modCore_ne _ _ _ _ hc]
    exact .inl rfl

/-- The records of all teams after a change of a team that leaves its record. -/
theorem State.bind_modTeam {f : Team → Team} (hb : ∀ t, (f t).bind = t.bind) (q r : GroupRef) :
    ((s.modTeam q f).team? r).map (·.bind) = (s.team? r).map (·.bind) := by
  obtain h | h := s.team?_modTeam_or (f := f) q r
  · rw [h]
  · rw [h, Option.map_map]
    exact congrArg (Option.map · _) (funext hb)

/-- A change of some team that leaves its record and where its groups stand. -/
theorem SameStances.modTeam {f : Team → Team} (hb : ∀ t, (f t).bind = t.bind)
    (hf : ∀ t g, ((f t).group? g).map Group.stance = (t.group? g).map Group.stance) : SameStances s (s.modTeam q f) := by
  refine ⟨fun r => ?_, State.bind_modTeam hb q, rfl, fun _ h => h⟩
  unfold State.group?
  obtain h | h := s.team?_modTeam_or (f := f) q r
  · rw [h]
  · rw [h]
    cases s.team? r with
    | none => rfl
    | some t => exact hf t r.grp

/-- A change of some group that leaves where it stands. -/
theorem SameStances.modGroup {f : Group → Group} (hf : ∀ x, (f x).stance = x.stance) : SameStances s (s.modGroup q f) := by
  refine .modTeam (fun t => t.bind_modGroup _ _) fun t g => ?_
  by_cases hg : g = q.grp
  · rw [hg, Team.group?_modGroup, Option.map_map]
    exact congrArg (Option.map · _) (funext hf)
  · rw [Team.group?_modGroup_ne _ _ _ _ hg]

theorem SameStances.modl (s : State) (m : Module) : SameStances s { s with modl := m } := ⟨fun _ => rfl, fun _ => rfl, rfl, fun _ h => h⟩

/-! ### The end of a group (07 R197) -/

theorem SameStances.dropPush : SameStances s (s.dropPush r) := by
  unfold State.dropPush
  split
  · exact .refl
  · exact .modCore fun _ => rfl

/-- A lock that is left or given up stands in its block. -/
theorem SameStances.leaveLock : SameStances s (s.modTeam r fun t => (t.quitLock r.grp).unlock r.grp) := by
  have hquit : ∀ t : Team, (t.quitLock r.grp).groups = t.groups ∧ (t.quitLock r.grp).bind = t.bind := fun t => by
    unfold Team.quitLock
    dsimp only
    split <;> exact ⟨rfl, rfl⟩
  have hunlock : ∀ t : Team, (t.unlock r.grp).groups = t.groups ∧ (t.unlock r.grp).bind = t.bind := fun t => by
    unfold Team.unlock
    dsimp only
    split <;> exact ⟨rfl, rfl⟩
  refine .modTeam (fun t => (hunlock _).2.trans (hquit t).2) fun t g => ?_
  rw [Team.group?, (hunlock _).1, (hquit t).1]
  rfl

theorem SameStances.scratchWrite {n off x : Nat} : SameStances s (s.scratchWrite c n off x) := .modCore fun _ => rfl

theorem SameStances.endStage {off st : Nat} : SameStances s (s.endStage c slot off st) := by
  have hwoken : ∀ (t : Team) g, ((t.wakeStage off st).group? g).map Group.stance = (t.group? g).map Group.stance := fun t g => by
    unfold Team.wakeStage Team.group?
    rw [Tbl.get_map_value (Option.map _) none t.groups g rfl, Option.map_map]
    congr 1
    funext x
    dsimp only [Function.comp]
    split <;> rfl
  refine SameStances.trans (SameStances.scratchWrite.trans (.modTeam ?_ hwoken)) (.modCore fun _ => rfl)
  exact fun _ => rfl

theorem SameStances.breakStages {kept : Bool} : SameStances s (s.breakStages r kept) :=
  .foldl _ fun _ _ => .foldl _ fun _ _ => .ite .endStage .refl

theorem Group.stance_fretDown (x : Group) (f : Option Nat) (st : BitVec 2) : (x.fretDown f st).stance = x.stance := by
  cases f <;> rfl

theorem SameStances.breakLatchOf {l : Latched} : SameStances s (s.breakLatchOf q l) := by
  have hleft : SameStances s (s.modGroup q fun y =>
      { y with latches := y.latches.filter fun x => x.cmd ≠ l.cmd, readRegs := y.readRegs.drop fun i => i = l.cmd }) := .modGroup fun _ => rfl
  unfold State.breakLatchOf
  dsimp only
  split
  · exact hleft
  · exact (hleft.trans (.modGroup fun x => x.stance_fretDown _ _)).trans (.modCore fun _ => rfl)

theorem SameStances.breakLatch : SameStances s (s.breakLatch r) := by
  unfold State.breakLatch
  split
  · exact .refl
  · refine .foldl _ fun u kx => ?_
    split
    · exact .refl
    · exact .foldl _ fun _ _ => .breakLatchOf

theorem SameStances.enterRequests : SameStances s (s.enterRequests c) := by
  refine SameStances.trans (.modCore fun k => ?_) (.ite (.of_posts .postOnce) .refl)
  exact List.foldlRecOn (motive := fun x : Core => x.teams = k.teams) _ _ rfl fun x hx d _ => (Core.enterRequest_teams _ x d).trans hx

theorem SameStances.groupGone {kept : Bool} : SameStances s (s.groupGone r kept) := by
  unfold State.groupGone
  split
  · exact .refl
  · extract_lets s1 latchesBroken registers s2
    have h1 : SameStances s s1 := (SameStances.dropPush.trans .leaveLock).trans .breakStages
    have h2 : SameStances s1 s2 := SameStances.breakLatch.trans (.modl _ _)
    refine SameStances.trans ((h1.trans h2).trans ?_) .enterRequests
    exact .modCore fun _ => rfl

theorem SameStances.recheckRegroup : SameStances s (s.recheckRegroup r) := by
  unfold State.recheckRegroup
  split
  · exact .refl
  · exact .ite .refl (.of_posts .postOnce)

end

end Sys2Proof.Machine
end

section
/-! # Lanes exit, and `regroup` (O53)

A group that lanes leave, or that exits, changes where no other group stands (`StandsBut`). At `regroup` the lanes in order of key are dealt out
group by group; each group takes its own and keeps them while the others take theirs. -/

namespace Sys2Proof

/-- A table in which some keys are written, one after the other. -/
theorem Tbl.get_foldl_set_some {α : Type} [DecidableEq α] (d : α) (f : Nat → Option α) (ks : List Nat) (t : Tbl α) (l : Nat) :
    Tbl.get d (ks.foldl (fun t k => match f k with
      | none => t
      | some y => t.set d k y) t) l = if l ∈ ks then (f l).getD (t.get d l) else t.get d l := by
  induction ks generalizing t with
  | nil => rfl
  | cons k ks ih =>
    rw [List.foldl_cons, ih]
    by_cases hk : l = k
    · subst hk
      cases hf : f l <;> simp
    · have hkeep : Tbl.get d (match f k with
          | none => t
          | some y => t.set d k y) l = t.get d l := by
        split
        · rfl
        · exact Tbl.get_set_ne _ _ _ _ _ hk
      simp [hk, hkeep]

namespace Machine

section
variable {s t u : State} {r : GroupRef} {core slot part g : Nat} {x y : Group} {ids : List Nat}

/-! ### One group changes -/

/-- Every group but one stands where it stood, and no event is lost. -/
structure StandsBut (r : GroupRef) (s t : State) : Prop where
  others : ∀ q, q ≠ r → (t.group? q).map Group.stance = (s.group? q).map Group.stance
  pending : ∀ i ∈ s.pending, i ∈ t.pending

theorem StandsBut.refl : StandsBut r s s := ⟨fun _ _ => rfl, fun _ h => h⟩

theorem StandsBut.trans (h : StandsBut r s t) (k : StandsBut r t u) : StandsBut r s u :=
  ⟨fun q hq => (k.others q hq).trans (h.others q hq), fun i hi => k.pending i (h.pending i hi)⟩

theorem SameStances.standsBut (h : SameStances s t) : StandsBut r s t := ⟨fun q _ => h.stances q, h.pending⟩

theorem StandsBut.of_cores (hc : t.cores = s.cores) (hp : t.pending = s.pending) : StandsBut r s t :=
  ⟨fun q _ => by rw [State.group?_of_cores hc], fun i hi => hp ▸ hi⟩

/-- Another group after a change of one group. -/
theorem State.group?_modGroup_ne {f : Group → Group} {q : GroupRef} (h : q ≠ r) : (s.modGroup r f).group? q = s.group? q := by
  unfold State.group? State.team? State.modGroup State.modTeam
  by_cases hc : q.core = r.core
  · rw [hc, State.core_modCore]
    by_cases hs : q.slot = r.slot
    · have hg : q.grp ≠ r.grp := fun hg => h (by cases q; cases r; simp_all)
      rw [hs, Core.team?_modTeam]
      cases (s.core r.core).team? r.slot with
      | none => rfl
      | some t => exact Team.group?_modGroup_ne t _ _ f hg
    · rw [Core.team?_modTeam_ne _ _ _ _ hs]
  · rw [State.core_modCore_ne _ _ _ _ hc]

theorem StandsBut.modGroup {f : Group → Group} : StandsBut r s (s.modGroup r f) :=
  ⟨fun q hq => by rw [State.group?_modGroup_ne hq], fun _ h => h⟩

/-! ### Lanes exit (05 R138, 07 R190) -/

/-- Counting lanes on the ids that they name changes partitions alone. -/
theorem State.countRefs_only (id : Nat → Nat) (up : Bool) (ls : List Nat) :
    (ls.foldl (fun s l => s.countRef part (id l) up) s).cores = s.cores ∧
      (ls.foldl (fun s l => s.countRef part (id l) up) s).pending = s.pending := by
  refine List.foldlRecOn (motive := fun u : State => u.cores = s.cores ∧ u.pending = s.pending) _ _ ⟨rfl, rfl⟩ fun u ⟨hc, hp⟩ l _ => ?_
  unfold State.countRef
  split
  · exact ⟨hc, hp⟩
  · exact ⟨(State.modPart_cores ..).trans hc, (State.modPart_pending ..).trans hp⟩

theorem StandsBut.countRefs (id : Nat → Nat) (up : Bool) (ls : List Nat) :
    StandsBut r s (ls.foldl (fun s l => s.countRef part (id l) up) s) :=
  .of_cores (State.countRefs_only id up ls).1 (State.countRefs_only id up ls).2

/-- A group whose lanes have exited. -/
def Group.without (m : Lanes) (x : Group) : Group := { x with exited := x.exited ||| m, idem := x.idem &&& ~~~(m.setWidth 64) }

/-- No lane is left to exit. -/
theorem Group.stance_without {m : Lanes} (h : x.exited = BitVec.allOnes 32) : (x.without m).stance = x.stance := by
  unfold Group.stance Group.without
  simp only [h, BitVec.allOnes_or]

theorem StandsBut.exitLanes {m : Lanes} : StandsBut r s (s.exitLanes r part m) := by
  unfold State.exitLanes
  split
  · exact .refl
  · exact (StandsBut.countRefs _ _ _).trans .modGroup

theorem State.group?_exitLanes {m : Lanes} : (s.exitLanes r part m).group? r = (s.group? r).map (Group.without m) := by
  unfold State.exitLanes
  split
  · next h => rw [h]; rfl
  · next x _ =>
    rw [State.group?_modGroup]
    exact congrArg (Option.map _) (State.group?_of_cores (State.countRefs_only x.hypOf false _).1)

/-- The team of a group that is over has its queues disabled, and its launch knows. -/
theorem StandsBut.teamOver : StandsBut r s (s.teamOver core slot) := by
  unfold State.teamOver
  split
  · exact .refl
  · split
    · refine StandsBut.trans (.of_cores (State.modLaunch_cores ..) (State.modLaunch_pending ..)) (SameStances.standsBut (.modCore fun _ => rfl))
    · exact .refl

theorem State.group?_teamOver (q : GroupRef) : (s.teamOver core slot).group? q = s.group? q := by
  unfold State.teamOver
  split
  · rfl
  · split
    · refine (State.group?_modCore ?_).trans (State.group?_of_cores (State.modLaunch_cores ..))
      exact fun _ => rfl
    · rfl

theorem StandsBut.groupExit : StandsBut r s (s.groupExit r) := by
  unfold State.groupExit
  split
  · exact .refl
  · exact (((StandsBut.exitLanes.trans SameStances.groupGone.standsBut).trans .teamOver).trans SameStances.recheckRegroup.standsBut).trans
      (SameStances.standsBut (.of_posts .postOnce))

/-- A group that exits: every lane of it has, and it is to give up its slot. -/
theorem State.groupExit_exited (hx : s.group? r = some x) :
    ((s.groupExit r).group? r).map Group.stance = some (x.without (BitVec.allOnes 32)).stance ∧
      .groupSlotRelease r ∈ (s.groupExit r).pending := by
  obtain ⟨t, ht, -⟩ := Option.bind_eq_some_iff.1 hx
  unfold State.groupExit
  rw [ht]
  refine ⟨?_, State.mem_postOnce _ _⟩
  rw [(SameStances.of_posts .postOnce).stances, SameStances.recheckRegroup.stances, State.group?_teamOver, SameStances.groupGone.stances,
    State.group?_exitLanes, hx]
  rfl

/-! ### The order of the lanes (07 R198) -/

theorem perm_insertKeyed (a : KeyedLane) (l : List KeyedLane) : (insertKeyed a l).Perm (a :: l) := by
  induction l with
  | nil => rfl
  | cons b l ih =>
    unfold insertKeyed
    split
    · rfl
    · exact (ih.cons b).trans (.swap a b l)

theorem keyOrder_trans {a b c : KeyedLane} (h : keyOrder a b) (k : keyOrder b c) : keyOrder a c := by
  unfold keyOrder at *
  omega

theorem pairwise_insertKeyed {a : KeyedLane} {l : List KeyedLane} (h : l.Pairwise keyOrder) : (insertKeyed a l).Pairwise keyOrder := by
  induction l with
  | nil => exact List.pairwise_singleton _ _
  | cons b l ih =>
    obtain ⟨hb, hl⟩ := List.pairwise_cons.1 h
    unfold insertKeyed
    split
    · next hlt =>
      have hab : keyOrder a b := by
        unfold keyOrder
        omega
      refine List.pairwise_cons.2 ⟨fun c hc => ?_, h⟩
      rcases List.mem_cons.1 hc with rfl | hc
      · exact hab
      · exact keyOrder_trans hab (hb c hc)
    · next hge =>
      have hba : keyOrder b a := by
        unfold keyOrder
        omega
      refine List.pairwise_cons.2 ⟨fun c hc => ?_, ih hl⟩
      rcases List.mem_cons.1 ((perm_insertKeyed a l).mem_iff.1 hc) with rfl | hc
      · exact hba
      · exact hb c hc

/-- Lanes inserted one after the other. -/
theorem foldl_insertKeyed (ls acc : List KeyedLane) (h : acc.Pairwise keyOrder) :
    (ls.foldl (fun acc a => insertKeyed a acc) acc).Perm (ls ++ acc) ∧ (ls.foldl (fun acc a => insertKeyed a acc) acc).Pairwise keyOrder := by
  induction ls generalizing acc with
  | nil => exact ⟨.refl _, h⟩
  | cons a ls ih =>
    obtain ⟨hp, hs⟩ := ih _ (pairwise_insertKeyed h)
    exact ⟨hp.trans (((perm_insertKeyed a acc).append_left ls).trans List.perm_middle), hs⟩

/-- The identities that `regroup` deals out are those of the live lanes in order of key, then identity. -/
theorem Team.sortedIds_eq (t : Team) :
    ∃ ls : List KeyedLane, ls.Perm (keyedLanes t) ∧ ls.Pairwise keyOrder ∧ t.sortedIds = ls.map (·.id) := by
  have hlanes : (t.arrived.flatMap fun g => match t.group? g with
      | none => []
      | some x => (lanesOf x.live).map fun l => (⟨t.regroupKeys.get 0 (32 * g + l) - 1, x.lidOf g l⟩ : KeyedLane)) = keyedLanes t := by
    unfold keyedLanes
    congr 1
    funext g
    cases t.group? g <;> rfl
  obtain ⟨hp, hs⟩ := foldl_insertKeyed (keyedLanes t) [] .nil
  refine ⟨_, hp.trans (by rw [List.append_nil]), hs, ?_⟩
  rw [← hlanes]
  rfl

/-! ### One group takes its lanes (07 R198, 05 R138) -/

/-- What a group becomes at `regroup` rests on where it stood, its live lanes aside. -/
theorem Group.stance_regrouped (hf : y.frontier = x.frontier) (hh : y.handler = x.handler) (hl : y.lid = x.lid)
    (hr : y.released = x.released) : (y.regrouped g ids).stance = (x.regrouped g ids).stance := by
  have hcur : y.current = x.current := by
    unfold Group.current
    rw [hf, hh]
  unfold Group.stance Group.regrouped
  simp only [hcur, hl, hr]

/-- A group has taken its identities: its lanes that end have left their ids, those that begin count on theirs. -/
def State.tookSlots (s : State) (r : GroupRef) (part : Nat) (ids : List Nat) (x : Group) : State :=
  ((lanesOf (lanesBelow ids.length &&& ~~~x.live)).foldl (fun s l => s.countRef part (x.hypOf l) true)
    (s.exitLanes r part (x.live &&& ~~~(lanesBelow ids.length)))).modGroup r (Group.regrouped r.grp ids)

theorem State.regroupOne_some (hx : s.group? r = some x) : s.regroupOne r part ids =
    if ids = [] then (s.tookSlots r part ids x).groupExit r else s.tookSlots r part ids x := by
  unfold State.regroupOne
  rw [hx]
  simp only [List.isEmpty_iff]
  rfl

theorem StandsBut.tookSlots : StandsBut r s (s.tookSlots r part ids x) := (StandsBut.exitLanes.trans (.countRefs _ _ _)).trans .modGroup

theorem State.group?_tookSlots : (s.tookSlots r part ids x).group? r =
    (s.group? r).map fun y => (y.without (x.live &&& ~~~(lanesBelow ids.length))).regrouped r.grp ids := by
  unfold State.tookSlots
  rw [State.group?_modGroup, State.group?_of_cores (State.countRefs_only x.hypOf true _).1, State.group?_exitLanes, Option.map_map]
  rfl

theorem StandsBut.regroupOne : StandsBut r s (s.regroupOne r part ids) := by
  cases hx : s.group? r with
  | none =>
    rw [State.regroupOne, hx]
    exact .refl
  | some x =>
    rw [State.regroupOne_some hx]
    split
    · exact StandsBut.tookSlots.trans .groupExit
    · exact .tookSlots

/-- A group takes its identities; one without any exits. -/
theorem State.regroupOne_stands (hx : (s.group? r).map Group.stance = some x.stance) :
    ((s.regroupOne r part ids).group? r).map Group.stance = some (x.regrouped r.grp ids).stance ∧
      (ids = [] → .groupSlotRelease r ∈ (s.regroupOne r part ids).pending) := by
  obtain ⟨y, hy, hyx⟩ := Option.map_eq_some_iff.1 hx
  have hgroup : (s.tookSlots r part ids y).group? r = some ((y.without (y.live &&& ~~~(lanesBelow ids.length))).regrouped r.grp ids) := by
    rw [State.group?_tookSlots, hy]
    rfl
  obtain ⟨hfrontier, hhandler, -, -, -, hlid, hreleased⟩ : y.frontier = x.frontier ∧ y.handler = x.handler ∧ y.lcur = x.lcur ∧
      y.wait = x.wait ∧ y.exited = x.exited ∧ y.lid = x.lid ∧ y.released = x.released := by
    simpa [Group.stance] using hyx
  have hstance : ((y.without (y.live &&& ~~~(lanesBelow ids.length))).regrouped r.grp ids).stance = (x.regrouped r.grp ids).stance :=
    Group.stance_regrouped hfrontier hhandler hlid hreleased
  rw [State.regroupOne_some hy]
  split
  · next hids =>
    subst hids
    obtain ⟨hexit, hrelease⟩ := State.groupExit_exited hgroup
    have hall : ~~~(lanesBelow ([] : List Nat).length) = BitVec.allOnes 32 := by decide
    exact ⟨hexit.trans (congrArg some ((Group.stance_without hall).trans hstance)), fun _ => hrelease⟩
  · next hids =>
    rw [hgroup]
    exact ⟨congrArg some hstance, fun h => absurd h hids⟩

/-! ### Every group takes its lanes -/

/-- The groups of a team take their identities, `ids j` the one that is `j`-th. -/
def State.regroupAll (s : State) (core slot part : Nat) (ids : Nat → List Nat) (gs : List (Nat × Nat)) : State :=
  gs.foldl (fun s gj => s.regroupOne ⟨core, slot, gj.1⟩ part (ids gj.2)) s

theorem State.regroupAll_others {ids : Nat → List Nat} {gs : List (Nat × Nat)} (h : ∀ gj ∈ gs, gj.1 ≠ g) :
    ((s.regroupAll core slot part ids gs).group? ⟨core, slot, g⟩).map Group.stance = (s.group? ⟨core, slot, g⟩).map Group.stance ∧
      ∀ i ∈ s.pending, i ∈ (s.regroupAll core slot part ids gs).pending := by
  refine List.foldlRecOn (motive := fun u : State => (u.group? ⟨core, slot, g⟩).map Group.stance =
    (s.group? ⟨core, slot, g⟩).map Group.stance ∧ ∀ i ∈ s.pending, i ∈ u.pending) _ _ ⟨rfl, fun _ hi => hi⟩ fun u ⟨hst, hp⟩ gj hgj => ?_
  have hone := StandsBut.regroupOne (s := u) (r := ⟨core, slot, gj.1⟩) (part := part) (ids := ids gj.2)
  exact ⟨(hone.others _ fun he => h gj hgj (congrArg GroupRef.grp he).symm).trans hst, fun i hi => hone.pending i (hp i hi)⟩

theorem State.regroupAll_stands {ids : Nat → List Nat} {gs : List (Nat × Nat)} {j : Nat} (hn : (gs.map Prod.fst).Nodup) (hm : (g, j) ∈ gs)
    (hx : (s.group? ⟨core, slot, g⟩).map Group.stance = some x.stance) :
    ((s.regroupAll core slot part ids gs).group? ⟨core, slot, g⟩).map Group.stance = some (x.regrouped g (ids j)).stance ∧
      (ids j = [] → .groupSlotRelease ⟨core, slot, g⟩ ∈ (s.regroupAll core slot part ids gs).pending) := by
  induction gs generalizing s with
  | nil => cases hm
  | cons a gs ih =>
    obtain ⟨ha, hn⟩ := List.nodup_cons.1 (List.map_cons ▸ hn)
    rcases List.mem_cons.1 hm with rfl | hm
    · obtain ⟨hst, hrelease⟩ := State.regroupOne_stands (part := part) (ids := ids j) hx
      obtain ⟨hothers, hp⟩ := State.regroupAll_others (s := s.regroupOne ⟨core, slot, g⟩ part (ids j)) (core := core) (slot := slot)
        (part := part) (ids := ids) (gs := gs) (g := g) fun gj hgj he => ha (List.mem_map.2 ⟨gj, hgj, he⟩)
      exact ⟨hothers.trans hst, fun hnone => hp _ (hrelease hnone)⟩
    · have hne : g ≠ a.1 := fun he => ha (he ▸ List.mem_map_of_mem hm)
      refine ih hn hm ((StandsBut.regroupOne.others _ fun he => hne ?_).trans hx)
      exact congrArg GroupRef.grp he

/-! ### The event -/

theorem occurs_regroupComplete_early {t : Team} (ht : (s.core core).team? slot = some t) (h : t.allArrived = false) :
    Occurs (.regroupComplete core slot) s s := by
  show execRegroupComplete core slot s = _
  unfold execRegroupComplete
  simp only [ht, h, Bool.not_false, or_true, if_true]
  rfl

/-- The lane slots of a group as `regroup` leaves them. -/
theorem Group.lidOf_regrouped (hlen : ids.length ≤ 32) {l i : Nat} (h : ids[l]? = some i) : (x.regrouped g ids).lidOf g l = i := by
  have hl : l < 32 := by
    have := (List.getElem?_eq_some_iff.1 h).1
    omega
  have hget : (x.regrouped g ids).lid.get 0 l = if i = 32 * g + l then 0 else i + 1 := by
    have hall := Tbl.get_foldl_set_some 0 (fun l => (ids[l]?).map fun i => if i = 32 * g + l then 0 else i + 1) (List.range 32) x.lid l
    rw [if_pos (List.mem_range.2 hl), h] at hall
    refine Eq.trans ?_ hall
    unfold Group.regrouped
    dsimp only
    congr 2
    funext t l
    cases ids[l]? <;> rfl
  unfold Group.lidOf
  rw [hget]
  split
  · next h0 =>
    split at h0
    · next hi => exact hi.symm
    · cases h0
  · next n hn =>
    split at hn
    · cases hn
    · exact (Nat.succ.inj hn).symm

/-- What the identities that a group takes make of it. -/
theorem Group.of_stance_regrouped (h : y.stance = (x.regrouped g ids).stance) (hlen : ids.length ≤ 32) :
    y.exited = ~~~(lanesBelow ids.length) ∧ (ids = [] → y.frontier = []) ∧
      (ids ≠ [] → y.wait = .none ∧ y.handler = none ∧ y.lcur = 32 ∧ (∀ l i, ids[l]? = some i → y.lidOf g l = i) ∧
        ∀ e, x.current = some e → ∃ f, y.frontier = [f] ∧ f.pc = e.pc + 4 ∧ f.mask = lanesBelow ids.length ∧ f.gmask = 0 ∧ f.pri = e.pri) := by
  obtain ⟨hfrontier, hhandler, hlcur, hwait, hexited, hlid, -⟩ : y.frontier = (x.regrouped g ids).frontier ∧
      y.handler = (x.regrouped g ids).handler ∧ y.lcur = (x.regrouped g ids).lcur ∧ y.wait = (x.regrouped g ids).wait ∧
      y.exited = (x.regrouped g ids).exited ∧ y.lid = (x.regrouped g ids).lid ∧ y.released = (x.regrouped g ids).released := by
    simpa only [Group.stance, Prod.mk.injEq] using h
  refine ⟨hexited, fun hnone => ?_, fun hsome => ⟨hwait, hhandler, hlcur, fun l i hi => ?_, fun e he => ?_⟩⟩
  · rw [hfrontier, hnone]
    rfl
  · rw [← Group.lidOf_regrouped (x := x) (g := g) hlen hi]
    unfold Group.lidOf
    rw [hlid]
  · refine ⟨regroupEntry ids.length e, ?_, rfl, rfl, rfl, rfl⟩
    rw [hfrontier]
    unfold Group.regrouped
    dsimp only
    rw [if_neg (by simpa using hsome), he]
    rfl

/-- Once every live group has arrived, its lanes are dealt out in order. -/
theorem occursWith_regroupComplete {t : Team} (ht : (s.core core).team? slot = some t) (hk : t.regroupKeys ≠ [])
    (h : t.allArrived = true) : OccursWith (.regroupComplete core slot) s fun u =>
      ∃ ls : List KeyedLane, ls.Perm (keyedLanes t) ∧ ls.Pairwise keyOrder ∧ ∀ j g x, t.arrived[j]? = some g → t.group? g = some x →
        let ids := ((ls.map (·.id)).drop (32 * j)).take 32
        ∃ y, u.group? ⟨core, slot, g⟩ = some y ∧ y.exited = ~~~(lanesBelow ids.length) ∧
          (ids = [] → y.frontier = [] ∧ .groupSlotRelease ⟨core, slot, g⟩ ∈ u.pending) ∧
          (ids ≠ [] → y.wait = .none ∧ y.handler = none ∧ y.lcur = 32 ∧ (∀ l i, ids[l]? = some i → y.lidOf g l = i) ∧
            ∀ e, x.current = some e → ∃ f, y.frontier = [f] ∧ f.pc = e.pc + 4 ∧ f.mask = lanesBelow ids.length ∧ f.gmask = 0 ∧
              f.pri = e.pri) := by
  obtain ⟨ls, hperm, hsorted, hids⟩ := t.sortedIds_eq
  let s1 := s.modTeam ⟨core, slot, 0⟩ fun t => { t with regroupKeys := [] }
  let gs := List.zip t.arrived (List.range t.arrived.length)
  have hexec : exec (.regroupComplete core slot) s = happened
      (s1.regroupAll core slot t.bind.part (fun j => ((ls.map (·.id)).drop (32 * j)).take 32) gs) := by
    show execRegroupComplete core slot s = _
    unfold execRegroupComplete
    simp only [ht, List.isEmpty_eq_false_iff.2 hk, h, Bool.not_true, Bool.false_eq_true, or_self, if_false, hids]
    rfl
  have hfst : gs.map Prod.fst = t.arrived := List.map_fst_zip (by rw [List.length_range])
  have hnodup : (gs.map Prod.fst).Nodup := hfst ▸ (List.nodup_range.filter _)
  refine occursWith_of_happened hexec ⟨ls, hperm, hsorted, fun j g x hj hx => ?_⟩
  have hmem : (g, j) ∈ gs := by
    have hjlt := (List.getElem?_eq_some_iff.1 hj).1
    exact List.mem_of_getElem? (List.getElem?_zip_eq_some.2 ⟨hj, List.getElem?_range hjlt⟩)
  have hs1 : (s1.group? ⟨core, slot, g⟩).map Group.stance = some x.stance := by
    have hsame : SameStances s s1 := .modTeam (fun _ => rfl) fun _ _ => rfl
    rw [hsame.stances, State.group?, State.team?, ht, Option.bind_some, hx]
    rfl
  obtain ⟨hst, hrelease⟩ := State.regroupAll_stands (part := t.bind.part)
    (ids := fun j => ((ls.map (·.id)).drop (32 * j)).take 32) hnodup hmem hs1
  obtain ⟨y, hy, hyx⟩ := Option.map_eq_some_iff.1 hst
  obtain ⟨hexited, hnone, hsome⟩ := Group.of_stance_regrouped hyx (by simp)
  exact ⟨y, hy, hexited, fun he => ⟨hnone he, hrelease he⟩, hsome⟩

end

end Machine

end Sys2Proof
end

section
/-! # What Chihoat's writes leave (O53)

A write of Chihoat's to a partition's memory may evict versions at its home, for which a partition may note a request or a wait; cores, launches
and communicators are none of it (`Stored`). -/

namespace Sys2Proof.Machine

section
variable {s t u : State} {part tag line key n k : Nat} {i : Instr}

/-- A partition but for what it has asked of its hypothesis controller. -/
def Part.bare (p : Part) : Part := { p with reqs := [], capWaits := none }

/-- Bytes may have been written in memory; no core, launch or communicator has changed, of partitions only what they ask of the hypothesis
controller, and no event is lost. -/
structure Stored (s t : State) : Prop where
  cores : t.cores = s.cores
  launches : t.launches = s.launches
  comms : t.comms = s.comms
  parts : ∀ n, (t.part? n).map Part.bare = (s.part? n).map Part.bare
  pending : ∀ i ∈ s.pending, i ∈ t.pending

theorem Stored.refl : Stored s s := ⟨rfl, rfl, rfl, fun _ => rfl, fun _ h => h⟩

theorem Stored.trans (h : Stored s t) (k : Stored t u) : Stored s u :=
  ⟨k.cores.trans h.cores, k.launches.trans h.launches, k.comms.trans h.comms, fun n => (k.parts n).trans (h.parts n),
    fun i hi => k.pending i (h.pending i hi)⟩

theorem Stored.foldl {α : Type} {f : State → α → State} (l : List α) (hf : ∀ u a, Stored u (f u a)) : Stored s (l.foldl f s) :=
  List.foldlRecOn (motive := fun t => Stored s t) _ _ .refl fun t h a _ => h.trans (hf t a)

theorem Stored.ite {p : Prop} [Decidable p] (h : Stored s t) (k : Stored s u) : Stored s (if p then t else u) := by
  split
  · exact h
  · exact k

theorem Stored.of_posts (h : OnlyPosts s t) : Stored s t := by
  obtain ⟨ps, rfl⟩ := h
  exact ⟨rfl, rfl, rfl, fun _ => rfl, fun i hi => List.mem_append_left _ hi⟩

/-- Memory, tags, versions, free choices and the module's registers are none of it. -/
theorem Stored.memory {hbm hostMem remote : Mem} {psn : List Nat} {llc : Tbl (Option LlcTag)} {versions : Tbl (Option Version)} {m : Module} :
    Stored s { s with hbm := hbm, hbmPsn := psn, hostMem := hostMem, remote := remote, llc := llc, versions := versions, modl := m,
                      choices := n } :=
  ⟨rfl, rfl, rfl, fun _ => rfl, fun _ h => h⟩

theorem Stored.modPart {f : Part → Part} (hf : ∀ p, (f p).bare = p.bare) : Stored s (s.modPart part f) where
  cores := State.modPart_cores ..
  launches := State.modPart_launches ..
  comms := State.modPart_comms ..
  parts n := by
    by_cases h : n = part
    · subst h
      rw [State.part?_modPart, Option.map_map]
      exact congrArg (Option.map · _) (funext hf)
    · rw [State.part?_modPart_ne h]
  pending i hi := by rwa [State.modPart_pending]

/-! ### Room in the LLC (05 R153, R155) -/

theorem Stored.hypcap : Stored s (s.hypcap part line tag) := by
  unfold State.hypcap
  split
  · exact .refl
  · split
    · split
      · exact .refl
      · split
        · exact .refl
        · refine Stored.trans (.modPart fun _ => ?_) (.of_posts .postOnce)
          rfl
    · split
      · exact .refl
      · refine Stored.trans (.modPart fun _ => ?_) .memory
        rfl

theorem Stored.evictVersion : Stored s ((s.evictVersion key).elim id id) := by
  unfold State.evictVersion
  dsimp only
  split
  · exact .memory
  · split
    · exact .memory
    · split
      · exact .hypcap
      · exact .memory

theorem Stored.sendInvalidations {w : LineWrite} {x : Nat} : Stored s (s.sendInvalidations w x) :=
  .foldl _ fun _ _ => .ite .refl (.of_posts .post)

theorem Stored.evictRoot : Stored s (s.evictRoot key) := Stored.sendInvalidations.trans .memory

theorem Stored.llcInsert {way : Nat} : Stored s (s.llcInsert part tag line way) := .memory

theorem Stored.llcAlloc : Stored s ((s.llcAlloc part tag line).elim id id) := by
  have hchoice : Stored s { s with choices := s.choices + 1 } := .memory
  unfold State.llcAlloc
  dsimp only
  split
  · exact .refl
  · split
    · exact .llcInsert
    · split
      · exact hchoice.trans (Stored.evictRoot.trans .llcInsert)
      · split
        · exact .refl
        · next key x _ =>
          have hev := hchoice.trans (Stored.evictVersion (key := key))
          split
          · next h => exact elim_of_inr h ▸ hev
          · next h =>
            rw [elim_of_inl h] at hev
            exact hev.trans .llcInsert

theorem Stored.holdRoot : Stored s (s.holdRoot part line) := by
  have h := Stored.llcAlloc (s := s) (part := part) (tag := 0) (line := line)
  unfold State.holdRoot
  split
  · next halloc => exact elim_of_inl halloc ▸ h
  · next halloc => exact elim_of_inr halloc ▸ h

/-! ### Writes (03 R85, 06 R169) -/

theorem Stored.selfInvalidate {die : Nat} {w : LineWrite} : Stored s (s.selfInvalidate die w) := .ite (.of_posts .post) .refl

theorem Stored.wakeRings {m : LineMask} {hyp : BitVec 12} : Stored s (s.wakeRings line m hyp) := by
  refine .foldl _ fun u i => ?_
  split
  · exact .refl
  · exact .ite .refl (.of_posts .post)

theorem Stored.rootApply {x : LineBytes} {clock : List Nat} {except : Nat} {psn : Bool} :
    Stored s (s.rootApply line x clock except part psn) := by
  unfold State.rootApply
  dsimp only
  refine Stored.trans (Stored.trans (Stored.trans ?_ .sendInvalidations) .selfInvalidate) .wakeRings
  exact Stored.holdRoot.trans .memory

theorem Stored.rootWrite {va x : Nat} : Stored s (s.rootWrite part n va x) := by
  unfold State.rootWrite
  split
  · exact .refl
  · dsimp only
    split
    · exact .rootApply
    · split
      · unfold State.forwardedWrite
        split <;> exact .memory
      · exact .refl
      · exact .memory

theorem Stored.rootStore {va x : Nat} : Stored s (s.rootStore part n va x) := by
  unfold State.rootStore
  exact .ite .rootWrite (Stored.rootWrite.trans .rootWrite)

end

end Sys2Proof.Machine
end

section
/-! # Partition reset (O53)

Every part of a reset keeps what the parts before it have done (`WindsDown`): a group that is gone stays gone, a queue that is empty stays empty,
a launch that has failed has failed, and of other partitions nothing changes but what they ask of their hypothesis controllers. -/

namespace Sys2Proof

section
variable {α : Type} {d : α} {t : Tbl α} {k : Nat × α} {n : Nat} {x : α}

theorem Tbl.mem_erase (h : k ∈ t.erase n) : k ∈ t ∧ k.1 ≠ n := by
  induction t with
  | nil => cases h
  | cons a t ih =>
    unfold Tbl.erase at h
    split at h
    · exact ⟨List.mem_cons_of_mem _ (ih h).1, (ih h).2⟩
    · next hne =>
      rcases List.mem_cons.1 h with rfl | h
      · exact ⟨List.mem_cons_self, hne⟩
      · exact ⟨List.mem_cons_of_mem _ (ih h).1, (ih h).2⟩

theorem Tbl.mem_put (h : k ∈ t.put n x) : k = (n, x) ∨ k ∈ t := by
  induction t with
  | nil => exact .inl (List.mem_singleton.1 h)
  | cons a t ih =>
    unfold Tbl.put at h
    split at h
    · exact (List.mem_cons.1 h).imp_right id
    · rcases List.mem_cons.1 h with rfl | h
      · exact .inr List.mem_cons_self
      · exact (ih h).imp_right (List.mem_cons_of_mem _)

/-- The key of an entry after one key was written. -/
theorem Tbl.key_of_mem_set [DecidableEq α] (h : k ∈ t.set d n x) : k.1 = n ∨ k ∈ t := by
  unfold Tbl.set at h
  split at h
  · exact .inr (Tbl.mem_erase h).1
  · exact (Tbl.mem_put h).imp (congrArg Prod.fst ·) fun hm => (Tbl.mem_erase hm).1

/-- A key that is written with what an unlisted key reads as has no entry. -/
theorem Tbl.of_mem_unset [DecidableEq α] (h : k ∈ t.set d n d) : k ∈ t ∧ k.1 ≠ n := by
  unfold Tbl.set at h
  rw [if_pos rfl] at h
  exact Tbl.mem_erase h

end

/-- What one element of a list brings about holds after all of them, if every other element keeps it. -/
theorem foldl_reaches {α β : Type} {P I : β → Prop} {f : β → α → β} {l : List α} {a : α} {b : β} (ha : a ∈ l) (h0 : I b)
    (hI : ∀ u, ∀ x ∈ l, I u → I (f u x)) (hset : ∀ u, I u → P (f u a)) (hkeep : ∀ u, ∀ x ∈ l, I u → P u → P (f u x)) : P (l.foldl f b) := by
  induction l generalizing b with
  | nil => cases ha
  | cons x l ih =>
    have h1 := hI b x List.mem_cons_self h0
    rcases List.mem_cons.1 ha with rfl | ha
    · exact (List.foldlRecOn (motive := fun u => I u ∧ P u) l f ⟨h1, hset b h0⟩ fun u ⟨hi, hp⟩ y hy =>
        ⟨hI u y (List.mem_cons_of_mem _ hy) hi, hkeep u y (List.mem_cons_of_mem _ hy) hi hp⟩).2
    · exact ih ha h1 (fun u y hy => hI u y (List.mem_cons_of_mem _ hy)) fun u y hy => hkeep u y (List.mem_cons_of_mem _ hy)

namespace Machine

section
variable {s t u : State} {part c slot : Nat} {r : GroupRef} {i : Instr} {p : Part} {x y : Group}

/-- A group that has been killed, or that has exited and given up its slot. -/
structure Group.Gone (x : Group) : Prop where
  frontier : x.frontier = []
  handler : x.handler = none
  released : x.released = true
  exited : x.exited = BitVec.allOnes 32

theorem Group.Gone.of_stance (h : x.Gone) (he : y.stance = x.stance) : y.Gone := by
  obtain ⟨hfrontier, hhandler, -, -, hexited, -, hreleased⟩ : y.frontier = x.frontier ∧ y.handler = x.handler ∧ y.lcur = x.lcur ∧
      y.wait = x.wait ∧ y.exited = x.exited ∧ y.lid = x.lid ∧ y.released = x.released := by
    simpa [Group.stance] using he
  exact ⟨hfrontier.trans h.frontier, hhandler.trans h.handler, hreleased.trans h.released, hexited.trans h.exited⟩

/-- The share of the module that a partition has (21 R459, R460). -/
def Part.share (p : Part) : List Nat × BitVec 16 × BitVec 16 × Nat × Nat × Nat := (p.units, p.l2ways, p.llcways, p.hbmBase, p.hbmSize, p.budget)

/-- A launch queue holds no packet. -/
def LQueue.drained (k : LQueue) : Prop := k.cons = k.prod

/-- What every part of a partition's reset keeps. -/
structure WindsDown (part : Nat) (s t : State) : Prop where
  groups : ∀ r x, s.group? r = some x → ∃ y, t.group? r = some y ∧ (x.Gone → y.Gone)
  binds : ∀ r, (t.team? r).map (·.bind) = (s.team? r).map (·.bind)
  others : ∀ k, k ≠ part → (t.part? k).map Part.bare = (s.part? k).map Part.bare
  own : ∀ p, s.part? part = some p → ∃ q, t.part? part = some q ∧ q.share = p.share ∧ ∀ n, (p.lq n).drained → (q.lq n).drained
  launches : ∀ id l, s.launch? id = some l → ∃ m, t.launch? id = some m ∧ (l.status = 6 → m.status = 6)
  comms : t.comms = s.comms
  completes : ∀ id, .launchComplete id ∈ s.pending → .launchComplete id ∈ t.pending

theorem WindsDown.refl : WindsDown part s s :=
  ⟨fun _ x h => ⟨x, h, id⟩, fun _ => rfl, fun _ _ => rfl, fun p h => ⟨p, h, rfl, fun _ => id⟩, fun _ l h => ⟨l, h, id⟩, rfl, fun _ => id⟩

theorem WindsDown.trans (h : WindsDown part s t) (k : WindsDown part t u) : WindsDown part s u where
  groups r x hx := by
    obtain ⟨y, hy, hxy⟩ := h.groups r x hx
    obtain ⟨z, hz, hyz⟩ := k.groups r y hy
    exact ⟨z, hz, hyz ∘ hxy⟩
  binds r := (k.binds r).trans (h.binds r)
  others n hn := (k.others n hn).trans (h.others n hn)
  own p hp := by
    obtain ⟨q, hq, hpq, hlq⟩ := h.own p hp
    obtain ⟨v, hv, hqv, hlv⟩ := k.own q hq
    exact ⟨v, hv, hqv.trans hpq, fun n hn => hlv n (hlq n hn)⟩
  launches id l hl := by
    obtain ⟨m, hm, hlm⟩ := h.launches id l hl
    obtain ⟨n, hn, hmn⟩ := k.launches id m hm
    exact ⟨n, hn, hmn ∘ hlm⟩
  comms := k.comms.trans h.comms
  completes id hid := k.completes id (h.completes id hid)

theorem WindsDown.foldl {α : Type} {f : State → α → State} (l : List α) (hf : ∀ u, ∀ a ∈ l, WindsDown part s u → WindsDown part u (f u a)) :
    WindsDown part s (l.foldl f s) :=
  List.foldlRecOn (motive := fun t => WindsDown part s t) _ _ .refl fun t h a ha => h.trans (hf t a ha h)

theorem WindsDown.group_stance (h : ∀ r, (t.group? r).map Group.stance = (s.group? r).map Group.stance) (hx : s.group? r = some x) :
    ∃ y, t.group? r = some y ∧ (x.Gone → y.Gone) := by
  obtain ⟨y, hy, he⟩ := Option.map_eq_some_iff.1 ((h r).trans (congrArg (Option.map Group.stance) hx))
  exact ⟨y, hy, fun hg => hg.of_stance he⟩

theorem SameStances.windsDown (h : SameStances s t) : WindsDown part s t where
  groups _ _ hx := WindsDown.group_stance h.stances hx
  binds := h.binds
  others k _ := by
    rw [h.rest]
    rfl
  own p hp := ⟨p, by rw [h.rest]; exact hp, rfl, fun _ => id⟩
  launches _ l hl := ⟨l, by rw [h.rest]; exact hl, id⟩
  comms := by rw [h.rest]
  completes id := h.pending _

theorem Stored.windsDown (h : Stored s t) : WindsDown part s t where
  groups _ x hx := ⟨x, (State.group?_of_cores h.cores).trans hx, id⟩
  binds r := by rw [State.team?_of_cores h.cores]
  others k _ := h.parts k
  own p hp := by
    obtain ⟨q, hq, he⟩ := Option.map_eq_some_iff.1 ((h.parts part).trans (congrArg (Option.map Part.bare) hp))
    have hlq : ∀ n, q.lq n = p.lq n := fun n => (congrArg (Part.lq · n) he :)
    exact ⟨q, hq, (congrArg Part.share he :), fun n hn => hlq n ▸ hn⟩
  launches _ l hl := ⟨l, by unfold State.launch?; rw [h.launches]; exact hl, id⟩
  comms := h.comms
  completes id := h.pending _

theorem WindsDown.of_posts (h : OnlyPosts s t) : WindsDown part s t := (Stored.of_posts h).windsDown

/-- A change of the partition itself. -/
theorem WindsDown.modPart {f : Part → Part} (hs : ∀ p, (f p).share = p.share) (hq : ∀ p n, (p.lq n).drained → ((f p).lq n).drained) :
    WindsDown part s (s.modPart part f) where
  groups _ x hx := ⟨x, (State.group?_of_cores (State.modPart_cores ..)).trans hx, id⟩
  binds r := by rw [State.team?_of_cores (State.modPart_cores ..)]
  others k hk := by rw [State.part?_modPart_ne hk]
  own p hp := ⟨f p, State.part?_modPart_some hp, hs p, hq p⟩
  launches _ l hl := ⟨l, by unfold State.launch?; rw [State.modPart_launches]; exact hl, id⟩
  comms := State.modPart_comms ..
  completes id hid := by rwa [State.modPart_pending]

theorem State.launch?_modLaunch_ne {k j : Nat} {f : Launch → Launch} (h : k ≠ j) : (s.modLaunch j f).launch? k = s.launch? k := by
  unfold State.modLaunch
  split
  · rfl
  · next l _ => exact Tbl.get_set_ne none s.launches j (some (f l)) k h

/-- A change of a launch that leaves one that has failed with a reset as it is. -/
theorem WindsDown.modLaunch {j : Nat} {f : Launch → Launch} (hf : ∀ l, l.status = 6 → (f l).status = 6) :
    WindsDown part s (s.modLaunch j f) where
  groups _ x hx := ⟨x, (State.group?_of_cores (State.modLaunch_cores ..)).trans hx, fun h => h⟩
  binds r := by rw [State.team?_of_cores (State.modLaunch_cores ..)]
  others k _ := by rw [State.part?_of_parts (State.modLaunch_parts ..)]
  own p hp := ⟨p, (State.part?_of_parts (State.modLaunch_parts ..) _).trans hp, rfl, fun _ h => h⟩
  launches k l hl := by
    by_cases hk : k = j
    · subst hk
      exact ⟨f l, by rw [State.launch?_modLaunch, hl]; rfl, hf l⟩
    · exact ⟨l, (State.launch?_modLaunch_ne hk).trans hl, id⟩
  comms := State.modLaunch_comms ..
  completes k hk := by rwa [State.modLaunch_pending]

/-- A change of some group that is gone only if it is gone already. -/
theorem WindsDown.modGroup {f : Group → Group} (hf : ∀ x, x.Gone → (f x).Gone) : WindsDown part s (s.modGroup r f) where
  groups q x hx := by
    by_cases hq : q = r
    · subst hq
      exact ⟨f x, by rw [State.group?_modGroup, hx]; rfl, hf x⟩
    · exact ⟨x, (State.group?_modGroup_ne hq).trans hx, id⟩
  binds q := State.bind_modTeam (fun t => t.bind_modGroup _ _) r q
  others _ _ := rfl
  own p hp := ⟨p, hp, rfl, fun _ => id⟩
  launches _ l hl := ⟨l, hl, id⟩
  comms := rfl
  completes _ := id

/-! ### A team is killed (15 R416) -/

theorem Part.freeIds_eq (p : Part) : ∃ h, p.freeIds = { p with hyp := h } :=
  List.foldlRecOn (motive := fun q : Part => ∃ h, q = { p with hyp := h }) _ _ ⟨_, rfl⟩ fun _ hq _ _ =>
    List.foldlRecOn (motive := fun u : Part => ∃ h, u = { p with hyp := h }) _ _ hq fun u hu ke _ => by
      obtain ⟨h, rfl⟩ := hu
      exact ⟨_, rfl⟩

theorem WindsDown.countRef {id : Nat} {up : Bool} : WindsDown part s (s.countRef part id up) := by
  have hcount : ∀ p : Part, ∃ h, (if up then p.modEntry id fun e => { e with refcnt := e.refcnt + 1 }
      else (p.modEntry id fun e => { e with refcnt := e.refcnt - 1 }).freeIds) = { p with hyp := h } := fun p => by
    split
    · exact ⟨_, rfl⟩
    · obtain ⟨h, he⟩ := Part.freeIds_eq (p.modEntry id fun e => { e with refcnt := e.refcnt - 1 })
      exact ⟨h, he⟩
  unfold State.countRef
  split
  · exact .refl
  · refine .modPart (fun p => ?_) fun p n hn => ?_
    · obtain ⟨h, he⟩ := hcount p
      rw [he]
      rfl
    · obtain ⟨h, he⟩ := hcount p
      rw [he]
      exact hn

theorem WindsDown.exitLanes {m : Lanes} : WindsDown part s (s.exitLanes r part m) := by
  unfold State.exitLanes
  split
  · exact .refl
  · refine WindsDown.trans (.foldl _ fun _ _ _ _ => .countRef) (.modGroup fun x hx => ?_)
    exact ⟨hx.frontier, hx.handler, hx.released, by rw [hx.exited, BitVec.allOnes_or]⟩

theorem Group.exited_fretDowns (x : Group) (fs : List (Option Nat)) : (fs.foldl (fun x f => x.fretDown f 0) x).exited = x.exited :=
  List.foldlRecOn (motive := fun y : Group => y.exited = x.exited) _ _ rfl fun y hy f _ => by
    cases f <;> exact hy

theorem Group.exited_killed (x : Group) : x.killed.exited = x.exited := x.exited_fretDowns _

theorem Group.gone_killed (h : x.exited = BitVec.allOnes 32) : x.killed.Gone := ⟨rfl, rfl, rfl, x.exited_killed.trans h⟩

/-- The groups of a slot. -/
def Team.refs (t : Team) (c slot : Nat) : List GroupRef := t.groups.map fun g => ⟨c, slot, g.1⟩

/-- Every group of a team has left, with all its lanes. -/
def State.groupsLeft (s : State) (part : Nat) (gs : List GroupRef) : State :=
  gs.foldl (fun s r => (s.exitLanes r part (BitVec.allOnes 32)).groupGone r false) s

/-- Groups are discarded. -/
def State.groupsKilled (s : State) (gs : List GroupRef) : State := gs.foldl (fun s r => s.modGroup r Group.killed) s

theorem WindsDown.groupsLeft {gs : List GroupRef} : WindsDown part s (s.groupsLeft part gs) :=
  .foldl _ fun _ _ _ _ => WindsDown.exitLanes.trans SameStances.groupGone.windsDown

theorem WindsDown.groupsKilled {gs : List GroupRef} : WindsDown part s (s.groupsKilled gs) :=
  .foldl _ fun _ _ _ _ => .modGroup fun _ hx => Group.gone_killed hx.exited

/-- What is left of a killed team's slot: its cluster knows, its queues, words and chains stop, its launch has a status. -/
def State.slotKilled (s : State) (c slot : Nat) (t : Team) (st : BitVec 8) : State :=
  (((((s.setMember t 2 c slot).modCore c fun k => (k.closeQueues slot).withdraw slot).modTeam ⟨c, slot, 0⟩ fun t =>
    { t with regroupKeys := [] }).launchStatus t.bind.launch st).postOnce (.slotRelease c slot))

theorem WindsDown.launchStatus {j : Nat} {st : BitVec 8} : WindsDown part s (s.launchStatus j st) := by
  refine .modLaunch fun l hl => ?_
  rw [hl]
  rfl

theorem WindsDown.slotKilled {tm : Team} {st : BitVec 8} : WindsDown part s (s.slotKilled c slot tm st) := by
  let s1 := s.setMember tm 2 c slot
  let s2 := s1.modCore c fun k => (k.closeQueues slot).withdraw slot
  have hmember : WindsDown part s s1 := .modLaunch fun _ => id
  have hcore : SameStances s1 s2 := .modCore fun _ => rfl
  have hteam : SameStances s2 (s2.modTeam ⟨c, slot, 0⟩ fun t => { t with regroupKeys := [] }) := .modTeam (fun _ => rfl) fun _ _ => rfl
  exact ((hmember.trans (hcore.trans hteam).windsDown).trans .launchStatus).trans (.of_posts .postOnce)

theorem State.killTeam_some {tm : Team} {st : BitVec 8} (h : (s.core c).team? slot = some tm) :
    s.killTeam c slot st = ((s.groupsLeft tm.bind.part (tm.refs c slot)).groupsKilled (tm.refs c slot)).slotKilled c slot tm st := by
  unfold State.killTeam
  rw [h]
  rfl

theorem WindsDown.killTeam {tm : Team} {st : BitVec 8} (h : (s.core c).team? slot = some tm) :
    WindsDown tm.bind.part s (s.killTeam c slot st) := by
  rw [State.killTeam_some h]
  exact (WindsDown.groupsLeft.trans .groupsKilled).trans .slotKilled

/-- Every lane of a group has exited. -/
def State.exitedAt (s : State) (r : GroupRef) : Prop := ∃ x, s.group? r = some x ∧ x.exited = BitVec.allOnes 32

theorem State.exitedAt_of_stance (h : (t.group? r).map Group.stance = (s.group? r).map Group.stance) (hs : s.exitedAt r) : t.exitedAt r := by
  obtain ⟨x, hx, he⟩ := hs
  obtain ⟨y, hy, hst⟩ := Option.map_eq_some_iff.1 (h.trans (congrArg (Option.map Group.stance) hx))
  exact ⟨y, hy, (congrArg (fun st => st.2.2.2.2.1) hst).trans he⟩

theorem State.exitedAt_exitLanes {q : GroupRef} {m : Lanes} (h : s.exitedAt r) : (s.exitLanes q part m).exitedAt r := by
  by_cases hq : r = q
  · subst hq
    obtain ⟨x, hx, he⟩ := h
    refine ⟨_, by rw [State.group?_exitLanes, hx]; rfl, ?_⟩
    exact (congrArg (· ||| m) he).trans BitVec.allOnes_or
  · exact State.exitedAt_of_stance (StandsBut.exitLanes.others r hq) h

theorem State.exitedAt_groupsLeft {gs : List GroupRef} (hr : r ∈ gs) (hx : s.group? r = some x) : (s.groupsLeft part gs).exitedAt r := by
  refine foldl_reaches (P := fun u : State => u.exitedAt r) (I := fun u : State => ∃ y, u.group? r = some y) hr ⟨x, hx⟩
    (fun u q _ ⟨y, hy⟩ => ?_) (fun u ⟨y, hy⟩ => ?_) fun u q _ _ hu => State.exitedAt_of_stance (SameStances.groupGone.stances r) (State.exitedAt_exitLanes hu)
  · obtain ⟨z, hz, -⟩ := (WindsDown.exitLanes (part := part).trans SameStances.groupGone.windsDown).groups r y hy
    exact ⟨z, hz⟩
  · refine State.exitedAt_of_stance (SameStances.groupGone.stances r) ⟨_, by rw [State.group?_exitLanes, hy]; rfl, ?_⟩
    exact BitVec.or_allOnes

/-- A group is gone. -/
def State.goneAt (s : State) (r : GroupRef) : Prop := ∃ x, s.group? r = some x ∧ x.Gone

theorem WindsDown.goneAt (h : WindsDown part s t) (hr : s.goneAt r) : t.goneAt r := by
  obtain ⟨x, hx, hg⟩ := hr
  obtain ⟨y, hy, hxy⟩ := h.groups r x hx
  exact ⟨y, hy, hxy hg⟩

theorem State.goneAt_groupsKilled {gs : List GroupRef} (hr : r ∈ gs) (h : s.exitedAt r) : (s.groupsKilled gs).goneAt r := by
  have hkill : ∀ (u : State) q, WindsDown 0 u (u.modGroup q Group.killed) := fun _ _ => .modGroup fun _ hx => Group.gone_killed hx.exited
  refine foldl_reaches (P := fun u : State => u.goneAt r) (I := fun u : State => u.exitedAt r) hr h (fun u q _ ⟨x, hx, he⟩ => ?_)
    (fun u ⟨x, hx, he⟩ => ⟨x.killed, by rw [State.group?_modGroup, hx]; rfl, Group.gone_killed he⟩) fun u q _ _ hg => (hkill u q).goneAt hg
  by_cases hq : r = q
  · subst hq
    exact ⟨x.killed, by rw [State.group?_modGroup, hx]; rfl, x.exited_killed.trans he⟩
  · exact ⟨x, (State.group?_modGroup_ne hq).trans hx, he⟩

/-- Every group of a killed team is gone. -/
theorem State.goneAt_killTeam {tm : Team} {g : Nat} {st : BitVec 8} (h : (s.core c).team? slot = some tm) (hx : tm.group? g = some x) :
    (s.killTeam c slot st).goneAt ⟨c, slot, g⟩ := by
  have hmem : (⟨c, slot, g⟩ : GroupRef) ∈ tm.refs c slot :=
    List.mem_map.2 ⟨(g, some x), Tbl.mem_of_get hx (by simp), rfl⟩
  have hgroup : s.group? ⟨c, slot, g⟩ = some x := by
    rw [State.group?, State.team?, h]
    exact hx
  have hgone := State.goneAt_groupsKilled hmem (State.exitedAt_groupsLeft (part := tm.bind.part) hmem hgroup)
  rw [State.killTeam_some h]
  exact (WindsDown.slotKilled (part := tm.bind.part)).goneAt hgone

end

end Machine

end Sys2Proof
end

section
/-! # The parts of a partition's reset (O53)

What each part brings about: queues are drained, launches fail, teams are killed, barriers, frames and versions are gone. -/

namespace Sys2Proof.Machine

section
variable {s t u : State} {part c slot q d n : Nat} {p : Part}

/-! ### Packets and launches (15 R419) -/

theorem LQueue.drained_set {f : LQueue → LQueue} {qs : Tbl LQueue} (hf : ∀ k, (f k).drained) (h : (qs.get LQueue.empty n).drained) :
    ((qs.set LQueue.empty q (f (qs.get LQueue.empty q))).get LQueue.empty n).drained := by
  by_cases hn : n = q
  · rw [hn, Tbl.get_set]
    exact hf _
  · rwa [Tbl.get_set_ne _ _ _ _ _ hn]

/-- The launches among packets complete with STATUS 6. -/
def State.packetsFailed (s : State) (part : Nat) (ps : List (BitVec 512)) : State :=
  ps.foldl (fun s x =>
    if packetType x = 1 ∧ field x 384 56 ≠ 0 then s.rootStore part 8 (field x 384 56) (completion x 6) else s) s

theorem Stored.packetsFailed {ps : List (BitVec 512)} : Stored s (s.packetsFailed part ps) := .foldl _ fun _ _ => .ite .rootStore .refl

theorem WindsDown.discardQueue : WindsDown part s (s.discardQueue part p q) :=
  Stored.packetsFailed.windsDown.trans (.modPart (fun _ => rfl) fun _ _ hn =>
    LQueue.drained_set (f := fun k => { k with cons := k.prod, depWait := none, held := false, drainTo := none, batch := none })
      (fun _ => rfl) hn)

/-- A queue of a partition holds no packet. -/
def State.drainedAt (s : State) (part q : Nat) : Prop := ∃ p, s.part? part = some p ∧ (p.lq q).drained

theorem WindsDown.drainedAt (h : WindsDown part s t) (hq : s.drainedAt part q) : t.drainedAt part q := by
  obtain ⟨p, hp, hpq⟩ := hq
  obtain ⟨p', hp', -, hlq⟩ := h.own p hp
  exact ⟨p', hp', hlq q hpq⟩

theorem State.drainedAt_discardQueue {p' : Part} (hp : s.part? part = some p') : (s.discardQueue part p q).drainedAt part q := by
  obtain ⟨p₁, hp₁, -⟩ := (Stored.packetsFailed (ps := s.queuedPackets p q)).windsDown.own p' hp
  refine ⟨_, State.part?_modPart_some hp₁, ?_⟩
  unfold LQueue.drained Part.lq
  rw [Tbl.get_set]

/-- The packets of every queue of a partition are discarded. -/
def State.queuesDiscarded (s : State) (part : Nat) (p : Part) : State := (List.range 16).foldl (fun s q => s.discardQueue part p q) s

theorem WindsDown.queuesDiscarded : WindsDown part s (s.queuesDiscarded part p) := .foldl _ fun _ _ _ _ => .discardQueue

theorem State.drainedAt_queuesDiscarded (hp : s.part? part = some p) (hq : q < 16) : (s.queuesDiscarded part p).drainedAt part q := by
  refine foldl_reaches (P := fun u : State => u.drainedAt part q) (I := fun u : State => ∃ p', u.part? part = some p')
    (List.mem_range.2 hq) ⟨p, hp⟩ (fun u _ _ ⟨p', hp'⟩ => ?_) (fun u ⟨p', hp'⟩ => State.drainedAt_discardQueue hp') fun u _ _ _ hu =>
      WindsDown.discardQueue.drainedAt hu
  obtain ⟨p'', hp'', -⟩ := (WindsDown.discardQueue (p := p)).own p' hp'
  exact ⟨p'', hp''⟩

/-- A launch has failed with a reset, and its completion is under way. -/
def State.failedAt (s : State) (j : Nat) : Prop := (∃ l, s.launch? j = some l ∧ l.status = 6) ∧ .launchComplete j ∈ s.pending

theorem WindsDown.failedAt {j : Nat} (h : WindsDown part s t) (hj : s.failedAt j) : t.failedAt j := by
  obtain ⟨⟨l, hl, h6⟩, hpost⟩ := hj
  obtain ⟨m, hm, hlm⟩ := h.launches j l hl
  exact ⟨⟨m, hm, hlm h6⟩, h.completes j hpost⟩

/-- Launches fail with a reset. -/
def State.launchesFailed (s : State) (js : List Nat) : State :=
  js.foldl (fun s l => (s.modLaunch l Launch.afterReset).postOnce (.launchComplete l)) s

theorem WindsDown.launchFailed {j : Nat} : WindsDown part s ((s.modLaunch j Launch.afterReset).postOnce (.launchComplete j)) :=
  (WindsDown.modLaunch fun _ _ => rfl).trans (.of_posts .postOnce)

theorem WindsDown.launchesFailed {js : List Nat} : WindsDown part s (s.launchesFailed js) := .foldl _ fun _ _ _ _ => .launchFailed

theorem State.mem_partLaunches {j : Nat} {l : Launch} (hl : s.launch? j = some l) (hp : l.part = part) : j ∈ s.partLaunches part := by
  refine List.mem_filterMap.2 ⟨(j, some l), Tbl.mem_of_get hl (by simp), ?_⟩
  simp [hp]

theorem State.failedAt_launchesFailed {js : List Nat} {j : Nat} {l : Launch} (hj : j ∈ js) (hl : s.launch? j = some l) :
    (s.launchesFailed js).failedAt j := by
  refine foldl_reaches (P := fun u : State => u.failedAt j) (I := fun u : State => ∃ l, u.launch? j = some l) hj ⟨l, hl⟩
    (fun u _ _ ⟨m, hm⟩ => ?_) (fun u ⟨m, hm⟩ => ⟨⟨m.afterReset, ?_, rfl⟩, State.mem_postOnce _ _⟩) fun u _ _ _ hu =>
      (WindsDown.launchFailed (part := 0)).failedAt hu
  · obtain ⟨m', hm', -⟩ := (WindsDown.launchFailed (part := 0)).launches j m hm
    exact ⟨m', hm'⟩
  · unfold State.launch?
    rw [State.postOnce_launches]
    exact (State.launch?_modLaunch ..).trans (congrArg (Option.map _) hm)

/-! ### Teams (15 R416) -/

theorem State.mem_partTeams : (c, slot) ∈ s.partTeams part ↔ ∃ tm, (s.core c).team? slot = some tm ∧ tm.bind.part = part := by
  unfold State.partTeams
  simp only [List.mem_flatMap, List.mem_filterMap, Option.ite_none_right_eq_some, Option.any_eq_true, decide_eq_true_eq, Option.some.injEq,
    Prod.mk.injEq]
  constructor
  · rintro ⟨ck, -, st, -, ⟨tm, htm, hp⟩, rfl, rfl⟩
    exact ⟨tm, htm, hp⟩
  · rintro ⟨tm, htm, hp⟩
    have hcore : s.core c ≠ Core.reset := fun h => by
      rw [h] at htm
      cases htm
    exact ⟨(c, s.core c), Tbl.mem_of_get rfl hcore, (slot, some tm), Tbl.mem_of_get htm (by simp), ⟨tm, htm, hp⟩, rfl, rfl⟩

/-- A team of a partition has its slot after other parts of the reset. -/
theorem WindsDown.team {tm : Team} (h : WindsDown part s t) (ht : (s.core c).team? slot = some tm) :
    ∃ tn, (t.core c).team? slot = some tn ∧ tn.bind = tm.bind :=
  Option.map_eq_some_iff.1 ((h.binds ⟨c, slot, 0⟩).trans (congrArg (Option.map (·.bind)) ht))

/-- Teams are killed by a partition's reset. -/
def State.teamsKilled (s : State) (rs : List (Nat × Nat)) : State := rs.foldl (fun s r => s.killTeam r.1 r.2 6) s

theorem WindsDown.killPartTeam {r : Nat × Nat} (hr : r ∈ s.partTeams part) (h : WindsDown part s u) :
    WindsDown part u (u.killTeam r.1 r.2 6) := by
  obtain ⟨tm, htm, hp⟩ := State.mem_partTeams.1 hr
  obtain ⟨tn, htn, hb⟩ := h.team htm
  have hkill := WindsDown.killTeam (st := 6) htn
  rwa [hb, hp] at hkill

theorem WindsDown.teamsKilled (h : WindsDown part s t) : WindsDown part t (t.teamsKilled (s.partTeams part)) :=
  .foldl _ fun _ _ hr hu => .killPartTeam hr (h.trans hu)

theorem State.group?_eq_some {r : GroupRef} {x : Group} : s.group? r = some x ↔
    ∃ tm, (s.core r.core).team? r.slot = some tm ∧ tm.group? r.grp = some x := by
  unfold State.group? State.team?
  cases (s.core r.core).team? r.slot <;> simp

theorem State.goneAt_teamsKilled {g : Nat} {x : Group} (h : WindsDown part s t) (hr : (c, slot) ∈ s.partTeams part)
    (hx : s.group? ⟨c, slot, g⟩ = some x) : (t.teamsKilled (s.partTeams part)).goneAt ⟨c, slot, g⟩ := by
  refine foldl_reaches (P := fun u : State => u.goneAt ⟨c, slot, g⟩) (I := WindsDown part s) hr h
    (fun u _ hm hu => hu.trans (.killPartTeam hm hu)) (fun u hu => ?_) fun u _ hm hu hg => (WindsDown.killPartTeam hm hu).goneAt hg
  obtain ⟨y, hy, -⟩ := hu.groups _ x hx
  obtain ⟨tn, htn, hgn⟩ := State.group?_eq_some.1 hy
  exact State.goneAt_killTeam htn hgn

/-! ### Barriers -/

/-- A core without a partition's barriers. -/
def Core.withoutBarriers (part : Nat) (k : Core) : Core :=
  { k with barriers := k.barriers.filter fun b => b.part ≠ part, spilled := k.spilled.filter fun b => b.part ≠ part }

/-- No core has a barrier of a partition. -/
def State.barriersDropped (s : State) (part : Nat) : State := { s with cores := s.cores.map fun ck => (ck.1, ck.2.withoutBarriers part) }

theorem State.core_barriersDropped : (s.barriersDropped part).core c = (s.core c).withoutBarriers part :=
  Tbl.get_map_value (Core.withoutBarriers part) Core.reset s.cores c rfl

theorem WindsDown.barriersDropped : WindsDown part s (s.barriersDropped part) where
  groups r x hx := by
    refine ⟨x, ?_, id⟩
    rw [State.group?_eq_some, State.core_barriersDropped]
    exact State.group?_eq_some.1 hx
  binds r := by
    unfold State.team?
    rw [State.core_barriersDropped]
    rfl
  others _ _ := rfl
  own p hp := ⟨p, hp, rfl, fun _ => id⟩
  launches _ l hl := ⟨l, hl, id⟩
  comms := rfl
  completes _ := id

/-! ### Frames and versions (03 R101, 05 R158) -/

theorem State.unspill_keys (tag line : Nat) :
    ∃ m v, s.unspill part tag line = { s with hbm := m, versions := v } ∧ ∀ k ∈ v, k.1 = lineKey part tag line ∨ k ∈ s.versions := by
  have hsame : ∃ m v, s = { s with hbm := m, versions := v } ∧ ∀ k ∈ v, k.1 = lineKey part tag line ∨ k ∈ s.versions :=
    ⟨s.hbm, s.versions, rfl, fun _ => .inr⟩
  unfold State.unspill
  split
  · exact hsame
  · split
    · exact hsame
    · split
      · exact hsame
      · exact ⟨_, _, rfl, fun k hk => Tbl.key_of_mem_set hk⟩

/-- A version that is dropped changes memory and versions, and every version left was there before and is another. -/
theorem State.dropVersion_eq (tag line : Nat) : ∃ m v, s.dropVersion part tag line = { s with hbm := m, versions := v } ∧
    ∀ k ∈ v, k ∈ s.versions ∧ k.1 ≠ lineKey part tag line := by
  obtain ⟨m, v, he, hv⟩ := s.unspill_keys (part := part) tag line
  refine ⟨m, v.set none (lineKey part tag line) none, ?_, fun k hk => ?_⟩
  · unfold State.dropVersion
    rw [he]
  · obtain ⟨hk, hne⟩ := Tbl.of_mem_unset hk
    exact ⟨(hv k hk).resolve_left hne, hne⟩

theorem WindsDown.dropVersion {tag line : Nat} : WindsDown part s (s.dropVersion part tag line) := by
  obtain ⟨m, v, he, -⟩ := s.dropVersion_eq (part := part) tag line
  rw [he]
  exact Stored.memory.windsDown

/-- Versions of a partition are dropped. -/
def State.versionsDropped (s : State) (part : Nat) (ks : Tbl (Option Version)) : State :=
  ks.foldl (fun s kv => s.dropVersion part (keyTag kv.1) (keyLine kv.1)) s

theorem WindsDown.versionsDropped {ks : Tbl (Option Version)} : WindsDown part s (s.versionsDropped part ks) :=
  .foldl _ fun _ _ _ _ => .dropVersion

theorem State.mem_dropVersion {tag line : Nat} {k : Nat × Option Version} (h : k ∈ (s.dropVersion part tag line).versions) :
    k ∈ s.versions ∧ k.1 ≠ lineKey part tag line := by
  obtain ⟨m, v, he, hv⟩ := s.dropVersion_eq (part := part) tag line
  rw [he] at h
  exact hv k h

theorem State.subset_versionsDropped {ks : Tbl (Option Version)} : (s.versionsDropped part ks).versions ⊆ s.versions :=
  List.foldlRecOn (motive := fun u : State => u.versions ⊆ s.versions) _ _ (List.Subset.refl _) fun _ h _ _ _ hk =>
    h (State.mem_dropVersion hk).1

/-- No version of the partition is left. -/
theorem State.keyPart_versionsDropped {k : Nat × Option Version}
    (h : k ∈ (s.versionsDropped part (s.versions.filter (keyOfPart part))).versions) : keyPart k.1 ≠ part := by
  intro hpart
  have hin : k ∈ s.versions.filter (keyOfPart part) := List.mem_filter.2 ⟨State.subset_versionsDropped h, by simp [keyOfPart, hpart]⟩
  have hgone : ∀ x ∈ (s.versionsDropped part (s.versions.filter (keyOfPart part))).versions, x.1 ≠ k.1 := by
    refine foldl_reaches (P := fun u : State => ∀ x ∈ u.versions, x.1 ≠ k.1) (I := fun _ => True) hin trivial (fun _ _ _ _ => trivial)
      (fun u _ x hx => ?_) fun u y _ _ hu x hx => hu x (State.mem_dropVersion hx).1
    have hne := (State.mem_dropVersion hx).2
    rwa [← hpart, lineKey_of_key] at hne
  exact hgone k h rfl

/-- A die without a partition's frames, writes and ownership ranges. -/
def Die.withoutPart (part : Nat) (d : Die) : Die :=
  { d with l2 := d.l2.filter fun kf => !keyOfPart part kf, out := d.out.filter fun o => keyPart o.key ≠ part
           owned := d.owned.filter fun o => o.part ≠ part }

theorem State.die_discardPart : (s.discardPart part).die d =
    ((s.versionsDropped part (s.versions.filter (keyOfPart part))).die d).withoutPart part :=
  Tbl.get_map_value (Die.withoutPart part) Die.reset _ d rfl

theorem keyPart_of_discarded {α : Type} {l : Tbl α} {k : Nat × α} (h : k ∈ l.filter fun kx => !keyOfPart part kx) : keyPart k.1 ≠ part := by
  have hk := (List.mem_filter.1 h).2
  simpa [keyOfPart] using hk

/-- No frame of the partition and none of its ownership ranges is left on any die. -/
theorem State.discarded_dies : (∀ k ∈ ((s.discardPart part).die d).l2, keyPart k.1 ≠ part) ∧
    ∀ o ∈ ((s.discardPart part).die d).owned, o.part ≠ part := by
  rw [State.die_discardPart]
  refine ⟨fun k hk => keyPart_of_discarded hk, fun o ho => ?_⟩
  have hk := (List.mem_filter.1 ho).2
  simpa using hk

theorem State.discarded_llc : ∀ k ∈ (s.discardPart part).llc, keyPart k.1 ≠ part := fun _ hk => keyPart_of_discarded hk

theorem State.discarded_versions : ∀ k ∈ (s.discardPart part).versions, keyPart k.1 ≠ part := fun _ hk => State.keyPart_versionsDropped hk

theorem State.core_discardPart : (s.discardPart part).core c = s.core c :=
  State.core_of_cores (List.foldlRecOn (motive := fun u : State => u.cores = s.cores) _ _ rfl fun u hu kv _ => by
    obtain ⟨m, v, he, -⟩ := u.dropVersion_eq (part := part) (keyTag kv.1) (keyLine kv.1)
    rw [he]
    exact hu) c

theorem WindsDown.discardPart : WindsDown part s (s.discardPart part) := by
  refine (WindsDown.versionsDropped (ks := s.versions.filter (keyOfPart part))).trans ?_
  refine ⟨fun _ x hx => ⟨x, hx, id⟩, fun _ => rfl, fun _ _ => rfl, fun p hp => ⟨p, hp, rfl, fun _ => id⟩, fun _ l hl => ⟨l, hl, id⟩, rfl,
    fun j hj => ?_⟩
  exact List.mem_map.2 ⟨.launchComplete j, List.mem_filter.2 ⟨hj, rfl⟩, rfl⟩

/-! ### Communicators (16 R437) -/

/-- Communicators of a partition are broken. -/
def State.commsBroken (s : State) (part : Nat) : State :=
  { s with comms := s.comms.map fun c => if c.part = part then { c with broken := true } else c }

theorem OnlyPosts.breakComms : OnlyPosts (s.commsBroken part) (s.breakComms part) := by
  refine List.foldlRecOn (motive := fun u : State => OnlyPosts (s.commsBroken part) u) _ _ .refl fun u h i _ => h.trans ?_
  split
  · exact .postOnce
  · exact .refl

theorem State.comm?_commsBroken {i : Nat} {x : Comm} (h : s.comm? i = some x) (hp : x.part = part) :
    (s.commsBroken part).comm? i = some { x with broken := true } := by
  refine List.getElem?_map.trans ?_
  rw [show s.comms[i]? = some x from h, Option.map_some, if_pos hp]

end

end Sys2Proof.Machine
end

section
/-! # Partition reset (O53, 15 R418, R419)

A reset is its parts in their order (`exec_partitionReset`); what each has brought about stands at the end by `WindsDown`. -/

namespace Sys2Proof.Machine

section
variable {s t u : State} {part : Nat} {p : Part}

/-- The queues of a partition are empty and its launches have failed. -/
def State.workDiscarded (s : State) (part : Nat) (p : Part) : State := (s.queuesDiscarded part p).launchesFailed (s.partLaunches part)

/-- Its teams are killed too. -/
def State.woundDown (s : State) (part : Nat) (p : Part) : State := (s.workDiscarded part p).teamsKilled (s.partTeams part)

/-- The state of a reset before communicators break. -/
@[irreducible] def State.cleared (s : State) (part : Nat) (p : Part) : State :=
  (((s.woundDown part p).barriersDropped part).discardPart part).modPart part Part.afterReset

theorem exec_partitionReset (hp : s.part? part = some p) :
    exec (.partitionReset part) s = happened (((s.cleared part p).breakComms part).postOnce (.partitionResetComplete part)) := by
  show execPartitionReset part s = _
  unfold execPartitionReset State.cleared
  rw [hp]
  rfl

theorem WindsDown.workDiscarded : WindsDown part s (s.workDiscarded part p) := WindsDown.queuesDiscarded.trans .launchesFailed

theorem WindsDown.woundDown : WindsDown part (s.workDiscarded part p) (s.woundDown part p) := .teamsKilled .workDiscarded

theorem WindsDown.tidied : WindsDown part (s.woundDown part p) (s.cleared part p) := by
  unfold State.cleared
  exact (WindsDown.barriersDropped.trans .discardPart).trans (.modPart (fun _ => rfl) fun _ _ => id)

theorem WindsDown.cleared : WindsDown part s (s.cleared part p) := (WindsDown.workDiscarded.trans .woundDown).trans .tidied

theorem State.drainedAt_cleared {q : Nat} (hp : s.part? part = some p) (hq : q < 16) : (s.cleared part p).drainedAt part q :=
  ((WindsDown.launchesFailed.trans .woundDown).trans .tidied).drainedAt (State.drainedAt_queuesDiscarded hp hq)

theorem State.failedAt_cleared {j : Nat} {l : Launch} (hl : s.launch? j = some l) (hpart : l.part = part) :
    (s.cleared part p).failedAt j := by
  obtain ⟨m, hm, -⟩ := (WindsDown.queuesDiscarded (part := part) (p := p)).launches j l hl
  exact (WindsDown.woundDown.trans .tidied).failedAt (State.failedAt_launchesFailed (State.mem_partLaunches hl hpart) hm)

theorem State.goneAt_cleared {c slot g : Nat} {tm : Team} {x : Group} (ht : (s.core c).team? slot = some tm) (hpart : tm.bind.part = part)
    (hx : tm.group? g = some x) : (s.cleared part p).goneAt ⟨c, slot, g⟩ :=
  WindsDown.tidied.goneAt (State.goneAt_teamsKilled .workDiscarded (State.mem_partTeams.2 ⟨tm, ht, hpart⟩)
    (State.group?_eq_some.2 ⟨tm, ht, hx⟩))

/-- The partition itself: its tree is a root, nothing is asked of its hypothesis controller, its share is what it was. -/
theorem State.part?_cleared (hp : s.part? part = some p) :
    ∃ q : Part, (s.cleared part p).part? part = some q.afterReset ∧ q.share = p.share := by
  obtain ⟨q, hq, hs, -⟩ := ((WindsDown.workDiscarded.trans .woundDown).trans (WindsDown.barriersDropped.trans .discardPart)).own p hp
  unfold State.cleared
  exact ⟨q, State.part?_modPart_some hq, hs⟩

theorem State.core_cleared {c : Nat} : (s.cleared part p).core c = ((s.woundDown part p).core c).withoutBarriers part := by
  unfold State.cleared
  exact (State.core_of_cores (State.modPart_cores ..) c).trans (State.core_discardPart.trans State.core_barriersDropped)

/-- No frame, version or ownership range of the partition is left. -/
theorem State.cleared_memory : (∀ d, (∀ k ∈ ((s.cleared part p).die d).l2, keyPart k.1 ≠ part) ∧
    ∀ o ∈ ((s.cleared part p).die d).owned, o.part ≠ part) ∧ (∀ k ∈ (s.cleared part p).llc, keyPart k.1 ≠ part) ∧
    ∀ k ∈ (s.cleared part p).versions, keyPart k.1 ≠ part := by
  unfold State.cleared State.die
  rw [State.modPart_dies, State.modPart_llc, State.modPart_versions]
  exact ⟨fun _ => State.discarded_dies, State.discarded_llc, State.discarded_versions⟩

/-- After the parts of a reset communicators have broken, and events have been posted. -/
theorem OnlyPosts.partitionReset :
    OnlyPosts ((s.cleared part p).commsBroken part) (((s.cleared part p).breakComms part).postOnce (.partitionResetComplete part)) :=
  OnlyPosts.breakComms.trans .postOnce

/-- Of another partition nothing has changed but what it asks of its hypothesis controller. -/
theorem State.other_cleared {k : Nat} {q : Part} (hk : k ≠ part) (hq : s.part? k = some q) :
    ∃ r, (s.cleared part p).part? k = some r ∧ { r with reqs := q.reqs, capWaits := q.capWaits } = q := by
  obtain ⟨r, hr, he⟩ := Option.map_eq_some_iff.1 ((WindsDown.cleared.others k hk).trans (congrArg (Option.map Part.bare) hq))
  exact ⟨r, hr, congrArg (fun b : Part => { b with reqs := q.reqs, capWaits := q.capWaits }) he⟩

/-- A partition's reset. -/
theorem occursWith_partitionReset (hp : s.part? part = some p) : OccursWith (.partitionReset part) s fun t =>
    .partitionResetComplete part ∈ t.pending ∧
    (∃ p', t.part? part = some p' ∧ p'.hyp = [(0, HypEntry.root)] ∧ p'.resetting = true ∧ p'.reqs = [] ∧ p'.order = [] ∧
      (∀ q, q < 16 → (p'.lq q).cons = (p'.lq q).prod) ∧ p'.units = p.units ∧ p'.l2ways = p.l2ways ∧ p'.llcways = p.llcways ∧
      p'.hbmBase = p.hbmBase ∧ p'.hbmSize = p.hbmSize ∧ p'.budget = p.budget) ∧
    (∀ k q, k ≠ part → s.part? k = some q → ∃ r, t.part? k = some r ∧ { r with reqs := q.reqs, capWaits := q.capWaits } = q) ∧
    (∀ c slot tm g y, (s.core c).team? slot = some tm → tm.bind.part = part → tm.group? g = some y →
      ∃ z, t.group? ⟨c, slot, g⟩ = some z ∧ z.frontier = [] ∧ z.handler = none ∧ z.released = true ∧ z.exited = BitVec.allOnes 32) ∧
    (∀ id l, s.launch? id = some l → l.part = part → (t.launch? id).map (·.status) = some 6 ∧ .launchComplete id ∈ t.pending) ∧
    (∀ d, (∀ k ∈ (t.die d).l2, keyPart k.1 ≠ part) ∧ ∀ o ∈ (t.die d).owned, o.part ≠ part) ∧ (∀ k ∈ t.llc, keyPart k.1 ≠ part) ∧
    (∀ k ∈ t.versions, keyPart k.1 ≠ part) ∧ (∀ c b, b ∈ (t.core c).barriers → b.part ≠ part) ∧
    ∀ i c, s.comm? i = some c → c.part = part → t.comm? i = some { c with broken := true } := by
  have hposted := State.mem_postOnce ((s.cleared part p).breakComms part) (.partitionResetComplete part)
  obtain ⟨ps, hps⟩ := OnlyPosts.partitionReset (s := s) (part := part) (p := p)
  refine occursWith_of_happened (exec_partitionReset hp) ?_
  rw [hps] at hposted ⊢
  obtain ⟨hdies, hllc, hversions⟩ := State.cleared_memory (s := s) (part := part) (p := p)
  refine ⟨hposted, ?_, fun k q hk hq => State.other_cleared hk hq, fun c slot tm g y ht hpart hy => ?_, fun j l hl hpart => ?_,
    hdies, hllc, hversions, fun c b hb => ?_, fun i x hx hpart => ?_⟩
  · obtain ⟨q, hq, hshare⟩ := State.part?_cleared hp
    obtain ⟨hunits, hl2ways, hllcways, hbase, hsize, hbudget⟩ : q.units = p.units ∧ q.l2ways = p.l2ways ∧ q.llcways = p.llcways ∧
        q.hbmBase = p.hbmBase ∧ q.hbmSize = p.hbmSize ∧ q.budget = p.budget := by
      simpa [Part.share] using hshare
    refine ⟨q.afterReset, hq, rfl, rfl, rfl, rfl, fun n hn => ?_, hunits, hl2ways, hllcways, hbase, hsize, hbudget⟩
    obtain ⟨r, hr, hdrained⟩ := State.drainedAt_cleared hp hn
    cases hq.symm.trans hr
    exact hdrained
  · obtain ⟨z, hz, hgone⟩ := State.goneAt_cleared (p := p) ht hpart hy
    exact ⟨z, hz, hgone.frontier, hgone.handler, hgone.released, hgone.exited⟩
  · obtain ⟨⟨m, hm, h6⟩, hpost⟩ := State.failedAt_cleared (p := p) hl hpart
    exact ⟨(congrArg (Option.map (·.status)) hm).trans (congrArg some h6), List.mem_append_left _ hpost⟩
  · have hcore := State.core_cleared (s := s) (part := part) (p := p) (c := c)
    have hkept : b ∈ ((s.cleared part p).core c).barriers := hb
    rw [hcore] at hkept
    have hne := (List.mem_filter.1 hkept).2
    simpa using hne
  · refine State.comm?_commsBroken (s := s.cleared part p) ?_ hpart
    unfold State.comm?
    rw [WindsDown.cleared.comms]
    exact hx

/-! ### The end of a reset (15 R419) -/

theorem occurs_partitionResetComplete_off (hp : s.part? part = some p) (h : p.resetting = false) :
    Occurs (.partitionResetComplete part) s s := by
  show execPartitionResetComplete part s = _
  unfold execPartitionResetComplete
  simp only [hp, h, Bool.not_false, if_true]
  rfl

theorem waits_partitionResetComplete (hp : s.part? part = some p) (h : p.resetting = true) (ht : s.partTeams part ≠ []) :
    Waits (.partitionResetComplete part) s := by
  show execPartitionResetComplete part s = _
  unfold execPartitionResetComplete
  have hteams : (s.partTeams part).isEmpty = false := by simpa using ht
  simp only [hp, h, hteams, Bool.not_true, Bool.not_false, Bool.false_eq_true, if_true, if_false]
  rfl

theorem State.discardPart_parts : (s.discardPart part).parts = s.parts :=
  List.foldlRecOn (motive := fun u : State => u.parts = s.parts) _ _ rfl fun u hu kv _ => by
    obtain ⟨m, v, he, -⟩ := u.dropVersion_eq (part := part) (keyTag kv.1) (keyLine kv.1)
    rw [he]
    exact hu

/-- Once no team of the partition is left it accepts launches again, and none of its frames is left on a die. -/
theorem occursWith_partitionResetComplete (hp : s.part? part = some p) (h : p.resetting = true) (ht : s.partTeams part = []) :
    OccursWith (.partitionResetComplete part) s fun t =>
      t.part? part = some { p with resetting := false } ∧ ∀ d, ∀ k ∈ (t.die d).l2, keyPart k.1 ≠ part := by
  let u := (s.discardPart part).modPart part fun p => { p with resetting := false }
  have hexec : exec (.partitionResetComplete part) s = happened (u.serve part) := by
    show execPartitionResetComplete part s = _
    unfold execPartitionResetComplete
    simp only [hp, h, ht, List.isEmpty_nil, Bool.not_true, Bool.false_eq_true, if_false]
    rfl
  have hpart : u.part? part = some { p with resetting := false } :=
    State.part?_modPart_some ((State.part?_of_parts State.discardPart_parts part).trans hp)
  have hdies : ∀ d, ∀ k ∈ (u.die d).l2, keyPart k.1 ≠ part := by
    unfold u State.die
    rw [State.modPart_dies]
    exact fun _ => State.discarded_dies.1
  obtain ⟨ps, hps⟩ := OnlyPosts.serve (s := u) (part := part)
  refine occursWith_of_happened hexec ?_
  rw [hps]
  exact ⟨hpart, hdies⟩

end

end Sys2Proof.Machine
end

section
/-! # Partition events (O53) -/

open Sys2Proof Sys2Proof.Machine

/-- Settles O53: each event by the case that it finds; a partition's reset by what every part of it keeps (`WindsDown`), `regroup` by the
order of its keys. -/
theorem partitionEvents : Obligations.PartitionEvents := by
  unfold Obligations.PartitionEvents
  refine ⟨fun g x w s hg hw => ⟨waits_sleepExpire hg hw, occurs_sleepExpire hg hw⟩,
    fun core slot t s ht hk => ⟨occurs_regroupComplete_early ht, occursWith_regroupComplete ht hk⟩,
    fun core s => occursWith_rateWindowEnd, fun die unit s => ?_, fun part q p s hp hq hn => State.counter_queue hp hq hn,
    fun part p n s hp hn => occursWith_clockStep hp hn, fun part p s hpart hp => ?_,
    fun part p s hp => ⟨occurs_watchdogExpire_off hp, occursWith_watchdogExpire hp⟩, fun part p s hp => occursWith_partitionReset hp,
    fun part p s hp => ⟨occurs_partitionResetComplete_off hp, waits_partitionResetComplete hp, occursWith_partitionResetComplete hp⟩⟩
  · intro th sel v beyond
    have hbeyond : th.beyond v = true ↔ beyond := Threshold.beyond_iff
    refine ⟨occurs_thresholdFire_off, fun hon hidx => ⟨fun hb hwas => ?_, fun hb => ?_⟩⟩
    · exact occursWith_thresholdFire_fires rfl rfl hon hidx (hbeyond.2 hb) hwas
    · obtain ⟨t, hexec, hnote, hth, htasks, hpost⟩ := occursWith_thresholdFire_looks rfl rfl hon hidx fun h => hb (h.imp_left hbeyond.1)
      refine ⟨t, hexec, hnote, ?_, ?_, ?_, htasks, hpost⟩
      · rw [hth]
      · rw [hth]
      · rw [hth, ← hbeyond]
        simp [th, v, sel]
  · intro e b n
    obtain ⟨t, hexec, hnote, hmeter, hpost, hclock, hp'⟩ := occursWith_energyIntervalEnd (n := n) hpart hp rfl
    exact ⟨t, hexec, hnote, hmeter, hpost, hclock, p.afterInterval n, hp', rfl, rfl, rfl,
      fun q hq => congrArg (·.held) (Part.lq_afterInterval hq)⟩

end

section
/-! # The random words (O13)

A word that draws is a lane word whose lanes raise nothing and take one draw each, from the stream that the statement names. `skey` and `sctr`
change one table of their group, lane by lane. -/

namespace Sys2Proof.Machine

section
variable {i : Instr} {u : Use} {s : State} {v : Env}

/-! ### A draw in each active lane -/

/-- The group from which a word draws has KEY of the chain's issue and the live CTR: its next draw is that of 08 R217. -/
theorem drawAt_drawGroup (room : Room s v) (l : Nat) : drawAt v.team.bind.seed (drawGroup v s) l 0 = nextDraw v s l := by
  obtain ⟨y, hy, -⟩ := room.group
  have hctr : (drawGroup v s).ctrOf l = s.ctrReg v.r l := by
    simp [drawGroup, liveGroup, State.ctrReg, Group.ctrOf, hy]
  rw [drawAt, hctr]
  simp [nextDraw, Group.keyOf, drawGroup]

/-- No trap of MODE is for a lane that raises no flag (08 R216). -/
@[simp] theorem trapsUnder_none (m : Word) : trapsUnder m {} = false := by simp [trapsUnder]

/-- Lanes that each give register words and take one draw. -/
theorem Writes.ofLanes_draws (m : Lanes) (x : Nat → DWord) (regs : Nat → List (Nat × Word)) :
    Writes.ofLanes m x (fun l => { regs := regs l, draws := 1 }) =
      { v := fun n l => if m.getLsbD l then ((regs l).find? fun r => r.1 = n).map (·.2) else none
        ctr := fun l => if m.getLsbD l then some (x l + 1) else none } := by
  have hstatus : (lanesOf m).foldl (fun (st : DWord) _ => st ||| Flags.bits {}) 0 = 0 :=
    List.foldl_fixed' (fun _ => by simp [Flags.bits]) _
  simp only [Writes.ofLanes, hstatus, List.find?_nil, Option.map_none, ite_self]
  rfl

/-- A word that draws once in each active lane and writes register words that depend on the draw completes. -/
theorem completes_drawBody {regs : DWord → List (Nat × Word)} (he : ∀ s, exec i s = perform u (drawBody regs) s) (ho : u.orph = .free)
    (nd : ∀ x, ((regs x).map (·.1)).Nodup) : Completes i u always fun v s => .drawn v s
      { v := fun n l => if v.em.getLsbD l then ((regs (nextDraw v s l)).find? fun r => r.1 = n).map (·.2) else none } := by
  intro s v h room _
  obtain ⟨t, ht, hwrote⟩ := completes_laneBody (fun v x l => { regs := regs (drawAt v.team.bind.seed x l 0), draws := 1 }) he ho
    (fun _ _ _ => nd _) (fun _ _ _ => List.nodup_nil) s v h room fun _ _ => trapsUnder_none _
  refine ⟨t, ht, ?_⟩
  simp only [followed_free ho, Writes.ofLanes_draws, drawAt_drawGroup room] at hwrote ⊢
  exact hwrote

/-- A word that draws once in each active lane and writes one register completes. -/
theorem completes_draw32 {d : BitVec 7} {f : DWord → Word} (he : ∀ s, exec i s = perform u (drawBody fun x => [(d.toNat, f x)]) s)
    (ho : u.orph = .free) : Completes i u always fun v s => .drawn v s (.lanes v.em d fun l => f (nextDraw v s l)) := by
  have hw : ∀ v s, Writes.lanes v.em d (fun l => f (nextDraw v s l)) =
      { v := fun n l => if v.em.getLsbD l then ([(d.toNat, f (nextDraw v s l))].find? fun r => r.1 = n).map (·.2) else none } := by
    intro v s
    unfold Writes.lanes
    congr 1
    funext n l
    by_cases hn : n = d.toNat
    · simp [hn]
    · simp [hn, Ne.symm hn]
  simpa only [hw] using completes_drawBody he ho fun _ => List.nodup_singleton _

/-- A word that draws once in each active lane and writes the draw to a pair completes. -/
theorem completes_draw64 {d : BitVec 7}
    (he : ∀ s, exec i s = perform u (drawBody fun x => [(d.toNat, x.setWidth 32), (d.toNat + 1, x.extractLsb' 32 32)]) s)
    (ho : u.orph = .free) : Completes i u always fun v s => .drawn v s (.pair v.em d (nextDraw v s)) := by
  have hw : ∀ v s, Writes.pair v.em d (nextDraw v s) =
      { v := fun n l => if v.em.getLsbD l then ([(d.toNat, (nextDraw v s l).setWidth 32),
          (d.toNat + 1, (nextDraw v s l).extractLsb' 32 32)].find? fun r => r.1 = n).map (·.2) else none } := by
    intro v s
    unfold Writes.pair
    congr 1
    funext n l
    by_cases hm : v.em.getLsbD l = true
    · by_cases hlow : n = d.toNat
      · simp [hm, hlow, BitVec.setWidth_eq_extractLsb']
      · by_cases hhigh : n = d.toNat + 1
        · simp [hm, hhigh]
        · simp [hm, hlow, hhigh, Ne.symm hlow, Ne.symm hhigh]
    · simp [hm]
  simpa only [hw] using completes_drawBody he ho fun _ => by simp

/-! ### KEY and CTR of each active lane -/

/-- A word that changes its group alone completes. -/
theorem completes_of_group {F : Env → Group → Group} {w : Env → Writes}
    (he : ∀ s, exec i s = perform u (fun v s => .done (s.modGroup v.r (F v))) s) (ho : u.orph = .free)
    (keeps : ∀ v (x : Group), x.Keeps (F v x)) (wr : ∀ v (t : Team), t.Writes v.r.grp (w v) (t.modGroup v.r.grp (F v))) :
    Completes i u always fun v _ => w v := by
  intro s v h room _
  rw [followed_free ho, he]
  exact wrote_of_team h room ho rfl (fun t _ => Team.modGroup_local t _ _ fun x _ => keeps v x) fun t _ => wr v t

/-- A table of which the active lanes are written, read at a lane. -/
theorem get_foldl_lanes (m : Lanes) (f : Nat → DWord) (t : Tbl DWord) (l : Nat) :
    ((lanesOf m).foldl (fun t l => t.set 0 l (f l)) t).get 0 l = (if m.getLsbD l then some (f l) else none).getD (t.get 0 l) := by
  have h := Tbl.get_foldl_set_some 0 (fun l => some (f l)) (lanesOf m) t l
  simp only [mem_lanesOf, Option.getD_some] at h
  rw [h]
  split <;> rfl

/-- KEY written lane by lane is one change of the table of keys. -/
theorem Group.foldl_setKey (f : Nat → DWord) (ls : List Nat) (x : Group) :
    ls.foldl (fun x l => { x with key := x.key.set 0 l (f l) }) x = { x with key := ls.foldl (fun t l => t.set 0 l (f l)) x.key } :=
  List.foldl_hom (fun k => { x with key := k }) fun _ _ => rfl

/-- CTR written lane by lane is one change of the table of counters. -/
theorem Group.foldl_setCtr (f : Nat → DWord) (ls : List Nat) (x : Group) :
    ls.foldl (fun x l => { x with ctr := x.ctr.set 0 l (f l) }) x = { x with ctr := ls.foldl (fun t l => t.set 0 l (f l)) x.ctr } :=
  List.foldl_hom (fun k => { x with ctr := k }) fun _ _ => rfl

theorem completes_skey (c : BitVec 1) (a : BitVec 7) : Completes (.skey c a) { c := c, ops := [.vs2 a, .key] } always fun v _ =>
    { key := fun l => if v.em.getLsbD l then some (v.src2 a l) else none } := by
  refine completes_of_group (F := fun v x => v.lanes.foldl (fun x l => { x with key := x.key.set 0 l (v.src2 a l) }) x)
    (fun _ => rfl) rfl (fun v x => ?_) fun v t => Team.Writes.of_modGroup t _ _ _ rfl fun x _ => ?_
  · rw [Group.foldl_setKey]
    exact .of_eq rfl rfl rfl
  · rw [Group.foldl_setKey]
    exact ⟨rfl, fun _ => rfl, fun _ _ _ => rfl, by simp, fun l _ => get_foldl_lanes _ _ _ l, fun _ _ => rfl⟩

theorem completes_sctr (c : BitVec 1) (a : BitVec 7) : Completes (.sctr c a) { c := c, ops := [.vs2 a, .ctr] } always fun v _ =>
    { ctr := fun l => if v.em.getLsbD l then some (v.src2 a l) else none } := by
  refine completes_of_group (F := fun v x => v.lanes.foldl (fun x l => { x with ctr := x.ctr.set 0 l (v.src2 a l) }) x)
    (fun _ => rfl) rfl (fun v x => ?_) fun v t => Team.Writes.of_modGroup t _ _ _ rfl fun x _ => ?_
  · rw [Group.foldl_setCtr]
    exact .of_eq rfl rfl rfl
  · rw [Group.foldl_setCtr]
    exact ⟨rfl, fun _ => rfl, fun _ _ _ => rfl, by simp, fun _ _ => rfl, fun l _ => get_foldl_lanes _ _ _ l⟩

end

end Sys2Proof.Machine
end

section
/-! The obligation. -/

open Sys2Proof Sys2Proof.Machine

/-- Settles O13: each draw by the lane word that it is, `skey` and `sctr` by the table of their group that they write. -/
theorem randomWords : Obligations.RandomWords := by
  refine ⟨fun c d => ?_, fun c d => completes_draw64 (fun _ => rfl) rfl, fun c d => completes_draw32 (fun _ => rfl) rfl,
    completes_skey, completes_sctr⟩
  simpa only [BitVec.setWidth_eq_extractLsb' (show 32 ≤ 64 by decide)] using
    completes_draw32 (i := .rng c d) (u := useD c d) (f := fun x => x.setWidth 32) (fun _ => rfl) rfl

end

section
/-! # Words decode to the instructions that they encode (O58)

A layout of the encoding table (09 R229, R237) puts its fields side by side, so that a word is `wordA1 x0 … x5` where each of its
fields reads x0 to x5: one lemma for each layout. Each decoder of a major then answers only what encodes as the word it reads
(`Encodes`), and the word of a well-formed instruction has the fields by which its major's decoder answers it. -/

namespace Sys2Proof

section
variable {w : BitVec 32} {i : Instr}

/-! ## Fields of a word -/

theorem toNat_append_eq_mul_add {m n : Nat} (x : BitVec m) (y : BitVec n) : (x ++ y).toNat = x.toNat * 2 ^ n + y.toNat := by
  rw [BitVec.toNat_append, Nat.shiftLeft_eq, mul_comm, Nat.two_pow_add_eq_or_of_lt y.isLt]

/-- A field is two fields side by side. -/
theorem fieldAt_eq_append_iff {m n lo : Nat} {x : BitVec m} {y : BitVec n} :
    fieldAt lo (m + n) w = x ++ y ↔ fieldAt (lo + n) m w = x ∧ fieldAt lo n w = y := by
  simp only [fieldAt, ← BitVec.toNat_inj, toNat_append_eq_mul_add, BitVec.toNat_ofNat, pow_add, ← Nat.div_div_eq_div_mul]
  generalize w.toNat / 2 ^ lo = v
  rw [Nat.mul_comm (2 ^ m), ← Nat.mod_mul_right_div_self v, ← Nat.mod_mul_right_mod v (2 ^ n) (2 ^ m),
    Nat.div_mod_unique (Nat.two_pow_pos n), and_iff_left y.isLt, Nat.mul_comm (2 ^ n) x.toNat, Nat.add_comm, eq_comm]

theorem ofNat_eq_iff_fieldAt {k n : Nat} {x : BitVec k} (hk : k = 32) (h : x.toNat = n) :
    BitVec.ofNat 32 n = w ↔ fieldAt 0 k w = x := by
  subst hk h
  simp [fieldAt, eq_comm]

/-! ## The layouts (09 R229, R237) -/

@[simp] theorem wordH1_eq_iff {x0 x1 x2 x3 x4 x5 x6 x7 x8} : wordH1 x0 x1 x2 x3 x4 x5 x6 x7 x8 = w ↔
    fieldAt 31 1 w = x0 ∧ fieldAt 26 5 w = x1 ∧ fieldAt 14 12 w = x2 ∧ fieldAt 10 4 w = x3 ∧ fieldAt 6 4 w = x4 ∧ fieldAt 5 1 w = x5 ∧
      fieldAt 2 3 w = x6 ∧ fieldAt 1 1 w = x7 ∧ fieldAt 0 1 w = x8 := by
  rw [wordH1, ofNat_eq_iff_fieldAt (x := x0 ++ x1 ++ x2 ++ x3 ++ x4 ++ x5 ++ x6 ++ x7 ++ x8) rfl
    (by simp only [toNat_append_eq_mul_add]; omega)]
  simp only [fieldAt_eq_append_iff, and_assoc, zero_add]

@[simp] theorem wordA1_eq_iff {x0 x1 x2 x3 x4 x5} : wordA1 x0 x1 x2 x3 x4 x5 = w ↔
    fieldAt 31 1 w = x0 ∧ fieldAt 26 5 w = x1 ∧ fieldAt 21 5 w = x2 ∧ fieldAt 14 7 w = x3 ∧ fieldAt 7 7 w = x4 ∧
      fieldAt 0 7 w = x5 := by
  rw [wordA1, ofNat_eq_iff_fieldAt (x := x0 ++ x1 ++ x2 ++ x3 ++ x4 ++ x5) rfl
    (by simp only [toNat_append_eq_mul_add]; omega)]
  simp only [fieldAt_eq_append_iff, and_assoc, zero_add]

@[simp] theorem wordI1_eq_iff {x0 x1 x2 x3 x4 x5} : wordI1 x0 x1 x2 x3 x4 x5 = w ↔
    fieldAt 31 1 w = x0 ∧ fieldAt 26 5 w = x1 ∧ fieldAt 23 3 w = x2 ∧ fieldAt 16 7 w = x3 ∧ fieldAt 9 7 w = x4 ∧
      fieldAt 0 9 w = x5 := by
  rw [wordI1, ofNat_eq_iff_fieldAt (x := x0 ++ x1 ++ x2 ++ x3 ++ x4 ++ x5) rfl
    (by simp only [toNat_append_eq_mul_add]; omega)]
  simp only [fieldAt_eq_append_iff, and_assoc, zero_add]

@[simp] theorem wordI2_eq_iff {x0 x1 x2 x3 x4 x5 x6} : wordI2 x0 x1 x2 x3 x4 x5 x6 = w ↔
    fieldAt 31 1 w = x0 ∧ fieldAt 26 5 w = x1 ∧ fieldAt 23 3 w = x2 ∧ fieldAt 16 7 w = x3 ∧ fieldAt 9 7 w = x4 ∧ fieldAt 5 4 w = x5 ∧
      fieldAt 0 5 w = x6 := by
  rw [wordI2, ofNat_eq_iff_fieldAt (x := x0 ++ x1 ++ x2 ++ x3 ++ x4 ++ x5 ++ x6) rfl
    (by simp only [toNat_append_eq_mul_add]; omega)]
  simp only [fieldAt_eq_append_iff, and_assoc, zero_add]

@[simp] theorem wordT1_eq_iff {x0 x1 x2 x3 x4 x5 x6} : wordT1 x0 x1 x2 x3 x4 x5 x6 = w ↔
    fieldAt 31 1 w = x0 ∧ fieldAt 26 5 w = x1 ∧ fieldAt 24 2 w = x2 ∧ fieldAt 21 3 w = x3 ∧ fieldAt 14 7 w = x4 ∧ fieldAt 7 7 w = x5 ∧
      fieldAt 0 7 w = x6 := by
  rw [wordT1, ofNat_eq_iff_fieldAt (x := x0 ++ x1 ++ x2 ++ x3 ++ x4 ++ x5 ++ x6) rfl
    (by simp only [toNat_append_eq_mul_add]; omega)]
  simp only [fieldAt_eq_append_iff, and_assoc, zero_add]

@[simp] theorem wordT2_eq_iff {x0 x1 x2 x3 x4 x5 x6 x7} : wordT2 x0 x1 x2 x3 x4 x5 x6 x7 = w ↔
    fieldAt 31 1 w = x0 ∧ fieldAt 26 5 w = x1 ∧ fieldAt 24 2 w = x2 ∧ fieldAt 21 3 w = x3 ∧ fieldAt 14 7 w = x4 ∧ fieldAt 7 7 w = x5 ∧
      fieldAt 3 4 w = x6 ∧ fieldAt 0 3 w = x7 := by
  rw [wordT2, ofNat_eq_iff_fieldAt (x := x0 ++ x1 ++ x2 ++ x3 ++ x4 ++ x5 ++ x6 ++ x7) rfl
    (by simp only [toNat_append_eq_mul_add]; omega)]
  simp only [fieldAt_eq_append_iff, and_assoc, zero_add]

@[simp] theorem wordP1_eq_iff {x0 x1 x2 x3 x4 x5 x6 x7} : wordP1 x0 x1 x2 x3 x4 x5 x6 x7 = w ↔
    fieldAt 31 1 w = x0 ∧ fieldAt 26 5 w = x1 ∧ fieldAt 21 5 w = x2 ∧ fieldAt 18 3 w = x3 ∧ fieldAt 16 2 w = x4 ∧
      fieldAt 14 2 w = x5 ∧ fieldAt 7 7 w = x6 ∧ fieldAt 0 7 w = x7 := by
  rw [wordP1, ofNat_eq_iff_fieldAt (x := x0 ++ x1 ++ x2 ++ x3 ++ x4 ++ x5 ++ x6 ++ x7) rfl
    (by simp only [toNat_append_eq_mul_add]; omega)]
  simp only [fieldAt_eq_append_iff, and_assoc, zero_add]

@[simp] theorem wordA2_eq_iff {x0 x1 x2 x3 x4} : wordA2 x0 x1 x2 x3 x4 = w ↔
    fieldAt 31 1 w = x0 ∧ fieldAt 26 5 w = x1 ∧ fieldAt 21 5 w = x2 ∧ fieldAt 14 7 w = x3 ∧ fieldAt 0 14 w = x4 := by
  rw [wordA2, ofNat_eq_iff_fieldAt (x := x0 ++ x1 ++ x2 ++ x3 ++ x4) rfl
    (by simp only [toNat_append_eq_mul_add]; omega)]
  simp only [fieldAt_eq_append_iff, and_assoc, zero_add]

@[simp] theorem wordA3_eq_iff {x0 x1 x2 x3 x4 x5 x6 x7 x8} : wordA3 x0 x1 x2 x3 x4 x5 x6 x7 x8 = w ↔
    fieldAt 31 1 w = x0 ∧ fieldAt 26 5 w = x1 ∧ fieldAt 21 5 w = x2 ∧ fieldAt 17 4 w = x3 ∧ fieldAt 14 3 w = x4 ∧
      fieldAt 10 4 w = x5 ∧ fieldAt 7 3 w = x6 ∧ fieldAt 3 4 w = x7 ∧ fieldAt 0 3 w = x8 := by
  rw [wordA3, ofNat_eq_iff_fieldAt (x := x0 ++ x1 ++ x2 ++ x3 ++ x4 ++ x5 ++ x6 ++ x7 ++ x8) rfl
    (by simp only [toNat_append_eq_mul_add]; omega)]
  simp only [fieldAt_eq_append_iff, and_assoc, zero_add]

@[simp] theorem wordA4_eq_iff {x0 x1 x2 x3 x4 x5 x6 x7} : wordA4 x0 x1 x2 x3 x4 x5 x6 x7 = w ↔
    fieldAt 31 1 w = x0 ∧ fieldAt 26 5 w = x1 ∧ fieldAt 21 5 w = x2 ∧ fieldAt 17 4 w = x3 ∧ fieldAt 14 3 w = x4 ∧
      fieldAt 10 4 w = x5 ∧ fieldAt 7 3 w = x6 ∧ fieldAt 0 7 w = x7 := by
  rw [wordA4, ofNat_eq_iff_fieldAt (x := x0 ++ x1 ++ x2 ++ x3 ++ x4 ++ x5 ++ x6 ++ x7) rfl
    (by simp only [toNat_append_eq_mul_add]; omega)]
  simp only [fieldAt_eq_append_iff, and_assoc, zero_add]

@[simp] theorem wordA5_eq_iff {x0 x1 x2 x3 x4 x5 x6} : wordA5 x0 x1 x2 x3 x4 x5 x6 = w ↔
    fieldAt 31 1 w = x0 ∧ fieldAt 26 5 w = x1 ∧ fieldAt 21 5 w = x2 ∧ fieldAt 14 7 w = x3 ∧ fieldAt 10 4 w = x4 ∧ fieldAt 7 3 w = x5 ∧
      fieldAt 0 7 w = x6 := by
  rw [wordA5, ofNat_eq_iff_fieldAt (x := x0 ++ x1 ++ x2 ++ x3 ++ x4 ++ x5 ++ x6) rfl
    (by simp only [toNat_append_eq_mul_add]; omega)]
  simp only [fieldAt_eq_append_iff, and_assoc, zero_add]

@[simp] theorem wordK1_eq_iff {x0 x1 x2 x3 x4} : wordK1 x0 x1 x2 x3 x4 = w ↔
    fieldAt 31 1 w = x0 ∧ fieldAt 26 5 w = x1 ∧ fieldAt 24 2 w = x2 ∧ fieldAt 17 7 w = x3 ∧ fieldAt 0 17 w = x4 := by
  rw [wordK1, ofNat_eq_iff_fieldAt (x := x0 ++ x1 ++ x2 ++ x3 ++ x4) rfl
    (by simp only [toNat_append_eq_mul_add]; omega)]
  simp only [fieldAt_eq_append_iff, and_assoc, zero_add]

@[simp] theorem wordB1_eq_iff {x0 x1 x2 x3 x4 x5} : wordB1 x0 x1 x2 x3 x4 x5 = w ↔
    fieldAt 31 1 w = x0 ∧ fieldAt 26 5 w = x1 ∧ fieldAt 23 3 w = x2 ∧ fieldAt 20 3 w = x3 ∧ fieldAt 14 6 w = x4 ∧
      fieldAt 0 14 w = x5 := by
  rw [wordB1, ofNat_eq_iff_fieldAt (x := x0 ++ x1 ++ x2 ++ x3 ++ x4 ++ x5) rfl
    (by simp only [toNat_append_eq_mul_add]; omega)]
  simp only [fieldAt_eq_append_iff, and_assoc, zero_add]

@[simp] theorem wordA6_eq_iff {x0 x1 x2 x3} : wordA6 x0 x1 x2 x3 = w ↔
    fieldAt 31 1 w = x0 ∧ fieldAt 26 5 w = x1 ∧ fieldAt 21 5 w = x2 ∧ fieldAt 0 21 w = x3 := by
  rw [wordA6, ofNat_eq_iff_fieldAt (x := x0 ++ x1 ++ x2 ++ x3) rfl
    (by simp only [toNat_append_eq_mul_add]; omega)]
  simp only [fieldAt_eq_append_iff, and_assoc, zero_add]

@[simp] theorem wordA7_eq_iff {x0 x1 x2 x3 x4} : wordA7 x0 x1 x2 x3 x4 = w ↔
    fieldAt 31 1 w = x0 ∧ fieldAt 26 5 w = x1 ∧ fieldAt 21 5 w = x2 ∧ fieldAt 7 14 w = x3 ∧ fieldAt 0 7 w = x4 := by
  rw [wordA7, ofNat_eq_iff_fieldAt (x := x0 ++ x1 ++ x2 ++ x3 ++ x4) rfl
    (by simp only [toNat_append_eq_mul_add]; omega)]
  simp only [fieldAt_eq_append_iff, and_assoc, zero_add]

@[simp] theorem wordM1_eq_iff {x0 x1 x2 x3 x4 x5 x6 x7} : wordM1 x0 x1 x2 x3 x4 x5 x6 x7 = w ↔
    fieldAt 31 1 w = x0 ∧ fieldAt 26 5 w = x1 ∧ fieldAt 22 4 w = x2 ∧ fieldAt 19 3 w = x3 ∧ fieldAt 18 1 w = x4 ∧
      fieldAt 11 7 w = x5 ∧ fieldAt 7 4 w = x6 ∧ fieldAt 0 7 w = x7 := by
  rw [wordM1, ofNat_eq_iff_fieldAt (x := x0 ++ x1 ++ x2 ++ x3 ++ x4 ++ x5 ++ x6 ++ x7) rfl
    (by simp only [toNat_append_eq_mul_add]; omega)]
  simp only [fieldAt_eq_append_iff, and_assoc, zero_add]

@[simp] theorem wordM2_eq_iff {x0 x1 x2 x3 x4 x5 x6 x7 x8} : wordM2 x0 x1 x2 x3 x4 x5 x6 x7 x8 = w ↔
    fieldAt 31 1 w = x0 ∧ fieldAt 26 5 w = x1 ∧ fieldAt 22 4 w = x2 ∧ fieldAt 19 3 w = x3 ∧ fieldAt 18 1 w = x4 ∧
      fieldAt 11 7 w = x5 ∧ fieldAt 7 4 w = x6 ∧ fieldAt 5 2 w = x7 ∧ fieldAt 0 5 w = x8 := by
  rw [wordM2, ofNat_eq_iff_fieldAt (x := x0 ++ x1 ++ x2 ++ x3 ++ x4 ++ x5 ++ x6 ++ x7 ++ x8) rfl
    (by simp only [toNat_append_eq_mul_add]; omega)]
  simp only [fieldAt_eq_append_iff, and_assoc, zero_add]

@[simp] theorem wordAt1_eq_iff {x0 x1 x2 x3 x4 x5 x6 x7} : wordAt1 x0 x1 x2 x3 x4 x5 x6 x7 = w ↔
    fieldAt 31 1 w = x0 ∧ fieldAt 26 5 w = x1 ∧ fieldAt 22 4 w = x2 ∧ fieldAt 19 3 w = x3 ∧ fieldAt 17 2 w = x4 ∧
      fieldAt 10 7 w = x5 ∧ fieldAt 7 3 w = x6 ∧ fieldAt 0 7 w = x7 := by
  rw [wordAt1, ofNat_eq_iff_fieldAt (x := x0 ++ x1 ++ x2 ++ x3 ++ x4 ++ x5 ++ x6 ++ x7) rfl
    (by simp only [toNat_append_eq_mul_add]; omega)]
  simp only [fieldAt_eq_append_iff, and_assoc, zero_add]

@[simp] theorem wordA8_eq_iff {x0 x1 x2 x3 x4 x5 x6} : wordA8 x0 x1 x2 x3 x4 x5 x6 = w ↔
    fieldAt 31 1 w = x0 ∧ fieldAt 26 5 w = x1 ∧ fieldAt 21 5 w = x2 ∧ fieldAt 14 7 w = x3 ∧ fieldAt 7 7 w = x4 ∧ fieldAt 5 2 w = x5 ∧
      fieldAt 0 5 w = x6 := by
  rw [wordA8, ofNat_eq_iff_fieldAt (x := x0 ++ x1 ++ x2 ++ x3 ++ x4 ++ x5 ++ x6) rfl
    (by simp only [toNat_append_eq_mul_add]; omega)]
  simp only [fieldAt_eq_append_iff, and_assoc, zero_add]

@[simp] theorem wordA9_eq_iff {x0 x1 x2 x3 x4 x5 x6} : wordA9 x0 x1 x2 x3 x4 x5 x6 = w ↔
    fieldAt 31 1 w = x0 ∧ fieldAt 26 5 w = x1 ∧ fieldAt 21 5 w = x2 ∧ fieldAt 14 7 w = x3 ∧ fieldAt 7 7 w = x4 ∧ fieldAt 1 6 w = x5 ∧
      fieldAt 0 1 w = x6 := by
  rw [wordA9, ofNat_eq_iff_fieldAt (x := x0 ++ x1 ++ x2 ++ x3 ++ x4 ++ x5 ++ x6) rfl
    (by simp only [toNat_append_eq_mul_add]; omega)]
  simp only [fieldAt_eq_append_iff, and_assoc, zero_add]

@[simp] theorem wordA10_eq_iff {x0 x1 x2 x3 x4 x5 x6} : wordA10 x0 x1 x2 x3 x4 x5 x6 = w ↔
    fieldAt 31 1 w = x0 ∧ fieldAt 26 5 w = x1 ∧ fieldAt 21 5 w = x2 ∧ fieldAt 14 7 w = x3 ∧ fieldAt 7 7 w = x4 ∧ fieldAt 2 5 w = x5 ∧
      fieldAt 0 2 w = x6 := by
  rw [wordA10, ofNat_eq_iff_fieldAt (x := x0 ++ x1 ++ x2 ++ x3 ++ x4 ++ x5 ++ x6) rfl
    (by simp only [toNat_append_eq_mul_add]; omega)]
  simp only [fieldAt_eq_append_iff, and_assoc, zero_add]

@[simp] theorem wordA11_eq_iff {x0 x1 x2 x3 x4 x5 x6} : wordA11 x0 x1 x2 x3 x4 x5 x6 = w ↔
    fieldAt 31 1 w = x0 ∧ fieldAt 26 5 w = x1 ∧ fieldAt 21 5 w = x2 ∧ fieldAt 14 7 w = x3 ∧ fieldAt 7 7 w = x4 ∧ fieldAt 3 4 w = x5 ∧
      fieldAt 0 3 w = x6 := by
  rw [wordA11, ofNat_eq_iff_fieldAt (x := x0 ++ x1 ++ x2 ++ x3 ++ x4 ++ x5 ++ x6) rfl
    (by simp only [toNat_append_eq_mul_add]; omega)]
  simp only [fieldAt_eq_append_iff, and_assoc, zero_add]

@[simp] theorem wordS1_eq_iff {x0 x1 x2 x3 x4 x5} : wordS1 x0 x1 x2 x3 x4 x5 = w ↔
    fieldAt 31 1 w = x0 ∧ fieldAt 26 5 w = x1 ∧ fieldAt 21 5 w = x2 ∧ fieldAt 18 3 w = x3 ∧ fieldAt 3 15 w = x4 ∧
      fieldAt 0 3 w = x5 := by
  rw [wordS1, ofNat_eq_iff_fieldAt (x := x0 ++ x1 ++ x2 ++ x3 ++ x4 ++ x5) rfl
    (by simp only [toNat_append_eq_mul_add]; omega)]
  simp only [fieldAt_eq_append_iff, and_assoc, zero_add]

@[simp] theorem wordS2_eq_iff {x0 x1 x2 x3 x4} : wordS2 x0 x1 x2 x3 x4 = w ↔
    fieldAt 31 1 w = x0 ∧ fieldAt 26 5 w = x1 ∧ fieldAt 21 5 w = x2 ∧ fieldAt 18 3 w = x3 ∧ fieldAt 0 18 w = x4 := by
  rw [wordS2, ofNat_eq_iff_fieldAt (x := x0 ++ x1 ++ x2 ++ x3 ++ x4) rfl
    (by simp only [toNat_append_eq_mul_add]; omega)]
  simp only [fieldAt_eq_append_iff, and_assoc, zero_add]

@[simp] theorem wordS3_eq_iff {x0 x1 x2 x3 x4 x5 x6} : wordS3 x0 x1 x2 x3 x4 x5 x6 = w ↔
    fieldAt 31 1 w = x0 ∧ fieldAt 26 5 w = x1 ∧ fieldAt 21 5 w = x2 ∧ fieldAt 18 3 w = x3 ∧ fieldAt 10 8 w = x4 ∧ fieldAt 3 7 w = x5 ∧
      fieldAt 0 3 w = x6 := by
  rw [wordS3, ofNat_eq_iff_fieldAt (x := x0 ++ x1 ++ x2 ++ x3 ++ x4 ++ x5 ++ x6) rfl
    (by simp only [toNat_append_eq_mul_add]; omega)]
  simp only [fieldAt_eq_append_iff, and_assoc, zero_add]

@[simp] theorem wordS4_eq_iff {x0 x1 x2 x3 x4 x5} : wordS4 x0 x1 x2 x3 x4 x5 = w ↔
    fieldAt 31 1 w = x0 ∧ fieldAt 26 5 w = x1 ∧ fieldAt 21 5 w = x2 ∧ fieldAt 18 3 w = x3 ∧ fieldAt 10 8 w = x4 ∧
      fieldAt 0 10 w = x5 := by
  rw [wordS4, ofNat_eq_iff_fieldAt (x := x0 ++ x1 ++ x2 ++ x3 ++ x4 ++ x5) rfl
    (by simp only [toNat_append_eq_mul_add]; omega)]
  simp only [fieldAt_eq_append_iff, and_assoc, zero_add]

@[simp] theorem wordS5_eq_iff {x0 x1 x2 x3 x4 x5 x6 x7} : wordS5 x0 x1 x2 x3 x4 x5 x6 x7 = w ↔
    fieldAt 31 1 w = x0 ∧ fieldAt 26 5 w = x1 ∧ fieldAt 21 5 w = x2 ∧ fieldAt 18 3 w = x3 ∧ fieldAt 10 8 w = x4 ∧ fieldAt 7 3 w = x5 ∧
      fieldAt 3 4 w = x6 ∧ fieldAt 0 3 w = x7 := by
  rw [wordS5, ofNat_eq_iff_fieldAt (x := x0 ++ x1 ++ x2 ++ x3 ++ x4 ++ x5 ++ x6 ++ x7) rfl
    (by simp only [toNat_append_eq_mul_add]; omega)]
  simp only [fieldAt_eq_append_iff, and_assoc, zero_add]

@[simp] theorem wordQ1_eq_iff {x0 x1 x2 x3 x4 x5 x6 x7} : wordQ1 x0 x1 x2 x3 x4 x5 x6 x7 = w ↔
    fieldAt 31 1 w = x0 ∧ fieldAt 26 5 w = x1 ∧ fieldAt 22 4 w = x2 ∧ fieldAt 18 4 w = x3 ∧ fieldAt 14 4 w = x4 ∧
      fieldAt 11 3 w = x5 ∧ fieldAt 4 7 w = x6 ∧ fieldAt 0 4 w = x7 := by
  rw [wordQ1, ofNat_eq_iff_fieldAt (x := x0 ++ x1 ++ x2 ++ x3 ++ x4 ++ x5 ++ x6 ++ x7) rfl
    (by simp only [toNat_append_eq_mul_add]; omega)]
  simp only [fieldAt_eq_append_iff, and_assoc, zero_add]

@[simp] theorem wordQ2_eq_iff {x0 x1 x2 x3 x4 x5 x6} : wordQ2 x0 x1 x2 x3 x4 x5 x6 = w ↔
    fieldAt 31 1 w = x0 ∧ fieldAt 26 5 w = x1 ∧ fieldAt 22 4 w = x2 ∧ fieldAt 18 4 w = x3 ∧ fieldAt 11 7 w = x4 ∧ fieldAt 4 7 w = x5 ∧
      fieldAt 0 4 w = x6 := by
  rw [wordQ2, ofNat_eq_iff_fieldAt (x := x0 ++ x1 ++ x2 ++ x3 ++ x4 ++ x5 ++ x6) rfl
    (by simp only [toNat_append_eq_mul_add]; omega)]
  simp only [fieldAt_eq_append_iff, and_assoc, zero_add]

@[simp] theorem wordQ3_eq_iff {x0 x1 x2 x3 x4 x5 x6 x7 x8} : wordQ3 x0 x1 x2 x3 x4 x5 x6 x7 x8 = w ↔
    fieldAt 31 1 w = x0 ∧ fieldAt 26 5 w = x1 ∧ fieldAt 22 4 w = x2 ∧ fieldAt 18 4 w = x3 ∧ fieldAt 14 4 w = x4 ∧
      fieldAt 11 3 w = x5 ∧ fieldAt 4 7 w = x6 ∧ fieldAt 1 3 w = x7 ∧ fieldAt 0 1 w = x8 := by
  rw [wordQ3, ofNat_eq_iff_fieldAt (x := x0 ++ x1 ++ x2 ++ x3 ++ x4 ++ x5 ++ x6 ++ x7 ++ x8) rfl
    (by simp only [toNat_append_eq_mul_add]; omega)]
  simp only [fieldAt_eq_append_iff, and_assoc, zero_add]

@[simp] theorem wordQ4_eq_iff {x0 x1 x2 x3 x4 x5 x6 x7} : wordQ4 x0 x1 x2 x3 x4 x5 x6 x7 = w ↔
    fieldAt 31 1 w = x0 ∧ fieldAt 26 5 w = x1 ∧ fieldAt 22 4 w = x2 ∧ fieldAt 18 4 w = x3 ∧ fieldAt 11 7 w = x4 ∧ fieldAt 4 7 w = x5 ∧
      fieldAt 1 3 w = x6 ∧ fieldAt 0 1 w = x7 := by
  rw [wordQ4, ofNat_eq_iff_fieldAt (x := x0 ++ x1 ++ x2 ++ x3 ++ x4 ++ x5 ++ x6 ++ x7) rfl
    (by simp only [toNat_append_eq_mul_add]; omega)]
  simp only [fieldAt_eq_append_iff, and_assoc, zero_add]

@[simp] theorem wordQ5_eq_iff {x0 x1 x2 x3 x4 x5} : wordQ5 x0 x1 x2 x3 x4 x5 = w ↔
    fieldAt 31 1 w = x0 ∧ fieldAt 26 5 w = x1 ∧ fieldAt 22 4 w = x2 ∧ fieldAt 11 11 w = x3 ∧ fieldAt 4 7 w = x4 ∧
      fieldAt 0 4 w = x5 := by
  rw [wordQ5, ofNat_eq_iff_fieldAt (x := x0 ++ x1 ++ x2 ++ x3 ++ x4 ++ x5) rfl
    (by simp only [toNat_append_eq_mul_add]; omega)]
  simp only [fieldAt_eq_append_iff, and_assoc, zero_add]

@[simp] theorem wordQ6_eq_iff {x0 x1 x2 x3 x4 x5 x6} : wordQ6 x0 x1 x2 x3 x4 x5 x6 = w ↔
    fieldAt 31 1 w = x0 ∧ fieldAt 26 5 w = x1 ∧ fieldAt 22 4 w = x2 ∧ fieldAt 11 11 w = x3 ∧ fieldAt 4 7 w = x4 ∧ fieldAt 1 3 w = x5 ∧
      fieldAt 0 1 w = x6 := by
  rw [wordQ6, ofNat_eq_iff_fieldAt (x := x0 ++ x1 ++ x2 ++ x3 ++ x4 ++ x5 ++ x6) rfl
    (by simp only [toNat_append_eq_mul_add]; omega)]
  simp only [fieldAt_eq_append_iff, and_assoc, zero_add]

@[simp] theorem wordE1_eq_iff {x0 x1 x2 x3 x4 x5} : wordE1 x0 x1 x2 x3 x4 x5 = w ↔
    fieldAt 31 1 w = x0 ∧ fieldAt 26 5 w = x1 ∧ fieldAt 22 4 w = x2 ∧ fieldAt 15 7 w = x3 ∧ fieldAt 9 6 w = x4 ∧
      fieldAt 0 9 w = x5 := by
  rw [wordE1, ofNat_eq_iff_fieldAt (x := x0 ++ x1 ++ x2 ++ x3 ++ x4 ++ x5) rfl
    (by simp only [toNat_append_eq_mul_add]; omega)]
  simp only [fieldAt_eq_append_iff, and_assoc, zero_add]

@[simp] theorem wordE2_eq_iff {x0 x1 x2 x3 x4 x5 x6} : wordE2 x0 x1 x2 x3 x4 x5 x6 = w ↔
    fieldAt 31 1 w = x0 ∧ fieldAt 26 5 w = x1 ∧ fieldAt 22 4 w = x2 ∧ fieldAt 15 7 w = x3 ∧ fieldAt 9 6 w = x4 ∧ fieldAt 3 6 w = x5 ∧
      fieldAt 0 3 w = x6 := by
  rw [wordE2, ofNat_eq_iff_fieldAt (x := x0 ++ x1 ++ x2 ++ x3 ++ x4 ++ x5 ++ x6) rfl
    (by simp only [toNat_append_eq_mul_add]; omega)]
  simp only [fieldAt_eq_append_iff, and_assoc, zero_add]

@[simp] theorem wordE3_eq_iff {x0 x1 x2 x3} : wordE3 x0 x1 x2 x3 = w ↔
    fieldAt 31 1 w = x0 ∧ fieldAt 26 5 w = x1 ∧ fieldAt 22 4 w = x2 ∧ fieldAt 0 22 w = x3 := by
  rw [wordE3, ofNat_eq_iff_fieldAt (x := x0 ++ x1 ++ x2 ++ x3) rfl
    (by simp only [toNat_append_eq_mul_add]; omega)]
  simp only [fieldAt_eq_append_iff, and_assoc, zero_add]

@[simp] theorem wordX1_eq_iff {x0 x1 x2 x3 x4 x5} : wordX1 x0 x1 x2 x3 x4 x5 = w ↔
    fieldAt 31 1 w = x0 ∧ fieldAt 26 5 w = x1 ∧ fieldAt 22 4 w = x2 ∧ fieldAt 18 4 w = x3 ∧ fieldAt 12 6 w = x4 ∧
      fieldAt 0 12 w = x5 := by
  rw [wordX1, ofNat_eq_iff_fieldAt (x := x0 ++ x1 ++ x2 ++ x3 ++ x4 ++ x5) rfl
    (by simp only [toNat_append_eq_mul_add]; omega)]
  simp only [fieldAt_eq_append_iff, and_assoc, zero_add]

@[simp] theorem wordX2_eq_iff {x0 x1 x2 x3 x4} : wordX2 x0 x1 x2 x3 x4 = w ↔
    fieldAt 31 1 w = x0 ∧ fieldAt 26 5 w = x1 ∧ fieldAt 22 4 w = x2 ∧ fieldAt 18 4 w = x3 ∧ fieldAt 0 18 w = x4 := by
  rw [wordX2, ofNat_eq_iff_fieldAt (x := x0 ++ x1 ++ x2 ++ x3 ++ x4) rfl
    (by simp only [toNat_append_eq_mul_add]; omega)]
  simp only [fieldAt_eq_append_iff, and_assoc, zero_add]

@[simp] theorem wordX3_eq_iff {x0 x1 x2 x3 x4 x5 x6 x7 x8} : wordX3 x0 x1 x2 x3 x4 x5 x6 x7 x8 = w ↔
    fieldAt 31 1 w = x0 ∧ fieldAt 26 5 w = x1 ∧ fieldAt 22 4 w = x2 ∧ fieldAt 18 4 w = x3 ∧ fieldAt 12 6 w = x4 ∧ fieldAt 5 7 w = x5 ∧
      fieldAt 2 3 w = x6 ∧ fieldAt 1 1 w = x7 ∧ fieldAt 0 1 w = x8 := by
  rw [wordX3, ofNat_eq_iff_fieldAt (x := x0 ++ x1 ++ x2 ++ x3 ++ x4 ++ x5 ++ x6 ++ x7 ++ x8) rfl
    (by simp only [toNat_append_eq_mul_add]; omega)]
  simp only [fieldAt_eq_append_iff, and_assoc, zero_add]

@[simp] theorem wordZ1_eq_iff {x0 x1 x2 x3 x4 x5 x6 x7} : wordZ1 x0 x1 x2 x3 x4 x5 x6 x7 = w ↔
    fieldAt 31 1 w = x0 ∧ fieldAt 26 5 w = x1 ∧ fieldAt 22 4 w = x2 ∧ fieldAt 19 3 w = x3 ∧ fieldAt 15 4 w = x4 ∧ fieldAt 9 6 w = x5 ∧
      fieldAt 3 6 w = x6 ∧ fieldAt 0 3 w = x7 := by
  rw [wordZ1, ofNat_eq_iff_fieldAt (x := x0 ++ x1 ++ x2 ++ x3 ++ x4 ++ x5 ++ x6 ++ x7) rfl
    (by simp only [toNat_append_eq_mul_add]; omega)]
  simp only [fieldAt_eq_append_iff, and_assoc, zero_add]

@[simp] theorem wordZ2_eq_iff {x0 x1 x2 x3 x4 x5 x6 x7 x8} : wordZ2 x0 x1 x2 x3 x4 x5 x6 x7 x8 = w ↔
    fieldAt 31 1 w = x0 ∧ fieldAt 26 5 w = x1 ∧ fieldAt 22 4 w = x2 ∧ fieldAt 19 3 w = x3 ∧ fieldAt 15 4 w = x4 ∧ fieldAt 9 6 w = x5 ∧
      fieldAt 3 6 w = x6 ∧ fieldAt 1 2 w = x7 ∧ fieldAt 0 1 w = x8 := by
  rw [wordZ2, ofNat_eq_iff_fieldAt (x := x0 ++ x1 ++ x2 ++ x3 ++ x4 ++ x5 ++ x6 ++ x7 ++ x8) rfl
    (by simp only [toNat_append_eq_mul_add]; omega)]
  simp only [fieldAt_eq_append_iff, and_assoc, zero_add]

@[simp] theorem wordZ3_eq_iff {x0 x1 x2 x3 x4 x5 x6} : wordZ3 x0 x1 x2 x3 x4 x5 x6 = w ↔
    fieldAt 31 1 w = x0 ∧ fieldAt 26 5 w = x1 ∧ fieldAt 22 4 w = x2 ∧ fieldAt 19 3 w = x3 ∧ fieldAt 15 4 w = x4 ∧ fieldAt 9 6 w = x5 ∧
      fieldAt 0 9 w = x6 := by
  rw [wordZ3, ofNat_eq_iff_fieldAt (x := x0 ++ x1 ++ x2 ++ x3 ++ x4 ++ x5 ++ x6) rfl
    (by simp only [toNat_append_eq_mul_add]; omega)]
  simp only [fieldAt_eq_append_iff, and_assoc, zero_add]

@[simp] theorem wordZ4_eq_iff {x0 x1 x2 x3 x4 x5 x6} : wordZ4 x0 x1 x2 x3 x4 x5 x6 = w ↔
    fieldAt 31 1 w = x0 ∧ fieldAt 26 5 w = x1 ∧ fieldAt 22 4 w = x2 ∧ fieldAt 19 3 w = x3 ∧ fieldAt 9 10 w = x4 ∧ fieldAt 3 6 w = x5 ∧
      fieldAt 0 3 w = x6 := by
  rw [wordZ4, ofNat_eq_iff_fieldAt (x := x0 ++ x1 ++ x2 ++ x3 ++ x4 ++ x5 ++ x6) rfl
    (by simp only [toNat_append_eq_mul_add]; omega)]
  simp only [fieldAt_eq_append_iff, and_assoc, zero_add]

@[simp] theorem wordG1_eq_iff {x0 x1 x2 x3 x4} : wordG1 x0 x1 x2 x3 x4 = w ↔
    fieldAt 31 1 w = x0 ∧ fieldAt 26 5 w = x1 ∧ fieldAt 22 4 w = x2 ∧ fieldAt 16 6 w = x3 ∧ fieldAt 0 16 w = x4 := by
  rw [wordG1, ofNat_eq_iff_fieldAt (x := x0 ++ x1 ++ x2 ++ x3 ++ x4) rfl
    (by simp only [toNat_append_eq_mul_add]; omega)]
  simp only [fieldAt_eq_append_iff, and_assoc, zero_add]

@[simp] theorem wordG2_eq_iff {x0 x1 x2 x3 x4 x5} : wordG2 x0 x1 x2 x3 x4 x5 = w ↔
    fieldAt 31 1 w = x0 ∧ fieldAt 26 5 w = x1 ∧ fieldAt 22 4 w = x2 ∧ fieldAt 16 6 w = x3 ∧ fieldAt 10 6 w = x4 ∧
      fieldAt 0 10 w = x5 := by
  rw [wordG2, ofNat_eq_iff_fieldAt (x := x0 ++ x1 ++ x2 ++ x3 ++ x4 ++ x5) rfl
    (by simp only [toNat_append_eq_mul_add]; omega)]
  simp only [fieldAt_eq_append_iff, and_assoc, zero_add]

@[simp] theorem wordG3_eq_iff {x0 x1 x2 x3 x4 x5 x6 x7 x8 x9} : wordG3 x0 x1 x2 x3 x4 x5 x6 x7 x8 x9 = w ↔
    fieldAt 31 1 w = x0 ∧ fieldAt 26 5 w = x1 ∧ fieldAt 22 4 w = x2 ∧ fieldAt 16 6 w = x3 ∧ fieldAt 10 6 w = x4 ∧ fieldAt 4 6 w = x5 ∧
      fieldAt 3 1 w = x6 ∧ fieldAt 2 1 w = x7 ∧ fieldAt 1 1 w = x8 ∧ fieldAt 0 1 w = x9 := by
  rw [wordG3, ofNat_eq_iff_fieldAt (x := x0 ++ x1 ++ x2 ++ x3 ++ x4 ++ x5 ++ x6 ++ x7 ++ x8 ++ x9) rfl
    (by simp only [toNat_append_eq_mul_add]; omega)]
  simp only [fieldAt_eq_append_iff, and_assoc, zero_add]

@[simp] theorem wordG4_eq_iff {x0 x1 x2 x3 x4 x5 x6} : wordG4 x0 x1 x2 x3 x4 x5 x6 = w ↔
    fieldAt 31 1 w = x0 ∧ fieldAt 26 5 w = x1 ∧ fieldAt 22 4 w = x2 ∧ fieldAt 16 6 w = x3 ∧ fieldAt 10 6 w = x4 ∧ fieldAt 1 9 w = x5 ∧
      fieldAt 0 1 w = x6 := by
  rw [wordG4, ofNat_eq_iff_fieldAt (x := x0 ++ x1 ++ x2 ++ x3 ++ x4 ++ x5 ++ x6) rfl
    (by simp only [toNat_append_eq_mul_add]; omega)]
  simp only [fieldAt_eq_append_iff, and_assoc, zero_add]

@[simp] theorem wordE4_eq_iff {x0 x1 x2 x3 x4 x5 x6 x7} : wordE4 x0 x1 x2 x3 x4 x5 x6 x7 = w ↔
    fieldAt 31 1 w = x0 ∧ fieldAt 26 5 w = x1 ∧ fieldAt 22 4 w = x2 ∧ fieldAt 15 7 w = x3 ∧ fieldAt 9 6 w = x4 ∧ fieldAt 3 6 w = x5 ∧
      fieldAt 1 2 w = x6 ∧ fieldAt 0 1 w = x7 := by
  rw [wordE4, ofNat_eq_iff_fieldAt (x := x0 ++ x1 ++ x2 ++ x3 ++ x4 ++ x5 ++ x6 ++ x7) rfl
    (by simp only [toNat_append_eq_mul_add]; omega)]
  simp only [fieldAt_eq_append_iff, and_assoc, zero_add]

@[simp] theorem wordA12_eq_iff {x0 x1 x2 x3 x4 x5 x6 x7} : wordA12 x0 x1 x2 x3 x4 x5 x6 x7 = w ↔
    fieldAt 31 1 w = x0 ∧ fieldAt 26 5 w = x1 ∧ fieldAt 21 5 w = x2 ∧ fieldAt 14 7 w = x3 ∧ fieldAt 7 7 w = x4 ∧ fieldAt 2 5 w = x5 ∧
      fieldAt 1 1 w = x6 ∧ fieldAt 0 1 w = x7 := by
  rw [wordA12, ofNat_eq_iff_fieldAt (x := x0 ++ x1 ++ x2 ++ x3 ++ x4 ++ x5 ++ x6 ++ x7) rfl
    (by simp only [toNat_append_eq_mul_add]; omega)]
  simp only [fieldAt_eq_append_iff, and_assoc, zero_add]

@[simp] theorem wordA13_eq_iff {x0 x1 x2 x3 x4 x5} : wordA13 x0 x1 x2 x3 x4 x5 = w ↔
    fieldAt 31 1 w = x0 ∧ fieldAt 26 5 w = x1 ∧ fieldAt 21 5 w = x2 ∧ fieldAt 17 4 w = x3 ∧ fieldAt 14 3 w = x4 ∧
      fieldAt 0 14 w = x5 := by
  rw [wordA13, ofNat_eq_iff_fieldAt (x := x0 ++ x1 ++ x2 ++ x3 ++ x4 ++ x5) rfl
    (by simp only [toNat_append_eq_mul_add]; omega)]
  simp only [fieldAt_eq_append_iff, and_assoc, zero_add]

/-! ## Two fields that one field holds -/

/-- A 14-bit field is zero where both its register fields are. -/
theorem fieldAt_fourteen_eq_zero_iff : fieldAt 0 14 w = 0#14 ↔ fieldAt 7 7 w = 0#7 ∧ fieldAt 0 7 w = 0#7 :=
  fieldAt_eq_append_iff (x := 0#7) (y := 0#7)

/-- The low four bits of a QUE word are zero where its predicate and its last bit are. -/
theorem fieldAt_four_eq_zero_iff : fieldAt 0 4 w = 0#4 ↔ fieldAt 1 3 w = 0#3 ∧ fieldAt 0 1 w = 0#1 :=
  fieldAt_eq_append_iff (x := 0#3) (y := 0#1)

/-- The type bits of a `sel` are zero, so that its predicate is its whole function (09 R241). -/
@[simp] theorem wordT1_zero {x0 : BitVec 1} {x1 : BitVec 5} {x3 : BitVec 3} {x4 x5 x6 : BitVec 7} :
    wordT1 x0 x1 0#2 x3 x4 x5 x6 = wordA1 x0 x1 (x3.setWidth 5) x4 x5 x6 := by
  simp [wordT1, wordA1, show x3.toNat % 32 = x3.toNat by omega]

/-! ## Decoding a word gives an instruction that encodes as the word -/

/-- What a decoder answers for `w` encodes as `w`. -/
def Encodes (w : BitVec 32) (r : Except Reject Instr) : Prop := ∀ i, r = .ok i → encode i = some w

@[simp] theorem encodes_ok : Encodes w (.ok i) ↔ encode i = some w := by simp [Encodes]

@[simp] theorem encodes_error {r : Reject} : Encodes w (.error r) := by simp [Encodes]

@[simp] theorem encodes_acceptIf {ok : Bool} {r : Reject} : Encodes w (acceptIf ok i r) ↔ (ok = true → encode i = some w) := by
  cases ok <;> simp [acceptIf]

@[simp] theorem encodes_ite {ok : Prop} [Decidable ok] {a b : Except Reject Instr} :
    Encodes w (if ok then a else b) ↔ (ok → Encodes w a) ∧ (¬ok → Encodes w b) := by
  split <;> simp [*]

theorem encodes_decodeHdr (hm : (fieldAt 26 5 w).toNat = 0) : Encodes w (decodeHdr w) := by
  simp_all [decodeHdr, encode.eq_def, BitVec.toNat_eq_nat]

theorem encodes_decodeInt (hm : (fieldAt 26 5 w).toNat = 1) : Encodes w (decodeInt w) := by
  unfold decodeInt
  split <;> simp_all [encode.eq_def, BitVec.toNat_eq_nat]

theorem encodes_decodeInti (hm : (fieldAt 26 5 w).toNat = 2) : Encodes w (decodeInti w) := by
  unfold decodeInti
  split <;> simp_all [encode.eq_def, BitVec.toNat_eq_nat]

theorem encodes_decodeIntd (hm : (fieldAt 26 5 w).toNat = 3) : Encodes w (decodeIntd w) := by
  unfold decodeIntd
  split <;> simp_all [encode.eq_def, BitVec.toNat_eq_nat]

theorem encodes_decodeBits (hm : (fieldAt 26 5 w).toNat = 4) : Encodes w (decodeBits w) := by
  unfold decodeBits
  split <;> simp_all [encode.eq_def, BitVec.toNat_eq_nat]

theorem encodes_decodeFlt (hm : (fieldAt 26 5 w).toNat = 5) : Encodes w (decodeFlt w) := by
  unfold decodeFlt
  split <;> simp_all [encode.eq_def, BitVec.toNat_eq_nat]

theorem encodes_decodeFma (hm : (fieldAt 26 5 w).toNat = 6) : Encodes w (decodeFma w) := by
  unfold decodeFma
  split <;> simp_all [encode.eq_def, BitVec.toNat_eq_nat]

theorem encodes_decodeCvt (hm : (fieldAt 26 5 w).toNat = 7) : Encodes w (decodeCvt w) := by
  unfold decodeCvt
  split <;> simp_all [encode.eq_def, BitVec.toNat_eq_nat]

theorem encodes_decodeCmp (hm : (fieldAt 26 5 w).toNat = 8) : Encodes w (decodeCmp w) := by
  unfold decodeCmp
  split <;> simp_all [encode.eq_def, BitVec.toNat_eq_nat]

theorem encodes_decodeMov (hm : (fieldAt 26 5 w).toNat = 9) : Encodes w (decodeMov w) := by
  unfold decodeMov
  split <;> simp_all [encode.eq_def, BitVec.toNat_eq_nat]

theorem encodes_decodeUni (hm : (fieldAt 26 5 w).toNat = 10) : Encodes w (decodeUni w) := by
  unfold decodeUni
  split <;> simp_all [encode.eq_def, BitVec.toNat_eq_nat]

theorem encodes_decodeImm (hm : (fieldAt 26 5 w).toNat = 11) : Encodes w (decodeImm w) := by
  unfold decodeImm
  split <;> simp_all [encode.eq_def, BitVec.toNat_eq_nat]

theorem encodes_decodeBr (hm : (fieldAt 26 5 w).toNat = 12) : Encodes w (decodeBr w) := by
  unfold decodeBr
  split <;> simp_all [encode.eq_def, BitVec.toNat_eq_nat]

theorem encodes_decodeCtl (hm : (fieldAt 26 5 w).toNat = 13) : Encodes w (decodeCtl w) := by
  unfold decodeCtl
  split <;> simp_all [encode.eq_def, BitVec.toNat_eq_nat]

theorem encodes_decodeLd (hm : (fieldAt 26 5 w).toNat = 14) : Encodes w (decodeLd w) := by
  unfold decodeLd
  split <;> simp_all [encode.eq_def, BitVec.toNat_eq_nat]

theorem encodes_decodeSt (hm : (fieldAt 26 5 w).toNat = 15) : Encodes w (decodeSt w) := by
  unfold decodeSt
  split <;> simp_all [encode.eq_def, BitVec.toNat_eq_nat]

theorem encodes_decodeAtom (hm : (fieldAt 26 5 w).toNat = 16) : Encodes w (decodeAtom w) := by
  unfold decodeAtom
  split <;> simp_all [encode.eq_def, BitVec.toNat_eq_nat]

theorem encodes_decodeAtomd (hm : (fieldAt 26 5 w).toNat = 17) : Encodes w (decodeAtomd w) := by
  unfold decodeAtomd
  split <;> simp_all [encode.eq_def, BitVec.toNat_eq_nat]

theorem encodes_decodeXl (hm : (fieldAt 26 5 w).toNat = 18) : Encodes w (decodeXl w) := by
  unfold decodeXl
  split <;> simp_all [encode.eq_def, BitVec.toNat_eq_nat]

theorem encodes_decodeSync (hm : (fieldAt 26 5 w).toNat = 19) : Encodes w (decodeSync w) := by
  unfold decodeSync
  split <;> simp_all [encode.eq_def, BitVec.toNat_eq_nat]

theorem encodes_decodeQue (hm : (fieldAt 26 5 w).toNat = 20) : Encodes w (decodeQue w) := by
  unfold decodeQue
  split <;> simp_all [encode.eq_def, BitVec.toNat_eq_nat]

theorem encodes_decodeCopy (hm : (fieldAt 26 5 w).toNat = 21) : Encodes w (decodeCopy w) := by
  unfold decodeCopy
  split <;> simp_all [encode.eq_def, BitVec.toNat_eq_nat]

theorem encodes_decodeMx (hm : (fieldAt 26 5 w).toNat = 22) : Encodes w (decodeMx w) := by
  unfold decodeMx
  split <;> simp_all [encode.eq_def, BitVec.toNat_eq_nat]

theorem encodes_decodeBf (hm : (fieldAt 26 5 w).toNat = 23) : Encodes w (decodeBf w) := by
  unfold decodeBf
  split <;> simp_all [encode.eq_def, BitVec.toNat_eq_nat]

theorem encodes_decodeAcc (hm : (fieldAt 26 5 w).toNat = 24) : Encodes w (decodeAcc w) := by
  unfold decodeAcc
  split <;> simp_all [encode.eq_def, BitVec.toNat_eq_nat]

theorem encodes_decodePhy (hm : (fieldAt 26 5 w).toNat = 25) : Encodes w (decodePhy w) := by
  unfold decodePhy
  split <;> simp_all [encode.eq_def, BitVec.toNat_eq_nat]

theorem encodes_decodeEnv (hm : (fieldAt 26 5 w).toNat = 26) : Encodes w (decodeEnv w) := by
  unfold decodeEnv
  split <;> simp_all [encode.eq_def, BitVec.toNat_eq_nat]

theorem encodes_decodeHyp (hm : (fieldAt 26 5 w).toNat = 27) : Encodes w (decodeHyp w) := by
  unfold decodeHyp
  split <;> simp_all [encode.eq_def, BitVec.toNat_eq_nat]

theorem encodes_decodeReg (hm : (fieldAt 26 5 w).toNat = 28) : Encodes w (decodeReg w) := by
  unfold decodeReg
  split <;> simp_all [encode.eq_def, BitVec.toNat_eq_nat]

theorem encodes_decodeSys (hm : (fieldAt 26 5 w).toNat = 29) : Encodes w (decodeSys w) := by
  unfold decodeSys
  split <;> simp_all [encode.eq_def, BitVec.toNat_eq_nat]

/-- Decoding answers the instruction whose word it reads. -/
theorem encodes_decodeWord : Encodes w (decodeWord w) := by
  unfold decodeWord
  split
  · exact encodes_decodeHdr ‹_›
  · exact encodes_decodeInt ‹_›
  · exact encodes_decodeInti ‹_›
  · exact encodes_decodeIntd ‹_›
  · exact encodes_decodeBits ‹_›
  · exact encodes_decodeFlt ‹_›
  · exact encodes_decodeFma ‹_›
  · exact encodes_decodeCvt ‹_›
  · exact encodes_decodeCmp ‹_›
  · exact encodes_decodeMov ‹_›
  · exact encodes_decodeUni ‹_›
  · exact encodes_decodeImm ‹_›
  · exact encodes_decodeBr ‹_›
  · exact encodes_decodeCtl ‹_›
  · exact encodes_decodeLd ‹_›
  · exact encodes_decodeSt ‹_›
  · exact encodes_decodeAtom ‹_›
  · exact encodes_decodeAtomd ‹_›
  · exact encodes_decodeXl ‹_›
  · exact encodes_decodeSync ‹_›
  · exact encodes_decodeQue ‹_›
  · exact encodes_decodeCopy ‹_›
  · exact encodes_decodeMx ‹_›
  · exact encodes_decodeBf ‹_›
  · exact encodes_decodeAcc ‹_›
  · exact encodes_decodePhy ‹_›
  · exact encodes_decodeEnv ‹_›
  · exact encodes_decodeHyp ‹_›
  · exact encodes_decodeReg ‹_›
  · exact encodes_decodeSys ‹_›
  · exact encodes_error

/-! ## Decoding the word of an instruction gives the instruction -/

@[simp] theorem acceptIf_true {r : Reject} : acceptIf true i r = .ok i := rfl

/-- `sel` by p0 is no instruction (09 R241). -/
theorem ne_zero_of_wellFormed_sel {c : BitVec 1} {n : BitVec 3} {d a b : BitVec 7} (h : (Instr.sel c n d a b).wellFormed = true) :
    n ≠ 0 := by
  simp_all [Instr.wellFormed, Instr.use, Machine.useSel, Machine.Use.encodingOk]

theorem decodeWord_sel {c : BitVec 1} {n : BitVec 3} {d a b : BitVec 7} (hn : n ≠ 0) (h : encode (.sel c n d a b) = some w) :
    decodeWord w = .ok (.sel c n d a b) := by
  have cases : n = 1 ∨ n = 2 ∨ n = 3 ∨ n = 4 ∨ n = 5 ∨ n = 6 ∨ n = 7 := by clear h; revert n; decide
  simp [encode.eq_def] at h
  rcases cases with rfl | rfl | rfl | rfl | rfl | rfl | rfl <;> simp [decodeWord, decodeMov, h]

/-- The word of a well-formed instruction decodes to it: the words major by major (09 R240); an event has none. -/
theorem decodeWord_of_encode (hw : i.wellFormed = true) (h : encode i = some w) : decodeWord w = .ok i := by
  cases i with
  | hdr =>
    simp [encode.eq_def] at h
    rw [decodeWord, h.2.1]
    show decodeHdr w = _
    simp [decodeHdr, h]
  | add | sub | mul | mulh | mulhu | min | max | minu | maxu | and | or | xor | andn | orn | shl | shr | sra | rotl | rotr
    | addc | subb | absd =>
    simp [encode.eq_def] at h
    rw [decodeWord, h.2.1]
    show decodeInt w = _
    simp [decodeInt, h]
  | addi | andi | ori | xori | shli | shri | srai | muli =>
    simp [encode.eq_def] at h
    rw [decodeWord, h.2.1]
    show decodeInti w = _
    simp [decodeInti, h]
  | addD | subD | mulD | mulhD | mulhuD | minD | maxD | minuD | maxuD | andD | orD | xorD | shlD | shrD | sraD =>
    simp [encode.eq_def] at h
    rw [decodeWord, h.2.1]
    show decodeIntd w = _
    simp [decodeIntd, h]
  | clz | ctz | popc | brev | bext | bins | ilv2 | ilv3 | dlv3 | cpl | bsel | prmt =>
    simp [encode.eq_def] at h
    rw [decodeWord, h.2.1]
    show decodeBits w = _
    simp [decodeBits, h]
  | fadd | fsub | fmul | fmin | fmax | fminm | fmaxm | fdiv =>
    simp [encode.eq_def] at h
    rw [decodeWord, h.2.1]
    show decodeFlt w = _
    simp [decodeFlt, h]
  | fma | fms | fnma | fnms =>
    simp [encode.eq_def] at h
    rw [decodeWord, h.2.1]
    show decodeFma w = _
    simp [decodeFma, h]
  | cvt | rcp | rsq | sqrt | exp2 | log2 | sinp | rint =>
    simp [encode.eq_def] at h
    rw [decodeWord, h.2.1]
    show decodeCvt w = _
    simp [decodeCvt, h]
  | cmpEq | cmpNe | cmpLt | cmpLe | cmpGt | cmpGe | cmpLtu | cmpLeu | cmpGtu | cmpGeu | cmpFeq | cmpFne | cmpFlt | cmpFle
    | cmpFgt | cmpFge | cmpFun | cmpFord =>
    simp [encode.eq_def] at h
    rw [decodeWord, h.2.1]
    show decodeCmp w = _
    simp [decodeCmp, h]
  | mov | lid | gidx | bcast | pand | por | pxor | pnot | vote | smovv | movpGet | movpSet =>
    simp [encode.eq_def] at h
    rw [decodeWord, h.2.1]
    show decodeMov w = _
    simp [decodeMov, h, fieldAt_fourteen_eq_zero_iff]
  | sadd | ssub | smul | sand | sor | sxor | sshl | sshr | ssra | smin | smax | sminu | smaxu | smov | scmplt | scmpeq =>
    simp [encode.eq_def] at h
    rw [decodeWord, h.2.1]
    show decodeUni w = _
    simp [decodeUni, h]
  | movi | movx | smovi | smovx =>
    simp [encode.eq_def] at h
    rw [decodeWord, h.2.1]
    show decodeImm w = _
    simp [decodeImm, h]
  | jmp | bt | bf | bany | ball | call =>
    simp [encode.eq_def] at h
    rw [decodeWord, h.2.1]
    show decodeBr w = _
    simp [decodeBr, h]
  | nop | exit | ret | brx | yield | trap | ient | regroup | bkpt =>
    simp [encode.eq_def] at h
    rw [decodeWord, h.2.1]
    show decodeCtl w = _
    simp [decodeCtl, h]
  | ldB | ldBs | ldH | ldHs | ldW | ldD | ldQ | ldl | sld | ldNc =>
    simp [encode.eq_def] at h
    rw [decodeWord, h.2.1]
    show decodeLd w = _
    simp [decodeLd, h]
  | stB | stH | stW | stD | stQ | stl | sst =>
    simp [encode.eq_def] at h
    rw [decodeWord, h.2.1]
    show decodeSt w = _
    simp [decodeSt, h]
  | atomAdd | atomSub | atomAnd | atomOr | atomXor | atomMin | atomMax | atomUmin | atomUmax | atomXchg | atomCas | atomFadd
    | atomFmin | atomFmax | atomLd | atomSt =>
    simp [encode.eq_def] at h
    rw [decodeWord, h.2.1]
    show decodeAtom w = _
    simp [decodeAtom, h]
  | atomdAdd | atomdSub | atomdAnd | atomdOr | atomdXor | atomdMin | atomdMax | atomdUmin | atomdUmax | atomdXchg | atomdCas
    | atomdFadd | atomdFmin | atomdFmax | atomdLd | atomdSt =>
    simp [encode.eq_def] at h
    rw [decodeWord, h.2.1]
    show decodeAtomd w = _
    simp [decodeAtomd, h]
  | shfl | shflUp | shflDn | shflXor | perm | scanAdd | scanAddx | rdcAdd | rdcMin | rdcMax | rbal | cmpx | scanFadd =>
    simp [encode.eq_def] at h
    rw [decodeWord, h.2.1]
    show decodeXl w = _
    simp [decodeXl, h]
  | fence | fenceSc | barInit | barArrive | barWait | barSync | barDrop | msync | drain | fwait | sbarInit | sbarWait
    | sbarArrive | barTry =>
    simp [encode.eq_def] at h
    rw [decodeWord, h.2.1]
    show decodeSync w = _
    simp [decodeSync, h]
  | qput | qget | qputTry | qgetTry | qlen | spawn | spawnTry | take | steal =>
    simp [encode.eq_def] at h
    rw [decodeWord, h.2.1]
    show decodeQue w = _
    simp [decodeQue, h, fieldAt_four_eq_zero_iff]
  | kick | copy | copyT | gfill | mcast | rfence =>
    simp [encode.eq_def] at h
    rw [decodeWord, h.2.1]
    show decodeCopy w = _
    simp [decodeCopy, h]
  | mres | mrel | mmad | mmadSp | gang | capoTake | capoPass | mlease | mfree =>
    simp [encode.eq_def] at h
    rw [decodeWord, h.2.1]
    show decodeMx w = _
    simp [decodeMx, h]
  | bfstg | bfchn | bfstgT | bfwg | zset | zget =>
    simp [encode.eq_def] at h
    rw [decodeWord, h.2.1]
    show decodeBf w = _
    simp [decodeBf, h]
  | accclr | accld | epi | accmv | accput | accst =>
    simp [encode.eq_def] at h
    rw [decodeWord, h.2.1]
    show decodeAcc w = _
    simp [decodeAcc, h]
  | srt | bvht | bslv | bsadj =>
    simp [encode.eq_def] at h
    rw [decodeWord, h.2.1]
    show decodePhy w = _
    simp [decodePhy, h]
  | rng | rngD | rngf | eprst | skey | sctr =>
    simp [encode.eq_def] at h
    rw [decodeWord, h.2.1]
    show decodeEnv w = _
    simp [decodeEnv, h]
  | hnew | henter | hleave | hcf | hrf | hqry =>
    simp [encode.eq_def] at h
    rw [decodeWord, h.2.1]
    show decodeHyp w = _
    simp [decodeHyp, h]
  | xacq | xrel | rld | srd | swr | xtry =>
    simp [encode.eq_def] at h
    rw [decodeWord, h.2.1]
    show decodeReg w = _
    simp [decodeReg, h]
  | tret | sleep | mcall =>
    simp [encode.eq_def] at h
    rw [decodeWord, h.2.1]
    show decodeSys w = _
    simp [decodeSys, h]
  | sel => exact decodeWord_sel (ne_zero_of_wellFormed_sel hw) h
  | _ => nomatch h

/-- The four bytes of a word, the lowest first, are read back as the word (00 R6). -/
theorem decodeBytes_bytesOfWord (w : BitVec 32) (rest : List Byte) : decodeBytes (bytesOfWord w ++ rest) = some (decodeWord w, rest) := by
  have whole : wordOfBytes (fieldAt 0 8 w) (fieldAt 8 8 w) (fieldAt 16 8 w) (fieldAt 24 8 w) = w := by
    apply BitVec.eq_of_toNat_eq
    simp only [wordOfBytes, fieldAt, BitVec.toNat_ofNat]
    omega
  simp only [bytesOfWord, List.cons_append, List.nil_append, decodeBytes, whole]

end

end Sys2Proof
end

section
/-! The obligation. -/

open Sys2Proof

/-- Settles O58: a word in memory is read back whole, the decoder answers the instruction whose fields the word has, and what it
answers encodes as the word. -/
theorem decodeEncode : Obligations.DecodeEncode := by
  refine ⟨fun i w rest hw he => ?_, fun i w h => encodes_decodeWord i h⟩
  rw [decodeBytes_bytesOfWord, decodeWord_of_encode hw he]

end

section
/-! # The reserved majors (O57) -/

namespace Sys2Proof

theorem fieldAt_eq_extractLsb' (lo len : Nat) (w : BitVec 32) : fieldAt lo len w = w.extractLsb' lo len := by
  rw [fieldAt, BitVec.extractLsb', Nat.shiftRight_eq_div_pow]

/-- Majors 30 and 31 are reserved (09 R240). -/
theorem decodeWord_reservedMajor {w : BitVec 32} (h : fieldAt 26 5 w = 30 ∨ fieldAt 26 5 w = 31) :
    decodeWord w = .error .reservedMajor := by
  rcases h with h | h <;> rw [decodeWord, h] <;> rfl

end Sys2Proof
end

section
/-! The obligation. -/

open Sys2Proof

/-- Settles O57: each of the ten words is decoded by evaluation, and the words of the majors 30 and 31 by the field that they share. -/
theorem decodeWords : Obligations.DecodeWords :=
  ⟨rfl, rfl, rfl, rfl, rfl, rfl, rfl, rfl, rfl, rfl, fun w h =>
    ⟨_, decodeWord_reservedMajor (by simpa only [fieldAt_eq_extractLsb'] using h)⟩⟩

end

section
/-! # A clause header in its place (O18) -/

namespace Sys2Proof.Machine

/-- The end of a word that changes its group by `f`: the current entry is replaced by the outcomes, and the word is counted
(07 R190). -/
theorem finish_of_advanced {u : Use} {v : Env} {outs : List Outc} {s0 s : State} {f : Group → Group} {y z : Group}
    (hc : u.c ≠ 1) (hl : s0.limit = none) (hg : s.group? v.r = some y) (hh : (f y).handler = none → v.grp.handler = none)
    (ha : advanced (s0.headerAt v.part) v outs ((f y).retire u v.r.core) = some z)
    (hz : z.frontier ≠ [] ∨ z.aside ≠ [] ∨ z.handler ≠ none) :
    finish u v outs s0 (s.modGroup v.r f) = { s.modGroup v.r (fun _ => z) with ofs := 0, note := .performed } := by
  have stays : (v.grp.handler.isSome && ((f y).retire u v.r.core).handler.isNone) = false := by
    cases h : (f y).handler <;> simp_all [Group.retire]
  have left : (z.frontier.isEmpty && z.aside.isEmpty && z.handler.isNone) = false := by
    rcases hz with h | h | h
    · simp [h]
    · simp [h]
    · simp [Option.isNone_eq_false_iff.2 (Option.isSome_iff_ne_none.2 h)]
  simp only [finish, hc, hl, State.modGroup_modGroup, State.group?_modGroup, hg, Option.map_some, stays, ha, left, if_false,
    Bool.false_eq_true]

/-- GMASK after a header holds the lanes of the entry in which the guard is false. -/
theorem guardMask_eq_guardedOff (v : Env) (g : BitVec 1) (p : BitVec 3) (n : BitVec 1) :
    guardMask v.grp v.e.mask g p n = guardedOff v g p n := by
  unfold guardMask guardedOff
  split
  · rfl
  · apply BitVec.eq_of_getLsbD_eq
    intro l hl
    rw [getLsbD_maskOf]
    by_cases hn : n = 1
    · rw [if_pos hn, decide_eq_true hn]
      simp [hl]
    · rw [if_neg hn, decide_eq_false hn]
      simp [hl]

/-- Frets that are clear and hold no status hold up no header and fail none. -/
theorem fretsDone.clear {x : Group} {m : Nat} (h : fretsDone x m) : (fretsOf m).all x.fretClear = true := by
  simp only [fretsOf, List.all_eq_true, List.mem_filter, List.mem_range, decide_eq_true_eq]
  exact fun f hf => decide_eq_true (h f hf.1 hf.2).1

theorem fretsDone.failedFret {x : Group} {m : Nat} (h : fretsDone x m) : x.failedFret (fretsOf m) = none := by
  simp only [Group.failedFret, fretsOf, List.find?_eq_none, List.mem_filter, List.mem_range, decide_eq_true_eq]
  exact fun f hf => not_not_intro (h f hf.1 hf.2).2

/-- A header's guard is the one register that it reads. -/
theorem interlocked_guard {x : Group} {p : BitVec 3} (h : (.p, p.toNat) ∉ x.pendingRegs) :
    ({ c := 0, ops := [.ps p], once := true } : Use).interlocked x = false := by
  simp [Use.interlocked, Use.names, Use.dests, Opnd.ps, Opnd.names, h]

theorem hdrLegal_of {pc : Nat} {a b : BitVec 4} {g n : BitVec 1} {p : BitVec 3} (hpc : pc % 12 = 0) (ha : a.toNat < 12 ∨ a = 15)
    (hb : b.toNat < 12 ∨ b = 15) (hg : g = 1 ∨ (p = 0 ∧ n = 0)) : hdrLegal pc a b g p n = true := by
  simpa [hdrLegal, hpc] using ⟨⟨ha, hb⟩, hg⟩

end Sys2Proof.Machine
end

section
/-! The obligation. -/

open Sys2Proof Sys2Proof.Machine

/-- Settles O18: no check of the header holds it up, and what it ends with is the end of a word that changes its group alone. -/
theorem headerWord : Obligations.HeaderWord := by
  intro w a b g p n s v y z henv hlimit hgroup hhandler hpc ha hb hguard hfrets hpending gm v' y' hadv hleft
  have ready : (decide (g = 1) && ({ c := 0, ops := [.ps p], once := true } : Use).interlocked v.grp) = false := by
    by_cases hg : g = 1
    · rw [interlocked_guard (hpending hg), Bool.and_false]
    · rw [decide_eq_false hg, Bool.false_and]
  have issues : execHdr w a b g p n s = .next (finish { c := 0, ops := [.ps p], once := true } v' (nextOutc v') s
      (s.modGroup v.r fun x => { x with handler := x.handler.map fun h => { h with entry := { h.entry with gmask := gm, due := false } } })) := by
    simp only [execHdr, henv, hdrStep, hdrLegal_of hpc ha hb hguard, ready, hfrets.clear, hfrets.failedFret, guardMask_eq_guardedOff,
      Bool.not_true, Bool.or_self, Bool.false_eq_true, if_false]
    rfl
  refine issues.trans (congrArg _ (finish_of_advanced (v := v') (show (0 : BitVec 1) ≠ 1 by decide) hlimit hgroup ?_ hadv hleft))
  simpa using hhandler

end

section
/-! # What moves in a step (O56) -/

namespace Sys2Proof.Machine

/-! ## A trap leaves the clock as it is -/

section
variable {s : State} {r : GroupRef} {c slot part : Nat}

theorem State.cycle_foldl {α : Type} {f : State → α → State} (h : ∀ s a, (f s a).cycle = s.cycle) (l : List α) (s : State) :
    (l.foldl f s).cycle = s.cycle :=
  List.foldlRecOn (motive := fun t : State => t.cycle = s.cycle) l f rfl fun t ht a _ => (h t a).trans ht

@[simp] theorem State.dropPush_cycle : (s.dropPush r).cycle = s.cycle := by
  unfold State.dropPush
  split <;> rfl

@[simp] theorem State.breakStages_cycle {kept : Bool} : (s.breakStages r kept).cycle = s.cycle := by
  refine State.cycle_foldl (fun s c => State.cycle_foldl (fun s a => ?_) _ s) _ s
  split <;> rfl

@[simp] theorem State.breakLatch_cycle : (s.breakLatch r).cycle = s.cycle := by
  have one : ∀ (s : State) (m : GroupRef) (l : Latched), (s.breakLatchOf m l).cycle = s.cycle := fun s m l => by
    unfold State.breakLatchOf
    dsimp only
    split <;> rfl
  unfold State.breakLatch
  split
  · rfl
  · refine State.cycle_foldl (fun s kx => ?_) _ s
    split
    · rfl
    · exact State.cycle_foldl (fun s l => one s _ l) _ s

@[simp] theorem State.enterRequests_cycle : (s.enterRequests c).cycle = s.cycle := by
  unfold State.enterRequests State.askGrant
  dsimp only
  split <;> simp

@[simp] theorem State.exitLanes_cycle {m : Lanes} : (s.exitLanes r part m).cycle = s.cycle := by
  have one : ∀ (s : State) (id : Nat), (s.countRef part id false).cycle = s.cycle := fun s id => by
    unfold State.countRef
    split <;> simp
  unfold State.exitLanes
  split
  · rfl
  · exact State.cycle_foldl (fun s l => one s _) _ s

@[simp] theorem State.groupGone_cycle {kept : Bool} : (s.groupGone r kept).cycle = s.cycle := by
  unfold State.groupGone
  split
  · rfl
  · simp

@[simp] theorem State.teamOver_cycle : (s.teamOver c slot).cycle = s.cycle := by
  unfold State.teamOver State.setMember
  split
  · rfl
  · split <;> simp

@[simp] theorem State.recheckRegroup_cycle : (s.recheckRegroup r).cycle = s.cycle := by
  unfold State.recheckRegroup
  split
  · rfl
  · split <;> simp

@[simp] theorem State.groupExit_cycle : (s.groupExit r).cycle = s.cycle := by
  unfold State.groupExit
  split <;> simp

@[simp] theorem State.killTeam_cycle {st : BitVec 8} : (s.killTeam c slot st).cycle = s.cycle := by
  have gone : ∀ (part : Nat) (m : Lanes) (l : List GroupRef),
      (l.foldl (fun s r => (s.exitLanes r part m).groupGone r false) s).cycle = s.cycle :=
    fun part m l => State.cycle_foldl (fun s r => by simp) l s
  have killed : ∀ (l : List GroupRef) (u : State), (l.foldl (fun s r => s.modGroup r Group.killed) u).cycle = u.cycle :=
    State.cycle_foldl fun _ _ => rfl
  unfold State.killTeam State.setMember State.launchStatus
  split
  · rfl
  · simp [gone, killed]

@[simp] theorem State.retireOrphans_cycle {p : TrapSite} : (s.retireOrphans r part p).cycle = s.cycle := by
  unfold State.retireOrphans State.recheckMsync
  dsimp only
  split
  · simp
  · split <;> simp

/-- Taking a trap takes no time of its own. -/
@[simp] theorem State.takeTrap_cycle {t : Trap} {p : TrapSite} : (s.takeTrap r t p).cycle = s.cycle := by
  unfold State.takeTrap
  split
  · dsimp only
    split
    · simp
    · split
      · split <;> simp
      · split
        · simp
        · split <;> split <;> simp [State.dropTail, State.scratchWrite]
  · rfl

end

/-! ## Fetch -/

/-- Four bytes of a memory as one word (00 R6). -/
theorem Mem.ofNat_read_four (m : Mem) (a : Nat) : BitVec.ofNat 32 (m.read 4 a) =
    wordOfBytes (m.byte a) (m.byte (a + 1)) (m.byte (a + 2)) (m.byte (a + 3)) := by
  simp only [Mem.read, wordOfBytes, Nat.add_assoc, Nat.reduceAdd]
  congr 1
  omega

section
variable {s s0 : State} {g : GroupRef} {v : Env} {w : Word} {die part pc n : Nat}

theorem codeWord_of_leaf {b : Nat} {e : DWord} {l : List Nat} (hw : s.walk part pc = .leaf e b l)
    (he : pteBit e 61 = true) (hp : placeOf (leafAddr e b pc) = .hbm) :
    s.codeWord part pc = some (wordOfBytes (s.hbm.byte (leafAddr e b pc)) (s.hbm.byte (leafAddr e b pc + 1))
      (s.hbm.byte (leafAddr e b pc + 2)) (s.hbm.byte (leafAddr e b pc + 3))) := by
  simp [State.codeWord, State.rootRead, hw, he, hp, Mem.ofNat_read_four]

/-- A word with C = 0 ends its chain (09 R228). -/
theorem fetchWords_last (ho : s.fetchStop die part pc = none) (hw : s.codeWord part pc = some w) (hc : w.getLsbD 31 = false) :
    s.fetchWords die part (n + 1) pc = .words [w] := by
  simp only [State.fetchWords, ho, hw, hc, if_true]

/-- After a word with C = 1 the chain goes on (09 R228). -/
theorem fetchWords_cons {ws : List Word} (ho : s.fetchStop die part pc = none) (hw : s.codeWord part pc = some w)
    (hc : w.getLsbD 31 = true) (ht : s.fetchWords die part n (pc + 4) = .words ws) :
    s.fetchWords die part (n + 1) pc = .words (w :: ws) := by
  simp only [State.fetchWords, ho, hw, hc, ht, Bool.true_eq_false, if_false]

theorem fetchWords_stop {f : Fetched} (h : s.fetchStop die part pc = some f) : s.fetchWords die part (n + 1) pc = f := by
  simp only [State.fetchWords, h]

/-- At every address a packet has room for one word more (09 R226). -/
theorem fetchChain_eq (s : State) (die part pc : Nat) : s.fetchChain die part pc = s.fetchWords die part (2 - pc % 12 / 4 + 1) pc := by
  rw [State.fetchChain, show 3 - pc % 12 / 4 = 2 - pc % 12 / 4 + 1 by omega]

/-! ## One issue -/

/-- The environment of an issuing group is that of its team as it stands (07 R185). -/
theorem env_of_issuing (h : (s.issuing g).env = some v) : v.r = g ∧ (s.issuing g).team? g = some v.team := by
  unfold State.env at h
  split at h
  next => cases h
  next t ht =>
    split at h
    next => cases h
    next =>
      split at h
      next => cases h
      next => cases h; exact ⟨rfl, ht⟩

theorem chainTeam_of_whole (h : v.e.tail = false) : s.chainTeam v = v.team := by
  unfold State.chainTeam
  split
  · rfl
  · simp [h]

theorem step_group (hm : s.mover = some (.group g)) : step s = tick (issueChain g (s.moving (.group g))) := by
  rw [step, hm]
  rfl

theorem step_outside {k : Nat} (hm : s.mover = some (.outside k)) : step s = tick (arrival k (s.moving (.outside k))) := by
  rw [step, hm]
  rfl

theorem arrival_of_inl {k : Nat} {x : Input} {t : State} (hx : s.outside[k]? = some x) (h : s.arrive x = .inl t) :
    arrival k s = happened t := by
  simp only [arrival, hx, h]

theorem arrival_of_inr {k : Nat} {x : Input} {t : State} (hx : s.outside[k]? = some x) (h : s.arrive x = .inr t) :
    arrival k s = happened { t with outside := t.outside.eraseIdx k } := by
  simp only [arrival, hx, h]

/-- A word alone is a chain as it should be (09 R228). -/
theorem chainOk_single {k : UseCtx} {i : Instr} (h : w.getLsbD 31 = false) : chainOk k [w] [i] = true := by
  simpa [chainOk, lastWord] using h

theorem issueChain_single {i : Instr} (hs : s0 = s.issuing g) (hv : s0.env = some v) (hw : v.e.tail = false)
    (hf : s0.fetchChain (dieOf g.core) v.part v.pc = .words [w]) (hc : w.getLsbD 31 = false) (hd : decodeWord w = .ok i) :
    issueChain g s = exec i s0 := by
  subst hs
  simp only [issueChain, hv, hf, decodeAll, hd, chainOk_single hc, hw, Bool.not_true, Bool.false_eq_true, if_false]

theorem issueChain_illegal {r : Reject} (hs : s0 = s.issuing g) (hv : s0.env = some v)
    (hf : s0.fetchChain (dieOf g.core) v.part v.pc = .words [w]) (hd : decodeWord w = .error r) :
    issueChain g s = .next (refuseChain v (.atIssue 0 (refusedCause v [w])) 1 s0) := by
  subst hs
  simp only [issueChain, hv, hf, decodeAll, hd, List.length_singleton]

theorem issueChain_held {s1 : State} (hs : s0 = s.issuing g) (hv : s0.env = some v)
    (hf : s0.fetchStop (dieOf g.core) v.part v.pc = some (.held s1)) : issueChain g s = .next { s1 with note := .waits } := by
  subst hs
  simp only [issueChain, hv, fetchChain_eq, fetchWords_stop hf]

theorem issueChain_fault {s1 : State} {cls c va : Nat} (hs : s0 = s.issuing g) (hv : s0.env = some v)
    (hf : s0.fetchStop (dieOf g.core) v.part v.pc = some (.fault cls c va s1)) :
    issueChain g s = .next (refuseChain v ⟨cls, c, none, va, 0, false, 0⟩ 1 s1) := by
  subst hs
  simp only [issueChain, hv, fetchChain_eq, fetchWords_stop hf]

/-- A word alone that must be a header and is none says so (09 R239, R243). -/
theorem refusedCause_single : refusedCause v [w] = if v.e.due = true ∧ isHeader w = false then 1 else 0 := by
  simp [refusedCause]

theorem tick_refuseChain {t : Trap} {k : Nat} : tick (.next (refuseChain v t k s)) =
    .next { s.takeTrap v.r t ⟨v.e, v.em, 0, v.pc, v.pc + 4 * k, false, none⟩ with note := .performed, cycle := s.cycle + 1 } := by
  simp [tick, refuseChain]

/-- Two words of a chain that are both performed. -/
theorem runChain_pair {ws : List Word} {i1 i2 : Instr} {t1 t2 : State}
    (h1 : exec i1 { s0 with ofs := 0, note := .performed } = .next t1) (n1 : t1.note = .performed)
    (h2 : exec i2 { t1 with ofs := 1, note := .performed } = .next t2) (n2 : t2.note = .performed) :
    runChain v ws [i1, i2] s0 = .next (t2.endChain.dropTail v.r) := by
  simp only [runChain, runWords, ChainEnd.start, h1, n1, h2, n2, Nat.zero_add]
  rfl

theorem issueChain_pair {w1 w2 : Word} {i1 i2 : Instr} {t1 t2 : State} (hs : s0 = s.issuing g) (hv : s0.env = some v) (hw : v.e.tail = false)
    (hf : s0.fetchChain (dieOf g.core) v.part v.pc = .words [w1, w2]) (hd1 : decodeWord w1 = .ok i1) (hd2 : decodeWord w2 = .ok i2)
    (hok : chainOk (s0.useCtx v) [w1, w2] [i1, i2] = true)
    (h1 : exec i1 { s0 with snap := s0.team? g, ofs := 0, note := .performed } = .next t1) (n1 : t1.note = .performed)
    (h2 : exec i2 { t1 with ofs := 1, note := .performed } = .next t2) (n2 : t2.note = .performed) :
    issueChain g s = .next (t2.endChain.dropTail v.r) := by
  subst hs
  rw [(env_of_issuing hv).2] at h1
  simp only [issueChain, hv, hf, decodeAll, hd1, hd2, hok, chainTeam_of_whole hw, Bool.not_true, Bool.false_eq_true, if_false]
  exact runChain_pair h1 n1 h2 n2

end

end Sys2Proof.Machine
end

section
/-! The obligation. -/

open Sys2Proof Sys2Proof.Machine

/-- Settles O56: a fetch of one word or two is the issue of what they decode to, and every other move is the step that it names. -/
theorem stepRuns : Obligations.StepRuns := by
  refine ⟨fun s part pc e b l => codeWord_of_leaf, ?word, ?illegal, ?chain, ?fetch, ?event, ?outside, ?idle⟩
  case word =>
    intro s g s0 v w i h hc hd
    have issued : step s = tick (exec i s0) := by
      rw [step_group h.moves, issueChain_single h.state h.env h.whole (fetchChain_eq .. ▸ fetchWords_last h.open_ h.word hc) hc hd]
    refine ⟨fun t ht => ?_, fun f hf => ?_, fun r hr => ?_⟩
    · rw [issued, ht]; rfl
    · rw [issued, hf]; rfl
    · rw [issued, hr]; rfl
  case illegal =>
    intro s g s0 v w r h hc hd
    rw [step_group h.moves, issueChain_illegal h.state h.env (fetchChain_eq .. ▸ fetchWords_last h.open_ h.word hc) hd, tick_refuseChain, refusedCause_single]
    obtain ⟨hr, -⟩ := env_of_issuing (h.state ▸ h.env)
    rw [hr, h.state]
    rfl
  case chain =>
    intro s g s0 v w1 w2 i1 i2 h hpc hc1 ho hw2 hc2 hd1 hd2 hok t1 t2 h1 n1 h2 n2
    have fetched : s0.fetchChain (dieOf g.core) v.part v.pc = .words [w1, w2] := by
      rw [fetchChain_eq, show 2 - v.pc % 12 / 4 = 1 - v.pc % 12 / 4 + 1 by omega]
      exact fetchWords_cons h.open_ h.word hc1 (fetchWords_last ho hw2 hc2)
    rw [step_group h.moves, issueChain_pair h.state h.env h.whole fetched hd1 hd2 hok h1 n1 h2 n2]
    obtain ⟨hr, -⟩ := env_of_issuing (h.state ▸ h.env)
    rw [hr]
    rfl
  case fetch =>
    intro s g s0 v hm hs hv
    refine ⟨fun s1 hf => ?_, fun cls c va s1 hf => ?_⟩
    · rw [step_group hm, issueChain_held hs hv hf]
      rfl
    · obtain ⟨hr, -⟩ := env_of_issuing (hs ▸ hv)
      rw [step_group hm, issueChain_fault hs hv hf, tick_refuseChain, hr]
  case event =>
    intro s k i hm hi t ht
    rw [step, hm]
    simp only [move, hi, ht]
    rfl
  case outside =>
    intro s k x hm hx
    have there : (s.moving (.outside k)).outside[k]? = some x := hx
    refine ⟨fun t ht => ?_, fun t ht => ?_⟩
    · rw [step_outside hm, arrival_of_inl there ht]
      rfl
    · rw [step_outside hm, arrival_of_inr there ht]
      rfl
  case idle =>
    intro s hm
    rw [step, hm]
    rfl

end

section
/-! # The integer operations on bits (O1, O2)

`IntOp.onBits` is what the words of 10 R251, R254 and R266 compute, at any width; `IntOp.onBits_eq_value` says that it is the operation
of the specification, on exact integers. -/

namespace Sys2Proof.Machine

/-- An integer operation as the words compute it. -/
def IntOp.onBits (o : IntOp) {w : Nat} (a b : BitVec w) : BitVec w :=
  match o with
  | .add => a + b
  | .sub => a - b
  | .mul => a * b
  | .mulh => (a.signExtend (w + w) * b.signExtend (w + w)).extractLsb' w w
  | .mulhu => (a.setWidth (w + w) * b.setWidth (w + w)).extractLsb' w w
  | .min => smin a b
  | .max => smax a b
  | .minu => umin a b
  | .maxu => umax a b
  | .and => a &&& b
  | .or => a ||| b
  | .xor => a ^^^ b
  | .andn => a &&& ~~~b
  | .orn => a ||| ~~~b
  | .shl => a <<< (b.toNat % w)
  | .shr => a >>> (b.toNat % w)
  | .sra => a.sshiftRight (b.toNat % w)
  | .rotl => a.rotateLeft (b.toNat % w)
  | .rotr => a.rotateRight (b.toNat % w)
  | .absd => if a.slt b then b - a else a - b

section
variable {w : Nat} (a b : BitVec w)

/-! ### Sums and products -/

theorem ofInt_sub (x y : Int) : BitVec.ofInt w (x - y) = BitVec.ofInt w x - BitVec.ofInt w y := by
  rw [Int.sub_eq_add_neg, BitVec.ofInt_add, BitVec.ofInt_neg, BitVec.sub_eq_add_neg]

theorem ofInt_sub_toInt : BitVec.ofInt w (a.toInt - b.toInt) = a - b := by
  rw [ofInt_sub, BitVec.ofInt_toInt, BitVec.ofInt_toInt]

theorem natCast_toNat_ofInt (n : Nat) (x : Int) : ((BitVec.ofInt n x).toNat : Int) = x % 2 ^ n := by
  rw [BitVec.toNat_ofInt, Int.toNat_of_nonneg (Int.emod_nonneg _ (by positivity))]
  norm_cast

/-- The high half of a number of twice the width. -/
theorem extractLsb'_ofInt_high (x : Int) : (BitVec.ofInt (w + w) x).extractLsb' w w = BitVec.ofInt w (x / 2 ^ w) := by
  have pos : (0 : Int) < 2 ^ w := by positivity
  apply BitVec.eq_of_toNat_eq
  zify
  rw [BitVec.extractLsb'_toNat, Nat.shiftRight_eq_div_pow]
  push_cast
  rw [natCast_toNat_ofInt, natCast_toNat_ofInt, pow_add, Int.emod_def x, Int.mul_assoc, Int.sub_mul_ediv_left _ _ pos.ne',
    Int.sub_mul_emod_self_left]

theorem mulh_eq_ofInt : (a.signExtend (w + w) * b.signExtend (w + w)).extractLsb' w w = BitVec.ofInt w (a.toInt * b.toInt / 2 ^ w) := by
  rw [BitVec.signExtend, BitVec.signExtend, ← BitVec.ofInt_mul, extractLsb'_ofInt_high]

theorem mulhu_eq_ofNat : (a.setWidth (w + w) * b.setWidth (w + w)).extractLsb' w w = BitVec.ofNat w (a.toNat * b.toNat / 2 ^ w) := by
  apply BitVec.eq_of_toNat_eq
  simp only [BitVec.extractLsb'_toNat, BitVec.toNat_mul, BitVec.toNat_setWidth, BitVec.toNat_ofNat, Nat.shiftRight_eq_div_pow,
    Nat.pow_add, Nat.mod_mul_right_div_self, Nat.mod_mod, ← Nat.mul_mod]

/-! ### Minimum and maximum -/

/-- A choice by `<` is one by `≤` where equals are chosen alike. -/
theorem ite_lt_eq_ite_le {ι α : Type} [LinearOrder ι] {i j : ι} {x y : α} (h : i = j → x = y) :
    (if i < j then x else y) = if i ≤ j then x else y := by
  rcases lt_trichotomy i j with hlt | heq | hgt
  · rw [if_pos hlt, if_pos hlt.le]
  · rw [h heq, ite_self, ite_self]
  · rw [if_neg hgt.not_gt, if_neg hgt.not_ge]

theorem smin_eq : smin a b = if a.toInt ≤ b.toInt then a else b := by
  simp only [smin, BitVec.slt_iff_toInt_lt]
  exact ite_lt_eq_ite_le BitVec.eq_of_toInt_eq

theorem smax_eq : smax a b = if a.toInt ≤ b.toInt then b else a := by
  simp only [smax, BitVec.slt_iff_toInt_lt]
  exact ite_lt_eq_ite_le fun h => (BitVec.eq_of_toInt_eq h).symm

theorem umin_eq : umin a b = if a.toNat ≤ b.toNat then a else b := by
  simp only [umin, BitVec.ult_iff_toNat_lt]
  exact ite_lt_eq_ite_le BitVec.eq_of_toNat_eq

theorem umax_eq : umax a b = if a.toNat ≤ b.toNat then b else a := by
  simp only [umax, BitVec.ult_iff_toNat_lt]
  exact ite_lt_eq_ite_le fun h => (BitVec.eq_of_toNat_eq h).symm

theorem absDiff_eq_ofNat : (if a.slt b then b - a else a - b) = BitVec.ofNat w (a.toInt - b.toInt).natAbs := by
  rw [← BitVec.ofInt_natCast]
  by_cases h : a.toInt < b.toInt
  · rw [if_pos (BitVec.slt_iff_toInt_lt.2 h), Int.ofNat_natAbs_of_nonpos (by omega), Int.neg_sub, ofInt_sub_toInt]
  · rw [if_neg (mt BitVec.slt_iff_toInt_lt.1 h), Int.natAbs_of_nonneg (by omega), ofInt_sub_toInt]

/-! ### Shifts and rotations -/

theorem shiftLeft_eq_ofNat (k : Nat) : a <<< k = BitVec.ofNat w (a.toNat * 2 ^ k) := by
  apply BitVec.eq_of_toNat_eq
  simp [Nat.shiftLeft_eq]

theorem ushiftRight_eq_ofNat (k : Nat) : a >>> k = BitVec.ofNat w (a.toNat / 2 ^ k) := by
  apply BitVec.eq_of_toNat_eq
  rw [BitVec.toNat_ushiftRight, BitVec.toNat_ofNat, Nat.shiftRight_eq_div_pow, Nat.mod_eq_of_lt ((Nat.div_le_self ..).trans_lt a.isLt)]

theorem sshiftRight_eq_ofInt (k : Nat) : a.sshiftRight k = BitVec.ofInt w (a.toInt / 2 ^ k) := by
  rw [BitVec.sshiftRight, Int.shiftRight_eq_div_pow]
  norm_cast

/-- The two parts of a rotated number do not overlap, so that their sum is their union. -/
theorem toNat_rotated {k j : Nat} (h : k + j = w) :
    (BitVec.ofNat w (a.toNat * 2 ^ k + a.toNat / 2 ^ j)).toNat = a.toNat <<< k % 2 ^ w ||| a.toNat >>> j := by
  have size : 2 ^ w = 2 ^ k * 2 ^ j := by rw [← Nat.pow_add, h]
  have high : a.toNat / 2 ^ j < 2 ^ k := Nat.div_lt_of_lt_mul (by rw [Nat.mul_comm, ← size]; exact a.isLt)
  have low : a.toNat * 2 ^ k % 2 ^ w = 2 ^ k * (a.toNat % 2 ^ j) := by rw [size, Nat.mul_comm, Nat.mul_mod_mul_left]
  have sum : 2 ^ k * (a.toNat % 2 ^ j) + a.toNat / 2 ^ j < 2 ^ w := by
    have := Nat.mul_le_mul_left (2 ^ k) (Nat.mod_lt a.toNat (Nat.two_pow_pos j))
    rw [Nat.succ_eq_add_one, Nat.mul_add_one, ← size] at this
    omega
  rw [BitVec.toNat_ofNat, ← Nat.mod_add_mod, Nat.shiftLeft_eq, Nat.shiftRight_eq_div_pow, low, Nat.mod_eq_of_lt sum,
    Nat.two_pow_add_eq_or_of_lt high]

theorem rotateLeft_eq_ofNat {k : Nat} (h : k < w) : a.rotateLeft k = BitVec.ofNat w (a.toNat * 2 ^ k + a.toNat / 2 ^ (w - k)) := by
  apply BitVec.eq_of_toNat_eq
  rw [BitVec.toNat_rotateLeft, Nat.mod_eq_of_lt h, toNat_rotated a (by omega)]

theorem rotateRight_eq_ofNat {k : Nat} (h : k < w) : a.rotateRight k = BitVec.ofNat w (a.toNat / 2 ^ k + a.toNat * 2 ^ (w - k)) := by
  apply BitVec.eq_of_toNat_eq
  rw [BitVec.toNat_rotateRight, Nat.mod_eq_of_lt h, Nat.add_comm, toNat_rotated a (by omega), Nat.or_comm]

/-- The words compute the operations of the specification (10 R251, R254, R266). -/
theorem IntOp.onBits_eq_value (o : IntOp) (hw : 0 < w) : o.onBits a b = o.value a b := by
  have count : b.toNat % w < w := Nat.mod_lt _ hw
  cases o with
  | add => simp [onBits, value, BitVec.ofInt_add]
  | sub => exact (ofInt_sub_toInt a b).symm
  | mul => simp [onBits, value, BitVec.ofInt_mul]
  | mulh => exact mulh_eq_ofInt a b
  | mulhu => exact mulhu_eq_ofNat a b
  | min => exact smin_eq a b
  | max => exact smax_eq a b
  | minu => exact umin_eq a b
  | maxu => exact umax_eq a b
  | and | or | xor | andn | orn => rfl
  | shl => exact shiftLeft_eq_ofNat a _
  | shr => exact ushiftRight_eq_ofNat a _
  | sra => exact sshiftRight_eq_ofInt a _
  | rotl => exact rotateLeft_eq_ofNat a count
  | rotr => exact rotateRight_eq_ofNat a count
  | absd => exact absDiff_eq_ofNat a b

end

end Sys2Proof.Machine
end

section
/-! # The integer and uniform words (O1, O2)

One lemma for each table of the statement says how its words are performed; the words of one shape complete by `completes_lane32`,
`completes_lane64` and `completes_uniform`. -/

namespace Sys2Proof.Machine

section
variable {c : BitVec 1} {d a b : BitVec 7} {s : State}

/-! ### What the words are performed as -/

theorem exec_intWords : ∀ p ∈ intWords, exec (p.1 c d a b) s =
    perform (useAbd c d a b) (lane32 d fun v l => p.2.onBits (v.src a l) (v.src b l)) s := by
  simp only [intWords, List.forall_mem_cons, List.not_mem_nil, IsEmpty.forall_iff, implies_true, and_true]
  and_intros <;> rfl

theorem exec_immWords {imm : BitVec 9} : ∀ p ∈ immWords, exec (p.1 c d a imm) s =
    perform (useAd c d a) (lane32 d fun v l => p.2.onBits (v.src a l) (BitVec.ofInt 32 imm.toInt)) s := by
  simp only [immWords, List.forall_mem_cons, List.not_mem_nil, IsEmpty.forall_iff, implies_true, and_true]
  and_intros <;> rfl

theorem exec_countWords {k : BitVec 5} : ∀ p ∈ countWords, exec (p.1 c d a k) s =
    perform (useAd c d a) (lane32 d fun v l => p.2.onBits (v.src a l) (BitVec.ofNat 32 k.toNat)) s := by
  have count : (BitVec.ofNat 32 k.toNat).toNat % 32 = k.toNat := by simp; omega
  simp only [countWords, List.forall_mem_cons, List.not_mem_nil, IsEmpty.forall_iff, implies_true, and_true, IntOp.onBits, count]
  and_intros <;> rfl

theorem exec_pairWords : ∀ p ∈ pairWords, exec (p.1 c d a b) s =
    perform (useAbd2 c d a b) (lane64 d fun v l => p.2.onBits (v.src2 a l) (v.src2 b l)) s := by
  simp only [pairWords, List.forall_mem_cons, List.not_mem_nil, IsEmpty.forall_iff, implies_true, and_true]
  and_intros <;> rfl

theorem exec_uniWords : ∀ p ∈ uniWords, exec (p.1 c d a b) s =
    perform (useUabd c d a b) (uniform d.toNat fun v => p.2.onBits (v.usrc a) (v.usrc b)) s := by
  simp only [uniWords, List.forall_mem_cons, List.not_mem_nil, IsEmpty.forall_iff, implies_true, and_true]
  and_intros <;> rfl

end

/-! ### Lanes of an issue that is limited to none -/

/-- In an issue of all lanes the execution mask is that of the entry (15 R407). -/
theorem Env.all_eq_em {s : State} {v : Env} (henv : s.env = some v) (hlimit : s.limit = none) : v.all = v.em := by
  unfold State.env at henv
  simp only [hlimit] at henv
  split at henv
  next => cases henv
  next =>
    split at henv
    next => cases henv
    next =>
      split at henv
      next => cases henv
      next => cases henv; rfl

/-- A shifted number with an immediate in the low bits is a sum (10 R267). -/
theorem shiftLeft_or_setWidth {w n : Nat} (x : BitVec w) (y : BitVec n) :
    x <<< n ||| y.setWidth w = BitVec.ofNat w (x.toNat * 2 ^ n + y.toNat) := by
  rw [Nat.mul_comm, Nat.two_pow_add_eq_or_of_lt y.isLt, BitVec.ofNat_or, Nat.mul_comm, shiftLeft_eq_ofNat, BitVec.ofNat_toNat]

end Sys2Proof.Machine
end

section
/-! The obligations. -/

open Sys2Proof Sys2Proof.Machine

/-- Settles O1: every word computes an operation of `IntOp` on its sources, which is that of the specification. -/
theorem integerWords : Obligations.IntegerWords := by
  refine ⟨fun p hp c d a b => ?_, fun p hp c d a imm => ?_, fun p hp c d a k => ?_, fun p hp c d a b => ?_⟩
  · exact completes_lane32 (fun _ => exec_intWords p hp) (fun _ _ => p.2.onBits_eq_value _ _ (by decide)) rfl
  · exact completes_lane32 (fun _ => exec_immWords p hp) (fun _ _ => p.2.onBits_eq_value _ _ (by decide)) rfl
  · exact completes_lane32 (fun _ => exec_countWords p hp) (fun _ _ => p.2.onBits_eq_value _ _ (by decide)) rfl
  · exact completes_lane64 (fun _ => exec_pairWords p hp) (fun _ _ => p.2.onBits_eq_value _ _ (by decide)) rfl

/-- Settles O2: the words of two operands by their operation, the others by the value that each writes. -/
theorem uniformWords : Obligations.UniformWords := by
  refine ⟨fun c d a s v h room _ => ?vote, fun c d a b => ?smovv, fun c d imm => ?smovi, fun c d imm => ?smovx,
    fun p hp c d a b => ?words, fun c d a => ?smov, fun c d a b => ?scmplt, fun c d a b => ?scmpeq⟩
  case vote =>
    show ∃ t, _ ∧ Wrote v.r (.uni d ((v.em &&& v.grp.pget a.toNat).setWidth 64)) s t
    rw [← Env.all_eq_em h.env room.limit]
    exact wrote_uniform d (fun v => (v.all &&& v.grp.pget a.toNat).setWidth 64) rfl h room
  case smovv =>
    exact completes_uniform (fun _ => rfl) (fun v => by simp [BitVec.extractLsb'_toNat]) rfl
  case smovi => exact completes_uniform (fun _ => rfl) (fun _ => rfl) rfl
  case smovx => exact completes_uniform (fun _ => rfl) (fun _ => shiftLeft_or_setWidth _ _) rfl
  case words => exact completes_uniform (fun _ => exec_uniWords p hp) (fun _ => p.2.onBits_eq_value _ _ (by decide)) rfl
  case smov => exact completes_uniform (fun _ => rfl) (fun _ => rfl) rfl
  case scmplt => exact completes_uniform (fun _ => rfl) (fun _ => by simp only [BitVec.slt_iff_toInt_lt]) rfl
  case scmpeq => exact completes_uniform (fun _ => rfl) (fun _ => by simp only [BitVec.toNat_inj]) rfl
end

section
/-! # The bit words (O4, O5) -/

namespace Sys2Proof.Machine

/-! ### A word bit by bit -/

@[simp] theorem getLsbD_wordOf (p : Nat → Bool) (i : Nat) : (wordOf p).getLsbD i = (p i && decide (i < 32)) := getLsbD_maskOf p i

/-- A word is given by its bits. -/
theorem eq_wordOf {x : Word} {p : Nat → Bool} (h : ∀ i, i < 32 → x.getLsbD i = p i) : x = wordOf p := by
  apply BitVec.eq_of_getLsbD_eq
  intro i hi
  rw [h i hi, getLsbD_wordOf, decide_eq_true hi, Bool.and_true]

/-- A bit of a number whose low n bits are ones. -/
theorem getLsbD_ofNat_ones (n i : Nat) (hi : i < 32) : (BitVec.ofNat 32 (2 ^ n - 1)).getLsbD i = decide (i < n) := by
  rw [BitVec.getLsbD_ofNat, Nat.testBit_two_pow_sub_one, decide_eq_true hi, Bool.true_and]

section
variable (d a b : Word)

/-! ### Counts (10 R255) -/

/-- Below the highest one bit of a word there is no other start of the zeros above it. -/
theorem clz_eq_leadingZeros : clz a = leadingZeros a := by
  unfold clz leadingZeros
  congr 1
  by_cases ha : a = 0
  · subst ha
    decide
  · have hne : a.toNat ≠ 0 := fun h => ha (BitVec.eq_of_toNat_eq h)
    have hlog : a.toNat.log2 < 32 := (Nat.log2_lt hne).2 a.isLt
    have highest : (List.range 32).find? (fun i => a.getLsbD (31 - i)) = some (31 - a.toNat.log2) := by
      refine List.find?_range_eq_some.2 ⟨?_, List.mem_range.2 (by omega), fun j hj => ?_⟩
      · rw [show 31 - (31 - a.toNat.log2) = a.toNat.log2 by omega]
        exact Nat.testBit_log2 hne
      · rw [Bool.not_eq_true']
        exact Nat.testBit_lt_two_pow ((Nat.log2_lt hne).1 (by omega))
    rw [highest, if_neg ha, Option.getD_some]
    omega

theorem popc_eq_countP : popc a = BitVec.ofNat 32 ((List.range 32).countP fun i => a.getLsbD i) := by
  rw [popc, List.countP_eq_length_filter]

theorem reverse_eq_wordOf : a.reverse = wordOf fun i => a.getLsbD (31 - i) :=
  eq_wordOf fun i hi => by rw [BitVec.getLsbD_reverse, BitVec.getMsbD, decide_eq_true hi, Bool.true_and]

/-! ### Fields (10 R255) -/

theorem mod_eq_bitPos : b.toNat % 32 = bitPos b := by simp [bitPos]

theorem fieldLen_eq_bitCount : fieldLen b = bitCount b := by simp [fieldLen, bitCount, Nat.shiftRight_eq_div_pow]

theorem bext_eq_wordOf : bext a b = wordOf fun i => decide (i < bitCount b) && a.getLsbD (i + bitPos b) := by
  refine eq_wordOf fun i hi => ?_
  rw [bext, mod_eq_bitPos, fieldLen_eq_bitCount, BitVec.getLsbD_and, BitVec.getLsbD_ushiftRight, getLsbD_ofNat_ones _ _ hi,
    Bool.and_comm, Nat.add_comm]

/-- A bit of the mask of a field. -/
theorem getLsbD_fieldMask (n p i : Nat) (hi : i < 32) :
    (BitVec.ofNat 32 ((2 ^ n - 1) * 2 ^ p)).getLsbD i = (decide (p ≤ i) && decide (i < p + n)) := by
  rw [BitVec.getLsbD_ofNat, decide_eq_true hi, Bool.true_and, ← Nat.shiftLeft_eq, Nat.testBit_shiftLeft, Nat.testBit_two_pow_sub_one]
  by_cases h : p ≤ i
  · simp only [h, decide_true, Bool.true_and, decide_eq_decide]
    omega
  · simp [h]

theorem bins_eq_wordOf : bins d a b = wordOf fun i =>
    if bitPos b ≤ i ∧ i < bitPos b + bitCount b then a.getLsbD (i - bitPos b) else d.getLsbD i := by
  refine eq_wordOf fun i hi => ?_
  rw [bins, mod_eq_bitPos, fieldLen_eq_bitCount]
  simp only [BitVec.getLsbD_or, BitVec.getLsbD_and, BitVec.getLsbD_not, BitVec.getLsbD_shiftLeft, getLsbD_fieldMask _ _ i hi, hi,
    decide_true, Bool.true_and]
  by_cases hp : bitPos b ≤ i
  · by_cases hc : i < bitPos b + bitCount b
    · simp [hp, hc, Nat.not_lt.2 hp]
    · simp [hc]
  · simp [hp]

theorem bsel_eq_wordOf : (d &&& a) ||| (~~~d &&& b) = wordOf fun i => if d.getLsbD i then a.getLsbD i else b.getLsbD i := by
  refine eq_wordOf fun i hi => ?_
  rw [BitVec.getLsbD_or, BitVec.getLsbD_and, BitVec.getLsbD_and, BitVec.getLsbD_not, decide_eq_true hi, Bool.true_and]
  cases d.getLsbD i <;> simp

/-! ### Interleaved values (10 R255) -/

theorem dlv3_eq_wordOf : dlv3 a b = wordOf fun i => decide (i < 10) && decide ((b.extractLsb' 0 2).toNat ≤ 2) &&
    a.getLsbD (3 * i + (b.extractLsb' 0 2).toNat) := by
  have hk : b.toNat % 4 = (b.extractLsb' 0 2).toNat := by simp
  simp only [dlv3, hk, Nat.lt_succ_iff]

/-! ### Selected bytes (10 R256) -/

/-- A bit of the byte of the pool that n names. -/
theorem getLsbD_poolByte (n j : Nat) (hj : j < 8) : (poolByte a b n).getLsbD j =
    if n < 4 then a.getLsbD (8 * n + j) else b.getLsbD (8 * (n - 4) + j) := by
  unfold poolByte
  split <;> simp [hj]

/-- A bit of a selected byte: the selector's low three bits name the byte, its high bit the sign. -/
theorem getLsbD_prmtByte (i j : Nat) (hj : j < 8) : (prmtByte d a b i).getLsbD j =
    (poolByte a b (d.extractLsb' (4 * i) 3).toNat).getLsbD (if d.getLsbD (4 * i + 3) then 7 else j) := by
  have name : d.toNat / 2 ^ (4 * i) % 16 % 8 = (d.extractLsb' (4 * i) 3).toNat := by
    rw [BitVec.extractLsb'_toNat, Nat.shiftRight_eq_div_pow]
    omega
  have sign : d.toNat / 2 ^ (4 * i) % 16 / 8 = 1 ↔ d.getLsbD (4 * i + 3) = true := by
    rw [BitVec.getLsbD, Nat.testBit_eq_decide_div_mod_eq, decide_eq_true_eq, Nat.pow_add, ← Nat.div_div_eq_div_mul]
    omega
  unfold prmtByte
  simp only [name, sign]
  by_cases hs : d.getLsbD (4 * i + 3) = true
  · have ones : (0xFF : BitVec 8) = BitVec.allOnes 8 := rfl
    simp only [hs, if_true, BitVec.msb_eq_getLsbD_last, Nat.add_one_sub_one, ones]
    split
    · next h7 => rw [h7, BitVec.getLsbD_allOnes, decide_eq_true hj]
    · next h7 => exact (BitVec.getLsbD_zero ..).trans (Bool.eq_false_iff.2 h7).symm
  · simp only [hs, Bool.false_eq_true, if_false]

/-- A bit of four selected bytes is one of the byte in which it lies. -/
theorem getLsbD_prmt (k : Nat) (hk : k < 32) : (prmt d a b).getLsbD k = (prmtByte d a b (k / 8)).getLsbD (k % 8) := by
  have hq : k / 8 < 4 := by omega
  have hr : k % 8 < 8 := by omega
  rw [← Nat.div_add_mod k 8]
  generalize k / 8 = q at hq ⊢
  generalize k % 8 = r at hr ⊢
  rw [show (8 * q + r) / 8 = q by omega, show (8 * q + r) % 8 = r by omega]
  change BitVec.getLsbD (w := 8 + 8 + 8 + 8) (prmtByte d a b 3 ++ prmtByte d a b 2 ++ prmtByte d a b 1 ++ prmtByte d a b 0) _ = _
  rw [BitVec.getLsbD_append, BitVec.getLsbD_append, BitVec.getLsbD_append]
  interval_cases q <;> simp (disch := omega) only [if_pos, if_neg] <;> congr 1 <;> omega

theorem prmt_eq_wordOf : prmt d a b = wordOf fun k =>
    let n := (d.extractLsb' (4 * (k / 8)) 3).toNat
    let bit := fun j => if n < 4 then a.getLsbD (8 * n + j) else b.getLsbD (8 * (n - 4) + j)
    if d.getLsbD (4 * (k / 8) + 3) then bit 7 else bit (k % 8) := by
  refine eq_wordOf fun k hk => ?_
  have hj : k % 8 < 8 := by omega
  rw [getLsbD_prmt d a b k hk, getLsbD_prmtByte d a b _ _ hj]
  split
  · exact getLsbD_poolByte a b _ _ (by decide)
  · exact getLsbD_poolByte a b _ _ hj

end

end Sys2Proof.Machine
end

section
/-! The obligations. -/

open Sys2Proof Sys2Proof.Machine

/-- Settles O4: each word computes the value that the table gives it, bit by bit. -/
theorem bitWords : Obligations.BitWords := by
  unfold Obligations.BitWords
  simp only [bitWords1, bitWords2, bitWords3, List.forall_mem_cons, List.not_mem_nil, IsEmpty.forall_iff, implies_true, and_true]
  refine ⟨⟨?clz, ?ctz, ?popc, ?brev⟩, ⟨?bext, ?ilv2, ?ilv3, ?dlv3, ?cpl⟩, ?bins, ?bsel⟩
  case clz => exact fun c d a => completes_lane32 (fun _ => rfl) (fun _ _ => clz_eq_leadingZeros _) rfl
  case ctz => exact fun c d a => completes_lane32 (fun _ => rfl) (fun _ _ => rfl) rfl
  case popc => exact fun c d a => completes_lane32 (fun _ => rfl) (fun _ _ => popc_eq_countP _) rfl
  case brev => exact fun c d a => completes_lane32 (fun _ => rfl) (fun _ _ => reverse_eq_wordOf _) rfl
  case bext => exact fun c d a b => completes_lane32 (fun _ => rfl) (fun _ _ => bext_eq_wordOf _ _) rfl
  case ilv2 | ilv3 => exact fun c d a b => completes_lane32 (fun _ => rfl) (fun _ _ => rfl) rfl
  case dlv3 => exact fun c d a b => completes_lane32 (fun _ => rfl) (fun _ _ => dlv3_eq_wordOf _ _) rfl
  case cpl => exact fun c d a b => completes_lane32 (fun _ => rfl) (fun _ _ => clz_eq_leadingZeros _) rfl
  case bins => exact fun c d a b => completes_lane32 (fun _ => rfl) (fun _ _ => bins_eq_wordOf _ _ _) rfl
  case bsel => exact fun c d a b => completes_lane32 (fun _ => rfl) (fun _ _ => bsel_eq_wordOf _ _ _) rfl

/-- Settles O5: each bit of the result is one of the pool, named by the selector of its byte. -/
theorem prmtSelectsBytes : Obligations.PrmtSelectsBytes :=
  fun _ _ _ _ => completes_lane32 (fun _ => rfl) (fun _ _ => prmt_eq_wordOf _ _ _) rfl

end

section
/-! # The compares, moves and predicate words (O6, O9, O10) -/

namespace Sys2Proof.Machine

/-! ### Conditions (10 R261) -/

/-- The new predicate of a compare is that of the table of PC. -/
theorem combine_eq_underPc (k : BitVec 2) (t old : Bool) : combine k t old = underPc k t old := by
  revert k t old
  decide

/-- A condition as the words test it, where the table of the statement gives it for the operands read as integers. -/
theorem exec_cmpIntWords : ∀ p ∈ cmpIntWords, ∃ cond : Cond,
    (∀ {w : Nat} (x y : BitVec w), cond.int x y = p.2.2 (readInt p.2.1 x) (readInt p.2.1 y)) ∧
    ∀ c pd k t a b s, exec (p.1 c pd k t a b) s = perform (useCmpInt c pd t a b k) (cmpIntBody cond pd k t a b) s := by
  simp only [cmpIntWords, List.forall_mem_cons, List.not_mem_nil, IsEmpty.forall_iff, implies_true, and_true, readInt, if_true,
    Bool.false_eq_true, if_false]
  refine ⟨⟨.eq, fun x y => ?_, fun _ _ _ _ _ _ _ => rfl⟩, ⟨.ne, fun x y => ?_, fun _ _ _ _ _ _ _ => rfl⟩,
    ⟨.lt, fun x y => ?_, fun _ _ _ _ _ _ _ => rfl⟩, ⟨.le, fun x y => ?_, fun _ _ _ _ _ _ _ => rfl⟩,
    ⟨.gt, fun x y => ?_, fun _ _ _ _ _ _ _ => rfl⟩, ⟨.ge, fun x y => ?_, fun _ _ _ _ _ _ _ => rfl⟩,
    ⟨.ltu, fun x y => ?_, fun _ _ _ _ _ _ _ => rfl⟩, ⟨.leu, fun x y => ?_, fun _ _ _ _ _ _ _ => rfl⟩,
    ⟨.gtu, fun x y => ?_, fun _ _ _ _ _ _ _ => rfl⟩, ⟨.geu, fun x y => ?_, fun _ _ _ _ _ _ _ => rfl⟩⟩
  · simp [Cond.int, BitVec.toInt_inj]
  · simp [Cond.int, BitVec.toInt_inj]
  · rfl
  · rfl
  · rfl
  · rfl
  · simp [Cond.int, BitVec.ult]
  · simp [Cond.int, BitVec.ule]
  · simp [Cond.int, BitVec.ult]
  · simp [Cond.int, BitVec.ule]

end Sys2Proof.Machine
end

section
/-! The obligations. -/

open Sys2Proof Sys2Proof.Machine

/-- Settles O6: a compare is performed with a condition that is the table's, read as the table says. -/
theorem integerCompares : Obligations.IntegerCompares := by
  intro p hp c pd k t a b
  obtain ⟨cond, hcond, he⟩ := exec_cmpIntWords p hp
  refine completes_pred (fun _ => he c pd k t a b _) (fun v l hl => ?_) rfl
  simp only [getLsbD_maskOf, hl, decide_true, Bool.and_true, combine_eq_underPc, hcond]

end

section
/-! # Float words (O7, O8)

A lane of a float word names each register and each predicate once, so that `completes_laneBody` says what the word writes. -/

namespace Sys2Proof.Machine

section
variable {c : BitVec 1} {t : BitVec 2} {d a b : BitVec 7} {s : State}

/-! ### Uses and lanes -/

theorem useT_orph : (useT c t d a b).orph = .free := by
  unfold useT
  split <;> rfl

theorem useCmp_orph {pd : BitVec 3} {k : BitVec 2} : (useCmp c pd t a b k).orph = .free := rfl

/-- The elements of a lane go to one register or to a pair (10 R257). -/
theorem placeElements_nodup (t : BitVec 2) (d : Nat) (es : List Nat) : ((placeElements t d es).map (·.1)).Nodup := by
  unfold placeElements
  split <;> simp

theorem cvtLane_nodup (f : BitVec 4) (m : BitVec 3) (v : Env) (x : Group) (l : Nat) :
    ((cvtLane t d a f m v x l).regs.map (·.1)).Nodup := by
  unfold cvtLane
  dsimp only
  split <;> simp

/-! ### What the words are performed as -/

theorem exec_cmpFloatWords {pd : BitVec 3} {k : BitVec 2} : ∀ p ∈ cmpFloatWords, exec (p.1 c pd k t a b) s =
    perform (useCmp c pd t a b k) (laneBody (cmpFloatLane p.2 pd k t a b)) s := by
  simp only [cmpFloatWords, List.forall_mem_cons, List.not_mem_nil, IsEmpty.forall_iff, implies_true, and_true]
  and_intros <;> rfl

theorem exec_fltWords : ∀ p ∈ fltWords, exec (p.1 c t d a b) s = perform (useT c t d a b) (laneBody (fltLane p.2 t d a b)) s := by
  simp only [fltWords, List.forall_mem_cons, List.not_mem_nil, IsEmpty.forall_iff, implies_true, and_true]
  and_intros <;> rfl

theorem exec_fmaWords : ∀ p ∈ fmaWords, exec (p.1 c t d a b) s =
    perform (useT c t d a b) (laneBody (fmaLane p.2.1 p.2.2 t d a b)) s := by
  simp only [fmaWords, List.forall_mem_cons, List.not_mem_nil, IsEmpty.forall_iff, implies_true, and_true]
  and_intros <;> rfl

theorem exec_specialWords {m : BitVec 3} : ∀ p ∈ specialWords, exec (p.1 c t d a m) s =
    perform (useSpecial c t d a m) (laneBody (specialLane p.2 t d a m)) s := by
  simp only [specialWords, List.forall_mem_cons, List.not_mem_nil, IsEmpty.forall_iff, implies_true, and_true]
  and_intros <;> rfl

end

end Sys2Proof.Machine
end

section
/-! The obligations. -/

open Sys2Proof Sys2Proof.Machine

/-- Settles O7: every word is performed lane by lane, and each lane names its registers and predicates once. -/
theorem floatWords : Obligations.FloatWords :=
  ⟨fun p hp _ _ _ _ _ _ => completes_laneBody _ (fun _ => exec_cmpFloatWords p hp) useCmp_orph (fun _ _ _ => List.nodup_nil)
      fun _ _ _ => List.nodup_singleton _,
    fun p hp _ _ _ _ _ => completes_laneBody _ (fun _ => exec_fltWords p hp) useT_orph (fun _ _ _ => placeElements_nodup ..)
      fun _ _ _ => List.nodup_nil,
    fun _ _ _ _ _ => completes_laneBody _ (fun _ => rfl) useT_orph (fun _ _ _ => placeElements_nodup ..) fun _ _ _ => List.nodup_nil,
    fun p hp _ _ _ _ _ => completes_laneBody _ (fun _ => exec_fmaWords p hp) useT_orph (fun _ _ _ => placeElements_nodup ..)
      fun _ _ _ => List.nodup_nil⟩

/-- Settles O8: every word is performed lane by lane, and each lane names its registers once. -/
theorem conversionWords : Obligations.ConversionWords :=
  ⟨fun _ _ _ _ _ _ => completes_laneBody _ (fun _ => rfl) rfl (fun _ _ _ => cvtLane_nodup ..) fun _ _ _ => List.nodup_nil,
    fun p hp _ _ _ _ _ => completes_laneBody _ (fun _ => exec_specialWords p hp) rfl (fun _ _ _ => placeElements_nodup ..)
      fun _ _ _ => List.nodup_nil⟩

end

section
/-! # The move and predicate words (O9, O10) -/

namespace Sys2Proof.Machine

/-! ### Predicates written one after another (10 R264) -/

section
variable (m : Lanes) (f : Nat → Lanes) (ns : List Nat) (x : Group)

theorem Group.pset_eq (d : Nat) (m y : Lanes) : x.pset d m y = { x with p := (x.pset d m y).p } := by
  unfold Group.pset
  split <;> rfl

theorem Group.foldl_pset_eq :
    ns.foldl (fun x n => x.pset n m (f n)) x = { x with p := (ns.foldl (fun x n => x.pset n m (f n)) x).p } := by
  induction ns generalizing x with
  | nil => rfl
  | cons n ns ih =>
    rw [List.foldl_cons, ih]
    generalize (ns.foldl (fun x n => x.pset n m (f n)) (x.pset n m (f n))).p = q
    rw [Group.pset_eq]

theorem Group.pget_foldl_pset (n l : Nat) (hl : l < 32) : ((ns.foldl (fun x n => x.pset n m (f n)) x).pget n).getLsbD l =
    if n ∈ ns ∧ n ≠ 0 ∧ m.getLsbD l = true then (f n).getLsbD l else (x.pget n).getLsbD l := by
  induction ns generalizing x with
  | nil => simp
  | cons k ns ih =>
    rw [List.foldl_cons, ih, Group.pget_pset _ _ _ _ _ _ hl]
    by_cases hk : n = k
    · subst hk
      by_cases hc : n ≠ 0 ∧ m.getLsbD l = true
      · simp [hc]
      · simp [hc]
    · simp [hk]

end

/-- A change of the predicates of a group alone. -/
theorem Team.Writes.of_preds {t : Team} {g : Nat} {f : Group → Group} {p : Nat → Nat → Option Bool}
    (hf : ∀ x, f x = { x with p := (f x).p })
    (hp : ∀ (x : Group) n l, l < 32 → ((f x).pget n).getLsbD l = (p n l).getD ((x.pget n).getLsbD l)) :
    t.Writes g { p := p } (t.modGroup g f) := by
  refine .of_modGroup t g f _ rfl fun x _ => ⟨?_, ?_, hp x, ?_, ?_, ?_⟩
  all_goals rw [hf]
  · intro n
    rfl
  · simp
  · intro l _
    rfl
  · intro l _
    rfl

/-- `movp.set` writes p1 to p7 from the bits of its source. -/
theorem completes_movpSet (c : BitVec 1) (a : BitVec 7) : Completes (.movpSet c a) (useMovpSet c a) always fun v _ =>
    { p := fun n l => if 1 ≤ n ∧ n ≤ 7 ∧ v.em.getLsbD l then some ((v.src a l).getLsbD n) else none } := by
  refine completes_of_group (F := fun v x =>
      [1, 2, 3, 4, 5, 6, 7].foldl (fun x n => x.pset n v.em (maskOf fun l => (v.src a l).getLsbD n)) x)
    (fun _ => rfl) rfl (fun v x => ?_) fun v t => .of_preds (Group.foldl_pset_eq _ _ _) fun x n l hl => ?_
  · rw [Group.foldl_pset_eq]
    exact .of_eq rfl rfl rfl
  · have named : (n ∈ [1, 2, 3, 4, 5, 6, 7] ∧ n ≠ 0 ∧ v.em.getLsbD l = true) ↔ 1 ≤ n ∧ n ≤ 7 ∧ v.em.getLsbD l = true := by
      rw [← and_assoc, ← and_assoc, and_congr_left_iff]
      simp only [List.mem_cons, List.not_mem_nil, or_false]
      omega
    rw [Group.pget_foldl_pset _ _ _ _ _ _ hl]
    simp only [named, getLsbD_maskOf, hl, decide_true, Bool.and_true]
    split <;> rfl

end Sys2Proof.Machine
end

section
/-! The obligations. -/

open Sys2Proof Sys2Proof.Machine

/-- Settles O9: each word by the value that it writes; `bcast` takes the lowest lane of the execution mask, which a word that is not
performed again below a trap has whole. -/
theorem moveWords : Obligations.MoveWords := by
  refine ⟨fun c d a => ?mov, fun c n d a b => ?sel, fun c d => ?lid, fun c d k s v h room _ => ?gidx, fun c d a s v h room _ => ?bcast,
    fun c d => ?movpGet, fun c d imm => ?movi, fun c d imm => ?movx⟩
  case mov | sel | lid | movpGet | movi => exact completes_lane32 (fun _ => rfl) (fun _ _ => rfl) rfl
  case gidx => exact wrote_lane32 d (fun v l => BitVec.ofNat 32 (gidxValue v s k.toNat l)) rfl h room
  case bcast =>
    show ∃ t, _ ∧ Wrote v.r (.lanes v.em d fun _ => v.src a (lowestLane v.em)) s t
    obtain ⟨t, ht, hwrote⟩ := wrote_lane32 d (fun v _ => v.src a (lowestLane v.all)) rfl h room
    rw [Env.all_eq_em h.env room.limit] at hwrote
    exact ⟨t, ht, hwrote⟩
  case movx => exact completes_lane32 (fun _ => rfl) (fun _ _ => shiftLeft_or_setWidth _ _) rfl

/-- Settles O10: a word of one predicate by the mask that it writes, `movp.set` by the predicates that it writes one after another. -/
theorem predicateWords : Obligations.PredicateWords := by
  refine ⟨fun c d a b => ?pand, fun c d a b => ?por, fun c d a b => ?pxor, fun c d a => ?pnot, completes_movpSet⟩
  case pand => exact completes_pred (fun _ => rfl) (fun _ _ _ => BitVec.getLsbD_and) rfl
  case por => exact completes_pred (fun _ => rfl) (fun _ _ _ => BitVec.getLsbD_or) rfl
  case pxor => exact completes_pred (fun _ => rfl) (fun _ _ _ => BitVec.getLsbD_xor) rfl
  case pnot =>
    refine completes_pred (fun _ => rfl) (fun v l hl => ?_) rfl
    rw [BitVec.getLsbD_not, decide_eq_true hl, Bool.true_and]

end

section
/-! # Words with a carry (O3)

`carryOut` gives the low bits and the carry of the exact sum, and the difference with its borrow. A chain of which two words name p7 breaks
the rule of 07 R185 that its destinations are different, and is refused as a whole. -/

namespace Sys2Proof.Machine

/-! ### Sum and difference (10 R252) -/

section
variable (a b : Word) (p : Bool)

/-- The exact sum of two words and a carry has 33 bits. -/
theorem carryOut_add : carryOut true a b p =
    let t := a.toNat + b.toNat + if p then 1 else 0
    (BitVec.ofNat 32 t, t.testBit 32) := by
  have bound : a.toNat + b.toNat + (if p then 1 else 0) < 2 * 2 ^ 32 := by
    have := a.isLt
    have := b.isLt
    split <;> omega
  simp only [carryOut, if_true, Prod.mk.injEq, true_and, Nat.testBit_eq_decide_div_mod_eq, decide_eq_decide]
  omega

/-- The exact difference of two words and a borrow is negative where the borrow exceeds it. -/
theorem carryOut_sub : carryOut false a b p =
    let t : Int := a.toNat - b.toNat - if p then 1 else 0
    (BitVec.ofInt 32 t, decide (t < 0)) := by
  have low : a - b - BitVec.ofNat 32 (if p then 1 else 0) = BitVec.ofInt 32 (a.toNat - b.toNat - if p then 1 else 0) := by
    cases p <;> simp [ofInt_sub]
  have neg : a.toNat < b.toNat + (if p then 1 else 0) ↔ (a.toNat : Int) - b.toNat - (if p then 1 else 0) < 0 := by
    split <;> omega
  simp only [carryOut, Bool.false_eq_true, if_false, low, neg]

end

/-! ### What the words write -/

/-- Registers, then predicates. -/
theorem Team.Writes.then_preds {g : Nat} {t u z : Team} {fv : Nat → Nat → Option Word} {fp : Nat → Nat → Option Bool}
    (hu : (u.group? g).isSome) (hv : t.Writes g { v := fv } u) (hp : u.Writes g { p := fp } z) :
    t.Writes g { v := fv, p := fp } z := by
  obtain ⟨y, hy⟩ := Option.isSome_iff_exists.1 hu
  refine ⟨fun n l hl => ?_, fun x k hx hk n => ?_, fun x k hx hk n l hl => ?_, fun x k hx hk => ?_, fun x k hx hk l hl => ?_,
    fun x k hx hk l hl => ?_⟩
  · rw [hp.vreg n l hl, hv.vreg n l hl]
    rfl
  · rw [hp.sreg y k hy hk, hv.sreg x y hx hy]
    rfl
  · rw [hp.preg y k hy hk n l hl, hv.preg x y hx hy n l hl]
    rfl
  · rw [hp.status y k hy hk, hv.status x y hx hy]
    simp
  · rw [hp.key y k hy hk l hl, hv.key x y hx hy l hl]
    rfl
  · rw [hp.ctr y k hy hk l hl, hv.ctr x y hx hy l hl]
    rfl

/-- `addc` and `subb` write their result and p7. -/
theorem completes_carry {i : Instr} {c : BitVec 1} {d a b : BitVec 7} {add : Bool} {res : Env → Nat → Word × Bool}
    (he : ∀ s, exec i s = perform (useCarry c d a b) (carryBody d a b add) s)
    (hr : ∀ v l, carryOut add (v.src a l) (v.src b l) ((v.grp.pget 7).getLsbD l) = res v l) :
    Completes i (useCarry c d a b) always fun v _ =>
      { v := fun n l => if n = d.toNat ∧ v.em.getLsbD l then some (res v l).1 else none
        p := fun n l => if n = 7 ∧ v.em.getLsbD l then some (res v l).2 else none } := by
  intro s v h room _
  rw [followed_free rfl, he]
  refine wrote_of_team h room rfl (F := fun t => (t.vset v.r.grp d.toNat v.em fun l => (res v l).1).modGroup v.r.grp fun x =>
    x.pset 7 v.em (maskOf fun l => (res v l).2)) ?_ (fun t _ => ?_) fun t ht => ?_
  · simp only [carryBody, hr, State.modGroup, State.modTeam_modTeam]
  · exact (Team.vset_local ..).trans (Team.modGroup_local _ _ _ fun x _ => x.pset_keeps _ _ _)
  · refine .then_preds (Team.vset_isSome _ _ _ _ _ (room.teamHas ht)) (.of_vset t _ _ _ _ (room.teamHas ht))
      (.of_preds (fun x => x.pset_eq _ _ _) fun x n l hl => ?_)
    rw [Group.pget_pset _ _ _ _ _ _ hl]
    by_cases hn : n = 7 ∧ v.em.getLsbD l = true
    · rw [if_pos hn, if_pos ⟨hn.1, by omega, hn.2⟩, getLsbD_maskOf, decide_eq_true hl, Bool.and_true]
      rfl
    · rw [if_neg hn, if_neg (by tauto)]
      rfl

/-! ### A chain of which two words have one destination (07 R185, 09 R228) -/

theorem distinct_iff_nodup {α : Type} [DecidableEq α] (l : List α) : distinct l = true ↔ l.Nodup := by
  induction l with
  | nil => simp [distinct]
  | cons a l ih => simp [distinct, ih]

/-- Every word of a chain decodes to one instruction. -/
theorem length_decodeAll {ws : List Word} {is : List Instr} (h : decodeAll ws = some is) : is.length = ws.length := by
  induction ws generalizing is with
  | nil =>
    cases h
    rfl
  | cons w ws ih =>
    unfold decodeAll at h
    split at h
    · next i t hi ht =>
      cases h
      simp [ih ht]
    · cases h

/-- Two words of a chain that name one destination make its destinations not distinct. -/
theorem distinct_chainDests_of_shared {k : UseCtx} {is : List Instr} {m n : Nat} {i j : Instr} {u x : Use} {reg : RegKind × Nat}
    (hne : m ≠ n) (hi : is[m]? = some i) (hj : is[n]? = some j) (hu : i.use k = some u) (hm : reg ∈ u.dests)
    (hx : j.use k = some x) (hn : reg ∈ x.dests) : distinct (chainDests k is) = false := by
  rw [← Bool.not_eq_true, distinct_iff_nodup, chainDests, List.nodup_flatMap]
  rintro ⟨-, apart⟩
  obtain ⟨hml, rfl⟩ := List.getElem?_eq_some_iff.1 hi
  obtain ⟨hnl, rfl⟩ := List.getElem?_eq_some_iff.1 hj
  rw [List.pairwise_iff_getElem] at apart
  rcases Nat.lt_or_gt_of_ne hne with h | h
  · exact apart m n hml hnl h (by simpa [hu] using hm) (by simpa [hx] using hn)
  · exact apart n m hnl hml h (by simpa [hx] using hn) (by simpa [hu] using hm)

/-- A chain that breaks a rule of 09 R228 is refused as a whole. -/
theorem issueChain_refused {s s0 : State} {g : GroupRef} {v : Env} {ws : List Word} {is : List Instr} (hs : s0 = s.issuing g)
    (hv : s0.env = some v) (hf : s0.fetchChain (dieOf g.core) v.part v.pc = .words ws) (hd : decodeAll ws = some is)
    (hok : chainOk (s0.useCtx v) ws is = false) :
    issueChain g s = .next (refuseChain v (.atIssue 0 (refusedCause v ws)) ws.length s0) := by
  subst hs
  simp only [issueChain, hv, hf, hd, hok, Bool.not_false, if_true]

end Sys2Proof.Machine
end

section
/-! The obligation. -/

open Sys2Proof Sys2Proof.Machine

/-- Settles O3: the words by `carryOut`, the chain by its destinations. -/
theorem carryWords : Obligations.CarryWords := by
  refine ⟨fun c d a b => ?addc, fun c d a b => ?subb, fun c d a b k i hi => ?names, ?chain, ?bind⟩
  case addc => exact completes_carry (fun _ => rfl) fun _ _ => carryOut_add _ _ _
  case subb => exact completes_carry (fun _ => rfl) fun _ _ => carryOut_sub _ _ _
  case names =>
    have shared : (RegKind.p, 7) ∈ (useCarry c d a b).dests := by simp [useCarry, Use.dests, Opnd.vd, Opnd.vs, Opnd.pd, Opnd.names]
    simp only [List.mem_cons, List.not_mem_nil, or_false] at hi
    rcases hi with rfl | rfl
    · exact ⟨_, rfl, shared⟩
    · exact ⟨_, rfl, shared⟩
  case chain =>
    intro s g s0 v ws is m n i j u x hm hs hv hf hd hne hi hj hu hdu hx hdx
    have two : ¬ws.length ≤ 1 := by
      have := (List.getElem?_eq_some_iff.1 hi).1
      have := (List.getElem?_eq_some_iff.1 hj).1
      rw [← length_decodeAll hd]
      omega
    have broken : chainOk (s0.useCtx v) ws is = false := by
      simp [chainOk, two, distinct_chainDests_of_shared hne hi hj hu hdu hx hdx]
    rw [step_group hm, issueChain_refused hs hv hf hd broken, tick_refuseChain, hs]
    rfl
  case bind => exact fun _ _ _ => rfl

end

section
/-! # Words that move the lanes of their entry (O14)

A control word ends with its outcomes, from a state that differs in its own group alone; `finish_of_advanced` says what that makes of the
machine. -/

namespace Sys2Proof.Machine

/-! ### From the outcomes of a word to the word -/

/-- The end of a word looks at the state of its effect only after the word is counted. -/
theorem finish_same (u : Use) (v : Env) (outs : List Outc) (s0 s : State) :
    finish u v outs s0 s = finish u v outs s0 (s.modGroup v.r (same v)) := by
  have counted : (s.modGroup v.r (same v)).modGroup v.r (Group.retire u v.r.core) = s.modGroup v.r (Group.retire u v.r.core) :=
    State.modGroup_modGroup ..
  simp only [finish, counted]

section
variable {i : Instr} {u : Use} {body : Env → State → Res} {ok : Env → State → Prop} {outs : Env → List Outc}

/-- A word whose effect changes its group by `f`, and that ends with outcomes. -/
theorem jumps_of_settle {f : Env → Group → Group} (he : ∀ s, exec i s = perform u body s) (hc : u.c ≠ 1) (ho : u.orph = .free)
    (hf : ∀ v x, (f v x).handler = x.handler)
    (hb : ∀ v s, (s.group? v.r).isSome → ok v s →
      settle u body v s (body v s) = finish u v (outs v) s (s.modGroup v.r (f v))) : Jumps i u ok outs f := by
  intro s v y z h hl hg hh hok ha hz
  have ends := hb v s (by simp [hg]) hok
  rw [he, perform_issues body h, followed_free ho, ends, finish_of_advanced hc hl hg (by rwa [hf]) ha hz]

/-- A control word that changes its group by `f`. -/
theorem jumps_of_jump {f : Env → Group → Group} (he : ∀ s, exec i s = perform u body s) (hc : u.c ≠ 1) (ho : u.orph = .free)
    (hf : ∀ v x, (f v x).handler = x.handler)
    (hb : ∀ v s, (s.group? v.r).isSome → ok v s → body v s = .jump (s.modGroup v.r (f v)) (outs v)) : Jumps i u ok outs f :=
  jumps_of_settle he hc ho hf fun v s hs hok => by rw [hb v s hs hok, settle]

/-- A control word that changes no register. -/
theorem jumps_same (he : ∀ s, exec i s = perform u body s) (hc : u.c ≠ 1) (ho : u.orph = .free)
    (hb : ∀ v s, ok v s → body v s = .jump s (outs v)) : Jumps i u ok outs same :=
  jumps_of_settle he hc ho (fun _ _ => rfl) fun v s _ hok => by rw [hb v s hok, settle, finish_same]

end

/-! ### Branches (10 R268) -/

/-- A branch of the lanes that `f` gives. -/
theorem jumps_branch {i : Instr} {ps : List (BitVec 3)} {o : BitVec 14} {pri : BitVec 6} {f m : Env → Lanes}
    (he : ∀ s, exec i s = perform (useBranch o ps) (branchBody o pri f) s) (hm : ∀ v, f v = m v) :
    Jumps i (useBranch o ps) always (fun v => goTo v o (m v) pri) same :=
  jumps_same he (by simp [useBranch]) rfl fun v s _ => by rw [← hm]; rfl

/-- Lanes outside another mask. -/
theorem and_eq_zero_iff (m p : Lanes) : m &&& p = 0 ↔ ∀ l ∈ lanesOf m, p.getLsbD l = false := by
  constructor
  · intro h l hl
    have bit : (m &&& p).getLsbD l = false := by
      rw [h]
      exact BitVec.getLsbD_zero
    simpa [(mem_lanesOf m l).1 hl] using bit
  · intro h
    apply BitVec.eq_of_getLsbD_eq
    intro l _
    rw [BitVec.getLsbD_and]
    cases hm : m.getLsbD l
    · exact BitVec.getLsbD_zero.symm
    · rw [h l ((mem_lanesOf m l).2 hm)]
      exact BitVec.getLsbD_zero.symm

theorem and_ne_zero_iff_any (m p : Lanes) : m &&& p ≠ 0 ↔ ((lanesOf m).any fun l => p.getLsbD l) = true := by
  rw [Ne, and_eq_zero_iff, List.any_eq_true]
  simp

theorem and_not_eq_zero_iff_all (m p : Lanes) : m &&& ~~~p = 0 ↔ ((lanesOf m).all fun l => p.getLsbD l) = true := by
  rw [and_eq_zero_iff, List.all_eq_true]
  refine forall₂_congr fun l hl => ?_
  have hlt : l < 32 := BitVec.lt_of_getLsbD ((mem_lanesOf m l).1 hl)
  rw [BitVec.getLsbD_not, decide_eq_true hlt, Bool.true_and, Bool.not_eq_false']

/-! ### Calls, returns and branches of each lane (10 R269, R270) -/

/-- `call` links the packet after its own. -/
theorem callBody_eq (o : BitVec 14) (p : BitVec 6) (v : Env) (s : State) : callBody o p v s =
    .jump (s.modGroup v.r fun x => x.sset 63 (BitVec.ofNat 64 (v.e.pri.toNat * 2 ^ 56 + (v.pc / 12 * 12 + 12)))) (goTo v o v.em p) := by
  have packet : packetOf v.pc = v.pc / 12 * 12 := by
    unfold packetOf
    omega
  rw [callBody, packet, goTo, branchOutcs, branchTarget, branchOff]
  rfl

/-- `ret` goes to a link that is one. -/
theorem retBody_of_link {v : Env} {s : State} (hpc : ((v.grp.sget 63).extractLsb' 0 56).toNat % 12 = 0)
    (hpri : (v.grp.sget 63).extractLsb' 62 2 = 0) : retBody v s =
      .jump s (branchOutcs v ((v.grp.sget 63).extractLsb' 0 56).toNat v.em ((v.grp.sget 63).extractLsb' 56 6)) :=
  if_neg (not_or.2 ⟨not_not_intro hpc, not_not_intro hpri⟩)

/-- The targets of `brx` are multiples of 12 where every active lane's is. -/
theorem brxBody_of_targets {a p : BitVec 7} {v : Env} {s : State} (h : ∀ l, v.em.getLsbD l = true → brxTarget v a l % 12 = 0) :
    brxBody a p v s = .jump s ((((lanesOf v.em).foldl (fun ts l => insertSorted (brxTarget v a l) ts) []).map fun u =>
        { pc := u, lanes := maskOf fun l => v.em.getLsbD l && brxTarget v a l = u, pri := p.setWidth 6, due := true }) ++
      [{ pc := v.pc + 4, lanes := v.e.mask &&& ~~~v.em, pri := v.e.pri }]) := by
  have aligned : (v.lanes.find? fun l => decide ((BitVec.ofNat 56 v.pc + (v.src a l).signExtend 56).toNat % 12 ≠ 0)) = none := by
    rw [List.find?_eq_none]
    intro l hl
    exact fun h' => of_decide_eq_true h' (h l ((mem_lanesOf v.em l).1 hl))
  simp only [brxBody, aligned]
  rfl

/-! ### Lanes that exit (10 R271) -/

/-- Lanes of the root that exit leave no id. -/
theorem State.exitLanes_root {s : State} {r : GroupRef} {part : Nat} {m : Lanes} (hs : (s.group? r).isSome)
    (h : ∀ y, s.group? r = some y → ∀ l, m.getLsbD l = true → y.hypOf l = 0) : s.exitLanes r part m =
      s.modGroup r fun x => { x with exited := x.exited ||| m, idem := x.idem &&& ~~~(m.setWidth 64) } := by
  obtain ⟨y, hy⟩ := Option.isSome_iff_exists.1 hs
  have none_counted : (lanesOf (m &&& ~~~y.exited)).foldl (fun s l => s.countRef part (y.hypOf l) false) s = s := by
    refine List.foldlRecOn (motive := (· = s)) _ _ rfl fun t ht l hl => ?_
    have hm : m.getLsbD l = true := by
      have := (mem_lanesOf _ l).1 hl
      rw [BitVec.getLsbD_and, Bool.and_eq_true] at this
      exact this.1
    rw [ht, h y hy l hm]
    rfl
  simp only [State.exitLanes, hy, none_counted]

/-- Without a lane that waits at `msync`, an exit ends no wait. -/
theorem State.recheckMsync_modGroup {s : State} {r : GroupRef} {part : Nat} {f : Group → Group}
    (h : ∀ y, s.group? r = some y → (f y).aside = []) (hs : (s.group? r).isSome) :
    (s.modGroup r f).recheckMsync r part = s.modGroup r f := by
  obtain ⟨y, hy⟩ := Option.isSome_iff_exists.1 hs
  rw [State.recheckMsync, State.modGroup_modGroup]
  refine State.modGroup_congr s r _ _ y hy ?_
  have waits : (f y).msyncDone = false := by rw [Group.msyncDone, h y hy]
  rw [waits]
  rfl

/-- `exit` of lanes of the root outside a handler, with no lane waiting at `msync`. -/
theorem exitBody_root {v : Env} {s : State} (hs : (s.group? v.r).isSome) (hh : v.grp.handler = none)
    (hy : ∀ y, s.group? v.r = some y → y.aside = [] ∧ ∀ l, v.em.getLsbD l = true → y.hypOf l = 0) : exitBody v s =
      .jump (s.modGroup v.r fun x => { x with exited := x.exited ||| v.em, idem := x.idem &&& ~~~(v.em.setWidth 64) })
        [{ pc := v.pc + 4, lanes := v.e.mask &&& ~~~v.em, pri := v.e.pri }] := by
  rw [exitBody, hh, State.exitLanes_root hs fun y e => (hy y e).2, State.recheckMsync_modGroup ?_ hs]
  · rfl
  · exact fun y e => (hy y e).1

end Sys2Proof.Machine
end

section
/-! The obligation. -/

open Sys2Proof Sys2Proof.Machine

/-- Settles O14: every word ends with the outcomes that the statement names; `exit` counts no id for lanes of the root. -/
theorem controlFlow : Obligations.ControlFlow := by
  refine ⟨fun p o => ?jmp, fun n p o => ?bt, fun n p o => ?bf, fun n p o => ?bany, fun n p o => ?ball, fun p o => ?call, ?ret,
    fun a p => ?brx, ?nop, ?yield, ?exit⟩
  case jmp | bt | bf => exact jumps_branch (fun _ => rfl) fun _ => rfl
  case bany => exact jumps_branch (fun _ => rfl) fun v => by simp only [and_ne_zero_iff_any]
  case ball => exact jumps_branch (fun _ => rfl) fun v => by simp only [and_not_eq_zero_iff_all]
  case call => exact jumps_of_jump (fun _ => rfl) (by simp [useBranch]) rfl (fun _ x => (x.sset_keeps ..).handler) fun v s _ _ =>
      callBody_eq o p v s
  case ret => exact jumps_same (fun _ => rfl) (by decide) rfl fun _ _ ⟨hpc, hpri⟩ => retBody_of_link hpc hpri
  case brx => exact jumps_same (fun _ => rfl) (by simp) rfl fun _ _ => brxBody_of_targets
  case nop =>
    exact jumps_of_settle (fun _ => rfl) (by decide) rfl (fun _ _ => rfl) fun _ _ _ _ => by
      rw [settle, finish_same]
      rfl
  case yield => exact jumps_same (fun _ => rfl) (by decide) rfl fun _ _ _ => rfl
  case exit => exact jumps_of_jump (fun _ => rfl) (by decide) rfl (fun _ _ => rfl) fun _ _ hs ⟨hh, hy⟩ => exitBody_root hs hh hy

end

section
/-! # System registers and words of the group (O16, O19, O24)

`srd` writes one register of a kind that its A says; `swr`, `ient`, `sleep` and `regroup` change their own group; `trap` and `bkpt` raise
their trap at issue. -/

namespace Sys2Proof.Machine

/-! ### System registers (10 R274) -/

section
variable {c : BitVec 1} {d a : BitVec 7} {v : Env} {s : State}

theorem srdBody_key (d : BitVec 7) : srdBody d 7 = lane64 d fun v l => v.grp.keyOf l := rfl

theorem srdBody_ctr (d : BitVec 7) : srdBody d 8 = lane64 d fun v l => v.grp.ctrOf l := rfl

theorem srdBody_group (h6 : a ≠ 6) (h7 : a ≠ 7) (h8 : a ≠ 8) : srdBody d a v s =
    .done (s.modTeam v.r fun t => t.modGroup v.r.grp fun x => x.sset d.toNat (groupReg v s a.toNat)) := by
  unfold srdBody
  rw [if_neg h6, if_neg h7, if_neg h8]
  rfl

/-- `srd` of a register that is not HYP. -/
theorem completes_srd (h6 : a ≠ 6) : Completes (.srd c d a) (useSrd c d a) always fun v s =>
    if a = 7 then .pair v.em d (v.grp.keyOf ·) else if a = 8 then .pair v.em d (v.grp.ctrOf ·)
    else .uni d (groupReg v s a.toNat) := by
  intro s v h room _
  have free : (useSrd c d a).orph = .free := rfl
  rw [followed_free free]
  change ∃ t, perform (useSrd c d a) (srdBody d a) s = .next t ∧ _
  by_cases h7 : a = 7
  · subst h7
    rw [srdBody_key]
    exact wrote_lane64 d _ free h room
  by_cases h8 : a = 8
  · subst h8
    rw [srdBody_ctr]
    exact wrote_lane64 d _ free h room
  simp only [h7, h8, ↓reduceIte]
  exact wrote_of_team h room free (srdBody_group h6 h7 h8) (fun t _ => Team.modGroup_local t _ _ fun x _ => x.sset_keeps _ _)
    fun t _ => .of_sset t _ _ _

/-- The lanes follow a confirmed hypothesis, and the group keeps its room (05 R139). -/
theorem Room.followLanes {part : Nat} {m : Lanes} (room : Room s v) :
    ∃ z, (s.followLanes v.r part m).group? v.r = some z ∧ (dropEntry z.frontier v.e).length + z.aside.length < 8 := by
  obtain ⟨y, hy, hroom⟩ := room.group
  have kept := (SameRoom.followLanes (r := v.r) (e := v.e) (s := s) (part := part) (m := m)).standing
  rw [hy] at kept
  obtain ⟨z, hz, hzy⟩ := Option.map_eq_some_iff.1 kept
  exact ⟨z, hz, hzy.trans_lt hroom⟩

/-- `srd hyp` gives the hypotheses that the lanes hold once they have followed. -/
theorem wrote_srdHyp (h : Issues (useSrd c d 6) s v) (room : Room s v) : ∃ t, exec (.srd c d 6) s = .next t ∧
    Wrote v.r (.lanes v.em d fun l => BitVec.ofNat 32 (((s.part? v.part).map fun p => p.follow (v.grp.hypOf l)).getD (v.grp.hypOf l)))
      (s.followLanes v.r v.part v.em) t := by
  obtain ⟨z, hz, hroom⟩ := room.followLanes (part := v.part) (m := v.em)
  change ∃ t, perform (useSrd c d 6) (srdBody d 6) s = .next t ∧ _
  rw [perform_issues _ h, followed_free rfl]
  refine ⟨_, rfl, wrote_of_finish room.limit (exec_mask h.env h.active) hz hroom (fun t _ => Team.vset_local t _ _ _ _) fun t ht => ?_⟩
  refine .of_vset t _ _ _ _ ?_
  unfold State.group? at hz
  rw [ht] at hz
  exact Option.isSome_of_eq_some hz

theorem swrBody_trapv : swrBody 1 a v s = .done (s.modGroup v.r fun x => { x with trapv := v.usrc a }) := rfl

theorem swrBody_status : swrBody 3 a v s = .done (s.modGroup v.r fun x => { x with status := v.usrc a &&& 0x11F }) := rfl

end

/-! ### `ient` (10 R272), `sleep` (10 R277) and `regroup` (07 R198) -/

section
variable {a : BitVec 7} {v : Env} {s : State} {y : Group}

/-- V of IDEM is cleared. -/
theorem not_bit63 : ~~~(1#64 <<< 63) = 0x7FFF_FFFF_FFFF_FFFF := by decide

theorem ientBody_records {e : FEntry} (hy : s.group? v.r = some y) (hh : y.handler = none) (hf : y.frontier = [e]) (ha : y.aside = [])
    (hg : e.gmask = 0) : ientBody v s = .done (s.modGroup v.r fun x =>
      { x with idem := idemOf v (x.frontier.headD v.e)
               idemKey := (lanesOf v.em).foldl (fun t l => t.set 0 l (v.grp.keyOf l)) x.idemKey
               idemCtr := (lanesOf v.em).foldl (fun t l => t.set 0 l (v.grp.ctrOf l)) x.idemCtr }) := by
  unfold ientBody
  congr 1
  refine State.modGroup_congr _ _ _ _ y hy ?_
  simp only [hh, hf, ha, hg, ↓reduceIte, List.headD_cons, idemOf, Env.lanes]

theorem ientBody_clears (hy : s.group? v.r = some y)
    (h : ¬(y.handler = none ∧ y.aside = [] ∧ y.frontier.length = 1 ∧ ∀ e ∈ y.frontier, e.gmask = 0)) :
    ientBody v s = .done (s.modGroup v.r fun x => { x with idem := x.idem &&& 0x7FFF_FFFF_FFFF_FFFF }) := by
  unfold ientBody
  congr 1
  refine State.modGroup_congr _ _ _ _ y hy ?_
  rw [← not_bit63]
  split
  next e hh hf ha =>
    have hg : e.gmask ≠ 0 := fun hg => h ⟨hh, ha, by simp [hf], by simp [hf, hg]⟩
    rw [if_neg hg]
  next => rfl

theorem sleepBody_zero (h : v.usrc a = 0) : sleepBody a v s = .done s := by
  unfold sleepBody
  rw [h]
  rfl

theorem sleepBody_sleeps (h : v.usrc a ≠ 0) : sleepBody a v s =
    .done ((s.modGroup v.r fun x => { x with wait := .sleep (s.cycle + min (v.usrc a).toNat (2 ^ 24)) }).post (.sleepExpire v.r)) := by
  have pos : 0 < (v.usrc a).toNat := Nat.pos_of_ne_zero fun z => h (BitVec.eq_of_toNat_eq z)
  have some_ : Nat.min (v.usrc a).toNat (2 ^ 24) ≠ 0 := (Nat.lt_min.2 ⟨pos, Nat.two_pow_pos 24⟩).ne'
  unfold sleepBody
  exact if_neg some_

theorem regroupBody_waits (hm : v.em = ~~~(liveGroup v s).exited) (hr : s.released v 2 = true) : regroupBody a v s =
    .busy (((s.modTeam v.r fun t => { t with regroupKeys := keysAt v a t.regroupKeys }).modGroup v.r fun x =>
      { x with wait := .regroup, idem := x.idem &&& 0x7FFF_FFFF_FFFF_FFFF }).postOnce (.regroupComplete v.r.core v.r.slot)) := by
  have keys : ∀ k : Tbl Nat, v.lanes.foldl (fun k l => k.set 0 (32 * v.r.grp + l) ((v.src a l).toNat % 256 + 1)) k = keysAt v a k :=
    fun k => by simp [keysAt, Env.lanes]
  have live : ¬v.em ≠ (liveGroup v s).live := not_not.2 hm
  unfold regroupBody
  rw [if_neg live, releaseThen_of_released hr, ← not_bit63]
  simp only [keys]

end

/-! ### `trap` and `bkpt` (10 R271) -/

/-- A word that raises a trap of its own once, of a class of 16 or more, outside a chain. -/
theorem perform_trap_taken {u : Use} {body : Env → State → Res} {s : State} {v : Env} {t : Trap} (h : Issues u s v) (free : u.orph = .free)
    (hb : body v s = .trap t) (hl : t.lane = none) (ho : u.once = true) (hc : 16 ≤ t.cls) (hs : s.snap = none) :
    perform u body s = .next
      { s.takeTrap v.r t ⟨v.entry s, v.em, v.em, v.pc, v.pc + 4, true, none⟩ with note := .performed, ofs := 0 } := by
  have all : (if t.cls ≥ 16 then v.em else 0) = v.em := if_pos hc
  rw [perform_issues body h, followed_free free, hb]
  simp only [settle, raise, hl, hs, ho, all, Option.isSome_none, Bool.false_eq_true, ↓reduceIte]

/-- Inside a chain the trap is noted (15 R407). -/
theorem perform_trap_noted {u : Use} {body : Env → State → Res} {s : State} {v : Env} {t : Trap} (h : Issues u s v) (free : u.orph = .free)
    (hb : body v s = .trap t) (hl : t.lane = none) (hs : s.snap ≠ none) :
    perform u body s = .next { s with note := .stops 3 t } := by
  rw [perform_issues body h, followed_free free, hb]
  simp only [settle, raise, hl, Option.isSome_iff_ne_none.2 hs, ↓reduceIte]

end Sys2Proof.Machine
end

section
/-! The obligations. -/

open Sys2Proof Sys2Proof.Machine

/-- Settles O16: `srd` writes the register that its A names; for HYP the state is that in which the lanes have followed. -/
theorem systemRegisters : Obligations.SystemRegisters :=
  ⟨fun _ _ _ h6 => completes_srd h6, fun _ _ _ _ h room => wrote_srdHyp h room,
    fun _ _ => does_of_perform (fun _ => rfl) (fun _ _ _ => swrBody_trapv) fun _ _ => .modGroup fun _ => rfl,
    fun _ _ => does_of_perform (fun _ => rfl) (fun _ _ _ => swrBody_status) fun _ _ => .modGroup fun _ => rfl⟩

/-- Settles O19: each word changes its own group and team, where the statement's condition picks the branch of its effect. V is cleared in
handler mode too, the model's own choice (log entry 17, DEDUCED). -/
theorem groupControl : Obligations.GroupControl := by
  refine ⟨?records, ?clears, fun c a => ?zero, fun c a => ?sleeps, fun a => ?regroup⟩
  case records =>
    refine does_of_perform (fun _ => rfl) (fun v s ⟨y, e, hy, hh, hf, ha, hg⟩ => ientBody_records hy hh hf ha hg) fun v _ =>
      .modGroup fun x => ?_
    unfold Group.standing
    rfl
  case clears => exact does_of_perform (fun _ => rfl) (fun v s ⟨y, hy, h⟩ => ientBody_clears hy h) fun _ _ => .modGroup fun _ => rfl
  case zero => exact does_of_perform (fun _ => rfl) (fun v s h => sleepBody_zero h) fun _ _ => .refl
  case sleeps =>
    refine does_of_perform (fun _ => rfl) (fun v s h => sleepBody_sleeps h) fun _ _ => SameRoom.trans ?_ .post
    exact .modGroup fun _ => rfl
  case regroup => exact holds_of_perform (fun _ => rfl) fun v s ⟨hm, hr⟩ => regroupBody_waits hm hr

/-- Settles O24: the trap is raised at issue, for all active lanes at once. -/
theorem trapWords : Obligations.TrapWords := by
  intro n k hk s v h t
  obtain rfl | rfl : k = (.trap n, 16) ∨ k = (.bkpt n, 17) := by simpa using hk
  · exact ⟨perform_trap_taken h rfl rfl rfl rfl (Nat.le_refl 16), perform_trap_noted h rfl rfl rfl⟩
  · exact ⟨perform_trap_taken h rfl rfl rfl rfl (Nat.le_succ 16), perform_trap_noted h rfl rfl rfl⟩

end

section
/-! # `mcall` (O41)

The answer of the queue is that of R384, and a packet that it takes is written to root memory, where no group stands. -/

namespace Sys2Proof.Machine

/-- A word that issues with room is over once its effect is done, if the effect leaves the number of its group's entries. -/
theorem ended_of_standing {u : Use} {s s1 : State} {v : Env} {body : Env → State → Res} (h : Issues u s v) (room : Room s v)
    (free : u.orph = .free) (hb : body v s = .done s1)
    (k : (s1.group? v.r).map (Group.standing v.e) = (s.group? v.r).map (Group.standing v.e)) :
    ∃ t, perform u body s = .next t ∧ Ended v.r s1 t := by
  obtain ⟨y, hy, hroom⟩ := room.group
  rw [hy] at k
  obtain ⟨z, hz, hzy⟩ := Option.map_eq_some_iff.1 k
  obtain ⟨o, f, hs, he⟩ := finish_next (u := u) room.limit hz (exec_mask h.env h.active) (hzy.trans_lt hroom)
  rw [perform_issues body h, followed_free free, hb]
  exact ⟨_, rfl, o, f, hs, he⟩

section
variable {s : State} {v : Env}

/-- The answer, by its causes (14 R384). -/
theorem callAnswer_eq {P : Option Part} {q ty : Nat} [Decidable (P = none ∨ 16 ≤ q ∨ ty = 0 ∨ 8 ≤ ty)]
    [Decidable (∃ p ∈ P, (p.lq q).count = 2 ^ p.lqn)] : callAnswer P q ty =
      if P = none ∨ 16 ≤ q ∨ ty = 0 ∨ 8 ≤ ty then 2 else if ∃ p ∈ P, (p.lq q).count = 2 ^ p.lqn then 1 else 0 := by
  cases P with
  | none => simp [callAnswer]
  | some p => simp [callAnswer]

theorem State.modLq_cores (s : State) (part q : Nat) (f : LQueue → LQueue) : (s.modLq part q f).cores = s.cores :=
  State.modPart_cores ..

/-- A packet that is put changes no core: it goes to root memory, its queue and the pending events. -/
theorem State.putPacket_cores (s : State) (part q x : Nat) : (s.putPacket part q x).cores = s.cores := by
  unfold State.putPacket
  split
  case h_1 => rfl
  case h_2 p _ =>
    have written : (s.agentWrite (p.ringAt q (p.lq q).prod.toNat) 64 x).cores = s.cores := Stored.rootApply.cores
    have counted := State.modLq_cores (s.agentWrite (p.ringAt q (p.lq q).prod.toNat) 64 x) part q fun k => { k with prod := k.prod + 1 }
    exact (Stored.of_posts .serve).cores.trans (counted.trans written)

/-- `mcall` of a whole packet in its window, with every earlier access performed and no poison read. -/
theorem mcallBody_answers {d a b : BitVec 7} (haligned : (v.usrc a).toNat % 64 = 0) (hsize : (v.usrc a).toNat + 64 ≤ v.team.bind.spsize)
    (hqueue : s.queueStorage ⟨v.r.core, v.r.slot, v.team.bind⟩ (v.usrc a).toNat 64 = false) (hreleased : s.released v 6 = true)
    (hsound : s.scratchPoisoned v.r.core 64 (v.team.bind.spbase + (v.usrc a).toNat) = false) : mcallBody d a b v s =
      let x := s.scratchRead v.r.core 64 (v.team.bind.spbase + (v.usrc a).toNat)
      let n := callAnswer (s.part? v.part) (v.usrc b).toNat (x % 256)
      .done ((if n = 0 then s.putPacket v.part (v.usrc b).toNat x else s).modGroup v.r fun g => g.sset d.toNat n) := by
  have inside : ¬v.team.bind.spsize < (v.usrc a).toNat + 64 := Nat.not_lt.2 hsize
  unfold mcallBody
  simp only [haligned, inside, hqueue, releaseThen_of_released hreleased, hsound, ne_eq, not_true_eq_false, decide_false, Bool.or_self,
    Bool.false_eq_true, ↓reduceIte]

/-- `mcall` leaves the number of its group's entries. -/
theorem standing_mcall (e : FEntry) {part q x : Nat} {p : Prop} [Decidable p] {d : BitVec 7} {n : DWord} :
    (((if p then s.putPacket part q x else s).modGroup v.r fun g => g.sset d.toNat n).group? v.r).map (Group.standing e) =
      (s.group? v.r).map (Group.standing e) := by
  have kept : (if p then s.putPacket part q x else s).group? v.r = s.group? v.r := by
    split
    · exact State.group?_of_cores (s.putPacket_cores ..)
    · rfl
  rw [State.group?_modGroup, kept, Option.map_map]
  exact congrArg (Option.map · _) (funext fun g => (g.sset_keeps ..).standing)

end

end Sys2Proof.Machine
end

section
/-! The obligation. -/

open Sys2Proof Sys2Proof.Machine

/-- Settles O41: under the statement's conditions the effect is done, and its answer is that of the queue hardware. -/
theorem queueCall : Obligations.QueueCall := by
  rintro c d a b s v h room ⟨haligned, hsize, hqueue, hreleased, hsound⟩
  dsimp only
  rw [followed_free rfl] at *
  simp only [← callAnswer_eq]
  exact ended_of_standing h room rfl (mcallBody_answers haligned hsize hqueue hreleased hsound) (standing_mcall v.e)

end
